-- ==== Sys2Proof/Word.lean ====
section
/-!
DEFINITION. The widths the manual names (00 R2, R5) and nothing else.
-/
namespace Sys2Proof

/-- A byte, 8 bits (00 R2). -/
abbrev Byte := BitVec 8

/-- A half, 16 bits (00 R2). -/
abbrev Half := BitVec 16

/-- A word, 32 bits (00 R2): a register, an instruction word. -/
abbrev Word := BitVec 32

/-- A pair, 64 bits in an even-aligned pair of registers (00 R2). -/
abbrev Pair := BitVec 64

/-- A register field of an instruction word, v0 to v127 (03 R63). -/
abbrev Reg := BitVec 7

/-- `hi ++ lo`: a pair from its two registers (00 R6, `pair(d)`). -/
def pairOf (lo hi : Word) : Pair := hi ++ lo

/-- Bits 31:0 of a pair. -/
def loWord (p : Pair) : Word := p.setWidth 32

/-- Bits 63:32 of a pair. -/
def hiWord (p : Pair) : Word := (p >>> 32).setWidth 32

end Sys2Proof
end

