-- ==== Sys2Proof/Syntax.lean ====
section
/-!
DEFINITION. The syntax of one step: an instruction word that a strand issues, or an event of another agent.
One constructor per row of spec/opcode_table.json. A row with an encoding carries the fields of its word; a row
without one carries what the event names: the operation, unit, core, die or link concerned, or what the outside
sends. Where two rows share a word (`tlda` and its gather form, `l2wb`), the docstring of the constructor says so.
-/
namespace Sys2Proof

/-- The state of a peer in the routing table (14 R326). -/
inductive PeerState where
  | reachable | held | down
  deriving DecidableEq, Repr

/-- One destination's line of the routing table that Clehild writes (14 R323, R326). -/
structure Route where
  dev : Nat
  minimal : List Nat
  nonMinimal : List Nat
  escape : Option Nat
  state : PeerState
  hops : Nat
  deriving DecidableEq, Repr

/-- A packet: the fields of its header flit (14 R320) and its data bytes, lowest address first. -/
structure Packet where
  dst : Nat
  src : Nat
  vc : Nat
  typ : Nat
  ctag : Nat
  txn : Nat
  len : Nat
  op : Nat
  hops : Nat
  gh : Bool
  addr : Nat
  low : Nat
  rsvd : Nat
  data : List Byte
  deriving DecidableEq, Repr

/-- A flit as a link receives it: its link sequence number, its 64 bytes and the check code of each 32-byte beat
(14 R320, R325; 16 R375). -/
structure Flit where
  seq : Nat
  bits : BitVec 512
  code0 : Half
  code1 : Half
  deriving DecidableEq, Repr

/-- The 16-byte header of a host message (16 R371); `rsvd` holds its reserved bits 18:16. -/
structure MsgHead where
  typ : Nat
  hyp : Bool
  vf : Nat
  rsvd : Nat
  len : Nat
  seq : Nat
  ack : Nat
  epoch : Nat
  deriving DecidableEq, Repr

/-- What a debug request (TYPE 0x30) asks for (16 R379, R369). -/
inductive DebugQuery where
  | table (core : Nat)
  | barrier (unit id : Nat)
  | creel (unit id : Nat)
  | record (core slot : Nat)
  | regs (core slot : Nat)
  | writeReg (core slot : Nat) (r : Reg) (v : Word) (tag : Nat)
  | stopUnit (unit : Nat)
  | resumeUnit (unit : Nat)
  | resumeThread (core slot : Nat)
  | counts
  | state
  | bootLog
  deriving DecidableEq, Repr

/-- Where an uncorrectable error stands (01 R33, 16 R376): in other state of the core, in an entry of its L1 TLB, of its die's L2 TLB or
walk cache, in data at its home that no instruction has consumed, or in data of a place as the die's remote partition or the core's L1 holds
it. -/
inductive ErrorSite where
  | core
  | l1Tlb (i : Nat)
  | l2Tlb (i : Nat)
  | walkCache (i : Nat)
  | data (pa : Nat)
  | remoteData (loc : Nat)
  | l1Data (loc : Nat)
  deriving DecidableEq, Repr

/-- One step of the machine: a word issued by a strand, or an event of another agent. -/
inductive Instr where
  /-- `hk`. Hint that extends the immediate or offset of the target instruction that follows it (R69). -/
  | hk (p : BitVec 24)
  /-- `hx`. Hint that supplies modifier bits and a fourth register c to the target instruction that follows it (R69). -/
  | hx (m : BitVec 17) (c : Reg)
  /-- `hs`. Hint that supplies a cache policy and a scope to the target instruction that follows it (R69). -/
  | hs (p : BitVec 3) (s : BitVec 4)
  /-- `hq`. Hint that supplies a rounding direction, saturation and a tag override to the target instruction that follows it (R69). -/
  | hq (e : BitVec 1) (t : BitVec 4) (s : BitVec 1) (r : BitVec 3)
  /-- Issue of a word that no opcode or sub-field assigns, which raises 0x0101 (R76). -/
  | illegalEncoding
  /-- Issue of a block head word inside a block body, which raises 0x0103 (R66). -/
  | headWordInBody
  /-- `br`. Unconditional branch to a block head at a word offset; ends the block (R109). -/
  | br (o : BitVec 16)
  /-- `br.z`. Branch to a block head when the tested register is zero; ends the block (R109). -/
  | brZ (a : Reg) (o : BitVec 16)
  /-- `br.nz`. Branch to a block head when the tested register is nonzero; ends the block (R109). -/
  | brNz (a : Reg) (o : BitVec 16)
  /-- `br.neg`. Branch to a block head when bit 31 of the tested register is set; ends the block (R109). -/
  | brNeg (a : Reg) (o : BitVec 16)
  /-- `br.nn`. Branch to a block head when bit 31 of the tested register is clear; ends the block (R109). -/
  | brNn (a : Reg) (o : BitVec 16)
  /-- `call`. Call a function entry at a word offset, pushing the return address onto the lane-private call stack (R109). -/
  | call (o : BitVec 16)
  /-- `bx`. Branch to the block head whose address the register pair holds (R109). -/
  | bx (a : Reg)
  /-- `callx`. Call the function entry whose address the register pair holds (R109). -/
  | callx (a : Reg)
  /-- `ret`. Return to the address in the top call-stack frame, or exit when the stack is empty (R109). -/
  | ret
  /-- `exit`. End the thread, leaving its issued operations to complete (R110). -/
  | exit
  /-- `yield`. Leave the strand until every entry holding a ready thread has been offered once (R101). -/
  | yield
  /-- `nop`. Do nothing (R109). -/
  | nop
  /-- `trap`. Park the thread with fault 0x0205 and the trap code in the auxiliary word (R109). -/
  | trap (b : Reg)
  /-- `wait`. Hold the thread until its ld, st, cp and tl counters fall to the given thresholds (R107). -/
  | wait (l : BitVec 4) (s : BitVec 4) (c : BitVec 4) (t : BitVec 4)
  /-- `bar`. Release at core scope, arrive at a named barrier and wait for its instance to complete (R220). -/
  | bar (a : Reg) (i : BitVec 6)
  /-- `bar.arrive`. Release at core scope and arrive at a named barrier without waiting (R220). -/
  | barArrive (a : Reg) (i : BitVec 6)
  /-- `bar.wait`. Wait for the open instance of a named barrier to complete, then acquire at core scope (R220). -/
  | barWait (i : BitVec 6)
  /-- `movi`. Load a sign-extended (or hk-extended) constant into a register with tag INT (R121). -/
  | movi (d : Reg) (i : BitVec 12)
  /-- `movu`. Load a zero-extended (or hk-extended) constant into a register with tag INT (R121). -/
  | movu (d : Reg) (i : BitVec 19)
  /-- `mov`. Copy a register and its tag (R122). -/
  | mov (d : Reg) (a : Reg)
  /-- `sel`. Copy a or b with its tag according to whether the hx register c is nonzero (R122). -/
  | sel (d : Reg) (a : Reg) (b : Reg)
  /-- `movs`. Read a special register into a register or pair; reading $cyc.lo also loads the cycle latch (R123). -/
  | movs (d : Reg) (s : BitVec 7)
  /-- `movsw`. Write a special register; only the T bit of $mode is writable (R124). -/
  | movsw (s : BitVec 7) (a : Reg)
  /-- `tagget`. Write a register's tag code as an INT value (R122). -/
  | tagget (d : Reg) (a : Reg)
  /-- `tagset`. Copy a register and give the copy the tag code in the b field (R122). -/
  | tagset (d : Reg) (a : Reg) (k : BitVec 7)
  /-- `tagchk`. Write 1 if a register's tag equals the b field code, else 0 (R122). -/
  | tagchk (d : Reg) (a : Reg) (k : BitVec 7)
  /-- `bcast`. Broadcast register a of a fixed relative lane to every active lane of the group (R134). -/
  | bcast (d : Reg) (a : Reg) (j : BitVec 7)
  /-- `shfl`. Read register a from the relative lane that register b names (R134). -/
  | shfl (d : Reg) (a : Reg) (b : Reg)
  /-- `shfx`. Read register a from the relative lane that is own lane XOR register b (R134). -/
  | shfx (d : Reg) (a : Reg) (b : Reg)
  /-- `shfup`. Read register a from the relative lane register b below the own lane (R134). -/
  | shfup (d : Reg) (a : Reg) (b : Reg)
  /-- `shfdn`. Read register a from the relative lane register b above the own lane (R134). -/
  | shfdn (d : Reg) (a : Reg) (b : Reg)
  /-- `vote.any`. Write 1 if register a is nonzero in some active lane of the group (R134). -/
  | voteAny (d : Reg) (a : Reg)
  /-- `vote.all`. Write 1 if register a is nonzero in every active lane of the group (R134). -/
  | voteAll (d : Reg) (a : Reg)
  /-- `vote.mask`. Write to a pair the mask of active lanes whose register a is nonzero (R134). -/
  | voteMask (d : Reg) (a : Reg)
  /-- `gred.add`. Integer sum of register a over the active lanes, modulo 2^32 (R134). -/
  | gredAdd (d : Reg) (a : Reg)
  /-- `gred.min`. Signed minimum of register a over the active lanes (R134). -/
  | gredMin (d : Reg) (a : Reg)
  /-- `gred.max`. Signed maximum of register a over the active lanes (R134). -/
  | gredMax (d : Reg) (a : Reg)
  /-- `gred.fadd`. f32 sum of register a over the active lanes in ascending lane order, written to every active lane (R135). -/
  | gredFadd (d : Reg) (a : Reg)
  /-- `gscan.add`. Inclusive integer prefix sum of register a over the active lanes (R134). -/
  | gscanAdd (d : Reg) (a : Reg)
  /-- `gscan.fadd`. Inclusive f32 prefix sum of register a in ascending lane order (R135). -/
  | gscanFadd (d : Reg) (a : Reg)
  /-- `gfirst`. Relative index of the lowest active lane whose register a is nonzero (R134). -/
  | gfirst (d : Reg) (a : Reg)
  /-- `add`. 32-bit integer addition (R125). -/
  | add (d : Reg) (a : Reg) (b : Reg)
  /-- `sub`. 32-bit integer subtraction (R125). -/
  | sub (d : Reg) (a : Reg) (b : Reg)
  /-- `mul`. Low 32 bits of the integer product (R125). -/
  | mul (d : Reg) (a : Reg) (b : Reg)
  /-- `mulh.i`. High 32 bits of the signed product (R125). -/
  | mulhI (d : Reg) (a : Reg) (b : Reg)
  /-- `mulh.n`. High 32 bits of the unsigned product (R125). -/
  | mulhN (d : Reg) (a : Reg) (b : Reg)
  /-- `div.i`. Signed division with fixed results for zero divisor and overflow (R125). -/
  | divI (d : Reg) (a : Reg) (b : Reg)
  /-- `div.n`. Unsigned division, 0xFFFFFFFF for a zero divisor (R125). -/
  | divN (d : Reg) (a : Reg) (b : Reg)
  /-- `rem.i`. Signed remainder with fixed results for zero divisor and overflow (R125). -/
  | remI (d : Reg) (a : Reg) (b : Reg)
  /-- `rem.n`. Unsigned remainder, the dividend for a zero divisor (R125). -/
  | remN (d : Reg) (a : Reg) (b : Reg)
  /-- `min.i`. Signed minimum (R125). -/
  | minI (d : Reg) (a : Reg) (b : Reg)
  /-- `max.i`. Signed maximum (R125). -/
  | maxI (d : Reg) (a : Reg) (b : Reg)
  /-- `min.n`. Unsigned minimum (R125). -/
  | minN (d : Reg) (a : Reg) (b : Reg)
  /-- `max.n`. Unsigned maximum (R125). -/
  | maxN (d : Reg) (a : Reg) (b : Reg)
  /-- `abs`. Signed absolute value (R125). -/
  | abs (d : Reg) (a : Reg)
  /-- `neg`. Two's-complement negation (R125). -/
  | neg (d : Reg) (a : Reg)
  /-- `add64`. 64-bit addition of register pairs (R125). -/
  | add64 (d : Reg) (a : Reg) (b : Reg)
  /-- `sub64`. 64-bit subtraction of register pairs (R125). -/
  | sub64 (d : Reg) (a : Reg) (b : Reg)
  /-- `mulw.i`. Exact signed 64-bit product of two 32-bit sources into a pair (R125). -/
  | mulwI (d : Reg) (a : Reg) (b : Reg)
  /-- `mulw.n`. Exact unsigned 64-bit product of two 32-bit sources into a pair (R125). -/
  | mulwN (d : Reg) (a : Reg) (b : Reg)
  /-- `mad`. Low 32 bits of a times b plus the hx register c (R125). -/
  | mad (d : Reg) (a : Reg) (b : Reg)
  /-- `adds.i`. Signed addition saturated to the i32 range (R125). -/
  | addsI (d : Reg) (a : Reg) (b : Reg)
  /-- `subs.i`. Signed subtraction saturated to the i32 range (R125). -/
  | subsI (d : Reg) (a : Reg) (b : Reg)
  /-- `and`. Bitwise and (R126). -/
  | and (d : Reg) (a : Reg) (b : Reg)
  /-- `or`. Bitwise or (R126). -/
  | or (d : Reg) (a : Reg) (b : Reg)
  /-- `xor`. Bitwise exclusive or (R126). -/
  | xor (d : Reg) (a : Reg) (b : Reg)
  /-- `andn`. a and not b (R126). -/
  | andn (d : Reg) (a : Reg) (b : Reg)
  /-- `not`. Bitwise complement (R126). -/
  | not (d : Reg) (a : Reg)
  /-- `shl`. Logical shift left by an unmasked amount (R126). -/
  | shl (d : Reg) (a : Reg) (b : Reg)
  /-- `shr`. Logical shift right by an unmasked amount (R126). -/
  | shr (d : Reg) (a : Reg) (b : Reg)
  /-- `sha`. Arithmetic shift right by an unmasked amount (R126). -/
  | sha (d : Reg) (a : Reg) (b : Reg)
  /-- `rotl`. Rotate left by the amount modulo 32 (R126). -/
  | rotl (d : Reg) (a : Reg) (b : Reg)
  /-- `rotr`. Rotate right by the amount modulo 32 (R126). -/
  | rotr (d : Reg) (a : Reg) (b : Reg)
  /-- `bfe.n`. Extract a bit field, zero-extended (R127). -/
  | bfeN (d : Reg) (a : Reg) (b : Reg)
  /-- `bfe.i`. Extract a bit field, sign-extended (R127). -/
  | bfeI (d : Reg) (a : Reg) (b : Reg)
  /-- `bfi`. Insert b into a bit field of a under the hx control word (R127). -/
  | bfi (d : Reg) (a : Reg) (b : Reg)
  /-- `popc`. Count of one bits (R126). -/
  | popc (d : Reg) (a : Reg)
  /-- `clz`. Count of leading zero bits (R126). -/
  | clz (d : Reg) (a : Reg)
  /-- `ctz`. Count of trailing zero bits (R126). -/
  | ctz (d : Reg) (a : Reg)
  /-- `brev`. Bit reversal (R126). -/
  | brev (d : Reg) (a : Reg)
  /-- `dshl`. High word of the 64-bit left shift of a:b by the hx register (R126). -/
  | dshl (d : Reg) (a : Reg) (b : Reg)
  /-- `dshr`. Low word of the 64-bit logical right shift of a:b by the hx register (R126). -/
  | dshr (d : Reg) (a : Reg) (b : Reg)
  /-- `dsha`. Low word of the 64-bit arithmetic right shift of a:b by the hx register (R126). -/
  | dsha (d : Reg) (a : Reg) (b : Reg)
  /-- `eq`. Write 1 if two 32-bit patterns are equal (R128). -/
  | eq (d : Reg) (a : Reg) (b : Reg)
  /-- `ne`. Write 1 if two 32-bit patterns differ (R128). -/
  | ne (d : Reg) (a : Reg) (b : Reg)
  /-- `lt.i`. Signed less-than compare (R128). -/
  | ltI (d : Reg) (a : Reg) (b : Reg)
  /-- `le.i`. Signed less-or-equal compare (R128). -/
  | leI (d : Reg) (a : Reg) (b : Reg)
  /-- `lt.n`. Unsigned less-than compare (R128). -/
  | ltN (d : Reg) (a : Reg) (b : Reg)
  /-- `le.n`. Unsigned less-or-equal compare (R128). -/
  | leN (d : Reg) (a : Reg) (b : Reg)
  /-- `eq64`. Write 1 if two 64-bit pair patterns are equal (R128). -/
  | eq64 (d : Reg) (a : Reg) (b : Reg)
  /-- `ne64`. Write 1 if two 64-bit pair patterns differ (R128). -/
  | ne64 (d : Reg) (a : Reg) (b : Reg)
  /-- `lt64.i`. Signed 64-bit less-than compare of pairs (R128). -/
  | lt64I (d : Reg) (a : Reg) (b : Reg)
  /-- `lt64.n`. Unsigned 64-bit less-than compare of pairs (R128). -/
  | lt64N (d : Reg) (a : Reg) (b : Reg)
  /-- `lea`. Form a 64-bit address from a base pair plus a sign-extended shifted index (R129). -/
  | lea (d : Reg) (a : Reg) (b : Reg) (s : BitVec 3)
  /-- `lea.n`. Form a 64-bit address from a base pair plus a zero-extended shifted index (R129). -/
  | leaN (d : Reg) (a : Reg) (b : Reg) (s : BitVec 3)
  /-- `addi`. Add an immediate (R130). -/
  | addi (d : Reg) (a : Reg) (i : BitVec 12)
  /-- `andi`. Bitwise and with an immediate (R130). -/
  | andi (d : Reg) (a : Reg) (i : BitVec 12)
  /-- `ori`. Bitwise or with an immediate (R130). -/
  | ori (d : Reg) (a : Reg) (i : BitVec 12)
  /-- `xori`. Bitwise exclusive or with an immediate (R130). -/
  | xori (d : Reg) (a : Reg) (i : BitVec 12)
  /-- `shi.shl`. Logical shift left by an immediate amount (R131). -/
  | shiShl (d : Reg) (a : Reg) (n : BitVec 5)
  /-- `shi.shr`. Logical shift right by an immediate amount (R131). -/
  | shiShr (d : Reg) (a : Reg) (n : BitVec 5)
  /-- `shi.sha`. Arithmetic shift right by an immediate amount (R131). -/
  | shiSha (d : Reg) (a : Reg) (n : BitVec 5)
  /-- `shi.rotl`. Rotate left by an immediate amount (R131). -/
  | shiRotl (d : Reg) (a : Reg) (n : BitVec 5)
  /-- `cmpi.eq`. Compare equal with a sign-extended immediate (R131). -/
  | cmpiEq (d : Reg) (a : Reg) (v : BitVec 9)
  /-- `cmpi.ne`. Compare not-equal with a sign-extended immediate (R131). -/
  | cmpiNe (d : Reg) (a : Reg) (v : BitVec 9)
  /-- `cmpi.lt.i`. Signed less-than compare with an immediate (R131). -/
  | cmpiLtI (d : Reg) (a : Reg) (v : BitVec 9)
  /-- `cmpi.le.i`. Signed less-or-equal compare with an immediate (R131). -/
  | cmpiLeI (d : Reg) (a : Reg) (v : BitVec 9)
  /-- `cmpi.lt.n`. Unsigned less-than compare with a zero-extended immediate (R131). -/
  | cmpiLtN (d : Reg) (a : Reg) (v : BitVec 9)
  /-- `cmpi.le.n`. Unsigned less-or-equal compare with a zero-extended immediate (R131). -/
  | cmpiLeN (d : Reg) (a : Reg) (v : BitVec 9)
  /-- `muli`. Low 32 bits of the product with an immediate (R130). -/
  | muli (d : Reg) (a : Reg) (i : BitVec 12)
  /-- `leai`. Add a sign-extended immediate to a 64-bit address pair (R130). -/
  | leai (d : Reg) (a : Reg) (i : BitVec 12)
  /-- `fadd`. f32 addition, rounded (R144). -/
  | fadd (d : Reg) (a : Reg) (b : Reg)
  /-- `fsub`. f32 subtraction, rounded (R144). -/
  | fsub (d : Reg) (a : Reg) (b : Reg)
  /-- `fmul`. f32 multiplication, rounded (R144). -/
  | fmul (d : Reg) (a : Reg) (b : Reg)
  /-- `fma`. f32 fused multiply-add into d with one rounding (R144). -/
  | fma (d : Reg) (a : Reg) (b : Reg)
  /-- `fmin`. f32 minimumNumber (R145). -/
  | fmin (d : Reg) (a : Reg) (b : Reg)
  /-- `fmax`. f32 maximumNumber (R145). -/
  | fmax (d : Reg) (a : Reg) (b : Reg)
  /-- `fabs`. Clear the f32 sign bit (R144). -/
  | fabs (d : Reg) (a : Reg)
  /-- `fneg`. Invert the f32 sign bit (R144). -/
  | fneg (d : Reg) (a : Reg)
  /-- `fcmp.eq`. IEEE ordered equality compare of f32 values (R144). -/
  | fcmpEq (d : Reg) (a : Reg) (b : Reg)
  /-- `fcmp.lt`. IEEE ordered less-than compare of f32 values (R144). -/
  | fcmpLt (d : Reg) (a : Reg) (b : Reg)
  /-- `fcmp.le`. IEEE ordered less-or-equal compare of f32 values (R144). -/
  | fcmpLe (d : Reg) (a : Reg) (b : Reg)
  /-- `fcmp.un`. Write 1 if either f32 operand is a NaN (R144). -/
  | fcmpUn (d : Reg) (a : Reg) (b : Reg)
  /-- `fclass`. Write the one-hot class mask of an f32 value (R146). -/
  | fclass (d : Reg) (a : Reg)
  /-- `frnd`. Round an f32 value to an integral value in the direction rnd (R144). -/
  | frnd (d : Reg) (a : Reg)
  /-- `frcp`. Correctly rounded f32 reciprocal (R144). -/
  | frcp (d : Reg) (a : Reg)
  /-- `frsq`. Correctly rounded f32 reciprocal square root (R144). -/
  | frsq (d : Reg) (a : Reg)
  /-- `fsqrt`. Correctly rounded f32 square root (R144). -/
  | fsqrt (d : Reg) (a : Reg)
  /-- `fexp2`. Correctly rounded f32 power of two (R144). -/
  | fexp2 (d : Reg) (a : Reg)
  /-- `flog2`. Correctly rounded f32 base-2 logarithm (R144). -/
  | flog2 (d : Reg) (a : Reg)
  /-- `fdiv`. Correctly rounded f32 division (R144). -/
  | fdiv (d : Reg) (a : Reg) (b : Reg)
  /-- `dadd`. f64 addition of pairs, rounded (R147). -/
  | dadd (d : Reg) (a : Reg) (b : Reg)
  /-- `dsub`. f64 subtraction of pairs, rounded (R147). -/
  | dsub (d : Reg) (a : Reg) (b : Reg)
  /-- `dmul`. f64 multiplication of pairs, rounded (R147). -/
  | dmul (d : Reg) (a : Reg) (b : Reg)
  /-- `dfma`. f64 fused multiply-add into pair d with one rounding (R147). -/
  | dfma (d : Reg) (a : Reg) (b : Reg)
  /-- `dmin`. f64 minimumNumber (R147). -/
  | dmin (d : Reg) (a : Reg) (b : Reg)
  /-- `dmax`. f64 maximumNumber (R147). -/
  | dmax (d : Reg) (a : Reg) (b : Reg)
  /-- `dcmp.eq`. f64 ordered equality compare (R147). -/
  | dcmpEq (d : Reg) (a : Reg) (b : Reg)
  /-- `dcmp.lt`. f64 ordered less-than compare (R147). -/
  | dcmpLt (d : Reg) (a : Reg) (b : Reg)
  /-- `dcmp.le`. f64 ordered less-or-equal compare (R147). -/
  | dcmpLe (d : Reg) (a : Reg) (b : Reg)
  /-- `ddiv`. Correctly rounded f64 division (R147). -/
  | ddiv (d : Reg) (a : Reg) (b : Reg)
  /-- `dsqrt`. Correctly rounded f64 square root (R147). -/
  | dsqrt (d : Reg) (a : Reg)
  /-- `hadd`. Element-wise f16 addition of packed pairs (R148). -/
  | hadd (d : Reg) (a : Reg) (b : Reg)
  /-- `hmul`. Element-wise f16 multiplication (R148). -/
  | hmul (d : Reg) (a : Reg) (b : Reg)
  /-- `hfma`. Element-wise f16 fused multiply-add into d (R148). -/
  | hfma (d : Reg) (a : Reg) (b : Reg)
  /-- `hmin`. Element-wise f16 minimumNumber (R148). -/
  | hmin (d : Reg) (a : Reg) (b : Reg)
  /-- `hmax`. Element-wise f16 maximumNumber (R148). -/
  | hmax (d : Reg) (a : Reg) (b : Reg)
  /-- `badd`. Element-wise bf16 addition (R148). -/
  | badd (d : Reg) (a : Reg) (b : Reg)
  /-- `bmul`. Element-wise bf16 multiplication (R148). -/
  | bmul (d : Reg) (a : Reg) (b : Reg)
  /-- `bfma`. Element-wise bf16 fused multiply-add into d (R148). -/
  | bfma (d : Reg) (a : Reg) (b : Reg)
  /-- `bmin`. Element-wise bf16 minimumNumber (R148). -/
  | bmin (d : Reg) (a : Reg) (b : Reg)
  /-- `bmax`. Element-wise bf16 maximumNumber (R148). -/
  | bmax (d : Reg) (a : Reg) (b : Reg)
  /-- `hdot`. Add both f16 element products to an f32 accumulator, element 0 first (R149). -/
  | hdot (d : Reg) (a : Reg) (b : Reg)
  /-- `bdot`. Add both bf16 element products to an f32 accumulator, element 0 first (R149). -/
  | bdot (d : Reg) (a : Reg) (b : Reg)
  /-- `cvt.f32.i32`. Convert i32 to f32, rounded (R150). -/
  | cvtF32I32 (d : Reg) (a : Reg)
  /-- `cvt.f32.n32`. Convert n32 to f32, rounded (R150). -/
  | cvtF32N32 (d : Reg) (a : Reg)
  /-- `cvt.i32.f32`. Convert f32 to i32 in the direction rnd, saturating (R150). -/
  | cvtI32F32 (d : Reg) (a : Reg)
  /-- `cvt.n32.f32`. Convert f32 to n32 in the direction rnd, saturating (R150). -/
  | cvtN32F32 (d : Reg) (a : Reg)
  /-- `cvt.f64.f32`. Convert f32 to f64 exactly (R150). -/
  | cvtF64F32 (d : Reg) (a : Reg)
  /-- `cvt.f32.f64`. Convert f64 to f32, rounded (R150). -/
  | cvtF32F64 (d : Reg) (a : Reg)
  /-- `cvt.h2.f32`. Pack two f32 values into an f16 pair, rounded (R150). -/
  | cvtH2F32 (d : Reg) (a : Reg) (b : Reg)
  /-- `cvt.b2.f32`. Pack two f32 values into a bf16 pair, rounded (R150). -/
  | cvtB2F32 (d : Reg) (a : Reg) (b : Reg)
  /-- `cvt.f32.h2lo`. Widen f16 element 0 to f32 exactly (R150). -/
  | cvtF32H2lo (d : Reg) (a : Reg)
  /-- `cvt.f32.h2hi`. Widen f16 element 1 to f32 exactly (R150). -/
  | cvtF32H2hi (d : Reg) (a : Reg)
  /-- `cvt.f32.b2lo`. Widen bf16 element 0 to f32 exactly (R150). -/
  | cvtF32B2lo (d : Reg) (a : Reg)
  /-- `cvt.f32.b2hi`. Widen bf16 element 1 to f32 exactly (R150). -/
  | cvtF32B2hi (d : Reg) (a : Reg)
  /-- `cvt.f64.i32`. Convert i32 to f64 exactly (R150). -/
  | cvtF64I32 (d : Reg) (a : Reg)
  /-- `cvt.i32.f64`. Convert f64 to i32 in the direction rnd, saturating (R150). -/
  | cvtI32F64 (d : Reg) (a : Reg)
  /-- `cvt.f32.cq`. Convert a cq32 value of the current field to f32 (R150). -/
  | cvtF32Cq (d : Reg) (a : Reg)
  /-- `cvt.cq.f32`. Convert f32 to a cq32 count of the current field, clamped (R150). -/
  | cvtCqF32 (d : Reg) (a : Reg)
  /-- `qnt`. Quantise one f32 element to an LNS6 code under a block scale (R155). -/
  | qnt (d : Reg) (a : Reg) (b : Reg)
  /-- `dqnt`. Turn an LNS6 code and block scale into f32 (R156). -/
  | dqnt (d : Reg) (a : Reg) (b : Reg)
  /-- `lpack`. Shift a new LNS6 code into an L5 word from the top (R157). -/
  | lpack (d : Reg) (a : Reg) (b : Reg)
  /-- `lunpk`. Extract code i of an L5 word (R157). -/
  | lunpk (d : Reg) (a : Reg) (i : BitVec 7)
  /-- `lscale`. Choose a block-scale exponent from the block's largest magnitude (R154). -/
  | lscale (d : Reg) (a : Reg)
  /-- `ldot`. Add five LNS6 products to an f32 accumulator in ascending code position (R159). -/
  | ldot (d : Reg) (a : Reg) (b : Reg)
  /-- `lmul`. Multiply five LNS6 code pairs position by position (R158). -/
  | lmul (d : Reg) (a : Reg) (b : Reg)
  /-- `ld`. Load 1 to 8 bytes from a space into a register or pair, marking it pending (R174). -/
  | ld (d : Reg) (a : Reg) (s : BitVec 3) (w : BitVec 3) (o : BitVec 6)
  /-- `st`. Store 1 to 8 bytes of register data to a space (R175). -/
  | st (d : Reg) (a : Reg) (s : BitVec 3) (w : BitVec 3) (o : BitVec 6)
  /-- `ldq.b32`. Load 16 aligned bytes into four registers as one access (R176). -/
  | ldq (d : Reg) (a : Reg) (s : BitVec 3) (o : BitVec 6)
  /-- `stq.b32`. Store four registers as 16 aligned bytes in one access (R176). -/
  | stq (d : Reg) (a : Reg) (s : BitVec 3) (o : BitVec 6)
  /-- `pf`. Prefetch the line holding a global address; never faults after its encoding checks (R177). -/
  | pf (a : Reg) (w : BitVec 3) (o : BitVec 6)
  /-- `ldacq`. Load, then acquire at the hinted scope when the load completes (R178). -/
  | ldacq (d : Reg) (a : Reg) (s : BitVec 3) (w : BitVec 3) (o : BitVec 6)
  /-- `strel`. Wait for earlier operations, release at the hinted scope, then store (R179). -/
  | strel (d : Reg) (a : Reg) (s : BitVec 3) (w : BitVec 3) (o : BitVec 6)
  /-- `fence.acq`. Acquire at a scope (R201). -/
  | fenceAcq (s : BitVec 4)
  /-- `fence.rel`. Release at a scope (R201). -/
  | fenceRel (s : BitVec 4)
  /-- `fence.ar`. Release then acquire at a scope (R201). -/
  | fenceAr (s : BitVec 4)
  /-- `atom.add`. Atomically add to a global word and return the old value (R214). -/
  | atomAdd (d : Reg) (a : Reg) (b : Reg)
  /-- `atom.sub`. Atomically subtract from a global word and return the old value (R214). -/
  | atomSub (d : Reg) (a : Reg) (b : Reg)
  /-- `atom.and`. Atomic bitwise and returning the old value (R214). -/
  | atomAnd (d : Reg) (a : Reg) (b : Reg)
  /-- `atom.or`. Atomic bitwise or returning the old value (R214). -/
  | atomOr (d : Reg) (a : Reg) (b : Reg)
  /-- `atom.xor`. Atomic bitwise exclusive or returning the old value (R214). -/
  | atomXor (d : Reg) (a : Reg) (b : Reg)
  /-- `atom.min.i`. Atomic signed minimum returning the old value (R214). -/
  | atomMinI (d : Reg) (a : Reg) (b : Reg)
  /-- `atom.max.i`. Atomic signed maximum returning the old value (R214). -/
  | atomMaxI (d : Reg) (a : Reg) (b : Reg)
  /-- `atom.min.n`. Atomic unsigned minimum returning the old value (R214). -/
  | atomMinN (d : Reg) (a : Reg) (b : Reg)
  /-- `atom.max.n`. Atomic unsigned maximum returning the old value (R214). -/
  | atomMaxN (d : Reg) (a : Reg) (b : Reg)
  /-- `atom.xchg`. Atomic exchange of a word returning the old value (R214). -/
  | atomXchg (d : Reg) (a : Reg) (b : Reg)
  /-- `atom.incw`. Atomic wrapping increment returning the old value (R214). -/
  | atomIncw (d : Reg) (a : Reg) (b : Reg)
  /-- `atom.decw`. Atomic wrapping decrement returning the old value (R214). -/
  | atomDecw (d : Reg) (a : Reg) (b : Reg)
  /-- `atom.fadd`. Atomic f32 addition rounded to nearest even, returning the old value (R214). -/
  | atomFadd (d : Reg) (a : Reg) (b : Reg)
  /-- `atom.add64`. Atomic 64-bit addition returning the old pair (R214). -/
  | atomAdd64 (d : Reg) (a : Reg) (b : Reg)
  /-- `atom.xchg64`. Atomic 64-bit exchange returning the old pair (R214). -/
  | atomXchg64 (d : Reg) (a : Reg) (b : Reg)
  /-- `atomn.add`. Atomic add without return, counted on st (R214). -/
  | atomnAdd (a : Reg) (b : Reg)
  /-- `atomn.sub`. Atomic subtract without return (R214). -/
  | atomnSub (a : Reg) (b : Reg)
  /-- `atomn.and`. Atomic and without return (R214). -/
  | atomnAnd (a : Reg) (b : Reg)
  /-- `atomn.or`. Atomic or without return (R214). -/
  | atomnOr (a : Reg) (b : Reg)
  /-- `atomn.xor`. Atomic exclusive or without return (R214). -/
  | atomnXor (a : Reg) (b : Reg)
  /-- `atomn.min.i`. Atomic signed minimum without return (R214). -/
  | atomnMinI (a : Reg) (b : Reg)
  /-- `atomn.max.i`. Atomic signed maximum without return (R214). -/
  | atomnMaxI (a : Reg) (b : Reg)
  /-- `atomn.min.n`. Atomic unsigned minimum without return (R214). -/
  | atomnMinN (a : Reg) (b : Reg)
  /-- `atomn.max.n`. Atomic unsigned maximum without return (R214). -/
  | atomnMaxN (a : Reg) (b : Reg)
  /-- `atomn.xchg`. Atomic exchange without return (R214). -/
  | atomnXchg (a : Reg) (b : Reg)
  /-- `atomn.incw`. Atomic wrapping increment without return (R214). -/
  | atomnIncw (a : Reg) (b : Reg)
  /-- `atomn.decw`. Atomic wrapping decrement without return (R214). -/
  | atomnDecw (a : Reg) (b : Reg)
  /-- `atomn.fadd`. Atomic f32 addition without return (R214). -/
  | atomnFadd (a : Reg) (b : Reg)
  /-- `atomn.add64`. Atomic 64-bit addition without return (R214). -/
  | atomnAdd64 (a : Reg) (b : Reg)
  /-- `atomn.xchg64`. Atomic 64-bit exchange without return (R214). -/
  | atomnXchg64 (a : Reg) (b : Reg)
  /-- `cas`. Compare a global word with e and write the hx value n if equal, returning the old word (R216). -/
  | cas (d : Reg) (a : Reg) (b : Reg)
  /-- `cas64`. 64-bit compare and swap returning the old pair (R216). -/
  | cas64 (d : Reg) (a : Reg) (b : Reg)
  /-- `cpy`. Copy a byte range between copy addresses in the background, counted on cp (R223). -/
  | cpy (d : Reg) (a : Reg) (b : Reg)
  /-- `cpy2d`. Copy rows with source and destination strides from the hx registers (R223). -/
  | cpy2d (d : Reg) (a : Reg) (b : Reg)
  /-- `cpyc`. Claim a creel slot and copy one slot's worth of bytes into it (R229). -/
  | cpyc (d : Reg) (a : Reg) (k : BitVec 7)
  /-- `cpyz`. Zero-fill a byte range in the background (R223). -/
  | cpyz (d : Reg) (b : Reg)
  /-- `crinit`. Initialise a creel from a configuration word (R227). -/
  | crinit (a : Reg) (k : BitVec 7)
  /-- `crtake`. Take the filled slot at the front of the claim queue, or wait (R230). -/
  | crtake (d : Reg) (k : BitVec 7)
  /-- `crgive`. Return a taken slot to FREE after earlier loads and copies complete (R230). -/
  | crgive (a : Reg) (k : BitVec 7)
  /-- `crclaim`. Claim a scratch slot for the thread to fill with stores (R229). -/
  | crclaim (d : Reg) (k : BitVec 7)
  /-- `crpost`. Release at core scope and mark a claimed slot FILLED (R229). -/
  | crpost (a : Reg) (k : BitVec 7)
  /-- `crtest`. Write 1 if a crtake would take a slot now (R230). -/
  | crtest (d : Reg) (k : BitVec 7)
  /-- `crstat`. Write the creel status word (R228). -/
  | crstat (d : Reg) (k : BitVec 7)
  /-- `craddr`. Write the address of a creel slot's bytes (R231). -/
  | craddr (d : Reg) (a : Reg) (k : BitVec 7)
  /-- `fsel`. Select the thread's current conserved field (R244). -/
  | fsel (a : Reg)
  /-- `xfer`. Move an exact amount from one cell of the current field to another (R246). -/
  | xfer (d : Reg) (a : Reg) (b : Reg)
  /-- `fld`. Read a cell of the current field at its home (R248). -/
  | fld (d : Reg) (a : Reg)
  /-- `ftot`. Read one or three counters of a die, device or global counter set (R249). -/
  | ftot (d : Reg) (s : BitVec 2) (k : BitVec 3)
  /-- `fdecl`. Install or remove a conserved field from a descriptor (Supervisor) (R250). -/
  | fdecl (a : Reg) (b : Reg)
  /-- `fchk`. Find the lowest cell at or above an index whose excursion count is nonzero (R251). -/
  | fchk (d : Reg) (a : Reg)
  /-- `finfo`. Read a part of the current field's descriptor (R252). -/
  | finfo (d : Reg) (a : Reg) (q : BitVec 7)
  /-- `app`. Reserve 4 bytes at the tail of an append-seal page and write a word there (R267). -/
  | app (d : Reg) (a : Reg) (b : Reg)
  /-- `app64`. Reserve 8 bytes at the tail and write a pair there (R267). -/
  | app64 (d : Reg) (a : Reg) (b : Reg)
  /-- `appq`. Reserve 16 bytes at the tail and write four registers there (R267). -/
  | appq (d : Reg) (a : Reg) (b : Reg)
  /-- `seal`. Wait, release at system scope and seal an OPEN page (R276). -/
  | seal (a : Reg)
  /-- `free`. Reclaim a SEALED page's copies and reopen it empty (R283). -/
  | free (a : Reg)
  /-- `aopen`. Create, reset or remove an append-seal page record (Supervisor) (R285). -/
  | aopen (a : Reg) (b : Reg)
  /-- `atail`. Read the fill mark of an OPEN page or the tail of a SEALED page (R274). -/
  | atail (d : Reg) (a : Reg)
  /-- `astate`. Read a page's status word at the tail slice (R275). -/
  | astate (d : Reg) (a : Reg)
  /-- `tcfg`. Write the group's tile configuration word (R298). -/
  | tcfg (a : Reg)
  /-- `tlda`. Load an A buffer from dense records at a base and stride (R299). -/
  | tlda (d : Reg) (a : Reg) (b : Reg)
  /-- `tlda`. Load A buffer rows from per-lane record addresses given by hx (R299). -/
  | tldaGather (b : Reg)
  /-- `tldb`. Load a B buffer from dense column records at a base and stride (R299). -/
  | tldb (d : Reg) (a : Reg) (b : Reg)
  /-- `tldb`. Load B buffer columns from per-lane record addresses given by hx (R299). -/
  | tldbGather (b : Reg)
  /-- `tmma`. Multiply an A and a B buffer into the masked rows of a tile in ascending K (R302). -/
  | tmma (a : Reg) (b : Reg)
  /-- `tzero`. Clear the selected rows of a tile (R301). -/
  | tzero (b : Reg)
  /-- `tdrain`. Add the rows of a tile into memory as add-on-stores at the homes (R305). -/
  | tdrain (d : Reg) (a : Reg) (b : Reg)
  /-- `tstacc`. Store the rows of a tile to dense rows as ordinary stores (R308). -/
  | tstacc (d : Reg) (a : Reg) (b : Reg)
  /-- `tstacc`. Store tile rows to per-lane addresses given by hx (R308). -/
  | tstaccGather (b : Reg)
  /-- `nput`. Copy bytes to a possibly remote destination, then bump a signal word (R330). -/
  | nput (d : Reg) (a : Reg) (b : Reg)
  /-- `nget`. Copy bytes from a possibly remote source, then bump a signal word (R330). -/
  | nget (d : Reg) (a : Reg) (b : Reg)
  /-- `nred`. Apply source elements to destination elements with a reduction op, then signal (R331). -/
  | nred (d : Reg) (a : Reg) (b : Reg)
  /-- `nstat`. Read a link status, peer state or module word from the module's tables (R333). -/
  | nstat (d : Reg) (a : Reg) (q : BitVec 7)
  /-- `nsig`. Release at system scope and add a value to a signal word (R332). -/
  | nsig (a : Reg) (b : Reg)
  /-- `rfe`. Return from an emulation or fault handler to the faulting word or the one after (R358). -/
  | rfe (k : BitVec 7)
  /-- `frec`. Read a word of the thread's own fault record (R359). -/
  | frec (d : Reg) (k : BitVec 7)
  /-- `unpark`. Resume a parked thread named by a locator (Supervisor) (R360). -/
  | unpark (d : Reg) (a : Reg) (k : BitVec 7)
  /-- `sysget`. Read a word of a system register (Supervisor) (R362). -/
  | sysget (d : Reg) (a : Reg) (n : BitVec 7)
  /-- `sysset`. Wait, then write a word of a system register, checked by that register's rule (R362). -/
  | sysset (d : Reg) (a : Reg) (n : BitVec 7)
  /-- `tlbinv`. Invalidate a context's translations over a range and wait for writes through them (R188). -/
  | tlbinv (d : Reg) (a : Reg) (b : Reg)
  /-- `tlbinva`. Invalidate every translation of a context, or of all contexts in the Hypervisor form (R189). -/
  | tlbinva (a : Reg)
  /-- `l2wb`. With bit 0, every die writes home its remote-partition dirty bytes and deltas (R366). -/
  | l2wbRemotePush (a : Reg)
  /-- `l2wb`. With bit 1, every L2 slice writes its dirty home lines to memory (R366). -/
  | l2wbHomeWriteback (a : Reg)
  /-- `ctxsave`. Save a resident unit of the context to an image and free it (R367). -/
  | ctxsave (d : Reg) (a : Reg) (b : Reg)
  /-- `ctxload`. Restore a unit from a saved image (R368). -/
  | ctxload (d : Reg) (a : Reg) (b : Reg)
  /-- `brk`. Breakpoint: nothing, a debug event, or a park with 0x0206 by debug state (R369). -/
  | brk (k : BitVec 7)
  /-- `lch`. Read a launch descriptor and have Clehild accept or refuse the launch (R340). -/
  | lch (d : Reg) (a : Reg)
  /-- `lcancel`. Cancel a launch, graph, phase or job and everything it contains (R345). -/
  | lcancel (a : Reg)
  /-- `lcnt`. Read an object's done count or status word (R342). -/
  | lcnt (d : Reg) (a : Reg) (q : BitVec 7)
  /-- `lwaitc`. Wait until an object's done count reaches a target, then acquire at system scope (R343). -/
  | lwaitc (a : Reg) (b : Reg)
  /-- `pmreq`. Ask Clehild to pre-empt every resident unit of an object under a latency bound (Supervisor) (R354). -/
  | pmreq (a : Reg) (b : Reg)
  /-- A decoder with a free strand context chooses an entry and takes its ready threads into a strand (R91). -/
  | formStrand (core dec : Nat)
  /-- Each cycle the Weaver moves up to four ready queued threads into the Block Table (R88). -/
  | overflowQueueMove (core : Nat)
  /-- The Weaver spills an entry with no issuable thread to the overflow queue (R89). -/
  | spillEntry (core : Nat)
  /-- A strand whose register reads lost bank arbitration retries its word in the next cycle (R137). -/
  | bankReadRetry (strand : Nat)
  /-- A load's value and tag are written to its destinations and its pending marks clear (R168). -/
  | loadComplete (op : Nat) (bad : Bool)
  /-- A store's bytes reach the scratch array, the issuing die's L2 or the acknowledging peer home (R168). -/
  | storeComplete (op : Nat)
  /-- One word's atomics arrive at their executing place and are applied in ascending lane order (R212). -/
  | atomicBatchArrival (batch : Nat) (bad : Bool)
  /-- An atomic's old value reaches its destination or its result is applied, and its counter falls (R213). -/
  | atomicComplete (op : Nat)
  /-- A pushed or evicted delta arrives at the home and is added there (R206). -/
  | deltaWriteHome (die line : Nat)
  /-- A dirty remote-partition line is evicted and its dirty bytes are written home under their mask (R197). -/
  | remoteEviction (die line : Nat)
  /-- A fence's waits and pushes finish and its thread becomes READY after it (R202). -/
  | fenceComplete (op : Nat)
  /-- A release waiting on a retraining peer link exceeds 2 ms and the context ends with 0x0901 (R203). -/
  | peerReleaseTimeout (op : Nat)
  /-- A queued walk request starts once a walker is free within its context's quota (R187). -/
  | pageWalkStart (die : Nat)
  /-- A walk ends, installing a translation or nothing, and its waiting threads become READY (R187). -/
  | pageWalkComplete (walk : Nat)
  /-- Once every write through removed entries has reached home, remote partitions are pushed and the invalidation completes (R190). -/
  | tlbInvalidateComplete (op : Nat)
  /-- Every byte of a copy stands at its place and cp falls (R225). -/
  | copyComplete (op n : Nat)
  /-- A cpyc blocked for 2^20 cycles puts its creel into overflow mode, capturing the overflow registers (R233). -/
  | creelOverflowEnter (unit k : Nat)
  /-- A unit stalled for 2^24 consecutive cycles has a stall record sent to the host (R234). -/
  | stallRecord (unit : Nat)
  /-- A transfer arrives at its coordinator, which takes the first lock (R253). -/
  | xferCoordinatorRequest (op : Nat)
  /-- A lock request waiting at an NCU obtains a lock entry (R254). -/
  | lockEntryGrant (op : Nat)
  /-- A second-lock request arrives at the higher cell's home, which locks it and returns its content (R253). -/
  | xferSecondLock (op : Nat)
  /-- A commit arrives at the higher cell's home, which applies its change and counter updates and acknowledges (R253). -/
  | xferCommit (op : Nat)
  /-- An unlock arrives at the higher cell's home, which releases it unchanged (R253). -/
  | xferUnlock (op : Nat)
  /-- The acknowledgement arrives at the coordinator, which applies the lower cell's change and releases it (R253). -/
  | xferAcknowledge (op : Nat)
  /-- A transfer's change arrives at a counter set's slice, is applied and acknowledged (R240). -/
  | counterSetUpdate (upd : Nat)
  /-- A transfer's completion reaches the issuing core and st falls, or its fault parks the thread (R247). -/
  | xferComplete (op : Nat)
  /-- A cell read waiting behind a lock is served once the cell is released (R255). -/
  | cellReadServed (op : Nat)
  /-- A global-set read stops waiting for cross-module transfers after 5 µs (R242). -/
  | ftotHoldTimeout (op : Nat)
  /-- fdecl's reads of cells at the homes finish and the field is installed or refused (R250). -/
  | fdeclHomeComplete (op : Nat)
  /-- A batch of appends is served at the tail slice, reserving offsets in lane order (R267). -/
  | appendBatchServe (batch : Nat)
  /-- Reserved append data is written at its line's home and the fill mark advances (R267). -/
  | appendDataWrite (op : Nat)
  /-- A read of an append-seal page is judged against the page record at the tail slice (R271). -/
  | tailReadServe (op : Nat)
  /-- A seal reaches the tail slice and makes the page SEALED or faults (R276). -/
  | sealServe (op : Nat)
  /-- A sealed page's pending writes finish (PW = 0) and the seal completes (R276). -/
  | sealComplete (op : Nat)
  /-- A free reaches the tail slice and makes a SEALED page FREEING (R283). -/
  | freeServe (op : Nat)
  /-- Once PW = 0 the freeing page's home starts reclaiming every replica (R283). -/
  | freeReclaim (op : Nat)
  /-- A reclaim arrives at a die or module, which drops its replica and acknowledges (R280). -/
  | replicaReclaim (page die : Nat)
  /-- A reclaim acknowledgement arrives at the home; the reclaim completes with the last one (R280). -/
  | reclaimAck (page agent : Nat)
  /-- After reclaim, the issuing context's translations and marked lines for the page are removed (R283). -/
  | freeShootdown (op : Nat)
  /-- After the shootdown completes the page becomes OPEN with tail 0 and the free completes (R283). -/
  | freeReopen (op : Nat)
  /-- An aopen control word reaches the tail slice and creates, resets or removes the record (R285). -/
  | aopenServe (op : Nat)
  /-- A sealed line fetched from the home arrives in a die's replica and serves the read (R279). -/
  | replicaFill (op : Nat)
  /-- A pipe starts the earliest-issued ready tile command (R295). -/
  | tileCommandStart (core pipe : Nat)
  /-- A fetched operand block arrives in its buffer and the progress point advances (R299). -/
  | tileBlockArrival (cmd : Nat)
  /-- A tile command retires, freeing its id and entry and making dependents ready (R295). -/
  | tileCommandRetire (cmd : Nat)
  /-- A drained line arrives at its home and is applied, held or faulted by its merge record (R306). -/
  | drainLineArrival (cmd : Nat)
  /-- A held line waiting for a full merge buffer obtains an entry (R307). -/
  | mergeBufferEntryGrant (slice : Nat)
  /-- A request packet arrives at a module, which accepts and performs it or refuses it (R317). -/
  | peerRequestReceive (p : Packet)
  /-- A response packet arrives at the source and completes its request (R327). -/
  | peerResponseReceive (p : Packet)
  /-- A request unanswered for 3 ms is resent, or ends its context after the third send (R327). -/
  | requestResendTimeout (op : Nat)
  /-- A link receives a flit, checks its code and forwards or delivers its packet (R320). -/
  | flitReceive (link : Nat) (f : Flit)
  /-- A returned CUM value arrives in the control sideband and may update FREED (R324). -/
  | allowanceReturn (link pool : Nat) (cum : Half) (good : Bool)
  /-- Every 4,096 flit times a direction sends a resync beat (R324). -/
  | resyncBeatSend (link : Nat)
  /-- A resync beat arrives and updates the allowance counters and far-end identity (R335). -/
  | resyncBeatReceive (link : Nat) (dev plink : Nat) (cums : List Half)
  /-- A packet without adaptive allowance for 256 fabric cycles moves to the escape channel (R323). -/
  | escapeTimeout (txn : Nat)
  /-- A check-code failure, discarded packet or loss of lock sends an UP link to TRAINING (R325). -/
  | linkRetrain (link : Nat)
  /-- A training link locks, becomes UP and replays unacknowledged flits (R325). -/
  | linkLock (link peer plink : Nat)
  /-- A link not locked 2 ms after entering TRAINING becomes DOWN (R325). -/
  | linkTrainingTimeout (link : Nat)
  /-- Once every second Clehild restarts training on each DOWN link (R325). -/
  | linkTrainingRetry
  /-- Clehild rewrites routing tables and peer states change (R323). -/
  | routingTableRewrite (routes : List Route)
  /-- A host management request starts a reconfiguration of the optical switches (R334). -/
  | opticalReconfiguration (links : List Nat) (connect : List Nat)
  /-- A waymark arrives at the far end and is echoed once its channel has drained (R334). -/
  | waymark (link pool : Nat)
  /-- A waymark echo arrives; when all of a link's have echoed it becomes DARK (R334). -/
  | waymarkEcho (link pool : Nat)
  /-- The switches report settled and the affected links start training (R334). -/
  | switchSettled
  /-- A waiting unit is placed on a core that can hold it and initialised (R346). -/
  | placeUnit (slot : Nat)
  /-- A unit whose threads have exited and operations completed ends with a system-scope release (R344). -/
  | unitEnd (unit : Nat)
  /-- Clehild chooses drain, save or flush for a unit and begins it (R351). -/
  | preemptUnit (unit bound : Nat)
  /-- A stopping unit's operations finish and its state is stored and resources freed (R352). -/
  | saveUnitComplete (unit : Nat)
  /-- Clehild places a saved unit again and its threads resume in their saved states (R353). -/
  | restoreUnit (saved : Nat)
  /-- A query of the last delivered SEQ (TYPE 0x01) is answered with the delivery point (R373). -/
  | hostQuery (h : MsgHead)
  /-- A query reply (TYPE 0x02) makes the restarted side resend after the delivery point (R373). -/
  | queryReply (h : MsgHead) (delivered : Word)
  /-- An acknowledgement or refusal (TYPE 0x03) releases logged messages that it covers (R373). -/
  | acknowledgement (h : MsgHead)
  /-- A create message (TYPE 0x10) creates a job, phase or graph (R372). -/
  | createObject (h : MsgHead) (level parent : Word)
  /-- A close message (TYPE 0x11) closes an object to new members (R341). -/
  | closeObject (h : MsgHead) (obj : Word)
  /-- A launch message (TYPE 0x12) carries a descriptor and annex for validation (R372). -/
  | launchMessage (h : MsgHead) (payload : List Word)
  /-- A cancel message (TYPE 0x13) cancels an object (R345). -/
  | cancelMessage (h : MsgHead) (obj : Word)
  /-- A pre-empt message (TYPE 0x14) pre-empts an object's units with a bound (R351). -/
  | preemptMessage (h : MsgHead) (obj bound : Word)
  /-- A message (TYPE 0x15) reads an object's done count and status (R342). -/
  | countReadMessage (h : MsgHead) (obj : Word)
  /-- A hypervisor message (TYPE 0x20) writes or reads a system register (R363). -/
  | systemRegisterMessage (h : MsgHead) (write : Bool) (n : Reg) (sel value : Word)
  /-- A state request (TYPE 0x21) changes the security, debug or power state or is refused (R380). -/
  | stateRequest (h : MsgHead) (want : Word)
  /-- An attestation request (TYPE 0x22) returns a signed quote (R382). -/
  | attestationRequest (h : MsgHead) (nonce : List Byte) (slot : Nat)
  /-- A firmware image (TYPE 0x23) is verified by the boot ROM and accepted or refused (R381). -/
  | firmwareImage (h : MsgHead) (image : List Byte) (version : Nat) (key : List Byte) (r s : BitVec 256)
  /-- A checkpoint or restore message (TYPE 0x24) saves units, writes back L2 and streams memory (R372). `tier` is the tier that the message
  names, with the bytes that it delivers at a restore. -/
  | checkpoint (h : MsgHead) (restore : Bool) (tier : Nat × List (Nat × Byte))
  /-- A debug request (TYPE 0x30) reads or, in Halt, writes thread and unit state (R379). -/
  | debugRequest (h : MsgHead) (q : DebugQuery)
  /-- A message unacknowledged after 1 ms is resent (R373). -/
  | messageResendTimeout
  /-- Clehild's firmware restarts, keeping its log, and sends a query (R373). -/
  | clehildRestart
  /-- The board reset or an Off cycle resets the whole module and increments EPOCH (R392). -/
  | moduleReset
  /-- Every 4 µs the arbiter sends each die a grant and the die adjusts its gating (R377). -/
  | powerGrant (die grant : Nat) (aboveGrant : Bool)
  /-- A die with no grant for 12 µs falls back to 150 W (R377). -/
  | powerGrantTimeout (die : Nat)
  /-- ECC corrects an SRAM soft error and ras.ce counts it (R376). -/
  | softErrorCorrected (die : Nat)
  /-- An uncorrectable error in core state ends the core's contexts, or discards a TLB entry (R376). -/
  | uncorrectableStateError (core : Nat) (site : ErrorSite)
  /-- Write of a core's fairness limit, ignored outside 32 to 65,535 (R364). -/
  | wvFairWrite (op : Nat)
  /-- Write of a context's die-scratchpad window, zero-filling a changed window (R364). -/
  | dsWinWrite (op : Nat)
  /-- Write of a slot's page-table root, context id, GA and V bits (R193). -/
  | trRootWrite (op : Nat)
  /-- Write of a slot's L2 way mask, ignored when zero (R193). -/
  | trWaysWrite (op : Nat)
  /-- Write of a slot's walker quota, checked against the 96-walker total (R193). -/
  | trWalkWrite (op : Nat)
  /-- Write of a programmable scope's control register, recomputing LVL and DIE (R195). -/
  | scopeCtlWrite (op : Nat)
  /-- Write of a word of a programmable scope's mask, recomputing LVL and DIE (R195). -/
  | scopeMaskWrite (op : Nat)
  /-- Write of the context's creel overflow base (R233). -/
  | crOvbaseWrite (op : Nat)
  /-- Write of the context's creel overflow control, ignored for STR outside 6 to 16 (R233). -/
  | crOvctlWrite (op : Nat)
  /-- Write of a die's hamper base, dropping every replica first (R278). -/
  | hpBaseWrite (op : Nat)
  /-- Write of a die's hamper size, dropping every replica first (R278). -/
  | hpSizeWrite (op : Nat)
  /-- Write of a slot's fabric context tag, ignored when it duplicates another valid tag (R316). -/
  | fabCtagWrite (op : Nat)
  /-- Write of a slot's fabric export window, ignored past 2^40 (R316). -/
  | fabExpWrite (op : Nat)
  /-- Write of a slot's creel, lock, tile and Block Table quotas, checked against totals and holdings (R349). -/
  | tenQuotaWrite (op : Nat)
  /-- Write of a word of a slot's granted-core mask, ignored when it empties the mask (R350). -/
  | tenCoresWrite (op : Nat)
  /-- Write to a system register with no behaviour of its own, such as a read-only register, which has no effect (R362). -/
  | registerWrite (op : Nat)
  /-- A link-sequence acknowledgement arrives in the control sideband and frees the acknowledged flits from the sender's replay buffer (R325). -/
  | flitAcknowledgement (link : Nat) (seq : Nat)
  /-- A counter set's acknowledgement of a transfer's update arrives at the cell's home, which may then release the cell (R240). -/
  | counterSetAcknowledgement (upd : Nat)
  /-- A die drops its least recently used replica page of its own accord, which it may do at any time (R281). -/
  | replicaPageDrop (die : Nat)
  /-- Every write-home and write-back of an l2wb has been applied, and the issuer's st falls (R366). -/
  | l2wbComplete (op : Nat)  deriving DecidableEq, Repr

end Sys2Proof
end

