-- ==== Sys2Proof/WellFormed.lean ====
section
/-!
DEFINITION. Which instructions the encoding admits (03 R63, R75, R76 and the entries): even registers where a pair
stands, multiples of 4 where four registers stand, and the legal values of every sub-field. A word that fails one of
these checks is an illegal encoding with 0x0101. Checks that a hint before the word decides (the c register of an hx)
and the budget check are made when the word issues. An event carries no encoding and is always well formed.
-/
namespace Sys2Proof

/-- The register of a pair must be even (03 R63). -/
def even (r : Reg) : Bool := r.toNat % 2 == 0

/-- The register of an operand of four registers must be a multiple of 4 (07 R164, 12 R265). -/
def quad (r : Reg) : Bool := r.toNat % 4 == 0

/-- The special registers whose value is a pair: `$seed` and `$ie.pc` (05 R123). -/
def specialIsPair (n : Reg) : Bool := n.toNat == 16 || n.toNat == 39

/-- The special-register numbers that 05 R123 assigns: 0 to 22 and 32 to 39. -/
def specialAssigned (n : Reg) : Bool := n.toNat ≤ 22 || (32 ≤ n.toNat && n.toNat ≤ 39)

/-- `movs`: an assigned number, and an even d for a pair (05 R122). -/
def specialRead (d n : Reg) : Bool := specialAssigned n && (!specialIsPair n || even d)

/-- `movsw`: an assigned number that is not a pair (05 R122). -/
def specialWritten (n : Reg) : Bool := specialAssigned n && !specialIsPair n

/-- Space, base and width of a load (07 R162, R164): sp 0 to 4, an even base pair for global, an even d for w = 5. -/
def loadForm (d a : Reg) (s w : BitVec 3) : Bool :=
  s.toNat ≤ 4 && w.toNat ≤ 5 && (s.toNat != 0 || even a) && (w.toNat != 5 || even d)

/-- Space, base and width of a store (07 R164): widths 0, 2, 4 and 5. -/
def storeForm (d a : Reg) (s w : BitVec 3) : Bool :=
  loadForm d a s w && w.toNat != 1 && w.toNat != 3

/-- Space, base and data registers of `ldq` and `stq` (07 R164). -/
def quadForm (d a : Reg) (s : BitVec 3) : Bool :=
  s.toNat ≤ 4 && quad d && (s.toNat != 0 || even a)

/-- `finfo`: q 0 to 4, an even d for q = 2 and 4, and a zero a field unless q = 3 (11, encoding table). -/
def infoForm (d a q : Reg) : Bool :=
  q.toNat ≤ 4 && ((q.toNat != 2 && q.toNat != 4) || even d) && (q.toNat == 3 || a == 0)

/-- The encoding admits the instruction. -/
def Instr.wf (i : Instr) : Bool :=
  match i with
  | .hk _ => true
  | .hx _ _ => true
  | .hs p s => p.toNat ≤ 4 && s.toNat ≤ 11
  | .hq e t _ r => r.toNat ≤ 4 && t.toNat ≤ 9 && (e == 1 || t == 0)
  | .illegalEncoding => true
  | .headWordInBody => true
  | .br _ => true
  | .brZ _ _ => true
  | .brNz _ _ => true
  | .brNeg _ _ => true
  | .brNn _ _ => true
  | .call _ => true
  | .bx a => even a
  | .callx a => even a
  | .ret => true
  | .exit => true
  | .yield => true
  | .nop => true
  | .trap _ => true
  | .wait _ _ _ _ => true
  | .bar _ _ => true
  | .barArrive _ _ => true
  | .barWait _ => true
  | .movi _ _ => true
  | .movu _ _ => true
  | .mov _ _ => true
  | .sel _ _ _ => true
  | .movs d s => specialRead d s
  | .movsw s _ => specialWritten s
  | .tagget _ _ => true
  | .tagset _ _ k => k.toNat ≤ 9
  | .tagchk _ _ k => k.toNat ≤ 9
  | .bcast _ _ _ => true
  | .shfl _ _ _ => true
  | .shfx _ _ _ => true
  | .shfup _ _ _ => true
  | .shfdn _ _ _ => true
  | .voteAny _ _ => true
  | .voteAll _ _ => true
  | .voteMask d _ => even d
  | .gredAdd _ _ => true
  | .gredMin _ _ => true
  | .gredMax _ _ => true
  | .gredFadd _ _ => true
  | .gscanAdd _ _ => true
  | .gscanFadd _ _ => true
  | .gfirst _ _ => true
  | .add _ _ _ => true
  | .sub _ _ _ => true
  | .mul _ _ _ => true
  | .mulhI _ _ _ => true
  | .mulhN _ _ _ => true
  | .divI _ _ _ => true
  | .divN _ _ _ => true
  | .remI _ _ _ => true
  | .remN _ _ _ => true
  | .minI _ _ _ => true
  | .maxI _ _ _ => true
  | .minN _ _ _ => true
  | .maxN _ _ _ => true
  | .abs _ _ => true
  | .neg _ _ => true
  | .add64 d a b => even d && even a && even b
  | .sub64 d a b => even d && even a && even b
  | .mulwI d _ _ => even d
  | .mulwN d _ _ => even d
  | .mad _ _ _ => true
  | .addsI _ _ _ => true
  | .subsI _ _ _ => true
  | .and _ _ _ => true
  | .or _ _ _ => true
  | .xor _ _ _ => true
  | .andn _ _ _ => true
  | .not _ _ => true
  | .shl _ _ _ => true
  | .shr _ _ _ => true
  | .sha _ _ _ => true
  | .rotl _ _ _ => true
  | .rotr _ _ _ => true
  | .bfeN _ _ _ => true
  | .bfeI _ _ _ => true
  | .bfi _ _ _ => true
  | .popc _ _ => true
  | .clz _ _ => true
  | .ctz _ _ => true
  | .brev _ _ => true
  | .dshl _ _ _ => true
  | .dshr _ _ _ => true
  | .dsha _ _ _ => true
  | .eq _ _ _ => true
  | .ne _ _ _ => true
  | .ltI _ _ _ => true
  | .leI _ _ _ => true
  | .ltN _ _ _ => true
  | .leN _ _ _ => true
  | .eq64 _ a b => even a && even b
  | .ne64 _ a b => even a && even b
  | .lt64I _ a b => even a && even b
  | .lt64N _ a b => even a && even b
  | .lea d a _ s => even d && even a && s.toNat ≤ 4
  | .leaN d a _ s => even d && even a && s.toNat ≤ 4
  | .addi _ _ _ => true
  | .andi _ _ _ => true
  | .ori _ _ _ => true
  | .xori _ _ _ => true
  | .shiShl _ _ _ => true
  | .shiShr _ _ _ => true
  | .shiSha _ _ _ => true
  | .shiRotl _ _ _ => true
  | .cmpiEq _ _ _ => true
  | .cmpiNe _ _ _ => true
  | .cmpiLtI _ _ _ => true
  | .cmpiLeI _ _ _ => true
  | .cmpiLtN _ _ _ => true
  | .cmpiLeN _ _ _ => true
  | .muli _ _ _ => true
  | .leai d a _ => even d && even a
  | .fadd _ _ _ => true
  | .fsub _ _ _ => true
  | .fmul _ _ _ => true
  | .fma _ _ _ => true
  | .fmin _ _ _ => true
  | .fmax _ _ _ => true
  | .fabs _ _ => true
  | .fneg _ _ => true
  | .fcmpEq _ _ _ => true
  | .fcmpLt _ _ _ => true
  | .fcmpLe _ _ _ => true
  | .fcmpUn _ _ _ => true
  | .fclass _ _ => true
  | .frnd _ _ => true
  | .frcp _ _ => true
  | .frsq _ _ => true
  | .fsqrt _ _ => true
  | .fexp2 _ _ => true
  | .flog2 _ _ => true
  | .fdiv _ _ _ => true
  | .dadd d a b => even d && even a && even b
  | .dsub d a b => even d && even a && even b
  | .dmul d a b => even d && even a && even b
  | .dfma d a b => even d && even a && even b
  | .dmin d a b => even d && even a && even b
  | .dmax d a b => even d && even a && even b
  | .dcmpEq _ a b => even a && even b
  | .dcmpLt _ a b => even a && even b
  | .dcmpLe _ a b => even a && even b
  | .ddiv d a b => even d && even a && even b
  | .dsqrt d a => even d && even a
  | .hadd _ _ _ => true
  | .hmul _ _ _ => true
  | .hfma _ _ _ => true
  | .hmin _ _ _ => true
  | .hmax _ _ _ => true
  | .badd _ _ _ => true
  | .bmul _ _ _ => true
  | .bfma _ _ _ => true
  | .bmin _ _ _ => true
  | .bmax _ _ _ => true
  | .hdot _ _ _ => true
  | .bdot _ _ _ => true
  | .cvtF32I32 _ _ => true
  | .cvtF32N32 _ _ => true
  | .cvtI32F32 _ _ => true
  | .cvtN32F32 _ _ => true
  | .cvtF64F32 d _ => even d
  | .cvtF32F64 _ a => even a
  | .cvtH2F32 _ _ _ => true
  | .cvtB2F32 _ _ _ => true
  | .cvtF32H2lo _ _ => true
  | .cvtF32H2hi _ _ => true
  | .cvtF32B2lo _ _ => true
  | .cvtF32B2hi _ _ => true
  | .cvtF64I32 d _ => even d
  | .cvtI32F64 _ a => even a
  | .cvtF32Cq _ _ => true
  | .cvtCqF32 _ _ => true
  | .qnt _ _ _ => true
  | .dqnt _ _ _ => true
  | .lpack _ _ _ => true
  | .lunpk _ _ i => i.toNat ≤ 4
  | .lscale _ _ => true
  | .ldot _ _ _ => true
  | .lmul _ _ _ => true
  | .ld d a s w _ => loadForm d a s w
  | .st d a s w _ => storeForm d a s w
  | .ldq d a s _ => quadForm d a s
  | .stq d a s _ => quadForm d a s
  | .pf a w _ => even a && w.toNat ≤ 5
  | .ldacq d a s w _ => loadForm d a s w
  | .strel d a s w _ => storeForm d a s w
  | .fenceAcq s => s.toNat ≤ 11
  | .fenceRel s => s.toNat ≤ 11
  | .fenceAr s => s.toNat ≤ 11
  | .atomAdd _ a _ => even a
  | .atomSub _ a _ => even a
  | .atomAnd _ a _ => even a
  | .atomOr _ a _ => even a
  | .atomXor _ a _ => even a
  | .atomMinI _ a _ => even a
  | .atomMaxI _ a _ => even a
  | .atomMinN _ a _ => even a
  | .atomMaxN _ a _ => even a
  | .atomXchg _ a _ => even a
  | .atomIncw _ a _ => even a
  | .atomDecw _ a _ => even a
  | .atomFadd _ a _ => even a
  | .atomAdd64 d a b => even d && even a && even b
  | .atomXchg64 d a b => even d && even a && even b
  | .atomnAdd a _ => even a
  | .atomnSub a _ => even a
  | .atomnAnd a _ => even a
  | .atomnOr a _ => even a
  | .atomnXor a _ => even a
  | .atomnMinI a _ => even a
  | .atomnMaxI a _ => even a
  | .atomnMinN a _ => even a
  | .atomnMaxN a _ => even a
  | .atomnXchg a _ => even a
  | .atomnIncw a _ => even a
  | .atomnDecw a _ => even a
  | .atomnFadd a _ => even a
  | .atomnAdd64 a b => even a && even b
  | .atomnXchg64 a b => even a && even b
  | .cas _ a _ => even a
  | .cas64 d a b => even d && even a && even b
  | .cpy d a _ => even d && even a
  | .cpy2d d a _ => even d && even a
  | .cpyc _ a k => even a && k.toNat ≤ 7
  | .cpyz d _ => even d
  | .crinit _ k => k.toNat ≤ 7
  | .crtake _ k => k.toNat ≤ 7
  | .crgive _ k => k.toNat ≤ 7
  | .crclaim _ k => k.toNat ≤ 7
  | .crpost _ k => k.toNat ≤ 7
  | .crtest _ k => k.toNat ≤ 7
  | .crstat _ k => k.toNat ≤ 7
  | .craddr d _ k => even d && k.toNat ≤ 7
  | .fsel _ => true
  | .xfer _ _ _ => true
  | .fld _ _ => true
  | .ftot d s k => even d && s.toNat ≤ 2 && k.toNat ≤ 5
  | .fdecl _ b => even b
  | .fchk d _ => even d
  | .finfo d a q => infoForm d a q
  | .app _ a _ => even a
  | .app64 _ a b => even a && even b
  | .appq _ a b => even a && quad b
  | .seal a => even a
  | .free a => even a
  | .aopen a _ => even a
  | .atail _ a => even a
  | .astate _ a => even a
  | .tcfg _ => true
  | .tlda _ a _ => even a
  | .tldaGather _ => true
  | .tldb _ a _ => even a
  | .tldbGather _ => true
  | .tmma _ _ => true
  | .tzero _ => true
  | .tdrain _ a _ => even a
  | .tstacc _ a _ => even a
  | .tstaccGather _ => true
  | .nput d a _ => even d && even a
  | .nget d a _ => even d && even a
  | .nred d a _ => even d && even a
  | .nstat _ a q => q.toNat ≤ 2 && (q.toNat != 2 || a == 0)
  | .nsig a _ => even a
  | .rfe k => k.toNat ≤ 1
  | .frec _ k => k.toNat ≤ 7
  | .unpark _ _ k => k.toNat ≤ 1
  | .sysget _ _ n => n.toNat ≤ 17
  | .sysset _ _ n => n.toNat ≤ 17
  | .tlbinv _ a b => even a && even b
  | .tlbinva _ => true
  | .l2wbRemotePush _ => true
  | .l2wbHomeWriteback _ => true
  | .ctxsave _ a _ => even a
  | .ctxload _ a _ => even a
  | .brk _ => true
  | .lch d a => even d && even a
  | .lcancel _ => true
  | .lcnt d _ q => q.toNat ≤ 1 && (q.toNat != 0 || even d)
  | .lwaitc _ b => even b
  | .pmreq _ _ => true
  | .formStrand _ _ => true
  | .overflowQueueMove _ => true
  | .spillEntry _ => true
  | .bankReadRetry _ => true
  | .loadComplete _ _ => true
  | .storeComplete _ => true
  | .atomicBatchArrival _ _ => true
  | .atomicComplete _ => true
  | .deltaWriteHome _ _ => true
  | .remoteEviction _ _ => true
  | .fenceComplete _ => true
  | .peerReleaseTimeout _ => true
  | .pageWalkStart _ => true
  | .pageWalkComplete _ => true
  | .tlbInvalidateComplete _ => true
  | .copyComplete _ _ => true
  | .creelOverflowEnter _ _ => true
  | .stallRecord _ => true
  | .xferCoordinatorRequest _ => true
  | .lockEntryGrant _ => true
  | .xferSecondLock _ => true
  | .xferCommit _ => true
  | .xferUnlock _ => true
  | .xferAcknowledge _ => true
  | .counterSetUpdate _ => true
  | .xferComplete _ => true
  | .cellReadServed _ => true
  | .ftotHoldTimeout _ => true
  | .fdeclHomeComplete _ => true
  | .appendBatchServe _ => true
  | .appendDataWrite _ => true
  | .tailReadServe _ => true
  | .sealServe _ => true
  | .sealComplete _ => true
  | .freeServe _ => true
  | .freeReclaim _ => true
  | .replicaReclaim _ _ => true
  | .reclaimAck _ _ => true
  | .freeShootdown _ => true
  | .freeReopen _ => true
  | .aopenServe _ => true
  | .replicaFill _ => true
  | .tileCommandStart _ _ => true
  | .tileBlockArrival _ => true
  | .tileCommandRetire _ => true
  | .drainLineArrival _ => true
  | .mergeBufferEntryGrant _ => true
  | .peerRequestReceive _ => true
  | .peerResponseReceive _ => true
  | .requestResendTimeout _ => true
  | .flitReceive _ _ => true
  | .allowanceReturn _ _ _ _ => true
  | .resyncBeatSend _ => true
  | .resyncBeatReceive _ _ _ _ => true
  | .escapeTimeout _ => true
  | .linkRetrain _ => true
  | .linkLock _ _ _ => true
  | .linkTrainingTimeout _ => true
  | .linkTrainingRetry => true
  | .routingTableRewrite _ => true
  | .opticalReconfiguration _ _ => true
  | .waymark _ _ => true
  | .waymarkEcho _ _ => true
  | .switchSettled => true
  | .placeUnit _ => true
  | .unitEnd _ => true
  | .preemptUnit _ _ => true
  | .saveUnitComplete _ => true
  | .restoreUnit _ => true
  | .hostQuery _ => true
  | .queryReply _ _ => true
  | .acknowledgement _ => true
  | .createObject _ _ _ => true
  | .closeObject _ _ => true
  | .launchMessage _ _ => true
  | .cancelMessage _ _ => true
  | .preemptMessage _ _ _ => true
  | .countReadMessage _ _ => true
  | .systemRegisterMessage _ _ _ _ _ => true
  | .stateRequest _ _ => true
  | .attestationRequest _ _ _ => true
  | .firmwareImage _ _ _ _ _ _ => true
  | .checkpoint _ _ _ => true
  | .debugRequest _ _ => true
  | .messageResendTimeout => true
  | .clehildRestart => true
  | .moduleReset => true
  | .powerGrant _ _ _ => true
  | .powerGrantTimeout _ => true
  | .softErrorCorrected _ => true
  | .uncorrectableStateError _ _ => true
  | .wvFairWrite _ => true
  | .dsWinWrite _ => true
  | .trRootWrite _ => true
  | .trWaysWrite _ => true
  | .trWalkWrite _ => true
  | .scopeCtlWrite _ => true
  | .scopeMaskWrite _ => true
  | .crOvbaseWrite _ => true
  | .crOvctlWrite _ => true
  | .hpBaseWrite _ => true
  | .hpSizeWrite _ => true
  | .fabCtagWrite _ => true
  | .fabExpWrite _ => true
  | .tenQuotaWrite _ => true
  | .tenCoresWrite _ => true
  | .registerWrite _ => true
  | .flitAcknowledgement _ _ => true
  | .counterSetAcknowledgement _ => true
  | .replicaPageDrop _ => true
  | .l2wbComplete _ => true

end Sys2Proof
end

