-- ==== Sys2Proof/Decode.lean ====
section
/-!
DEFINITION. The decoder and the encoder of instruction words (03 R62 to R76). The decoder is total and rejects by
name. Both are written over the same field layouts: an encoding is the concatenation of its fields, most significant
first, and the decoder cuts the fields out at their bit positions.

The definitions that build an instruction of a high row are marked noncomputable: compiled Lean code cannot hold a
constructor numbered above 244 that carries fields, and the table has 395 rows. The kernel evaluates them.
-/
namespace Sys2Proof

/-- Why a word is no instruction (03 R76). Every one of them raises 0x0101, but for `blockHead` (0x0103, 03 R66). -/
inductive Reject where
  /-- the major opcode is illegal or reserved -/
  | major
  /-- the fn value is not one that the major's row lists -/
  | function
  /-- a zero field is not zero, or a sub-field selects no form -/
  | field
  /-- an odd register in a pair position, or a sub-field value outside its range -/
  | operand
  /-- op 0x3E: a block head word -/
  | blockHead
  deriving DecidableEq, Repr

/-! ### The fields of a word (03 R62) -/

/-- bits 31:26, the major opcode -/
def fOp (w : Word) : BitVec 6 := w.extractLsb' 26 6
/-- bits 25:19 -/
def fD (w : Word) : Reg := w.extractLsb' 19 7
/-- bits 18:12 -/
def fA (w : Word) : Reg := w.extractLsb' 12 7
/-- bits 11:5 -/
def fB (w : Word) : Reg := w.extractLsb' 5 7
/-- bits 4:0 -/
def fFn (w : Word) : BitVec 5 := w.extractLsb' 0 5
/-- XI: bits 11:0 -/
def fImm12 (w : Word) : BitVec 12 := w.extractLsb' 0 12
/-- XL: bits 18:0 -/
def fImm19 (w : Word) : BitVec 19 := w.extractLsb' 0 19
/-- XB: bits 18:16 -/
def fCc (w : Word) : BitVec 3 := w.extractLsb' 16 3
/-- XB: bits 15:0 -/
def fOff16 (w : Word) : BitVec 16 := w.extractLsb' 0 16
/-- XM: bits 11:9 -/
def fSp (w : Word) : BitVec 3 := w.extractLsb' 9 3
/-- XM: bits 8:6 -/
def fWidth (w : Word) : BitVec 3 := w.extractLsb' 6 3
/-- XM: bits 5:0 -/
def fOff6 (w : Word) : BitVec 6 := w.extractLsb' 0 6
/-- XH: bits 25:24 -/
def fKind (w : Word) : BitVec 2 := w.extractLsb' 24 2
/-- XH: bits 23:0 -/
def fPay (w : Word) : BitVec 24 := w.extractLsb' 0 24

/-! ### The formats as concatenations (03 R62) -/

/-- XA -/
def encXA (op : BitVec 6) (d a b : Reg) (fn : BitVec 5) : Word := op ++ d ++ a ++ b ++ fn
/-- XI -/
def encXI (op : BitVec 6) (d a : Reg) (imm : BitVec 12) : Word := op ++ d ++ a ++ imm
/-- XL -/
def encXL (op : BitVec 6) (d : Reg) (imm : BitVec 19) : Word := op ++ d ++ imm
/-- XB -/
def encXB (op : BitVec 6) (a : Reg) (cc : BitVec 3) (off : BitVec 16) : Word := op ++ a ++ cc ++ off
/-- XM -/
def encXM (op : BitVec 6) (d a : Reg) (sp w : BitVec 3) (off : BitVec 6) : Word := op ++ d ++ a ++ sp ++ w ++ off
/-- XH, op 0x01 -/
def encXH (kind : BitVec 2) (pay : BitVec 24) : Word := (0x01 : BitVec 6) ++ kind ++ pay

/-! ### The decoder, one function per major opcode -/

/-- The instruction, provided that the zero fields are zero (00 R11). -/
def fields (ok : Bool) (i : Instr) : Except Reject Instr := if ok then .ok i else .error .field

/-- Major 0x01, the hints (03 R69). -/
def decodeHint (kind : BitVec 2) (pay : BitVec 24) : Except Reject Instr :=
  match kind.toNat with
  | 0 => .ok (.hk pay)
  | 1 => .ok (.hx (pay.extractLsb' 7 17) (pay.extractLsb' 0 7))
  | 2 => fields (pay.extractLsb' 7 17 == 0) (.hs (pay.extractLsb' 4 3) (pay.extractLsb' 0 4))
  | _ => fields (pay.extractLsb' 9 15 == 0)
      (.hq (pay.extractLsb' 8 1) (pay.extractLsb' 4 4) (pay.extractLsb' 3 1) (pay.extractLsb' 0 3))

/-- Major 0x02, `br` (04 R109). -/
def decodeBranch (a : Reg) (cc : BitVec 3) (off : BitVec 16) : Except Reject Instr :=
  match cc.toNat with
  | 0 => fields (a == 0) (.br off)
  | 1 => .ok (.brZ a off)
  | 2 => .ok (.brNz a off)
  | 3 => .ok (.brNeg a off)
  | 4 => .ok (.brNn a off)
  | _ => .error .field

/-- Major 0x06, `bar` (10 R220). -/
def decodeBar (d a : Reg) (imm : BitVec 12) : Except Reject Instr :=
  if imm.extractLsb' 8 4 == 0 && d == 0 then
    match (imm.extractLsb' 6 2).toNat with
    | 0 => .ok (.bar a (imm.extractLsb' 0 6))
    | 1 => .ok (.barArrive a (imm.extractLsb' 0 6))
    | 2 => fields (a == 0) (.barWait (imm.extractLsb' 0 6))
    | _ => .error .field
  else .error .field

/-- Major 0x0F, `lea` (05 R129). -/
def decodeLea (d a b : Reg) (fn : BitVec 5) : Except Reject Instr :=
  if fn.extractLsb' 4 1 == 0 then
    if fn.extractLsb' 3 1 == 0 then .ok (.lea d a b (fn.extractLsb' 0 3))
    else .ok (.leaN d a b (fn.extractLsb' 0 3))
  else .error .field

/-- Major 0x14, `shi` (05 R131). -/
def decodeShi (d a : Reg) (imm : BitVec 12) : Except Reject Instr :=
  if imm.extractLsb' 5 5 == 0 then
    match (imm.extractLsb' 10 2).toNat with
    | 0 => .ok (.shiShl d a (imm.extractLsb' 0 5))
    | 1 => .ok (.shiShr d a (imm.extractLsb' 0 5))
    | 2 => .ok (.shiSha d a (imm.extractLsb' 0 5))
    | _ => .ok (.shiRotl d a (imm.extractLsb' 0 5))
  else .error .field

/-- Major 0x15, `cmpi` (05 R131). -/
def decodeCmpi (d a : Reg) (imm : BitVec 12) : Except Reject Instr :=
  match (imm.extractLsb' 9 3).toNat with
  | 0 => .ok (.cmpiEq d a (imm.extractLsb' 0 9))
  | 1 => .ok (.cmpiNe d a (imm.extractLsb' 0 9))
  | 2 => .ok (.cmpiLtI d a (imm.extractLsb' 0 9))
  | 3 => .ok (.cmpiLeI d a (imm.extractLsb' 0 9))
  | 4 => .ok (.cmpiLtN d a (imm.extractLsb' 0 9))
  | 5 => .ok (.cmpiLeN d a (imm.extractLsb' 0 9))
  | _ => .error .field

/-- Major 0x28, `fence` (09 R201). -/
def decodeFence (d a : Reg) (imm : BitVec 12) : Except Reject Instr :=
  if imm.extractLsb' 6 6 == 0 && d == 0 && a == 0 then
    match (imm.extractLsb' 4 2).toNat with
    | 1 => .ok (.fenceAcq (imm.extractLsb' 0 4))
    | 2 => .ok (.fenceRel (imm.extractLsb' 0 4))
    | 3 => .ok (.fenceAr (imm.extractLsb' 0 4))
    | _ => .error .field
  else .error .field

/-- Major 0x04 (03 R74). -/
def decodeFlow (d a b : Reg) (fn : BitVec 5) : Except Reject Instr :=
  match fn.toNat with
  | 0 => fields (d == 0 && b == 0) (.bx a)
  | 1 => fields (d == 0 && b == 0) (.callx a)
  | 2 => fields (d == 0 && a == 0 && b == 0) .ret
  | 3 => fields (d == 0 && a == 0 && b == 0) .exit
  | 4 => fields (d == 0 && a == 0 && b == 0) .yield
  | 5 => fields (d == 0 && a == 0 && b == 0) .nop
  | 6 => fields (d == 0 && a == 0) (.trap b)
  | _ => .error .function

/-- Major 0x0A (03 R74). -/
def decodeMove (d a b : Reg) (fn : BitVec 5) : Except Reject Instr :=
  match fn.toNat with
  | 0 => fields (b == 0) (.mov d a)
  | 1 => .ok (.sel d a b)
  | 2 => fields (b == 0) (.movs d a)
  | 3 => fields (b == 0) (.movsw d a)
  | 4 => fields (b == 0) (.tagget d a)
  | 5 => .ok (.tagset d a b)
  | 6 => .ok (.tagchk d a b)
  | _ => .error .function

/-- Major 0x0B (03 R74). -/
def decodeLane (d a b : Reg) (fn : BitVec 5) : Except Reject Instr :=
  match fn.toNat with
  | 0 => .ok (.bcast d a b)
  | 1 => .ok (.shfl d a b)
  | 2 => .ok (.shfx d a b)
  | 3 => .ok (.shfup d a b)
  | 4 => .ok (.shfdn d a b)
  | 5 => fields (b == 0) (.voteAny d a)
  | 6 => fields (b == 0) (.voteAll d a)
  | 7 => fields (b == 0) (.voteMask d a)
  | 8 => fields (b == 0) (.gredAdd d a)
  | 9 => fields (b == 0) (.gredMin d a)
  | 10 => fields (b == 0) (.gredMax d a)
  | 11 => fields (b == 0) (.gredFadd d a)
  | 12 => fields (b == 0) (.gscanAdd d a)
  | 13 => fields (b == 0) (.gscanFadd d a)
  | 14 => fields (b == 0) (.gfirst d a)
  | _ => .error .function

/-- Major 0x0C (03 R74). -/
def decodeInteger (d a b : Reg) (fn : BitVec 5) : Except Reject Instr :=
  match fn.toNat with
  | 0 => .ok (.add d a b)
  | 1 => .ok (.sub d a b)
  | 2 => .ok (.mul d a b)
  | 3 => .ok (.mulhI d a b)
  | 4 => .ok (.mulhN d a b)
  | 5 => .ok (.divI d a b)
  | 6 => .ok (.divN d a b)
  | 7 => .ok (.remI d a b)
  | 8 => .ok (.remN d a b)
  | 9 => .ok (.minI d a b)
  | 10 => .ok (.maxI d a b)
  | 11 => .ok (.minN d a b)
  | 12 => .ok (.maxN d a b)
  | 13 => fields (b == 0) (.abs d a)
  | 14 => fields (b == 0) (.neg d a)
  | 15 => .ok (.add64 d a b)
  | 16 => .ok (.sub64 d a b)
  | 17 => .ok (.mulwI d a b)
  | 18 => .ok (.mulwN d a b)
  | 19 => .ok (.mad d a b)
  | 20 => .ok (.addsI d a b)
  | 21 => .ok (.subsI d a b)
  | _ => .error .function

/-- Major 0x0D (03 R74). -/
def decodeLogic (d a b : Reg) (fn : BitVec 5) : Except Reject Instr :=
  match fn.toNat with
  | 0 => .ok (.and d a b)
  | 1 => .ok (.or d a b)
  | 2 => .ok (.xor d a b)
  | 3 => .ok (.andn d a b)
  | 4 => fields (b == 0) (.not d a)
  | 5 => .ok (.shl d a b)
  | 6 => .ok (.shr d a b)
  | 7 => .ok (.sha d a b)
  | 8 => .ok (.rotl d a b)
  | 9 => .ok (.rotr d a b)
  | 10 => .ok (.bfeN d a b)
  | 11 => .ok (.bfeI d a b)
  | 12 => .ok (.bfi d a b)
  | 13 => fields (b == 0) (.popc d a)
  | 14 => fields (b == 0) (.clz d a)
  | 15 => fields (b == 0) (.ctz d a)
  | 16 => fields (b == 0) (.brev d a)
  | 17 => .ok (.dshl d a b)
  | 18 => .ok (.dshr d a b)
  | 19 => .ok (.dsha d a b)
  | _ => .error .function

/-- Major 0x0E (03 R74). -/
def decodeCompare (d a b : Reg) (fn : BitVec 5) : Except Reject Instr :=
  match fn.toNat with
  | 0 => .ok (.eq d a b)
  | 1 => .ok (.ne d a b)
  | 2 => .ok (.ltI d a b)
  | 3 => .ok (.leI d a b)
  | 4 => .ok (.ltN d a b)
  | 5 => .ok (.leN d a b)
  | 6 => .ok (.eq64 d a b)
  | 7 => .ok (.ne64 d a b)
  | 8 => .ok (.lt64I d a b)
  | 9 => .ok (.lt64N d a b)
  | _ => .error .function

/-- Major 0x18 (03 R74). -/
def decodeFloat (d a b : Reg) (fn : BitVec 5) : Except Reject Instr :=
  match fn.toNat with
  | 0 => .ok (.fadd d a b)
  | 1 => .ok (.fsub d a b)
  | 2 => .ok (.fmul d a b)
  | 3 => .ok (.fma d a b)
  | 4 => .ok (.fmin d a b)
  | 5 => .ok (.fmax d a b)
  | 6 => fields (b == 0) (.fabs d a)
  | 7 => fields (b == 0) (.fneg d a)
  | 8 => .ok (.fcmpEq d a b)
  | 9 => .ok (.fcmpLt d a b)
  | 10 => .ok (.fcmpLe d a b)
  | 11 => .ok (.fcmpUn d a b)
  | 12 => fields (b == 0) (.fclass d a)
  | 13 => fields (b == 0) (.frnd d a)
  | 14 => fields (b == 0) (.frcp d a)
  | 15 => fields (b == 0) (.frsq d a)
  | 16 => fields (b == 0) (.fsqrt d a)
  | 17 => fields (b == 0) (.fexp2 d a)
  | 18 => fields (b == 0) (.flog2 d a)
  | 19 => .ok (.fdiv d a b)
  | _ => .error .function

/-- Major 0x19 (03 R74). -/
def decodeDouble (d a b : Reg) (fn : BitVec 5) : Except Reject Instr :=
  match fn.toNat with
  | 0 => .ok (.dadd d a b)
  | 1 => .ok (.dsub d a b)
  | 2 => .ok (.dmul d a b)
  | 3 => .ok (.dfma d a b)
  | 4 => .ok (.dmin d a b)
  | 5 => .ok (.dmax d a b)
  | 6 => .ok (.dcmpEq d a b)
  | 7 => .ok (.dcmpLt d a b)
  | 8 => .ok (.dcmpLe d a b)
  | 9 => .ok (.ddiv d a b)
  | 10 => fields (b == 0) (.dsqrt d a)
  | _ => .error .function

/-- Major 0x1A (03 R74). -/
def decodePacked (d a b : Reg) (fn : BitVec 5) : Except Reject Instr :=
  match fn.toNat with
  | 0 => .ok (.hadd d a b)
  | 1 => .ok (.hmul d a b)
  | 2 => .ok (.hfma d a b)
  | 3 => .ok (.hmin d a b)
  | 4 => .ok (.hmax d a b)
  | 5 => .ok (.badd d a b)
  | 6 => .ok (.bmul d a b)
  | 7 => .ok (.bfma d a b)
  | 8 => .ok (.bmin d a b)
  | 9 => .ok (.bmax d a b)
  | 10 => .ok (.hdot d a b)
  | 11 => .ok (.bdot d a b)
  | _ => .error .function

/-- Major 0x1B (03 R74). -/
def decodeConvert (d a b : Reg) (fn : BitVec 5) : Except Reject Instr :=
  match fn.toNat with
  | 0 => fields (b == 0) (.cvtF32I32 d a)
  | 1 => fields (b == 0) (.cvtF32N32 d a)
  | 2 => fields (b == 0) (.cvtI32F32 d a)
  | 3 => fields (b == 0) (.cvtN32F32 d a)
  | 4 => fields (b == 0) (.cvtF64F32 d a)
  | 5 => fields (b == 0) (.cvtF32F64 d a)
  | 6 => .ok (.cvtH2F32 d a b)
  | 7 => .ok (.cvtB2F32 d a b)
  | 8 => fields (b == 0) (.cvtF32H2lo d a)
  | 9 => fields (b == 0) (.cvtF32H2hi d a)
  | 10 => fields (b == 0) (.cvtF32B2lo d a)
  | 11 => fields (b == 0) (.cvtF32B2hi d a)
  | 12 => fields (b == 0) (.cvtF64I32 d a)
  | 13 => fields (b == 0) (.cvtI32F64 d a)
  | 14 => fields (b == 0) (.cvtF32Cq d a)
  | 15 => fields (b == 0) (.cvtCqF32 d a)
  | _ => .error .function

/-- Major 0x1C (03 R74). -/
def decodeLns (d a b : Reg) (fn : BitVec 5) : Except Reject Instr :=
  match fn.toNat with
  | 0 => .ok (.qnt d a b)
  | 1 => .ok (.dqnt d a b)
  | 2 => .ok (.lpack d a b)
  | 3 => .ok (.lunpk d a b)
  | 4 => fields (b == 0) (.lscale d a)
  | 5 => .ok (.ldot d a b)
  | 6 => .ok (.lmul d a b)
  | _ => .error .function

/-- Major 0x29 (03 R74). -/
def decodeAtom (d a b : Reg) (fn : BitVec 5) : Except Reject Instr :=
  match fn.toNat with
  | 0 => .ok (.atomAdd d a b)
  | 1 => .ok (.atomSub d a b)
  | 2 => .ok (.atomAnd d a b)
  | 3 => .ok (.atomOr d a b)
  | 4 => .ok (.atomXor d a b)
  | 5 => .ok (.atomMinI d a b)
  | 6 => .ok (.atomMaxI d a b)
  | 7 => .ok (.atomMinN d a b)
  | 8 => .ok (.atomMaxN d a b)
  | 9 => .ok (.atomXchg d a b)
  | 10 => .ok (.atomIncw d a b)
  | 11 => .ok (.atomDecw d a b)
  | 12 => .ok (.atomFadd d a b)
  | 13 => .ok (.atomAdd64 d a b)
  | 14 => .ok (.atomXchg64 d a b)
  | _ => .error .function

/-- Major 0x2A (03 R74). -/
def decodeAtomn (d a b : Reg) (fn : BitVec 5) : Except Reject Instr :=
  match fn.toNat with
  | 0 => fields (d == 0) (.atomnAdd a b)
  | 1 => fields (d == 0) (.atomnSub a b)
  | 2 => fields (d == 0) (.atomnAnd a b)
  | 3 => fields (d == 0) (.atomnOr a b)
  | 4 => fields (d == 0) (.atomnXor a b)
  | 5 => fields (d == 0) (.atomnMinI a b)
  | 6 => fields (d == 0) (.atomnMaxI a b)
  | 7 => fields (d == 0) (.atomnMinN a b)
  | 8 => fields (d == 0) (.atomnMaxN a b)
  | 9 => fields (d == 0) (.atomnXchg a b)
  | 10 => fields (d == 0) (.atomnIncw a b)
  | 11 => fields (d == 0) (.atomnDecw a b)
  | 12 => fields (d == 0) (.atomnFadd a b)
  | 13 => fields (d == 0) (.atomnAdd64 a b)
  | 14 => fields (d == 0) (.atomnXchg64 a b)
  | _ => .error .function

/-- Major 0x2B (03 R74). -/
def decodeCas (d a b : Reg) (fn : BitVec 5) : Except Reject Instr :=
  match fn.toNat with
  | 0 => .ok (.cas d a b)
  | _ => .error .function

/-- Major 0x2C (03 R74). -/
def decodeCas64 (d a b : Reg) (fn : BitVec 5) : Except Reject Instr :=
  match fn.toNat with
  | 0 => .ok (.cas64 d a b)
  | _ => .error .function

/-- Major 0x2D (03 R74). -/
def decodeCopy (d a b : Reg) (fn : BitVec 5) : Except Reject Instr :=
  match fn.toNat with
  | 0 => .ok (.cpy d a b)
  | 1 => .ok (.cpy2d d a b)
  | 2 => .ok (.cpyc d a b)
  | 3 => fields (a == 0) (.cpyz d b)
  | _ => .error .function

/-- Major 0x2E (03 R74). -/
def decodeCreel (d a b : Reg) (fn : BitVec 5) : Except Reject Instr :=
  match fn.toNat with
  | 0 => fields (d == 0) (.crinit a b)
  | 1 => fields (a == 0) (.crtake d b)
  | 2 => fields (d == 0) (.crgive a b)
  | 3 => fields (a == 0) (.crclaim d b)
  | 4 => fields (d == 0) (.crpost a b)
  | 5 => fields (a == 0) (.crtest d b)
  | 6 => fields (a == 0) (.crstat d b)
  | 7 => .ok (.craddr d a b)
  | _ => .error .function

/-- Major 0x30 (03 R74). -/
def decodeField (d a b : Reg) (fn : BitVec 5) : Except Reject Instr :=
  match fn.toNat with
  | 0 => fields (d == 0 && b == 0) (.fsel a)
  | 1 => .ok (.xfer d a b)
  | 2 => fields (b == 0) (.fld d a)
  | 3 => fields (a == 0 && b.extractLsb' 5 2 == 0) (.ftot d (b.extractLsb' 3 2) (b.extractLsb' 0 3))
  | 4 => fields (d == 0) (.fdecl a b)
  | 5 => fields (b == 0) (.fchk d a)
  | 6 => .ok (.finfo d a b)
  | _ => .error .function

/-- Major 0x31 (03 R74). -/
noncomputable def decodeAppend (d a b : Reg) (fn : BitVec 5) : Except Reject Instr :=
  match fn.toNat with
  | 0 => .ok (.app d a b)
  | 1 => .ok (.app64 d a b)
  | 2 => .ok (.appq d a b)
  | 3 => fields (d == 0 && b == 0) (.seal a)
  | 4 => fields (d == 0 && b == 0) (.free a)
  | 5 => fields (d == 0) (.aopen a b)
  | 6 => fields (b == 0) (.atail d a)
  | 7 => fields (b == 0) (.astate d a)
  | _ => .error .function

/-- Major 0x32 (03 R74). -/
noncomputable def decodeTile (hx : Bool) (d a b : Reg) (fn : BitVec 5) : Except Reject Instr :=
  match fn.toNat with
  | 0 => fields (d == 0 && b == 0) (.tcfg a)
  | 1 => if hx then fields (d == 0 && a == 0) (.tldaGather b) else .ok (.tlda d a b)
  | 2 => if hx then fields (d == 0 && a == 0) (.tldbGather b) else .ok (.tldb d a b)
  | 3 => fields (d == 0) (.tmma a b)
  | 4 => fields (d == 0 && a == 0) (.tzero b)
  | 5 => .ok (.tdrain d a b)
  | 6 => if hx then fields (d == 0 && a == 0) (.tstaccGather b) else .ok (.tstacc d a b)
  | _ => .error .function

/-- Major 0x33 (03 R74). -/
noncomputable def decodeFabric (d a b : Reg) (fn : BitVec 5) : Except Reject Instr :=
  match fn.toNat with
  | 0 => .ok (.nput d a b)
  | 1 => .ok (.nget d a b)
  | 2 => .ok (.nred d a b)
  | 3 => .ok (.nstat d a b)
  | 4 => fields (d == 0) (.nsig a b)
  | _ => .error .function

/-- Major 0x38 (03 R74). -/
noncomputable def decodeSystem (d a b : Reg) (fn : BitVec 5) : Except Reject Instr :=
  match fn.toNat with
  | 0 => fields (d == 0 && a == 0) (.rfe b)
  | 1 => fields (a == 0) (.frec d b)
  | 2 => .ok (.unpark d a b)
  | 3 => .ok (.sysget d a b)
  | 4 => .ok (.sysset d a b)
  | 5 => .ok (.tlbinv d a b)
  | 6 => fields (d == 0 && b == 0) (.tlbinva a)
  | 7 => fields (d == 0 && b == 0) (.l2wbRemotePush a)
  | 8 => .ok (.ctxsave d a b)
  | 9 => .ok (.ctxload d a b)
  | 10 => fields (d == 0 && a == 0) (.brk b)
  | _ => .error .function

/-- Major 0x39 (03 R74). -/
noncomputable def decodeLaunch (d a b : Reg) (fn : BitVec 5) : Except Reject Instr :=
  match fn.toNat with
  | 0 => fields (b == 0) (.lch d a)
  | 1 => fields (d == 0 && b == 0) (.lcancel a)
  | 2 => .ok (.lcnt d a b)
  | 3 => fields (d == 0) (.lwaitc a b)
  | 4 => fields (d == 0) (.pmreq a b)
  | _ => .error .function

/-- The instruction of a word by its major opcode (03 R74), before the operand checks. -/
noncomputable def decodeMajor (hx : Bool) (w : Word) : Except Reject Instr :=
  match (fOp w).toNat with
  | 0x01 => decodeHint (fKind w) (fPay w)
  | 0x02 => decodeBranch (fD w) (fCc w) (fOff16 w)
  | 0x03 => fields (fD w == 0 && fCc w == 0) (.call (fOff16 w))
  | 0x05 => fields (fD w == 0 && (fImm19 w).extractLsb' 16 3 == 0)
      (.wait ((fImm19 w).extractLsb' 12 4) ((fImm19 w).extractLsb' 8 4) ((fImm19 w).extractLsb' 4 4)
        ((fImm19 w).extractLsb' 0 4))
  | 0x06 => decodeBar (fD w) (fA w) (fImm12 w)
  | 0x08 => fields (fA w == 0) (.movi (fD w) (fImm12 w))
  | 0x09 => .ok (.movu (fD w) (fImm19 w))
  | 0x0F => decodeLea (fD w) (fA w) (fB w) (fFn w)
  | 0x10 => .ok (.addi (fD w) (fA w) (fImm12 w))
  | 0x11 => .ok (.andi (fD w) (fA w) (fImm12 w))
  | 0x12 => .ok (.ori (fD w) (fA w) (fImm12 w))
  | 0x13 => .ok (.xori (fD w) (fA w) (fImm12 w))
  | 0x14 => decodeShi (fD w) (fA w) (fImm12 w)
  | 0x15 => decodeCmpi (fD w) (fA w) (fImm12 w)
  | 0x16 => .ok (.muli (fD w) (fA w) (fImm12 w))
  | 0x17 => .ok (.leai (fD w) (fA w) (fImm12 w))
  | 0x20 => .ok (.ld (fD w) (fA w) (fSp w) (fWidth w) (fOff6 w))
  | 0x21 => .ok (.st (fD w) (fA w) (fSp w) (fWidth w) (fOff6 w))
  | 0x22 => fields (fWidth w == 4) (.ldq (fD w) (fA w) (fSp w) (fOff6 w))
  | 0x23 => fields (fWidth w == 4) (.stq (fD w) (fA w) (fSp w) (fOff6 w))
  | 0x24 => fields (fD w == 0 && fSp w == 0) (.pf (fA w) (fWidth w) (fOff6 w))
  | 0x25 => .ok (.ldacq (fD w) (fA w) (fSp w) (fWidth w) (fOff6 w))
  | 0x26 => .ok (.strel (fD w) (fA w) (fSp w) (fWidth w) (fOff6 w))
  | 0x28 => decodeFence (fD w) (fA w) (fImm12 w)
  | 0x3E => .error .blockHead
  | 0x04 => decodeFlow (fD w) (fA w) (fB w) (fFn w)
  | 0x0A => decodeMove (fD w) (fA w) (fB w) (fFn w)
  | 0x0B => decodeLane (fD w) (fA w) (fB w) (fFn w)
  | 0x0C => decodeInteger (fD w) (fA w) (fB w) (fFn w)
  | 0x0D => decodeLogic (fD w) (fA w) (fB w) (fFn w)
  | 0x0E => decodeCompare (fD w) (fA w) (fB w) (fFn w)
  | 0x18 => decodeFloat (fD w) (fA w) (fB w) (fFn w)
  | 0x19 => decodeDouble (fD w) (fA w) (fB w) (fFn w)
  | 0x1A => decodePacked (fD w) (fA w) (fB w) (fFn w)
  | 0x1B => decodeConvert (fD w) (fA w) (fB w) (fFn w)
  | 0x1C => decodeLns (fD w) (fA w) (fB w) (fFn w)
  | 0x29 => decodeAtom (fD w) (fA w) (fB w) (fFn w)
  | 0x2A => decodeAtomn (fD w) (fA w) (fB w) (fFn w)
  | 0x2B => decodeCas (fD w) (fA w) (fB w) (fFn w)
  | 0x2C => decodeCas64 (fD w) (fA w) (fB w) (fFn w)
  | 0x2D => decodeCopy (fD w) (fA w) (fB w) (fFn w)
  | 0x2E => decodeCreel (fD w) (fA w) (fB w) (fFn w)
  | 0x30 => decodeField (fD w) (fA w) (fB w) (fFn w)
  | 0x31 => decodeAppend (fD w) (fA w) (fB w) (fFn w)
  | 0x32 => decodeTile hx (fD w) (fA w) (fB w) (fFn w)
  | 0x33 => decodeFabric (fD w) (fA w) (fB w) (fFn w)
  | 0x38 => decodeSystem (fD w) (fA w) (fB w) (fFn w)
  | 0x39 => decodeLaunch (fD w) (fA w) (fB w) (fFn w)
  | _ => .error .major

/-- The operand checks that the word alone decides (03 R63, R75). -/
def checked (r : Except Reject Instr) : Except Reject Instr :=
  match r with
  | .ok i => if i.wf then .ok i else .error .operand
  | .error e => .error e

/-- The instruction that a word stands for. `hx` says whether an hx hint stands before it: the words of `tlda`,
`tldb` and `tstacc` then name their gather forms (13 R297). -/
noncomputable def decode (hx : Bool) (w : Word) : Except Reject Instr := checked (decodeMajor hx w)

/-- A word from the bytes of memory, little-endian (00 R2, 03 opening). -/
def wordOfBytes (b0 b1 b2 b3 : Byte) : Word := b3 ++ b2 ++ b1 ++ b0

/-- The instruction at the head of a list of bytes, and the bytes after it. -/
noncomputable def decodeBytes (hx : Bool) (bs : List Byte) : Option (Except Reject Instr × List Byte) :=
  match bs with
  | b0 :: b1 :: b2 :: b3 :: rest => some (decode hx (wordOfBytes b0 b1 b2 b3), rest)
  | _ => none

/-- The instructions whose word needs an hx hint before it to be read as they are (13 R297). -/
def Instr.isGather (i : Instr) : Bool :=
  match i with
  | .tldaGather _ => true
  | .tldbGather _ => true
  | .tstaccGather _ => true
  | _ => false

/-- A word of major 0x32 that can be a gather form: fn 1, 2 or 6 with d and a zero (13 R297). -/
def gatherWord (w : Word) : Bool :=
  (fOp w).toNat == 0x32 && fD w == 0 && fA w == 0 &&
    ((fFn w).toNat == 1 || (fFn w).toNat == 2 || (fFn w).toNat == 6)

/-- The instruction of a table word: one word of 32 bits, its bytes laid out little-endian and given to the decoder.
A word that can be a gather form is read as the gather form (the table's more specific row). -/
noncomputable def decodeTableWord (nbits w : Nat) : Option Instr :=
  let word : Word := BitVec.ofNat 32 (w % 2 ^ nbits)
  let bytes := [word.extractLsb' 0 8, word.extractLsb' 8 8, word.extractLsb' 16 8, word.extractLsb' 24 8]
  match decodeBytes (gatherWord word) bytes with
  | some (.ok i, _) => some i
  | _ => none

/-! ### The encoder -/

/-- The word of an instruction (03 R62, R75 and the encoding tables of the entries); none for an event, and none for the second row of `l2wb`,
whose word is that of the first: both have one meaning (16 R366). -/
def encode (i : Instr) : Option Word :=
  match i with
  | .hk p => some (encXH 0 p)
  | .hx m c => some (encXH 1 (m ++ c))
  | .hs p s => some (encXH 2 ((0 : BitVec 17) ++ p ++ s))
  | .hq e t s r => some (encXH 3 ((0 : BitVec 15) ++ e ++ t ++ s ++ r))
  | .br o => some (encXB 0x02 0 0 o)
  | .brZ a o => some (encXB 0x02 a 1 o)
  | .brNz a o => some (encXB 0x02 a 2 o)
  | .brNeg a o => some (encXB 0x02 a 3 o)
  | .brNn a o => some (encXB 0x02 a 4 o)
  | .call o => some (encXB 0x03 0 0 o)
  | .bx a => some (encXA 0x04 0 a 0 0)
  | .callx a => some (encXA 0x04 0 a 0 1)
  | .ret => some (encXA 0x04 0 0 0 2)
  | .exit => some (encXA 0x04 0 0 0 3)
  | .yield => some (encXA 0x04 0 0 0 4)
  | .nop => some (encXA 0x04 0 0 0 5)
  | .trap b => some (encXA 0x04 0 0 b 6)
  | .wait l s c t => some (encXL 0x05 0 ((0 : BitVec 3) ++ l ++ s ++ c ++ t))
  | .bar a i => some (encXI 0x06 0 a ((0 : BitVec 4) ++ (0 : BitVec 2) ++ i))
  | .barArrive a i => some (encXI 0x06 0 a ((0 : BitVec 4) ++ (1 : BitVec 2) ++ i))
  | .barWait i => some (encXI 0x06 0 0 ((0 : BitVec 4) ++ (2 : BitVec 2) ++ i))
  | .movi d i => some (encXI 0x08 d 0 i)
  | .movu d i => some (encXL 0x09 d i)
  | .mov d a => some (encXA 0x0A d a 0 0)
  | .sel d a b => some (encXA 0x0A d a b 1)
  | .movs d s => some (encXA 0x0A d s 0 2)
  | .movsw s a => some (encXA 0x0A s a 0 3)
  | .tagget d a => some (encXA 0x0A d a 0 4)
  | .tagset d a k => some (encXA 0x0A d a k 5)
  | .tagchk d a k => some (encXA 0x0A d a k 6)
  | .bcast d a j => some (encXA 0x0B d a j 0)
  | .shfl d a b => some (encXA 0x0B d a b 1)
  | .shfx d a b => some (encXA 0x0B d a b 2)
  | .shfup d a b => some (encXA 0x0B d a b 3)
  | .shfdn d a b => some (encXA 0x0B d a b 4)
  | .voteAny d a => some (encXA 0x0B d a 0 5)
  | .voteAll d a => some (encXA 0x0B d a 0 6)
  | .voteMask d a => some (encXA 0x0B d a 0 7)
  | .gredAdd d a => some (encXA 0x0B d a 0 8)
  | .gredMin d a => some (encXA 0x0B d a 0 9)
  | .gredMax d a => some (encXA 0x0B d a 0 10)
  | .gredFadd d a => some (encXA 0x0B d a 0 11)
  | .gscanAdd d a => some (encXA 0x0B d a 0 12)
  | .gscanFadd d a => some (encXA 0x0B d a 0 13)
  | .gfirst d a => some (encXA 0x0B d a 0 14)
  | .add d a b => some (encXA 0x0C d a b 0)
  | .sub d a b => some (encXA 0x0C d a b 1)
  | .mul d a b => some (encXA 0x0C d a b 2)
  | .mulhI d a b => some (encXA 0x0C d a b 3)
  | .mulhN d a b => some (encXA 0x0C d a b 4)
  | .divI d a b => some (encXA 0x0C d a b 5)
  | .divN d a b => some (encXA 0x0C d a b 6)
  | .remI d a b => some (encXA 0x0C d a b 7)
  | .remN d a b => some (encXA 0x0C d a b 8)
  | .minI d a b => some (encXA 0x0C d a b 9)
  | .maxI d a b => some (encXA 0x0C d a b 10)
  | .minN d a b => some (encXA 0x0C d a b 11)
  | .maxN d a b => some (encXA 0x0C d a b 12)
  | .abs d a => some (encXA 0x0C d a 0 13)
  | .neg d a => some (encXA 0x0C d a 0 14)
  | .add64 d a b => some (encXA 0x0C d a b 15)
  | .sub64 d a b => some (encXA 0x0C d a b 16)
  | .mulwI d a b => some (encXA 0x0C d a b 17)
  | .mulwN d a b => some (encXA 0x0C d a b 18)
  | .mad d a b => some (encXA 0x0C d a b 19)
  | .addsI d a b => some (encXA 0x0C d a b 20)
  | .subsI d a b => some (encXA 0x0C d a b 21)
  | .and d a b => some (encXA 0x0D d a b 0)
  | .or d a b => some (encXA 0x0D d a b 1)
  | .xor d a b => some (encXA 0x0D d a b 2)
  | .andn d a b => some (encXA 0x0D d a b 3)
  | .not d a => some (encXA 0x0D d a 0 4)
  | .shl d a b => some (encXA 0x0D d a b 5)
  | .shr d a b => some (encXA 0x0D d a b 6)
  | .sha d a b => some (encXA 0x0D d a b 7)
  | .rotl d a b => some (encXA 0x0D d a b 8)
  | .rotr d a b => some (encXA 0x0D d a b 9)
  | .bfeN d a b => some (encXA 0x0D d a b 10)
  | .bfeI d a b => some (encXA 0x0D d a b 11)
  | .bfi d a b => some (encXA 0x0D d a b 12)
  | .popc d a => some (encXA 0x0D d a 0 13)
  | .clz d a => some (encXA 0x0D d a 0 14)
  | .ctz d a => some (encXA 0x0D d a 0 15)
  | .brev d a => some (encXA 0x0D d a 0 16)
  | .dshl d a b => some (encXA 0x0D d a b 17)
  | .dshr d a b => some (encXA 0x0D d a b 18)
  | .dsha d a b => some (encXA 0x0D d a b 19)
  | .eq d a b => some (encXA 0x0E d a b 0)
  | .ne d a b => some (encXA 0x0E d a b 1)
  | .ltI d a b => some (encXA 0x0E d a b 2)
  | .leI d a b => some (encXA 0x0E d a b 3)
  | .ltN d a b => some (encXA 0x0E d a b 4)
  | .leN d a b => some (encXA 0x0E d a b 5)
  | .eq64 d a b => some (encXA 0x0E d a b 6)
  | .ne64 d a b => some (encXA 0x0E d a b 7)
  | .lt64I d a b => some (encXA 0x0E d a b 8)
  | .lt64N d a b => some (encXA 0x0E d a b 9)
  | .lea d a b s => some (encXA 0x0F d a b ((0 : BitVec 1) ++ (0 : BitVec 1) ++ s))
  | .leaN d a b s => some (encXA 0x0F d a b ((0 : BitVec 1) ++ (1 : BitVec 1) ++ s))
  | .addi d a i => some (encXI 0x10 d a i)
  | .andi d a i => some (encXI 0x11 d a i)
  | .ori d a i => some (encXI 0x12 d a i)
  | .xori d a i => some (encXI 0x13 d a i)
  | .shiShl d a n => some (encXI 0x14 d a ((0 : BitVec 2) ++ (0 : BitVec 5) ++ n))
  | .shiShr d a n => some (encXI 0x14 d a ((1 : BitVec 2) ++ (0 : BitVec 5) ++ n))
  | .shiSha d a n => some (encXI 0x14 d a ((2 : BitVec 2) ++ (0 : BitVec 5) ++ n))
  | .shiRotl d a n => some (encXI 0x14 d a ((3 : BitVec 2) ++ (0 : BitVec 5) ++ n))
  | .cmpiEq d a v => some (encXI 0x15 d a ((0 : BitVec 3) ++ v))
  | .cmpiNe d a v => some (encXI 0x15 d a ((1 : BitVec 3) ++ v))
  | .cmpiLtI d a v => some (encXI 0x15 d a ((2 : BitVec 3) ++ v))
  | .cmpiLeI d a v => some (encXI 0x15 d a ((3 : BitVec 3) ++ v))
  | .cmpiLtN d a v => some (encXI 0x15 d a ((4 : BitVec 3) ++ v))
  | .cmpiLeN d a v => some (encXI 0x15 d a ((5 : BitVec 3) ++ v))
  | .muli d a i => some (encXI 0x16 d a i)
  | .leai d a i => some (encXI 0x17 d a i)
  | .fadd d a b => some (encXA 0x18 d a b 0)
  | .fsub d a b => some (encXA 0x18 d a b 1)
  | .fmul d a b => some (encXA 0x18 d a b 2)
  | .fma d a b => some (encXA 0x18 d a b 3)
  | .fmin d a b => some (encXA 0x18 d a b 4)
  | .fmax d a b => some (encXA 0x18 d a b 5)
  | .fabs d a => some (encXA 0x18 d a 0 6)
  | .fneg d a => some (encXA 0x18 d a 0 7)
  | .fcmpEq d a b => some (encXA 0x18 d a b 8)
  | .fcmpLt d a b => some (encXA 0x18 d a b 9)
  | .fcmpLe d a b => some (encXA 0x18 d a b 10)
  | .fcmpUn d a b => some (encXA 0x18 d a b 11)
  | .fclass d a => some (encXA 0x18 d a 0 12)
  | .frnd d a => some (encXA 0x18 d a 0 13)
  | .frcp d a => some (encXA 0x18 d a 0 14)
  | .frsq d a => some (encXA 0x18 d a 0 15)
  | .fsqrt d a => some (encXA 0x18 d a 0 16)
  | .fexp2 d a => some (encXA 0x18 d a 0 17)
  | .flog2 d a => some (encXA 0x18 d a 0 18)
  | .fdiv d a b => some (encXA 0x18 d a b 19)
  | .dadd d a b => some (encXA 0x19 d a b 0)
  | .dsub d a b => some (encXA 0x19 d a b 1)
  | .dmul d a b => some (encXA 0x19 d a b 2)
  | .dfma d a b => some (encXA 0x19 d a b 3)
  | .dmin d a b => some (encXA 0x19 d a b 4)
  | .dmax d a b => some (encXA 0x19 d a b 5)
  | .dcmpEq d a b => some (encXA 0x19 d a b 6)
  | .dcmpLt d a b => some (encXA 0x19 d a b 7)
  | .dcmpLe d a b => some (encXA 0x19 d a b 8)
  | .ddiv d a b => some (encXA 0x19 d a b 9)
  | .dsqrt d a => some (encXA 0x19 d a 0 10)
  | .hadd d a b => some (encXA 0x1A d a b 0)
  | .hmul d a b => some (encXA 0x1A d a b 1)
  | .hfma d a b => some (encXA 0x1A d a b 2)
  | .hmin d a b => some (encXA 0x1A d a b 3)
  | .hmax d a b => some (encXA 0x1A d a b 4)
  | .badd d a b => some (encXA 0x1A d a b 5)
  | .bmul d a b => some (encXA 0x1A d a b 6)
  | .bfma d a b => some (encXA 0x1A d a b 7)
  | .bmin d a b => some (encXA 0x1A d a b 8)
  | .bmax d a b => some (encXA 0x1A d a b 9)
  | .hdot d a b => some (encXA 0x1A d a b 10)
  | .bdot d a b => some (encXA 0x1A d a b 11)
  | .cvtF32I32 d a => some (encXA 0x1B d a 0 0)
  | .cvtF32N32 d a => some (encXA 0x1B d a 0 1)
  | .cvtI32F32 d a => some (encXA 0x1B d a 0 2)
  | .cvtN32F32 d a => some (encXA 0x1B d a 0 3)
  | .cvtF64F32 d a => some (encXA 0x1B d a 0 4)
  | .cvtF32F64 d a => some (encXA 0x1B d a 0 5)
  | .cvtH2F32 d a b => some (encXA 0x1B d a b 6)
  | .cvtB2F32 d a b => some (encXA 0x1B d a b 7)
  | .cvtF32H2lo d a => some (encXA 0x1B d a 0 8)
  | .cvtF32H2hi d a => some (encXA 0x1B d a 0 9)
  | .cvtF32B2lo d a => some (encXA 0x1B d a 0 10)
  | .cvtF32B2hi d a => some (encXA 0x1B d a 0 11)
  | .cvtF64I32 d a => some (encXA 0x1B d a 0 12)
  | .cvtI32F64 d a => some (encXA 0x1B d a 0 13)
  | .cvtF32Cq d a => some (encXA 0x1B d a 0 14)
  | .cvtCqF32 d a => some (encXA 0x1B d a 0 15)
  | .qnt d a b => some (encXA 0x1C d a b 0)
  | .dqnt d a b => some (encXA 0x1C d a b 1)
  | .lpack d a b => some (encXA 0x1C d a b 2)
  | .lunpk d a i => some (encXA 0x1C d a i 3)
  | .lscale d a => some (encXA 0x1C d a 0 4)
  | .ldot d a b => some (encXA 0x1C d a b 5)
  | .lmul d a b => some (encXA 0x1C d a b 6)
  | .ld d a s w o => some (encXM 0x20 d a s w o)
  | .st d a s w o => some (encXM 0x21 d a s w o)
  | .ldq d a s o => some (encXM 0x22 d a s 4 o)
  | .stq d a s o => some (encXM 0x23 d a s 4 o)
  | .pf a w o => some (encXM 0x24 0 a 0 w o)
  | .ldacq d a s w o => some (encXM 0x25 d a s w o)
  | .strel d a s w o => some (encXM 0x26 d a s w o)
  | .fenceAcq s => some (encXI 0x28 0 0 ((0 : BitVec 6) ++ (1 : BitVec 2) ++ s))
  | .fenceRel s => some (encXI 0x28 0 0 ((0 : BitVec 6) ++ (2 : BitVec 2) ++ s))
  | .fenceAr s => some (encXI 0x28 0 0 ((0 : BitVec 6) ++ (3 : BitVec 2) ++ s))
  | .atomAdd d a b => some (encXA 0x29 d a b 0)
  | .atomSub d a b => some (encXA 0x29 d a b 1)
  | .atomAnd d a b => some (encXA 0x29 d a b 2)
  | .atomOr d a b => some (encXA 0x29 d a b 3)
  | .atomXor d a b => some (encXA 0x29 d a b 4)
  | .atomMinI d a b => some (encXA 0x29 d a b 5)
  | .atomMaxI d a b => some (encXA 0x29 d a b 6)
  | .atomMinN d a b => some (encXA 0x29 d a b 7)
  | .atomMaxN d a b => some (encXA 0x29 d a b 8)
  | .atomXchg d a b => some (encXA 0x29 d a b 9)
  | .atomIncw d a b => some (encXA 0x29 d a b 10)
  | .atomDecw d a b => some (encXA 0x29 d a b 11)
  | .atomFadd d a b => some (encXA 0x29 d a b 12)
  | .atomAdd64 d a b => some (encXA 0x29 d a b 13)
  | .atomXchg64 d a b => some (encXA 0x29 d a b 14)
  | .atomnAdd a b => some (encXA 0x2A 0 a b 0)
  | .atomnSub a b => some (encXA 0x2A 0 a b 1)
  | .atomnAnd a b => some (encXA 0x2A 0 a b 2)
  | .atomnOr a b => some (encXA 0x2A 0 a b 3)
  | .atomnXor a b => some (encXA 0x2A 0 a b 4)
  | .atomnMinI a b => some (encXA 0x2A 0 a b 5)
  | .atomnMaxI a b => some (encXA 0x2A 0 a b 6)
  | .atomnMinN a b => some (encXA 0x2A 0 a b 7)
  | .atomnMaxN a b => some (encXA 0x2A 0 a b 8)
  | .atomnXchg a b => some (encXA 0x2A 0 a b 9)
  | .atomnIncw a b => some (encXA 0x2A 0 a b 10)
  | .atomnDecw a b => some (encXA 0x2A 0 a b 11)
  | .atomnFadd a b => some (encXA 0x2A 0 a b 12)
  | .atomnAdd64 a b => some (encXA 0x2A 0 a b 13)
  | .atomnXchg64 a b => some (encXA 0x2A 0 a b 14)
  | .cas d a b => some (encXA 0x2B d a b 0)
  | .cas64 d a b => some (encXA 0x2C d a b 0)
  | .cpy d a b => some (encXA 0x2D d a b 0)
  | .cpy2d d a b => some (encXA 0x2D d a b 1)
  | .cpyc d a k => some (encXA 0x2D d a k 2)
  | .cpyz d b => some (encXA 0x2D d 0 b 3)
  | .crinit a k => some (encXA 0x2E 0 a k 0)
  | .crtake d k => some (encXA 0x2E d 0 k 1)
  | .crgive a k => some (encXA 0x2E 0 a k 2)
  | .crclaim d k => some (encXA 0x2E d 0 k 3)
  | .crpost a k => some (encXA 0x2E 0 a k 4)
  | .crtest d k => some (encXA 0x2E d 0 k 5)
  | .crstat d k => some (encXA 0x2E d 0 k 6)
  | .craddr d a k => some (encXA 0x2E d a k 7)
  | .fsel a => some (encXA 0x30 0 a 0 0)
  | .xfer d a b => some (encXA 0x30 d a b 1)
  | .fld d a => some (encXA 0x30 d a 0 2)
  | .ftot d s k => some (encXA 0x30 d 0 ((0 : BitVec 2) ++ s ++ k) 3)
  | .fdecl a b => some (encXA 0x30 0 a b 4)
  | .fchk d a => some (encXA 0x30 d a 0 5)
  | .finfo d a q => some (encXA 0x30 d a q 6)
  | .app d a b => some (encXA 0x31 d a b 0)
  | .app64 d a b => some (encXA 0x31 d a b 1)
  | .appq d a b => some (encXA 0x31 d a b 2)
  | .seal a => some (encXA 0x31 0 a 0 3)
  | .free a => some (encXA 0x31 0 a 0 4)
  | .aopen a b => some (encXA 0x31 0 a b 5)
  | .atail d a => some (encXA 0x31 d a 0 6)
  | .astate d a => some (encXA 0x31 d a 0 7)
  | .tcfg a => some (encXA 0x32 0 a 0 0)
  | .tlda d a b => some (encXA 0x32 d a b 1)
  | .tldaGather b => some (encXA 0x32 0 0 b 1)
  | .tldb d a b => some (encXA 0x32 d a b 2)
  | .tldbGather b => some (encXA 0x32 0 0 b 2)
  | .tmma a b => some (encXA 0x32 0 a b 3)
  | .tzero b => some (encXA 0x32 0 0 b 4)
  | .tdrain d a b => some (encXA 0x32 d a b 5)
  | .tstacc d a b => some (encXA 0x32 d a b 6)
  | .tstaccGather b => some (encXA 0x32 0 0 b 6)
  | .nput d a b => some (encXA 0x33 d a b 0)
  | .nget d a b => some (encXA 0x33 d a b 1)
  | .nred d a b => some (encXA 0x33 d a b 2)
  | .nstat d a q => some (encXA 0x33 d a q 3)
  | .nsig a b => some (encXA 0x33 0 a b 4)
  | .rfe k => some (encXA 0x38 0 0 k 0)
  | .frec d k => some (encXA 0x38 d 0 k 1)
  | .unpark d a k => some (encXA 0x38 d a k 2)
  | .sysget d a n => some (encXA 0x38 d a n 3)
  | .sysset d a n => some (encXA 0x38 d a n 4)
  | .tlbinv d a b => some (encXA 0x38 d a b 5)
  | .tlbinva a => some (encXA 0x38 0 a 0 6)
  | .l2wbRemotePush a => some (encXA 0x38 0 a 0 7)
  | .l2wbHomeWriteback _ => none
  | .ctxsave d a b => some (encXA 0x38 d a b 8)
  | .ctxload d a b => some (encXA 0x38 d a b 9)
  | .brk k => some (encXA 0x38 0 0 k 10)
  | .lch d a => some (encXA 0x39 d a 0 0)
  | .lcancel a => some (encXA 0x39 0 a 0 1)
  | .lcnt d a q => some (encXA 0x39 d a q 2)
  | .lwaitc a b => some (encXA 0x39 0 a b 3)
  | .pmreq a b => some (encXA 0x39 0 a b 4)
  | .illegalEncoding => none
  | .headWordInBody => none
  | .formStrand _ _ => none
  | .overflowQueueMove _ => none
  | .spillEntry _ => none
  | .bankReadRetry _ => none
  | .loadComplete _ _ => none
  | .storeComplete _ => none
  | .atomicBatchArrival _ _ => none
  | .atomicComplete _ => none
  | .deltaWriteHome _ _ => none
  | .remoteEviction _ _ => none
  | .fenceComplete _ => none
  | .peerReleaseTimeout _ => none
  | .pageWalkStart _ => none
  | .pageWalkComplete _ => none
  | .tlbInvalidateComplete _ => none
  | .copyComplete _ _ => none
  | .creelOverflowEnter _ _ => none
  | .stallRecord _ => none
  | .xferCoordinatorRequest _ => none
  | .lockEntryGrant _ => none
  | .xferSecondLock _ => none
  | .xferCommit _ => none
  | .xferUnlock _ => none
  | .xferAcknowledge _ => none
  | .counterSetUpdate _ => none
  | .xferComplete _ => none
  | .cellReadServed _ => none
  | .ftotHoldTimeout _ => none
  | .fdeclHomeComplete _ => none
  | .appendBatchServe _ => none
  | .appendDataWrite _ => none
  | .tailReadServe _ => none
  | .sealServe _ => none
  | .sealComplete _ => none
  | .freeServe _ => none
  | .freeReclaim _ => none
  | .replicaReclaim _ _ => none
  | .reclaimAck _ _ => none
  | .freeShootdown _ => none
  | .freeReopen _ => none
  | .aopenServe _ => none
  | .replicaFill _ => none
  | .tileCommandStart _ _ => none
  | .tileBlockArrival _ => none
  | .tileCommandRetire _ => none
  | .drainLineArrival _ => none
  | .mergeBufferEntryGrant _ => none
  | .peerRequestReceive _ => none
  | .peerResponseReceive _ => none
  | .requestResendTimeout _ => none
  | .flitReceive _ _ => none
  | .allowanceReturn _ _ _ _ => none
  | .resyncBeatSend _ => none
  | .resyncBeatReceive _ _ _ _ => none
  | .escapeTimeout _ => none
  | .linkRetrain _ => none
  | .linkLock _ _ _ => none
  | .linkTrainingTimeout _ => none
  | .linkTrainingRetry => none
  | .routingTableRewrite _ => none
  | .opticalReconfiguration _ _ => none
  | .waymark _ _ => none
  | .waymarkEcho _ _ => none
  | .switchSettled => none
  | .placeUnit _ => none
  | .unitEnd _ => none
  | .preemptUnit _ _ => none
  | .saveUnitComplete _ => none
  | .restoreUnit _ => none
  | .hostQuery _ => none
  | .queryReply _ _ => none
  | .acknowledgement _ => none
  | .createObject _ _ _ => none
  | .closeObject _ _ => none
  | .launchMessage _ _ => none
  | .cancelMessage _ _ => none
  | .preemptMessage _ _ _ => none
  | .countReadMessage _ _ => none
  | .systemRegisterMessage _ _ _ _ _ => none
  | .stateRequest _ _ => none
  | .attestationRequest _ _ _ => none
  | .firmwareImage _ _ _ _ _ _ => none
  | .checkpoint _ _ _ => none
  | .debugRequest _ _ => none
  | .messageResendTimeout => none
  | .clehildRestart => none
  | .moduleReset => none
  | .powerGrant _ _ _ => none
  | .powerGrantTimeout _ => none
  | .softErrorCorrected _ => none
  | .uncorrectableStateError _ _ => none
  | .wvFairWrite _ => none
  | .dsWinWrite _ => none
  | .trRootWrite _ => none
  | .trWaysWrite _ => none
  | .trWalkWrite _ => none
  | .scopeCtlWrite _ => none
  | .scopeMaskWrite _ => none
  | .crOvbaseWrite _ => none
  | .crOvctlWrite _ => none
  | .hpBaseWrite _ => none
  | .hpSizeWrite _ => none
  | .fabCtagWrite _ => none
  | .fabExpWrite _ => none
  | .tenQuotaWrite _ => none
  | .tenCoresWrite _ => none
  | .registerWrite _ => none
  | .flitAcknowledgement _ _ => none
  | .counterSetAcknowledgement _ => none
  | .replicaPageDrop _ => none
  | .l2wbComplete _ => none

end Sys2Proof
end

