-- ==== Sys2Proof/Machine/Float.lean ====
section
/-!
DEFINITION. Floating-point arithmetic on bit patterns (06 R139 to R146): exact values, one rounding, the special values the
manual fixes. A format is (exponent bits, fraction bits); a pattern is a natural number below 2^(1 + ebits + fbits).
-/
namespace Sys2Proof.Machine

/-- A binary interchange format (06 R140). -/
structure Fmt where
  ebits : Nat
  fbits : Nat
  deriving DecidableEq, Repr

/-- binary32 -/
def f32 : Fmt := ⟨8, 23⟩
/-- binary64 -/
def f64 : Fmt := ⟨11, 52⟩
/-- binary16 -/
def f16 : Fmt := ⟨5, 10⟩
/-- bfloat16 -/
def bf16 : Fmt := ⟨8, 7⟩

/-- The exponent of the least subnormal: every finite value is a multiple of 2 to this power. -/
def Fmt.qmin (f : Fmt) : Int := 2 - 2 ^ (f.ebits - 1) - f.fbits

/-- The pattern of +∞. -/
def Fmt.infBits (f : Fmt) : Nat := (2 ^ f.ebits - 1) * 2 ^ f.fbits

/-- The pattern of the sign bit. -/
def Fmt.signBit (f : Fmt) : Nat := 2 ^ (f.ebits + f.fbits)

/-- The canonical quiet NaN (06 R142). -/
def Fmt.nan (f : Fmt) : Nat := f.infBits + 2 ^ (f.fbits - 1)

/-- The pattern of a magnitude with a sign. -/
def Fmt.signed (f : Fmt) (s : Bool) (mag : Nat) : Nat := if s then f.signBit + mag else mag

/-- A value: NaN, an infinity, or (-1)^s × m × 2^e. -/
inductive FVal where
  | nan
  | inf (s : Bool)
  | fin (s : Bool) (m : Nat) (e : Int)
  deriving DecidableEq, Repr

/-- The sign bit of a pattern. -/
def Fmt.neg? (f : Fmt) (x : Nat) : Bool := x / f.signBit % 2 == 1

/-- The magnitude bits of a pattern. -/
def Fmt.mag (f : Fmt) (x : Nat) : Nat := x % f.signBit

/-- A pattern is a NaN. -/
def Fmt.isNan (f : Fmt) (x : Nat) : Bool := decide (f.infBits < f.mag x)

/-- The value of a pattern. -/
def Fmt.val (f : Fmt) (x : Nat) : FVal :=
  let s := f.neg? x
  let m := f.mag x
  if f.infBits < m then .nan
  else if m = f.infBits then .inf s
  else
    let ef := m / 2 ^ f.fbits
    let fr := m % 2 ^ f.fbits
    if ef = 0 then .fin s fr f.qmin else .fin s (fr + 2 ^ f.fbits) (f.qmin + ef - 1)

/-- An infinity as a rounded operation gives it: sat replaces it (06 R141). -/
def Fmt.infinity (f : Fmt) (sat s : Bool) : Nat := f.signed s (if sat then f.infBits - 1 else f.infBits)

/-- What an overflow gives for a direction (06 R140). -/
def Fmt.overflow (f : Fmt) (rnd : Nat) (sat s : Bool) : Nat :=
  let toInf := rnd = 0 || rnd = 4 || (rnd = 2 && !s) || (rnd = 3 && s)
  f.signed s (if toInf && !sat then f.infBits else f.infBits - 1)

/-- Whether a direction rounds a magnitude up: `c` compares the discarded part with one half (0 less, 1 equal, 2 more),
`exact` says that nothing is discarded (06 R140, 03 R69). -/
def roundUp (rnd : Nat) (s odd exact : Bool) (c : Nat) : Bool :=
  match rnd with
  | 0 => c == 2 || (c == 1 && odd)
  | 1 => false
  | 2 => !s && !exact
  | 3 => s && !exact
  | _ => c == 2 || c == 1

/-- Compares a remainder and a sticky bit with half of 2^k: 0 less, 1 equal, 2 more. -/
def cmpHalf (rem k : Nat) (sticky : Bool) : Nat :=
  let twice := 2 * rem
  if twice < 2 ^ k then 0 else if twice = 2 ^ k && !sticky then 1 else 2

/-- (n + δ) × 2^e rounded to a multiple of 2^q, as a count of 2^q; δ is 0, or strictly between 0 and 1 when `sticky`. -/
def roundAt (rnd : Nat) (s : Bool) (n : Nat) (e q : Int) (sticky : Bool) : Nat :=
  if q ≤ e then n * 2 ^ (e - q).toNat
  else
    let k := (q - e).toNat
    let m := n / 2 ^ k
    let rem := n % 2 ^ k
    if roundUp rnd s (m % 2 == 1) (rem == 0 && !sticky) (cmpHalf rem k sticky) then m + 1 else m

/-- `round((-1)^s × (n + δ) × 2^e, f)` (06 R140). With `sticky`, n must hold at least three bits more than the format. -/
def Fmt.round (f : Fmt) (rnd : Nat) (sat s : Bool) (n : Nat) (e : Int) (sticky : Bool) : Nat :=
  if n = 0 && !sticky then f.signed s 0
  else
    let top : Int := Nat.log2 n + e
    let q := if f.qmin ≤ top - f.fbits then top - f.fbits else f.qmin
    let m := roundAt rnd s n e q sticky
    let bits := (q - f.qmin).toNat * 2 ^ f.fbits + m
    if f.infBits ≤ bits then f.overflow rnd sat s else f.signed s bits

/-- An exact signed integer × 2^e, rounded; an exact zero takes the sign the caller gives. -/
def Fmt.roundInt (f : Fmt) (rnd : Nat) (sat : Bool) (z : Bool) (n e : Int) : Nat :=
  if n = 0 then f.signed z 0 else f.round rnd sat (decide (n < 0)) n.natAbs e false

/-- The signed integer of a value's magnitude scaled to 2^q, for q at most its exponent. -/
def scaled (s : Bool) (m : Nat) (e q : Int) : Int :=
  let v : Int := m * 2 ^ (e - q).toNat
  if s then -v else v

/-- The sum of two values (06 R140, R144). -/
def Fmt.addVal (f : Fmt) (rnd : Nat) (sat : Bool) (x y : FVal) : Nat :=
  match x, y with
  | .nan, _ => f.nan
  | _, .nan => f.nan
  | .inf s, .inf t => if s = t then f.infinity sat s else f.nan
  | .inf s, .fin _ _ _ => f.infinity sat s
  | .fin _ _ _, .inf t => f.infinity sat t
  | .fin s m e, .fin t n g =>
    let q := if e ≤ g then e else g
    f.roundInt rnd sat (if s = t then s else rnd == 3) (scaled s m e q + scaled t n g q) q

/-- The exact product of two values. -/
def mulVal (x y : FVal) : FVal :=
  match x, y with
  | .nan, _ => .nan
  | _, .nan => .nan
  | .inf s, .inf t => .inf (s != t)
  | .inf s, .fin t n _ => if n = 0 then .nan else .inf (s != t)
  | .fin s m _, .inf t => if m = 0 then .nan else .inf (s != t)
  | .fin s m e, .fin t n g => .fin (s != t) (m * n) (e + g)

/-- A value rounded into a format. -/
def Fmt.ofVal (f : Fmt) (rnd : Nat) (sat : Bool) (x : FVal) : Nat :=
  match x with
  | .nan => f.nan
  | .inf s => f.infinity sat s
  | .fin s m e => f.round rnd sat s m e false

/-- The negation of a value. -/
def negVal (x : FVal) : FVal :=
  match x with
  | .nan => .nan
  | .inf s => .inf (!s)
  | .fin s m e => .fin (!s) m e

/-- `fadd` and its counterparts. -/
def Fmt.add (f : Fmt) (rnd : Nat) (sat : Bool) (x y : Nat) : Nat := f.addVal rnd sat (f.val x) (f.val y)

/-- `fsub` and its counterparts. -/
def Fmt.sub (f : Fmt) (rnd : Nat) (sat : Bool) (x y : Nat) : Nat := f.addVal rnd sat (f.val x) (negVal (f.val y))

/-- `fmul` and its counterparts. -/
def Fmt.mul (f : Fmt) (rnd : Nat) (sat : Bool) (x y : Nat) : Nat := f.ofVal rnd sat (mulVal (f.val x) (f.val y))

/-- `fma`: z + x × y with one rounding. -/
def Fmt.fma (f : Fmt) (rnd : Nat) (sat : Bool) (x y z : Nat) : Nat :=
  f.addVal rnd sat (f.val z) (mulVal (f.val x) (f.val y))

/-- The quotient of two values. -/
def Fmt.divVal (f : Fmt) (rnd : Nat) (sat : Bool) (x y : FVal) : Nat :=
  match x, y with
  | .nan, _ => f.nan
  | _, .nan => f.nan
  | .inf _, .inf _ => f.nan
  | .inf s, .fin t _ _ => f.infinity sat (s != t)
  | .fin s _ _, .inf t => f.signed (s != t) 0
  | .fin s m e, .fin t n g =>
    if n = 0 then (if m = 0 then f.nan else f.infinity sat (s != t))
    else
      let k := f.fbits + 4 + Nat.log2 n
      f.round rnd sat (s != t) (m * 2 ^ k / n) (e - g - k) (m * 2 ^ k % n != 0)

/-- `fdiv` and `ddiv`. -/
def Fmt.div (f : Fmt) (rnd : Nat) (sat : Bool) (x y : Nat) : Nat := f.divVal rnd sat (f.val x) (f.val y)

/-- `frcp`: 1 / x. -/
def Fmt.rcp (f : Fmt) (rnd : Nat) (sat : Bool) (x : Nat) : Nat := f.divVal rnd sat (.fin false 1 0) (f.val x)

/-- The integer square root, bit k downward. -/
def isqrtFrom (k n r : Nat) : Nat :=
  match k with
  | 0 => if (r + 1) * (r + 1) ≤ n then r + 1 else r
  | k + 1 => let c := r + 2 ^ (k + 1); isqrtFrom k n (if c * c ≤ n then c else r)

/-- The integer square root. -/
def isqrt (n : Nat) : Nat := isqrtFrom (Nat.log2 n / 2 + 1) n 0

/-- `fsqrt` and `dsqrt` (06 R145). -/
def Fmt.sqrt (f : Fmt) (rnd : Nat) (sat : Bool) (x : Nat) : Nat :=
  match f.val x with
  | .nan => f.nan
  | .inf s => if s then f.nan else f.infinity sat false
  | .fin s m e =>
    if m = 0 then f.signed s 0
    else if s then f.nan
    else
      let odd := (e % 2).toNat
      let n := m * 2 ^ (2 * (f.fbits + 4) + odd)
      let r := isqrt n
      f.round rnd sat false r ((e - odd) / 2 - (f.fbits + 4)) (r * r != n)

/-- `frsq`: 1 / √x (06 R145). -/
def Fmt.rsqrt (f : Fmt) (rnd : Nat) (sat : Bool) (x : Nat) : Nat :=
  match f.val x with
  | .nan => f.nan
  | .inf s => if s then f.nan else f.signed false 0
  | .fin s m e =>
    if m = 0 then f.infinity sat s
    else if s then f.nan
    else
      let odd := (e % 2).toNat
      let m1 := m * 2 ^ odd
      let k := f.fbits + 4 + Nat.log2 m1
      let r := isqrt (2 ^ (2 * k) / m1)
      f.round rnd sat false r (-((e - odd) / 2) - k) (r * r * m1 != 2 ^ (2 * k))

/-- The product, at 128 fraction bits, of `acc` and of 2^(2^-i) for each bit of `frac`, most significant first; `root` is
2^(2^-i) and `bits` counts the fraction bits that remain. -/
def exp2Bits (bits frac root acc : Nat) : Nat :=
  match bits with
  | 0 => acc
  | b + 1 =>
    let r := isqrt (root * 2 ^ 128)
    exp2Bits b (frac % 2 ^ b) r (if frac / 2 ^ b = 1 then acc * r / 2 ^ 128 else acc)

/-- `fexp2`: 2^x, correctly rounded (06 R144, R145). 2^x of a value that is no integer is irrational, so the discarded part
is never zero. -/
def Fmt.exp2 (f : Fmt) (rnd : Nat) (sat : Bool) (x : Nat) : Nat :=
  match f.val x with
  | .nan => f.nan
  | .inf s => if s then f.signed false 0 else f.infinity sat false
  | .fin s m e =>
    if m = 0 then f.round rnd sat false 1 0 false
    else if Nat.log2 m + e < -60 then
      -- within 2^-60 of 1 and not 1
      if s then f.round rnd sat false (2 ^ 100 - 1) (-100) true else f.round rnd sat false (2 ^ 100) (-100) true
    else if 12 ≤ Nat.log2 m + e then
      -- past every format of the manual
      if s then f.round rnd sat false 0 (f.qmin - 10) true else f.overflow rnd sat false
    else
      let fb := (if e < 0 then -e else 0).toNat
      let v := scaled s m e (-fb)
      let k := v / 2 ^ fb
      let fr := (v % 2 ^ fb).toNat
      if fr = 0 then f.round rnd sat false 1 k false
      else f.round rnd sat false (exp2Bits fb fr (2 * 2 ^ 128) (2 ^ 128)) (k - 128) true

/-- `n` bits of log2 y, most significant first, for y in [1, 2) at 400 fraction bits, by squaring. -/
def log2Bits (n y acc : Nat) : Nat :=
  match n with
  | 0 => acc
  | n + 1 =>
    let z := y * y / 2 ^ 400
    if 2 * 2 ^ 400 ≤ z then log2Bits n (z / 2) (2 * acc + 1) else log2Bits n z (2 * acc)

/-- `flog2`: log2 x, correctly rounded (06 R144, R145). log2 of a value that is no power of two is irrational. -/
def Fmt.log2 (f : Fmt) (rnd : Nat) (sat : Bool) (x : Nat) : Nat :=
  match f.val x with
  | .nan => f.nan
  | .inf s => if s then f.nan else f.infinity sat false
  | .fin s m e =>
    if m = 0 then f.infinity sat true
    else if s then f.nan
    else
      let k := Nat.log2 m
      let top : Int := k + e
      if m = 2 ^ k then f.roundInt rnd sat false top 0
      else
        let t : Int := top * 2 ^ 128 + log2Bits 128 (m * 2 ^ (400 - k)) 0
        if 0 ≤ t then f.round rnd sat false t.toNat (-128) true
        else f.round rnd sat true (-t - 1).toNat (-128) true

/-- A value rounded to an integer in a direction, as a signed integer (06 R150). -/
def intOf (rnd : Nat) (s : Bool) (m : Nat) (e : Int) : Int :=
  let n : Int := roundAt rnd s m e 0 false
  if s then -n else n

/-- `frnd` (06 R145): a result of zero keeps the sign of x. -/
def Fmt.rint (f : Fmt) (rnd : Nat) (sat : Bool) (x : Nat) : Nat :=
  match f.val x with
  | .nan => f.nan
  | .inf s => f.infinity sat s
  | .fin s m e => f.round rnd sat s (roundAt rnd s m e 0 false) 0 false

/-- A value × 2^k rounded to an integer and clamped; a NaN gives 0 (06 R150). -/
def Fmt.toInt (f : Fmt) (rnd : Nat) (k lo hi : Int) (x : Nat) : Int :=
  match f.val x with
  | .nan => 0
  | .inf s => if s then lo else hi
  | .fin s m e =>
    let v := intOf rnd s m (e + k)
    if v < lo then lo else if hi < v then hi else v

/-- A key that orders finite values and infinities, with -0 below +0 (06 R145). -/
def Fmt.key (f : Fmt) (x : Nat) : Int := if f.neg? x then -(f.mag x : Int) - 1 else f.mag x

/-- `fmin` (minimumNumber, 06 R145). -/
def Fmt.min (f : Fmt) (x y : Nat) : Nat :=
  if f.isNan x then (if f.isNan y then f.nan else y)
  else if f.isNan y then x
  else if f.key x ≤ f.key y then x else y

/-- `fmax` (maximumNumber, 06 R145). -/
def Fmt.max (f : Fmt) (x y : Nat) : Nat :=
  if f.isNan x then (if f.isNan y then f.nan else y)
  else if f.isNan y then x
  else if f.key x ≤ f.key y then y else x

/-- `fabs` (06 R144): a NaN gives the canonical NaN. -/
def Fmt.abs (f : Fmt) (x : Nat) : Nat := if f.isNan x then f.nan else f.mag x

/-- `fneg` (06 R144). -/
def Fmt.negate (f : Fmt) (x : Nat) : Nat := if f.isNan x then f.nan else f.signed (!f.neg? x) (f.mag x)

/-- The key without the distinction of the two zeros. -/
def Fmt.order (f : Fmt) (x : Nat) : Int := if f.neg? x then -(f.mag x : Int) else f.mag x

/-- x = y; a NaN makes it false (06 R144). -/
def Fmt.eq (f : Fmt) (x y : Nat) : Bool := !f.isNan x && !f.isNan y && f.order x == f.order y

/-- x < y; a NaN makes it false. -/
def Fmt.lt (f : Fmt) (x y : Nat) : Bool := !f.isNan x && !f.isNan y && decide (f.order x < f.order y)

/-- x ≤ y; a NaN makes it false. -/
def Fmt.le (f : Fmt) (x y : Nat) : Bool := !f.isNan x && !f.isNan y && decide (f.order x ≤ f.order y)

/-- x or y is a NaN. -/
def Fmt.un (f : Fmt) (x y : Nat) : Bool := f.isNan x || f.isNan y

/-- The class bit of a pattern (06 R146). -/
def Fmt.classBit (f : Fmt) (x : Nat) : Nat :=
  let m := f.mag x
  let s := f.neg? x
  if f.infBits < m then (if m < f.nan then 8 else 9)
  else if m = f.infBits then (if s then 0 else 7)
  else if m = 0 then (if s then 3 else 4)
  else if m < 2 ^ f.fbits then (if s then 2 else 5)
  else if s then 1 else 6

/-- `fclass` (06 R146). -/
def Fmt.classMask (f : Fmt) (x : Nat) : Nat := 2 ^ f.classBit x

/-- A float operation on words. -/
def w32 (n : Nat) : Word := BitVec.ofNat 32 n

/-- A float operation on pairs. -/
def w64 (n : Nat) : Pair := BitVec.ofNat 64 n

end Sys2Proof.Machine
end

