-- ==== Sys2Proof/Config.lean ====
section
/-!
DEFINITION. What one FV320 fixes: the figures of 01 R17 to R22, and the values the manual leaves open. An open value is
an opaque constant, so nothing can be proved about which value it is; where the manual bounds it, the bound is applied
where the value is used.
-/
namespace Sys2Proof.Config

/-- Cores of the module (01 R17). -/
def cores : Nat := 320

/-- Compute dies of the module (01 R17). -/
def dies : Nat := 8

/-- Cores of a die (00 R9). -/
def coresPerDie : Nat := 40

/-- Cores of a cluster (00 R9). -/
def coresPerCluster : Nat := 8

/-- Lanes of a core (01 R17). -/
def lanes : Nat := 64

/-- Slot rows of a core (01 R17). -/
def slotRows : Nat := 32

/-- Entries of a Block Table (04 R84). -/
def tableEntries : Nat := 128

/-- Places of an overflow queue (04 R88). -/
def queuePlaces : Nat := 2048

/-- Strand contexts of a decoder (04 R90). -/
def strandContexts : Nat := 4

/-- Bytes of a line (01 R20). -/
def lineBytes : Nat := 128

/-- Lines of an L1: 2 MiB of 128 bytes (01 R22). -/
def l1Lines : Nat := 16384

/-- Entries of an L1 TLB and of an L2 TLB (08 R186). -/
def l1TlbEntries : Nat := 256

/-- Entries of an L2 TLB (08 R186). -/
def l2TlbEntries : Nat := 32768

/-- Page walkers of a die (08 R187). -/
def walkers : Nat := 96

/-- Bytes of a core scratchpad, of a cluster's memory and of a die scratchpad (01 R17). -/
def coreScratch : Nat := 524288

/-- Bytes of a cluster's memory (01 R17). -/
def clusterBytes : Nat := 2097152

/-- Bytes of a die scratchpad (01 R17). -/
def dieScratch : Nat := 33554432

/-- Bytes of lane-private memory of a lane (01 R17). -/
def laneBytes : Nat := 16384

/-- Bytes of on-package memory of a die: 2^37 (01 R20). -/
def dieBytes : Nat := 2 ^ 37

/-- The first physical address past a module's map; the base of a peer's places in the model (01 R20). -/
def placeSpan : Nat := 2 ^ 46

/-- L2 slices of a die (01 R18). -/
def slices : Nat := 24

/-- NCU lock entries of a slice (01 R18). -/
def lockEntries : Nat := 64

/-- Fabric links of a module (14 R315). -/
def links : Nat := 47

/-- Capacity behind each CXL port, before the limit of 4 TiB (01 R20). An open value: what is fitted. DESIGN CHOICE: R20 fixes it until the
next module reset only; the model has one capacity for a port whatever resets come (assumption 103). -/
opaque cxlFitted : Nat → Nat

/-- The cycle by which the request of a field operation has reached the NCU of a peer (11 R256). -/
opaque arrivalAt : Nat → Nat

/-- Whether a module at the far end of a link answers when Clehild starts training on the link in a cycle: a link with no far end never
answers (14 R325). -/
opaque farEndAnswers : Nat → Nat → Bool

/-- An open choice between two outcomes the manual allows, one per use. -/
opaque freeChoice : Nat → Bool

/-- An open number, one per use: which line a full cache gives up. -/
opaque freeNat : Nat → Nat

/-- An open byte, one per use: the part of a saved image whose layout only `ctxload` reads (16 R367). -/
opaque freeByte : Nat → Byte

/-- The byte that an instruction fetch from a peer's memory delivers, by use and place: what stands there is the peer's. -/
opaque peerByte : Nat → Nat → Byte

/-- An open word, one per use. -/
opaque freeWord : Nat → Word

/-- The SHA-256 digest of the firmware key that is fused in the key store (16 R381). -/
opaque fusedKeyDigest : BitVec 256

/-- The fused minimum firmware version (16 R381). -/
opaque fusedMinVersion : Nat

/-- The point that the bytes of a firmware key spell, x and y: the manual does not give the key's form (16 R381). -/
opaque keyPoint : List Byte → Nat × Nat

/-- The module's private identity key, a free value; the key is its residue in the range of ECDSA keys on P-256 (16 R382). -/
opaque identityKey : Nat

/-- The secret number from which the signature of a digest starts, a free value (16 R382). -/
opaque signNonce : BitVec 256 → Nat

/-- The identity certificate (16 R382), as words. -/
opaque identityCertificate : List Word

end Sys2Proof.Config
end

