-- ==== Sys2Proof/Machine/State.lean ====
section
/-!
DEFINITION. The state of one FV320 module as plain data, and the state after a module reset (16 R392).

Sparse maps are lists of (key, value) with strictly rising keys and no entry equal to the map's default, so equal maps
are equal lists. Places of memory are natural numbers: a physical address of this module below 2^46, or
`(dev + 1) * 2^46 + address` for the on-package memory of a peer module.
-/
namespace Sys2Proof.Machine

/-- A sparse map from natural numbers; keys rise strictly and no entry holds the default. -/
abbrev Sparse (α : Type) := List (Nat × α)

/-- The format tag of a register, codes 0 to 9 (01 R29). -/
inductive Tag where
  | raw | int | f32 | h2 | b2 | l5 | cq | x64 | d64 | sc
  deriving DecidableEq, Repr

/-- A register: 32 bits and a tag (01 R34). -/
structure RegVal where
  val : Word := 0
  tag : Tag := .raw
  deriving DecidableEq, Repr

/-- The privilege levels (01 R37). -/
inductive Level where
  | user | supervisor | hypervisor
  deriving DecidableEq, Repr

/-- The outstanding-operation counters (04 R106); `none` for an operation that counts on no counter. -/
inductive Ctr where
  | ld | st | cp | tl | none
  deriving DecidableEq, Repr

/-- What a BLOCKED or QUEUED thread waits for (04 R82, R87). -/
inductive Wait where
  /-- nothing: the thread is ready -/
  | none
  /-- reason counter: the thresholds of a `wait`, 15 for any -/
  | counter (ld st cp tl : Nat)
  /-- reason counter: room for one more operation of a class (R107) -/
  | room (c : Ctr)
  /-- reason counter: the operation has completed (pending registers R169, fences R202, invalidations R190, `sysset`) -/
  | op (id : Nat)
  /-- reason counter: earlier loads, stores and the like of the thread have completed (the releases of `bar`, `crpost`,
  R220, R229) -/
  | quiet
  /-- reason counter: earlier loads and other value-returning operations of the thread have completed (an acquire, R199) -/
  | loads
  /-- reason counter: earlier loads and copies of the thread have completed (`crgive`, R230) -/
  | reads
  /-- reason counter: the page walk has completed (R166) -/
  | walk (id : Nat)
  /-- reason counter: a tile command entry is free (13 R292) -/
  | tileEntry
  /-- reason barrier: the barrier's instance number has passed `inst` (R220) -/
  | barrier (id inst : Nat)
  /-- reason creel: the creel's counts differ from these: free, filled, and overflow slots in use (R87) -/
  | creel (id free filled extra : Nat)
  /-- reason yield: every entry of the set Y is satisfied, in a cycle after that of the `yield` (R101); an element is (entry number,
  strands formed from it up to the end of that cycle) -/
  | yield (set : List (Nat × Nat)) (since : Nat)
  /-- reason counter: the object's done count has reached the target, or it has ended (15 R343) -/
  | object (handle : Word) (target : Nat)
  deriving DecidableEq, Repr

/-- The state of a thread slot that holds a thread (04 R82). -/
inductive TState where
  /-- in an entry, ready since this cycle -/
  | ready (since : Nat)
  /-- in an entry, not ready -/
  | blocked (w : Wait)
  /-- in the overflow queue -/
  | queued (w : Wait)
  /-- a member of a strand -/
  | issued
  /-- stopped with a fault record -/
  | parked
  /-- ended -/
  | exited
  deriving DecidableEq, Repr

/-- A fault record (04 R112), words 0 to 6; word 7 is the thread's place. `runEnd` is the address after the record's
target word, to which `rfe 1` resumes (16 R358). -/
structure Record where
  onCompletion : Bool := false
  code : Nat := 0
  pc : Pair := 0
  addr : Pair := 0
  word : Word := 0
  aux : Word := 0
  runEnd : Pair := 0
  /-- a held fault that has been counted and reported already (04 R116) -/
  counted : Bool := false
  deriving DecidableEq, Repr

/-- The block that holds a PC: its head, its length in words and its G bit (03 R65). -/
structure Block where
  head : Pair := 0
  len : Nat := 0
  gath : Bool := false
  deriving DecidableEq, Repr

/-- A translation, as a TLB holds it (08 R186). `peer` is the device id of a peer page. -/
structure Trans where
  cid : Nat
  glob : Bool
  vbase : Nat
  size : Nat
  pbase : Nat
  cls : Nat
  w : Bool
  x : Bool
  peer : Option Nat
  pc : Bool
  deriving DecidableEq, Repr

/-- A thread (01 R34, 04 R82, 16 R358). `tid` is the model's own name for it; `slot` is its thread slot index. -/
structure Thread where
  tid : Nat
  core : Nat
  slot : Nat
  unit : Nat
  /-- thread index within the unit, launch-linear -/
  index : Nat
  pc : Pair
  /-- the block that holds `pc` -/
  blk : Block := {}
  budget : Nat
  regs : Sparse RegVal := []
  modeD : Bool := false
  modeP : Bool := true
  modeT : Bool := false
  level : Level := .user
  ld : Nat := 0
  st : Nat := 0
  cp : Nat := 0
  tl : Nat := 0
  depth : Nat := 0
  field : Nat := 256
  cycLatch : Word := 0
  cycLoaded : Bool := false
  record : Record := {}
  everFaulted : Bool := false
  handler : Bool := false
  emul : Bool := false
  ieWord : Word := 0
  iePc : Pair := 0
  ieBlk : Block := {}
  parkPoint : Pair := 0
  parkBlk : Block := {}
  held : List Record := []
  state : TState := .ready 0
  /-- an acquire at this scope that the thread performs when it next issues (10 R220, 15 R343) -/
  owes : Option Nat := none
  /-- the operation whose completion lets the word at `pc` act (a `crtake`, `sysset`, `nsig` that has begun) -/
  begun : Option Nat := none
  /-- the words of a field descriptor that `fdecl` has read at a peer's home and not yet checked (11 R250) -/
  descr : List Word := []
  /-- how far the checks of the word at `pc` have come that translate several addresses, while a walk makes the thread wait: cells of an
  `fdecl` or addresses of a bulk form (11 R250, 14 R317), and the translations that `fdecl` has found -/
  checked : Nat := 0
  pages : List Trans := []
  /-- offsets of the lane-private window that the thread has written (07 R162) -/
  lpWritten : List Nat := []
  deriving DecidableEq, Repr

/-- A named barrier (10 R219); `inst` numbers its instances (the model's own). -/
structure Barrier where
  opened : Bool := false
  np : Nat := 0
  na : Nat := 0
  inst : Nat := 0
  deriving DecidableEq, Repr

/-- The state of a creel slot (10 R226). -/
inductive CreelSlot where
  | free | claimedCopy | claimedPost | filled | taken
  deriving DecidableEq, Repr

/-- A creel (10 R226). `starved` holds, for each thread whose `cpyc` stands for want of a claim, its name and the cycle of its
first blocked attempt (R233). -/
structure Creel where
  v : Bool := false
  base : Nat := 0
  size : Nat := 0
  n : Nat := 0
  h : Nat := 0
  o : Bool := false
  x : Nat := 0
  j : Nat := 0
  captured : Option (Nat × Nat × Nat) := none
  queue : List Nat := []
  slots : Sparse CreelSlot := []
  starved : List (Nat × Nat) := []
  deriving DecidableEq, Repr

/-- A tile engine input format (13 R289). -/
inductive TileFmt where
  | f32 | bf16 | f16 | f64 | lns6
  deriving DecidableEq, Repr

/-- An operand buffer: 64 records of up to 512 bytes, byte b of record r at key 512 r + b (13 R288, R290). -/
structure TileBuf where
  fmt : TileFmt := .f32
  cells : Sparse Byte := []
  deriving DecidableEq, Repr

/-- Ways to pre-empt a unit (15 R351). -/
inductive PreWay where
  | drain | save | flush
  deriving DecidableEq, Repr

/-- A resident unit (01 R24, R35; 13 R288; 15 R346). `uid` is the model's own name for it. -/
structure UnitSt where
  uid : Nat
  slot : Nat
  launch : Word
  index : Nat
  core : Nat
  row0 : Nat
  rows : Nat
  nthreads : Nat
  gw : Nat
  scrOff : Nat := 0
  scrLen : Nat := 0
  cluOff : Nat := 0
  cluLen : Nat := 0
  lpLen : Nat := 512
  ncr : Nat := 0
  acc : Nat := 0
  barriers : Sparse Barrier := []
  creels : Sparse Creel := []
  /-- accumulator tiles: element (t, i, j) at key 4096 t + 64 i + j -/
  tiles : Sparse Word := []
  bufA : Sparse TileBuf := []
  bufB : Sparse TileBuf := []
  /-- tile configuration word of each group -/
  config : Sparse Word := []
  /-- deterministic claims: (0 tile, 1 A, 2 B; index; group) (13 R312) -/
  tileClaims : List (Nat × Nat × Nat) := []
  /-- cycles the unit has spent on cores before this placement, and the cycle of this placement (15 R351) -/
  usedBefore : Nat := 0
  placedAt : Nat := 0
  pre : Option PreWay := none
  /-- bounds of the requests to pre-empt it that wait at Clehild (15 R351) -/
  wants : List Nat := []
  /-- the `ctxsave` operation that saves the unit -/
  saveOp : Option Nat := none
  stopped : Bool := false
  /-- the debugger has stopped its strand formation (16 R379) -/
  halted : Bool := false
  stallSince : Option Nat := none
  stallSent : Bool := false
  deriving DecidableEq, Repr

/-- One entry of a Block Table (04 R84): V is its presence. WAIT, READY and AGE are computed from the threads. `num` is
the model's own number of the entry and `formed` counts the strands formed from it (04 R101). -/
structure Entry where
  num : Nat
  resume : Bool
  cid : Nat
  launchNo : Nat
  pc : Pair
  blk : Block
  formed : Nat := 0
  deriving DecidableEq, Repr

/-- The hint run before the next instruction word (03 R68). -/
structure Hints where
  hk : Option (BitVec 24) := none
  hx : Option (BitVec 17 × Reg) := none
  hs : Option (BitVec 3 × BitVec 4) := none
  hq : Option (BitVec 1 × BitVec 4 × BitVec 1 × BitVec 3) := none
  deriving DecidableEq, Repr

/-- A strand in flight (04 R90 to R94): its members in lane order, the words of its block that it fetched, the number
of words issued, and the length of the hint run just before the next word. -/
structure Strand where
  sid : Nat
  core : Nat
  dec : Nat
  blk : Block
  words : List Word
  pos : Nat
  members : List Nat
  hints : Hints := {}
  runLen : Nat := 0
  /-- the cycle of its formation -/
  formedAt : Nat := 0
  /-- consecutive rounds lost to bank conflicts, and the cycle of the last (05 R137) -/
  lost : Nat := 0
  lostAt : Option Nat := none
  /-- the cycle before which it waits for the result of its last word (06 R161) -/
  busyTo : Nat := 0
  deriving DecidableEq, Repr

/-- A page walk, queued or running (08 R187). -/
structure Walk where
  wid : Nat
  die : Nat
  slot : Nat
  cid : Nat
  vpage : Nat
  running : Bool := false
  root : Nat := 0
  ga : Bool := false
  rootValid : Bool := false
  stale : Bool := false
  /-- the level and flags that ended a walk without a translation (08 R183) -/
  failed : Option Word := none
  /-- the operations and tile commands whose engines wait for it -/
  engines : List Nat := []
  deriving DecidableEq, Repr

/-- A pointer entry that a die's walk cache holds (08 R187): the context, the level of the entry, the addresses it serves (their number at
that level's grain) and the table that it points to. -/
structure Pointer where
  cid : Nat
  /-- the table of the root that its walk began at (08 R193) -/
  root : Nat := 0
  level : Nat
  part : Nat
  next : Nat
  deriving DecidableEq, Repr

/-- A line that an L1 holds (07 R173); `mark` is the page and context of a line filled from a SEALED page (12 R282), of
size `pageSize`, of which only the bytes below `upTo` lie below its tail. -/
structure L1Line where
  copy : Sparse Byte := []
  mark : Option (Nat × Nat) := none
  upTo : Nat := 128
  pageSize : Nat := 0
  peer : Bool := false
  /-- by half-sector of the line, how far its check code is from the code of its bytes (16 R375) -/
  codes : Sparse Half := []
  pinned : Bool := false
  /-- an acquire came while it was pinned: it goes when its pin is released (09 R199) -/
  doomed : Bool := false
  deriving DecidableEq, Repr

/-- A delta that a remote partition holds for a word (32 bits) or an aligned word pair (64 bits) (09 R206). -/
structure Delta where
  wide : Bool
  val : Pair
  deriving DecidableEq, Repr

/-- A line of a die's remote partition (09 R197, R206, R207): copy, dirty byte offsets, deltas by byte offset. Unless the
copy is `whole`, only its dirty bytes are held. -/
structure RemoteLine where
  whole : Bool := false
  copy : Sparse Byte := []
  dirty : List Nat := []
  deltas : Sparse Delta := []
  /-- by half-sector of the line, how far its check code is from the code of its bytes (16 R375) -/
  codes : Sparse Half := []
  deriving DecidableEq, Repr

/-- A replica of a sealed page in a die's hamper (12 R279): its page place, size and tail, its slot as an offset in the hamper, whose memory
holds its bytes, and the lines present. -/
structure Replica where
  page : Nat
  size : Nat
  tail : Nat
  place : Nat := 0
  lines : List Nat := []
  deriving DecidableEq, Repr

/-- The states of an append-seal page (12 R261). -/
inductive PageState where
  | opened | sealed | freeing
  deriving DecidableEq, Repr

/-- An append-seal page record (12 R261, R280, R287). `reserved` lists the reservations (offset, length) whose data is not
yet written: PW is its presence and F is its least offset, or T. -/
structure PageRec where
  state : PageState
  size : Nat
  tail : Nat := 0
  reserved : List (Nat × Nat) := []
  repDies : List Nat := []
  repPeers : List Nat := []
  repAll : Bool := false
  /-- the deterministic claims: context slot, launch, U, Γ (12 R287) -/
  claims : List (Nat × Word × Nat × Nat) := []
  /-- the free or aopen in progress, the acknowledgements it waits for, and whether it ends with no record -/
  freeOp : Option Nat := none
  acks : List Nat := []
  reclaiming : Bool := false
  removing : Bool := false
  deriving DecidableEq, Repr

/-- A lock entry of an NCU (11 R253, R254): the cell, the transfer and whether it is a first lock. -/
structure Lock where
  cell : Nat
  op : Nat
  first : Bool
  deriving DecidableEq, Repr

/-- One of a field's counter sets (11 R240): `key` 0 to 7 for a die, 8 device, 9 global. -/
structure CounterSet where
  slot : Nat
  fid : Nat
  key : Nat
  interior : Pair := 0
  emitted : Pair := 0
  absorbed : Pair := 0
  initial : Pair := 0
  outOfRange : Pair := 0
  deriving DecidableEq, Repr

/-- A change on its way to a counter set (11 R240). -/
structure CounterUpd where
  uid : Nat
  op : Nat
  cell : Nat
  slot : Nat
  fid : Nat
  key : Nat
  dInterior : Int
  dEmitted : Int
  dAbsorbed : Int
  dRange : Int
  applied : Bool := false
  deriving DecidableEq, Repr

/-- An installed field descriptor: its 16 words (11 R237), whether `fdecl` has completed, its install number, and the translations of its
cells that `fdecl` found at issue (R250 step 4). -/
structure FieldSt where
  words : List Word
  usable : Bool
  gen : Nat
  pages : List Trans := []
  deriving DecidableEq, Repr

/-- A programmable scope (09 R195). LVL and DIE are kept as the device computes them. -/
structure Scope where
  v : Bool := false
  mask : BitVec 320 := 0
  lvl : Nat := 0
  die : Nat := 0
  deriving DecidableEq, Repr

/-- The states of an object (15 R341). -/
inductive ObjState where
  | waiting | running | complete | cancelled
  deriving DecidableEq, Repr

/-- A launch, graph, phase or job (15 R337 to R341). -/
structure Obj where
  handle : Word
  parent : Word
  state : ObjState := .running
  done : Nat := 0
  fault : Bool := false
  range : Bool := false
  ctxErr : Bool := false
  fld : Nat := 0
  closed : Bool := false
  faults : Nat := 0
  /-- launches: the descriptor, the creel entries and the scope entries of the annex, the level of its threads -/
  desc : List Word := []
  creels : List (Nat × Word) := []
  scopes : List (Nat × BitVec 320) := []
  level : Level := .user
  /-- launches: the transfer set (field id, install number) -/
  xferSet : List (Nat × Nat) := []
  /-- launches: the launch number it holds on each core (04 R84) -/
  numbers : Sparse Nat := []
  /-- launches: cores on which a drain in progress stops new placement (15 R352) -/
  draining : List Nat := []
  deriving DecidableEq, Repr

/-- A tenant context slot: its registers (08 R193, 09 R195, 10 R233, 14 R316, 15 R349, R350, 16 R364), its fields and its
objects. -/
structure Slot where
  root : Nat := 0
  cid : Nat := 0
  ga : Bool := false
  v : Bool := false
  ways : BitVec 16 := 0xFFFF
  walk : Nat := 6
  scopes : Sparse Scope := []
  ovBase : Pair := 0
  ovEn : Bool := false
  ovStr : Nat := 16
  ovM : Nat := 0
  /-- die windows: (size, base) in units of 64 KiB, by die -/
  win : Sparse (Nat × Nat) := []
  ctagV : Bool := false
  ctag : Nat := 0
  expWe : Bool := false
  expV : Bool := false
  expSize : Nat := 0
  expBase : Nat := 0
  qCr : Nat := 16
  qLk : Nat := 3
  qTc : Nat := 16
  qBt : Nat := 8
  cores : BitVec 320 := BitVec.allOnes 320
  fields : Sparse FieldSt := []
  objs : List Obj := []
  nextNo : Sparse Nat := []
  /-- the placement queue: a launch with a range of unit indices, from the first up to before the second (15 R347) -/
  queue : List (Word × Nat × Nat) := []
  /-- global-set reads that hold the context's cross-module transfers (11 R242) -/
  holds : List (Nat × Nat) := []
  ended : Bool := false
  /-- the model's number of the context that the slot holds: a valid root for another context id, or after the context ended, opens a
  new context -/
  gen : Nat := 0
  deriving DecidableEq, Repr

/-- One memory access of an operation: space, virtual address (or offset), place, size, page class, page base and size,
cache policy, peer-cacheable. -/
structure Access where
  sp : Nat
  va : Pair
  loc : Nat
  z : Nat
  cls : Nat := 0
  pageLoc : Nat := 0
  pageSize : Nat := 4096
  pol : Nat := 0
  pc : Bool := false
  w : Bool := false
  /-- an acquire has come since: what it brings is not kept in the L1 (09 R199) -/
  late : Bool := false
  deriving DecidableEq, Repr

/-- Where an atomic executes (09 R204). -/
inductive Place where
  | l1 | slice | home | peer
  deriving DecidableEq, Repr

/-- The functions of atomics and reductions (10 R214, 14 R331). -/
inductive AtomFn where
  | add | sub | and | or | xor | minI | maxI | minN | maxN | xchg | incw | decw | fadd | add64 | xchg64 | dadd
  | cas | cas64
  deriving DecidableEq, Repr

/-- A copy or bulk operation (10 R223, 14 R330, R331). Addresses are copy addresses. -/
structure CopyArgs where
  dst : Pair
  src : Pair
  len : Nat
  rows : Nat := 1
  sStride : Int := 0
  dStride : Int := 0
  zero : Bool := false
  red : Option AtomFn := none
  signal : Pair := 0
  /-- a bulk form: its signal still has to be sent -/
  bulk : Bool := false
  /-- `nget`, which reads its source at the home -/
  get : Bool := false
  /-- `cpyc`: the creel and its slot -/
  creel : Option (Nat × Nat) := none
  pol : Nat := 0
  moved : Nat := 0
  /-- a bulk form, whose packets go in any order: where the run of bytes that it moves began, where that run ends (0 at the end of all), the
  bytes of earlier runs, and the runs that are left (14 R330) -/
  start : Nat := 0
  stop : Nat := 0
  before : Nat := 0
  rest : List (Nat × Nat) := []
  /-- the append-seal page whose tail slice has passed the read of the next byte, which waits for its data (12 R271) -/
  passed : Option Nat := none
  /-- it has read a byte of an append-seal page (12 R277) -/
  sealed : Bool := false
  deriving DecidableEq, Repr

/-- The steps of a transfer (11 R253): on its way to the coordinator; waiting there for the first lock; first lock held; the
second lock requested; both held and the checks passed, so that the commit is on its way; the checks failed, so that the
unlock is on its way; committed at the higher cell; its last change applied; done without effect. -/
inductive XferStep where
  | sent | waitFirst | first | waitSecond | commit | unlock | acked | applied | done
  deriving DecidableEq, Repr

/-- What an operation in flight does. -/
inductive OpKind where
  /-- `acq`: the level of the acquire that follows an `ldacq` -/
  | load (a : Access) (signed : Bool) (acq : Option Nat)
  /-- `rel`: the level of the release that precedes the store of a `strel` -/
  | store (a : Access) (bytes : List Byte) (rel : Option Nat)
  | atomic (a : Access) (f : AtomFn) (x e : Pair) (place : Place) (ordered : Bool)
  | copy (c : CopyArgs)
  | fence (acq rel : Option Nat)
  | inval (cids : List Nat) (all : Bool) (lo hi : Nat)
  | sysWrite (n : Nat) (sel value : Word)
  /-- `pa` and `pb`: the places of the debited and the credited cell, none for a source or sink -/
  | xfer (fid ia ib : Nat) (m : Word) (pa pb : Option Nat) (step : XferStep)
  | cellRead (fid i : Nat) (cell : Option Nat) (check : Bool)
  | totals (fid key k : Nat)
  | fdecl (fid : Nat) (addr : Pair)
  /-- `fdecl` reads its descriptor at a peer's home -/
  | descr (a : Access)
  | append (a : Access) (words : List Word) (off : Option Nat)
  | seal (a : Access)
  | free (a : Access)
  | aopen (a : Access) (ctl : Word)
  | status (a : Access) (word : Bool)
  | lch (a : Access)
  | lcnt (h : Option Word) (q : Nat)
  | pmreq (units : List Nat)
  | writeBack (push home : Bool)
  /-- a line of a peer's drain, with its index in the drain (13 R305) -/
  | drain (line : Nat)
  /-- a reduction or a drained line of a peer, whose operands stand in its packet (14 R331, 13 R305) -/
  | reduction
  /-- a peer's `fdecl` reads a cell, or sets its ω to 0 (11 R250) -/
  | declare (cell : Nat) (zero : Bool)
  | saveUnit (addr : Pair) (unit : Nat)
  | loadUnit (addr : Pair) (core : Word)
  deriving DecidableEq, Repr

/-- An operation in flight. `tid` is 0 for one that no thread issued. `arrived` says that its effect has been made or its
values have come; it completes when every earlier operation of its class and thread has completed (07 R168). -/
structure Op where
  id : Nat
  tid : Nat
  slot : Nat
  launch : Word
  unit : Nat
  /-- the launch-linear index of its unit -/
  uix : Nat
  group : Nat
  core : Nat
  /-- the thread slot index of its thread -/
  tslot : Nat
  cls : Ctr
  batch : Nat := 0
  pc : Pair
  word : Word
  detM : Bool := false
  /-- its launch has ended or its unit was flushed since: it makes no claim (10 R218) -/
  claimless : Bool := false
  /-- of an invalidation: the context slots that it concerned as it was issued (08 R190) -/
  slots : List Nat := []
  kind : OpKind
  /-- the registers that are pending until it completes (07 R169) -/
  dsts : List Reg := []
  /-- the tag that it writes with its values -/
  tag : Tag := .raw
  arrived : Bool := false
  data : List Word := []
  fault : Option (Nat × Pair × Word) := none
  /-- served at the home or tail slice and now waiting there, as a load does for reserved bytes; a store's bytes stand in the L1
  (09 R197) -/
  served : Bool := false
  /-- the next name when a removal of translations was applied: it waits for writes named before (08 R190); the place of a
  core-scope atomic in the order in which its L1 applied them -/
  mark : Option Nat := none
  /-- the request of a peer that it performs -/
  origin : Option Packet := none
  /-- the cycle of its issue -/
  since : Nat := 0
  /-- of a release or an acquire: the cores of its scope as it was issued with it (09 R194, R195) -/
  reach : BitVec 320 := 0
  deriving DecidableEq, Repr

/-- A store to a word of memory that not every core has taken in as code (03 R81). -/
structure CodeWrite where
  /-- the word's place, in words -/
  word : Nat
  tid : Nat
  /-- the name of the store -/
  op : Nat
  /-- the word before the oldest such store to it, the bits that the store writes, and what it writes there -/
  old : Word
  mask : Word
  new : Word
  /-- the releases of the storing thread since: the cores and the level of the scope of each -/
  reached : List (BitVec 320 × Nat) := []
  /-- the cores that have acquired since at such a scope or wider: the store is visible to their fetch -/
  cores : List Nat := []
  deriving DecidableEq, Repr

/-- The stage of a tile command (13 R294, R295, R310). -/
inductive CmdState where
  | waiting | running | faulted | retired
  deriving DecidableEq, Repr

/-- The tile commands (13, encoding). -/
inductive CmdFn where
  | tlda | tldb | tmma | tzero | tdrain | tstacc
  deriving DecidableEq, Repr

/-- A tile command in a core's sequencer (13 R291 to R295). `next` is its progress point: a block of a load in load order, a
K-step of a `tmma`, a line of a drain or a store-out. `unapplied` holds the lines that a
drain has sent and that are not yet applied at their homes. -/
structure Cmd where
  uid : Nat
  unit : Nat
  /-- the launch-linear index of the unit -/
  uix : Nat
  core : Nat
  slot : Nat
  launch : Word
  group : Nat
  /-- first lane of the row span, and its width -/
  lane0 : Nat
  width : Nat
  /-- the leader's name -/
  leader : Nat
  /-- the threads of A with their thread slot indices, ascending -/
  tids : List (Nat × Nat)
  fn : CmdFn
  id : Nat
  x : Nat
  ab : Nat
  bb : Nat
  cfg : Word
  /-- the row or column and address of each record or row -/
  addrs : List (Nat × Pair) := []
  /-- the addresses come from the lanes -/
  gather : Bool := false
  /-- the rows selected: masked rows of a `tmma` or `tzero`, rows of the lanes of A otherwise -/
  rowsOn : List Nat := []
  kappa : Nat := 64
  merge : Option (Nat × Nat) := none
  /-- names of the commands that it waits for -/
  preds : List Nat := []
  pc : Pair
  word : Word
  detM : Bool := false
  state : CmdState := .waiting
  next : Nat := 0
  /-- the append-seal page whose tail slice has passed the read at the progress point, which waits for its data (12 R271) -/
  passed : Option Nat := none
  /-- a load that has read bytes of an append-seal page (12 R277) -/
  sealed : Bool := false
  /-- the lower line of an f64 block whose upper line has still to come (13 R290) -/
  half : List Byte := []
  /-- the accumulators of a running `tmma`: its tile takes them once every K-step is made (13 R296, R302) -/
  partials : Sparse Word := []
  /-- lines of a drain that have been sent and not yet applied; of a unit that was loaded from its image beside its first copy, `sent`
  names the command that sent those of the image -/
  unapplied : List Nat := []
  sent : Option Nat := none
  /-- the thread parked by its fault (13 R310), and the fault; a fault that a saved unit's line meets at its home waits here until the unit
  is restored (R313) -/
  culprit : Nat := 0
  fault : Option (Nat × Pair × Word) := none
  /-- threads for which the command has completed and fallen from tl -/
  counted : List Nat := []
  deriving DecidableEq, Repr

/-- A line of a strict merge at its home (13 R306): its place, context and launch, chunk index and count, the command or
operation and the line of it, and its element values, two words to an element where `wide`. -/
structure HeldLine where
  loc : Nat
  slot : Nat
  launch : Word
  k : Nat
  n : Nat
  cmd : Nat
  line : Nat
  /-- the launch-linear index of its unit -/
  uix : Nat := 0
  det : Bool
  wide : Bool
  vals : List Word
  /-- its address, which a fault names (13 R309) -/
  va : Pair := 0
  deriving DecidableEq, Repr

/-- A merge record (13 R306). -/
structure Merge where
  loc : Nat
  slot : Nat
  launch : Word
  n : Nat
  q : Nat
  held : List HeldLine := []
  deriving DecidableEq, Repr

/-- The claim of a deterministic launch on a line (10 R218). -/
structure Claim where
  line : Nat
  launch : Word
  slot : Nat
  u : Nat
  group : Nat
  mg : Bool := false
  ord : Bool := false
  deriving DecidableEq, Repr

/-- A core (01 R22). -/
structure Core where
  table : Sparse Entry := []
  queue : List Nat := []
  /-- rank of the entry each decoder last formed from (04 R104) -/
  last0 : Option (Nat × Nat) := none
  last1 : Option (Nat × Nat) := none
  /-- the cycle in which decoder 0 last formed a strand, and the lanes it took (04 R92) -/
  formedAt : Option Nat := none
  formedLanes : List Nat := []
  /-- the cycle in which decoder 1 last formed a strand -/
  formedAt1 : Option Nat := none
  /-- the cycle in which each decoder last issued a word (04 R93) -/
  issuedAt : Sparse Nat := []
  /-- the cycle in which threads last moved from the queue, and in which an entry was last spilled (04 R88, R89) -/
  movedAt : Option Nat := none
  spilledAt : Option Nat := none
  /-- F, the fairness bound `wv.fair` (04 R99, 16 R364) -/
  fair : Nat := 256
  l1 : Sparse L1Line := []
  l1tlb : List Trans := []
  scratch : Sparse Byte := []
  /-- lane-private memory: byte o of the window of slot row r in lane l at key (64 r + l) * 16384 + o -/
  lp : Sparse Byte := []
  /-- by thread slot: the context whose threads last used its lane-private memory, 0 for none -/
  lpOwner : Sparse Nat := []
  deriving DecidableEq, Repr

/-- A compute die (01 R18). -/
structure Die where
  /-- the die's own cycle counter (01 R32) -/
  cyc : Nat := 0
  remote : Sparse RemoteLine := []
  l2tlb : List Trans := []
  /-- the walk cache (08 R187) -/
  pointers : List Pointer := []
  replicas : List Replica := []
  scratch : Sparse Byte := []
  hpBase : Nat := 0
  hpSize : Nat := 4096
  ce : Nat := 0
  /-- physical addresses of uncorrectable errors that no instruction has consumed, not yet reported (01 R33) -/
  found : List Nat := []
  gate : Nat := 0
  grant : Nat := 2750
  /-- the die's cycles in which its last grant came and in which GATE last stepped (16 R377) -/
  grantAt : Nat := 0
  gateAt : Nat := 0
  deriving DecidableEq, Repr

/-- The states of a fabric link (14 R325). -/
inductive LinkState where
  | down | training | up | dark
  deriving DecidableEq, Repr

/-- A flow-control pool of one direction (14 R324). -/
structure Pool where
  sent : Half := 0
  freed : Half := 0
  cum : Half := 0
  deriving DecidableEq, Repr

/-- A packet that waits in a module on its way: the cycle since which it has found no link, and the link and pool whose buffers hold it
(14 R323, R324). -/
structure Waiting where
  pkt : Packet
  since : Nat
  source : Option (Nat × Nat) := none
  deriving DecidableEq, Repr

/-- A resync beat (14 R324): the sender's device id, its link number and its twelve CUM values. -/
structure Beat where
  dev : Nat
  link : Nat
  cums : List Half
  deriving DecidableEq, Repr

/-- One beat that a link sends, as its control sideband shows it: the number of the flit that it is part of, none for a control beat; the
pool and the CUM that it returns; and the number of the last flit taken in, which it acknowledges (14 R320, R324, R325). -/
structure Side where
  link : Nat
  flit : Option Nat
  pool : Nat
  cum : Half
  ack : Nat
  deriving DecidableEq, Repr

/-- A fabric link (14 R324, R325, R333). -/
structure Link where
  state : LinkState := .down
  peer : Nat := 0
  plink : Nat := 0
  rtc : Nat := 0
  /-- next sequence number to send, next to accept, flits sent and not acknowledged -/
  txSeq : Nat := 0
  rxSeq : Nat := 0
  replay : List (Nat × Flit) := []
  pools : Sparse Pool := []
  /-- the packet being received and how many payload bytes it still lacks -/
  partialPkt : Option (Packet × Nat) := none
  /-- in a reconfiguration; pools whose waymark has not echoed -/
  reconf : Bool := false
  waymarks : List Nat := []
  connect : Bool := true
  resyncDue : Bool := false
  /-- the switches have settled, and the link's part in the reconfiguration lasts until the tables are rewritten -/
  settled : Bool := false
  /-- pools whose waymark has come and is echoed once their buffers are empty, and those whose waymark has been echoed -/
  echoes : List Nat := []
  echoed : List Nat := []
  /-- the pool whose count the next beat returns, and whether a flit has gone out since the last cycle began (14 R324) -/
  turn : Nat := 0
  sending : Bool := false
  /-- the cycle in which it entered TRAINING -/
  since : Nat := 0
  deriving DecidableEq, Repr

/-- A request to a peer, kept at its source until its response arrives (14 R327). -/
structure Req where
  op : Nat
  tid : Nat
  slot : Nat
  pkt : Packet
  sends : Nat := 0
  /-- cycles for which it has been Reachable and unanswered since it was last sent (14 R327) -/
  waited : Nat := 0
  /-- the core, the slot and the launch of the thread whose request it is (14 R328) -/
  core : Nat := 0
  tslot : Nat := 0
  launch : Word := 0
  /-- the first byte of a copy that it carries -/
  pos : Nat := 0
  /-- a reclaim of the page that it reads has come since: its line is not kept (12 R284) -/
  stale : Bool := false
  deriving DecidableEq, Repr

/-- A message or record that the module has sent to the host (16 R371, R372). -/
structure Msg where
  typ : Nat
  slot : Nat
  seq : Nat
  ack : Nat
  epoch : Nat
  payload : List Word
  /-- the cycle in which it was last sent -/
  sentAt : Nat := 0
  deriving DecidableEq, Repr

/-- A numbered message of the host with its header (16 R371, R372). -/
inductive HostMsg where
  | create (h : MsgHead) (level parent : Word)
  | close (h : MsgHead) (obj : Word)
  | launch (h : MsgHead) (payload : List Word)
  | cancel (h : MsgHead) (obj : Word)
  | preempt (h : MsgHead) (obj bound : Word)
  | counts (h : MsgHead) (obj : Word)
  | register (h : MsgHead) (write : Bool) (n : Reg) (sel value : Word)
  | request (h : MsgHead) (want : Word)
  | attest (h : MsgHead) (nonce : List Byte) (slot : Nat)
  | firmware (h : MsgHead) (image : List Byte) (version : Nat) (key : List Byte) (r s : BitVec 256)
  | checkpoint (h : MsgHead) (restore : Bool) (tier : Nat × List (Nat × Byte))
  | debug (h : MsgHead) (q : DebugQuery)
  deriving DecidableEq, Repr

/-- Security, debug and power states (16 R378). -/
inductive Sec where
  | boot | opened | tenant
  deriving DecidableEq, Repr

/-- Debug state (16 R378). -/
inductive Dbg where
  | off | observe | halt
  deriving DecidableEq, Repr

/-- Power state (16 R378). -/
inductive Pwr where
  | run | idle | retention | off
  deriving DecidableEq, Repr

/-- A change that waits until no unit is resident: to a power state, or a checkpoint; and the slot that gets the reply
(16 R372, R380). -/
structure Pending where
  pwr : Option Pwr
  slot : Nat
  /-- of a checkpoint: the tier that its message names -/
  tier : Nat := 0
  deriving DecidableEq, Repr

/-- Clehild's end of the host channel and the module's security state (16 R371 to R382). -/
structure Clehild where
  epoch : Nat := 0
  nextSeq : Nat := 0
  nextIn : Nat := 0
  log : List Msg := []
  /-- messages past a gap (16 R373) -/
  waiting : List HostMsg := []
  measurement : Option (BitVec 256) := none
  quoted : Bool := false
  pending : Option Pending := none
  deriving DecidableEq, Repr

/-- A unit that was saved (15 R352, 16 R367): what a restore puts back. -/
structure Saved where
  id : Nat
  unit : UnitSt
  threads : List Thread
  cmds : List Cmd
  scratch : Sparse Byte
  cluster : Sparse Byte
  lp : Sparse Byte
  /-- bytes of the image that a `ctxsave` wrote; none for a save by Clehild -/
  image : Option (List Byte) := none
  /-- the `ctxload` that asks for the restore, and the core it names -/
  loadOp : Option Nat := none
  onCore : Option Nat := none
  deriving DecidableEq, Repr

/-- Who acts in a step (the model's own schedule, assumption 2). -/
inductive Actor where
  | strand (sid : Nat)
  | event (e : Instr)
  deriving DecidableEq, Repr

/-- One turn of the schedule: whether a cycle passes before it, who acts, and the dies that have no clock edge in that cycle, since no
time base is shared (01 R32). -/
structure Turn where
  tick : Bool
  who : Actor
  still : List Nat := []
  deriving DecidableEq, Repr

/-- One FV320 module. -/
structure State where
  threads : List Thread := []
  units : List UnitSt := []
  strands : List Strand := []
  ops : List Op := []
  cmds : List Cmd := []
  cores : Sparse Core := []
  dies : Sparse Die := []
  clusters : Sparse (Sparse Byte) := []
  slots : Sparse Slot := []
  walks : List Walk := []
  mem : List Host.Cell := []
  /-- by half-sector of memory, how far its check code is from the code of its bytes: 0 where they agree (16 R375) -/
  codes : Sparse Half := []
  /-- stores that the fetch of some core does not see yet, in issue order (03 R81) -/
  codeWrites : List CodeWrite := []
  /-- home lines whose newest bytes stand in an L2 slice and not yet in the memory behind it (16 R366) -/
  homeDirty : List Nat := []
  claims : List Claim := []
  locks : List Lock := []
  /-- lock requests and reads that wait at a cell, in order of arrival (11 R255) -/
  lockWait : List Lock := []
  omega : Sparse Int := []
  sets : List CounterSet := []
  updates : List CounterUpd := []
  pages : Sparse PageRec := []
  merges : List Merge := []
  /-- strict lines that wait at their slice: for another launch's record, or for room in the merge buffer -/
  mergeWait : List HeldLine := []
  closedMarks : List (Nat × Nat × Word) := []
  saved : List Saved := []
  /-- the units whose images `ctxsave` has written, with what only `ctxload` reads of an image (16 R367, R368) -/
  images : List Saved := []
  /-- launches that have ended, and units that were flushed, of whose claims and held lines the peers have still to be told: the context
  slot, the launch and U (10 R218, 12 R287, 13 R307) -/
  claimsGone : List (Nat × Word × Option Nat) := []
  /-- the context slots and devices between which a request that may leave such a trace has passed -/
  asks : List (Nat × Nat) := []
  /-- erasures of peers that an earlier request of theirs may still come after (10 R218, 14 R327) -/
  gone : List Packet := []
  dev : Nat := 0
  groups : Nat := 1
  links : Sparse Link := []
  routes : List Route := []
  transit : List Waiting := []
  reqs : List Req := []
  nextTxn : Sparse Nat := []
  responses : List Packet := []
  /-- accepted requests of words of peers' threads whose other requests have still to come, each with the slot that accepted it (10 R212,
  12 R263) -/
  gathering : List (Packet × Nat) := []
  /-- for each source, 1 + the LOW of the newest packet that has come from it (14 R327) -/
  lows : Sparse Nat := []
  reconf : List Nat := []
  /-- the cycle in which Clehild last started training on the DOWN links (14 R325) -/
  trainedAt : Option Nat := none
  sec : Sec := .boot
  dbg : Dbg := .off
  pwr : Pwr := .run
  clehild : Clehild := {}
  outbox : List Msg := []
  /-- what checkpoints have streamed out: the tier and on-package memory as it stood (16 R372) -/
  streamed : List (Nat × List Host.Cell) := []
  sentPackets : List Packet := []
  sentBeats : List Beat := []
  /-- the sidebands of the beats that the links have sent, in order -/
  sentSides : List Side := []
  /-- by device, 1 + the cycle in which the last dark interval of a route to it ended (14 R326) -/
  darkEnds : Sparse Nat := []
  now : Nat := 0
  agenda : List Turn := []
  issuing : Nat := 0
  fresh : Nat := 0
  nextId : Nat := 1
  deriving DecidableEq, Repr

/-- Why the machine stops. The spec lets no ordinary behaviour stop the module: a fault of the spec parks its thread. These
name events addressed to an agent that the spec says does not exist; they are safe (the model stops, nothing is claimed
about the hardware). -/
inductive Fault where
  /-- raised by an event addressed to a core above 319 (00 R9); safe -/
  | noSuchCore (n : Nat)
  /-- raised by an event addressed to a compute die above 7 (00 R9); safe -/
  | noSuchDie (n : Nat)
  /-- raised by an event addressed to a link above 46 (14 R315); safe -/
  | noSuchLink (n : Nat)
  deriving DecidableEq, Repr

/-- Why an instruction has no meaning. -/
inductive Refusal where
  /-- raised by an arm of `exec` that has no meaning yet; safe -/
  | notModelled (mnemonic : String)
  deriving DecidableEq, Repr

/-- The hamper base of die e after a reset: e × 65,536 + 61,440 (12 R278). -/
def hpReset (e : Nat) : Nat := e * 65536 + 61440

/-- The module right after a module reset (16 R392): every register at its Reset value, no context, every link DOWN, memory
with nothing listed. -/
def State.reset : State :=
  { dies := [(0, { hpBase := hpReset 0 }), (1, { hpBase := hpReset 1 }), (2, { hpBase := hpReset 2 }),
             (3, { hpBase := hpReset 3 }), (4, { hpBase := hpReset 4 }), (5, { hpBase := hpReset 5 }),
             (6, { hpBase := hpReset 6 }), (7, { hpBase := hpReset 7 })] }

end Sys2Proof.Machine
end

