-- ==== Sys2Proof/Machine/Sparse.lean ====
section
/-!
DEFINITION. Sparse maps: reading, writing and the canonical form. Keys rise strictly; `set` never lists a default value,
so equal maps are equal lists. Memory of the module is such a map from places to bytes whose unlisted places read as 0.
-/
namespace Sys2Proof.Machine

/-- The value at a key, if it is listed. -/
def Sparse.find {α : Type} (m : Sparse α) (k : Nat) : Option α :=
  match m with
  | [] => none
  | (j, v) :: r => if j = k then some v else Sparse.find r k

/-- The value at a key; `d` where it is not listed. -/
def Sparse.get {α : Type} (d : α) (m : Sparse α) (k : Nat) : α :=
  match Sparse.find m k with
  | some v => v
  | none => d

/-- Lists a value at a key, in key order. -/
def Sparse.put {α : Type} (m : Sparse α) (k : Nat) (v : α) : Sparse α :=
  match m with
  | [] => [(k, v)]
  | (j, w) :: r => if k < j then (k, v) :: (j, w) :: r else if k = j then (k, v) :: r else (j, w) :: Sparse.put r k v

/-- Lists nothing at a key. -/
def Sparse.erase {α : Type} (m : Sparse α) (k : Nat) : Sparse α :=
  match m with
  | [] => []
  | (j, w) :: r => if j = k then Sparse.erase r k else (j, w) :: Sparse.erase r k

/-- Writes a value at a key; the default is not listed. -/
def Sparse.set {α : Type} [DecidableEq α] (d : α) (m : Sparse α) (k : Nat) (v : α) : Sparse α :=
  if v = d then Sparse.erase m k else Sparse.put m k v

/-- Keys rise strictly from above `lo`, and no entry holds the default. -/
def Sparse.wfFrom {α : Type} [DecidableEq α] (d : α) (lo : Option Nat) (m : Sparse α) : Bool :=
  match m with
  | [] => true
  | (j, v) :: r => (match lo with | some l => decide (l < j) | none => true) && decide (v ≠ d) && Sparse.wfFrom d (some j) r

/-- The canonical form. -/
def Sparse.wf {α : Type} [DecidableEq α] (d : α) (m : Sparse α) : Bool := Sparse.wfFrom d none m

/-- Removes every key of `[lo, lo + n)`. -/
def Sparse.clear {α : Type} (m : Sparse α) (lo n : Nat) : Sparse α :=
  List.filter (fun p => p.1 < lo || lo + n ≤ p.1) m

/-- What a byte of memory that nothing has written reads as: 0 (assumption 1). -/
def Memory.default : Byte := 0

/-- The byte at a place. -/
def Memory.read (m : List Host.Cell) (a : Nat) : Byte := Sparse.get Memory.default m a

/-- Writes one byte at a place. -/
def Memory.write (m : List Host.Cell) (a : Nat) (b : Byte) : List Host.Cell := Sparse.set Memory.default m a b

/-- The canonical form of memory: places strictly rising, no listed byte equal to what an unlisted place reads as. -/
def Memory.wf (m : List Host.Cell) : Bool := Sparse.wf Memory.default m

/-- `n` bytes from a place, lowest first. -/
def Memory.readBytes (m : List Host.Cell) (a : Nat) (n : Nat) : List Byte :=
  match n with
  | 0 => []
  | n + 1 => Memory.read m a :: Memory.readBytes m (a + 1) n

/-- Writes bytes from a place upward. -/
def Memory.writeBytes (m : List Host.Cell) (a : Nat) (bs : List Byte) : List Host.Cell :=
  match bs with
  | [] => m
  | b :: r => Memory.writeBytes (Memory.write m a b) (a + 1) r

/-- A little-endian number from its bytes, lowest first (00 R2). -/
def leNat (bs : List Byte) : Nat :=
  match bs with
  | [] => 0
  | b :: r => b.toNat + 256 * leNat r

/-- The `n` little-endian bytes of a number (00 R2). -/
def leBytes (n : Nat) (x : Nat) : List Byte :=
  match n with
  | 0 => []
  | n + 1 => BitVec.ofNat 8 x :: leBytes n (x / 256)

end Sys2Proof.Machine
end

