-- ==== Sys2Proof/Machine/Ops.lean ====
section
/-!
DEFINITION. The named operations on the state: threads and their registers, units, objects, context slots, cores and
dies; the conditions threads wait for; the Block Table and the overflow queue; and taking a fault (04 R111 to R117,
03 R78), with the return from one (16 R358).
-/
namespace Sys2Proof.Machine

/-! ### Names and free values -/

/-- The next unused name for a thread, unit, strand, operation, command or walk. -/
def State.bump (s : State) : State := { s with nextId := s.nextId + 1 }

/-- Advances the counter that free values are taken with. -/
def State.stir (s : State) : State := { s with fresh := s.fresh + 1 }

/-! ### Threads and registers -/

/-- The thread of a name. -/
def State.thread? (s : State) (tid : Nat) : Option Thread := s.threads.find? (fun t => t.tid == tid)

/-- Writes a thread back under its name. -/
def State.setThread (s : State) (t : Thread) : State :=
  { s with threads := s.threads.map (fun x => if x.tid = t.tid then t else x) }

/-- Changes the thread of a name. -/
def State.mapThread (s : State) (tid : Nat) (f : Thread → Thread) : State :=
  { s with threads := s.threads.map (fun x => if x.tid = tid then f x else x) }

/-- A register with its tag; a register that nothing has written holds 0, RAW (01 R34). -/
def Thread.reg (t : Thread) (r : Reg) : RegVal := Sparse.get {} t.regs r.toNat

/-- The value of a register. -/
def Thread.val (t : Thread) (r : Reg) : Word := (t.reg r).val

/-- `pair(d)` = v[d+1] ++ v[d] (00 R6). -/
def Thread.pair (t : Thread) (r : Reg) : Pair := pairOf (t.val r) (t.val (r + 1))

/-- Writes a register and its tag. -/
def Thread.setReg (t : Thread) (r : Reg) (v : Word) (k : Tag) : Thread :=
  { t with regs := Sparse.set {} t.regs r.toNat { val := v, tag := k } }

/-- Writes both registers of a pair with one tag (05 R120). -/
def Thread.setPair (t : Thread) (r : Reg) (v : Pair) (k : Tag) : Thread :=
  (t.setReg r (loWord v) k).setReg (r + 1) (hiWord v) k

/-- Writes consecutive registers with one tag. -/
def Thread.setRegs (t : Thread) (r : Reg) (vs : List Word) (k : Tag) : Thread :=
  match vs with
  | [] => t
  | v :: rest => Thread.setRegs (t.setReg r v k) (r + 1) rest k

/-- The code of a tag (01 R29). -/
def Tag.code (k : Tag) : Nat :=
  match k with
  | .raw => 0 | .int => 1 | .f32 => 2 | .h2 => 3 | .b2 => 4 | .l5 => 5 | .cq => 6 | .x64 => 7 | .d64 => 8 | .sc => 9

/-- The tag of a code; codes 10 to 15 are reserved and no instruction writes them (01 R29). -/
def Tag.ofCode (n : Nat) : Tag :=
  match n with
  | 1 => .int | 2 => .f32 | 3 => .h2 | 4 => .b2 | 5 => .l5 | 6 => .cq | 7 => .x64 | 8 => .d64 | 9 => .sc | _ => .raw

/-- The slot row of a thread (00 R9). -/
def Thread.row (t : Thread) : Nat := t.slot / 64

/-- The lane of a thread (00 R9). -/
def Thread.lane (t : Thread) : Nat := t.slot % 64

/-- The die of a core (00 R9). -/
def dieOf (core : Nat) : Nat := core / 40

/-- The module-wide cluster of a core (00 R9). -/
def clusterOf (core : Nat) : Nat := core / 8

/-- A thread that is neither EXITED nor PARKED (04 R96). -/
def Thread.live (t : Thread) : Bool :=
  match t.state with
  | .exited => false
  | .parked => false
  | _ => true

/-- Word 7 of a fault record: the thread's place (04 R112). -/
def Thread.locator (t : Thread) : Word := BitVec.ofNat 32 (t.core * 2048 + t.slot)

/-! ### Units, objects, slots, cores, dies -/

/-- The unit of a name. -/
def State.unit? (s : State) (u : Nat) : Option UnitSt := s.units.find? (fun x => x.uid == u)

/-- Changes the unit of a name. -/
def State.mapUnit (s : State) (u : Nat) (f : UnitSt → UnitSt) : State :=
  { s with units := s.units.map (fun x => if x.uid = u then f x else x) }

/-- A tenant context slot. -/
def State.slot (s : State) (n : Nat) : Slot := Sparse.get {} s.slots n

/-- Changes a tenant context slot. -/
def State.mapSlot (s : State) (n : Nat) (f : Slot → Slot) : State :=
  { s with slots := Sparse.set {} s.slots n (f (s.slot n)) }

/-- A core. -/
def State.core (s : State) (n : Nat) : Core := Sparse.get {} s.cores n

/-- Changes a core. -/
def State.mapCore (s : State) (n : Nat) (f : Core → Core) : State :=
  { s with cores := Sparse.set {} s.cores n (f (s.core n)) }

/-- A compute die. -/
def State.die (s : State) (n : Nat) : Die := Sparse.get {} s.dies n

/-- Changes a compute die. -/
def State.mapDie (s : State) (n : Nat) (f : Die → Die) : State :=
  { s with dies := Sparse.set {} s.dies n (f (s.die n)) }

/-- The model's name of the context that a slot holds. -/
def State.contextOf (s : State) (slot : Nat) : Nat := 16 * (s.slot slot).gen + slot + 1

/-- The object of a handle in a context. -/
def Slot.obj? (c : Slot) (h : Word) : Option Obj := c.objs.find? (fun o => o.handle == h)

/-- Changes the object of a handle. -/
def Slot.mapObj (c : Slot) (h : Word) (f : Obj → Obj) : Slot :=
  { c with objs := c.objs.map (fun o => if o.handle = h then f o else o) }

/-- The object of a handle in a context slot. -/
def State.obj? (s : State) (slot : Nat) (h : Word) : Option Obj := (s.slot slot).obj? h

/-- Changes the object of a handle in a context slot. -/
def State.mapObj (s : State) (slot : Nat) (h : Word) (f : Obj → Obj) : State :=
  s.mapSlot slot (fun c => c.mapObj h f)

/-- Changes an object and the objects that contain it, up to three levels above (15 R341). -/
def State.mapUp (s : State) (slot : Nat) (h : Word) (f : Obj → Obj) (levels : Nat) : State :=
  match levels with
  | 0 => s
  | n + 1 =>
    match s.obj? slot h with
    | none => s
    | some o => State.mapUp (s.mapObj slot h f) slot o.parent f n

/-- The unit of a thread. -/
def State.unitOf (s : State) (t : Thread) : Option UnitSt := s.unit? t.unit

/-- The context slot of a thread. -/
def State.slotOf (s : State) (t : Thread) : Nat :=
  match s.unitOf t with
  | some u => u.slot
  | none => 0

/-- The launch handle of a thread. -/
def State.handleOf (s : State) (t : Thread) : Word :=
  match s.unitOf t with
  | some u => u.launch
  | none => 0

/-- The launch of a thread. -/
def State.launchOf (s : State) (t : Thread) : Option Obj := s.obj? (s.slotOf t) (s.handleOf t)

/-- The context id of a thread. -/
def State.cidOf (s : State) (t : Thread) : Nat := (s.slot (s.slotOf t)).cid

/-- The group of a thread within its unit (00 R9, 01 R24). -/
def State.groupOf (s : State) (t : Thread) : Nat :=
  match s.unitOf t with
  | some u => t.index / u.gw
  | none => 0

/-- The cycles that a die has counted: limits in cycles count on the counter of the die that applies them (00 R4). -/
def State.clock (s : State) (die : Nat) : Nat := (s.die die).cyc

/-- The clock of a core's die. -/
def State.coreClock (s : State) (core : Nat) : Nat := s.clock (dieOf core)

/-- The 64-bit cycle counter of a die (01 R32). -/
def State.cyc (s : State) (die : Nat) : Pair := BitVec.ofNat 64 (s.clock die)

/-- A core cycle passes on every die with a clock edge; the counters count in Run and Idle and hold in Retention (01 R32). -/
def State.countCycle (s : State) (still : List Nat) : State :=
  if s.pwr == .run || s.pwr == .idle then
    (List.range Config.dies).foldl (fun s d => if still.contains d then s else s.mapDie d (fun x => { x with cyc := x.cyc + 1 })) s
  else s

/-- A word of a launch descriptor (15 R338). -/
def Obj.word (o : Obj) (k : Nat) : Word := o.desc.getD k 0

/-- A 64-bit item of a launch descriptor (15 R338). -/
def Obj.item (o : Obj) (k : Nat) : Pair := pairOf (o.word k) (o.word (k + 1))

/-- A field of word 6 of a launch descriptor (15 R338). -/
def Obj.opt (o : Obj) (lo n : Nat) : Nat := (o.word 6).toNat / 2 ^ lo % 2 ^ n

/-- The level of a handle: 0 launch, 1 graph, 2 phase, 3 job (15 R337). -/
def handleLevel (h : Word) : Nat := h.toNat / 2 ^ 30

/-- An object has ended (15 R341). -/
def Obj.ended (o : Obj) : Bool := o.state == .complete || o.state == .cancelled

/-! ### The host's channel, outgoing (16 R371 to R373) -/

/-- Sends a message or record to the host: the next sequence number of the epoch, kept in Clehild's log until an ACK
covers it. -/
def State.send (s : State) (typ slot : Nat) (payload : List Word) : State :=
  let m : Msg := { typ := typ, slot := slot, seq := s.clehild.nextSeq,
                   ack := (s.clehild.nextIn + 2 ^ 32 - 1) % 2 ^ 32, epoch := s.clehild.epoch, payload := payload, sentAt := s.now }
  { s with clehild := { s.clehild with nextSeq := (s.clehild.nextSeq + 1) % 2 ^ 32, log := s.clehild.log ++ [m] },
           outbox := s.outbox ++ [m] }

/-! ### What threads wait for (04 R82, R87) -/

/-- An operation that releases wait for: loads, stores, atomics, field operations, appends, seals and frees (09 R198); `lcnt`
and `lch` are ordered as loads (17 R384, R386). -/
def Op.ordered (o : Op) : Bool :=
  match o.kind with
  | .pmreq _ => false
  | .writeBack _ _ => false
  | .inval _ _ _ _ => false
  | _ => o.cls == .ld || o.cls == .st

/-- An operation is a release that waits for earlier stores (09 R203). -/
def Op.releases (o : Op) : Bool :=
  match o.kind with
  | .fence _ (some _) => true
  | .store _ _ (some _) => true
  | _ => false

/-- An operation is a transfer of conserved fields. -/
def Op.isXfer (o : Op) : Bool :=
  match o.kind with
  | .xfer _ _ _ _ _ _ _ => true
  | _ => false

/-- An operation that acquires wait for: loads, atomics and appends that return a value, `fld`, `ftot` and `atail` (09 R199,
12 R269, R275). -/
def Op.valued (o : Op) : Bool :=
  match o.kind with
  | .status _ true => false
  | .cellRead _ _ _ true => false
  | _ => o.cls == .ld

/-- The state of a creel slot. -/
def Creel.slotAt (c : Creel) (i : Nat) : CreelSlot := Sparse.get .free c.slots i

/-- The run of FREE slots from H in ring order, of at most `n` (10 R226). -/
def Creel.freeRun (c : Creel) (i n : Nat) : Nat :=
  match n with
  | 0 => 0
  | n + 1 => if c.slotAt (i % c.n) = .free then 1 + Creel.freeRun c (i + 1) n else 0

/-- FREE: the consecutive FREE slots from H (10 R226). -/
def Creel.freeCount (c : Creel) : Nat := if c.n = 0 then 0 else c.freeRun c.h c.n

/-- FILLED: the consecutive FILLED slots at the front of the claim queue (10 R226). -/
def Creel.filledCount (c : Creel) : Nat := (c.queue.takeWhile (fun i => c.slotAt i == .filled)).length

/-- Overflow slots in use, counted from 1 while the creel is in overflow mode: claims of `cpyc` wait for these too. -/
def Creel.overCount (c : Creel) : Nat := if c.o then 1 + (c.slots.filter (fun p => c.n ≤ p.1)).length else 0

/-- Overflow mode ends when every overflow slot is FREE, tested as a slot becomes FREE and not as the mode is entered (10 R233; DESIGN CHOICE,
assumption 126). -/
def Creel.leaveOver (c : Creel) : Creel :=
  if c.o && !(c.slots.any (fun p => c.n ≤ p.1)) then { c with o := false, j := 0, captured := none } else c

/-- The locator of the thread that issued an operation (04 R112, word 7). -/
def Op.locator (o : Op) : Word := BitVec.ofNat 32 (o.core * 2048 + o.tslot)

/-- The lane of the thread that issued an operation. -/
def Op.lane (o : Op) : Nat := o.tslot % 64

/-- Tile commands of a context on a core that have not retired (13 R292). -/
def State.cmdCount (s : State) (core slot : Nat) : Nat :=
  (s.cmds.filter (fun c => c.core == core && c.slot == slot && c.state != .retired)).length

/-- The condition of a wait holds for a thread. -/
def State.holds (s : State) (t : Thread) (w : Wait) : Bool :=
  match w with
  | .none => true
  | .counter l x c k =>
    (l == 15 || t.ld ≤ l) && (x == 15 || t.st ≤ x) && (c == 15 || t.cp ≤ c) && (k == 15 || t.tl ≤ k)
  | .room c =>
    match c with
    | .ld => decide (t.ld ≤ 62)
    | .st => decide (t.st ≤ 62)
    | .cp => decide (t.cp ≤ 62)
    | .tl => decide (t.tl ≤ 62)
    | .none => true
  | .op id => !(s.ops.any (fun o => o.id == id))
  | .quiet => !(s.ops.any (fun o => o.tid == t.tid && o.ordered))
  | .loads => !(s.ops.any (fun o => o.tid == t.tid && o.valued))
  | .reads => !(s.ops.any (fun o => o.tid == t.tid && (o.cls == .ld || o.cls == .cp)))
  | .walk id => !(s.walks.any (fun k => k.wid == id && k.failed.isNone))
  | .tileEntry => decide (s.cmdCount t.core (s.slotOf t) < (s.slot (s.slotOf t)).qTc)
  | .barrier id inst =>
    match s.unitOf t with
    | some u => (Sparse.get {} u.barriers id).inst != inst
    | none => true
  | .creel id free filled extra =>
    match s.unitOf t with
    | some u =>
      let c := Sparse.get {} u.creels id
      c.freeCount != free || c.filledCount != filled || c.overCount != extra
    | none => true
  | .yield set since => set.isEmpty && decide (since < s.coreClock t.core)
  | .object h target =>
    match s.obj? (s.slotOf t) h with
    | some o => o.ended || decide (target ≤ o.done)
    | none => true

/-! ### The Block Table and the overflow queue (04 R84 to R89) -/

/-- A thread waits in an entry of its core's table. -/
def Thread.inTable (t : Thread) : Bool :=
  match t.state with
  | .ready _ => true
  | .blocked _ => true
  | _ => false

/-- A thread is READY. -/
def Thread.isReady (t : Thread) : Bool :=
  match t.state with
  | .ready _ => true
  | _ => false

/-- The launch number that a launch holds on a core (04 R84). -/
def State.launchNo (s : State) (t : Thread) : Nat :=
  match s.launchOf t with
  | some o => Sparse.get 0 o.numbers t.core
  | none => 0

/-- The entry is the one a thread waits at: its key is (IDENT, PC) (04 R85). -/
def State.atEntry (s : State) (t : Thread) (e : Entry) : Bool :=
  e.pc == t.pc && e.cid == s.cidOf t && e.launchNo == s.launchNo t

/-- The threads that wait at an entry of a core: its WAIT vector. -/
def State.waiters (s : State) (core : Nat) (e : Entry) : List Thread :=
  s.threads.filter (fun t => t.core == core && t.inTable && s.atEntry t e)

/-- Two threads belong to one group (01 R23). -/
def State.sameGroup (s : State) (t u : Thread) : Bool := t.unit == u.unit && s.groupOf t == s.groupOf u

/-- A group is complete at an entry: every live thread of the group has its READY bit set there (04 R96). -/
def State.groupComplete (s : State) (core : Nat) (e : Entry) (t : Thread) : Bool :=
  s.threads.all (fun u => !(s.sameGroup t u && u.live) || (u.core == core && u.isReady && s.atEntry u e))

/-- The index of the entry that a thread waits at. -/
def State.entryOf (s : State) (t : Thread) : Option (Nat × Entry) :=
  (s.core t.core).table.find? (fun p => s.atEntry t p.2)

/-- The lowest free index of a table, if there is one. -/
def freeIndex (table : Sparse Entry) : Option Nat :=
  (List.range Config.tableEntries).find? (fun i => (Sparse.find table i).isNone)

/-- Entries that a context holds on a core (04 R85). -/
def Core.held (c : Core) (cid : Nat) : Nat := (c.table.filter (fun p => p.2.cid == cid)).length

/-- Entries of a core at which threads of a context slot wait (15 R349). -/
def State.entriesOf (s : State) (core slot : Nat) : Nat :=
  ((s.core core).table.filter (fun p => (s.waiters core p.2).any (fun t => s.slotOf t == slot))).length

/-- Can a thread enter the table without waiting in the queue (04 R85): its entry exists, or one may be made. -/
def State.canEnter (s : State) (t : Thread) : Bool :=
  (s.entryOf t).isSome ||
    ((freeIndex (s.core t.core).table).isSome &&
      decide ((s.core t.core).held (s.cidOf t) < (s.slot (s.slotOf t)).qBt))

/-- Sets a thread's WAIT bit, and its READY bit if its condition holds (04 R85). -/
def State.setWaiting (s : State) (t : Thread) (w : Wait) : State :=
  s.setThread { t with state := if s.holds t w then .ready (s.coreClock t.core) else .blocked w }

/-- A thread takes an entry at its PC, or joins the tail of the overflow queue (04 R85). -/
def State.enter (s : State) (tid : Nat) (w : Wait) : State :=
  match s.thread? tid with
  | none => s
  | some t =>
    match s.entryOf t with
    | some _ => s.setWaiting t w
    | none =>
      if s.canEnter t then
        match freeIndex (s.core t.core).table with
        | none => s
        | some i =>
          let e : Entry := { num := s.nextId, resume := t.pc != t.blk.head, cid := s.cidOf t,
                             launchNo := s.launchNo t, pc := t.pc, blk := t.blk }
          (s.mapCore t.core (fun c => { c with table := Sparse.put c.table i e })).bump.setWaiting t w
      else
        (s.setThread { t with state := .queued w }).mapCore t.core (fun c => { c with queue := c.queue ++ [tid] })

/-- A thread takes an entry at a PC of a block. -/
def State.enterAt (s : State) (tid : Nat) (pc : Pair) (b : Block) (w : Wait) : State :=
  (s.mapThread tid (fun t => { t with pc := pc, blk := b })).enter tid w

/-- Frees every entry of a core at which no thread waits (04 R86). -/
def State.freeEntries (s : State) (core : Nat) : State :=
  let keep := (s.core core).table.filter (fun p => !(s.waiters core p.2).isEmpty)
  s.mapCore core (fun c => { c with table := keep })

/-- One entry number of a yield set has been satisfied: a strand was formed from it since, it holds no ready thread, or it
has been freed (04 R101). -/
def State.yieldMet (s : State) (core : Nat) (p : Nat × Nat) : Bool :=
  match (s.core core).table.find? (fun q => q.2.num == p.1) with
  | none => true
  | some q => q.2.formed != p.2 || !((s.waiters core q.2).any (fun t => t.isReady))

/-- A member of a yield set with the count of strands formed from its entry as it stands. -/
def State.yieldMark (s : State) (core : Nat) (p : Nat × Nat) : Nat × Nat :=
  match (s.core core).table.find? (fun q => q.2.num == p.1) with
  | none => p
  | some q => (p.1, q.2.formed)

/-- A yield set without its satisfied members. In the cycle of the `yield` none is satisfied yet (04 R101). -/
def State.shrinkWait (s : State) (core : Nat) (w : Wait) : Wait :=
  match w with
  | .yield set since =>
    if since < s.coreClock core then .yield (set.filter (fun p => !s.yieldMet core p)) since
    else .yield (set.map (s.yieldMark core)) since
  | w => w

/-- One thread's wait condition comes to hold (04 R83, R87); a thread of the overflow queue stays ready from then on too (04 R88). -/
def State.wakeOne (s : State) (t : Thread) : Thread :=
  match t.state with
  | .blocked w =>
    let w := s.shrinkWait t.core w
    { t with state := if s.holds t w then .ready (s.coreClock t.core) else .blocked w }
  | .queued w =>
    let w := s.shrinkWait t.core w
    { t with state := .queued (if s.holds t w then .none else w) }
  | _ => t

/-- Every thread whose condition holds becomes READY. -/
def State.wakeAll (s : State) : State := { s with threads := s.threads.map s.wakeOne }

/-! ### Taking a fault and returning from one -/

/-- A fault: its code, its address field and its auxiliary word (04 R112). -/
structure FaultInfo where
  code : Nat
  addr : Pair := 0
  aux : Word := 0
  deriving DecidableEq, Repr

/-- Where a fault was raised: the first word of the run, the word itself, the target word's address and the block. -/
structure Site where
  runPc : Pair
  wordPc : Pair
  word : Word
  /-- the address after the record's target word (16 R358) -/
  after : Pair
  blk : Block
  deriving DecidableEq, Repr

/-- The words of a fault record as `frec` and the host read them (04 R112). -/
def Thread.recordWord (t : Thread) (k : Nat) : Word :=
  match k with
  | 0 => (if t.record.onCompletion then 0x80000000 else 0) ||| BitVec.ofNat 32 (t.record.code % 65536)
  | 1 => loWord t.record.pc
  | 2 => hiWord t.record.pc
  | 3 => loWord t.record.addr
  | 4 => hiWord t.record.addr
  | 5 => t.record.word
  | 6 => t.record.aux
  | _ => t.locator

/-- The 8 words of a thread's fault record; zeros for a thread that has never faulted (16 R359). -/
def Thread.recordWords (t : Thread) : List Word :=
  if t.everFaulted then (List.range 8).map t.recordWord else List.replicate 8 0

/-- Reports a fault record to the host (TYPE 0x40, 16 R372): the 8 words and the launch handle. -/
def State.sendRecord (s : State) (t : Thread) : State :=
  s.send 0x40 (s.slotOf t) (t.recordWords ++ [s.handleOf t])

/-- Counts a fault against a launch and flags it and the objects above it (04 R114, 15 R341). -/
def State.countFault (s : State) (slot : Nat) (h : Word) : State :=
  (s.mapObj slot h (fun o => { o with faults := o.faults + 1 })).mapUp slot h (fun o => { o with fault := true }) 4

/-- Writes the `$ie` registers (03 R79). -/
def Thread.setIe (t : Thread) (site : Site) : Thread :=
  { t with ieWord := site.word, iePc := site.wordPc, ieBlk := site.blk }

/-- Writes a fault record and the park point (04 R111, R112, 16 R358). -/
def Thread.park (t : Thread) (f : FaultInfo) (late : Bool) (site : Site) (point : Pair) (b : Block) : Thread :=
  { t with
    record := { onCompletion := late, code := f.code, pc := site.runPc, addr := f.addr, word := site.word, aux := f.aux,
                runEnd := site.after },
    everFaulted := true, parkPoint := point, parkBlk := b, state := .parked, begun := none, descr := [], checked := 0, pages := [] }

/-- A thread that stood at a `cpyc` for want of a claim stands there no longer (10 R233). -/
def State.unstarve (s : State) (t : Thread) : State :=
  s.mapUnit t.unit (fun u => { u with creels := u.creels.map (fun (p : Nat × Creel) =>
    (p.1, { p.2 with starved := p.2.starved.filter (fun q => q.1 != t.tid) })) })

/-- A block that is not gathered, entered at its head; the length is read when a strand is formed from it. -/
def headBlock (a : Pair) : Block := { head := a, len := 0, gath := false }

/-- The launch names a fault handler, the thread's handler flag is clear and the fault may enter it (04 R113). -/
def State.handlerOf (s : State) (t : Thread) (f : FaultInfo) : Option Pair :=
  match s.launchOf t with
  | none => none
  | some o =>
    if o.item 2 = 0 || t.handler || f.code == 0x0206 || (f.code == 0x0101 && t.emul) then none else some (o.item 2)

/-- Parks a thread with a fault, entering the launch's fault handler where there is one (04 R111 to R114). -/
def State.parkFault (s : State) (t : Thread) (f : FaultInfo) (late : Bool) (site : Site) (point : Pair) (b : Block) : State :=
  let p := t.park f late site point b
  let s := s.unstarve t
  match s.handlerOf t f with
  | some h => (s.setThread { p with handler := true }).enterAt t.tid h (headBlock h) .none
  | none => ((s.setThread p).countFault (s.slotOf t) (s.handleOf t)).sendRecord p

/-- The emulation block of the thread's launch, where an illegal word goes to it (03 R78). -/
def State.emulOf (s : State) (t : Thread) (f : FaultInfo) : Option Pair :=
  if f.code != 0x0101 || t.emul then none else
  match s.launchOf t with
  | none => none
  | some o => if o.item 4 = 0 then none else some (o.item 4)

/-- TAKING A FAULT raised by a thread's own issue. An illegal encoding writes the `$ie` registers and goes to the emulation
block where the launch names one and the emulation flag is clear (03 R78); every other fault parks the thread with its
record (04 R111) and enters the fault handler where R113 gives. -/
def State.takeFault (s : State) (tid : Nat) (f : FaultInfo) (site : Site) : State :=
  match s.thread? tid with
  | none => s
  | some t =>
    let t := if f.code = 0x0101 then t.setIe site else t
    match s.emulOf t f with
    | some e => (s.setThread { t with emul := true }).enterAt tid e (headBlock e) .none
    | none => s.parkFault t f false site site.runPc site.blk

/-- A fault of an operation that completed after its instruction issued (04 R116). The thread parks at once when it is
BLOCKED, READY or QUEUED and holds no earlier fault; a thread in a strand parks before its next word; a PARKED thread holds the
fault, which is counted and reported at once. Behind earlier held faults it is held too (assumption 8). -/
def State.takeLate (s : State) (tid : Nat) (f : FaultInfo) (pc : Pair) (word : Word) : State :=
  match s.thread? tid with
  | none => s
  | some t =>
    let site : Site := { runPc := pc, wordPc := pc, word := word, after := pc, blk := t.blk }
    let r : Record := { onCompletion := true, code := f.code, pc := pc, addr := f.addr, word := word, aux := f.aux,
                        runEnd := pc }
    match t.state with
    | .exited => s
    | .parked =>
      ((s.setThread { t with held := t.held ++ [{ r with counted := true }] }).countFault (s.slotOf t) (s.handleOf t)).send 0x40 (s.slotOf t)
        (({ t with record := r, everFaulted := true } : Thread).recordWords ++ [s.handleOf t])
    | .issued => s.setThread { t with held := t.held ++ [r] }
    | _ =>
      if !t.held.isEmpty then s.setThread { t with held := t.held ++ [r] }
      else
        ((s.mapCore t.core (fun c => { c with queue := c.queue.filter (fun q => q != tid) })).parkFault t f true site
          t.pc t.blk).freeEntries t.core

/-- A held fault parks its thread before the word that it would issue next (04 R116); one that was counted when it came is not counted
again. -/
def State.takeHeld (s : State) (t : Thread) (pc : Pair) (b : Block) : State :=
  match t.held with
  | [] => s
  | r :: rest =>
    let site : Site := { runPc := r.pc, wordPc := r.pc, word := r.word, after := r.pc, blk := b }
    let t := { t with held := rest }
    let f : FaultInfo := { code := r.code, addr := r.addr, aux := r.aux }
    if r.counted && (s.handlerOf t f).isNone then (s.unstarve t).setThread (t.park f true site pc b) else s.parkFault t f true site pc b

/-- The point to which a record resumes its thread: the park point, or with k = 1 the address after the target word, unless
the fault came on completion or has no word (16 R358, R360). -/
def Thread.resumePoint (t : Thread) (k : Nat) : Pair :=
  if t.record.onCompletion || t.record.word = 0 || k = 0 then t.parkPoint else t.record.runEnd

/-- RETURN FROM A HANDLER, `rfe k` (16 R358): from the emulation block to the illegal word or the word after it, from the
fault handler to the point the record gives; the flag of the block is cleared. `none` outside both, which raises 0x0207. -/
def Thread.returnPoint (t : Thread) (k : Nat) : Option (Thread × Pair × Block) :=
  if t.emul then some ({ t with emul := false }, if k = 0 then t.iePc else t.iePc + 4, t.ieBlk)
  else if t.handler then some ({ t with handler := false }, t.resumePoint k, t.parkBlk)
  else none

/-! ### Removing units and contexts -/

/-- Removes threads from every strand and drops strands that hold none (04 R93). -/
def State.dropMembers (s : State) (gone : Nat → Bool) : State :=
  { s with strands := (s.strands.map (fun x => { x with members := x.members.filter (fun m => !gone m) })).filter
                        (fun x => !x.members.isEmpty) }

/-- Frees the launch number of a launch on a core when no unit of it is left there (04 R84). -/
def State.freeNumber (s : State) (slot : Nat) (h : Word) (core : Nat) : State :=
  if s.units.any (fun u => u.slot == slot && u.launch == h && u.core == core) then s
  else s.mapObj slot h (fun o => { o with numbers := Sparse.erase o.numbers core })

/-- A unit leaves its core: its threads become EMPTY, its resources are free (04 R83, 15 R345). Operations that its
threads issued stay in flight; a `pmreq` has one unit less to wait for (15 R354). -/
def State.removeUnit (s : State) (uid : Nat) : State :=
  match s.unit? uid with
  | none => s
  | some u =>
    let gone := fun tid => s.threads.any (fun t => t.tid == tid && t.unit == uid)
    let s1 := s.dropMembers gone
    let s2 := s1.mapCore u.core (fun c => { c with queue := c.queue.filter (fun q => !gone q) })
    let ops := s2.ops.map (fun o => match o.kind with
      | .pmreq us => { o with kind := .pmreq (us.filter (fun x => x != uid)) }
      | _ => o)
    let s3 := { s2 with ops := ops, threads := s2.threads.filter (fun t => t.unit != uid),
                        units := s2.units.filter (fun x => x.uid != uid) }
    -- entries are freed against the launch number, which is freed last
    (s3.freeEntries u.core).freeNumber u.slot u.launch u.core

/-- A held line is a unit's own. -/
def HeldLine.ofUnit (h : HeldLine) (u : UnitSt) : Bool := h.slot == u.slot && h.launch == u.launch && h.uix == u.index

/-- Discards the tile commands of a unit that is removed, and the merge lines that are held for it (13 R307, R313). -/
def State.discardCmds (s : State) (uid : Nat) : State :=
  let mine := fun (h : HeldLine) => match s.unit? uid with
    | some u => h.ofUnit u
    | none => false
  { s with cmds := s.cmds.filter (fun c => c.unit != uid),
           merges := s.merges.map (fun (m : Merge) => { m with held := m.held.filter (fun h => !mine h) }),
           mergeWait := s.mergeWait.filter (fun h => !mine h) }

end Sys2Proof.Machine
end

