-- ==== Sys2Proof/Machine/Operands.lean ====
section
/-!
DEFINITION. Operands: the tag classes and their conversions (05 R118 to R120, 06 R139), the registers an instruction names,
and the immediates (03 R64, R69).
-/
namespace Sys2Proof.Machine

/-- The tag classes of 05 R118 and 06 R139. -/
inductive Cls where
  | any | int | int64 | f32 | f64 | h2 | b2 | l5 | sc | cq
  deriving DecidableEq, Repr

/-- The class accepts the tag without a conversion. RAW is accepted by every class. -/
def Cls.accepts (c : Cls) (k : Tag) : Bool :=
  match c with
  | .any => true
  | .int => k == .raw || k == .int
  | .int64 => k == .raw || k == .int || k == .x64
  | .f32 => k == .raw || k == .f32
  | .f64 => k == .raw || k == .d64
  | .h2 => k == .raw || k == .h2
  | .b2 => k == .raw || k == .b2
  | .l5 => k == .raw || k == .l5
  | .sc => k == .raw || k == .sc
  | .cq => k == .raw || k == .cq

/-- With T = 1 the class converts the tag (05 R118). -/
def Cls.converts (c : Cls) (k : Tag) : Bool :=
  match c with
  | .int => k == .f32
  | .f32 => k == .int || k == .cq
  | _ => false

/-- The operand of a class is a register pair. -/
def Cls.wide (c : Cls) : Bool := c == .int64 || c == .f64

/-- One register passes the tag check of a class (05 R118). -/
def Thread.tagOk (t : Thread) (c : Cls) (r : Reg) : Bool :=
  c.accepts (t.reg r).tag || (t.modeT && c.converts (t.reg r).tag)

/-- An operand passes the tag check of its class; a pair checks each half. -/
def Thread.operandOk (t : Thread) (p : Cls × Reg) : Bool :=
  t.tagOk p.1 p.2 && (!p.1.wide || t.tagOk p.1 (p.2 + 1))

/-- Reading the operand needs the current field's fraction width: a cq operand, or a CQ register that an f32 operand
converts (05 R119, 06 R139). -/
def Thread.needsField (t : Thread) (p : Cls × Reg) : Bool :=
  p.1 == .cq || (p.1 == .f32 && (t.reg p.2).tag == .cq)

/-- F32 read as i32: truncated, saturated, 0 for a NaN (05 R119). -/
def f32ToInt (x : Word) : Word := BitVec.ofInt 32 (f32.toInt 1 0 (-(2 ^ 31)) (2 ^ 31 - 1) x.toNat)

/-- INT read as f32: rounded to nearest even (05 R119). -/
def intToF32 (x : Word) : Word := w32 (f32.roundInt 0 false false x.toInt 0)

/-- CQ read as f32 with fraction width F: rounded to nearest even (05 R119). -/
def cqToF32 (frac : Nat) (x : Word) : Word := w32 (f32.round 0 false false x.toNat (-(frac : Int)) false)

/-- The value that one register read through a class delivers (05 R119). `frac` is the current field's fraction width. -/
def Thread.rd (t : Thread) (frac : Nat) (c : Cls) (r : Reg) : Word :=
  let x := t.reg r
  match c with
  | .int => if x.tag = .f32 then f32ToInt x.val else x.val
  | .f32 => if x.tag = .int then intToF32 x.val else if x.tag = .cq then cqToF32 frac x.val else x.val
  | _ => x.val

/-- The fraction width of the thread's current field; none while the current field is 256. -/
def State.fieldFrac (s : State) (t : Thread) : Option Nat :=
  if t.field ≥ 256 then none
  else
    match Sparse.find (s.slot (s.slotOf t)).fields t.field with
    | none => none
    | some f => if f.usable then some ((f.words.getD 3 0).toNat % 32) else none

/-- The fraction width that an int operand is converted with. -/
def State.intOf (s : State) (t : Thread) (r : Reg) : Word := t.rd ((s.fieldFrac t).getD 0) .int r

/-- The registers an instruction names, in the order d, a, b, c with pairs expanded, and the operands it reads. -/
structure Shape where
  named : List Reg := []
  /-- the lowest register past v127 that it names (11 R249) -/
  past : Option Nat := none
  reads : List (Cls × Reg) := []
  level : Level := .user
  deriving DecidableEq, Repr

/-- A register and its odd partner. -/
def pairRegs (r : Reg) : List Reg := [r, r + 1]

/-- A pair in the order in which the budget check takes it: the odd register's number goes into the record (05 R120). -/
def pairNames (r : Reg) : List Reg := [r + 1, r]

/-- Registers in the order of the budget check: the odd one of a pair first (05 R120), others as they stand. -/
def namesOf (l : List Reg) : List Reg :=
  match l with
  | [a, b] => [b, a]
  | l => l

/-- Four consecutive registers. -/
def quadRegs (r : Reg) : List Reg := [r, r + 1, r + 2, r + 3]

/-- The tag that a target writes: hq's tag where ten is set (03 R69, 06 R143). -/
def Hints.tag (h : Hints) (k : Tag) : Tag :=
  match h.hq with
  | some (e, g, _, _) => if e = 1 then Tag.ofCode g.toNat else k
  | none => k

/-- The rounding direction: hq's rnd, 0 without the hint (03 R69). -/
def Hints.rnd (h : Hints) : Nat :=
  match h.hq with
  | some (_, _, _, r) => r.toNat
  | none => 0

/-- Saturation: hq's sat (03 R69). -/
def Hints.sat (h : Hints) : Bool :=
  match h.hq with
  | some (_, _, x, _) => x == 1
  | none => false

/-- The c register of an hx hint; v0 without one. -/
def Hints.c (h : Hints) : Reg :=
  match h.hx with
  | some (_, c) => c
  | none => 0

/-- The modifier bits of an hx hint; zero without one. -/
def Hints.mod (h : Hints) : BitVec 17 :=
  match h.hx with
  | some (m, _) => m
  | none => 0

/-- The cache policy of an hs hint; 0 without one (03 R70). -/
def Hints.pol (h : Hints) : Nat :=
  match h.hs with
  | some (p, _) => p.toNat
  | none => 0

/-- The scope of an hs hint; 3 (device) without one (03 R70). -/
def Hints.scope (h : Hints) : Nat :=
  match h.hs with
  | some (_, n) => n.toNat
  | none => 3

/-- A 12-bit immediate, sign-extended, or the hk value pay[19:0] ++ imm (03 R64, R69). -/
def Hints.immS (h : Hints) (i : BitVec 12) : Word :=
  match h.hk with
  | some p => p.setWidth 20 ++ i
  | none => i.signExtend 32

/-- A 12-bit immediate, zero-extended, or the hk value (03 R64, R69). -/
def Hints.immZ (h : Hints) (i : BitVec 12) : Word :=
  match h.hk with
  | some p => p.setWidth 20 ++ i
  | none => i.setWidth 32

/-- A 19-bit immediate, zero-extended, or the hk value pay[12:0] ++ imm (03 R64, R69). -/
def Hints.immL (h : Hints) (i : BitVec 19) : Word :=
  match h.hk with
  | some p => p.setWidth 13 ++ i
  | none => i.setWidth 32

/-- The count of an XM word: off unsigned, or pay ++ off as a 30-bit two's-complement value (07 R163). -/
def Hints.count (h : Hints) (o : BitVec 6) : Int :=
  match h.hk with
  | some p => (p ++ o).toInt
  | none => o.toNat

end Sys2Proof.Machine
end

