-- ==== Sys2Proof/Machine/Flags.lean ====
section
/-!
DEFINITION. Status words that the manual lays out in bits: `$mode` (05 R124), `$cnt` (04 R106), the status word of an object
(15 R341), `sys.state` (16 R378) and the flag results of compares.
-/
namespace Sys2Proof.Machine

/-- 1 where a relation holds, 0 otherwise (05 R128). -/
def flag (b : Bool) : Word := if b then 1 else 0

/-- `$mode`: T in bit 0, P in bit 1, D in bit 2 (05 R124). -/
def Thread.modeWord (t : Thread) : Word := flag t.modeT ||| (flag t.modeP <<< 1) ||| (flag t.modeD <<< 2)

/-- `movsw $mode`: bit 0 alone is written (05 R124). -/
def Thread.writeMode (t : Thread) (v : Word) : Thread := { t with modeT := v.getLsbD 0 }

/-- `$cnt`: ld in 5:0, st in 11:6, cp in 17:12, tl in 23:18 (04 R106). -/
def Thread.cntWord (t : Thread) : Word :=
  BitVec.ofNat 32 (t.ld % 64 + t.st % 64 * 2 ^ 6 + t.cp % 64 * 2 ^ 12 + t.tl % 64 * 2 ^ 18)

/-- The code of an object's state: 0 waiting, 1 running, 2 complete, 3 cancelled (15 R341). -/
def ObjState.code (x : ObjState) : Nat :=
  match x with
  | .waiting => 0 | .running => 1 | .complete => 2 | .cancelled => 3

/-- The status word of an object (15 R341). -/
def Obj.statusWord (o : Obj) : Word :=
  BitVec.ofNat 32 (o.state.code * 2 ^ 30 + o.fld % 256) ||| (flag o.fault <<< 29) ||| (flag o.range <<< 28) |||
    (flag o.ctxErr <<< 27)

/-- The code of a security state (16 R378). -/
def Sec.code (x : Sec) : Nat :=
  match x with
  | .boot => 0 | .opened => 1 | .tenant => 2

/-- The code of a debug state (16 R378). -/
def Dbg.code (x : Dbg) : Nat :=
  match x with
  | .off => 0 | .observe => 1 | .halt => 2

/-- The code of a power state (16 R378). -/
def Pwr.code (x : Pwr) : Nat :=
  match x with
  | .run => 0 | .idle => 1 | .retention => 2 | .off => 3

/-- `sys.state` (16 R378). -/
def State.sysState (s : State) : Word :=
  BitVec.ofNat 32 (s.sec.code * 2 ^ 30 + s.dbg.code * 2 ^ 28 + s.pwr.code * 2 ^ 26)

/-- Raises an outstanding counter by 1 (04 R106). -/
def Thread.raise (t : Thread) (c : Ctr) : Thread :=
  match c with
  | .ld => { t with ld := t.ld + 1 }
  | .st => { t with st := t.st + 1 }
  | .cp => { t with cp := t.cp + 1 }
  | .tl => { t with tl := t.tl + 1 }
  | .none => t

/-- Lowers an outstanding counter by 1 (04 R106). -/
def Thread.lower (t : Thread) (c : Ctr) : Thread :=
  match c with
  | .ld => { t with ld := t.ld - 1 }
  | .st => { t with st := t.st - 1 }
  | .cp => { t with cp := t.cp - 1 }
  | .tl => { t with tl := t.tl - 1 }
  | .none => t

/-- The counter is at its limit of 63 (04 R107). -/
def Thread.full (t : Thread) (c : Ctr) : Bool :=
  match c with
  | .ld => decide (63 ≤ t.ld)
  | .st => decide (63 ≤ t.st)
  | .cp => decide (63 ≤ t.cp)
  | .tl => decide (63 ≤ t.tl)
  | .none => false

end Sys2Proof.Machine
end

