-- ==== Sys2Proof/Machine/Memory.lean ====
section
/-!
DEFINITION. Memory levels: homes, remote partitions with their dirty bytes and deltas, L1 copies, scratch arrays and
lane-private windows (01 R20, R27, R28; 07 R162, R171 to R173; 09 R194 to R207).
-/
namespace Sys2Proof.Machine

/-! ### Places -/

/-- The device id of a peer place; none for a place of this module. -/
def peerOf (loc : Nat) : Option Nat := if loc < Config.placeSpan then none else some (loc / Config.placeSpan - 1)

/-- The place of an address in the on-package memory of a peer. -/
def peerPlace (dev pa : Nat) : Nat := (dev + 1) * Config.placeSpan + pa

/-- The home die of a physical address (01 R20): on-package memory by 2^37, CXL port p at compute die p. -/
def homeDie (pa : Nat) : Nat := if pa < 2 ^ 40 then pa / 2 ^ 37 else (pa - 2 ^ 45) / 2 ^ 42 % 8

/-- The home slice index of a line (01 R20). -/
def homeSlice (pa : Nat) : Nat := pa / 128 % 24

/-- The capacity fitted behind a CXL port, at most 4 TiB (01 R20). -/
def cxlCapacity (p : Nat) : Nat := Nat.min (Config.cxlFitted p) (2 ^ 42)

/-- A physical address is populated (01 R20). -/
def populated (pa : Nat) : Bool :=
  decide (pa < 2 ^ 40) ||
    (decide (2 ^ 45 ≤ pa) && decide (pa < 2 ^ 46) && decide ((pa - 2 ^ 45) % 2 ^ 42 < cxlCapacity ((pa - 2 ^ 45) / 2 ^ 42)))

/-- A run of n bytes lies wholly within one populated range (08 R183). -/
def populatedRun (pa n : Nat) : Bool :=
  if pa < 2 ^ 40 then decide (pa + n ≤ 2 ^ 40)
  else decide (2 ^ 45 ≤ pa) && decide (pa < 2 ^ 46) &&
    decide ((pa - 2 ^ 45) % 2 ^ 42 + n ≤ cxlCapacity ((pa - 2 ^ 45) / 2 ^ 42))

/-- The line of a place. -/
def lineOf (loc : Nat) : Nat := loc / 128

/-- The core number exists (00 R9). -/
def coreOk (n : Nat) : Bool := decide (n < Config.cores)

/-- The die number exists (00 R9). -/
def dieOk (n : Nat) : Bool := decide (n < Config.dies)

/-! ### Homes -/

/-- Adds a number to a rising list without repeats. -/
def insertNat (l : List Nat) (n : Nat) : List Nat :=
  match l with
  | [] => [n]
  | m :: r => if n < m then n :: m :: r else if n = m then m :: r else m :: insertNat r n

/-- Reads bytes at their home. -/
def State.homeRead (s : State) (loc n : Nat) : List Byte := Memory.readBytes s.mem loc n

/-! ### Check codes (16 R375)

A 32-byte half-sector carries a check code beside its bytes, at its home and in every cache. State holds how far it is from the code of those
bytes, so that a write of whole half-sectors leaves 0, and a code fails its check where that distance is not 0. -/

/-- One bit step of CRC-16 with polynomial 0x8BB7, no reflection. -/
def crcBit (c : Half) : Half := if c.getLsbD 15 then (c <<< 1) ^^^ 0x8BB7 else c <<< 1

/-- One byte of CRC-16. -/
def crcByte (c : Half) (b : Byte) : Half :=
  let c := c ^^^ (b.setWidth 16 <<< 8)
  crcBit (crcBit (crcBit (crcBit (crcBit (crcBit (crcBit (crcBit c)))))))

/-- The check code of bytes in ascending address: initial value 0, no final XOR (16 R375). -/
def crc16 (bs : List Byte) : Half := bs.foldl crcByte 0

/-- The half-sectors that n bytes from a place touch. -/
def halvesOf (loc n : Nat) : List Nat := (List.range ((loc % 32 + n + 31) / 32)).map (fun i => loc / 32 + i)

/-- The check code that a half-sector of memory carries. -/
def State.codeAt (s : State) (half : Nat) : Half := crc16 (s.homeRead (32 * half) 32) ^^^ Sparse.get 0 s.codes half

/-- The check of that code against the bytes. -/
def State.codeGood (s : State) (half : Nat) : Bool := s.codeAt half == crc16 (s.homeRead (32 * half) 32)

/-- A half-sector that n bytes from an offset touch fails its check. -/
def codesBad (codes : Sparse Half) (off n : Nat) : Bool := (halvesOf off n).any (fun h => Sparse.get 0 codes h != 0)

/-- An error is found in data of a place that no instruction consumes (01 R33). -/
def State.noteBad (s : State) (pa : Nat) : State := s.mapDie (homeDie pa) (fun d => { d with found := insertNat d.found pa })

/-- How far an uncorrectable error puts a half-sector's code from that of its bytes: a free value that is not 0 (01 R33). -/
def freshError (n : Nat) : Half :=
  let e : Half := (Config.freeWord n).setWidth 16
  if e = 0 then 1 else e

/-- Memory leaves at a port as a stream: each half-sector's code is checked, and one that fails is data that no instruction consumes
(01 R33, 16 R375). -/
def State.egressCheck (s : State) : State :=
  s.codes.foldl (fun (s : State) (p : Nat × Half) => if 32 * p.1 < 2 ^ 40 then s.noteBad (32 * p.1) else s) s

/-- A write of n bytes meets the code of a resident half-sector: the code is replaced where the write covers the half-sector, and otherwise
checked and made anew; a check that fails is an error which no instruction consumes (16 R375). -/
def State.mergeCode (loc n : Nat) (s : State) (half : Nat) : State :=
  if Sparse.get 0 s.codes half = 0 then s
  else
    let s := { s with codes := Sparse.erase s.codes half }
    if loc ≤ 32 * half && 32 * half + 32 ≤ loc + n then s else s.noteBad (32 * half)

/-- Writes bytes at their home: the newest bytes then stand in the home slice (16 R366), with their check codes (16 R375). -/
def State.homeWrite (s : State) (loc : Nat) (bs : List Byte) : State :=
  let s := (halvesOf loc bs.length).foldl (State.mergeCode loc bs.length) s
  { s with mem := Memory.writeBytes s.mem loc bs,
           homeDirty := (List.range bs.length).foldl (fun l i => insertNat l (lineOf (loc + i))) s.homeDirty }

/-- n bytes at their home fail their check. -/
def State.homeBad (s : State) (loc n : Nat) : Bool := codesBad s.codes loc n

/-- What a line at its home says of its codes. -/
def State.homeCodes (s : State) (line : Nat) : Sparse Half :=
  (List.range 4).foldl (fun m i => Sparse.set 0 m i (Sparse.get 0 s.codes (4 * line + i))) []

/-- The half-sectors of a line of which every byte is in a list have codes that agree. -/
def freshCodes (codes : Sparse Half) (bytes : List Nat) : Sparse Half :=
  codes.filter (fun p => !(List.range 32).all (fun i => bytes.contains (32 * p.1 + i)))

/-- A little-endian number at its home. -/
def State.homeNat (s : State) (loc n : Nat) : Nat := leNat (s.homeRead loc n)

/-! ### Remote partitions (09 R197, R206, R207) -/

/-- The number that n bytes of a line's copy hold. -/
def RemoteLine.copyNat (l : RemoteLine) (off n : Nat) : Nat := leNat (Memory.readBytes l.copy off n)

/-- The die's view of an aligned word pair: copy plus deltas (09 R206). -/
def RemoteLine.pairView (l : RemoteLine) (off : Nat) : Nat :=
  match Sparse.find l.deltas off, Sparse.find l.deltas (off + 4) with
  | none, none => l.copyNat off 8
  | some d, none =>
    if d.wide then (l.copyNat off 8 + d.val.toNat) % 2 ^ 64
    else (l.copyNat off 4 + d.val.toNat) % 2 ^ 32 + 2 ^ 32 * l.copyNat (off + 4) 4
  | none, some e => l.copyNat off 4 + 2 ^ 32 * ((l.copyNat (off + 4) 4 + e.val.toNat) % 2 ^ 32)
  | some d, some e =>
    (l.copyNat off 4 + d.val.toNat) % 2 ^ 32 + 2 ^ 32 * ((l.copyNat (off + 4) 4 + e.val.toNat) % 2 ^ 32)

/-- The die's view of a byte of a line. -/
def RemoteLine.byteView (l : RemoteLine) (off : Nat) : Byte :=
  if l.deltas.isEmpty then Memory.read l.copy off
  else BitVec.ofNat 8 (l.pairView (off / 8 * 8) / 256 ^ (off % 8))

/-- The die's view of bytes of a line. -/
def RemoteLine.view (l : RemoteLine) (off n : Nat) : List Byte := (List.range n).map (fun i => l.byteView (off + i))

/-- The remote line of a die. -/
def State.remoteLine (s : State) (die line : Nat) : RemoteLine := Sparse.get {} (s.die die).remote line

/-- Writes a remote line back. -/
def State.setRemote (s : State) (die line : Nat) (l : RemoteLine) : State :=
  s.mapDie die (fun d => { d with remote := Sparse.set {} d.remote line l })

/-- Fetches a line into a remote partition where the whole of it is not held: the bytes that are not dirty come from the
home. -/
def State.remoteFetch (s : State) (die line : Nat) : State :=
  let l := s.remoteLine die line
  if l.whole then s
  else
    let bytes := (List.range 128).map (fun i =>
      if l.dirty.contains i then Memory.read l.copy i else Memory.read s.mem (line * 128 + i))
    s.setRemote die line { l with whole := true, copy := Memory.writeBytes [] 0 bytes, codes := freshCodes (s.homeCodes line) l.dirty }

/-- Adds a delta at the home as an add of its width (09 R206). -/
def State.homeAdd (s : State) (loc : Nat) (d : Delta) : State :=
  if d.wide then s.homeWrite loc (leBytes 8 (s.homeNat loc 8 + d.val.toNat))
  else s.homeWrite loc (leBytes 4 (s.homeNat loc 4 + d.val.toNat))

/-- Every byte of a half-sector of a line is dirty. -/
def RemoteLine.halfDirty (l : RemoteLine) (half : Nat) : Bool := (List.range 32).all (fun i => l.dirty.contains (32 * half + i))

/-- The code that comes home with the dirty bytes of a half-sector of a line. Where every byte is dirty the half-sector is written whole and its
code travels with it; a masked write's own code, which is made of its bytes, is checked at the home, and one that fails is an error which no
instruction consumes (16 R375). -/
def State.homeDirtyCode (line : Nat) (l : RemoteLine) (s : State) (half : Nat) : State :=
  if Sparse.get 0 l.codes half = 0 then s
  else if l.halfDirty half then { s with codes := Sparse.set 0 s.codes (4 * line + half) (Sparse.get 0 l.codes half) }
  else if l.dirty.any (fun i => i / 32 == half) then s.noteBad (line * 128 + 32 * half)
  else s

/-- Writes home the dirty bytes of a line, under their mask; a half-sector of which every byte is dirty is written whole (16 R375). -/
def State.homeDirtyBytes (s : State) (line : Nat) (l : RemoteLine) : State :=
  (List.range 4).foldl (State.homeDirtyCode line l)
    (l.dirty.foldl (fun s i => s.homeWrite (line * 128 + i) [Memory.read l.copy i])
      { s with codes := s.codes.filter (fun p => p.1 / 4 != line || !l.halfDirty (p.1 % 4)) })

/-- Writes home the deltas of a line. -/
def State.homeDeltas (s : State) (line : Nat) (l : RemoteLine) : State :=
  l.deltas.foldl (fun s p => s.homeAdd (line * 128 + p.1) p.2) s

/-- Writes home every dirty byte and delta of a line; the copy then holds copy plus delta and is clean (09 R206). A line of
which only dirty bytes were held is held no longer. -/
def State.pushLine (s : State) (die line : Nat) : State :=
  let l := s.remoteLine die line
  let s1 := (s.homeDirtyBytes line l).homeDeltas line l
  if l.whole then
    s1.setRemote die line { whole := true, copy := Memory.writeBytes [] 0 (l.view 0 128), dirty := [], deltas := [], codes := l.codes }
  else s1.setRemote die line {}

/-- The push of a device-level release: every dirty byte and delta of the die (09 R198). -/
def State.pushDie (s : State) (die : Nat) : State :=
  (s.die die).remote.foldl (fun s p => s.pushLine die p.1) s

/-- Every die pushes (08 R190, 16 R366). -/
def State.pushAll (s : State) : State := (List.range Config.dies).foldl (fun s d => s.pushDie d) s

/-- Invalidates a die's remote partition: the lines whose home is on another die of the module, and with `peers` the lines
of peer pages (09 R199). -/
def State.invalidateRemote (s : State) (die : Nat) (peers : Bool) : State :=
  s.mapDie die (fun d => { d with remote := d.remote.filter (fun p => !peers && (peerOf (p.1 * 128)).isSome) })

/-- Writes home and removes a die's copy of a line (09 R205). -/
def State.dropRemote (s : State) (die line : Nat) : State := (s.pushLine die line).setRemote die line {}

/-- The bytes that a delta covers. -/
def Delta.size (d : Delta) : Nat := if d.wide then 8 else 4

/-- A delta of a line covers one of n bytes from an offset. -/
def deltaMeets (off n : Nat) (p : Nat × Delta) : Bool := decide (p.1 < off + n) && decide (off < p.1 + p.2.size)

/-- The deltas that cover one of n bytes of a line are folded into the copy and written home (09 R207). -/
def State.foldDeltas (s : State) (die line off n : Nat) : State :=
  let l := s.remoteLine die line
  let hit := l.deltas.filter (deltaMeets off n)
  if hit.isEmpty then s
  else
    (hit.foldl (fun s p => s.homeAdd (line * 128 + p.1) p.2) s).setRemote die line
      { l with copy := hit.foldl (fun m p => Memory.writeBytes m p.1 (l.view p.1 p.2.size)) l.copy,
               deltas := l.deltas.filter (fun p => !deltaMeets off n p) }

/-- Stores bytes into a die's remote partition as dirty bytes; a delta of the bytes is first folded in and written home
(09 R207). -/
def State.remoteStore (s : State) (die loc : Nat) (bs : List Byte) : State :=
  let line := lineOf loc
  let s := s.foldDeltas die line (loc % 128) bs.length
  let l := s.remoteLine die line
  let off := loc % 128
  let dirty := (List.range bs.length).foldl (fun d i => insertNat d (off + i)) l.dirty
  s.setRemote die line { l with copy := Memory.writeBytes l.copy off bs, dirty := dirty, codes := freshCodes l.codes dirty }

/-- Bytes as the L2 of a die sees them: at the home slice, or in the remote partition, which fetches the line. -/
def State.l2Read (s : State) (die loc n : Nat) : State × List Byte :=
  if (peerOf loc).isNone && homeDie loc = die then (s, s.homeRead loc n)
  else
    let s := s.remoteFetch die (lineOf loc)
    (s, (s.remoteLine die (lineOf loc)).view (loc % 128) n)

/-- The bytes that the L2 of a die would deliver, without the fetch. -/
def State.l2View (s : State) (die loc n : Nat) : List Byte := (s.l2Read die loc n).2

/-- What a line says of its codes as the L2 of a die delivers it (16 R375). -/
def State.l2Codes (s : State) (die line : Nat) : Sparse Half :=
  if (peerOf (line * 128)).isNone && homeDie (line * 128) = die then s.homeCodes line
  else ((s.remoteFetch die line).remoteLine die line).codes

/-- Bytes as the L2 of a die delivers them under a cache policy: policy 3 allocates no line (03 R69). -/
def State.l2ReadBy (s : State) (die loc n pol : Nat) : State × List Byte :=
  if pol = 3 then (s, s.l2View die loc n) else s.l2Read die loc n

/-- Stores bytes at the L2 of a die: the home slice, or the remote partition as dirty bytes (09 R197). -/
def State.l2Write (s : State) (die loc : Nat) (bs : List Byte) : State :=
  if (peerOf loc).isNone && homeDie loc = die then s.homeWrite loc bs else s.remoteStore die loc bs

/-! ### L1 (07 R173) -/

/-- The line that an L1 holds. -/
def State.l1Line? (s : State) (core loc : Nat) : Option L1Line := Sparse.find (s.core core).l1 (lineOf loc)

/-- Updates the bytes of a line that an L1 holds; a store never allocates one. -/
def State.l1Store (s : State) (core loc : Nat) (bs : List Byte) : State :=
  match s.l1Line? core loc with
  | none => s
  | some l =>
    s.mapCore core (fun c =>
      { c with l1 := Sparse.put c.l1 (lineOf loc)
                 { l with copy := Memory.writeBytes l.copy (loc % 128) bs,
                          codes := freshCodes l.codes ((List.range bs.length).map (fun i => loc % 128 + i)) } })

/-- The line that an L1 gives up for a new one: none while it is empty; where it is full one must go, otherwise one may
(the organisation of the L1 is open). -/
def State.l1Victim (s : State) (core : Nat) : Option Nat :=
  let l1 := (s.core core).l1.filter (fun p => !p.2.pinned)
  if l1.isEmpty then none
  else if Config.l1Lines ≤ l1.length || Config.freeChoice s.fresh then
    (l1[Config.freeNat s.fresh % l1.length]?).map (fun p => p.1)
  else none

/-- The bytes that the write-through buffer of a core still holds for a line, in issue order: a fill takes them in. -/
def State.buffered (s : State) (core line : Nat) : List (Nat × List Byte) :=
  s.ops.filterMap (fun o =>
    match o.kind with
    | .store a bs none => if o.core == core && a.sp == 0 && lineOf a.loc == line && o.served && !o.arrived then some (a.loc % 128, bs) else none
    | _ => none)

/-- Allocates a line in an L1 with the given bytes, and the codes that the L2 delivers with them. -/
def State.l1Fill (s : State) (core loc : Nat) (bytes : List Byte) (mark : Option (Nat × Nat)) (upTo : Nat) (peer : Bool) : State :=
  let line := lineOf loc
  let victim := s.l1Victim core
  let full := (s.buffered core line).foldl (fun m p => Memory.writeBytes m p.1 p.2) (Memory.writeBytes [] 0 bytes)
  (s.mapCore core (fun c =>
    let l1 := match victim with
      | some v => Sparse.erase c.l1 v
      | none => c.l1
    { c with l1 := Sparse.put l1 line { copy := full, mark := mark, upTo := upTo, peer := peer, codes := s.l2Codes (dieOf core) line } })).stir

/-- n bytes as a core's L1, or below it the L2 of its die, delivers them fail their check (16 R375). -/
def State.l1Bad (s : State) (core loc n : Nat) : Bool :=
  match s.l1Line? core loc with
  | some l => codesBad l.codes (loc % 128) n
  | none => codesBad (s.l2Codes (dieOf core) (lineOf loc)) (loc % 128) n

/-- n bytes as the L2 of a die delivers them fail their check (16 R375). -/
def State.l2Bad (s : State) (die loc n : Nat) : Bool := codesBad (s.l2Codes die (lineOf loc)) (loc % 128) n

/-- The half-sector that holds a place fails its check at a distance, as a die's remote partition holds it. -/
def State.spoilRemote (s : State) (die loc : Nat) (e : Half) : State :=
  match Sparse.find (s.die die).remote (lineOf loc) with
  | none => s
  | some l => s.setRemote die (lineOf loc) { l with codes := Sparse.set 0 l.codes (loc % 128 / 32) e }

/-- The half-sector that holds a place fails its check at a distance, as a core's L1 holds it. -/
def State.spoilL1 (s : State) (core loc : Nat) (e : Half) : State :=
  match s.l1Line? core loc with
  | none => s
  | some l => s.mapCore core (fun c => { c with l1 := Sparse.put c.l1 (lineOf loc) { l with codes := Sparse.set 0 l.codes (loc % 128 / 32) e } })

/-- The half-sector that holds a place fails its check at a distance, as the L2 of a die holds it. -/
def State.spoilL2 (s : State) (die loc : Nat) (e : Half) : State :=
  if (peerOf loc).isNone && homeDie loc = die then { s with codes := Sparse.set 0 s.codes (loc / 32) e } else s.spoilRemote die loc e

/-- The loads of peer lines that are in flight and that a condition picks get a change of what they install. -/
def State.mapFills (s : State) (pick : Op → Bool) (f : Access → Access) : State :=
  { s with ops := s.ops.map (fun o =>
      match o.kind with
      | .load a x q => if pick o && s.reqs.any (fun r => r.op == o.id) then { o with kind := .load (f a) x q } else o
      | _ => o) }

/-- Flash-invalidates every data line of an L1; a pinned line goes when its pin is released, and a fill in flight is not installed
(09 R199). -/
def State.l1Flush (s : State) (core : Nat) : State :=
  (s.mapFills (fun o => o.core == core) (fun a => { a with late := true })).mapCore core (fun c =>
    { c with l1 := (c.l1.filter (fun p => p.2.pinned)).map (fun (p : Nat × L1Line) => (p.1, { p.2 with doomed := true })) })

/-- Pins a line of an L1 for a core-scope atomic (09 R204). -/
def State.l1Pin (s : State) (core loc : Nat) : State :=
  match s.l1Line? core loc with
  | none => s
  | some l => s.mapCore core (fun c => { c with l1 := Sparse.put c.l1 (lineOf loc) { l with pinned := true } })

/-- Releases a pin: a line that an acquire came for goes (09 R199). -/
def State.l1Unpin (s : State) (core loc : Nat) : State :=
  match s.l1Line? core loc with
  | none => s
  | some l =>
    s.mapCore core (fun c => { c with
      l1 := if l.doomed then Sparse.erase c.l1 (lineOf loc) else Sparse.put c.l1 (lineOf loc) { l with pinned := false } })

/-- Removes one line from an L1 (09 R204). -/
def State.l1Drop (s : State) (core loc : Nat) : State :=
  s.mapCore core (fun c => { c with l1 := Sparse.erase c.l1 (lineOf loc) })

/-- Bytes that an atomic reads and writes (10, `atom`). -/
def AtomFn.size (f : AtomFn) : Nat :=
  match f with
  | .add64 | .xchg64 | .dadd | .cas64 => 8
  | _ => 4

/-- A core-scope atomic on a line, applied in its core's L1, whose write-through has not been made. -/
def Op.writesThrough (o : Op) (core line : Nat) : Bool :=
  match o.kind with
  | .atomic a _ _ _ .l1 _ => o.core == core && o.served && !o.arrived && a.w && lineOf a.loc == line
  | _ => false

/-- The write-through of a core-scope atomic is made before its completion, which then writes nothing. -/
def State.writeEarly (s : State) (o : Op) : State :=
  match o.kind with
  | .atomic a f x e place ordered =>
    { s.l2Write (dieOf o.core) a.loc (leBytes f.size x.toNat) with
      ops := s.ops.map (fun p => if p.id = o.id then { p with kind := .atomic { a with w := false } f x e place ordered } else p) }
  | _ => s

/-- Puts a core-scope atomic among others in the order in which the L1 applied them. -/
def insertApplied (o : Op) (l : List Op) : List Op :=
  match l with
  | [] => [o]
  | p :: r => if o.mark.getD 0 < p.mark.getD 0 then o :: p :: r else p :: insertApplied o r

/-- The core-scope atomics on a line of a core in the order in which its L1 applied them. -/
def State.throughs (s : State) (core line : Nat) : List Op :=
  (s.ops.filter (fun o => o.writesThrough core line)).foldl (fun l o => insertApplied o l) []

/-- The issuing core's L1 gives up its copy of the line of an atomic that executes beyond it (09 R204). The line may be pinned for core-scope
atomics whose results stand in it alone: their write-throughs, which have still to be made, go before. -/
def State.l1Give (s : State) (core loc : Nat) : State :=
  ((s.throughs core (lineOf loc)).foldl State.writeEarly s).l1Drop core loc

/-- A load of local ordinary memory: a hit in the L1 returns its copy, a miss goes to the L2 and allocates under pol 0 and
4 (07 R173, 03 R69). -/
def State.cachedRead (s : State) (core loc n pol : Nat) : State × List Byte :=
  match s.l1Line? core loc with
  | some l => (s, Memory.readBytes l.copy (loc % 128) n)
  | none =>
    let r := s.l2ReadBy (dieOf core) loc n pol
    if pol = 0 || pol = 4 then
      let line := r.1.l2Read (dieOf core) (lineOf loc * 128) 128
      (line.1.l1Fill core loc line.2 none 128 false, r.2)
    else r

/-! ### Scopes, releases and acquires (09 R194 to R199) -/

/-- The common level of a scope for an operation issued on a core: 0 L1, 1 die, 2 device, 3 system (09 R194, R196). -/
def State.scopeLevel (s : State) (slot core n : Nat) : Nat :=
  match n with
  | 0 => 0
  | 1 => 1
  | 2 => 1
  | 3 => 2
  | 11 => 3
  | n =>
    let e := Sparse.get {} (s.slot slot).scopes n
    if e.v && e.mask.getLsbD core then e.lvl else 2

/-- The cores of a scope for an operation issued on a core, and its common level (09 R194, R195). -/
def State.reach (s : State) (slot core n : Nat) : BitVec 320 × Nat :=
  let cores : BitVec 320 := match n with
    | 0 => 1 <<< core
    | 1 => 0xFF <<< (core / 8 * 8)
    | 2 => 0xFFFFFFFFFF <<< (core / 40 * 40)
    | 3 => BitVec.allOnes 320
    | 11 => BitVec.allOnes 320
    | n =>
      let e := Sparse.get {} (s.slot slot).scopes n
      if e.v && e.mask.getLsbD core then e.mask else BitVec.allOnes 320
  (cores, s.scopeLevel slot core n)

/-- A release reaches the cores of its scope with the stores that its threads issued before it (03 R81). -/
def State.offerCode (s : State) (who : Nat → Bool) (before : Nat) (reach : BitVec 320 × Nat) : State :=
  { s with codeWrites := s.codeWrites.map (fun w =>
      if who w.tid && decide (w.op < before) then { w with reached := w.reached ++ [reach] } else w) }

/-- A word with a store to it applied. -/
def CodeWrite.put (w : CodeWrite) (x : Word) : Word := (x &&& ~~~w.mask) ||| (w.new &&& w.mask)

/-- Forgets the stores that every core sees, once no older one to the same word is left: the word before the next is the one with them
applied. `held` lists the words with an older store, `olds` the words that stores have been applied to. -/
def foldCode (held : List Nat) (olds : List (Nat × Word)) (ws : List CodeWrite) : List CodeWrite :=
  match ws with
  | [] => []
  | w :: r =>
    let w := match olds.find? (fun p => p.1 == w.word) with
      | some p => { w with old := p.2 }
      | none => w
    if w.cores.length < Config.cores || held.contains w.word then w :: foldCode (w.word :: held) olds r
    else foldCode held ((w.word, w.put w.old) :: olds) r

/-- A core acquires: the stores that a release has reached it with, at the acquire's scope or a narrower one, are visible to its fetch; what
every core sees is forgotten (03 R81). -/
def State.takeCode (s : State) (core : Nat) (reach : BitVec 320 × Nat) : State :=
  { s with codeWrites := foldCode [] [] (s.codeWrites.map (fun w =>
      if !w.cores.contains core && w.reached.any (fun r => r.1.getLsbD core && r.1 &&& ~~~reach.1 == 0 && decide (r.2 ≤ reach.2)) then
        { w with cores := w.cores ++ [core] }
      else w)) }

/-- A release of a thread at a scope, as far as code goes. -/
def State.codeOut (s : State) (t : Thread) (n : Nat) : State :=
  s.offerCode (fun tid => tid == t.tid) s.nextId (s.reach (s.slotOf t) t.core n)

/-- An acquire on a core at a scope, as far as code goes. -/
def State.codeIn (s : State) (slot core n : Nat) : State := s.takeCode core (s.reach slot core n)

/-- The push of a release at a level (09 R198). -/
def State.releasePush (s : State) (core level : Nat) : State := if 2 ≤ level then s.pushDie (dieOf core) else s

/-- A die gives up what its remote partition holds of the lines of other dies and of peers, its dirty bytes and deltas written home, and keeps
no line that a load in flight brings from a peer. -/
def State.dropRemotes (s : State) (die : Nat) : State :=
  ((s.mapFills (fun o => dieOf o.core == die) (fun a => { a with pc := false })).pushDie die).invalidateRemote die true

/-- The discard of an acquire at a level (09 R199). -/
def State.acquireDiscard (s : State) (core level : Nat) : State :=
  let s := s.l1Flush core
  if level = 2 then (s.pushDie (dieOf core)).invalidateRemote (dieOf core) false
  else if 3 ≤ level then s.dropRemotes (dieOf core)
  else s

/-- The push of a release, then the discard of an acquire. -/
def State.fenceEffect (s : State) (core : Nat) (acq rel : Option Nat) : State :=
  let s := match rel with
    | some l => s.releasePush core l
    | none => s
  match acq with
  | some l => s.acquireDiscard core l
  | none => s

/-! ### Scratch spaces and lane-private windows (07 R162) -/

/-- The extent of the region that a space gives a thread, and its start in the array that holds it. A lane's memory is cut into 16 KiB for each
thread slot (DESIGN CHOICE, assumption 14: 07 R162 does not say where windows stand). -/
def State.region (s : State) (t : Thread) (sp : Nat) : Nat × Nat :=
  match s.unitOf t with
  | none => (0, 0)
  | some u =>
    match sp with
    | 1 => (u.lpLen, t.slot * Config.laneBytes)
    | 2 => (u.scrLen, u.scrOff)
    | 3 => (u.cluLen, u.cluOff)
    | _ =>
      let w := Sparse.get (0, 0) (s.slot u.slot).win (dieOf t.core)
      (w.1 * 65536, w.2 * 65536)

/-- Bytes of a shared scratch array. -/
def State.scratchRead (s : State) (core sp off n : Nat) : List Byte :=
  match sp with
  | 2 => Memory.readBytes (s.core core).scratch off n
  | 3 => Memory.readBytes (Sparse.get [] s.clusters (clusterOf core)) off n
  | 4 => Memory.readBytes (s.die (dieOf core)).scratch off n
  | _ => Memory.readBytes (s.core core).lp off n

/-- Writes bytes of a scratch array. -/
def State.scratchWrite (s : State) (core sp off : Nat) (bs : List Byte) : State :=
  match sp with
  | 2 => s.mapCore core (fun c => { c with scratch := Memory.writeBytes c.scratch off bs })
  | 3 =>
    { s with clusters := Sparse.set [] s.clusters (clusterOf core)
               (Memory.writeBytes (Sparse.get [] s.clusters (clusterOf core)) off bs) }
  | 4 => s.mapDie (dieOf core) (fun d => { d with scratch := Memory.writeBytes d.scratch off bs })
  | _ => s.mapCore core (fun c => { c with lp := Memory.writeBytes c.lp off bs })

/-- One byte of a thread's window: what the thread wrote, otherwise zero or what an earlier thread of the context left there,
an open choice (07 R162). -/
def State.lpByte (s : State) (t : Thread) (off k : Nat) : Byte :=
  let b := Memory.read (s.core t.core).lp (t.slot * Config.laneBytes + off)
  if t.lpWritten.contains off then b else if Config.freeChoice (s.fresh + k) then 0 else b

/-- Bytes of a thread's window. -/
def State.lpRead (s : State) (t : Thread) (off n : Nat) : List Byte := (List.range n).map (fun i => s.lpByte t (off + i) i)

/-- Writes bytes of a thread's window. -/
def State.lpWrite (s : State) (t : Thread) (off : Nat) (bs : List Byte) : State :=
  (s.scratchWrite t.core 1 (t.slot * Config.laneBytes + off) bs).mapThread t.tid (fun t =>
    { t with lpWritten := (List.range bs.length).foldl (fun l i => insertNat l (off + i)) t.lpWritten })

end Sys2Proof.Machine
end

