-- ==== Sys2Proof/Machine/Translate.lean ====
section
/-!
DEFINITION. Address translation (08): canonical addresses, the five-level table, TLBs, walks, and the checks of a control
transfer (04 R109), which fetch through the same translations.
-/
namespace Sys2Proof.Machine

/-- Bits 63:57 all equal bit 56 (08 R180). -/
def canonical (a : Pair) : Bool :=
  if a.getLsbD 56 then a.toNat / 2 ^ 57 == 127 else a.toNat / 2 ^ 57 == 0

/-- The 57-bit virtual address that translation splits. -/
def va57 (a : Pair) : Nat := a.toNat % 2 ^ 57

/-! ### The table (08 R181 to R185) -/

/-- A bit of an entry. -/
def ebit (e i : Nat) : Bool := e / 2 ^ i % 2 == 1

/-- Bits hi:lo of an entry. -/
def ebits (e hi lo : Nat) : Nat := e / 2 ^ lo % 2 ^ (hi - lo + 1)

/-- The table index of an address at a level (08 R180). -/
def tableIndex (level va : Nat) : Nat :=
  match level with
  | 4 => va / 2 ^ 45 % 4096
  | 3 => va / 2 ^ 33 % 4096
  | 2 => va / 2 ^ 28 % 32
  | 1 => va / 2 ^ 21 % 128
  | _ => va / 2 ^ 12 % 512

/-- The bytes that a leaf at a level maps. -/
def leafSize (level : Nat) : Nat :=
  match level with
  | 3 => 2 ^ 33
  | 2 => 2 ^ 28
  | 1 => 2 ^ 21
  | _ => 2 ^ 12

/-- How a walk ends. -/
inductive WalkEnd where
  | found (t : Trans)
  | failed (aux : Word)
  deriving DecidableEq, Repr

/-- The auxiliary word of a walk without a translation (08 R183). -/
def walkAux (level : Nat) (m c u : Bool) : Word :=
  BitVec.ofNat 32 (level + (if m then 8 else 0) + (if c then 16 else 0) + (if u then 32 else 0))

/-- The physical address bits of a leaf: 45:12 for a local page, 39:12 for a peer page (08 R182). -/
def leafBase (e : Nat) : Nat := if ebit e 8 then ebits e 39 12 * 4096 else ebits e 45 12 * 4096

/-- An entry with its page number cleared, for the comparison within a contiguous group (08 R184). -/
def outsidePpn (e : Nat) : Nat := if ebit e 8 then e - ebits e 39 12 * 4096 else e - ebits e 45 12 * 4096

/-- The aligned group of 16 entries that holds an L0 leaf is valid (08 R184). -/
def groupValid (s : State) (base idx : Nat) : Bool :=
  let first := base + 8 * (idx / 16 * 16)
  let e0 := s.homeNat first 8
  (List.range 16).all (fun k =>
    let e := s.homeNat (first + 8 * k) 8
    ebit e 0 && ebit e 7 && outsidePpn e == outsidePpn e0 && leafBase e == leafBase e0 + 4096 * k) &&
  leafBase e0 / 4096 % 16 == 0

/-- The size of the page that a leaf maps: 64 KiB for a valid contiguous group (08 R184). -/
def pageSize (level : Nat) (group : Bool) : Nat := if level = 0 && group then 65536 else leafSize level

/-- A present leaf is malformed for a reason other than the populated ranges (08 R183). -/
def leafMalformed (level e : Nat) (group : Bool) : Bool :=
  let pr := ebit e 8
  let cls := ebits e 5 4
  ebits e 57 55 != 0 || ebits e 11 10 != 0 || (!pr && ebits e 54 46 != 0) || cls == 3 || (ebit e 2 && cls != 0) ||
  (ebit e 9 && !pr) || (ebit e 7 && level != 0) || leafBase e % leafSize level != 0 ||
  (cls == 2 && !(level == 1 || (level == 0 && ebit e 7 && group))) || (ebit e 6 && (ebit e 1 || cls != 0 || pr))

/-- A local leaf maps a page outside the populated ranges (08 R183). -/
def leafOutside (level e : Nat) (group : Bool) : Bool :=
  !ebit e 8 && !populatedRun (if group then leafBase e / 65536 * 65536 else leafBase e) (pageSize level group)

/-- The translation of a well-formed leaf for an address (08 R185). -/
def leafTrans (s : State) (cid : Nat) (ga : Bool) (level e va : Nat) (group : Bool) : Trans :=
  let size := pageSize level group
  let own := ebit e 8 && ebits e 54 40 == s.dev
  { cid := cid, glob := ebit e 6 && ga, vbase := va / size * size, size := size,
    pbase := if group then leafBase e / 65536 * 65536 else leafBase e, cls := ebits e 5 4, w := ebit e 1, x := ebit e 2,
    peer := if ebit e 8 && !own then some (ebits e 54 40) else none, pc := ebit e 9 && !own }

/-- What an entry that is a leaf gives (08 R183 to R185). -/
def walkLeaf (s : State) (cid : Nat) (ga : Bool) (level base va : Nat) : WalkEnd :=
  let idx := tableIndex level va
  let e := s.homeNat (base + 8 * idx) 8
  let group := level == 0 && ebit e 7 && groupValid s base idx
  let out := leafOutside level e group
  if leafMalformed level e group || out then .failed (walkAux level true false out)
  else if !(ebit e 6 && ga) && ebits e 63 58 != cid then .failed (walkAux level false true false)
  else .found (leafTrans s cid ga level e va group)

/-- The addresses that an entry of a level serves, by number. -/
def levelPart (level va : Nat) : Nat :=
  match level with
  | 4 => va / 2 ^ 45
  | 3 => va / 2 ^ 33
  | 2 => va / 2 ^ 28
  | 1 => va / 2 ^ 21
  | _ => va / 2 ^ 12

/-- The table that a walk cache gives for an entry of a level, below a root (08 R187, R193). -/
def cachedNext (ps : List Pointer) (cid root level va : Nat) : Option Nat :=
  (ps.find? (fun p => p.cid == cid && p.root == root && p.level == level && p.part == levelPart level va)).map (fun p => p.next)

/-- A walk from the table of a level (08 R181), with the pointer entries that it used. An entry that the walk cache holds is not read. -/
def walkFrom (s : State) (ps : List Pointer) (cid root : Nat) (ga : Bool) (va : Nat) (level base : Nat) : WalkEnd × List Pointer :=
  match level with
  | 0 =>
    let e := s.homeNat (base + 8 * tableIndex 0 va) 8
    if !ebit e 0 then (.failed (walkAux 0 false false false), [])
    else if ebit e 3 then (walkLeaf s cid ga 0 base va, [])
    else (.failed (walkAux 0 true false false), [])
  | l + 1 =>
    let go := fun (next : Nat) =>
      let r := walkFrom s ps cid root ga va l next
      (r.1, ({ cid := cid, root := root, level := l + 1, part := levelPart (l + 1) va, next := next } : Pointer) :: r.2)
    match cachedNext ps cid root (l + 1) va with
    | some next => go next
    | none =>
      let e := s.homeNat (base + 8 * tableIndex (l + 1) va) 8
      let next := ebits e 45 12 * 4096
      if !ebit e 0 then (.failed (walkAux (l + 1) false false false), [])
      else if ebit e 3 then
        (if l + 1 = 4 then .failed (walkAux 4 true false false) else walkLeaf s cid ga (l + 1) base va, [])
      else if e != next + 1 || !populated next then (.failed (walkAux (l + 1) true false false), [])
      else go next

/-- A whole walk for a context from its root (08 R181, R193), with a walk cache. It reads every entry at one instant, and of the range that
holds a table only the base is tested (DESIGN CHOICE, assumption 109). -/
def walkRoot (s : State) (ps : List Pointer) (cid root : Nat) (valid ga : Bool) (va : Nat) : WalkEnd × List Pointer :=
  if !valid then (.failed (walkAux 7 false false false), [])
  else if !populated root then (.failed (walkAux 7 false false true), [])
  else walkFrom s ps cid root ga va 4 root

/-- A walk with the registers of a context slot as they stand, which reads every entry. -/
def State.walkNow (s : State) (slot : Nat) (va : Nat) : WalkEnd :=
  let c := s.slot slot
  (walkRoot s [] c.cid c.root c.v c.ga va).1

/-! ### TLBs (08 R186) -/

/-- A TLB entry serves an address of a context slot; none does while the slot's root is not valid (08 R193). -/
def Trans.hits (t : Trans) (c : Slot) (va : Nat) : Bool :=
  c.v && decide (t.vbase ≤ va) && decide (va < t.vbase + t.size) && (if t.glob then c.ga else t.cid == c.cid)

/-- The entry that serves an address, moved to the front: least recently used entries stand last. -/
def tlbTouch (l : List Trans) (t : Trans) (cap : Nat) : List Trans := (t :: l.filter (fun x => x != t)).take cap

/-- A lookup that changes nothing: the L1 TLB, then the L2 TLB. -/
def State.tlbPeek (s : State) (core slot va : Nat) : Option Trans :=
  match (s.core core).l1tlb.find? (fun t => t.hits (s.slot slot) va) with
  | some t => some t
  | none => (s.die (dieOf core)).l2tlb.find? (fun t => t.hits (s.slot slot) va)

/-- Puts a translation at the front of a core's L1 TLB. -/
def State.fillL1Tlb (s : State) (core : Nat) (t : Trans) : State :=
  s.mapCore core (fun c => { c with l1tlb := tlbTouch c.l1tlb t Config.l1TlbEntries })

/-- Puts a translation at the front of a die's L2 TLB. -/
def State.fillL2Tlb (s : State) (die : Nat) (t : Trans) : State :=
  s.mapDie die (fun d => { d with l2tlb := tlbTouch d.l2tlb t Config.l2TlbEntries })

/-- A lookup: a hit in the L2 TLB fills the L1 TLB. -/
def State.tlbLookup (s : State) (core slot va : Nat) : Option (Trans × State) :=
  match (s.core core).l1tlb.find? (fun t => t.hits (s.slot slot) va) with
  | some t => some (t, s.fillL1Tlb core t)
  | none =>
    match (s.die (dieOf core)).l2tlb.find? (fun t => t.hits (s.slot slot) va) with
    | some t => some (t, (s.fillL2Tlb (dieOf core) t).fillL1Tlb core t)
    | none => none

/-! ### Walks (08 R187) -/

/-- The walk of a pair (context, virtual page) that is queued or running on a die. -/
def State.walkOf (s : State) (die slot vpage : Nat) : Option Walk :=
  s.walks.find? (fun k => k.die == die && k.slot == slot && k.cid == (s.slot slot).cid && k.vpage == vpage && k.failed.isNone)

/-- A miss joins the walk of its pair, or queues one (08 R187). -/
def State.requestWalk (s : State) (die slot vpage : Nat) : State × Nat :=
  match s.walkOf die slot vpage with
  | some k => (s, k.wid)
  | none =>
    let k : Walk := { wid := s.nextId, die := die, slot := slot, cid := (s.slot slot).cid, vpage := vpage }
    (({ s with walks := s.walks ++ [k] } : State).bump, s.nextId)

/-- The walk that the thread waited on found no translation of this page. -/
def State.failedWalk (s : State) (t : Thread) (vpage : Nat) : Option Word :=
  match t.begun with
  | none => none
  | some id =>
    match s.walks.find? (fun k => k.wid == id && k.vpage == vpage) with
    | some k => k.failed
    | none => none

/-- What a translation at issue gives a thread. -/
inductive Xlat where
  | hit (t : Trans)
  | bad (aux : Word)
  | wait (wid : Nat)
  deriving DecidableEq, Repr

/-- Translates an address of a thread at issue (07 R166): a hit, a walk that found nothing, or a miss. -/
def State.translate (s : State) (t : Thread) (a : Pair) : State × Xlat :=
  let slot := s.slotOf t
  match s.tlbLookup t.core slot (va57 a) with
  | some (x, s) => (s, .hit x)
  | none =>
    match s.failedWalk t (va57 a / 4096) with
    | some aux => (s, .bad aux)
    | none =>
      let r := s.requestWalk (dieOf t.core) slot (va57 a / 4096)
      (r.1, .wait r.2)

/-- What the TLBs hold for an address, or what a walk would find now; nothing changes. -/
def State.placeNow (s : State) (core slot : Nat) (a : Pair) : WalkEnd :=
  match s.tlbPeek core slot (va57 a) with
  | some x => .found x
  | none => s.walkNow slot (va57 a)

/-- The translation of an address as the TLBs hold it, or as a walk would find it now. -/
def State.mappedNow (s : State) (core slot : Nat) (a : Pair) : Option Trans :=
  match s.placeNow core slot a with
  | .found x => some x
  | .failed _ => none

/-- What a translation gives an engine. -/
inductive EngineXlat where
  | found (t : Trans)
  | failed (aux : Word)
  | wait
  deriving DecidableEq, Repr

/-- Translates an address for the engine of an operation or a tile command (08 R186, R187): a miss joins a walk, and the engine tries
again when it has ended; a walk that found nothing gives its cause once. -/
def State.translateFor (s : State) (who core slot : Nat) (a : Pair) : State × EngineXlat :=
  match s.tlbLookup core slot (va57 a) with
  | some (x, s) => (s, .found x)
  | none =>
    let page := va57 a / 4096
    match s.walks.find? (fun k => k.failed.isSome && k.engines.contains who && k.vpage == page) with
    | some k =>
      ({ s with walks := s.walks.map (fun x => if x.wid = k.wid then { x with engines := x.engines.filter (fun e => e != who) } else x) },
        .failed (k.failed.getD 0))
    | none =>
      let r := s.requestWalk (dieOf core) slot page
      ({ r.1 with walks := r.1.walks.map (fun x =>
          if x.wid = r.2 && !x.engines.contains who then { x with engines := x.engines ++ [who] } else x) }, .wait)

/-- The place of an address under a translation (08 R185). -/
def Trans.place (t : Trans) (va : Nat) : Nat :=
  let pa := t.pbase + (va - t.vbase)
  match t.peer with
  | some d => peerPlace d pa
  | none => pa

/-- The place of the first byte of the page. -/
def Trans.pagePlace (t : Trans) : Nat := t.place t.vbase

/-! ### Fetching and the checks of a control transfer (04 R109, 03 R65, R81) -/

/-- A byte of an instruction as a core fetches it: the L1 copy, otherwise the die's L2; of a peer's memory that the die holds no copy of, a
free value at each use. -/
def State.fetchByte (s : State) (core loc : Nat) : Byte :=
  match s.l1Line? core loc with
  | some l => Memory.read l.copy (loc % 128)
  | none =>
    if (peerOf loc).isSome && !(s.remoteLine (dieOf core) (lineOf loc)).whole then Config.peerByte s.fresh loc
    else (s.l2View (dieOf core) loc 1).headD 0

/-- A word as it stands for a core, little-endian. -/
def State.rawWord (s : State) (core loc : Nat) : Word :=
  BitVec.ofNat 32 (leNat ((List.range 4).map (fun i => s.fetchByte core (loc + i))))

/-- The version of a word that a core fetches, from the word before the stores to it that not every core sees, oldest first: those that it
has acquired are applied; one whose release has reached it is applied or not, which is an open choice, and not without the older ones of its
thread; another is not (03 R81). -/
def codeVersion (core : Nat) (pick : Nat → Bool) (late : List Nat) (ws : List CodeWrite) (x : Word) : Word :=
  match ws with
  | [] => x
  | w :: ws =>
    if w.cores.contains core || (w.reached.any (fun r => r.1.getLsbD core) && pick ws.length && !late.contains w.tid)
    then codeVersion core pick late ws (w.put x)
    else codeVersion core pick (w.tid :: late) ws x

/-- A word of an instruction as a core fetches it (03 R81). -/
def State.fetchWord (s : State) (core loc : Nat) : Word :=
  match s.codeWrites.filter (fun w => w.word == loc / 4) with
  | [] => s.rawWord core loc
  | w :: ws => codeVersion core (fun n => Config.freeChoice ((s.fresh * 2 ^ 64 + loc / 4) * 2 ^ 64 + n)) [] (w :: ws) w.old

/-- The bits of a word that a store of n bytes writes. -/
def wordMask (word loc n : Nat) : Word :=
  BitVec.ofNat 32 (leNat ((List.range 4).map (fun i => if loc ≤ 4 * word + i ∧ 4 * word + i < loc + n then (0xFF : Byte) else 0)))

/-- The word that the bytes of a store put there. -/
def wordBits (word loc : Nat) (bs : List Byte) : Word :=
  BitVec.ofNat 32 (leNat ((List.range 4).map (fun i =>
    if loc ≤ 4 * word + i ∧ 4 * word + i < loc + bs.length then bs.getD (4 * word + i - loc) 0 else 0)))

/-- A write by a writer is noted for one word: with the last write to it where that is the same writer's and no release stands between,
otherwise by itself (03 R81). -/
def State.noteWord (s : State) (who : CodeWrite) (core loc : Nat) (bs : List Byte) (word : Nat) : State :=
  let m := wordMask word loc bs.length
  let x := wordBits word loc bs
  match s.codeWrites.reverse.find? (fun w => w.word == word) with
  | none =>
    let w := { who with word := word, old := s.rawWord core (4 * word), mask := m, new := x }
    if w.put w.old = w.old then s else { s with codeWrites := s.codeWrites ++ [w] }
  | some v =>
    if v.tid = who.tid ∧ v.reached = who.reached ∧ v.cores = [] ∧ !s.ops.any (fun p => p.tid == who.tid && p.releases) then
      { s with codeWrites := s.codeWrites.map (fun w => if w = v then { v with mask := v.mask ||| m, new := (v.new &&& ~~~m) ||| x } else w) }
    else { s with codeWrites := s.codeWrites ++ [{ who with word := word, old := v.put v.old, mask := m, new := x }] }

/-- A write to memory of this module is noted: the fetch of no core sees it before a release and an acquire (03 R81). -/
def State.noteWrite (s : State) (who : CodeWrite) (core loc : Nat) (bs : List Byte) : State :=
  if (peerOf loc).isSome then s
  else (List.range ((loc % 4 + bs.length + 3) / 4)).foldl (fun s i => s.noteWord who core loc bs (loc / 4 + i)) s

/-- A writer whose releases this module does not follow: a fetch may see what it writes at once, and does so behind an acquire of every core
at a level (assumption 106). -/
def foreignWriter (level : Nat) : CodeWrite := { word := 0, tid := 0, op := 0, old := 0, mask := 0, new := 0, reached := [(BitVec.allOnes 320, level)] }

/-- The writer that an operation writes for: its thread, or a peer. -/
def Op.writer (o : Op) : CodeWrite :=
  if o.origin.isSome then foreignWriter 3 else { word := 0, tid := o.tid, op := o.id, old := 0, mask := 0, new := 0 }

/-- A store of an operation is noted. -/
def State.noteCode (s : State) (o : Op) (a : Access) (bs : List Byte) : State :=
  if a.sp ≠ 0 then s else s.noteWrite o.writer o.core a.loc bs

/-- A state in which a write has been made, with the write noted as the state before it stands. -/
def State.notedFrom (s before : State) (who : CodeWrite) (core loc : Nat) (bs : List Byte) : State :=
  { s with codeWrites := (before.noteWrite who core loc bs).codeWrites }

/-- A word is a valid block head (03 R65). -/
def validHead (h : Word) : Bool :=
  let len := h.toNat % 4096
  let bud := h.toNat / 2 ^ 20 % 16
  h.toNat / 2 ^ 26 == 0x3E && h.toNat / 2 ^ 12 % 256 == 0 && len != 0 && (if h.getLsbD 24 then bud != 0 else bud == 0)

/-- The length field of a head. -/
def headLen (h : Word) : Nat := h.toNat % 4096

/-- G of a head. -/
def headG (h : Word) : Bool := h.getLsbD 25

/-- E of a head: a function entry. -/
def headE (h : Word) : Bool := h.getLsbD 24

/-- The register budget that a function entry declares (03 R65). -/
def headBudget (h : Word) : Nat := 8 * (h.toNat / 2 ^ 20 % 16 + 1)

/-- The block at an address whose head word is `h`. -/
def blockOf (a : Pair) (h : Word) : Block := { head := a, len := headLen h, gath := headG h }

/-- The block whose head stands at an address, as the TLBs or the page table give its place, without an effect: what an entry there takes
for K and G before its head is read (04 R85). -/
def State.blockAtHead (s : State) (t : Thread) (a : Pair) : Option Block :=
  if !canonical a || a.toNat % 4 ≠ 0 then none
  else
    match s.mappedNow t.core (s.slotOf t) a with
    | none => none
    | some x =>
      let h := s.fetchWord t.core (x.place (va57 a))
      if x.x && validHead h then some (blockOf a h) else none

/-- A thread at an address past its block's end takes it as a fall-through (04 R87). -/
def pastEnd (b : Block) (pc : Pair) : Bool := b.len != 0 && (pc - b.head).toNat == 4 * (b.len + 1)

/-- No block stands at an address: it is no block head, so an entry there has K = 1, and there is no word of it (04 R85). -/
def openBlock (pc : Pair) : Block := { head := pc - 4 }

/-- The block that holds a resume point of a thread: past its block's end, the block whose head stands there, or none (04 R85, R87). -/
def State.landing (s : State) (tid : Nat) (pc : Pair) (b : Block) : Block :=
  if !pastEnd b pc && b.len != 0 then b
  else
    match s.thread? tid with
    | none => openBlock pc
    | some t => (s.blockAtHead t pc).getD (openBlock pc)

/-- `resume(t)`: the thread stands at t as a resume point (16 R358, 04 R85). -/
def State.resumeAt (s : State) (tid : Nat) (pc : Pair) (b : Block) : State := s.enterAt tid pc (s.landing tid pc b) .none

/-- A PARKED thread is resumed from outside, `unpark` (16 R360): both flags are cleared, whatever they were. -/
def State.unparkThread (s : State) (t : Thread) (k : Nat) : State :=
  (s.setThread { t with emul := false, handler := false }).resumeAt t.tid (t.resumePoint k) t.parkBlk

/-- What the checks of a control transfer give. -/
inductive Target where
  | head (h : Word)
  | fault (f : FaultInfo)
  | wait (wid : Nat)
  deriving DecidableEq, Repr

/-- The checks of a control transfer to an address, in order (04 R109). -/
def State.goChecks (s : State) (t : Thread) (a : Pair) : State × Target :=
  if !canonical a then (s, .fault { code := 0x0507, addr := a })
  else if a.toNat % 4 ≠ 0 then (s, .fault { code := 0x0201, addr := a })
  else
    match s.translate t a with
    | (s, .wait wid) => (s, .wait wid)
    | (s, .bad aux) => (s, .fault { code := 0x0501, addr := a, aux := aux })
    | (s, .hit x) =>
      if !x.x then (s, .fault { code := 0x0504, addr := a })
      else
        let h := s.fetchWord t.core (x.place (va57 a))
        if validHead h then (s, .head h) else (s, .fault { code := 0x0201, addr := a })

/-- The words of a block from its head, as a core fetches them: an error at a word whose address is not canonical, whose page the TLBs do
not hold or whose page is not executable, with the address. Each word uses its translation (08 R186). -/
def State.fetchWords (s : State) (core slot : Nat) (a : Pair) (n : Nat) : State × Except Pair (List Word) :=
  match n with
  | 0 => (s, .ok [])
  | n + 1 =>
    if !canonical a then (s, .error a)
    else
      match s.tlbLookup core slot (va57 a) with
      | none => (s, .error a)
      | some (x, s) =>
        if !x.x then (s, .error a)
        else
          match State.fetchWords s core slot (a + 4) n with
          | (s, .error b) => (s, .error b)
          | (s, .ok ws) => (s, .ok (s.fetchWord core (x.place (va57 a)) :: ws))

end Sys2Proof.Machine
end

