-- ==== Sys2Proof/Machine/Objects.lean ====
section
/-!
DEFINITION. Launches, graphs, phases and jobs (15 R337 to R345): handles, ends, cancels, dependent launches; the ends of
contexts with their error records (01 R33, 14 R328, 16 R374, R376).
-/
namespace Sys2Proof.Machine

/-! ### Handles (15 R337) -/

/-- An object with the objects that contain it, itself first. -/
def Slot.climb (c : Slot) (h : Word) (n : Nat) : List Word :=
  match n with
  | 0 => []
  | n + 1 =>
    match c.obj? h with
    | none => []
    | some o => h :: Slot.climb c o.parent n

/-- The object and its containers up to the job. -/
def Slot.path (c : Slot) (h : Word) : List Word := c.climb h 4

/-- An object is a target or lies within it. -/
def Slot.within (c : Slot) (h target : Word) : Bool := (c.path h).contains target

/-- The job that contains an object. -/
def Slot.jobOf (c : Slot) (h : Word) : Option Word := (c.path h).find? (fun x => handleLevel x == 3)

/-- An erasure: a message of the home channel between modules that no context waits for (10 R218). -/
def Req.erasure (r : Req) : Bool := r.pkt.typ == 9 && r.pkt.op == 12

/-- Peers may still hold claims, lines or marks of a launch: one has not yet been told, or has not answered (10 R218). -/
def State.peersHold (s : State) (slot : Nat) (h : Word) : Bool :=
  s.claimsGone.any (fun e => e.1 == slot && e.2.1 == h) ||
    s.reqs.any (fun r => r.erasure && r.slot == slot && leNat (r.pkt.data.take 4) == h.toNat)

/-- A claim, merge record or closed mark of the launch is still held, here or at a peer (15 R337). -/
def State.holdsClaim (s : State) (slot : Nat) (h : Word) : Bool :=
  s.peersHold slot h ||
  s.claims.any (fun c => c.slot == slot && c.launch == h) || s.merges.any (fun m => m.slot == slot && m.launch == h) ||
    s.closedMarks.any (fun m => m.2.1 == slot && m.2.2 == h) ||
    s.pages.any (fun p => p.2.claims.any (fun c => c.1 == slot && c.2.1 == h))

/-- A number of a level may be assigned: no object of that number still exists. -/
def State.numberFree (s : State) (slot : Nat) (h : Word) : Bool :=
  match s.obj? slot h with
  | none => true
  | some o => o.ended && !s.holdsClaim slot h

/-- The handle of a level and number. -/
def mkHandle (level n : Nat) : Word := BitVec.ofNat 32 (level * 2 ^ 30 + n)

/-- The next handle of a level (15 R337): ascending modulo 2^30, passing over 0 and the numbers of existing objects. -/
def State.newHandle (s : State) (slot level : Nat) : Option Word :=
  let last := Sparse.get 0 (s.slot slot).nextNo level
  ((List.range ((s.slot slot).objs.length + 1)).map (fun k => mkHandle level ((last + k) % (2 ^ 30 - 1) + 1))).find?
    (s.numberFree slot)

/-- Creates an object in a context, in place of an ended one of the same number. -/
def State.addObj (s : State) (slot : Nat) (o : Obj) : State :=
  s.mapSlot slot (fun c => { c with
    objs := c.objs.filter (fun x => x.handle != o.handle) ++ [o],
    nextNo := Sparse.set 0 c.nextNo (handleLevel o.handle) (o.handle.toNat % 2 ^ 30) })

/-- The object that a handle names for a thread: number 0 names a container of its own launch; a foreign handle names
nothing (15 R337). -/
def State.named (s : State) (t : Thread) (h : Word) : Option Word :=
  let c := s.slot (s.slotOf t)
  let own := c.path (s.handleOf t)
  if h.toNat % 2 ^ 30 = 0 then
    if handleLevel h = 0 then none else own.find? (fun x => handleLevel x == handleLevel h)
  else
    match c.obj? h with
    | none => none
    | some _ => if t.level != .user || (c.jobOf h).any (fun j => own.contains j) then some h else none

/-! ### Ends (15 R341) -/

/-- The launches named as predecessors (15 R338). -/
def Obj.preds (o : Obj) : List Word := ((List.range (o.word 19).toNat).take 4).map (fun k => o.word (20 + k))

/-- Units of a launch: the grid's product (15 R338). -/
def Obj.total (o : Obj) : Nat :=
  ((o.word 9).toNat % 2 ^ 20 + 1) * ((o.word 10).toNat % 2 ^ 20 + 1) * ((o.word 11).toNat % 2 ^ 20 + 1)

/-- A member's end is counted by its container. -/
def State.countMember (s : State) (slot : Nat) (parent : Word) : State :=
  s.mapObj slot parent (fun o => { o with done := o.done + 1 })

/-- A closed container all of whose members have ended is complete, and its own container counts it (15 R341). -/
def State.checkEnd (s : State) (slot : Nat) (h : Word) (levels : Nat) : State :=
  match levels with
  | 0 => s
  | n + 1 =>
    match s.obj? slot h with
    | none => s
    | some o =>
      if o.ended || !o.closed || handleLevel h = 0 || (s.slot slot).objs.any (fun m => m.parent == h && !m.ended) then s
      else
        State.checkEnd ((s.mapObj slot h (fun o => { o with state := .complete })).countMember slot o.parent) slot o.parent n

/-- The operations in flight that a condition picks make no claim any more. -/
def State.dropClaims (s : State) (pick : Op → Bool) : State :=
  { s with ops := s.ops.map (fun o => if pick o then { o with claimless := true } else o) }

/-- Erases the claims and closed marks of a launch; those at peers are erased by a message, with the lines of its drains that they hold
(10 R218, 12 R287, 13 R306, R307, R312). -/
def State.eraseClaims (s : State) (slot : Nat) (h : Word) : State :=
  { s.dropClaims (fun o => o.slot == slot && o.origin.isNone && o.launch == h) with
    claimsGone := s.claimsGone ++ [(slot, h, none)],
    claims := s.claims.filter (fun c => !(c.slot == slot && c.launch == h)),
    closedMarks := s.closedMarks.filter (fun m => !(m.2.1 == slot && m.2.2 == h)),
    pages := s.pages.map (fun (p : Nat × PageRec) =>
      (p.1, { p.2 with claims := p.2.claims.filter (fun c => !(c.1 == slot && c.2.1 == h)) })) }

/-- The field check at the completion of a deterministic launch: the lowest field of its transfer set whose global
out-of-range counter is not zero (11 R260). -/
def State.rangeFault (s : State) (slot : Nat) (o : Obj) : Option Nat :=
  (o.xferSet.find? (fun p =>
    (match Sparse.find (s.slot slot).fields p.1 with
     | some f => f.gen == p.2
     | none => false) &&
    s.sets.any (fun c => c.slot == slot && c.fid == p.1 && c.key == 9 && c.outOfRange != 0))).map (fun p => p.1)

/-- A waiting launch whose predecessors have all ended (15 R340). -/
def Slot.mayRun (c : Slot) (o : Obj) : Bool :=
  handleLevel o.handle == 0 && o.state == .waiting &&
    o.preds.all (fun p => match c.obj? p with | some q => q.ended | none => true)

/-- Such launches run: their units join the context's placement queue (15 R340, R347). -/
def State.startReady (s : State) (slot : Nat) : State :=
  s.mapSlot slot (fun c =>
    let queue := c.queue ++ (c.objs.filter c.mayRun).map (fun o => (o.handle, 0, o.total))
    { c with queue := queue, objs := c.objs.map (fun o => if c.mayRun o then { o with state := .running } else o) })

/-- A launch completes when every unit has ended (15 R341). -/
def State.completeLaunch (s : State) (slot : Nat) (h : Word) : State :=
  match s.obj? slot h with
  | none => s
  | some o =>
    if o.ended then s
    else
      let bad := if o.opt 24 1 = 1 then s.rangeFault slot o else none
      let s1 := match bad with
        | some k => s.mapUp slot h (fun x => { x with range := true, fld := if x.range then Nat.min x.fld k else k }) 4
        | none => s
      let s2 := (s1.mapObj slot h (fun x => { x with state := .complete })).eraseClaims slot h
      ((s2.countMember slot o.parent).checkEnd slot o.parent 3).startReady slot

/-! ### Cancels (15 R345) -/

/-- The objects that a cancel takes, grown by one round: what lies within a taken object, and launches that wait on a taken
or cancelled launch. -/
def Slot.growCancel (c : Slot) (hs : List Word) : List Word :=
  (c.objs.filter (fun o => !o.ended &&
    ((c.path o.handle).any (fun x => hs.contains x) ||
      (handleLevel o.handle == 0 && o.state == .waiting &&
        o.preds.any (fun p => hs.contains p || (match c.obj? p with | some q => q.state == .cancelled | none => false)))))).map
    (fun o => o.handle)

/-- Every object that a cancel takes. -/
def Slot.cancelSet (c : Slot) (hs : List Word) (rounds : Nat) : List Word :=
  match rounds with
  | 0 => hs
  | n + 1 => Slot.cancelSet c (c.growCancel hs) n

/-- Removes the units of a launch, resident and saved, counts them as ended, and discards its claims, tile commands and
merge lines (15 R345, 13 R307, R313). -/
def State.dropLaunch (s : State) (slot : Nat) (h : Word) : State :=
  if handleLevel h ≠ 0 then s
  else
    let mine := (s.units.filter (fun u => u.slot == slot && u.launch == h)).map (fun u => u.uid)
    let saved := (s.saved.filter (fun v => v.unit.slot == slot && v.unit.launch == h)).length
    let s1 := mine.foldl (fun s u => (s.discardCmds u).removeUnit u) s
    let s1 := s1.mapSlot slot (fun c => { c with queue := c.queue.filter (fun x => x.1 != h) })
    let s2 := { s1 with saved := s1.saved.filter (fun v => !(v.unit.slot == slot && v.unit.launch == h)),
                        merges := s1.merges.filter (fun m => !(m.slot == slot && m.launch == h)),
                        mergeWait := s1.mergeWait.filter (fun m => !(m.slot == slot && m.launch == h)) }
    (s2.eraseClaims slot h).mapObj slot h (fun o => { o with done := o.done + mine.length + saved, draining := [] })

/-- Cancels a set of objects: removal first, then their states, then the counts of their containers. -/
def State.cancelObjs (s : State) (slot : Nat) (hs : List Word) : State :=
  let s1 := hs.foldl (fun s h => s.dropLaunch slot h) s
  let s2 := s1.mapSlot slot (fun c => { c with objs := c.objs.map (fun o =>
    if hs.contains o.handle then { o with state := .cancelled } else o) })
  let parents := hs.filterMap (fun h => (s2.obj? slot h).map (fun o => o.parent))
  let s3 := parents.foldl (fun s p => s.countMember slot p) s2
  (parents.foldl (fun s p => s.checkEnd slot p 3) s3).startReady slot

/-- `lcancel` and the cancel message: a foreign handle or an ended object is ignored (15 R345). -/
def State.cancel (s : State) (slot : Nat) (h : Word) : State :=
  match s.obj? slot h with
  | none => s
  | some o =>
    if o.ended then s
    else s.cancelObjs slot ((s.slot slot).cancelSet [h] ((s.slot slot).objs.length + 1))

/-- The end of a unit: its launch counts it, and completes with its last (15 R341, R344). -/
def State.countUnit (s : State) (slot : Nat) (h : Word) : State :=
  let s := s.mapObj slot h (fun o => { o with done := o.done + 1 })
  match s.obj? slot h with
  | none => s
  | some o =>
    if o.total ≤ o.done then s.completeLaunch slot h else s

/-! ### Error records and the ends of contexts (16 R374) -/

/-- The 8 words of an error record. -/
def State.errorWords (s : State) (kind die slot code : Nat) (launch : Word) (addr : Pair) (aux loc : Word) : List Word :=
  [BitVec.ofNat 32 (kind * 2 ^ 24 + die * 2 ^ 20 + slot * 2 ^ 16 + code), launch, loWord addr, hiWord addr, aux,
   loWord (s.cyc die), loc, BitVec.ofNat 32 (s.die die).ce]

/-- The `strel` of a context that has ended releases and stores nothing (09 R203). -/
def Op.withoutStore (o : Op) : Op :=
  match o.kind with
  | .store _ _ (some level) => if o.arrived then o else { o with kind := .fence none (some level) }
  | _ => o

/-- What goes with a context that ends: its requests to peers with their operations, whose responses are discarded, but for those of transfers, which release
their cells in turn (11 R253, R257), of erasures, for which no context waits (10 R218), and of the operations that this module performs for
peers. Its releases that wait complete in their turn, behind the thread's stores to this module that are on their way (09 R198, R203). -/
def State.quit (s : State) (slot : Nat) : State :=
  let keeps := fun (o : Op) => o.isXfer || o.origin.isSome
  let goes := fun (r : Req) => r.slot == slot && !r.erasure && !(s.ops.any (fun o => o.id == r.op && keeps o))
  { s with reqs := s.reqs.filter (fun r => !goes r),
           ops := (s.ops.filter (fun o => keeps o || o.slot != slot || !s.reqs.any (fun r => r.op == o.id && goes r))).map
             (fun o => if o.slot == slot && o.origin.isNone then o.withoutStore else o) }

/-- Sends an error record. It also reports the errors that the die has found in data that no instruction consumed, each in the form of a
record of KIND 1 that names no launch (01 R33). -/
def State.sendError (s : State) (slot : Nat) (record : List Word) : State :=
  let die := (record.headD 0).toNat / 2 ^ 20 % 16
  (s.die die).found.foldl (fun s pa => s.send 0x42 slot (s.errorWords 1 die 0 0 0 (BitVec.ofNat 64 pa) 0 0))
    ((s.send 0x42 slot record).mapDie die (fun d => { d with found := [] }))

/-- Ends a context: one error record, every live object cancelled with X set, no handler runs (14 R328, 01 R33). -/
def State.endContext (s : State) (slot : Nat) (record : List Word) : State :=
  if (s.slot slot).ended then s
  else
    let s1 := s.sendError slot record
    let live := ((s1.slot slot).objs.filter (fun o => !o.ended)).map (fun o => o.handle)
    let s2 := s1.mapSlot slot (fun c => { c with ended := true, objs := c.objs.map (fun o =>
      if o.ended then o else { o with ctxErr := true }) })
    s2.cancelObjs slot live |>.quit slot

/-- Ends a context without a record: a reset or a change of security state (16 R380, R392). -/
def State.dropContext (s : State) (slot : Nat) : State :=
  let live := ((s.slot slot).objs.filter (fun o => !o.ended)).map (fun o => o.handle)
  ((s.mapSlot slot (fun c => { c with ended := true })).cancelObjs slot live).quit slot

/-- A remote error of a thread's request: 0x0901 with its cause (14 R328). -/
def State.remoteError (s : State) (slot core tslot : Nat) (launch : Word) (addr : Pair) (cause : Word) : State :=
  s.endContext slot (s.errorWords 2 (dieOf core) slot 0x0901 launch addr cause (BitVec.ofNat 32 (core * 2048 + tslot)))

/-- An uncorrectable error in data that an operation consumes (01 R33): KIND 1 with the physical address. -/
def State.dataError (s : State) (o : Op) (pa : Nat) : State :=
  s.endContext o.slot (s.errorWords 1 (dieOf o.core) o.slot 0 o.launch (BitVec.ofNat 64 (pa % Config.placeSpan)) 0 o.locator)

/-- A fault of an operation on completion (04 R116); after its thread has exited it is counted and reported only
(04 R110). 0x0901 ends the context. -/
def State.opFault (s : State) (o : Op) (f : FaultInfo) : State :=
  if f.code = 0x0901 then s.remoteError o.slot o.core o.tslot o.launch f.addr f.aux
  else
    match s.thread? o.tid with
    | some t =>
      if t.state == .exited then
        (s.countFault o.slot o.launch).sendError o.slot
          (s.errorWords 3 (dieOf o.core) o.slot f.code o.launch f.addr f.aux o.locator)
      else s.takeLate o.tid f o.pc o.word
    | none =>
      (s.countFault o.slot o.launch).sendError o.slot
        (s.errorWords 3 (dieOf o.core) o.slot f.code o.launch f.addr f.aux o.locator)

end Sys2Proof.Machine
end

