-- ==== Sys2Proof/Machine/Fabric.lean ====
section
/-!
DEFINITION. The fabric (14): flits with their check codes, peer states and routes, send allowances, packets in transit and
requests to peers. What the home does with a request stands in Machine/Peer.lean.
-/
namespace Sys2Proof.Machine

/-! ### Flits (14 R320) -/

/-- The bytes of a flit, lowest first. -/
def flitBytes (w : BitVec 512) : List Byte := leBytes 64 w.toNat

/-- A flit as a link sends it, beat 0 first. -/
def mkFlit (seq : Nat) (w : BitVec 512) : Flit :=
  { seq := seq, bits := w, code0 := crc16 ((flitBytes w).take 32), code1 := crc16 ((flitBytes w).drop 32) }

/-- Both beats of a flit carry their check codes. -/
def flitGood (f : Flit) : Bool :=
  crc16 ((flitBytes f.bits).take 32) == f.code0 && crc16 ((flitBytes f.bits).drop 32) == f.code1

/-- The header flit of a packet (14 R320). -/
def pktHeader (p : Packet) : BitVec 512 :=
  BitVec.ofNat 512
    (p.rsvd % 2 ^ 112 + p.low % 2 ^ 16 * 2 ^ 112 + p.addr % 2 ^ 40 * 2 ^ 128 + (if p.gh then 2 ^ 168 else 0) +
      p.hops % 8 * 2 ^ 169 + p.op % 32 * 2 ^ 172 + p.len % 256 * 2 ^ 177 + p.txn % 2 ^ 16 * 2 ^ 185 +
      p.ctag % 2 ^ 16 * 2 ^ 201 + p.typ % 64 * 2 ^ 217 + p.vc % 8 * 2 ^ 223 + p.src % 2 ^ 15 * 2 ^ 226 +
      p.dst % 2 ^ 15 * 2 ^ 241 + (if p.data.length ≤ 32 then leNat p.data * 2 ^ 256 else 0))

/-- A packet from its header flit; a payload is added as it arrives. -/
def pktOfHeader (w : BitVec 512) : Packet :=
  let f := fun (lo n : Nat) => w.toNat / 2 ^ lo % 2 ^ n
  { dst := f 241 15, src := f 226 15, vc := f 223 3, typ := f 217 6, ctag := f 201 16, txn := f 185 16, len := f 177 8,
    op := f 172 5, hops := f 169 3, gh := f 168 1 == 1, addr := f 128 40, low := f 112 16, rsvd := f 0 112,
    data := leBytes 32 (f 256 256) }

/-- The TYPE values of R321. -/
def typeListed (t : Nat) : Bool := (1 ≤ t && t ≤ 10) || (16 ≤ t && t ≤ 18) || t == 32 || t == 33

/-- A packet travels in the response pools (14 R321). -/
def isResponse (t : Nat) : Bool := t == 8 || t == 10 || (16 ≤ t && t ≤ 18)

/-- A packet whose data bytes travel with it: everything but a read, an acknowledgement, a refusal and a waymark. -/
def carriesData (t : Nat) : Bool := !(t == 1 || t == 17 || t == 18 || t == 32 || t == 33)

/-- A request whose header holds its operands: a read, an atomic, a message of a transfer, an append-seal or field operation. -/
def holdsOperands (t : Nat) : Bool := t == 1 || t == 3 || t == 4 || (6 ≤ t && t ≤ 9)

/-- The payload bytes that follow a header: none up to 32 bytes (14 R320). -/
def pktPayload (p : Packet) : Nat := if carriesData p.typ && 32 < p.len + 1 then p.len + 1 else 0

/-- The flits of a packet. -/
def pktFlits (p : Packet) : Nat := 1 + (pktPayload p + 63) / 64

/-- The payload flits of a packet. -/
def payloadFlits (bs : List Byte) (n : Nat) : List (BitVec 512) :=
  match n with
  | 0 => []
  | n + 1 => BitVec.ofNat 512 (leNat (bs.take 64)) :: payloadFlits (bs.drop 64) n

/-! ### Links and peers (14 R324 to R326) -/

/-- A link. -/
def State.link (s : State) (n : Nat) : Link := Sparse.get {} s.links n

/-- Changes a link. -/
def State.mapLink (s : State) (n : Nat) (f : Link → Link) : State :=
  { s with links := Sparse.set {} s.links n (f (s.link n)) }

/-- The link number exists (14 R315). -/
def linkOk (n : Nat) : Bool := decide (n < Config.links)

/-- The number of a pool: channel and kind (14 R322). -/
def poolNo (vc : Nat) (response : Bool) : Nat := 2 * vc + (if response then 1 else 0)

/-- The size of a pool in flits: 24 on an adaptive channel, 8 on an escape sub-channel (14 R322). -/
def poolSize (pool : Nat) : Nat := if pool / 2 < 4 then 24 else 8

/-- A pool of a link. -/
def Link.pool (l : Link) (n : Nat) : Pool := Sparse.get {} l.pools n

/-- Flits sent on a pool and not yet returned: (SENT − FREED) mod 2^16 (14 R324). -/
def Pool.used (p : Pool) : Nat := (p.sent - p.freed).toNat

/-- A link may carry a packet of n flits on a pool; after a dark interval not before the far end's resync beat (14 R335). -/
def State.admits (s : State) (n pool flits : Nat) : Bool :=
  let l := s.link n
  l.state == .up && !s.reconf.contains n && !l.resyncDue && decide ((l.pool pool).used + flits ≤ poolSize pool) &&
    decide (l.replay.length + flits ≤ 256)

/-- A link carries traffic: UP and in no reconfiguration (14 R326). -/
def State.linkLive (s : State) (n : Nat) : Bool := (s.link n).state == .up && !s.reconf.contains n

/-- The links of a route. -/
def routeLinks (r : Route) : List Nat := r.minimal ++ r.nonMinimal ++ r.escape.toList

/-- The route to a device. -/
def State.route? (s : State) (dev : Nat) : Option Route := s.routes.find? (fun r => r.dev == dev)

/-- The state of a peer as the table and the links give it: 0 Reachable, 1 Held, 2 Down, 3 the module itself (14 R326,
R333). -/
def State.peerView (s : State) (dev : Nat) : Nat :=
  if dev = s.dev then 3
  else
    match s.route? dev with
    | none => 2
    | some r =>
      match r.state with
      | .down => 2
      | .held => 1
      | .reachable =>
        if (routeLinks r).any s.linkLive then 0 else 1

/-- The check of an access to a peer at issue: the cause of 0x0901 (14 R317). -/
def State.peerCheck (s : State) (slot dev : Nat) : Option Word :=
  if !(s.slot slot).ctagV then some 1
  else if 512 < dev / 32 || s.peerView dev = 2 then some 0
  else none

/-! ### Packets in transit (14 R323) -/

/-- The least of a list of links by queue length on a pool. -/
def State.leastQueue (s : State) (ls : List Nat) (pool : Nat) : Option Nat :=
  ls.foldl (fun acc n =>
    let q := ((s.link n).pool pool).used
    match acc with
    | none => some q
    | some x => some (Nat.min x q)) none

/-- The adaptive next links of a packet: a minimal link while its queue is no longer than a non-minimal one's. -/
def State.adaptive (s : State) (r : Route) (pool flits : Nat) : List Nat :=
  let ms := r.minimal.filter (fun n => s.admits n pool flits)
  let ns := r.nonMinimal.filter (fun n => s.admits n pool flits)
  match s.leastQueue ms pool, s.leastQueue ns pool with
  | some a, some b => if a ≤ b then ms else ms ++ ns
  | some _, none => ms
  | none, _ => ns

/-! ### The control sideband (14 R324, R325) -/

/-- A link sends a beat: its sideband returns the CUM of one pool, the 12 in rotation, and acknowledges the last flit taken in. -/
def State.sendSide (s : State) (n : Nat) (flit : Option Nat) : State :=
  let l := s.link n
  ({ s with sentSides := s.sentSides ++ [{ link := n, flit := flit, pool := l.turn, cum := (l.pool l.turn).cum,
                                           ack := (l.rxSeq + 4095) % 4096 }] } : State).mapLink n (fun l =>
    { l with turn := (l.turn + 1) % 12, sending := l.sending || flit.isSome })

/-- A flit is two beats (14 R320). -/
def State.sendFlit (s : State) (n seq : Nat) : State := (s.sendSide n (some seq)).sendSide n (some seq)

/-- The flits that the replay buffer of an UP link holds behind its first k go out. -/
def State.sendFrom (s : State) (n k : Nat) : State :=
  if (s.link n).state == .up then ((s.link n).replay.drop k).foldl (fun s f => s.sendFlit n f.1) s else s

/-- A cycle passes: a link that is UP and has had no flit to send sends a control beat (assumption 112). -/
def State.controlBeats (s : State) : State :=
  s.links.foldl (fun s (x : Nat × Link) =>
    if x.2.state != .up then s
    else (if x.2.sending then s else s.sendSide x.1 none).mapLink x.1 (fun l => { l with sending := false })) s

/-- Flits join the replay buffer of a link, with the next numbers, and go out. -/
def State.queueFlits (s : State) (n : Nat) (ws : List (BitVec 512)) : State :=
  let k := (s.link n).replay.length
  (s.mapLink n (fun l =>
    { l with
      txSeq := (l.txSeq + ws.length) % 4096,
      replay := l.replay ++ (List.range ws.length).map (fun i =>
        ((l.txSeq + i) % 4096, mkFlit ((l.txSeq + i) % 4096) (ws.getD i 0))) })).sendFrom n k

/-- Puts a packet on a link: HOPS rises, GH is set by a global link, SENT and the replay buffer take its flits. -/
def State.crossLink (s : State) (n vc : Nat) (p : Packet) : State :=
  let p := { p with vc := vc, hops := p.hops + 1, gh := p.gh || decide (31 ≤ n) }
  let pool := poolNo vc (isResponse p.typ)
  let ws := pktHeader p :: payloadFlits p.data ((pktPayload p + 63) / 64)
  let s := s.mapLink n (fun l =>
    { l with pools := Sparse.set {} l.pools pool { l.pool pool with sent := (l.pool pool).sent + BitVec.ofNat 16 ws.length } })
  { s.queueFlits n ws with sentPackets := s.sentPackets ++ [p] }

/-- Moves a packet one link on, where a link can take it. `escape` sends it to the escape channel. -/
def State.moveOn (s : State) (p : Packet) (escape : Bool) : Option State :=
  match s.route? p.dst with
  | none => none
  | some r =>
    if p.vc < 4 && p.hops < 4 && !escape then
      let ls := s.adaptive r (poolNo p.hops (isResponse p.typ)) (pktFlits p)
      match ls[Config.freeNat s.fresh % ls.length]? with
      | some n => some (s.stir.crossLink n p.hops p)
      | none => none
    else
      match r.escape with
      | none => none
      | some n =>
        let vc := if p.gh then 5 else 4
        if s.admits n (poolNo vc (isResponse p.typ)) (pktFlits p) then some (s.crossLink n vc p) else none

/-- The buffers that held a packet of n flits are emptied: CUM counts them (14 R324). -/
def State.freeBuffer (s : State) (source : Option (Nat × Nat)) (n : Nat) : State :=
  match source with
  | none => s
  | some (link, pool) => s.mapLink link (fun l =>
      { l with pools := Sparse.set {} l.pools pool { l.pool pool with cum := (l.pool pool).cum + BitVec.ofNat 16 n } })

/-- Sends a waymark, or its echo, on a link (14 R334). The header has no field for the pool: OP names it, VC its channel (DESIGN CHOICE,
assumption 24). -/
def State.sendMark (s : State) (link pool typ : Nat) : State :=
  let p : Packet := { dst := (s.link link).peer, src := s.dev, vc := pool / 2, typ := typ, ctag := 0, txn := 0, len := 0, op := pool,
                      hops := 0, gh := false, addr := 0, low := 0, rsvd := 0, data := [] }
  { s.queueFlits link [pktHeader p] with sentPackets := s.sentPackets ++ [p] }

/-- A link of a reconfiguration is drained: every waymark of it has echoed, in both directions, and nothing that it has sent is
unacknowledged (14 R334 step 3, R335). -/
def Link.drained (l : Link) : Bool :=
  l.reconf && !l.settled && l.state == .up && l.waymarks.isEmpty && (List.range 12).all (fun q => l.echoed.contains q) && l.replay.isEmpty

/-- The link becomes DARK: FREED equals SENT; its sequence numbers begin anew at both ends, whichever module it meets next (14 R334 step 3;
assumption 102). -/
def Link.darken (l : Link) : Link :=
  { l with state := .dark, replay := [], partialPkt := none, txSeq := 0, rxSeq := 0, waymarks := [], echoes := [], echoed := [],
           pools := l.pools.map (fun (p : Nat × Pool) => (p.1, { p.2 with freed := p.2.sent })) }

/-- A link that is drained sends a last beat, which acknowledges what it took in, and becomes DARK. -/
def State.drainLink (s : State) (n : Nat) : State :=
  if (s.link n).drained then (s.sendSide n none).mapLink n Link.darken else s

/-- A waymark is echoed once the buffers of every flit ahead of it are empty (14 R334 step 3). -/
def State.echoDue (s : State) : State :=
  s.links.foldl (fun s (x : Nat × Link) =>
    (x.2.echoes.foldl (fun s pool =>
      if x.2.state != .up || s.transit.any (fun w => w.source == some (x.1, pool)) then s
      else (s.mapLink x.1 (fun l => { l with echoes := l.echoes.filter (fun q => q != pool), echoed := insertNat l.echoed pool })).sendMark x.1 pool 0x21)
      s).drainLink x.1) s

/-- Every packet that waits at this module and can move moves. -/
def State.pumpTransit (s : State) : State :=
  (s.transit.foldl (fun (s : State) w =>
    match s.moveOn w.pkt false with
    | some s' => s'.freeBuffer w.source (pktFlits w.pkt)
    | none => { s with transit := s.transit ++ [w] }) { s with transit := [] }).echoDue

/-- A packet is at this module and goes on, from the buffers of a link or from here. -/
def State.passOn (s : State) (p : Packet) (source : Option (Nat × Nat)) : State :=
  ({ s with transit := s.transit ++ [{ pkt := p, since := s.now, source := source }] } : State).pumpTransit

/-- A packet enters the fabric at this module. -/
def State.inject (s : State) (p : Packet) : State := s.passOn p none

/-! ### Requests to peers (14 R317, R319, R327, R336) -/

/-- The lowest TXN that this module still holds toward a device. -/
def State.lowTxn (s : State) (dev : Nat) : Nat :=
  match s.reqs.find? (fun r => r.pkt.dst == dev) with
  | some r => r.pkt.txn
  | none => Sparse.get 0 s.nextTxn dev

/-- The last line that a request names: a read, a write or a reduction of up to 256 bytes may name the next ones too. -/
def Req.lastLine (r : Req) : Nat :=
  (r.pkt.addr + (if r.pkt.typ ≤ 2 then r.pkt.len else if r.pkt.typ = 5 then r.pkt.len - 16 else 0)) / 128

/-- The first line that a request names. -/
def Req.firstLine (r : Req) : Nat := r.pkt.addr / 128

/-- Two requests are of one thread and name a common line of one peer (14 R319). The second-lock requests, commits and unlocks of transfers
are messages of a coordinator, which nothing holds back (11 R254), and reclaims those of a home. -/
def Req.sameLine (r q : Req) : Bool :=
  r.tid == q.tid && r.pkt.typ != 8 && q.pkt.typ != 8 && r.pkt.typ != 10 && q.pkt.typ != 10 && r.pkt.dst == q.pkt.dst &&
    decide (r.firstLine ≤ q.lastLine) && decide (q.firstLine ≤ r.lastLine)

/-- A request comes before another of its thread in program order: it is of an operation issued earlier, or an earlier one of the same
operation (14 R319). -/
def State.sooner (s : State) (q r : Req) : Bool :=
  decide (q.op < r.op) || (q.op == r.op && (s.reqs.takeWhile (fun x => x != r)).contains q)

/-- Space, place and size of the bytes that an operation names. -/
def Op.span (o : Op) : Option (Nat × Nat × Nat) :=
  match o.kind with
  | .load a _ _ => some (a.sp, a.loc, a.z)
  | .store a _ _ => some (a.sp, a.loc, a.z)
  | .atomic a _ _ _ _ _ => some (a.sp, a.loc, a.z)
  | .lch a => some (a.sp, a.loc, a.z)
  | _ => none

/-- The bytes that the request of an operation names: those of its span, or the first of the page that an append-seal instruction acts on. -/
def Op.requestSpan (o : Op) : Option (Nat × Nat × Nat) :=
  match o.kind with
  | .append a _ _ => some (0, a.pageLoc, 1)
  | .seal a => some (0, a.pageLoc, 1)
  | .free a => some (0, a.pageLoc, 1)
  | .aopen a _ => some (0, a.pageLoc, 1)
  | .status a _ => some (0, a.pageLoc, 1)
  | _ => o.span

/-- The device and the first and last line of the bytes of a peer that the request of an operation names. -/
def Op.peerLines (o : Op) : Option (Nat × Nat × Nat) :=
  match o.requestSpan with
  | some (0, loc, n) => (peerOf loc).map (fun d => (d, loc % Config.placeSpan / 128, (loc % Config.placeSpan + n - 1) / 128))
  | _ => none

/-- An operation has been served at its home or in its L1. A store that its L1 has taken is not: its bytes have still to go on. -/
def Op.servedThere (o : Op) : Bool :=
  match o.kind with
  | .store _ _ _ => false
  | _ => o.served

/-- An earlier access of a request's thread to a line that the request names has still to send its own request: a store behind an earlier one
to its bytes, an atomic whose batch has not arrived, a `strel` behind its release, an append that has still to be served (14 R319). -/
def State.stillToSend (s : State) (r : Req) : Bool :=
  r.tid != 0 && r.pkt.typ != 8 && s.ops.any (fun p => p.tid == r.tid && decide (p.id < r.op) && !p.arrived && !p.servedThere &&
    !s.reqs.any (fun q => q.op == p.id) &&
    (match p.peerLines with
     | some (d, lo, hi) => d == r.pkt.dst && decide (lo ≤ r.lastLine) && decide (r.firstLine ≤ hi)
     | none => false))

/-- A cycle passes for the requests that have been sent to peers that are Reachable (14 R327). -/
def State.countWaits (s : State) : State :=
  { s with reqs := s.reqs.map (fun r => if r.sends ≠ 0 ∧ s.peerView r.pkt.dst = 0 then { r with waited := r.waited + 1 } else r) }

/-- A request that has not been sent may go: its peer is Reachable, and every earlier access of its thread to a line that it names has
completed (14 R319). -/
def State.reqReady (s : State) (r : Req) : Bool :=
  r.sends == 0 && s.peerView r.pkt.dst == 0 && !s.reqs.any (fun q => q.sameLine r && s.sooner q r) && !s.stillToSend r

/-- Sends a request once more. -/
def State.sendReq (s : State) (r : Req) : State :=
  let p := { r.pkt with low := s.lowTxn r.pkt.dst }
  ({ s with reqs := s.reqs.map (fun q => if q = r then { q with sends := q.sends + 1, waited := 0 } else q) } : State).inject p

/-- Sends every request that may go. -/
def State.pumpReqs (s : State) : State :=
  s.reqs.foldl (fun s r => if s.reqReady r then s.sendReq r else s) s

/-- A request may leave a claim or a held line at its home: an atomic, a reduction or a drained line, an append-seal operation. -/
def leavesTrace (typ : Nat) : Bool := typ == 3 || typ == 4 || typ == 5 || typ == 6 || typ == 9

/-- Queues a request of an operation to a peer, and sends it if it may go. -/
def State.request (s : State) (o : Op) (dev addr typ op len : Nat) (data : List Byte) (pos : Nat) : State :=
  let txn := Sparse.get 0 s.nextTxn dev
  let p : Packet := { dst := dev, src := s.dev, vc := 0, typ := typ, ctag := (s.slot o.slot).ctag, txn := txn, len := len - 1,
                      op := op, hops := 0, gh := false, addr := addr, low := 0, rsvd := 0, data := data }
  let r : Req := { op := o.id, tid := o.tid, slot := o.slot, pkt := p, core := o.core, tslot := o.tslot, launch := o.launch, pos := pos }
  ({ s with nextTxn := Sparse.set 0 s.nextTxn dev ((txn + 1) % 2 ^ 16), reqs := s.reqs ++ [r],
            asks := if leavesTrace typ && !s.asks.contains (o.slot, dev) then s.asks ++ [(o.slot, dev)] else s.asks } : State).pumpReqs

/-- Sends the response to a request of a peer, and holds it for a request that comes again (14 R327). -/
def State.respond (s : State) (q : Packet) (typ op : Nat) (data : List Byte) : State :=
  let p : Packet := { dst := q.src, src := s.dev, vc := 0, typ := typ, ctag := q.ctag, txn := q.txn, len := data.length - 1,
                      op := op, hops := 0, gh := false, addr := q.addr, low := s.lowTxn q.src, rsvd := 0, data := data }
  ({ s with responses := s.responses ++ [p] } : State).inject p

/-- The address at the destination of a peer place. -/
def peerAddr (loc : Nat) : Nat := loc % Config.placeSpan

/-- The lines of n bytes from a place. -/
def linesFrom (loc n : Nat) : List Nat := (List.range ((loc % 128 + n + 127) / 128)).map (fun i => lineOf loc + i)

/-- A die's remote partition gives up its copies of the peer lines that a write is sent to. -/
def State.dropCopies (s : State) (die loc n : Nat) : State := (linesFrom loc n).foldl (fun s l => s.setRemote die l {}) s

/-- Bytes are sent to a peer's home: the die keeps no copy of their lines, and lines that the issuing core's L1 holds take the bytes
(10 R225). -/
def State.peerStored (s : State) (core loc : Nat) (bs : List Byte) : State :=
  (List.range bs.length).foldl (fun s i => s.l1Store core (loc + i) [bs.getD i 0]) (s.dropCopies (dieOf core) loc bs.length)

/-- Operands of a reduction are sent to a peer's home: neither the die nor the issuing core's L1 keeps a copy of their lines
(09 R204). -/
def State.peerReduced (s : State) (core loc n : Nat) : State :=
  (linesFrom loc n).foldl (fun s l => s.l1Give core (l * 128)) (s.dropCopies (dieOf core) loc n)

/-- A request writes at the peer: a fill of its line may be older than what it writes. -/
def Req.writes (r : Req) : Bool := 2 ≤ r.pkt.typ && r.pkt.typ ≤ 6

/-- A write to one of the lines that a read of a peer names has not been answered. -/
def State.overtaken (s : State) (r : Req) : Bool :=
  s.reqs.any (fun q => q.writes && q.pkt.dst == r.pkt.dst && decide (q.pkt.addr / 128 ≤ (r.pkt.addr + r.pkt.len) / 128) &&
    decide (r.pkt.addr / 128 ≤ (q.pkt.addr + q.pkt.len) / 128))

/-- The loads in flight of lines that an answered write names install nothing: what they bring may be older. -/
def State.spoilFills (s : State) (r : Req) : State :=
  if !r.writes then s
  else
    let lines := linesFrom (peerPlace r.pkt.dst r.pkt.addr) (r.pkt.len + 1)
    s.mapFills (fun o => match o.kind with
      | .load a _ _ => a.sp == 0 && lines.contains (lineOf a.loc)
      | _ => false) (fun a => { a with pc := false })

/-- An operation still has a request that its peer has not answered. -/
def State.awaits (s : State) (op : Nat) : Bool := s.reqs.any (fun r => r.op == op)

end Sys2Proof.Machine
end

