-- ==== Sys2Proof/Machine/Weaver.lean ====
section
/-!
DEFINITION. The Weaver (04): how a strand issues one word for its threads, with the order of checks of 03 R77, split
points, faults and block ends; how a decoder forms a strand; the overflow queue and spilling.
-/
namespace Sys2Proof.Machine

/-- The outcome of a step. -/
abbrev Out := Host.Outcome State Fault Refusal

/-! ### The strand that issues -/

/-- The strand of a name. -/
def State.strand? (s : State) (sid : Nat) : Option Strand := s.strands.find? (fun x => x.sid == sid)

/-- The word that a strand issues next, in its context. -/
structure Ctx where
  st : Strand
  word : Word
  /-- the address of the word -/
  pc : Pair
  /-- the address of the first word of its hint run, or of the word -/
  runPc : Pair
  /-- it is the last word of its block -/
  last : Bool
  /-- a name for the batch that the word's operations form (09 R205, 12 R267) -/
  batch : Nat
  deriving DecidableEq, Repr

/-- The hints of the run. -/
def Ctx.hints (c : Ctx) : Hints := c.st.hints

/-- The address after the word. -/
def Ctx.next (c : Ctx) : Pair := c.pc + 4

/-- The core that issues. -/
def Ctx.core (c : Ctx) : Nat := c.st.core

/-- The context of a strand's next word. -/
def ctxOf (s : State) (st : Strand) : Ctx :=
  let pc := st.blk.head + 4 + BitVec.ofNat 64 (4 * st.pos)
  { st := st, word := st.words.getD st.pos 0, pc := pc, runPc := pc - BitVec.ofNat 64 (4 * st.runLen),
    last := st.pos + 1 == st.words.length, batch := s.nextId }

/-- The fault site of the word: the record names the run's first word and the target's word (03 R72). -/
def Ctx.site (c : Ctx) : Site :=
  { runPc := c.runPc, wordPc := c.pc, word := c.word, after := c.next, blk := c.st.blk }

/-! ### What a word does to a thread -/

/-- Why a thread does not act on a word: a fault, or a split point that resumes at the first word of the run. -/
inductive Stop where
  | fault (f : FaultInfo)
  | leave (w : Wait)
  deriving DecidableEq, Repr

/-- Where a thread stands after it acted. -/
inductive After where
  /-- it goes on in the strand, or falls through at the block's end -/
  | go
  /-- it enters the block at a checked target -/
  | jump (pc : Pair) (b : Block)
  /-- a split point that resumes at the word after -/
  | split (w : Wait)
  /-- a fault; what the entry names stays done -/
  | fault (f : FaultInfo)
  /-- the thread ends (04 R110) -/
  | exit
  /-- the thread already stands where it goes on -/
  | moved
  deriving DecidableEq, Repr

/-- The meaning of a word: the registers it names and reads, what its hints make illegal, the checks each thread makes
before it acts, a check that a whole group makes, and the action on the threads that act, in ascending lane order. -/
structure Meaning (α : Type) where
  shape : Hints → Shape := fun _ => {}
  illegal : Hints → Bool := fun _ => false
  /-- stands only in gathered blocks (05 R133, 13 R292) -/
  lane : Bool := false
  /-- a terminator (03 R66) -/
  term : Bool := false
  /-- needs an hx hint (03 R70) -/
  hx : Bool := false
  pre : State → Ctx → Thread → State × Except Stop α
  group : State → Ctx → List Thread → State × Option Wait := fun s _ _ => (s, none)
  act : State → Ctx → List (Nat × α) → State × List (Nat × After)

/-- An action made for each thread by itself, in ascending lane order, on the thread as it then stands. -/
def eachThread {α : Type} (f : State → Ctx → Thread → α → State × After) (s : State) (c : Ctx) (ts : List (Nat × α)) :
    State × List (Nat × After) :=
  match ts with
  | [] => (s, [])
  | (tid, x) :: rest =>
    match s.thread? tid with
    | none => eachThread f s c rest
    | some t =>
      let r := f s c t x
      let q := eachThread f r.1 c rest
      (q.1, (tid, r.2) :: q.2)

/-- No check of its own. -/
def noCheck (s : State) (_ : Ctx) (_ : Thread) : State × Except Stop Unit := (s, .ok ())

/-! ### The order of checks (03 R77) -/

/-- The first register at or beyond the budget, in the order given. -/
def beyond (t : Thread) (rs : List Reg) : Option Reg := rs.find? (fun r => t.budget ≤ r.toNat)

/-- The operation that holds a register of a thread pending (07 R169). -/
def State.pendingOn (s : State) (tid : Nat) (rs : List Reg) : Option Nat :=
  (s.ops.find? (fun o => o.tid == tid && o.dsts.any (fun r => rs.contains r))).map (fun o => o.id)

/-- A privilege level allows another (16 R356). -/
def Level.allows (have' need : Level) : Bool :=
  match have', need with
  | .hypervisor, _ => true
  | .supervisor, .hypervisor => false
  | .supervisor, _ => true
  | .user, .user => true
  | .user, _ => false

/-- Steps 3 to 6 of R77 with the pending test of R169 between steps 5 and 6, for one thread. -/
def commonStop (s : State) (illegal : Bool) (sh : Shape) (t : Thread) : Option Stop :=
  if illegal then some (.fault { code := 0x0101 })
  else if !t.level.allows sh.level then some (.fault { code := 0x0B01 })
  else
    match beyond t sh.named with
    | some r => some (.fault { code := 0x0203, aux := r.setWidth 32 })
    | none =>
      match sh.past with
      | some r => some (.fault { code := 0x0203, aux := BitVec.ofNat 32 r })
      | none =>
        match s.pendingOn t.tid sh.named with
        | some id => some (.leave (.op id))
        | none =>
          if !(sh.reads.all t.operandOk) then some (.fault { code := 0x0301 })
          else if sh.reads.any t.needsField && (s.fieldFrac t).isNone then
            some (.fault { code := 0x0603, aux := if 256 ≤ t.field then 0 else 1 })
          else none

/-- The encoding checks that the word's place and hints decide (step 3 of R77). -/
def Meaning.misplaced {α : Type} (m : Meaning α) (c : Ctx) : Bool :=
  (m.hx && c.hints.hx.isNone) || m.illegal c.hints || (m.lane && !c.st.blk.gath) || (m.term && !c.last)

/-- Every check of one thread before it acts. -/
def Meaning.check {α : Type} (m : Meaning α) (s : State) (c : Ctx) (t : Thread) : State × Except Stop α :=
  match commonStop s (m.misplaced c) (m.shape c.hints) t with
  | some x => (s, .error x)
  | none => m.pre s c t

/-! ### Leaving a strand -/

/-- A thread that leaves its strand: how, from which place, and the fall-through checks' outcome. -/
inductive Exit where
  | place (pc : Pair) (b : Block) (w : Wait)
  | fault (f : FaultInfo) (site : Site)
  | exit
  | moved
  deriving DecidableEq, Repr

/-- The PC at which a leaving thread takes an entry, for the order of 04 R85. -/
def State.exitPc (s : State) (tid : Nat) (e : Exit) : Nat :=
  match e with
  | .place pc _ _ => pc.toNat
  | .fault f _ =>
    match s.thread? tid with
    | none => 0
    | some t =>
      match s.emulOf t f with
      | some a => a.toNat
      | none =>
        match s.handlerOf t f with
        | some a => a.toNat
        | none => 0
  | _ => 0

/-- The slot index of a thread. -/
def State.slotIndex (s : State) (tid : Nat) : Nat :=
  match s.thread? tid with
  | some t => t.slot
  | none => 0

/-- The place in the order of 04 R85: ascending PC, then ascending slot index. -/
def State.exitBefore (s : State) (x y : Nat × Exit) : Bool :=
  let px := s.exitPc x.1 x.2
  let py := s.exitPc y.1 y.2
  decide (px < py) || (px == py && decide (s.slotIndex x.1 ≤ s.slotIndex y.1))

/-- Inserts a leaving thread in order. -/
def State.insertExit (s : State) (x : Nat × Exit) (l : List (Nat × Exit)) : List (Nat × Exit) :=
  match l with
  | [] => [x]
  | y :: r => if s.exitBefore x y then x :: y :: r else y :: State.insertExit s x r

/-- A thread ends: its registers, tags and call stack cease to exist (04 R110). -/
def State.exitThread (s : State) (tid : Nat) : State :=
  s.mapThread tid (fun t => { t with state := .exited, regs := [], depth := 0, cycLatch := 0, cycLoaded := false, held := [] })

/-- The id of the walk that a wait names. -/
def Wait.walkId (w : Wait) : Option Nat :=
  match w with
  | .walk id => Option.some id
  | _ => Option.none

/-- A remote error found at issue ends the thread's context; no handler runs (14 R328, 04 R113). -/
def State.remoteFault (s : State) (tid : Nat) (f : FaultInfo) : State :=
  match s.thread? tid with
  | none => s
  | some t => s.remoteError (s.slotOf t) t.core t.slot (s.handleOf t) f.addr f.aux

/-- A thread whose word acts or faults: what it had begun is done. -/
def Thread.acted (t : Thread) : Thread := { t with begun := none, descr := [], checked := 0, pages := [] }

/-- One leaving thread goes where it goes. -/
def State.leaveOne (s : State) (x : Nat × Exit) : State :=
  match x.2 with
  | .place pc b w =>
    let s := match w.walkId with
      | some id => s.mapThread x.1 (fun t => { t with begun := some id })
      | none => s
    s.enterAt x.1 pc b w
  | .fault f site =>
    if f.code = 0x0901 then s.remoteFault x.1 f
    else (s.mapThread x.1 Thread.acted).takeFault x.1 f site
  | .exit => s.exitThread x.1
  | .moved => s

/-- The leaving threads of one word, in ascending order of PC and slot (04 R85). -/
def State.leaveAll (s : State) (l : List (Nat × Exit)) : State :=
  (l.foldl (fun acc x => s.insertExit x acc) []).foldl State.leaveOne s

/-- A fall-through to an address: the checks of R109 with the fall-through record (03 R66, 04 R109). A thread whose checks wait for a walk
waits at that address, in an entry of the block that stands there (04 R85, R87). -/
def State.fallThrough (s : State) (t : Thread) (a : Pair) (b : Block) : State × Exit :=
  match s.goChecks t a with
  | (s, .head h) => (s, .place a (blockOf a h) .none)
  | (s, .fault f) => (s, .fault { f with addr := a } { runPc := a, wordPc := a, word := 0, after := a, blk := b })
  | (s, .wait wid) => (s, .place a ((s.blockAtHead t a).getD (openBlock a)) (.walk wid))

/-! ### Issuing a word -/

/-- The members of a strand split into groups, in lane order. -/
def State.groupsOf (s : State) (ts : List Thread) : List (List Thread) :=
  match ts with
  | [] => []
  | t :: rest =>
    match State.groupsOf s rest with
    | [] => [[t]]
    | g :: gs =>
      match g with
      | [] => [t] :: gs
      | u :: _ => if s.sameGroup t u then (t :: g) :: gs else [t] :: g :: gs

/-- The parties that act together: whole groups in a gathered block, single threads otherwise (04 R97). -/
def State.parties (s : State) (c : Ctx) (ts : List Thread) : List (List Thread) :=
  if c.st.blk.gath then s.groupsOf ts else ts.map (fun t => [t])

/-- Every check of a party, in ascending lane order. -/
def Meaning.checkAll {α : Type} (m : Meaning α) (s : State) (c : Ctx) (ts : List Thread) :
    State × List (Nat × Except Stop α) :=
  match ts with
  | [] => (s, [])
  | t :: rest =>
    let r := m.check s c t
    let q := Meaning.checkAll m r.1 c rest
    (q.1, (t.tid, r.2) :: q.2)

/-- The threads of a party that may act, with what their checks found. -/
def passed {α : Type} (l : List (Nat × Except Stop α)) : List (Nat × α) :=
  l.filterMap (fun p => match p.2 with
    | .ok x => some (p.1, x)
    | .error _ => none)

/-- The waits of a party's threads that stop before they act. -/
def stops {α : Type} (l : List (Nat × Except Stop α)) : List (Nat × Wait) :=
  l.filterMap (fun p => match p.2 with
    | .error (.leave w) => some (p.1, w)
    | _ => none)

/-- The faults of a party's threads. -/
def faults {α : Type} (l : List (Nat × Except Stop α)) : List (Nat × FaultInfo) :=
  l.filterMap (fun p => match p.2 with
    | .error (.fault f) => some (p.1, f)
    | _ => none)

/-- The words of threads have acted. -/
def State.endBegun (s : State) (ts : List Nat) : State :=
  { s with threads := s.threads.map (fun t => if ts.contains t.tid then t.acted else t) }

/-- A party issues a word. A stop before the action stops the whole of a gathered group before any of its threads acts
(04 R97). A wait other than the thread's own is `none`: such a thread is ready at once. -/
def Meaning.party {α : Type} (m : Meaning α) (s : State) (c : Ctx) (ts : List Thread) : State × List (Nat × After) × List (Nat × Exit) :=
  let r := m.checkAll s c ts
  let waits := stops r.2
  let g := if waits.isEmpty then m.group r.1 c (ts.filter (fun t => (passed r.2).any (fun p => p.1 == t.tid))) else (r.1, none)
  if !waits.isEmpty then
    (r.1, [], ts.map (fun t =>
      (t.tid, Exit.place c.runPc c.st.blk
        (match waits.find? (fun p => p.1 == t.tid) with
         | some p => p.2
         | none => .none))))
  else
    match g.2 with
    | some w => (g.1, [], ts.map (fun t => (t.tid, Exit.place c.runPc c.st.blk w)))
    | none =>
      let q := m.act (g.1.endBegun ((passed r.2).map (fun p => p.1))) c (passed r.2)
      (q.1, q.2, (faults r.2).map (fun p => (p.1, Exit.fault p.2 c.site)))

/-- Every party of a strand issues the word. -/
def Meaning.parties {α : Type} (m : Meaning α) (s : State) (c : Ctx) (ps : List (List Thread)) :
    State × List (Nat × After) × List (Nat × Exit) :=
  match ps with
  | [] => (s, [], [])
  | p :: rest =>
    let now := p.filterMap (fun t => s.thread? t.tid)
    let r := m.party s c now
    let q := Meaning.parties m r.1 c rest
    (q.1, r.2.1 ++ q.2.1, r.2.2 ++ q.2.2)

/-- What becomes of a thread that acted, if it leaves the strand. In a gathered block a split after the action takes the
whole group to the word after (04 R97). -/
def State.exitOf (s : State) (c : Ctx) (x : Nat × After) : Option (Nat × Exit) :=
  match x.2 with
  | .go => none
  | .jump pc b => some (x.1, .place pc b .none)
  | .split w => some (x.1, .place c.next (s.landing x.1 c.next c.st.blk) w)
  | .fault f => some (x.1, .fault f c.site)
  | .exit => some (x.1, .exit)
  | .moved => some (x.1, .moved)

/-- A thread that split at a barrier whose instance a later arrival of its own group has completed: it does not stop (04 R97). -/
def State.released (s : State) (x : Nat × After) : Nat × After :=
  match x.2 with
  | .split (.barrier i n) =>
    match s.thread? x.1 with
    | some t => if s.holds t (.barrier i n) then (x.1, .go) else x
    | none => x
  | _ => x

/-- In a gathered block the threads of a strand whose group has a thread that still splits at the word after, and that would
themselves go on, leave with it; a group whose own last arrival completed the instance stays (04 R97). -/
def State.drawnOut (s : State) (c : Ctx) (l : List (Nat × After)) : List (Nat × After) :=
  if !c.st.blk.gath then l
  else
    let l := l.map s.released
    l.map (fun x =>
      match x.2 with
      | .go =>
        if l.any (fun y => (match y.2 with | .split _ => true | _ => false) &&
            (match s.thread? x.1, s.thread? y.1 with | some t, some u => s.sameGroup t u | _, _ => false))
        then (x.1, .split .none) else x
      | _ => x)

/-- The fall-through of every thread that is still in the strand at the block's end (04 R94). -/
def State.fallAll (s : State) (c : Ctx) (ts : List Nat) : State × List (Nat × Exit) :=
  match ts with
  | [] => (s, [])
  | tid :: rest =>
    match s.thread? tid with
    | none => State.fallAll s c rest
    | some t =>
      let r := s.fallThrough t c.next c.st.blk
      let q := State.fallAll r.1 c rest
      (q.1, (tid, r.2) :: q.2)

/-- The cycles after which the next word of a strand has the result of a word, beyond one (06 R161). -/
def resultCycles (w : Word) : Nat :=
  let op := w.toNat / 2 ^ 26
  let fn := w.toNat % 32
  match op with
  | 0x18 => if 14 ≤ fn && fn ≤ 19 then 3 else 0
  | 0x19 => if fn ≤ 8 then 3 else 15
  | 0x1C => if fn = 5 then 1 else 0
  | _ => 0

/-- Writes a strand back, or drops it when no thread is left (04 R93). -/
def State.setStrand (s : State) (st : Strand) : State :=
  if st.members.isEmpty then { s with strands := s.strands.filter (fun x => x.sid != st.sid) }
  else { s with strands := s.strands.map (fun x => if x.sid = st.sid then st else x) }

/-- After the word: threads that leave take their places, and the strand goes on with the others or ends (04 R93, R94). -/
def State.finishWord (s : State) (c : Ctx) (afters : List (Nat × After)) (exits : List (Nat × Exit)) : State :=
  let afters := s.drawnOut c afters
  let stay := (afters.filter (fun x => x.2 == .go && (s.thread? x.1).isSome)).map (fun x => x.1)
  let leaving := exits ++ afters.filterMap (s.exitOf c)
  if c.last then
    let r := s.fallAll c stay
    (r.1.setStrand { c.st with members := [] }).leaveAll (leaving ++ r.2)
  else
    (s.setStrand { c.st with pos := c.st.pos + 1, members := stay, hints := {}, runLen := 0, lost := 0,
                             busyTo := s.coreClock c.core + 1 + resultCycles c.word }).leaveAll leaving

/-- An acquire that a thread owes is performed when it next issues (10 R220, 15 R343). -/
def State.payOwed (s : State) (t : Thread) : State :=
  match t.owes with
  | none => s
  | some n =>
    ((s.acquireDiscard t.core (s.scopeLevel (s.slotOf t) t.core n)).codeIn (s.slotOf t) t.core n).mapThread t.tid (fun t =>
      { t with owes := none })

/-- A thread that owes an acquire waits for its earlier loads first (09 R199). -/
def State.owesWait (s : State) (tid : Nat) : Bool :=
  match s.thread? tid with
  | none => false
  | some t => t.owes.isSome && t.held.isEmpty && !s.holds t .loads

/-- The members of a strand that wait for loads before an acquire they owe; in a gathered block their groups with them. -/
def State.owing (s : State) (st : Strand) : List Nat :=
  let ws := st.members.filter s.owesWait
  if !st.blk.gath then ws
  else st.members.filter (fun m => ws.any (fun w => match s.thread? m, s.thread? w with
    | some t, some u => s.sameGroup t u
    | _, _ => false))

/-- The units of a strand's members have issued a word: another stall record may follow (10 R234). -/
def State.noteIssue (s : State) (st : Strand) : State :=
  { s with units := s.units.map (fun u =>
      if st.members.any (fun m => match s.thread? m with | some t => t.unit == u.uid | none => false)
      then { u with stallSent := false, stallSince := none } else u) }

/-- Before the first word of a run: held faults park their threads (04 R116), and owed acquires are performed. -/
def State.beforeRun (s : State) (st : Strand) : State × List Nat :=
  let s := s.noteIssue st
  if st.runLen ≠ 0 then (s, st.members)
  else
    let pc := (ctxOf s st).pc
    let wait := s.owing st
    st.members.foldl (fun acc tid =>
      match acc.1.thread? tid with
      | none => acc
      | some t =>
        if !t.held.isEmpty then (acc.1.takeHeld t pc st.blk, acc.2)
        else if wait.contains tid then (acc.1.enterAt tid pc st.blk (if acc.1.owesWait tid then .loads else .none), acc.2)
        else (acc.1.payOwed t, acc.2 ++ [tid])) (s, [])

/-- The issue of one word that is no hint, for every thread of the issuing strand. -/
def issue {α : Type} (m : Meaning α) (s : State) : State :=
  match s.strand? s.issuing with
  | none => s
  | some st =>
    let b := s.beforeRun st
    let st := { st with members := b.2 }
    let s := b.1.setStrand st
    let c := ctxOf s st
    let ts := b.2.filterMap s.thread?
    let r := m.parties s.bump c (s.parties c ts)
    r.1.finishWord c r.2.1 r.2.2

/-- A word that acts on each thread's registers alone. `f` has the hints of the run, the fraction width of the thread's
current field and the thread. -/
def regWord (shape : Hints → Shape) (illegal : Hints → Bool) (hx : Bool) (f : Hints → Nat → Thread → Thread) (s : State) : State :=
  issue ({ shape := shape, illegal := illegal, hx := hx, pre := noCheck,
           act := eachThread (fun s c t _ => (s.setThread (f c.hints ((s.fieldFrac t).getD 0) t), .go)) }) s

/-! ### Hints (03 R68 to R72) -/

/-- The kind of a hint word. -/
inductive HintKind where
  | hk | hx | hs | hq
  deriving DecidableEq, Repr

/-- The target accepts a hint kind (03 R70), judged by its major and function code. -/
def hintAccepts (k : HintKind) (w : Word) : Bool :=
  let op := w.toNat / 2 ^ 26
  let fn := w.toNat % 32
  match k with
  | .hk => [0x08, 0x09, 0x10, 0x11, 0x12, 0x13, 0x16, 0x17, 0x20, 0x21, 0x22, 0x23, 0x24, 0x25, 0x26].contains op
  | .hx =>
    (op == 0x0A && fn == 1) || (op == 0x0C && fn == 19) || (op == 0x0D && (fn == 12 || (17 ≤ fn && fn ≤ 19))) ||
      ((op == 0x2B || op == 0x2C) && fn == 0) || (op == 0x2D && fn == 1) || (op == 0x33 && fn ≤ 2) ||
      (op == 0x32 && 1 ≤ fn && fn ≤ 6) || (op == 0x1C && fn == 5)
  | .hs => [0x20, 0x21, 0x22, 0x23, 0x24, 0x25, 0x26, 0x29, 0x2A, 0x2B, 0x2C].contains op || (op == 0x2D && fn ≤ 3)
  | .hq => (0x18 ≤ op && op ≤ 0x1C) || op == 0x20 || op == 0x22 || op == 0x25

/-- Zero payload bits and zero fields of a hint that its target decides (03 R71 step 3). -/
def hintFits (h : Hints) (w : Word) : Bool :=
  let op := w.toNat / 2 ^ 26
  let fn := w.toNat % 32
  (match h.hk with
   | none => true
   | some p => if op == 0x09 then p.toNat / 2 ^ 13 == 0 else if 0x20 ≤ op then true else p.toNat / 2 ^ 20 == 0) &&
  (match h.hx with
   | none => true
   | some (m, _) => if op == 0x33 && fn == 2 then m.toNat / 16 == 0 else m == 0) &&
  (match h.hs with
   | none => true
   | some (_, n) => n == 0 || (0x25 ≤ op && op ≤ 0x2C)) &&
  (match h.hq with
   | none => true
   | some (_, _, x, r) => (0x18 ≤ op && op ≤ 0x1C) || (x == 0 && r == 0))

/-- The target of the run that the word at a position belongs to, with its position. -/
def runTarget (ws : List Word) (pos : Nat) : Option (Nat × Word) :=
  match ws.drop pos with
  | [] => none
  | rest =>
    let k := (rest.takeWhile (fun w => w.toNat / 2 ^ 26 == 0x01)).length
    (rest[k]?).map (fun w => (pos + k, w))

/-- The hint's checks at its issue, in the order of R71: the fault's code. -/
def hintFault (st : Strand) (k : HintKind) (repeated : Bool) (alone : Hints) : Option Nat :=
  if repeated then some 0x0101
  else
    match runTarget st.words st.pos with
    | none => if st.pos + 1 == st.words.length then some 0x0102 else none
    | some (_, w) => if !hintAccepts k w then some 0x0102 else if !hintFits alone w then some 0x0101 else none

/-- The site of a fault that a hint raises (03 R72). -/
def hintSite (c : Ctx) : Site :=
  { c.site with after := match runTarget c.st.words c.st.pos with
      | some (j, _) => c.st.blk.head + 8 + BitVec.ofNat 64 (4 * j)
      | none => c.next }

/-- The issue of a hint word: it changes how the target is decoded, or every thread takes its fault (03 R71, R72). -/
def issueHint (s : State) (k : HintKind) (alone : Hints) (repeated : Hints → Bool) (add : Hints → Hints) : State :=
  match s.strand? s.issuing with
  | none => s
  | some st =>
    let b := s.beforeRun st
    let st := { st with members := b.2 }
    let s := b.1.setStrand st
    let c := ctxOf s st
    match hintFault st k (repeated st.hints) alone with
    | some code =>
      (s.setStrand { st with members := [] }).leaveAll (st.members.map (fun m => (m, Exit.fault { code := code } (hintSite c))))
    | none => s.setStrand { st with pos := st.pos + 1, hints := add st.hints, runLen := st.runLen + 1, lost := 0 }

/-! ### Forming strands (04 R90 to R104) -/

/-- The threads of an entry that a strand formed now might take: READY, and not of a unit that is being saved. -/
def State.readyAt (s : State) (core : Nat) (e : Entry) : List Thread :=
  (s.waiters core e).filter (fun t => t.isReady && !(match s.unitOf t with | some u => u.stopped || u.halted | none => true))

/-- The thread of a list with the least slot row in a lane. -/
def lowestRow (ts : List Thread) (lane : Nat) : Option Thread :=
  (ts.filter (fun t => t.lane == lane)).foldl (fun acc t =>
    match acc with
    | none => some t
    | some u => if t.row < u.row then some t else some u) none

/-- The lanes of a thread's group span. -/
def State.spanOf (s : State) (t : Thread) : Nat × Nat :=
  match s.unitOf t with
  | none => (t.lane, 1)
  | some u => (t.lane / u.gw * u.gw, u.gw)

/-- The ready threads of the complete groups at a gathered entry, of which no live thread stands in a closed lane (04 R92, R96). -/
def State.wholeAt (s : State) (core : Nat) (e : Entry) (closed : List Nat) : List Thread :=
  (s.readyAt core e).filter (fun t => s.groupComplete core e t &&
    !(s.threads.any (fun u => s.sameGroup t u && u.live && closed.contains u.lane)))

/-- The threads that an entry offers with some lanes closed, in lane order (04 R91, R96). -/
def State.offers (s : State) (core : Nat) (e : Entry) (closed : List Nat) : List Thread :=
  let ready := s.readyAt core e
  if e.blk.gath then
    let whole := s.wholeAt core e closed
    (List.range Config.lanes).filterMap (fun l =>
      -- the lowest slot row of a complete group in the span decides for every lane of the span
      match whole.filter (fun t => (s.spanOf t).1 ≤ l && l < (s.spanOf t).1 + (s.spanOf t).2) with
      | [] => none
      | t :: rest =>
        let row := rest.foldl (fun r u => Nat.min r u.row) t.row
        whole.find? (fun u => u.lane == l && u.row == row))
  else
    (List.range Config.lanes).filterMap (fun l => if closed.contains l then none else lowestRow ready l)

/-- The ready count by which an entry is chosen: the threads that it offers in open lanes, or the threads of all complete groups at
a gathered entry (04 R96, R99; assumption 94). -/
def State.readyCount (s : State) (core : Nat) (e : Entry) (closed : List Nat) : Nat :=
  if e.blk.gath then (s.wholeAt core e closed).length else (s.offers core e closed).length

/-- AGE: cycles since the oldest thread now ready at an entry became ready, at most 131,071 (04 R84, R100). -/
def State.age (s : State) (core : Nat) (e : Entry) : Nat :=
  (s.waiters core e).foldl (fun a t =>
    match t.state with
    | .ready since => Nat.max a (Nat.min 131071 (s.coreClock core - since))
    | _ => a) 0

/-- The first best of a list by a measure: the greatest, ties to the earliest. -/
def bestBy {α : Type} (f : α → Nat) (l : List α) : Option α :=
  l.foldl (fun acc x =>
    match acc with
    | none => some x
    | some y => if f y < f x then some x else some y) none

/-- The rank of an entry: its PC, then its index (04 R103, R104). -/
def rankLt (x y : Nat × Nat) : Bool := decide (x.1 < y.1) || (x.1 == y.1 && decide (x.2 < y.2))

/-- The first entry of a list in rank order. -/
def firstRank (l : List (Nat × Entry)) : Option (Nat × Entry) :=
  l.foldl (fun acc x =>
    match acc with
    | none => some x
    | some y => if rankLt (x.2.pc.toNat, x.1) (y.2.pc.toNat, y.1) then some x else some y) none

/-- The policy of a core's units: 0 normal, 1 P clear, 2 D set (04 R105). -/
def State.policy (s : State) (core : Nat) : Nat :=
  match s.threads.find? (fun t => t.core == core) with
  | none => 0
  | some t => if t.modeD then 2 else if t.modeP then 0 else 1

/-- The entry from which a decoder forms its strand (04 R99, R103, R104). -/
def State.choose (s : State) (core dec : Nat) (closed : List Nat) : Option (Nat × Entry) :=
  let c := s.core core
  let offering := c.table.filter (fun p => !(s.offers core p.2 closed).isEmpty)
  match s.policy core with
  | 0 =>
    match bestBy (fun p => s.age core p.2) (offering.filter (fun p => decide (c.fair < s.age core p.2))) with
    | some p => some p
    | none => bestBy (fun p => s.readyCount core p.2 closed) offering
  | 1 =>
    match firstRank (c.table.filter (fun p => !(s.waiters core p.2).isEmpty)) with
    | none => none
    | some p =>
      -- in one cycle both decoders may form from one entry alone
      if (s.offers core p.2 closed).isEmpty || (dec = 1 && c.formedAt == some (s.coreClock core) && c.last0 != some (p.2.pc.toNat, p.1)) then none
      else some p
  | _ =>
    let last := if dec = 0 then c.last0 else c.last1
    let above := match last with
      | none => offering
      | some r => offering.filter (fun p => rankLt r (p.2.pc.toNat, p.1))
    match firstRank above with
    | some p => some p
    | none => firstRank offering

/-- Lanes closed to decoder 1 by the strand that decoder 0 formed in this cycle (04 R92). -/
def State.closedLanes (s : State) (core dec : Nat) : List Nat :=
  if dec = 1 && (s.core core).formedAt == some (s.coreClock core) then (s.core core).formedLanes else []

/-- A decoder may form a strand in this cycle: one per cycle, decoder 0 first, and a context free (04 R90, R92). -/
def State.mayForm (s : State) (core dec : Nat) : Bool :=
  decide ((s.strands.filter (fun x => x.core == core && x.dec == dec)).length < Config.strandContexts) &&
    (s.core core).formedAt1 != some (s.coreClock core) && (dec != 0 || (s.core core).formedAt != some (s.coreClock core))

/-- Threads taken into a strand become ISSUED. -/
def State.takeThreads (s : State) (ts : List Thread) : State :=
  { s with threads := s.threads.map (fun t => if ts.any (fun u => u.tid == t.tid) then { t with state := .issued } else t) }

/-- Records that a decoder formed a strand from an entry. -/
def State.noteFormed (s : State) (core dec idx : Nat) (e : Entry) (lanes : List Nat) : State :=
  s.mapCore core (fun c =>
    let c := { c with table := c.table.map (fun (p : Nat × Entry) =>
      if p.1 = idx then (p.1, { p.2 with formed := p.2.formed + 1 }) else p) }
    if dec = 0 then { c with last0 := some (e.pc.toNat, idx), formedAt := some (s.coreClock core), formedLanes := lanes }
    else { c with last1 := some (e.pc.toNat, idx), formedAt1 := some (s.coreClock core) })

/-- The head that a fall-through found stands in the entry too, with the threads that still wait there (04 R85). -/
def State.settleEntry (s : State) (core : Nat) (e : Entry) (b : Block) : State :=
  let t := s.mapCore core (fun c => { c with table := c.table.map (fun (p : Nat × Entry) =>
    if p.2.num = e.num then (p.1, { p.2 with resume := false, blk := b }) else p) })
  { t with threads := t.threads.map (fun u => if (s.waiters core e).any (fun v => v.tid == u.tid) then { u with blk := b } else u) }

/-- Every taken thread falls through from its resume point: to the block at that address, or to the fault of 03 R66. -/
def State.fallFrom (s : State) (core : Nat) (ts : List Thread) (e : Entry) : State :=
  let r := ts.foldl (fun acc t =>
    let q := acc.1.fallThrough t e.pc e.blk
    (q.1, acc.2 ++ [(t.tid, q.2)])) (s, ([] : List (Nat × Exit)))
  let s := match r.2.find? (fun x => match x.2 with | .place _ b _ => b.head == e.pc && b.len != 0 | _ => false) with
    | some (_, .place _ b _) => r.1.settleEntry core e b
    | _ => r.1
  s.leaveAll r.2

/-- The block of an entry as the core fetches it when the strand starts: a head is read again (03 R81). -/
def State.blockAt (s : State) (t : Thread) (e : Entry) : State × Except Exit Block :=
  if e.resume then (s, .ok e.blk)
  else
    match s.goChecks t e.pc with
    | (s, .head h) => (s, .ok (blockOf e.pc h))
    | (s, .fault f) =>
      (s, .error (.fault { f with addr := e.pc } { runPc := e.pc, wordPc := e.pc, word := 0, after := e.pc, blk := e.blk }))
    | (s, .wait wid) => (s, .error (.place e.pc e.blk (.walk wid)))

/-- A fetch that the TLBs or the page do not serve: the threads wait for the walk, or take the fault of the page. -/
def State.fetchStop (s : State) (t : Thread) (a : Pair) (e : Entry) : State × Exit :=
  let site : Site := { runPc := e.pc, wordPc := a, word := 0, after := e.pc, blk := e.blk }
  if !canonical a then (s, .fault { code := 0x0507, addr := a } site)
  else
    match s.translate t a with
    | (s, .wait wid) => (s, .place e.pc e.blk (.walk wid))
    | (s, .bad aux) => (s, .fault { code := 0x0501, addr := a, aux := aux } site)
    | (s, .hit x) => if x.x then (s, .place e.pc e.blk .none) else (s, .fault { code := 0x0504, addr := a } site)

/-- The same stop for every thread that the strand would take. -/
def State.stopAll (s : State) (ts : List Thread) (x : Exit) : State := s.leaveAll (ts.map (fun t => (t.tid, x)))

/-- A strand starts from an entry: the core fetches the words of its block (03 R81, 04 R90). -/
def State.startStrand (s : State) (core dec : Nat) (ts : List Thread) (e : Entry) : State :=
  match ts with
  | [] => s
  | t :: _ =>
    if (pastEnd e.blk e.pc && e.resume) || e.blk.len == 0 then s.fallFrom core ts e
    else
      match s.blockAt t e with
      | (s, .error x) => s.stopAll ts x
      | (s, .ok b) =>
        match s.fetchWords core (s.slotOf t) (b.head + 4) b.len with
        | (s, .error a) =>
          let r := s.fetchStop t a e
          r.1.stopAll ts r.2
        | (s, .ok ws) =>
          let pos := if e.resume then (e.pc - b.head).toNat / 4 - 1 else 0
          let st : Strand := { sid := s.nextId, core := core, dec := dec, blk := b, words := ws, pos := pos,
                               members := ts.map (fun t => t.tid), formedAt := s.coreClock core }
          ({ s with strands := s.strands ++ [st],
                    threads := s.threads.map (fun t => if ts.any (fun u => u.tid == t.tid) then { t with blk := b } else t),
                    fresh := s.fresh + 1 } : State).bump

/-- A decoder forms a strand (04 R90 to R104). -/
def State.formStrand (s : State) (core dec : Nat) : State :=
  if !s.mayForm core dec then s
  else
    let closed := s.closedLanes core dec
    match s.choose core dec closed with
    | none => s
    | some (i, e) =>
      let ts := s.offers core e closed
      let s := (s.takeThreads ts).noteFormed core dec i e (ts.map (fun t => t.lane))
      (s.freeEntries core).startStrand core dec ts e

/-! ### The overflow queue (04 R88, R89) -/

/-- Is a queued thread ready in the queue: its wait reason is none, or its condition holds (04 R82). -/
def State.queueReady (s : State) (t : Thread) : Bool :=
  match t.state with
  | .queued w => s.holds t w
  | _ => false

/-- Moves up to `n` threads from the queue into the table, passing over those that are not ready and stopping at the first
ready one that would return to the queue (04 R88). -/
def State.moveQueue (s : State) (core n : Nat) (q : List Nat) : State :=
  match n, q with
  | 0, _ => s
  | _, [] => s
  | n + 1, tid :: rest =>
    match s.thread? tid with
    | none => State.moveQueue s core (n + 1) rest
    | some t =>
      if !s.queueReady t then State.moveQueue s core (n + 1) rest
      else if !s.canEnter t then s
      else
        let s := s.mapCore core (fun c => { c with queue := c.queue.filter (fun x => x != tid) })
        State.moveQueue (s.enter tid .none) core n rest

/-- The move of one cycle: once in each (04 R88). -/
def State.moveUp (s : State) (core : Nat) : State :=
  if (s.core core).movedAt == some (s.coreClock core) then s
  else
    (s.moveQueue core 4 (s.core core).queue).mapCore core (fun c => { c with movedAt := some (s.coreClock core) })

/-- A ready thread of the queue can enter the table in this cycle (04 R88). -/
def State.moveDue (s : State) (core : Nat) : Bool :=
  (s.core core).movedAt != some (s.coreClock core) &&
    (match ((s.core core).queue.filterMap s.thread?).find? s.queueReady with
     | some t => s.canEnter t
     | none => false)

/-- An issuable thread stands at an entry: one that a strand formed now would take (04 R89). -/
def State.issuable (s : State) (core : Nat) (e : Entry) : Bool := !(s.offers core e []).isEmpty

/-- The context whose ready queued thread cannot enter for want of an entry (04 R89). -/
def State.starvedThread (s : State) (core : Nat) : Option Thread :=
  ((s.core core).queue.filterMap s.thread?).find? (fun t =>
    s.queueReady t && !s.canEnter t &&
      (s.core core).table.any (fun p => p.2.cid == s.cidOf t && !s.issuable core p.2))

/-- A thread of a spilled entry moves to the queue tail, keeping its PC and its wait (04 R89). -/
def State.spillThread (s : State) (t : Thread) : State :=
  let w := match t.state with
    | .blocked w => w
    | _ => .none
  (s.setThread { t with state := .queued w }).mapCore t.core (fun c => { c with queue := c.queue ++ [t.tid] })

/-- Inserts a thread in ascending slot order. -/
def insertSlot (t : Thread) (l : List Thread) : List Thread :=
  match l with
  | [] => [t]
  | u :: r => if t.slot ≤ u.slot then t :: u :: r else u :: insertSlot t r

/-- Spills the lowest-indexed entry of the starved context that holds no issuable thread (04 R89). -/
def State.spill (s : State) (core : Nat) : State :=
  if (s.core core).spilledAt == some (s.coreClock core) then s
  else
    match s.starvedThread core with
    | none => s
    | some t =>
      match (s.core core).table.find? (fun p => p.2.cid == s.cidOf t && !s.issuable core p.2) with
      | none => s
      | some (_, e) =>
        ((((s.waiters core e).foldl (fun l t => insertSlot t l) []).foldl State.spillThread s).freeEntries core).mapCore core
          (fun c => { c with spilledAt := some (s.coreClock core) })

/-- An entry is to be spilled in this cycle (04 R89). -/
def State.spillDue (s : State) (core : Nat) : Bool :=
  (s.core core).spilledAt != some (s.coreClock core) && (s.starvedThread core).isSome

/-! ### What a cycle owes (04 R88, R89, R102) -/

/-- A decoder with a free context owes a strand: a thread that it may take has stood ready for F cycles (04 R99, R102). At AGE exactly F the
thread that R99 then chooses may be another, since step 1 takes those above F (DESIGN CHOICE, assumption 124). -/
def State.formDue (s : State) (core dec : Nat) : Bool :=
  s.policy core == 0 && s.mayForm core dec &&
    (s.core core).table.any (fun p => decide ((s.core core).fair ≤ s.age core p.2) &&
      !(s.offers core p.2 (s.closedLanes core dec)).isEmpty)

/-- What a core must still do before its cycle ends. -/
noncomputable def State.coreDue (s : State) (core : Nat) : Option Instr :=
  if s.spillDue core then some (.spillEntry core)
  else if s.moveDue core then some (.overflowQueueMove core)
  else if s.formDue core 0 then some (.formStrand core 0)
  else if s.formDue core 1 then some (.formStrand core 1)
  else none

/-- The first thing that a core must still do before a cycle passes. -/
noncomputable def State.due (s : State) : Option Instr := s.cores.findSome? (fun p => s.coreDue p.1)

/-! ### Issue order (04 R93) -/

/-- The next word of a strand can issue in this cycle: it has lost no round to the banks in it (05 R137), and the result of its last word
is there (06 R161). -/
def State.canIssue (s : State) (st : Strand) : Bool :=
  st.lostAt != some (s.coreClock st.core) && decide (st.busyTo ≤ s.coreClock st.core)

/-- A strand may issue a word now: its decoder has issued none in this cycle, and it is the oldest of the decoder's strands whose next word
can issue (04 R93). -/
def State.mayIssue (s : State) (st : Strand) : Bool :=
  Sparse.find (s.core st.core).issuedAt st.dec != some (s.coreClock st.core) &&
    ((s.strands.find? (fun x => x.core == st.core && x.dec == st.dec && s.canIssue x)).map (fun x => x.sid)) == some st.sid

end Sys2Proof.Machine
end

