-- ==== Sys2Proof/Machine/Inflight.lean ====
section
/-!
DEFINITION. Operations in flight: their issue, what holds them back, and their completion in issue order within a class of a
thread (04 R106, R110; 07 R168 to R172).
-/
namespace Sys2Proof.Machine

/-! ### Issue -/

/-- An operation that a thread issues with the word of a context. -/
def State.newOp (s : State) (c : Ctx) (t : Thread) (cls : Ctr) (kind : OpKind) : Op :=
  { id := s.nextId, tid := t.tid, slot := s.slotOf t, launch := s.handleOf t, unit := t.unit,
    uix := (match s.unitOf t with | some u => u.index | none => 0), group := s.groupOf t,
    core := t.core, tslot := t.slot, cls := cls, batch := c.batch, pc := c.runPc, word := c.word, detM := t.modeD,
    kind := kind, since := s.coreClock t.core }

/-- Puts an operation in flight: its counter rises by 1 (04 R106), its destinations are pending (07 R169). -/
def State.addOp (s : State) (o : Op) : State :=
  ({ s with ops := s.ops ++ [o] }.bump).mapThread o.tid (fun t => t.raise o.cls)

/-- An operation in flight. -/
def State.op? (s : State) (id : Nat) : Option Op := s.ops.find? (fun o => o.id == id)

/-- Changes an operation in flight. -/
def State.mapOp (s : State) (id : Nat) (f : Op → Op) : State :=
  { s with ops := s.ops.map (fun o => if o.id = id then f o else o) }

/-- A thread may issue one more operation of a class (04 R107). -/
def roomFor (t : Thread) (c : Ctr) : Except Stop Unit := if t.full c then .error (.leave (.room c)) else .ok ()

/-! ### What holds an operation back -/

/-- The context that an operation's claims belong to: those of the contexts of peers are kept apart, by module and context tag. -/
def Op.claimSlot (o : Op) : Nat :=
  match o.origin with
  | some p => 16 + p.src * 2 ^ 16 + p.ctag % 2 ^ 16
  | none => o.slot

/-- Two operations name a common byte. -/
def Op.overlaps (o p : Op) : Bool :=
  match o.span, p.span with
  | some (sp, l, z), some (tp, m, y) => sp == tp && decide (l < m + y) && decide (m < l + z)
  | _, _ => false

/-- The operation is a store. -/
def Op.isStore (o : Op) : Bool :=
  match o.kind with
  | .store _ _ _ => true
  | _ => false

/-- The operation is a load, or the read of a launch descriptor. -/
def Op.isLoad (o : Op) : Bool :=
  match o.kind with
  | .load _ _ _ => true
  | .lch _ => true
  | _ => false

/-- The operation is the load of an `ldacq`. -/
def Op.acquires (o : Op) : Bool :=
  match o.kind with
  | .load _ _ (some _) => true
  | _ => false

/-- The operations that a thread issued before one of its own and that have not completed. -/
def State.earlier (s : State) (o : Op) : List Op :=
  (s.ops.takeWhile (fun p => p.id != o.id)).filter (fun p => p.tid == o.tid && p.tid != 0)

/-- The operation makes claims: it was issued in deterministic mode, and neither has its launch ended nor its unit been flushed since
(10 R218). -/
def Op.claims (o : Op) : Bool := o.detM && !o.claimless

/-- An earlier `ldacq` of the thread has not performed its acquire (07 R178). -/
def State.heldByAcquire (s : State) (o : Op) : Bool := (s.earlier o).any (fun p => p.acquires)

/-- An earlier access of the thread to a common byte has not been performed (07 R172): a load passes the thread's own
stores, whose bytes it takes. -/
def State.heldByOrder (s : State) (o : Op) : Bool :=
  (s.earlier o).any (fun p => !p.arrived && p.overlaps o && !(o.isLoad && p.isStore))

/-- A lower lane's store of the same word to a common byte has not been performed (07 R171). -/
def State.heldByLane (s : State) (o : Op) : Bool :=
  s.ops.any (fun p => p.batch == o.batch && p.isStore && o.isStore && decide (p.lane < o.lane) && !p.arrived && p.overlaps o)

/-- Nothing holds the operation back. -/
def State.freeToAct (s : State) (o : Op) : Bool :=
  !o.arrived && !s.heldByAcquire o && !s.heldByOrder o && !s.heldByLane o

/-- Lays the bytes of the thread's own stores in flight over what a load reads (07 R172, 09 R197). -/
def State.overlay (s : State) (o : Op) (loc : Nat) (bytes : List Byte) : List Byte :=
  (s.earlier o).foldl (fun bs p =>
    match p.kind with
    | .store a w _ =>
      if p.arrived || !p.overlaps o then bs
      else (List.range bs.length).map (fun i =>
        if a.loc ≤ loc + i && loc + i < a.loc + w.length then w.getD (loc + i - a.loc) 0 else bs.getD i 0)
    | _ => bs) bytes

/-- Every earlier load, store and the like of the thread has completed (09 R198). -/
def State.quietBefore (s : State) (o : Op) : Bool := !(s.earlier o).any (fun p => p.ordered)

/-- Every earlier load and other value-returning operation of the thread has completed (09 R199). -/
def State.readsBefore (s : State) (o : Op) : Bool := !(s.earlier o).any (fun p => p.valued)

/-! ### Completion -/

/-- Writes the values of an operation to its destinations (07 R168). -/
def Thread.deliver (t : Thread) (ds : List Reg) (vs : List Word) (k : Tag) : Thread :=
  match ds, vs with
  | d :: ds, v :: vs => Thread.deliver (t.setReg d v k) ds vs k
  | _, _ => t

/-- The data bytes of a response, from the words of an operation. -/
def wordBytes (ws : List Word) : List Byte := ws.flatMap (fun w => leBytes 4 w.toNat)

/-- An operation that performs a peer's request is answered (14 R327): its data, an acknowledgement, or its fault, which the
model carries in a response of OP 1 as the code and the auxiliary word, and for a reduction the first byte of the element that faults. -/
def State.answer (s : State) (o : Op) (p : Packet) : State :=
  match o.fault with
  | some (code, addr, aux) =>
    s.respond p 0x10 1 (leBytes 4 code ++ leBytes 4 aux.toNat ++ (if o.kind = .reduction then leBytes 4 addr.toNat else []))
  | none =>
    if p.typ = 8 then s.respond p 8 3 (wordBytes o.data)
    else if o.data.isEmpty then s.respond p 0x11 0 []
    else s.respond p 0x10 0 (wordBytes o.data)

/-- Writes the state of a slot of a creel of a unit; a slot that becomes FREE leaves the claim queue (10 R226, R232). -/
def State.markSlot (s : State) (unit k i : Nat) (x : CreelSlot) : State :=
  s.mapUnit unit (fun u =>
    let q := Sparse.get {} u.creels k
    if q.slotAt i != .claimedCopy then u
    else
      let q := { q with slots := Sparse.set .free q.slots i x }
      let q := if x = .free then ({ q with queue := q.queue.filter (fun j => j != i) } : Creel).leaveOver else q
      { u with creels := Sparse.set {} u.creels k q })

/-- The slot that a `cpyc` claimed becomes FILLED as it completes, or FREE again as it faults (10 R229, R232). -/
def State.settleSlot (s : State) (o : Op) : State :=
  match o.kind with
  | .copy c =>
    (match c.creel with
     | some (k, i) => s.markSlot o.unit k i (if o.fault.isNone then .filled else .free)
     | none => s)
  | _ => s

/-- The operation has shown its thread a seal: a read of an append-seal page has returned its bytes, that of a load, of a launch descriptor or of
a copy, or `astate` SEALED with PW = 0 (12 R277). -/
def Op.seesSeal (o : Op) : Bool :=
  match o.kind with
  | .load a _ _ => a.sp == 0 && a.cls == 2
  | .lch a => a.cls == 2
  | .copy c => c.sealed
  | .status _ true => (o.data.headD 0).toNat / 2 ^ 28 % 16 / 4 == 2 && !(o.data.headD 0).getLsbD 28
  | _ => false

/-- An operation completes: its counter falls, and its values are written, or its fault is raised; after its thread has
exited nothing is written (04 R106, R110, R116). One that performs a peer's request is answered. After one that has shown its thread a seal
the die holds no copy that an acquire at a narrow scope would leave (12 R277; assumption 115). -/
def State.retireOp (s : State) (o : Op) : State :=
  let s := (({ s with ops := s.ops.filter (fun p => p.id != o.id) } : State).mapThread o.tid (fun t => t.lower o.cls)).settleSlot o
  match o.origin with
  | some p => s.answer o p
  | none =>
    match o.fault with
    | some (code, addr, aux) => s.opFault o { code := code, addr := addr, aux := aux }
    | none =>
      let s := if o.seesSeal then s.dropRemotes (dieOf o.core) else s
      let s := s.mapThread o.tid (fun t => if t.state == .exited then t else t.deliver o.dsts o.data o.tag)
      match o.kind with
      | .load _ _ (some level) => (s.acquireDiscard o.core level).takeCode o.core (o.reach, level)
      | .descr _ => s.mapThread o.tid (fun t => { t with descr := o.data })
      | _ => s

/-- The first operation that has arrived and before which every operation of its class and thread has completed. -/
def firstDone (ops : List Op) (seen : List (Nat × Ctr)) : Option Op :=
  match ops with
  | [] => none
  | o :: rest =>
    if o.arrived && (o.cls == .none || !seen.contains (o.tid, o.cls)) then some o
    else firstDone rest (seen ++ [(o.tid, o.cls)])

/-- Completes every operation that may complete, in issue order within a class (04 R106). -/
def State.retireAll (s : State) (rounds : Nat) : State :=
  match rounds with
  | 0 => s
  | n + 1 =>
    match firstDone s.ops [] with
    | none => s
    | some o => State.retireAll (s.retireOp o) n

/-- An operation's effect has been made, or its values have come: it completes when its turn comes. -/
def State.arrive (s : State) (id : Nat) (f : Op → Op) : State :=
  (s.mapOp id (fun o => { f o with arrived := true })).retireAll (s.ops.length + 1)

/-- An operation is forgotten without a completion. -/
def State.forget (s : State) (op : Nat) : State :=
  { s with ops := s.ops.filter (fun o => o.id != op), lockWait := s.lockWait.filter (fun l => l.op != op) }

/-- The locks of an operation are released, the cells unchanged. -/
def State.dropLocks (s : State) (op : Nat) : State :=
  { s with locks := s.locks.filter (fun l => l.op != op), lockWait := s.lockWait.filter (fun l => l.op != op) }

/-- The data that an operation consumes has an uncorrectable error (01 R33, R375): one that this module performs for a peer is refused with
cause 2, and the receiver goes on (14 R317, R328); one that waits for a peer ends its context with 0x0901, cause 2; another ends its context
with a record of the place. Its locks are released, the cells unchanged, and nothing is written. -/
def State.opError (s : State) (o : Op) (pa : Nat) (va : Pair) : State :=
  let s := s.dropLocks o.id
  match o.origin with
  | some p => (s.forget o.id).respond p 0x12 2 []
  | none =>
    if s.awaits o.id then (s.remoteError o.slot o.core o.tslot o.launch va 2).forget o.id
    else
      let s := s.dataError o pa
      if (s.op? o.id).isSome then s.arrive o.id (fun q => { q with dsts := [] }) else s

/-- An operation faults on completion. -/
def State.arriveFault (s : State) (id code : Nat) (addr : Pair) (aux : Word) : State :=
  s.arrive id (fun o => { o with fault := some (code, addr, aux) })

end Sys2Proof.Machine
end

