-- ==== Sys2Proof/Machine/Access.lean ====
section
/-!
DEFINITION. The checks of a data access at issue (07 R163 to R167, 14 R317): address, alignment, bounds, translation, class,
the writable bit and the peer.
-/
namespace Sys2Proof.Machine

/-- The size of an access from its w field (07 R163). -/
def sizeOf (w : BitVec 3) : Nat :=
  match w.toNat with
  | 0 => 1 | 1 => 1 | 2 => 2 | 3 => 2 | 4 => 4 | _ => 8

/-- The address that an XM word forms: exact, since a scratch offset may be negative (07 R163). -/
def State.xmAddress (s : State) (t : Thread) (h : Hints) (sp : BitVec 3) (a : Reg) (z : Nat) (o : BitVec 6) : Int :=
  if sp = 0 then ((t.pair a + BitVec.ofInt 64 (h.count o * z)).toNat : Int)
  else ((t.rd ((s.fieldFrac t).getD 0) .int a).toNat : Int) + h.count o * z

/-- The class that an address operand of a space is read through (07 R162). -/
def baseOperand (sp : BitVec 3) (a : Reg) : Cls × Reg := if sp = 0 then (.int64, a) else (.int, a)

/-- The registers that an address operand of a space names. -/
def baseRegs (sp : BitVec 3) (a : Reg) : List Reg := if sp = 0 then pairNames a else [a]

/-- The class and writable checks of a global access: the fault and its auxiliary word by page class, and whether the page
must be writable. -/
structure Need where
  ofClass : Nat → Option (Nat × Word)
  write : Bool

/-- Loads accept every class; a conserved-field page takes w = 4 only (07 R167). -/
def needLoad (word : Bool) : Need :=
  { ofClass := fun c => if c = 1 && !word then some (0x0504, 1) else none, write := false }

/-- Stores and atomics accept the ordinary class only (07 R167, 10 R215). -/
def needStore : Need :=
  { ofClass := fun c => if c = 1 then some (0x0503, 0) else if c = 2 then some (0x0502, 0) else none, write := true }

/-- The checks that the page of an address makes, once translated: class, then W, then the peer (07 R167, 14 R317). -/
def State.pageChecks (s : State) (t : Thread) (x : Trans) (ea : Pair) (n : Need) : Option FaultInfo :=
  match n.ofClass x.cls with
  | some (code, aux) => some { code := code, addr := ea, aux := aux }
  | none =>
    if n.write && !x.w then some { code := 0x0504, addr := ea }
    else
      match x.peer with
      | none => none
      | some d => (s.peerCheck (s.slotOf t) d).map (fun cause => { code := 0x0901, addr := ea, aux := cause })

/-- The access that a translation gives. -/
def mkAccess (x : Trans) (ea : Pair) (z pol : Nat) : Access :=
  { sp := 0, va := ea, loc := x.place (va57 ea), z := z, cls := x.cls, pageLoc := x.pagePlace, pageSize := x.size,
    pol := if x.cls = 0 then pol else 0,
    pc := x.pc, w := x.w }

/-- Every check of a global access (07 R165), with a fault of the instruction's own after the alignment. -/
def State.globalAccess (s : State) (t : Thread) (ea : Pair) (z pol : Nat) (own : Option FaultInfo) (n : Need) :
    State × Except Stop Access :=
  if !canonical ea then (s, .error (.fault { code := 0x0507, addr := ea }))
  else if ea.toNat % z ≠ 0 then (s, .error (.fault { code := 0x0505, addr := ea }))
  else
    match own with
    | some f => (s, .error (.fault f))
    | none =>
      match s.translate t ea with
      | (s, .wait wid) => (s, .error (.leave (.walk wid)))
      | (s, .bad aux) => (s, .error (.fault { code := 0x0501, addr := ea, aux := aux }))
      | (s, .hit x) =>
        match s.pageChecks t x ea n with
        | some f => (s, .error (.fault f))
        | none => (s, .ok (mkAccess x ea z pol))

/-- The address words of a fault of a scratch access: the offset with the high word zero, or the low 64 bits of a negative one
(07 R165). -/
def scratchWords (o : Int) : Pair := if o < 0 then BitVec.ofInt 64 o else BitVec.ofNat 64 (o.toNat % 2 ^ 32)

/-- Every check of a scratch access (07 R165). -/
def State.scratchAccess (s : State) (t : Thread) (sp z : Nat) (o : Int) : Except Stop Access :=
  let r := s.region t sp
  let addr := scratchWords o
  if o % z ≠ 0 then .error (.fault { code := 0x0505, addr := addr })
  else if o < 0 || (r.1 : Int) < o + z then .error (.fault { code := 0x0506, addr := addr })
  else .ok { sp := sp, va := BitVec.ofInt 64 o, loc := r.2 + o.toNat, z := z }

/-- Every check of an XM access of a thread (07 R165, R107). -/
def State.xmAccess (s : State) (c : Ctx) (t : Thread) (ctr : Ctr) (sp : BitVec 3) (a : Reg) (z : Nat) (o : BitVec 6)
    (n : Need) : State × Except Stop Access :=
  if t.full ctr then (s, .error (.leave (.room ctr)))
  else
    let x := s.xmAddress t c.hints sp a z o
    if sp = 0 then s.globalAccess t (BitVec.ofInt 64 x) z c.hints.pol none n
    else (s, s.scratchAccess t sp.toNat z x)

/-- The access of a thread to its own lane-private window: the offset within it. -/
def Access.lpOffset (a : Access) (t : Thread) : Nat := a.loc - t.slot * Config.laneBytes

/-- The device of a peer access. -/
def Access.peer (a : Access) : Option Nat := if a.sp = 0 then peerOf a.loc else none

/-! ### Walks as events (08 R187) -/

/-- Threads wait for a walk. -/
def State.awaited (s : State) (wid : Nat) : Bool := s.threads.any (fun t => t.begun == some wid)

end Sys2Proof.Machine
end

