-- ==== Sys2Proof/Machine/Integer.lean ====
section
/-!
DEFINITION. Moves, integer, logic, shift, compare, address and immediate instructions: majors 0x08 to 0x17 (05 R118 to R131).
-/
namespace Sys2Proof.Machine

/-! ### Shapes -/

/-- d ← f(x, y) with x and y through the int class, tag INT (05 R125). -/
def int2 (d a b : Reg) (f : Word → Word → Word) (s : State) : State :=
  regWord (fun _ => { named := [d, a, b], reads := [(.int, a), (.int, b)] }) (fun _ => false) false
    (fun _ k t => t.setReg d (f (t.rd k .int a) (t.rd k .int b)) .int) s

/-- d ← f(x) with x through the int class, tag INT (05 R125). -/
def int1 (d a : Reg) (f : Word → Word) (s : State) : State :=
  regWord (fun _ => { named := [d, a], reads := [(.int, a)] }) (fun _ => false) false
    (fun _ k t => t.setReg d (f (t.rd k .int a)) .int) s

/-- pair(d) ← f(X, Y) with X and Y through the int64 class, tag X64 (05 R125). -/
def int64op (d a b : Reg) (f : Pair → Pair → Pair) (s : State) : State :=
  regWord (fun _ => { named := pairNames d ++ pairNames a ++ pairNames b, reads := [(.int64, a), (.int64, b)] })
    (fun _ => false) false (fun _ _ t => t.setPair d (f (t.pair a) (t.pair b)) .x64) s

/-- pair(d) ← f(x, y) with x and y through the int class, tag X64 (05 R125, `mulw`). -/
def mulwOp (d a b : Reg) (f : Word → Word → Pair) (s : State) : State :=
  regWord (fun _ => { named := pairNames d ++ [a, b], reads := [(.int, a), (.int, b)] }) (fun _ => false) false
    (fun _ k t => t.setPair d (f (t.rd k .int a) (t.rd k .int b)) .x64) s

/-- d ← f(x, y) on bits of every tag, tag INT (05 R126). -/
def bits2 (d a b : Reg) (f : Word → Word → Word) (s : State) : State :=
  regWord (fun _ => { named := [d, a, b] }) (fun _ => false) false (fun _ _ t => t.setReg d (f (t.val a) (t.val b)) .int) s

/-- d ← f(x) on bits of every tag, tag INT (05 R126). -/
def bits1 (d a : Reg) (f : Word → Word) (s : State) : State :=
  regWord (fun _ => { named := [d, a] }) (fun _ => false) false (fun _ _ t => t.setReg d (f (t.val a)) .int) s

/-- d ← f(x, y, z) on bits of every tag with z = v[c] of the required hx, tag INT (05 R126). -/
def bits3 (d a b : Reg) (f : Word → Word → Word → Word) (s : State) : State :=
  regWord (fun h => { named := [d, a, b, h.c] }) (fun _ => false) true
    (fun h _ t => t.setReg d (f (t.val a) (t.val b) (t.val h.c)) .int) s

/-- d ← 1 or 0 by a relation of two pairs, tag INT (05 R128). -/
def cmp64 (d a b : Reg) (cls : Cls) (f : Pair → Pair → Bool) (s : State) : State :=
  regWord (fun _ => { named := [d] ++ pairNames a ++ pairNames b, reads := [(cls, a), (cls, b)] }) (fun _ => false) false
    (fun _ _ t => t.setReg d (flag (f (t.pair a) (t.pair b))) .int) s

/-- pair(d) ← pair(a) + (index << shift), tag X64 (05 R129). -/
def leaOp (d a b : Reg) (sh : BitVec 3) (ext : Word → Pair) (s : State) : State :=
  regWord (fun _ => { named := pairNames d ++ pairNames a ++ [b], reads := [(.int64, a), (.int, b)] }) (fun _ => false) false
    (fun _ k t => t.setPair d (t.pair a + (ext (t.rd k .int b) <<< sh.toNat)) .x64) s

/-- d ← f(x, i) with x through a class and the immediate i, tag INT (05 R130). -/
def immOp (cls : Cls) (d a : Reg) (imm : Hints → Word) (f : Word → Word → Word) (s : State) : State :=
  regWord (fun _ => { named := [d, a], reads := [(cls, a)] }) (fun _ => false) false
    (fun h k t => t.setReg d (f (t.rd k cls a) (imm h)) .int) s

/-! ### Values -/

/-- The least of two signed numbers. -/
def minI (x y : Word) : Word := if x.toInt ≤ y.toInt then x else y
/-- The greatest of two signed numbers. -/
def maxI (x y : Word) : Word := if x.toInt ≤ y.toInt then y else x
/-- The least of two natural numbers. -/
def minN (x y : Word) : Word := if x.toNat ≤ y.toNat then x else y
/-- The greatest of two natural numbers. -/
def maxN (x y : Word) : Word := if x.toNat ≤ y.toNat then y else x

/-- `div.i` (05 R125). -/
def divI (x y : Word) : Word :=
  if y = 0 then BitVec.ofInt 32 (-1) else BitVec.ofInt 32 (x.toInt.tdiv y.toInt)
/-- `div.n` (05 R125). -/
def divN (x y : Word) : Word := if y = 0 then 0xFFFFFFFF else BitVec.ofNat 32 (x.toNat / y.toNat)
/-- `rem.i` (05 R125). -/
def remI (x y : Word) : Word := if y = 0 then x else BitVec.ofInt 32 (x.toInt.tmod y.toInt)
/-- `rem.n` (05 R125). -/
def remN (x y : Word) : Word := if y = 0 then x else BitVec.ofNat 32 (x.toNat % y.toNat)

/-- A result saturated to a signed word (05 R125, `adds.i`, `subs.i`). -/
def satI (r : Int) : Word :=
  BitVec.ofInt 32 (if r < -(2 ^ 31) then -(2 ^ 31) else if 2 ^ 31 - 1 < r then 2 ^ 31 - 1 else r)

/-- `shl` with the amount read as n32 (05 R126). -/
def shlN (x y : Word) : Word := if 32 ≤ y.toNat then 0 else x <<< y.toNat
/-- `shr` (05 R126). -/
def shrN (x y : Word) : Word := if 32 ≤ y.toNat then 0 else x >>> y.toNat
/-- `sha` (05 R126). -/
def shaN (x y : Word) : Word := if 32 ≤ y.toNat then x.sshiftRight 31 else x.sshiftRight y.toNat
/-- `rotl` (05 R126). -/
def rotlN (x y : Word) : Word := x.rotateLeft (y.toNat % 32)
/-- `rotr` (05 R126). -/
def rotrN (x y : Word) : Word := x.rotateRight (y.toNat % 32)

/-- The length of a bit field: min(q[15:8], 32) (05 R127). -/
def fieldLen (q : Word) : Nat := Nat.min (q.toNat / 256 % 256) 32
/-- The position of a bit field: q[7:0] (05 R127). -/
def fieldPos (q : Word) : Nat := q.toNat % 256

/-- The field of R127 as a number. -/
def fieldBits (x q : Word) : Nat :=
  if fieldLen q = 0 || 32 ≤ fieldPos q then 0 else x.toNat / 2 ^ fieldPos q % 2 ^ fieldLen q

/-- `bfe.n` (05 R127). -/
def bfeNv (x q : Word) : Word := BitVec.ofNat 32 (fieldBits x q)
/-- `bfe.i`: sign-extended from the field's top bit (05 R127). -/
def bfeIv (x q : Word) : Word :=
  let m := fieldLen q
  let f := fieldBits x q
  if m = 0 then 0 else if 2 ^ (m - 1) ≤ f then BitVec.ofInt 32 (f - 2 ^ m) else BitVec.ofNat 32 f
/-- `bfi` (05 R127). -/
def bfiv (x y q : Word) : Word :=
  let mask : Pair := BitVec.ofNat 64 ((2 ^ fieldLen q - 1) * 2 ^ fieldPos q)
  let m := loWord mask
  (x &&& ~~~m) ||| (BitVec.ofNat 32 (y.toNat * 2 ^ fieldPos q) &&& m)

/-- The bits of a word, least significant first. -/
def bitList (x : Word) : List Bool := (List.range 32).map (fun i => x.getLsbD i)

/-- `popc` (05 R126). -/
def popcv (x : Word) : Word := BitVec.ofNat 32 ((bitList x).filter id).length
/-- `ctz` (05 R126): 32 for x = 0. -/
def ctzv (x : Word) : Word := BitVec.ofNat 32 ((bitList x).takeWhile (fun b => !b)).length
/-- `clz` (05 R126): 32 for x = 0. -/
def clzv (x : Word) : Word := BitVec.ofNat 32 ((bitList x).reverse.takeWhile (fun b => !b)).length
/-- `brev` (05 R126). -/
def brevv (x : Word) : Word := x.reverse

/-- `dshl`: ((x ++ y) << s)[63:32] (05 R126). -/
def dshlv (x y z : Word) : Word := if 64 ≤ z.toNat then 0 else hiWord ((x ++ y : Pair) <<< z.toNat)
/-- `dshr` (05 R126). -/
def dshrv (x y z : Word) : Word := if 64 ≤ z.toNat then 0 else loWord ((x ++ y : Pair) >>> z.toNat)
/-- `dsha` (05 R126). -/
def dshav (x y z : Word) : Word :=
  if 64 ≤ z.toNat then x.sshiftRight 31 else loWord ((x ++ y : Pair).sshiftRight z.toNat)

/-! ### Special registers (05 R123) -/

/-- A dimension of a launch-linear index: x fastest, for units as 15 R346 says and for the threads of a unit by the model's choice (DESIGN
CHOICE, assumption 107). -/
def dimOf (n nx ny k : Nat) : Nat :=
  match k with
  | 0 => n % nx
  | 1 => n / nx % ny
  | _ => n / nx / ny

/-- The value of a special register and whether it is a pair. -/
def State.special (s : State) (t : Thread) (n : Nat) : Pair :=
  let w : Nat → Pair := fun k => BitVec.ofNat 64 k
  let o := (s.launchOf t).getD { handle := 0, parent := 0 }
  let u := s.unitOf t
  let ux := (o.word 7).toNat % 2048 + 1
  let uy := (o.word 7).toNat / 2048 % 2048 + 1
  let gx := (o.word 9).toNat % 2 ^ 20 + 1
  let gy := (o.word 10).toNat % 2 ^ 20 + 1
  match n with
  | 0 => w (dimOf t.index ux uy 0)
  | 1 => w (dimOf t.index ux uy 1)
  | 2 => w (dimOf t.index ux uy 2)
  | 3 => w (s.groupOf t)
  | 4 => w (match u with | some u => u.nthreads | none => 0)
  | 5 => w (match u with | some u => u.gw | none => 0)
  | 6 => w (dimOf (match u with | some u => u.index | none => 0) gx gy 0)
  | 7 => w (dimOf (match u with | some u => u.index | none => 0) gx gy 1)
  | 8 => w (dimOf (match u with | some u => u.index | none => 0) gx gy 2)
  | 9 => w t.lane
  | 10 => w t.row
  | 11 => w t.core
  | 12 => w (clusterOf t.core)
  | 13 => w (dieOf t.core)
  | 14 => w s.dev
  | 15 => (s.handleOf t).setWidth 64
  | 16 => o.item 14
  | 17 => (loWord (s.cyc (dieOf t.core))).setWidth 64
  | 18 => (if t.cycLoaded then t.cycLatch else hiWord (s.cyc (dieOf t.core))).setWidth 64
  | 19 => t.cntWord.setWidth 64
  | 20 => w t.budget
  | 21 => t.modeWord.setWidth 64
  | 22 => w t.field
  | 32 => t.ieWord.setWidth 64
  | 33 => (t.ieWord >>> 26).setWidth 64
  | 34 => ((t.ieWord >>> 19) &&& 127).setWidth 64
  | 35 => ((t.ieWord >>> 12) &&& 127).setWidth 64
  | 36 => ((t.ieWord >>> 5) &&& 127).setWidth 64
  | 37 => (t.ieWord &&& 31).setWidth 64
  | 38 => (t.ieWord &&& 0x7FFFF).setWidth 64
  | 39 => t.iePc
  | _ => 0

/-- The special registers whose value is a pair, with tag X64 (05 R123). -/
def specialWide (n : Nat) : Bool := n == 16 || n == 39

/-- `movs`: reading `$cyc.lo` also loads the cycle latch (01 R32). -/
def movsAct (d : Reg) (n : Nat) (s : State) (_ : Ctx) (t : Thread) (_ : Unit) : State × After :=
  let v := s.special t n
  let t1 := if n = 17 then { t with cycLatch := hiWord (s.cyc (dieOf t.core)), cycLoaded := true } else t
  (s.setThread (if specialWide n then t1.setPair d v .x64 else t1.setReg d (loWord v) .int), .go)

/-! ### Moves and constants -/

/-- `movi`: sext(imm, 32), or the hk value; tag INT (05 R121). -/
def execMovi (d : Reg) (j : BitVec 12) (s : State) : Out := .next (regWord (fun _ => { named := [d] }) (fun _ => false) false (fun h _ t => t.setReg d (h.immS j) .int) s)

/-- `movu`: zext(imm, 32), or the hk value; tag INT (05 R121). -/
def execMovu (d : Reg) (j : BitVec 19) (s : State) : Out := .next (regWord (fun _ => { named := [d] }) (fun _ => false) false (fun h _ t => t.setReg d (h.immL j) .int) s)

/-- `mov`: value and tag (05 R122). -/
def execMov (d a : Reg) (s : State) : Out := .next (regWord (fun _ => { named := [d, a] }) (fun _ => false) false (fun _ _ t => t.setReg d (t.reg a).val (t.reg a).tag) s)

/-- `sel`: by v[c] of the required hx (05 R122). -/
def execSel (d a b : Reg) (s : State) : Out := .next (regWord (fun h => { named := [d, a, b, h.c] }) (fun _ => false) true
    (fun h _ t => if t.val h.c ≠ 0 then t.setReg d (t.reg a).val (t.reg a).tag else t.setReg d (t.reg b).val (t.reg b).tag) s)

/-- `movs` (05 R122, R123). -/
def execMovs (d : Reg) (x : BitVec 7) (s : State) : Out :=
  .next (issue ({ shape := fun _ => { named := if specialWide x.toNat then pairNames d else [d] }, pre := noCheck,
                  act := eachThread (movsAct d x.toNat) }) s)

/-- `movsw`: only the T bit of `$mode` is writable (05 R122, R124). -/
def execMovsw (x : BitVec 7) (a : Reg) (s : State) : Out :=
  .next (regWord (fun _ => { named := [a] }) (fun _ => false) false
    (fun _ _ t => if x.toNat = 21 then t.writeMode (t.val a) else t) s)

/-- `tagget` (05 R122). -/
def execTagget (d a : Reg) (s : State) : Out := .next (regWord (fun _ => { named := [d, a] }) (fun _ => false) false (fun _ _ t => t.setReg d (BitVec.ofNat 32 (t.reg a).tag.code) .int) s)

/-- `tagset` (05 R122). -/
def execTagset (d a : Reg) (k : BitVec 7) (s : State) : Out := .next (regWord (fun _ => { named := [d, a] }) (fun _ => false) false (fun _ _ t => t.setReg d (t.val a) (Tag.ofCode k.toNat)) s)

/-- `tagchk`: the tag exactly (05 R122). -/
def execTagchk (d a : Reg) (k : BitVec 7) (s : State) : Out := .next (regWord (fun _ => { named := [d, a] }) (fun _ => false) false (fun _ _ t => t.setReg d (flag ((t.reg a).tag.code == k.toNat)) .int) s)

/-! ### Integer arithmetic (05 R125) -/

/-- `add` (05 R125). -/
def execAdd (d a b : Reg) (s : State) : Out := .next (int2 d a b (fun x y => x + y) s)

/-- `sub` (05 R125). -/
def execSub (d a b : Reg) (s : State) : Out := .next (int2 d a b (fun x y => x - y) s)

/-- `mul` (05 R125). -/
def execMul (d a b : Reg) (s : State) : Out := .next (int2 d a b (fun x y => x * y) s)

/-- `mulh.i` (05 R125). -/
def execMulhI (d a b : Reg) (s : State) : Out := .next (int2 d a b (fun x y => BitVec.ofInt 32 (x.toInt * y.toInt / 2 ^ 32)) s)

/-- `mulh.n` (05 R125). -/
def execMulhN (d a b : Reg) (s : State) : Out := .next (int2 d a b (fun x y => BitVec.ofNat 32 (x.toNat * y.toNat / 2 ^ 32)) s)

/-- `div.i` (05 R125). -/
def execDivI (d a b : Reg) (s : State) : Out := .next (int2 d a b (divI) s)

/-- `div.n` (05 R125). -/
def execDivN (d a b : Reg) (s : State) : Out := .next (int2 d a b (divN) s)

/-- `rem.i` (05 R125). -/
def execRemI (d a b : Reg) (s : State) : Out := .next (int2 d a b (remI) s)

/-- `rem.n` (05 R125). -/
def execRemN (d a b : Reg) (s : State) : Out := .next (int2 d a b (remN) s)

/-- `min.i` (05 R125). -/
def execMinI (d a b : Reg) (s : State) : Out := .next (int2 d a b (minI) s)

/-- `max.i` (05 R125). -/
def execMaxI (d a b : Reg) (s : State) : Out := .next (int2 d a b (maxI) s)

/-- `min.n` (05 R125). -/
def execMinN (d a b : Reg) (s : State) : Out := .next (int2 d a b (minN) s)

/-- `max.n` (05 R125). -/
def execMaxN (d a b : Reg) (s : State) : Out := .next (int2 d a b (maxN) s)

/-- `abs` (05 R125). -/
def execAbs (d a : Reg) (s : State) : Out := .next (int1 d a (fun x => if x.toInt < 0 then -x else x) s)

/-- `neg` (05 R125). -/
def execNeg (d a : Reg) (s : State) : Out := .next (int1 d a (fun x => 0 - x) s)

/-- `add64` (05 R125). -/
def execAdd64 (d a b : Reg) (s : State) : Out := .next (int64op d a b (fun x y => x + y) s)

/-- `sub64` (05 R125). -/
def execSub64 (d a b : Reg) (s : State) : Out := .next (int64op d a b (fun x y => x - y) s)

/-- `mulw.i` (05 R125). -/
def execMulwI (d a b : Reg) (s : State) : Out := .next (mulwOp d a b (fun x y => BitVec.ofInt 64 (x.toInt * y.toInt)) s)

/-- `mulw.n` (05 R125). -/
def execMulwN (d a b : Reg) (s : State) : Out := .next (mulwOp d a b (fun x y => BitVec.ofNat 64 (x.toNat * y.toNat)) s)

/-- `mad`: x × y + v[c] (05 R125). -/
def execMad (d a b : Reg) (s : State) : Out := .next (regWord (fun h => { named := [d, a, b, h.c], reads := [(.int, a), (.int, b), (.int, h.c)] }) (fun _ => false) true
    (fun h k t => t.setReg d (t.rd k .int a * t.rd k .int b + t.rd k .int h.c) .int) s)

/-- `adds.i` (05 R125). -/
def execAddsI (d a b : Reg) (s : State) : Out := .next (int2 d a b (fun x y => satI (x.toInt + y.toInt)) s)

/-- `subs.i` (05 R125). -/
def execSubsI (d a b : Reg) (s : State) : Out := .next (int2 d a b (fun x y => satI (x.toInt - y.toInt)) s)

/-! ### Logic, shifts and bit fields (05 R126, R127) -/

/-- `and` (05 R126). -/
def execAnd (d a b : Reg) (s : State) : Out := .next (bits2 d a b (fun x y => x &&& y) s)

/-- `or` (05 R126). -/
def execOr (d a b : Reg) (s : State) : Out := .next (bits2 d a b (fun x y => x ||| y) s)

/-- `xor` (05 R126). -/
def execXor (d a b : Reg) (s : State) : Out := .next (bits2 d a b (fun x y => x ^^^ y) s)

/-- `andn` (05 R126). -/
def execAndn (d a b : Reg) (s : State) : Out := .next (bits2 d a b (fun x y => x &&& ~~~y) s)

/-- `not` (05 R126). -/
def execNot (d a : Reg) (s : State) : Out := .next (bits1 d a (fun x => ~~~x) s)

/-- `shl` (05 R126, R127). -/
def execShl (d a b : Reg) (s : State) : Out := .next (bits2 d a b shlN s)

/-- `shr` (05 R126, R127). -/
def execShr (d a b : Reg) (s : State) : Out := .next (bits2 d a b shrN s)

/-- `sha` (05 R126, R127). -/
def execSha (d a b : Reg) (s : State) : Out := .next (bits2 d a b shaN s)

/-- `rotl` (05 R126, R127). -/
def execRotl (d a b : Reg) (s : State) : Out := .next (bits2 d a b rotlN s)

/-- `rotr` (05 R126, R127). -/
def execRotr (d a b : Reg) (s : State) : Out := .next (bits2 d a b rotrN s)

/-- `bfe.n` (05 R126, R127). -/
def execBfeN (d a b : Reg) (s : State) : Out := .next (bits2 d a b bfeNv s)

/-- `bfe.i` (05 R126, R127). -/
def execBfeI (d a b : Reg) (s : State) : Out := .next (bits2 d a b bfeIv s)

/-- `bfi` (05 R127). -/
def execBfi (d a b : Reg) (s : State) : Out := .next (bits3 d a b bfiv s)

/-- `popc` (05 R126). -/
def execPopc (d a : Reg) (s : State) : Out := .next (bits1 d a popcv s)

/-- `clz` (05 R126). -/
def execClz (d a : Reg) (s : State) : Out := .next (bits1 d a clzv s)

/-- `ctz` (05 R126). -/
def execCtz (d a : Reg) (s : State) : Out := .next (bits1 d a ctzv s)

/-- `brev` (05 R126). -/
def execBrev (d a : Reg) (s : State) : Out := .next (bits1 d a brevv s)

/-- `dshl` (05 R126). -/
def execDshl (d a b : Reg) (s : State) : Out := .next (bits3 d a b dshlv s)

/-- `dshr` (05 R126). -/
def execDshr (d a b : Reg) (s : State) : Out := .next (bits3 d a b dshrv s)

/-- `dsha` (05 R126). -/
def execDsha (d a b : Reg) (s : State) : Out := .next (bits3 d a b dshav s)

/-! ### Comparisons and addresses (05 R128, R129) -/

/-- `eq`: bit patterns (05 R128). -/
def execEq (d a b : Reg) (s : State) : Out := .next (bits2 d a b (fun x y => flag (x == y)) s)

/-- `ne` (05 R128). -/
def execNe (d a b : Reg) (s : State) : Out := .next (bits2 d a b (fun x y => flag (x != y)) s)

/-- `lt.i` (05 R128). -/
def execLtI (d a b : Reg) (s : State) : Out := .next (int2 d a b (fun x y => flag (decide (x.toInt < y.toInt))) s)

/-- `le.i` (05 R128). -/
def execLeI (d a b : Reg) (s : State) : Out := .next (int2 d a b (fun x y => flag (decide (x.toInt ≤ y.toInt))) s)

/-- `lt.n` (05 R128). -/
def execLtN (d a b : Reg) (s : State) : Out := .next (int2 d a b (fun x y => flag (decide (x.toNat < y.toNat))) s)

/-- `le.n` (05 R128). -/
def execLeN (d a b : Reg) (s : State) : Out := .next (int2 d a b (fun x y => flag (decide (x.toNat ≤ y.toNat))) s)

/-- `eq64` (05 R128). -/
def execEq64 (d a b : Reg) (s : State) : Out := .next (cmp64 d a b .any (fun x y => x == y) s)

/-- `ne64` (05 R128). -/
def execNe64 (d a b : Reg) (s : State) : Out := .next (cmp64 d a b .any (fun x y => x != y) s)

/-- `lt64.i` (05 R128). -/
def execLt64I (d a b : Reg) (s : State) : Out := .next (cmp64 d a b .int64 (fun x y => decide (x.toInt < y.toInt)) s)

/-- `lt64.n` (05 R128). -/
def execLt64N (d a b : Reg) (s : State) : Out := .next (cmp64 d a b .int64 (fun x y => decide (x.toNat < y.toNat)) s)

/-- `lea`: index sign-extended (05 R129). -/
def execLea (d a b : Reg) (x : BitVec 3) (s : State) : Out := .next (leaOp d a b x (fun i => i.signExtend 64) s)

/-- `lea.n`: index zero-extended (05 R129). -/
def execLeaN (d a b : Reg) (x : BitVec 3) (s : State) : Out := .next (leaOp d a b x (fun i => i.setWidth 64) s)

/-! ### Immediate forms (05 R130, R131) -/

/-- `addi` (05 R130). -/
def execAddi (d a : Reg) (j : BitVec 12) (s : State) : Out := .next (immOp .int d a (fun h => h.immS j) (fun x i => x + i) s)

/-- `andi` (05 R130). -/
def execAndi (d a : Reg) (j : BitVec 12) (s : State) : Out := .next (immOp .any d a (fun h => h.immZ j) (fun x i => x &&& i) s)

/-- `ori` (05 R130). -/
def execOri (d a : Reg) (j : BitVec 12) (s : State) : Out := .next (immOp .any d a (fun h => h.immZ j) (fun x i => x ||| i) s)

/-- `xori` (05 R130). -/
def execXori (d a : Reg) (j : BitVec 12) (s : State) : Out := .next (immOp .any d a (fun h => h.immZ j) (fun x i => x ^^^ i) s)

/-- `shi.shl` (05 R131). -/
def execShiShl (d a : Reg) (n : BitVec 5) (s : State) : Out := .next (immOp .any d a (fun _ => n.setWidth 32) shlN s)

/-- `shi.shr` (05 R131). -/
def execShiShr (d a : Reg) (n : BitVec 5) (s : State) : Out := .next (immOp .any d a (fun _ => n.setWidth 32) shrN s)

/-- `shi.sha` (05 R131). -/
def execShiSha (d a : Reg) (n : BitVec 5) (s : State) : Out := .next (immOp .any d a (fun _ => n.setWidth 32) shaN s)

/-- `shi.rotl` (05 R131). -/
def execShiRotl (d a : Reg) (n : BitVec 5) (s : State) : Out := .next (immOp .any d a (fun _ => n.setWidth 32) rotlN s)

/-- `cmpi.eq` (05 R131). -/
def execCmpiEq (d a : Reg) (v : BitVec 9) (s : State) : Out := .next (immOp .any d a (fun _ => v.signExtend 32) (fun x y => flag (x == y)) s)

/-- `cmpi.ne` (05 R131). -/
def execCmpiNe (d a : Reg) (v : BitVec 9) (s : State) : Out := .next (immOp .any d a (fun _ => v.signExtend 32) (fun x y => flag (x != y)) s)

/-- `cmpi.lt.i` (05 R131). -/
def execCmpiLtI (d a : Reg) (v : BitVec 9) (s : State) : Out := .next (immOp .int d a (fun _ => v.signExtend 32) (fun x y => flag (decide (x.toInt < y.toInt))) s)

/-- `cmpi.le.i` (05 R131). -/
def execCmpiLeI (d a : Reg) (v : BitVec 9) (s : State) : Out := .next (immOp .int d a (fun _ => v.signExtend 32) (fun x y => flag (decide (x.toInt ≤ y.toInt))) s)

/-- `cmpi.lt.n` (05 R131). -/
def execCmpiLtN (d a : Reg) (v : BitVec 9) (s : State) : Out := .next (immOp .int d a (fun _ => v.setWidth 32) (fun x y => flag (decide (x.toNat < y.toNat))) s)

/-- `cmpi.le.n` (05 R131). -/
def execCmpiLeN (d a : Reg) (v : BitVec 9) (s : State) : Out := .next (immOp .int d a (fun _ => v.setWidth 32) (fun x y => flag (decide (x.toNat ≤ y.toNat))) s)

/-- `muli` (05 R130). -/
def execMuli (d a : Reg) (j : BitVec 12) (s : State) : Out := .next (immOp .int d a (fun h => h.immS j) (fun x i => x * i) s)

/-- `leai`: pair(a) + sext(i, 64) (05 R130). -/
def execLeai (d a : Reg) (j : BitVec 12) (s : State) : Out := .next (regWord (fun _ => { named := pairNames d ++ pairNames a, reads := [(.int64, a)] }) (fun _ => false) false
    (fun h _ t => t.setPair d (t.pair a + (h.immS j).signExtend 64) .x64) s)

end Sys2Proof.Machine
end

