-- ==== Sys2Proof/Machine/Atomic.lean ====
section
/-!
DEFINITION. Atomics (10 R212 to R218, 09 R204 to R207): where they execute, batches in ascending lane order, deltas, claims of
deterministic launches, and their completion.
-/
namespace Sys2Proof.Machine

/-! ### Functions -/

/-- f(old, x) of R214, of R331 for `dadd`, and of R216 with x the new value and e the expected one. -/
def atomValue (f : AtomFn) (old x e : Pair) : Pair :=
  let o := loWord old
  let y := loWord x
  match f with
  | .add => (o + y).setWidth 64
  | .sub => (o - y).setWidth 64
  | .and => (o &&& y).setWidth 64
  | .or => (o ||| y).setWidth 64
  | .xor => (o ^^^ y).setWidth 64
  | .minI => (minI o y).setWidth 64
  | .maxI => (maxI o y).setWidth 64
  | .minN => (minN o y).setWidth 64
  | .maxN => (maxN o y).setWidth 64
  | .xchg => y.setWidth 64
  | .incw => if y.toNat ≤ o.toNat then 0 else (o + 1).setWidth 64
  | .decw => if o = 0 ∨ y.toNat < o.toNat then y.setWidth 64 else (o - 1).setWidth 64
  | .fadd => (w32 (f32.add 0 false o.toNat y.toNat)).setWidth 64
  | .add64 => old + x
  | .xchg64 => x
  | .dadd => w64 (f64.add 0 false old.toNat x.toNat)
  | .cas => if o = loWord e then y.setWidth 64 else o.setWidth 64
  | .cas64 => if old = e then x else old

/-- An atomic writes its location: a compare-and-swap only where it finds the value that it expects (10 R216; assumption 96). -/
def AtomFn.writes (f : AtomFn) (old e : Pair) : Bool :=
  match f with
  | .cas => loWord old == loWord e
  | .cas64 => old == e
  | _ => true

/-- The add-type operations (09 R206). -/
def AtomFn.addType (f : AtomFn) : Bool := f == .add || f == .sub || f == .add64

/-- What an add-type operation adds (09 R206). -/
def AtomFn.delta (f : AtomFn) (x : Pair) : Delta :=
  match f with
  | .add64 => { wide := true, val := x }
  | .sub => { wide := false, val := (0 - loWord x).setWidth 64 }
  | _ => { wide := false, val := (loWord x).setWidth 64 }

/-- The code that a request carries in OP: the fn of the atomic; the model's own for `cas` (16) and `cas64` (17). -/
def AtomFn.code (f : AtomFn) : Nat :=
  match f with
  | .add => 0 | .sub => 1 | .and => 2 | .or => 3 | .xor => 4 | .minI => 5 | .maxI => 6 | .minN => 7 | .maxN => 8
  | .xchg => 9 | .incw => 10 | .decw => 11 | .fadd => 12 | .add64 => 13 | .xchg64 => 14 | .dadd => 15 | .cas => 16
  | .cas64 => 17

/-- The function of a code. -/
def AtomFn.ofCode (n : Nat) : AtomFn :=
  match n with
  | 0 => .add | 1 => .sub | 2 => .and | 3 => .or | 4 => .xor | 5 => .minI | 6 => .maxI | 7 => .minN | 8 => .maxN
  | 9 => .xchg | 10 => .incw | 11 => .decw | 12 => .fadd | 13 => .add64 | 14 => .xchg64 | 15 => .dadd | 16 => .cas
  | _ => .cas64

/-- Whether an atomic is ordered in deterministic mode (10 R217). -/
def orderedAtomic (ret : Bool) (f : AtomFn) : Bool := ret || f == .xchg || f == .incw || f == .decw || f == .xchg64

/-! ### Where atomics execute (09 R204, 10 R217) -/

/-- The place of an atomic. -/
def atomPlace (det : Bool) (level : Nat) (a : Access) : Place :=
  if a.peer.isSome then .peer
  else if det then .home
  else
    match level with
    | 0 => .l1
    | 1 => .slice
    | _ => .home

/-! ### Claims of deterministic launches (10 R218) -/

/-- Checks and updates the claim of a launch on a line: the claim's U where the atomic raises 0x0A01. -/
def State.claimCheck (s : State) (line slot : Nat) (launch : Word) (u g : Nat) (ordered : Bool) : State × Option Nat :=
  match s.claims.find? (fun c => c.line == line && c.slot == slot && c.launch == launch) with
  | none =>
    -- the claims of a launch that has ended are erased, and none is made for what it left in flight
    if (s.obj? slot launch).any Obj.ended then (s, none)
    else ({ s with claims := s.claims ++ [{ line := line, launch := launch, slot := slot, u := u, group := g, ord := ordered }] }, none)
  | some c =>
    let put := fun (d : Claim) => ({ s with claims := s.claims.map (fun x => if x = c then d else x) } : State)
    if c.u ≠ u then (s, some c.u)
    else if c.group = g then
      if !ordered then (s, none)
      else if c.mg then (s, some c.u)
      else (put { c with ord := true }, none)
    else if ordered || c.ord then (s, some c.u)
    else (put { c with mg := true }, none)

/-! ### Applying one atomic at its place -/

/-- Applies an atomic at the home of its line: the old value. -/
def State.atomHome (s : State) (loc : Nat) (f : AtomFn) (x e : Pair) : State × Pair :=
  let old : Pair := BitVec.ofNat 64 (s.homeNat loc f.size)
  (s.homeWrite loc (leBytes f.size (atomValue f old x e).toNat), old)

/-- Writes home the deltas of an aligned word pair that have another width than the one that arrives (09 R206). -/
def State.pushMixed (s : State) (die line pair : Nat) (wide : Bool) : State :=
  let l := s.remoteLine die line
  let mixed := (l.deltas.filter (fun p => p.1 / 8 * 8 == pair && p.2.wide != wide))
  if mixed.isEmpty then s
  else
    let here := l.deltas.filter (fun p => p.1 / 8 * 8 == pair)
    let view := l.view pair 8
    let s1 := here.foldl (fun s p => s.homeAdd (line * 128 + p.1) p.2) s
    s1.setRemote die line { l with copy := Memory.writeBytes l.copy pair view,
                                   deltas := l.deltas.filter (fun p => p.1 / 8 * 8 != pair) }

/-- An add-type atomic on a line whose home is on another die: the die's view, and its delta grown (09 R206). -/
def State.atomDelta (s : State) (die loc : Nat) (f : AtomFn) (x : Pair) : State × Pair :=
  let line := lineOf loc
  let off := loc % 128
  let d := f.delta x
  let s := (s.remoteFetch die line).pushMixed die line (off / 8 * 8) d.wide
  let l := s.remoteLine die line
  let old : Pair := BitVec.ofNat 64 (leNat (l.view off f.size))
  let was := Sparse.get { wide := d.wide, val := 0 } l.deltas off
  let sum := if d.wide then was.val + d.val else (loWord was.val + loWord d.val).setWidth 64
  (s.setRemote die line { l with deltas := Sparse.set { wide := d.wide, val := 0 } l.deltas off { wide := d.wide, val := sum } }, old)

/-- Any other atomic on a line whose home is on another die: on the die's copy, as dirty bytes; a delta is first folded in
and written home (09 R207). -/
def State.atomCopy (s : State) (die loc : Nat) (f : AtomFn) (x e : Pair) : State × Pair :=
  let line := lineOf loc
  let off := loc % 128
  let s := (s.remoteFetch die line).foldDeltas die line off f.size
  let old : Pair := BitVec.ofNat 64 (leNat ((s.remoteLine die line).view off f.size))
  (if f.writes old e then s.remoteStore die loc (leBytes f.size (atomValue f old x e).toNat) else s, old)

/-- Fetches the line of a core-scope atomic into the L1 if it is absent; the L2 keeps it too as the cache policy directs, and under a policy
that allocates none in the L1 it goes as its pin is released (09 R204, 03 R69). -/
def State.fetchL1 (s : State) (core loc pol : Nat) : State :=
  if (s.l1Line? core loc).isSome then s
  else
    let r := s.l2ReadBy (dieOf core) (lineOf loc * 128) 128 pol
    let s := r.1.l1Fill core loc r.2 none 128 false
    if pol = 0 || pol = 4 then s
    else
      match s.l1Line? core loc with
      | none => s
      | some l => s.mapCore core (fun c => { c with l1 := Sparse.put c.l1 (lineOf loc) { l with doomed := true } })

/-- An atomic in the issuing core's L1, on the line pinned for it (09 R204). -/
def State.atomL1 (s : State) (core loc pol : Nat) (f : AtomFn) (x e : Pair) : State × Pair × Pair :=
  let s := s.fetchL1 core loc pol
  let old : Pair := BitVec.ofNat 64 (leNat (match s.l1Line? core loc with
    | some l => Memory.readBytes l.copy (loc % 128) f.size
    | none => []))
  let new := atomValue f old x e
  ((if f.writes old e then s.l1Store core loc (leBytes f.size new.toNat) else s).l1Pin core loc, old, new)

/-- The words of a value of a size. -/
def valueWords (n : Nat) (v : Pair) : List Word := if n = 8 then [loWord v, hiWord v] else [loWord v]

/-- The sixteen bytes by which a request names its operation: the launch, U, the group, and of a word that sends `count` requests its lane,
that count and the word's name, so that the home can serve them as one, with whether it waits or makes claims as deterministic mode does
(10 R212, R218, 12 R263, R287; the layout is the model's). -/
def wordOperands (o : Op) (flags count : Nat) : List Byte :=
  let det := match o.kind with
    | .load _ _ _ => o.detM
    | .status _ _ => o.detM
    | _ => o.claims
  leBytes 4 o.launch.toNat ++ leBytes 4 o.uix ++ leBytes 4 (o.group % 2 ^ 16 + o.lane * 2 ^ 16 + (count - 1) * 2 ^ 24) ++
    leBytes 4 ((if det then 1 else 0) + 2 * flags + o.batch % 2 ^ 29 * 8)

/-- The operands that a request of an atomic carries (14 R320): x, e, and whether it is ordered. -/
def atomOperands (o : Op) (x e : Pair) (ordered : Bool) (count : Nat) : List Byte :=
  leBytes 8 x.toNat ++ leBytes 8 e.toNat ++ wordOperands o (if ordered then 1 else 0) count

/-- One atomic of a batch of n is applied at its place. -/
def State.applyAtomic (n : Nat) (s : State) (o : Op) : State :=
  match o.kind with
  | .atomic a f x e place ordered =>
    let before := s
    let served := fun (s : State) (old : Pair) =>
      (if f.writes old e then s.notedFrom before o.writer o.core a.loc (leBytes f.size (atomValue f old x e).toNat) else s).mapOp o.id
        (fun p => { p with served := true, data := valueWords f.size old })
    match place with
    | .l1 =>
      let r := s.atomL1 o.core a.loc a.pol f x e
      ((served r.1 r.2.1).mapOp o.id (fun p =>
        { p with kind := .atomic { a with w := f.writes r.2.1 e } f r.2.2 e place ordered, mark := some s.nextId })).bump
    | .slice =>
      let die := dieOf o.core
      let s := s.l1Give o.core a.loc
      let r := if homeDie a.loc = die then s.atomHome a.loc f x e
        else if f.addType then s.atomDelta die a.loc f x
        else s.atomCopy die a.loc f x e
      served r.1 r.2
    | .home =>
      let c := if o.claims then s.claimCheck (lineOf a.loc) o.claimSlot o.launch o.uix o.group ordered else (s, none)
      match c.2 with
      | some u =>
        c.1.mapOp o.id (fun p => { p with served := true, fault := some (0x0A01, a.va, BitVec.ofNat 32 u) })
      | none =>
        let r := ((c.1.l1Give o.core a.loc).dropRemote (dieOf o.core) (lineOf a.loc)).atomHome a.loc f x e
        served r.1 r.2
    | .peer =>
      match a.peer with
      | none => s
      | some d =>
        if s.awaits o.id then s
        else ((s.l1Give o.core a.loc).dropRemote (dieOf o.core) (lineOf a.loc)).request o d (peerAddr a.loc)
          (if o.word.toNat / 2 ^ 26 = 0x33 then 6 else if o.dsts.isEmpty then 4 else 3) f.code f.size (atomOperands o x e ordered n) 0
  | _ => s

/-! ### Batches (10 R212) -/

/-- The place of an atomic, told apart from every other place. -/
def Op.placeKey (o : Op) : Option (Nat × Nat × Nat) :=
  match o.kind with
  | .atomic a _ _ _ .l1 _ => some (0, o.core, a.loc * 0)
  | .atomic a _ _ _ .slice _ => some (1, dieOf o.core, homeSlice a.loc)
  | .atomic a _ _ _ .home _ => some (2, homeDie a.loc, homeSlice a.loc)
  | .atomic a _ _ _ .peer _ => some (3, a.loc / Config.placeSpan, homeDie (peerAddr a.loc) * 24 + homeSlice (peerAddr a.loc))
  | _ => none

/-- The batch of an atomic: the atomics of its word that execute at its place, in ascending lane order. -/
def State.batchOf (s : State) (o : Op) : List Op :=
  s.ops.filter (fun p => (p.id == o.id || (p.batch == o.batch && p.batch != 0)) && p.placeKey == o.placeKey && !p.served)

/-- A batch may be applied: every member has room before it in its thread's order. -/
def State.batchFree (s : State) (o : Op) : Bool :=
  !o.served && (s.batchOf o).all (fun p => !s.heldByAcquire p && !s.heldByOrder p)

/-- The half-sectors that an atomic reads at its place fail their check (16 R375). -/
def State.atomBad (s : State) (o : Op) : Bool :=
  match o.kind with
  | .atomic a f _ _ .l1 _ => s.l1Bad o.core a.loc f.size
  | .atomic a f _ _ .slice _ => s.l2Bad (dieOf o.core) a.loc f.size
  | .atomic a f _ _ .home _ => s.homeBad a.loc f.size
  | _ => false

/-- A batch arrives at its place and is applied in ascending lane order, with no access between its members (10 R212). `bad` says that the
data it reads has an uncorrectable error (01 R33), which a failed check of a code is too. -/
def State.applyBatch (s : State) (o : Op) (bad : Bool) : State :=
  if o.placeKey.isNone || !s.batchFree o then s
  else if bad || (s.batchOf o).any s.atomBad then
    (s.batchOf o).foldl (fun s p => match p.kind with
      | .atomic a _ _ _ _ _ => s.opError p a.loc a.va
      | _ => s) s
  else (s.batchOf o).foldl (State.applyAtomic (s.batchOf o).length) s

/-- A core-scope atomic whose L1 applied an overlapping one before it: the write-throughs keep that order. -/
def State.writesAfter (s : State) (o : Op) : Bool :=
  s.ops.any (fun p => p.id != o.id && p.core == o.core && p.served && !p.arrived && p.overlaps o &&
    (match p.kind with | .atomic _ _ _ _ .l1 _ => decide (p.mark.getD 0 < o.mark.getD 0) | _ => false))

/-- An atomic completes: its old value and tag stand in the destination, or its result is applied; one in the L1 when its
write-through has completed, in the order in which the L1 applied them; a compare-and-swap that found another value wrote nothing (10 R213,
R216, 09 R204). No member completes before the whole batch
is applied. -/
def execAtomicComplete (op : Nat) (s : State) : Out :=
  match s.op? op with
  | none => .next s
  | some o =>
    if !o.served || o.arrived then .next s
    else
      match o.kind with
      | .atomic a f x _ .l1 _ =>
        if s.writesAfter o then .next s
        else
          let s := if a.w then s.l2Write (dieOf o.core) a.loc (leBytes f.size x.toNat) else s
          let s := if s.ops.any (fun p => p.id != op && p.core == o.core && p.served && !p.arrived &&
              (match p.kind with | .atomic b _ _ _ .l1 _ => lineOf b.loc == lineOf a.loc | _ => false)) then s
            else s.l1Unpin o.core a.loc
          .next (s.arrive op id)
      | .atomic _ _ _ _ _ _ => .next (s.arrive op id)
      | _ => .next s

/-! ### Issue (10 R213 to R217) -/

/-- The class that an operand is read through (10 R214, R216). -/
def AtomFn.cls (f : AtomFn) : Cls :=
  match f with
  | .fadd => .f32
  | .add64 => .int64
  | .and | .or | .xor | .xchg | .xchg64 | .cas | .cas64 => .any
  | _ => .int

/-- The tag of an old value (10 R214, R216). -/
def AtomFn.oldTag (f : AtomFn) : Tag := if f == .fadd then .f32 else if f.size = 8 then .x64 else .int

/-- The registers of an operand. -/
def AtomFn.regs (f : AtomFn) (r : Reg) : List Reg := if f.size = 8 then pairRegs r else [r]

/-- The value of an operand. -/
def Thread.operand (t : Thread) (frac : Nat) (f : AtomFn) (r : Reg) : Pair :=
  if f.size = 8 then t.pair r else (t.rd frac f.cls r).setWidth 64

/-- The issue of an atomic: `ret` for the forms that return the old value to d. -/
def atomOp (ret : Bool) (f : AtomFn) (d a b : Reg) (s : State) : State :=
  let swap := f == .cas || f == .cas64
  let ctr : Ctr := if ret then .ld else .st
  let ordered := orderedAtomic ret f
  issue ({
    shape := fun h => { named := (if ret then namesOf (f.regs d) else []) ++ pairNames a ++ namesOf (f.regs b) ++ (if swap then namesOf (f.regs h.c) else []),
                        reads := [(.int64, a), (f.cls, b)] },
    illegal := fun h => f == .cas64 && h.c.toNat % 2 == 1,
    hx := swap,
    pre := fun s c t =>
      if t.full ctr then (s, .error (.leave (.room ctr)))
      else
        let own : Option FaultInfo := if t.modeD && (f == .fadd || (ordered && !c.st.blk.gath))
          then some { code := 0x0A01, addr := t.pair a, aux := 0xFFFFFFFF } else none
        s.globalAccess t (t.pair a) f.size c.hints.pol own needStore
    act := eachThread (fun s c t acc =>
      let y := t.operand ((s.fieldFrac t).getD 0) f b
      let n := t.operand 0 f c.hints.c
      let place := atomPlace t.modeD (s.scopeLevel (s.slotOf t) t.core c.hints.scope) acc
      let o := s.newOp c t ctr (.atomic acc f (if swap then n else y) (if swap then y else 0) place ordered)
      (s.addOp { o with dsts := if ret then f.regs d else [], tag := f.oldTag }, .go)) }) s


/-- `atom.add` (10 R214). -/
def execAtomAdd (d a b : Reg) (s : State) : Out := .next (atomOp true .add d a b s)

/-- `atom.sub` (10 R214). -/
def execAtomSub (d a b : Reg) (s : State) : Out := .next (atomOp true .sub d a b s)

/-- `atom.and` (10 R214). -/
def execAtomAnd (d a b : Reg) (s : State) : Out := .next (atomOp true .and d a b s)

/-- `atom.or` (10 R214). -/
def execAtomOr (d a b : Reg) (s : State) : Out := .next (atomOp true .or d a b s)

/-- `atom.xor` (10 R214). -/
def execAtomXor (d a b : Reg) (s : State) : Out := .next (atomOp true .xor d a b s)

/-- `atom.min.i` (10 R214). -/
def execAtomMinI (d a b : Reg) (s : State) : Out := .next (atomOp true .minI d a b s)

/-- `atom.max.i` (10 R214). -/
def execAtomMaxI (d a b : Reg) (s : State) : Out := .next (atomOp true .maxI d a b s)

/-- `atom.min.n` (10 R214). -/
def execAtomMinN (d a b : Reg) (s : State) : Out := .next (atomOp true .minN d a b s)

/-- `atom.max.n` (10 R214). -/
def execAtomMaxN (d a b : Reg) (s : State) : Out := .next (atomOp true .maxN d a b s)

/-- `atom.xchg` (10 R214). -/
def execAtomXchg (d a b : Reg) (s : State) : Out := .next (atomOp true .xchg d a b s)

/-- `atom.incw` (10 R214). -/
def execAtomIncw (d a b : Reg) (s : State) : Out := .next (atomOp true .incw d a b s)

/-- `atom.decw` (10 R214). -/
def execAtomDecw (d a b : Reg) (s : State) : Out := .next (atomOp true .decw d a b s)

/-- `atom.fadd` (10 R214). -/
def execAtomFadd (d a b : Reg) (s : State) : Out := .next (atomOp true .fadd d a b s)

/-- `atom.add64` (10 R214). -/
def execAtomAdd64 (d a b : Reg) (s : State) : Out := .next (atomOp true .add64 d a b s)

/-- `atom.xchg64` (10 R214). -/
def execAtomXchg64 (d a b : Reg) (s : State) : Out := .next (atomOp true .xchg64 d a b s)

/-- `atomn.add` (10 R214). -/
def execAtomnAdd (a b : Reg) (s : State) : Out := .next (atomOp false .add 0 a b s)

/-- `atomn.sub` (10 R214). -/
def execAtomnSub (a b : Reg) (s : State) : Out := .next (atomOp false .sub 0 a b s)

/-- `atomn.and` (10 R214). -/
def execAtomnAnd (a b : Reg) (s : State) : Out := .next (atomOp false .and 0 a b s)

/-- `atomn.or` (10 R214). -/
def execAtomnOr (a b : Reg) (s : State) : Out := .next (atomOp false .or 0 a b s)

/-- `atomn.xor` (10 R214). -/
def execAtomnXor (a b : Reg) (s : State) : Out := .next (atomOp false .xor 0 a b s)

/-- `atomn.min.i` (10 R214). -/
def execAtomnMinI (a b : Reg) (s : State) : Out := .next (atomOp false .minI 0 a b s)

/-- `atomn.max.i` (10 R214). -/
def execAtomnMaxI (a b : Reg) (s : State) : Out := .next (atomOp false .maxI 0 a b s)

/-- `atomn.min.n` (10 R214). -/
def execAtomnMinN (a b : Reg) (s : State) : Out := .next (atomOp false .minN 0 a b s)

/-- `atomn.max.n` (10 R214). -/
def execAtomnMaxN (a b : Reg) (s : State) : Out := .next (atomOp false .maxN 0 a b s)

/-- `atomn.xchg` (10 R214). -/
def execAtomnXchg (a b : Reg) (s : State) : Out := .next (atomOp false .xchg 0 a b s)

/-- `atomn.incw` (10 R214). -/
def execAtomnIncw (a b : Reg) (s : State) : Out := .next (atomOp false .incw 0 a b s)

/-- `atomn.decw` (10 R214). -/
def execAtomnDecw (a b : Reg) (s : State) : Out := .next (atomOp false .decw 0 a b s)

/-- `atomn.fadd` (10 R214). -/
def execAtomnFadd (a b : Reg) (s : State) : Out := .next (atomOp false .fadd 0 a b s)

/-- `atomn.add64` (10 R214). -/
def execAtomnAdd64 (a b : Reg) (s : State) : Out := .next (atomOp false .add64 0 a b s)

/-- `atomn.xchg64` (10 R214). -/
def execAtomnXchg64 (a b : Reg) (s : State) : Out := .next (atomOp false .xchg64 0 a b s)

/-- `cas` (10 R216). -/
def execCas (d a b : Reg) (s : State) : Out := .next (atomOp true .cas d a b s)

/-- `cas64` (10 R216). -/
def execCas64 (d a b : Reg) (s : State) : Out := .next (atomOp true .cas64 d a b s)

end Sys2Proof.Machine
end

