-- ==== Sys2Proof/Machine/Append.lean ====
section
/-!
DEFINITION. Append-seal pages (12): the page record at the tail slice, appends, seals, frees and `aopen`; reads of such pages
and the replicas in the hampers of dies.
-/
namespace Sys2Proof.Machine

/-! ### Page records (12 R261, R264, R275) -/

/-- The record of a page. -/
def State.page? (s : State) (p : Nat) : Option PageRec := Sparse.find s.pages p

/-- Writes a page record. -/
def State.setPage (s : State) (p : Nat) (r : PageRec) : State := { s with pages := Sparse.put s.pages p r }

/-- Changes a page record. -/
def State.mapPage (s : State) (p : Nat) (f : PageRec → PageRec) : State :=
  match s.page? p with
  | none => s
  | some r => s.setPage p (f r)

/-- Removes a page record. -/
def State.erasePage (s : State) (p : Nat) : State := { s with pages := Sparse.erase s.pages p }

/-- PW: a reserved byte is not yet written (12 R261). -/
def PageRec.pw (r : PageRec) : Bool := !r.reserved.isEmpty

/-- The fill mark F (12 R261). -/
def PageRec.fill (r : PageRec) : Nat := (r.reserved.map (fun x => x.1)).foldl Nat.min r.tail

/-- The code of a state in ST (12 R275). -/
def PageState.code (x : PageState) : Nat :=
  match x with
  | .opened => 1 | .sealed => 2 | .freeing => 3

/-- The status word of `astate` (12 R275). -/
def statusWord (r : Option PageRec) : Word :=
  match r with
  | none => 0
  | some r => BitVec.ofNat 32 (r.state.code * 2 ^ 30 + (if r.size = 2 ^ 21 then 2 ^ 29 else 0) + (if r.pw then 2 ^ 28 else 0) + r.tail)

/-- The value of `atail` (12 R264). -/
def tailWord (r : Option PageRec) : Word :=
  match r with
  | none => 0
  | some r =>
    match r.state with
    | .opened => BitVec.ofNat 32 r.fill
    | .sealed => BitVec.ofNat 32 r.tail
    | .freeing => 0

/-- The auxiliary word of 0x0704 (12 R286). -/
def stateAux (cw szm : Bool) (r : Option PageRec) : Word :=
  BitVec.ofNat 32 ((if cw then 256 else 0) + (if szm then 16 else 0) + (match r with | some r => r.state.code | none => 0))

/-- T as a fault reports it: 0 for a FREEING page (12 R286). -/
def PageRec.tailAux (r : PageRec) : Word := if r.state = .freeing then 0 else BitVec.ofNat 32 r.tail

/-- The page that an operation of major 0x31 acts on. -/
def Op.asealAccess (o : Op) : Option Access :=
  match o.kind with
  | .append a _ _ => some a
  | .seal a => some a
  | .free a => some a
  | .aopen a _ => some a
  | .status a _ => some a
  | _ => none

/-- The place of that page. -/
def Op.asealPage (o : Op) : Option Nat := o.asealAccess.map (fun a => a.pageLoc)

/-- An operation of the same thread on the same page, or of a lower lane of its word, has still to be served (12 R263). -/
def State.heldByPage (s : State) (o : Op) (lanes : Bool) : Bool :=
  (s.ops.takeWhile (fun p => p.id != o.id)).any (fun p =>
    p.asealPage == o.asealPage && !p.served && !p.arrived &&
      ((p.tid == o.tid && p.tid != 0) || (lanes && p.batch == o.batch && p.batch != 0)))

/-- The operation may be served now. -/
def State.mayServe (s : State) (o : Op) (lanes : Bool) : Bool :=
  !o.served && !o.arrived && !s.heldByAcquire o && !s.heldByPage o lanes

/-- The claim check of a deterministic append, seal or free: the claim's U where it raises 0x0A01 (12 R287). What a launch that has ended
left in flight makes no claim. -/
def State.pageClaim (s : State) (page : Nat) (r : PageRec) (o : Op) : State × Option Nat :=
  if !o.claims || (s.obj? o.claimSlot o.launch).any Obj.ended then (s, none)
  else
    match r.claims.find? (fun c => c.1 == o.claimSlot && c.2.1 == o.launch) with
    | none => (s.setPage page { r with claims := r.claims ++ [(o.claimSlot, o.launch, o.uix, o.group)] }, none)
    | some (_, _, u, g) => if u = o.uix ∧ g = o.group then (s, none) else (s, some u)

/-! ### Operations at a peer's tail slice (12 R266) -/

/-- What a request for an append-seal page carries (14 R320): up to four words, the page size, and whether a line of it would be kept. -/
def asealOperands (o : Op) (size : Nat) (ws : List Word) (count : Nat) (keep : Bool) : List Byte :=
  ((List.range 4).flatMap (fun i => leBytes 4 (ws.getD i 0).toNat)) ++
    wordOperands o ((if size = 2 ^ 21 then 1 else 0) + (if keep then 2 else 0)) count

/-- Sends an operation to the peer that homes its page: OP is the fn of the word. The operations of its word on the page arrive there as
one (12 R263). -/
def State.askTail (s : State) (o : Op) (a : Access) (dev fn : Nat) (ws : List Word) : State :=
  let word := s.ops.filter (fun p => p.id == o.id || (p.batch == o.batch && p.batch != 0 && p.asealPage == o.asealPage))
  (s.mapOp o.id (fun p => { p with served := true })).request o dev (peerAddr a.pageLoc) 9 fn 32
    (asealOperands o a.pageSize ws word.length false) 0

/-- Reads bytes of an append-seal page at the peer that homes it; the die keeps the line that comes where its hamper can hold the page
(12 R279). -/
def State.askRead (s : State) (o : Op) (a : Access) (dev n pos : Nat) : State :=
  s.request o dev (peerAddr a.loc) 1 2 n
    (asealOperands o a.pageSize [BitVec.ofNat 32 n] 1 (decide (a.pageSize ≤ (s.die (dieOf o.core)).hpSize * 2 ^ 21))) pos

/-! ### Appends (12 R267) -/

/-- Serves one member of a batch at the tail slice. -/
def State.serveAppend (s : State) (o : Op) : State :=
  match o.kind with
  | .append a ws _ =>
    let z := 4 * ws.length
    let p := a.pageLoc
    (match s.page? p with
     | none => s.arriveFault o.id 0x0704 a.va (stateAux false false none)
     | some r =>
       if r.size ≠ a.pageSize then s.arriveFault o.id 0x0704 a.va (stateAux false true (some r))
       else
         match s.pageClaim p r o with
         | (s, some u) => s.arriveFault o.id 0x0A01 a.va (BitVec.ofNat 32 u)
         | (s, none) =>
           if r.state ≠ .opened then s.arriveFault o.id 0x0701 a.va r.tailAux
           else
             let off := (r.tail + z - 1) / z * z
             if r.size < off + z then s.arriveFault o.id 0x0703 a.va (BitVec.ofNat 32 r.tail)
             else
               (((s.homeWrite (p + r.tail) (List.replicate (off - r.tail) 0)).mapPage p (fun r =>
                 { r with tail := off + z, reserved := r.reserved ++ [(off, z)] })).mapOp o.id (fun q =>
                   { q with served := true, kind := .append a ws (some off) })))
  | _ => s

/-- The members of the batch of an append: the appends of its word to its page. -/
def State.appendBatch (s : State) (o : Op) : List Op :=
  s.ops.filter (fun p => (match p.kind with | .append _ _ none => true | _ => false) && !p.served && !p.arrived &&
    p.asealPage == o.asealPage && (p.id == o.id || (p.batch == o.batch && p.batch != 0)))

/-- A batch of appends is served, in ascending lane order (12 R267). `batch` names one of its operations. -/
def execAppendBatchServe (batch : Nat) (s : State) : Out :=
  match s.op? batch with
  | none => .next s
  | some o =>
    match o.kind with
    | .append a _ none =>
      if !(s.appendBatch o).all (fun p => s.mayServe p false) then .next s
      else
        (match a.peer with
         | none => .next ((s.appendBatch o).foldl State.serveAppend s)
         | some d => .next ((s.appendBatch o).foldl (fun s p => match p.kind with
           | .append a ws _ => s.askTail p a d (match ws.length with | 1 => 0 | 2 => 1 | _ => 2) ws
           | _ => s) s))
    | _ => .next s

/-- The data of a reserved member is written at its home; F and PW follow; the append completes (12 R267, R268). -/
def execAppendDataWrite (op : Nat) (s : State) : Out :=
  match s.op? op with
  | none => .next s
  | some o =>
    match o.kind with
    | .append a ws (some off) =>
      if o.arrived then .next s
      else
        .next (((s.homeWrite (a.pageLoc + off) (wordBytes ws)).mapPage a.pageLoc (fun r =>
          { r with reserved := r.reserved.filter (fun x => x != (off, 4 * ws.length)) })).arrive op (fun p =>
            { p with data := [BitVec.ofNat 32 off] }))
    | _ => .next s

/-! ### Replicas (12 R278 to R281) -/

/-- A die drops a replica: its slot is free, and for a page of this module its bit in the home's mask (12 R281). -/
def State.dropReplica (s : State) (die page : Nat) : State :=
  (s.mapDie die (fun d => { d with replicas := d.replicas.filter (fun r => r.page != page) })).mapPage page
    (fun r => { r with repDies := r.repDies.filter (fun d => d != die) })

/-- A die drops every replica that it holds. -/
def State.dropReplicas (s : State) (die : Nat) : State :=
  (s.die die).replicas.foldl (fun s r => s.dropReplica die r.page) s

/-- The lowest free slot for a page of a size in a die's hamper, as an offset that is a multiple of the size. -/
def Die.freeSlot (d : Die) (size : Nat) : Option Nat :=
  let ends := d.replicas.map (fun r => (r.place + r.size + size - 1) / size * size)
  ((0 :: ends).filter (fun x => decide (x + size ≤ d.hpSize * 2 ^ 21) &&
    d.replicas.all (fun r => decide (r.place + r.size ≤ x) || decide (x + size ≤ r.place)))).min?

/-- Makes room for a replica: the least recently used pages go, which stand first, until a slot is free (12 R281). -/
def State.replicaRoom (s : State) (die size n : Nat) : State × Option Nat :=
  match n, (s.die die).freeSlot size, (s.die die).replicas with
  | _, some x, _ => (s, some x)
  | n + 1, none, r :: _ => State.replicaRoom (s.dropReplica die r.page) die size n
  | _, _, _ => (s, none)

/-- The replica of a page in a die's hamper. -/
def State.replica? (s : State) (die page : Nat) : Option Replica := (s.die die).replicas.find? (fun r => r.page == page)


/-- Writes a replica back as the most recently used. -/
def State.setReplica (s : State) (die : Nat) (r : Replica) : State :=
  s.mapDie die (fun d => { d with replicas := d.replicas.filter (fun x => x.page != r.page) ++ [r] })

/-- A die allocates a replica slot and registers at the home (12 R279, R280); none where no slot can be had. -/
def State.newReplica (s : State) (die page size tail : Nat) : State :=
  if (s.die die).hpSize * 2 ^ 21 < size then s
  else
    match s.replicaRoom die size (s.die die).replicas.length with
    | (s, none) => s
    | (s, some x) =>
      (s.setReplica die { page := page, size := size, tail := tail, place := x }).mapPage page
        (fun r => { r with repDies := insertNat r.repDies die })

/-- Where the hamper of a die holds the line of a place of a page: in the die's own memory (12 R278). -/
def State.replicaLine (s : State) (die : Nat) (r : Replica) (loc : Nat) : Nat :=
  (s.die die).hpBase * 2 ^ 21 + r.place + (loc - r.page) / 128 * 128

/-- Puts the line of a place into a die's replica of its page, with its bytes. -/
def State.fillReplica (s : State) (die page loc : Nat) (bytes : List Byte) : State :=
  match s.replica? die page with
  | none => s
  | some r =>
    let line := s.replicaLine die r loc
    let t := (s.setReplica die { r with lines := insertNat r.lines ((loc - page) / 128) }).homeWrite line bytes
    -- the codes travel with the bytes (16 R375)
    { t with codes := (List.range 4).foldl (fun m i => Sparse.set 0 m (line / 32 + i) (Sparse.get 0 s.codes (loc / 32 + i))) t.codes }

/-- What the line of a place of a sealed page says of its codes, as a die reads it: in the replica that holds it, or at its home
(16 R375). -/
def State.sealedCodes (s : State) (die : Nat) (a : Access) : Sparse Half :=
  match (s.replica? die a.pageLoc).filter (fun r => homeDie a.loc != die && r.lines.contains ((a.loc - a.pageLoc) / 128)) with
  | some r => s.homeCodes (lineOf (s.replicaLine die r a.loc))
  | none => s.homeCodes (lineOf a.loc)

/-- n bytes of it fail their check. -/
def State.sealedBad (s : State) (die : Nat) (a : Access) (n : Nat) : Bool := codesBad (s.sealedCodes die a) (a.loc % 128) n

/-- The line of a place that a die's replica of its page holds, where all of [off, off + z) lies below its tail, with the tail. -/
def State.replicaRead (s : State) (die : Nat) (a : Access) (z : Nat) : Option (State × List Byte × Nat) :=
  match s.replica? die a.pageLoc with
  | none => none
  | some r =>
    if r.size ≠ a.pageSize || decide (r.tail < a.loc - a.pageLoc + z) || !r.lines.contains ((a.loc - a.pageLoc) / 128) then none
    else some (s.setReplica die r, s.homeRead (s.replicaLine die r a.loc) 128, r.tail)

/-! ### Reads (12 R270 to R273, R279, R282, R287) -/

/-- What the tail slice says of a read: its bytes are written; it waits there until they are reserved; it is passed to their home, where it
waits until they are written; it faults. -/
inductive Judged where
  | bytes
  | wait
  | passed
  | fault (aux : Word)
  deriving DecidableEq, Repr

/-- A byte of [off, off + z) of a page is reserved and not yet written. -/
def PageRec.unwritten (r : PageRec) (off z : Nat) : Bool := r.reserved.any (fun x => decide (x.1 < off + z) && decide (off < x.1 + x.2))

/-- Judges a read of the bytes [off, off + z) of a page through a translation of a size (12 R271 to R273, R287). -/
def judgeRead (r : Option PageRec) (size off z : Nat) (det : Bool) : Judged :=
  match r with
  | none => .fault 0
  | some r =>
    if r.size ≠ size ∨ r.state = .freeing then .fault r.tailAux
    else if r.tail < off + z then
      if det && r.state == .opened then .wait else .fault (BitVec.ofNat 32 r.tail)
    else if r.unwritten off z then .passed
    else .bytes

/-- A read that the tail slice has passed on waits at the home of its bytes, whatever becomes of the page's state. -/
def judgeHome (r : Option PageRec) (off z : Nat) : Judged :=
  match r with
  | none => .bytes
  | some r => if r.unwritten off z then .passed else .bytes

/-- A read is of a SEALED page with PW = 0 through a translation of its size. -/
def sealedQuiet (r : Option PageRec) (size : Nat) : Bool :=
  match r with
  | some r => r.state == .sealed && !r.pw && r.size == size
  | none => false

/-- The words of a load's value from its bytes: zero- or sign-extended to a register below 4 bytes, otherwise little-endian
words (07 R174, R176). -/
def loadWords (signed : Bool) (bs : List Byte) : List Word :=
  match bs.length with
  | 0 => []
  | 1 => [if signed then (BitVec.ofNat 8 (leNat bs)).signExtend 32 else BitVec.ofNat 32 (leNat bs)]
  | 2 => [if signed then (BitVec.ofNat 16 (leNat bs)).signExtend 32 else BitVec.ofNat 32 (leNat bs)]
  | n => (List.range ((n + 3) / 4)).map (fun i => BitVec.ofNat 32 (leNat ((bs.drop (4 * i)).take 4)))

/-- Fills an L1 with a line of a SEALED page, with its mark (12 R282); no cache policy changes that (03 R70), and a fill that an acquire
has come for is not installed (09 R199). -/
def State.fillSealed (s : State) (o : Op) (a : Access) (line : List Byte) (tail : Nat) : State :=
  if !a.late then
    (s.l1Fill o.core a.loc line (some (a.pageLoc, (s.slot o.slot).cid)) (Nat.min 128 (tail - (a.loc / 128 * 128 - a.pageLoc)))
      a.peer.isSome).mapCore o.core (fun c => match Sparse.find c.l1 (lineOf a.loc) with
        | some l => { c with l1 := Sparse.put c.l1 (lineOf a.loc) { l with pageSize := a.pageSize, codes := s.sealedCodes (dieOf o.core) a } }
        | none => c)
  else s

/-- A read of a SEALED page with PW = 0, missing in the L1, below its tail: the home slice on the home's own die, otherwise a
replica, which fetches the line (12 R279). -/
def State.readSealed (s : State) (die : Nat) (a : Access) (tail : Nat) : State × List Byte :=
  let line := a.loc / 128 * 128
  if homeDie a.loc = die then (s, s.homeRead line 128)
  else
    match s.replicaRead die a 0 with
    | some (s, bs, _) => (s, bs)
    | none =>
      let s := if (s.replica? die a.pageLoc).isSome then s else s.newReplica die a.pageLoc a.pageSize tail
      (s.fillReplica die a.pageLoc line (s.homeRead line 128), s.homeRead line 128)

/-- The L1 line that may serve a load of a sealed page: it carries the page, the size and the context of the access (12 R282). -/
def State.markedLine? (s : State) (o : Op) (a : Access) : Option L1Line :=
  (s.l1Line? o.core a.loc).filter (fun l => l.mark == some (a.pageLoc, (s.slot o.slot).cid) && l.pageSize == a.pageSize &&
    decide (a.loc % 128 + a.z ≤ l.upTo))

/-- The bytes of a load of an append-seal page fail the check of their codes as they are delivered (16 R375). -/
def State.tailBad (s : State) (o : Op) (a : Access) : Bool :=
  if o.origin.isSome || o.served then s.homeBad a.loc a.z
  else
    match s.markedLine? o a with
    | some l => codesBad l.codes (a.loc % 128) a.z
    | none => s.sealedBad (dieOf o.core) a a.z

/-- The bytes of a load that a marked L1 line or a replica serves without asking the tail slice (12 R272, R279): the line carries the page,
the size and the context of the access (R282), the replica its page and size (R262). -/
def State.sealedCopy (s : State) (o : Op) (a : Access) : Option (State × List Byte) :=
  match s.markedLine? o a with
  | some l => some (s, Memory.readBytes l.copy (a.loc % 128) a.z)
  | none => (s.replicaRead (dieOf o.core) a a.z).map (fun r => (r.1.fillSealed o a r.2.1 r.2.2, (r.2.1.drop (a.loc % 128)).take a.z))

/-- A peer takes a slot in the record of a sealed page of which it is sent a line to keep; where all 64 are taken, B is set (12 R280). -/
def PageRec.register (r : PageRec) (dev : Nat) : PageRec :=
  if r.repPeers.contains dev then r
  else if r.repPeers.length < 64 then { r with repPeers := r.repPeers ++ [dev] }
  else { r with repAll := true }

/-- A sealed line is sent with the bytes that a peer reads: the bytes, then T, then the line where the bytes are not all of it; a peer that
will keep the line is registered (12 R279, R280). -/
def State.sendSealed (s : State) (o : Op) (p : Packet) (a : Access) (tail : Nat) : State :=
  let keep := leNat ((p.data.drop 28).take 4) / 4 % 2 == 1
  let ws := loadWords false (s.homeRead a.loc a.z) ++ [BitVec.ofNat 32 tail] ++
    (if a.z < 128 then loadWords false (s.homeRead (a.loc / 128 * 128) 128) else [])
  (if keep then s.mapPage a.pageLoc (fun r => r.register p.src) else s).arrive o.id (fun q => { q with data := ws })

/-- A load of an append-seal page is served: from a copy of a sealed line, at the tail slice and the home, or by a request to
the peer that homes the page. -/
def State.serveTailRead (s : State) (o : Op) : State :=
  match o.kind with
  | .load a signed _ =>
    if a.sp ≠ 0 || a.cls ≠ 2 || !s.freeToAct o || s.awaits o.id then s
    else
      let give := fun (t : State) (bs : List Byte) =>
        if s.tailBad o a then s.opError o a.loc a.va else t.arrive o.id (fun p => { p with data := loadWords signed bs })
      let copy := if o.served || o.origin.isSome then none else s.sealedCopy o a
      (match copy with
       | some r => give r.1 r.2
       | none =>
         match a.peer with
         | some d => s.askRead o a d a.z 0
         | none =>
           let r := s.page? a.pageLoc
           let off := a.loc - a.pageLoc
           match (if o.served then judgeHome r off a.z else judgeRead r a.pageSize off a.z o.detM) with
           | .wait => s
           | .passed => s.mapOp o.id (fun p => { p with served := true })
           | .fault aux => s.arriveFault o.id 0x0702 a.va aux
           | .bytes =>
             if o.served || !sealedQuiet r a.pageSize then give s (s.homeRead a.loc a.z)
             else
               let tail := match r with
                 | some r => r.tail
                 | none => 0
               match o.origin with
               | some p => if s.tailBad o a then s.opError o a.loc a.va else s.sendSealed o p a tail
               | none =>
                 let q := s.readSealed (dieOf o.core) a tail
                 give (q.1.fillSealed o a q.2 tail) ((q.2.drop (a.loc % 128)).take a.z))
  | _ => s

/-- `atail` and `astate` at the tail slice (12 R274, R275, R287). -/
def State.serveStatus (s : State) (o : Op) : State :=
  match o.kind with
  | .status a word =>
    if !s.mayServe o true then s
    else
      (match a.peer with
       | some d => s.askTail o a d (if word then 7 else 6) []
       | none =>
         let r := s.page? a.pageLoc
         let found := fun (v : Word) => s.arrive o.id (fun p => { p with data := [v] })
         match r with
         | none => found 0
         | some q =>
           if q.size ≠ a.pageSize then s.arriveFault o.id 0x0704 a.va (stateAux false true r)
           else if o.detM && q.state == .opened then s
           else found (if word then statusWord r else tailWord r))
  | _ => s

/-- A read, `atail` or `astate` is judged at the tail slice (12 R271). -/
def execTailReadServe (op : Nat) (s : State) : Out :=
  match s.op? op with
  | none => .next s
  | some o => .next ((s.serveTailRead o).serveStatus o)

/-- A sealed line arrives in a die's replica and serves the read (12 R279). -/
def execReplicaFill (op : Nat) (s : State) : Out :=
  match s.op? op with
  | none => .next s
  | some o => .next (s.serveTailRead o)

/-- A die drops its least recently used replica (12 R281). -/
def execReplicaPageDrop (die : Nat) (s : State) : Out :=
  if !dieOk die then .fault (.noSuchDie die)
  else
    match (s.die die).replicas with
    | [] => .next s
    | r :: _ => .next (s.dropReplica die r.page)

/-! ### Sealing (12 R276) -/

/-- A seal reaches the tail slice (12 R264, R276). -/
def execSealServe (op : Nat) (s : State) : Out :=
  match s.op? op with
  | none => .next s
  | some o =>
    match o.kind with
    | .seal a =>
      if !s.mayServe o true then .next s
      else
        (match a.peer with
         | some d => .next (s.askTail o a d 3 [])
         | none =>
           let r := s.page? a.pageLoc
           match r with
           | none => .next (s.arriveFault op 0x0704 a.va (stateAux false false none))
           | some q =>
             if q.size ≠ a.pageSize then .next (s.arriveFault op 0x0704 a.va (stateAux false true r))
             else
               match s.pageClaim a.pageLoc q o with
               | (s, some u) => .next (s.arriveFault op 0x0A01 a.va (BitVec.ofNat 32 u))
               | (s, none) =>
                 if q.state ≠ .opened then .next (s.arriveFault op 0x0704 a.va (stateAux false false r))
                 else .next ((s.mapPage a.pageLoc (fun r => { r with state := .sealed })).mapOp op (fun p => { p with served := true })))
    | _ => .next s

/-- A seal completes when PW = 0 (12 R276); a page reopened since had PW = 0 before. -/
def execSealComplete (op : Nat) (s : State) : Out :=
  match s.op? op with
  | none => .next s
  | some o =>
    match o.kind with
    | .seal a =>
      if !o.served || o.arrived || s.awaits op then .next s
      else
        (match s.page? a.pageLoc with
         | some r => if r.pw && r.state != .opened then .next s else .next (s.arrive op id)
         | none => .next (s.arrive op id))
    | _ => .next s

/-! ### Freeing (12 R283) and `aopen` (12 R285) -/

/-- The page becomes FREEING for an operation. -/
def State.beginFree (s : State) (op page : Nat) (remove : Bool) : State :=
  (s.mapPage page (fun r => { r with state := .freeing, freeOp := some op, reclaiming := false, acks := [], removing := remove })).mapOp op
    (fun p => { p with served := true })

/-- A free reaches the tail slice (12 R264, R283). -/
def execFreeServe (op : Nat) (s : State) : Out :=
  match s.op? op with
  | none => .next s
  | some o =>
    match o.kind with
    | .free a =>
      if !s.mayServe o true then .next s
      else
        (match a.peer with
         | some d => .next (s.askTail o a d 4 [])
         | none =>
           let r := s.page? a.pageLoc
           match r with
           | none => .next (s.arriveFault op 0x0704 a.va (stateAux false false none))
           | some q =>
             if q.size ≠ a.pageSize then .next (s.arriveFault op 0x0704 a.va (stateAux false true r))
             else
               match s.pageClaim a.pageLoc q o with
               | (s, some u) => .next (s.arriveFault op 0x0A01 a.va (BitVec.ofNat 32 u))
               | (s, none) =>
                 if q.state ≠ .sealed then .next (s.arriveFault op 0x0704 a.va (stateAux false false r))
                 else .next (s.beginFree op a.pageLoc false))
    | _ => .next s

/-- An `aopen` reaches the tail slice (12 R264, R285). -/
def execAopenServe (op : Nat) (s : State) : Out :=
  match s.op? op with
  | none => .next s
  | some o =>
    match o.kind with
    | .aopen a ctl =>
      if !s.mayServe o true then .next s
      else
        (match a.peer with
         | some d => .next (s.askTail o a d 5 [ctl])
         | none =>
           let r := s.page? a.pageLoc
           let fresh : PageRec := { state := .opened, size := a.pageSize }
           if 3 ≤ ctl.toNat then .next (s.arriveFault op 0x0704 a.va (stateAux true false r))
           else
             match r, ctl.toNat with
             | none, 2 => .next (s.arrive op id)
             | none, _ => .next ((s.setPage a.pageLoc fresh).arrive op id)
             | some _, 0 => .next (s.arriveFault op 0x0704 a.va (stateAux false false r))
             | some q, k =>
               if q.state = .freeing then .next (s.mapOp op (fun p => { p with served := true }))
               else .next (s.beginFree op a.pageLoc (k == 2)))
    | _ => .next s

/-- The freeing of a page has ended: the `aopen`s that found it FREEING end with it, and OP 2 removes the record before anything else is
served (12 R264). Where the freeing ended with no record, they end too (assumption 37). -/
def State.endWaiting (s : State) (page : Nat) : State :=
  (s.ops.filter (fun o => o.served && !o.arrived && o.asealPage == some page && !s.awaits o.id)).foldl (fun s o =>
    match o.kind with
    | .aopen _ c => (if c = 2 then s.erasePage page else s).arrive o.id id
    | _ => s) s

/-- The operation owns the freeing of its page. -/
def State.freesPage (s : State) (op : Nat) : Option (Op × Access × PageRec) :=
  match s.op? op with
  | none => none
  | some o =>
    match o.asealAccess with
    | none => none
    | some a =>
      match s.page? a.pageLoc with
      | none => none
      | some r => if r.freeOp = some op ∧ r.state = .freeing then some (o, a, r) else none

/-- The agents that a reclaim asks: dies by number, peers by 8 + device id (12 R280). -/
def State.reclaimAgents (s : State) (r : PageRec) : List Nat :=
  r.repDies ++ (if r.repAll
    then (s.routes.filter (fun x => s.peerView x.dev == 0 || s.peerView x.dev == 1)).map (fun x => 8 + x.dev)
    else r.repPeers.map (fun d => 8 + d))

/-- Asks a module, by a packet of type 0x0A, to reclaim its replicas of a page (OP 0; 12 R280, 14 R321), or the module that issued a free,
whose transaction the packet names, to remove its context's translations (OP 2; 12 R283 step 3). The answers are OP 1 and OP 3 (the packets
are the model's, assumption 36). Like every request it is kept until its answer arrives, and sent again (14 R327). -/
def State.askReclaim (s : State) (dev op page txn : Nat) : State :=
  s.request { id := 0, tid := 0, slot := 0, launch := 0, unit := 0, uix := 0, group := 0, core := 0, tslot := 0, cls := .none, pc := 0,
              word := 0, kind := .drain 0 } dev page 10 op 2 (leBytes 2 txn) 0

/-- A module has still to answer such a packet about a page. -/
def State.asked (s : State) (dev page : Nat) : Bool :=
  s.reqs.any (fun r => r.pkt.typ == 10 && r.pkt.dst == dev && r.pkt.addr == page)

/-- The packet with which a peer's home asks for the removal of a page's translations, as its transaction names it. -/
def removalAsked (dev page txn : Nat) : Packet :=
  { dst := 0, src := dev, vc := 0, typ := 10, ctag := 0, txn := txn, len := 1, op := 2, hops := 0, gh := false, addr := page, low := 0,
    rsvd := 0, data := [] }

/-- Once PW = 0 the home reclaims every replica (12 R283 step 2). -/
def execFreeReclaim (op : Nat) (s : State) : Out :=
  match s.freesPage op with
  | none => .next s
  | some (_, a, r) =>
    if r.pw || r.reclaiming then .next s
    else
      let agents := s.reclaimAgents r
      let s := s.mapPage a.pageLoc (fun r => { r with reclaiming := true, acks := agents })
      .next ((agents.filter (fun x => 8 ≤ x)).foldl (fun s x => s.askReclaim (x - 8) 0 a.pageLoc 0) s)

/-- A reclaim arrives at a die, which drops its replica (12 R280 step 3). -/
def execReplicaReclaim (page die : Nat) (s : State) : Out :=
  if !dieOk die then .fault (.noSuchDie die)
  else
    match s.page? page with
    | some r => if r.acks.contains die then .next (s.dropReplica die page) else .next s
    | none => .next s

/-- An acknowledgement arrives at the home (12 R280 step 4). A die of this module acknowledges once it holds no replica, a peer by the packet
that answers the one which asked it; that of a peer that is Down counts as received. -/
def execReclaimAck (page agent : Nat) (s : State) : Out :=
  if (if agent < 8 then (s.replica? agent page).isSome else s.asked (agent - 8) page) then .next s
  else .next (s.mapPage page (fun r => { r with acks := r.acks.filter (fun x => x != agent) }))

/-- A translation of a context that maps a page's base. -/
def Trans.mapsPage (t : Trans) (cid page : Nat) : Bool :=
  !t.glob && t.cid == cid && decide (t.pagePlace ≤ page) && decide (page < t.pagePlace + t.size)

/-- Removes, in every TLB, the translations of a context that map a page, and the marked lines of the page that the context
filled (12 R282, R283 step 3). -/
def State.shootPage (s : State) (cid page : Nat) : State :=
  { s with
    cores := s.cores.map (fun (p : Nat × Core) => (p.1, { p.2 with
      l1tlb := p.2.l1tlb.filter (fun t => !t.mapsPage cid page),
      l1 := p.2.l1.filter (fun l => l.2.mark != some (page, cid)) })),
    dies := s.dies.map (fun (p : Nat × Die) => (p.1, { p.2 with l2tlb := p.2.l2tlb.filter (fun t => !t.mapsPage cid page) })) }

/-- The translations and marked lines of the issuing context are removed once every acknowledgement has come; that of a peer
that is Down counts as received (12 R280, R283 step 3). Those of a peer's context are removed there. -/
def execFreeShootdown (op : Nat) (s : State) : Out :=
  match s.freesPage op with
  | none => .next s
  | some (o, a, r) =>
    if !r.reclaiming || o.mark.isSome || !r.acks.all (fun x => 8 ≤ x && s.peerView (x - 8) == 2) then .next s
    else
      let s' := s.mapOp op (fun p => { p with mark := some s.nextId })
      match o.origin with
      | none => .next (s'.shootPage (s.slot o.slot).cid a.pageLoc)
      | some p => .next ((s'.mapPage a.pageLoc (fun r => { r with acks := [8 + p.src] })).askReclaim p.src 2 a.pageLoc p.txn)

/-- A write of an operation has been translated and has not reached its home (08 R190). -/
def State.writePending (s : State) (o : Op) : Bool :=
  match o.kind with
  | .store a _ _ => a.sp == 0 && !o.arrived
  | .atomic _ _ _ _ _ _ => !o.arrived
  | .copy _ => s.awaits o.id
  | .xfer _ _ _ _ _ _ _ => !o.arrived
  | .append _ _ _ => !o.arrived
  | .seal _ => !o.served || s.awaits o.id
  | .free _ => !o.served || s.awaits o.id
  | .aopen _ _ => !o.served || s.awaits o.id
  | _ => false

/-- A tile command has lines on their way to their homes, or waiting there (08 R190). -/
def State.linesPending (s : State) (c : Cmd) : Bool := s.awaits c.uid || !c.unapplied.isEmpty

/-- The tile commands of a context issued before a mark have lines on their way. -/
def State.drainsOf (s : State) (slot before : Nat) : Bool :=
  (s.cmds ++ s.saved.flatMap (fun v => v.cmds)).any (fun c => c.slot == slot && decide (c.uid < before) && s.linesPending c)

/-- A write of the context that may have used a removed translation of the page is still on its way (08 R190): of the operations of major
0x31 only those on the page; the store of a `strel` still behind its release has not been made. -/
def State.writesPage (s : State) (o : Op) (page before : Nat) : Bool :=
  s.ops.any (fun p => p.slot == o.slot && p.origin.isNone && p.id != o.id && decide (p.id < before) && s.writePending p &&
    (match p.kind with
     | .store _ _ (some _) => p.served
     | _ => p.asealPage == none || p.asealPage == some page)) || s.drainsOf o.slot before

/-- A read that its tail slice has passed on waits for bytes of the page at their home. -/
def State.readsPage (s : State) (page : Nat) : Bool :=
  s.ops.any (fun o => match o.kind with
    | .load a _ _ => a.cls == 2 && a.pageLoc == page && o.served && !o.arrived
    | .lch a => a.cls == 2 && a.pageLoc == page && o.served && !o.arrived
    | .copy c => c.passed == some page
    | _ => false) || s.cmds.any (fun c => c.passed == some page)

/-- The removal has completed: the page becomes OPEN with T = 0, or loses its record, and the operation completes (12 R283
step 4, R285). The module that issued a free of a peer's page reports to it that the removal is complete. -/
def execFreeReopen (op : Nat) (s : State) : Out :=
  match s.freesPage op with
  | some (o, a, r) =>
    (match o.mark with
     | none => .next s
     | some m =>
       if (if o.origin.isSome then !r.acks.all (fun x => s.peerView (x - 8) == 2) else s.writesPage o a.pageLoc m) || s.readsPage a.pageLoc
       then .next s
       else
         let s := s.pushAll
         let size := match o.kind with
           | .aopen b _ => b.pageSize
           | _ => r.size
         let s := if r.removing then s.erasePage a.pageLoc
           else s.setPage a.pageLoc { state := .opened, size := size, claims := r.claims }
         .next ((s.endWaiting a.pageLoc).arrive op id))
  | none =>
    match s.op? op with
    | none => .next s
    | some o =>
      match o.mark, o.asealAccess.bind (fun a => a.peer.map (fun d => (a, d))), o.data with
      | some m, some (a, d), [txn] =>
        if s.writesPage o a.pageLoc m then .next s
        else
          .next ((s.pushAll.mapOp op (fun p => { p with data := [txn, 1] })).respond (removalAsked d (peerAddr a.pageLoc) txn.toNat) 10 3 [])
      | _, _, _ => .next s

/-- The reads in flight of a page keep no line: what they bring may have been sent before its reclaim, or before its free (12 R284). -/
def State.staleReads (s : State) (dev page : Nat) : State :=
  { s with reqs := s.reqs.map (fun r => if r.pkt.dst = dev ∧ r.pkt.typ = 1 ∧ r.pkt.op = 2 ∧ page ≤ r.pkt.addr ∧ r.pkt.addr < page + 2 ^ 21
      then { r with stale := true } else r) }

/-- A peer's home asks for the removal of the translations of a page that a free of this module names, and with them go the lines that its
reads in flight would keep; a free that has been given up is complete at once (12 R283 step 3, R284). -/
def State.removeFor (s : State) (p : Packet) : State :=
  let free := leNat (p.data.take 2)
  match (s.reqs.find? (fun r => r.pkt.dst == p.src && r.pkt.txn == free && r.pkt.typ == 9)).bind (fun r => s.op? r.op) with
  | some o =>
    if o.mark.isSome then s
    else ((s.shootPage (s.slot o.slot).cid (peerPlace p.src p.addr)).staleReads p.src p.addr).mapOp o.id (fun q =>
      { q with mark := some s.nextId, data := [BitVec.ofNat 32 p.txn] })
  | none => s.respond p 10 3 []

/-! ### Issue (12 R265, R266) -/

/-- The checks of an instruction of major 0x31 at issue (12 R266): canonical, translated, class 2, W, deterministic mode,
the peer. -/
def State.asealAccess (s : State) (t : Thread) (a : Reg) (write det : Bool) (gath : Bool) : State × Except Stop Access :=
  let ea := t.pair a
  if !canonical ea then (s, .error (.fault { code := 0x0507, addr := ea }))
  else
    match s.translate t ea with
    | (s, .wait wid) => (s, .error (.leave (.walk wid)))
    | (s, .bad aux) => (s, .error (.fault { code := 0x0501, addr := ea, aux := aux }))
    | (s, .hit x) =>
      if x.cls ≠ 2 then (s, .error (.fault { code := 0x0504, addr := ea, aux := 1 }))
      else if write && !x.w then (s, .error (.fault { code := 0x0504, addr := ea }))
      else if det && t.modeD && !gath then (s, .error (.fault { code := 0x0A01, addr := ea, aux := 0xFFFFFFFF }))
      else
        match x.peer.bind (fun d => s.peerCheck (s.slotOf t) d) with
        | some cause => (s, .error (.fault { code := 0x0901, addr := ea, aux := cause }))
        | none => (s, .ok (mkAccess x ea 4 0))

/-- The issue of an instruction of major 0x31: its data registers and their class, whether it writes, whether it falls under
the checks of deterministic mode, whether it waits and releases first. -/
def asealOp (ctr : Ctr) (sh : Shape) (a : Reg) (write det quiet push : Bool) (dst : List Reg) (kind : State → Thread → Access → OpKind)
    (s : State) : State :=
  issue ({
    shape := fun _ => sh,
    pre := fun s c t =>
      if t.full ctr then (s, .error (.leave (.room ctr)))
      else
        match s.asealAccess t a write det c.st.blk.gath with
        | (s, .error x) => (s, .error x)
        | (s, .ok acc) => if quiet && !s.holds t .quiet then (s, .error (.leave .quiet)) else (s, .ok acc),
    act := eachThread (fun s c t acc =>
      let s := if push then (s.releasePush t.core 3).codeOut t 11 else s
      (s.addOp { s.newOp c t ctr (kind s t acc) with dsts := dst, tag := .int }, .go)) }) s

/-- `app` (12 R267). -/
def execApp (d a b : Reg) (s : State) : Out :=
  .next (asealOp .ld { named := d :: pairNames a ++ [b], reads := [(.int64, a), (.any, b)] } a true true false false [d]
    (fun _ t acc => .append acc [t.val b] none) s)

/-- `app64` (12 R267). -/
def execApp64 (d a b : Reg) (s : State) : Out :=
  .next (asealOp .ld { named := d :: pairNames a ++ pairNames b, reads := [(.int64, a), (.any, b), (.any, b + 1)] } a true true
    false false [d] (fun _ t acc => .append acc [t.val b, t.val (b + 1)] none) s)

/-- `appq` (12 R267). -/
def execAppq (d a b : Reg) (s : State) : Out :=
  .next (asealOp .ld { named := d :: pairNames a ++ quadRegs b, reads := [(.int64, a)] } a true true false false [d]
    (fun _ t acc => .append acc ((quadRegs b).map t.val) none) s)

/-- `seal` (12 R276). -/
def execSeal (a : Reg) (s : State) : Out :=
  .next (asealOp .st { named := pairNames a, reads := [(.int64, a)] } a true true true true [] (fun _ _ acc => .seal acc) s)

/-- `free` (12 R283). -/
def execFree (a : Reg) (s : State) : Out :=
  .next (asealOp .st { named := pairNames a, reads := [(.int64, a)] } a true true true false [] (fun _ _ acc => .free acc) s)

/-- `aopen` (12 R285). -/
def execAopen (a b : Reg) (s : State) : Out :=
  .next (asealOp .st { named := pairNames a ++ [b], reads := [(.int64, a), (.int, b)], level := .supervisor } a true false true
    false [] (fun s t acc => .aopen acc (t.rd ((s.fieldFrac t).getD 0) .int b)) s)

/-- `atail` (12 R274). -/
def execAtail (d a : Reg) (s : State) : Out :=
  .next (asealOp .ld { named := d :: pairNames a, reads := [(.int64, a)] } a false false false false [d]
    (fun _ _ acc => .status acc false) s)

/-- `astate` (12 R275). -/
def execAstate (d a : Reg) (s : State) : Out :=
  .next (asealOp .ld { named := d :: pairNames a, reads := [(.int64, a)] } a false false false false [d]
    (fun _ _ acc => .status acc true) s)

end Sys2Proof.Machine
end

