-- ==== Sys2Proof/Machine/Barrier.lean ====
section
/-!
DEFINITION. Named barriers (10 R219, R220).
-/
namespace Sys2Proof.Machine

/-- A barrier of a unit. -/
def State.barrier (s : State) (uid i : Nat) : Barrier :=
  match s.unit? uid with
  | some u => Sparse.get {} u.barriers i
  | none => {}

/-- The state word of a barrier (10 R219). -/
def Barrier.word (b : Barrier) : Word :=
  if b.opened then BitVec.ofNat 32 (2 ^ 31 + b.np % 2 ^ 12 * 2 ^ 16 + b.na % 2 ^ 12) else 0

/-- Writes a barrier of a unit. -/
def State.setBarrier (s : State) (uid i : Nat) (b : Barrier) : State :=
  s.mapUnit uid (fun u => { u with barriers := Sparse.set {} u.barriers i b })

/-- Threads of the unit, `$ntid`. -/
def State.ntid (s : State) (t : Thread) : Nat :=
  match s.unitOf t with
  | some u => u.nthreads
  | none => 0

/-- A thread waits for the open instance and owes the acquire at scope 0 when it resumes (10 R220). -/
def State.awaitBarrier (s : State) (t : Thread) (i inst : Nat) : State × After :=
  (s.mapThread t.tid (fun t => { t with owes := some 0 }), .split (.barrier i inst))

/-- An arrival of a thread with count n at barrier i (10 R220); `wait` for kind 0. -/
def State.arriveAt (s : State) (t : Thread) (i : Nat) (n : Word) (wait : Bool) : State × After :=
  if n = 0 || s.ntid t < n.toNat then (s, .fault { code := 0x0204, aux := n })
  else
    let b := s.barrier t.unit i
    if b.opened && b.np ≠ n.toNat then (s, .fault { code := 0x0204, aux := BitVec.ofNat 32 b.np })
    else
      let na := (if b.opened then b.na else 0) + 1
      let s := s.codeOut t 0
      if na = n.toNat then
        let s := s.setBarrier t.unit i { opened := false, np := 0, na := 0, inst := b.inst + 1 }
        (if wait then (s.acquireDiscard t.core 0).codeIn (s.slotOf t) t.core 0 else s, .go)
      else
        let s := s.setBarrier t.unit i { opened := true, np := n.toNat, na := na, inst := b.inst }
        if wait then s.awaitBarrier t i b.inst else (s, .go)

/-- The release at scope 0 holds the arrival until the thread's earlier operations have completed (10 R220). -/
def quietFirst (s : State) (_ : Ctx) (t : Thread) : State × Except Stop Unit :=
  if s.holds t .quiet then (s, .ok ()) else (s, .error (.leave .quiet))

/-- `bar` and `bar.arrive`. -/
def barOp (a : Reg) (i : BitVec 6) (wait : Bool) (s : State) : State :=
  issue ({ shape := fun _ => { named := [a], reads := [(.int, a)] }, pre := quietFirst,
           act := eachThread (fun s _ t _ => s.arriveAt t i.toNat (t.rd ((s.fieldFrac t).getD 0) .int a) wait) }) s

/-- `bar` (10 R220, kind 0). -/
def execBar (a : Reg) (i : BitVec 6) (s : State) : Out := .next (barOp a i true s)

/-- `bar.arrive` (10 R220, kind 1). -/
def execBarArrive (a : Reg) (i : BitVec 6) (s : State) : Out := .next (barOp a i false s)

/-- `bar.wait` (10 R220, kind 2): waits for the open instance; with none it has no effect. -/
def execBarWait (i : BitVec 6) (s : State) : Out :=
  .next (issue ({ pre := noCheck, act := eachThread (fun s _ t _ =>
    let b := s.barrier t.unit i.toNat
    if b.opened then s.awaitBarrier t i.toNat b.inst else (s, .go)) }) s)

end Sys2Proof.Machine
end

