-- ==== Sys2Proof/Machine/Crypto.lean ====
section
/-!
DEFINITION. The functions of the security engine (01 R17, R18): SHA-256 (FIPS 180-4), which images of units, firmware and quotes carry
(16 R367, R381, R382), and the verification of ECDSA signatures on P-256 (FIPS 186-4), which the boot ROM makes (16 R381).
-/
namespace Sys2Proof.Machine

/-- The number that bytes spell, most significant first. -/
def beNat (bs : List Byte) : Nat := bs.foldl (fun n b => n * 256 + b.toNat) 0

/-! ### SHA-256

The eight working words stand in one vector of 256 bits, a first, and the sixteen words of the message schedule that are in use in one of
512 bits, the next one first. -/

/-- The round constants, sixteen to a number, the first in its highest bits. -/
def shaTable (q : Nat) : Nat :=
  match q with
  | 0 => 0x428a2f9871374491b5c0fbcfe9b5dba53956c25b59f111f1923f82a4ab1c5ed5d807aa9812835b01243185be550c7dc372be5d7480deb1fe9bdc06a7c19bf174
  | 1 => 0xe49b69c1efbe47860fc19dc6240ca1cc2de92c6f4a7484aa5cb0a9dc76f988da983e5152a831c66db00327c8bf597fc7c6e00bf3d5a7914706ca635114292967
  | 2 => 0x27b70a852e1b21384d2c6dfc53380d13650a7354766a0abb81c2c92e92722c85a2bfe8a1a81a664bc24b8b70c76c51a3d192e819d6990624f40e3585106aa070
  | _ => 0x19a4c1161e376c082748774c34b0bcb5391c0cb34ed8aa4a5b9cca4f682e6ff3748f82ee78a5636f84c878148cc7020890befffaa4506cebbef9a3f7c67178f2

/-- The constant of a round. -/
def shaConst (round : Nat) : Word := BitVec.ofNat 32 (shaTable (round / 16) / 2 ^ (32 * (15 - round % 16)))

/-- The chaining value before the first block. -/
def shaStart : BitVec 256 := 0x6a09e667bb67ae853c6ef372a54ff53a510e527f9b05688c1f83d9ab5be0cd19

/-- Word i of a vector of words, counted from its lowest bits. -/
def wordAt {n : Nat} (v : BitVec n) (i : Nat) : Word := v.extractLsb' (32 * i) 32

/-- The exclusive or of a word's right rotations. -/
def spun (x : Word) (rs : List Nat) : Word := rs.foldl (fun y r => y ^^^ x.rotateRight r) 0

/-- The schedule moves on by one word. -/
def shaSlide (w : BitVec 512) : BitVec 512 :=
  let old := wordAt w 14
  let late := wordAt w 1
  w.extractLsb' 0 480 ++
    (wordAt w 15 + wordAt w 6 + (spun old [7, 18] ^^^ (old >>> 3)) + (spun late [17, 19] ^^^ (late >>> 10)))

/-- One round, with the word that the schedule gives it and its constant already added. -/
def shaMix (v : BitVec 256) (kw : Word) : BitVec 256 :=
  let a := wordAt v 7
  let e := wordAt v 3
  let chosen := (e &&& wordAt v 2) ||| (~~~e &&& wordAt v 1)
  let most := (a &&& (wordAt v 6 ||| wordAt v 5)) ||| (wordAt v 6 &&& wordAt v 5)
  let t := wordAt v 0 + kw + chosen + spun e [6, 11, 25]
  (t + most + spun a [2, 13, 22]) ++ v.extractLsb' 160 96 ++ (wordAt v 4 + t) ++ v.extractLsb' 32 96

/-- The n rounds that are left of 64. -/
def shaRounds (n : Nat) (v : BitVec 256) (w : BitVec 512) : BitVec 256 :=
  match n with
  | 0 => v
  | n + 1 => shaRounds n (shaMix v (wordAt w 15 + shaConst (63 - n))) (shaSlide w)

/-- The sums of the words of two vectors, for the n lowest of them. -/
def addWords (n : Nat) (x y : BitVec 256) : Nat :=
  match n with
  | 0 => 0
  | n + 1 => addWords n x y + (wordAt x n + wordAt y n).toNat * 2 ^ (32 * n)

/-- Compresses one block of 64 bytes into the chaining value. -/
def shaBlock (v : BitVec 256) (block : List Byte) : BitVec 256 :=
  BitVec.ofNat 256 (addWords 8 v (shaRounds 64 v (BitVec.ofNat 512 (beNat block))))

/-- Compresses n blocks in turn. -/
def shaBlocks (n : Nat) (v : BitVec 256) (bs : List Byte) : BitVec 256 :=
  match n with
  | 0 => v
  | n + 1 => shaBlocks n (shaBlock v (bs.take 64)) (bs.drop 64)

/-- A message with its padding: a one bit, zeros, and its length in bits in the last 8 bytes of a block. -/
def shaPad (bs : List Byte) : List Byte :=
  (bs ++ 0x80 :: List.replicate ((119 - bs.length % 64) % 64) 0) ++ (leBytes 8 (8 * bs.length)).reverse

/-- The SHA-256 digest of a message. -/
def sha256 (bs : List Byte) : BitVec 256 := shaBlocks ((bs.length + 72) / 64) shaStart (shaPad bs)

/-- The bytes of a digest in the order in which it is written, most significant first. -/
def digestBytes (d : BitVec 256) : List Byte := (leBytes 32 d.toNat).reverse

/-! ### ECDSA on P-256 -/

/-- The prime of the field. -/
def p256 : Nat := 0xffffffff00000001000000000000000000000000ffffffffffffffffffffffff

/-- The order of the base point. -/
def p256Order : Nat := 0xffffffff00000000ffffffffffffffffbce6faada7179e84f3b9cac2fc632551

/-- The constant b of the curve y² = x³ − 3x + b. -/
def p256B : Nat := 0x5ac635d8aa3a93e7b3ebbd55769886bc651d06b0cc53b0f63bce3c3e27d2604b

/-- The difference of two residues. -/
def subMod (m a b : Nat) : Nat := (a + (m - b % m)) % m

/-- The power a^k modulo m, for k below 2^n. -/
def powMod (m a : Nat) (n k : Nat) : Nat :=
  match n with
  | 0 => 1
  | n + 1 =>
    let r := powMod m a n (k / 2)
    if k % 2 = 1 then r * r % m * a % m else r * r % m

/-- The inverse of a residue modulo a prime below 2^256. -/
def invMod (m a : Nat) : Nat := powMod m a 256 (m - 2)

/-- A point of the curve in Jacobian coordinates: (x / z², y / z³), and the point at infinity where z is 0. -/
structure CurvePoint where
  x : Nat
  y : Nat
  z : Nat
  deriving DecidableEq, Repr

/-- The point at infinity. -/
def CurvePoint.zero : CurvePoint := { x := 1, y := 1, z := 0 }

/-- The base point. -/
def CurvePoint.base : CurvePoint :=
  { x := 0x6b17d1f2e12c4247f8bce6e563a440f277037d812deb33a0f4a13945d898c296
    y := 0x4fe342e2fe1a7f9b8ee7eb4a7c0f9e162bce33576b315ececbb6406837bf51f5
    z := 1 }

/-- Twice a point. -/
def CurvePoint.double (q : CurvePoint) : CurvePoint :=
  let zz := q.z * q.z % p256
  let yy := q.y * q.y % p256
  let s := 4 * q.x * yy % p256
  let m := 3 * (subMod p256 q.x zz * (q.x + zz) % p256) % p256
  let x := subMod p256 (m * m % p256) (2 * s)
  { x := x, y := subMod p256 (m * subMod p256 s x % p256) (8 * (yy * yy % p256)), z := 2 * q.y * q.z % p256 }

/-- The sum of two points. -/
def CurvePoint.plus (q r : CurvePoint) : CurvePoint :=
  if q.z = 0 then r
  else if r.z = 0 then q
  else
    let qq := q.z * q.z % p256
    let rr := r.z * r.z % p256
    let u := q.x * rr % p256
    let s := q.y * (rr * r.z % p256) % p256
    let h := subMod p256 (r.x * qq % p256) u
    let d := subMod p256 (r.y * (qq * q.z % p256) % p256) s
    if h = 0 then (if d = 0 then q.double else .zero)
    else
      let hh := h * h % p256
      let hhh := hh * h % p256
      let uh := u * hh % p256
      let x := subMod p256 (subMod p256 (d * d % p256) hhh) (2 * uh)
      { x := x, y := subMod p256 (d * subMod p256 uh x % p256) (s * hhh % p256), z := q.z * r.z % p256 * h % p256 }

/-- The multiple k of a point, for k below 2^n. -/
def CurvePoint.times (q : CurvePoint) (n k : Nat) : CurvePoint :=
  match n with
  | 0 => .zero
  | n + 1 =>
    let r := (q.times n (k / 2)).double
    if k % 2 = 1 then r.plus q else r

/-- The affine x of a point that is not at infinity. -/
def CurvePoint.affineX (q : CurvePoint) : Nat := q.x * invMod p256 (q.z * q.z % p256) % p256

/-- A pair of coordinates is a point of the curve. -/
def onCurve (x y : Nat) : Bool :=
  decide (x < p256) && decide (y < p256) && y * y % p256 == (subMod p256 (x * x % p256 * x % p256) (3 * x) + p256B) % p256

/-- An ECDSA P-256 signature (r, s) over a digest verifies against the public key (x, y). -/
def ecdsaVerify (x y : Nat) (digest r s : BitVec 256) : Bool :=
  onCurve x y && decide (r ≠ 0) && decide (r.toNat < p256Order) && decide (s ≠ 0) && decide (s.toNat < p256Order) &&
    (let w := invMod p256Order s.toNat
     let q := (CurvePoint.base.times 256 (digest.toNat * w % p256Order)).plus
       ((CurvePoint.mk x y 1).times 256 (r.toNat * w % p256Order))
     decide (q.z ≠ 0) && q.affineX % p256Order == r.toNat)

/-- A number taken into the range 1 to n − 1 of keys and nonces, n the order of the base point. -/
def toScalar (k : Nat) : Nat := 1 + k % (p256Order - 1)

/-- The ECDSA P-256 signature (r, s) of a digest under a private key, from a nonce: a nonce that gives r or s the value 0 is passed over for the
next. At most 8 can do so: each of two values of r has two abscissas, and each abscissa two points. -/
def ecdsaSign (key : Nat) (digest : BitVec 256) (nonce : Nat) (tries : Nat) : BitVec 256 × BitVec 256 :=
  match tries with
  | 0 => (0, 0)
  | n + 1 =>
    let k := toScalar nonce
    let r := (CurvePoint.base.times 256 k).affineX % p256Order
    let s := invMod p256Order k * (digest.toNat + r * toScalar key) % p256Order
    if r = 0 || s = 0 then ecdsaSign key digest (nonce + 1) n else (BitVec.ofNat 256 r, BitVec.ofNat 256 s)

end Sys2Proof.Machine
end

