-- ==== Sys2Proof/Machine/Fields.lean ====
section
/-!
DEFINITION. Conserved fields (11): descriptors, cells and their true contents, transfers under locks, counter sets, reads.
-/
namespace Sys2Proof.Machine

/-! ### Descriptors (11 R237, R238) -/

/-- A word of a descriptor. -/
def FieldSt.word (f : FieldSt) (k : Nat) : Nat := (f.words.getD k 0).toNat
/-- The base of the cell array. -/
def FieldSt.base (f : FieldSt) : Nat := f.word 0 + 2 ^ 32 * f.word 1
/-- The number of cells. -/
def FieldSt.n (f : FieldSt) : Nat := f.word 2 + 1
/-- FZ: every transfer on the field raises 0x0504. -/
def FieldSt.frozen (f : FieldSt) : Bool := f.word 3 / 2 ^ 24 % 2 == 1
/-- NK: sink cells. -/
def FieldSt.sinks (f : FieldSt) : Nat := f.word 3 / 2 ^ 12 % 16
/-- NS: source cells. -/
def FieldSt.sources (f : FieldSt) : Nat := f.word 3 / 2 ^ 8 % 16
/-- The initial total. -/
def FieldSt.init (f : FieldSt) : Nat := f.word 4 + 2 ^ 32 * f.word 5
/-- The 288-bit value of words 7 to 15. -/
def FieldSt.roleBits (f : FieldSt) : Nat := (List.range 9).foldl (fun a i => a + f.word (7 + i) * 2 ^ (32 * i)) 0
/-- Role entry i as an offset. -/
def FieldSt.entry (f : FieldSt) (i : Nat) : Nat := f.roleBits / 2 ^ (18 * i) % 2 ^ 18
/-- The source cells. -/
def FieldSt.sourceCells (f : FieldSt) : List Nat := (List.range f.sources).map (fun i => f.word 6 + f.entry i)
/-- The sink cells. -/
def FieldSt.sinkCells (f : FieldSt) : List Nat := (List.range f.sinks).map (fun i => f.word 6 + f.entry (8 + i))

/-- The role of a cell: 0 ordinary, 1 source, 2 sink, 3 at or above n (11 R252). -/
def FieldSt.role (f : FieldSt) (i : Nat) : Nat :=
  if f.n ≤ i then 3 else if f.sourceCells.contains i then 1 else if f.sinkCells.contains i then 2 else 0

/-- The virtual address of a cell (11 R239). -/
def FieldSt.cellVa (f : FieldSt) (i : Nat) : Pair := BitVec.ofNat 64 (f.base + 4 * i)

/-- No number stands twice in a list. -/
def noRepeat (l : List Nat) : Bool :=
  match l with
  | [] => true
  | x :: r => !r.contains x && noRepeat r

/-- A descriptor is accepted (11 R238). -/
def FieldSt.valid (f : FieldSt) : Bool :=
  let w3 := f.word 3
  let base : Pair := BitVec.ofNat 64 f.base
  let last := f.base + 4 * f.n - 1
  w3 / 2 ^ 25 == 0 && w3 / 2 ^ 16 % 2 ^ 8 == 0 && w3 / 2 ^ 5 % 8 == 0 && decide (f.sources ≤ 8) && decide (f.sinks ≤ 8) &&
    f.base != 0 && canonical base && f.base % 4 == 0 && decide (last < 2 ^ 64) && canonical (BitVec.ofNat 64 last) &&
    base.getLsbD 56 == (BitVec.ofNat 64 last : Pair).getLsbD 56 &&
    (List.range 16).all (fun i => if i < 8 then i < f.sources || f.entry i == 0 else i - 8 < f.sinks || f.entry i == 0) &&
    (f.sourceCells ++ f.sinkCells).all (fun i => decide (i < f.n)) && noRepeat (f.sourceCells ++ f.sinkCells)

/-- The field of an id, once usable (11 R250). -/
def State.field? (s : State) (slot fid : Nat) : Option FieldSt :=
  match Sparse.find (s.slot slot).fields fid with
  | some f => if f.usable then some f else none
  | none => none

/-- The current field of a thread, or its 0x0603 (11 R243). -/
def State.currentField (s : State) (t : Thread) : Except Stop FieldSt :=
  if 256 ≤ t.field then .error (.fault { code := 0x0603 })
  else
    match s.field? (s.slotOf t) t.field with
    | some f => .ok f
    | none => .error (.fault { code := 0x0603, aux := 1 })

/-- The field is in the transfer set of the thread's deterministic launch (11 R258). -/
def State.inTransferSet (s : State) (t : Thread) (fid : Nat) (f : FieldSt) : Bool :=
  match s.launchOf t with
  | some o => o.xferSet.contains (fid, f.gen)
  | none => false

/-! ### Cells (11 R239) -/

/-- The true content of a cell at its home: ω × 2^32 + c. -/
def State.trueAt (s : State) (loc : Nat) : Int := Sparse.get 0 s.omega loc * 2 ^ 32 + (s.homeNat loc 4 : Int)

/-- Writes the true content of a cell. -/
def State.setTrue (s : State) (loc : Nat) (v : Int) : State :=
  let s := s.homeWrite loc (leBytes 4 (v % 2 ^ 32).toNat)
  { s with omega := Sparse.set 0 s.omega loc (v / 2 ^ 32) }

/-- The ω of a content is within its 8 bits (11 R259). -/
def omegaFits (v : Int) : Bool := decide (-128 ≤ v / 2 ^ 32) && decide (v / 2 ^ 32 ≤ 127)

/-- A content as a register holds it: clamped to n32 (11 R248). -/
def clampCell (v : Int) : Word := BitVec.ofInt 32 (if v < 0 then 0 else if 2 ^ 32 - 1 < v then 2 ^ 32 - 1 else v)

/-- The key of a cell's order: device id above the address (11 R253). -/
def State.cellKey (s : State) (loc : Nat) : Nat :=
  match peerOf loc with
  | some d => d * Config.placeSpan + peerAddr loc
  | none => s.dev * Config.placeSpan + loc

/-- The locked cells of a transfer, the lower key first. -/
def State.lockOrder (s : State) (pa pb : Option Nat) : List Nat :=
  match pa, pb with
  | some a, some b => if s.cellKey a ≤ s.cellKey b then [a, b] else [b, a]
  | some a, none => [a]
  | none, some b => [b]
  | none, none => []

/-- The change that a transfer makes to a cell. -/
def cellDelta (m : Word) (pa : Option Nat) (loc : Nat) : Int := if pa = some loc then -(m.toNat : Int) else (m.toNat : Int)

/-! ### Counter sets (11 R240) -/

/-- Adds a change to a counter set. -/
def CounterSet.add (c : CounterSet) (u : CounterUpd) : CounterSet :=
  { c with interior := c.interior + BitVec.ofInt 64 u.dInterior, emitted := c.emitted + BitVec.ofInt 64 u.dEmitted,
           absorbed := c.absorbed + BitVec.ofInt 64 u.dAbsorbed, outOfRange := c.outOfRange + BitVec.ofInt 64 u.dRange }

/-- The sets of a field. -/
def State.setsOf (s : State) (slot fid : Nat) : List CounterSet := s.sets.filter (fun c => c.slot == slot && c.fid == fid)

/-- The sets that count a cell of this module, or of a peer, as keys: die, device (8), global (9). -/
def setKeys (loc : Nat) : List Nat := if (peerOf loc).isSome then [9] else [homeDie loc, 8, 9]

/-- Sends a change to the sets of the given keys that exist and whose change is not zero; the cell stays locked until each
has acknowledged. -/
def State.sendUpdates (s : State) (o : Op) (cell fid : Nat) (us : List (Nat × Int × Int × Int × Int)) : State :=
  us.foldl (fun s u =>
    let (key, dI, dE, dA, dR) := u
    if (dI == 0 && dE == 0 && dA == 0 && dR == 0) || !(s.setsOf o.slot fid).any (fun c => c.key == key) then s
    else
      let x : CounterUpd := { uid := s.nextId, op := o.id, cell := cell, slot := o.slot, fid := fid, key := key,
                              dInterior := dI, dEmitted := dE, dAbsorbed := dA, dRange := dR }
      ({ s with updates := s.updates ++ [x] } : State).bump) s

/-- Releases the cells that a transfer has changed and whose updates are all acknowledged, those sent to the module that runs the context
among them. -/
def State.releaseCell (s : State) (op cell : Nat) : State :=
  if s.updates.any (fun u => u.op == op && u.cell == cell) || s.reqs.any (fun r => r.op == op && r.pkt.typ == 8 && r.pkt.op == 4 && r.pos == cell)
  then s
  else { s with locks := s.locks.filter (fun l => !(l.op == op && l.cell == cell)) }

/-- What a transfer's change of a cell adds to the number of cells whose ω is not 0. -/
def State.rangeChange (s : State) (m : Word) (pa : Option Nat) (loc : Nat) : Int :=
  let old := s.trueAt loc
  (if (old + cellDelta m pa loc) / 2 ^ 32 = 0 then 0 else 1) - (if old / 2 ^ 32 = 0 then 0 else 1)

/-- The module that issued a transfer, as its coordinator knows it. -/
def State.issuerOf (s : State) (o : Op) : Nat :=
  match o.origin with
  | some q => q.src
  | none => s.dev

/-- A 64-bit number in two's complement, little-endian. -/
def intBytes (v : Int) : List Byte := leBytes 8 (BitVec.ofInt 64 v).toNat

/-- The home of a cell that a peer's transfer changes sends the counter updates to the module that runs the context, where the counter
sets stand, and releases the cell with its acknowledgement (11 R240, R253). The changes are those of a transfer of the amount m; `dI` and
`dR` are the changes of the interior and of the number of cells out of range. -/
def State.oweUpdate (s : State) (o : Op) (issuer cell fid : Nat) (dI dE dA dR : Int) : State :=
  if dI == 0 && dE == 0 && dA == 0 && dR == 0 then s
  else s.request o issuer 0 8 4 32 (leBytes 4 (fid % 256) ++ intBytes dI ++ intBytes dE ++ intBytes dA ++ leBytes 4 (BitVec.ofInt 32 dR).toNat) cell

/-- Changes a cell of a transfer at its home, and sends the updates it owes. A set that counts both cells takes no change of
the interior from a transfer between two ordinary cells (11 R241); the amounts of a source or sink travel with the cell's
own. A field that a peer's context runs has its sets on that peer. -/
def State.changeCell (s : State) (o : Op) (issuer fid : Nat) (m : Word) (pa pb : Option Nat) (loc : Nat) : State :=
  let old := s.trueAt loc
  let new := old + cellDelta m pa loc
  let dR := s.rangeChange m pa loc
  let other := if pa = some loc then pb else pa
  let both := fun (k : Nat) => match other with
    | some l => (setKeys l).contains k
    | none => false
  let own := (setKeys loc).map (fun k => (k, if both k then (0 : Int) else new - old, (0 : Int), (0 : Int), dR))
  let roleKeys := [fid % 8, 8, 9]
  let dE : Int := if pa.isNone then m.toNat else 0
  let dA : Int := if pb.isNone then m.toNat else 0
  if 256 ≤ fid then
    ((s.setTrue loc new).oweUpdate o issuer loc fid (if other.isSome then 0 else new - old) dE dA dR).releaseCell o.id loc
  else
  let us :=
    if other.isSome then own
    else
      own.map (fun (u : Nat × Int × Int × Int × Int) => if roleKeys.contains u.1 then (u.1, u.2.1, dE, dA, u.2.2.2.2) else u) ++
        (roleKeys.filter (fun k => !(own.any (fun u => u.1 == k)))).map (fun k => (k, 0, dE, dA, 0))
  ((s.setTrue loc new).sendUpdates o loc fid us).releaseCell o.id loc

/-- A transfer's change arrives at a counter set's slice, is applied and acknowledged (11 R240). -/
def execCounterSetUpdate (upd : Nat) (s : State) : Out :=
  match s.updates.find? (fun u => u.uid == upd) with
  | none => .next s
  | some u =>
    if u.applied then .next s
    else .next { s with
      sets := s.sets.map (fun c => if c.slot = u.slot ∧ c.fid = u.fid ∧ c.key = u.key then c.add u else c),
      updates := s.updates.map (fun x => if x.uid = upd then { x with applied := true } else x) }

/-- The acknowledgement arrives at the cell's home, which releases the cell with the last of them (11 R240). -/
def execCounterSetAcknowledgement (upd : Nat) (s : State) : Out :=
  match s.updates.find? (fun u => u.uid == upd) with
  | none => .next s
  | some u =>
    if !u.applied then .next s
    else .next (({ s with updates := s.updates.filter (fun x => x.uid != upd) } : State).releaseCell u.op u.cell)

/-! ### Locks (11 R254, R255) -/

/-- The NCU of a cell: die and slice of its home. -/
def ncuOf (loc : Nat) : Nat := homeDie loc * 24 + homeSlice loc

/-- The context slot of an operation. -/
def State.opSlot (s : State) (op : Nat) : Nat :=
  match s.op? op with
  | some o => o.slot
  | none => 16

/-- A lock request may take an entry: the cell is free, no earlier request or read waits for it, the NCU has an entry, and a
first lock is within the 48 and within its context's quota. -/
def State.lockFree (s : State) (l : Lock) (before : List Lock) : Bool :=
  let here := s.locks.filter (fun x => ncuOf x.cell == ncuOf l.cell)
  let firsts := here.filter (fun x => x.first)
  !(s.locks.any (fun x => x.cell == l.cell)) && !(before.any (fun x => x.cell == l.cell)) && decide (here.length < Config.lockEntries) &&
    (!l.first || (decide (firsts.length < 48) &&
      decide ((firsts.filter (fun x => s.opSlot x.op == s.opSlot l.op)).length < (s.slot (s.opSlot l.op)).qLk)))

/-- A waiting request of a lock, not a read, that could take an entry of an NCU now (11 R254). -/
def State.eligible (s : State) (l : Lock) (x : Lock) : Bool :=
  ncuOf x.cell == ncuOf l.cell && (match s.op? x.op with | some o => o.isXfer | none => false) &&
    s.lockFree x (s.lockWait.takeWhile (fun y => y != x))

/-- A lock request arrives: it takes its entry, or waits at the NCU, in arrival order behind those that wait for an entry (11 R254). -/
def State.askLock (s : State) (l : Lock) : State × Bool :=
  if s.lockFree l s.lockWait && !(s.lockWait.any (s.eligible l)) then ({ s with locks := s.locks ++ [l] }, true)
  else ({ s with lockWait := s.lockWait ++ [l] }, false)

/-! ### Transfers (11 R245 to R247, R253) -/

/-- The cells that a field operation names: (0, place) for an ordinary cell, (field + 1, index) for a source or sink. -/
def Op.cells (o : Op) : List (Nat × Nat) :=
  match o.kind with
  | .xfer fid ia ib _ pa pb _ =>
    [(match pa with | some l => (0, l) | none => (fid + 1, ia)), (match pb with | some l => (0, l) | none => (fid + 1, ib))]
  | .cellRead fid i cell check => if check then [] else [match cell with | some l => (0, l) | none => (fid + 1, i)]
  | .load a _ _ => if a.cls = 1 && a.sp = 0 then [(0, a.loc)] else []
  | _ => []

/-- An operation names a cell of a field at or above an index: a search of the field visits it (11 R251). -/
def State.namesFrom (s : State) (o : Op) (fid i : Nat) : Bool :=
  match o.kind with
  | .xfer k ia ib _ _ _ _ => k == fid && (decide (i ≤ ia) || decide (i ≤ ib))
  | .cellRead k j _ check => k == fid && !check && decide (i ≤ j)
  | .load a _ _ =>
    a.cls == 1 && a.sp == 0 && (match s.field? o.slot fid with
      | some f => decide (f.base + 4 * i ≤ a.va.toNat) && decide (a.va.toNat < f.base + 4 * f.n)
      | none => false)
  | _ => false

/-- Two field operations share a cell (11 R256). -/
def State.shareCell (s : State) (o p : Op) : Bool :=
  p.cells.any (fun x => o.cells.contains x) ||
    (match o.kind with | .cellRead fid i none true => s.namesFrom p fid i | _ => false) ||
    (match p.kind with | .cellRead fid i none true => s.namesFrom o fid i | _ => false)

/-- An earlier field operation of the thread, or one of a lower lane of the same word, that shares a cell has not completed
(11 R256). -/
def State.heldByCell (s : State) (o : Op) : Bool :=
  (s.ops.takeWhile (fun p => p.id != o.id)).any (fun p =>
    ((p.tid == o.tid && p.tid != 0) || (p.batch == o.batch && p.tid != 0)) && s.shareCell o p)

/-- A field operation, among them a load of a cell by its address (11 R248, R256). -/
def Op.isField (o : Op) : Bool :=
  match o.kind with
  | .xfer _ _ _ _ _ _ _ => true
  | .cellRead _ _ _ _ => true
  | .totals _ _ _ => true
  | .fdecl _ _ => true
  | .load a _ _ => a.cls = 1 && a.sp = 0
  | _ => false

/-- A request of an operation that has been sent has reached the peer's NCU: the cycle in which it does is a free value (11 R256). -/
def State.reachedPeer (s : State) (o : Op) : Bool :=
  s.reqs.any (fun r => r.op == o.id && r.sends != 0) && decide (Config.arrivalAt o.id ≤ s.now)

/-- A field operation has reached its NCU (11 R256). -/
def State.reached (s : State) (o : Op) : Bool :=
  o.arrived || o.served || s.reachedPeer o || s.lockWait.any (fun l => l.op == o.id) ||
    (match o.kind with
     | .xfer _ _ _ _ _ _ x => x != .sent && !s.reqs.any (fun r => r.op == o.id && r.pkt.typ == 7)
     | .fdecl _ a => a == 0 || !o.data.isEmpty
     | .cellRead _ _ _ _ => !o.data.isEmpty
     | _ => false)

/-- An earlier field operation of the thread, or one of a lower lane of the same word, has not reached its NCU (11 R256). -/
def State.heldByReach (s : State) (o : Op) : Bool :=
  (s.ops.takeWhile (fun p => p.id != o.id)).any (fun p =>
    ((p.tid == o.tid && p.tid != 0) || (p.batch == o.batch && p.tid != 0)) && p.isField && !s.reached p)

/-- What holds a field operation at its core: an earlier one that shares a cell or has not reached its NCU (11 R256), and an earlier
`ldacq` (07 R178). -/
def State.fieldHeld (s : State) (o : Op) : Bool := s.heldByCell o || s.heldByReach o || s.heldByAcquire o

/-- The transfer crosses modules: its two cells are homed on different ones (11 R242). -/
def crossModule (pa pb : Option Nat) : Bool :=
  match pa, pb with
  | some a, some b => peerOf a != peerOf b
  | _, _ => false

/-- A read of the totals of a field. -/
def State.readsTotals (s : State) (op fid : Nat) : Bool :=
  match s.op? op with
  | none => false
  | some o => match o.kind with
    | .totals k _ _ => k == fid
    | _ => false

/-- A read of the global set holds the field's cross-module transfers that were issued after it began (11 R242). -/
def State.heldByTotals (s : State) (o : Op) : Bool :=
  match o.kind with
  | .xfer fid _ _ _ pa pb _ =>
    o.origin.isNone && crossModule pa pb && (s.slot o.slot).holds.any (fun h => decide (h.1 < o.id) && s.readsTotals h.1 fid)
  | _ => false

/-- The operation performs a peer's second-lock request: it only holds the higher cell (11 R253 step 3). -/
def Op.second (o : Op) : Bool :=
  match o.origin with
  | some q => q.typ == 8
  | none => false

/-- The step of a transfer. -/
def State.setStep (s : State) (op : Nat) (x : XferStep) : State :=
  s.mapOp op (fun o => match o.kind with
    | .xfer fid ia ib m pa pb _ => { o with kind := .xfer fid ia ib m pa pb x }
    | _ => o)

/-- The fault of a transfer, from the contents that its checks see: 0x0601 for the debited cell, then 0x0602 for the credited
one; in deterministic mode only a change that would take ω outside its range (11 R246, R259). -/
def xferFault (det : Bool) (m : Word) (ca cb : Option Int) : Option Nat :=
  let bad := fun (v : Int) (up : Bool) =>
    if det then !omegaFits v else if up then decide (2 ^ 32 - 1 < v) else decide (v < 0)
  match ca, cb with
  | some a, some b => if bad (a - m.toNat) false then some 0x0601 else if bad (b + m.toNat) true then some 0x0602 else none
  | some a, none => if bad (a - m.toNat) false then some 0x0601 else none
  | none, some b => if bad (b + m.toNat) true then some 0x0602 else none
  | none, none => none

/-- Records the fault of a transfer: the failing cell's index and address (11 R246, R247). -/
def State.xferFails (s : State) (o : Op) (code fid ia ib : Nat) : State :=
  let i := if code = 0x0601 then ia else ib
  let va := match s.field? o.slot fid with
    | some f => f.cellVa i
    | none => 0
  s.mapOp o.id (fun p => { p with fault := some (code, va, BitVec.ofNat 32 i) })

/-- Releases every lock of a transfer, the cells unchanged. -/
def State.unlockOne (s : State) (op cell : Nat) : State :=
  { s with locks := s.locks.filter (fun l => !(l.op == op && l.cell == cell)) }

/-- The coordinator makes the checks of R246 on the contents of the locked cells and goes on as R253 gives. `hc` is the
content of the higher cell where it lies on a peer. -/
def State.coordinate (s : State) (o : Op) (hc : Option Int) : State :=
  match o.kind with
  | .xfer fid ia ib m pa pb _ =>
    let content := fun (x : Option Nat) => x.map (fun l => if (peerOf l).isSome then hc.getD 0 else s.trueAt l)
    match s.lockOrder pa pb with
    | [l] =>
      (match xferFault o.detM m (content pa) (content pb) with
       | some code => ((s.xferFails o code fid ia ib).unlockOne o.id l).setStep o.id .done
       | none => (s.changeCell o (s.issuerOf o) fid m pa pb l).setStep o.id .applied)
    | [l, _] =>
      (match xferFault o.detM m (content pa) (content pb) with
       | some code => ((s.xferFails o code fid ia ib).unlockOne o.id l).setStep o.id .unlock
       | none => s.setStep o.id .commit)
    | _ => s
  | _ => s

/-- The first lock of a transfer is held: with one locked cell the coordinator decides at once. -/
def State.firstHeld (s : State) (op : Nat) : State :=
  match s.op? op with
  | none => s
  | some o =>
    match o.kind with
    | .xfer _ _ _ _ pa pb _ =>
      if (s.lockOrder pa pb).length = 1 then s.coordinate o none else s.setStep op .first
    | _ => s

/-- What follows when a lock is obtained: the NCU reads the cell, whose check code may fail (16 R375). -/
def State.lockHeld (s : State) (l : Lock) : State :=
  match s.op? l.op with
  | none => s
  | some o =>
    if s.homeBad l.cell 4 then s.opError o l.cell 0
    else if l.first then s.firstHeld l.op
    else
      match o.origin with
      | some p =>
        if o.second then (s.respond p 0x10 0 (leBytes 8 (BitVec.ofInt 64 (s.trueAt l.cell)).toNat)).setStep l.op .commit
        else s.coordinate o none
      | none => s.coordinate o none

/-- What the request of a transfer to a coordinator on a peer carries: the amount, the field, the higher cell, and flags
(14 R320; the layout is the model's). -/
def State.xferOperands (s : State) (o : Op) (fid : Nat) (m : Word) (pa pb : Option Nat) : List Byte :=
  let ls := s.lockOrder pa pb
  let lowDebit := match ls with
    | l :: _ => pa == some l
    | [] => false
  let high := match ls with
    | [_, h] => some h
    | _ => none
  leBytes 4 m.toNat ++ leBytes 4 fid ++
    leBytes 4 (match high with | some h => (peerOf h).getD s.dev | none => 2 ^ 32 - 1) ++
    leBytes 8 (match high with | some h => peerAddr h | none => 0) ++
    leBytes 4 ((if lowDebit then 1 else 0) + (if o.detM then 2 else 0)) ++ leBytes 8 0

/-- A transfer arrives at its coordinator, which takes the first lock (11 R253). -/
def execXferCoordinatorRequest (op : Nat) (s : State) : Out :=
  match s.op? op with
  | none => .next s
  | some o =>
    match o.kind with
    | .xfer fid ia ib m pa pb .sent =>
      if s.fieldHeld o || s.heldByTotals o then .next s
      else if ia = ib && o.origin.isNone then .next (s.setStep op .done)
      else
        (match s.lockOrder pa pb with
         | [] =>
           -- a transfer from a source to a sink changes no cell
           .next ((s.sendUpdates o 0 fid
             ([fid % 8, 8, 9].map (fun k => (k, (0 : Int), (m.toNat : Int), (m.toNat : Int), (0 : Int))))).setStep op .applied)
         | l :: _ =>
           match peerOf l with
           | some d =>
             .next ((s.request o d (peerAddr l) 7 0 4 (s.xferOperands o fid m pa pb) 0).setStep op .waitFirst)
           | none =>
             let r := s.askLock { cell := l, op := op, first := true }
             if r.2 then .next (r.1.lockHeld { cell := l, op := op, first := true }) else .next (r.1.setStep op .waitFirst))
    | _ => .next s

/-- A lock request waiting at an NCU obtains an entry, in arrival order (11 R254). `op` names the transfer. -/
def execLockEntryGrant (op : Nat) (s : State) : Out :=
  match s.lockWait.find? (fun l => l.op == op && (match s.op? op with
      | some o => o.isXfer
      | none => true)) with
  | none => .next s
  | some l =>
    let before := s.lockWait.takeWhile (fun x => x != l)
    if !s.lockFree l before || before.any (s.eligible l) then .next s
    else
      .next (({ s with lockWait := s.lockWait.filter (fun x => x != l), locks := s.locks ++ [l] } : State).lockHeld l)

/-- A second-lock request arrives at the higher cell's home, which locks it and returns its content (11 R253 step 3); one of a peer's
coordinator names the cell by its address. -/
def execXferSecondLock (op : Nat) (s : State) : Out :=
  match s.op? op with
  | none => .next s
  | some o =>
    match o.kind with
    | .xfer fid _ _ m pa pb .first =>
      let ls := match o.origin with
        | some p => if o.second then [0, p.addr] else s.lockOrder pa pb
        | none => s.lockOrder pa pb
      (match ls with
       | [_, h] =>
         match peerOf h with
         | some d =>
           .next ((s.request o d (peerAddr h) 8 0 4 (leBytes 4 m.toNat ++ leBytes 4 (if pa = some h then 1 else 0) ++
             leBytes 4 (fid % 256) ++ leBytes 4 (s.issuerOf o)) 0).setStep op .waitSecond)
         | none =>
           let r := s.askLock { cell := h, op := op, first := false }
           let s := r.1.setStep op .waitSecond
           if r.2 then .next (s.lockHeld { cell := h, op := op, first := false }) else .next s
       | _ => .next s)
    | _ => .next s

/-- A commit arrives at the higher cell's home, which applies its change and counter updates and acknowledges (11 R253
step 5). -/
def execXferCommit (op : Nat) (s : State) : Out :=
  match s.op? op with
  | none => .next s
  | some o =>
    match o.kind with
    | .xfer fid _ _ m pa pb .commit =>
      if o.second then .next s
      else
        (match s.lockOrder pa pb with
         | [_, h] =>
           match peerOf h with
           | some d =>
             .next ((s.request o d (peerAddr h) 8 1 8 (leBytes 4 m.toNat ++ leBytes 4 (s.issuerOf o)) 0).setStep op .acked)
           | none => .next ((s.changeCell o (s.issuerOf o) fid m pa pb h).setStep op .acked)
         | _ => .next s)
    | _ => .next s

/-- An unlock arrives at the higher cell's home, which releases it unchanged (11 R253 step 4). -/
def execXferUnlock (op : Nat) (s : State) : Out :=
  match s.op? op with
  | none => .next s
  | some o =>
    match o.kind with
    | .xfer _ _ _ _ pa pb .unlock =>
      (match s.lockOrder pa pb with
       | [_, h] =>
         match peerOf h with
         | some d => .next ((s.request { o with tid := 0 } d (peerAddr h) 8 2 1 [] 0).setStep op .done)
         | none => .next ((s.unlockOne op h).setStep op .done)
       | _ => .next s)
    | _ => .next s

/-- The acknowledgement arrives at the coordinator, which applies the lower cell's change and releases it (11 R253 step 6). -/
def execXferAcknowledge (op : Nat) (s : State) : Out :=
  match s.op? op with
  | none => .next s
  | some o =>
    match o.kind with
    | .xfer fid _ _ m pa pb .acked =>
      (match s.lockOrder pa pb with
       | [l, h] =>
         if s.locks.any (fun x => x.op == op && x.cell == h) || s.awaits op then .next s
         else .next ((s.changeCell o (s.issuerOf o) fid m pa pb l).setStep op .applied)
       | _ => .next s)
    | _ => .next s

/-- A transfer completes when its changes are applied, its counter sets have acknowledged and its locks are released
(11 R247). -/
def execXferComplete (op : Nat) (s : State) : Out :=
  match s.op? op with
  | none => .next s
  | some o =>
    match o.kind with
    | .xfer _ _ _ _ _ _ step =>
      if (step != .applied && step != .done) || o.arrived || s.awaits op ||
          s.locks.any (fun l => l.op == op) || s.updates.any (fun u => u.op == op) then .next s
      else .next (s.arrive op id)
    | _ => .next s

/-! ### Issue of transfers (11 R245) -/

/-- Check 6 of R245 for one cell: none for a source or sink, otherwise its place. `write` says that W is consulted. -/
def State.cellAccess (s : State) (t : Thread) (f : FieldSt) (i : Nat) (write : Bool) : State × Except Stop (Option Nat) :=
  if f.role i ≠ 0 then (s, .ok none)
  else
    let va := f.cellVa i
    match s.translate t va with
    | (s, .wait wid) => (s, .error (.leave (.walk wid)))
    | (s, .bad aux) => (s, .error (.fault { code := 0x0501, addr := va, aux := aux }))
    | (s, .hit x) =>
      match s.pageChecks t x va { ofClass := fun c => if c = 1 then none else some (0x0504, 1), write := write } with
      | some e => (s, .error (.fault e))
      | none => (s, .ok (some (x.place (va57 va))))

/-- A 0x0604 (11 R243). -/
def indexFault (i : Word) (cause : Word) : Stop := .fault { code := 0x0604, addr := i.setWidth 64, aux := cause }

/-- The checks of `xfer` (11 R245). The cell that the record of a frozen field names is cell ia (DESIGN CHOICE, assumption 120). -/
def xferChecks (d a b : Reg) (s : State) (_ : Ctx) (t : Thread) : State × Except Stop (Nat × Nat × Nat × Word × Option Nat × Option Nat) :=
  if t.full .st then (s, .error (.leave (.room .st)))
  else
    match s.currentField t with
    | .error x => (s, .error x)
    | .ok f =>
      let k := (s.fieldFrac t).getD 0
      let ia := t.rd k .int a
      let ib := t.rd k .int b
      if f.n ≤ ia.toNat then (s, .error (indexFault ia 0))
      else if f.n ≤ ib.toNat then (s, .error (indexFault ib 0))
      else if f.role ib.toNat = 1 then (s, .error (indexFault ib 1))
      else if f.role ia.toNat = 2 then (s, .error (indexFault ia 2))
      else if t.modeD && !s.inTransferSet t t.field f then (s, .error (.fault { code := 0x0605 }))
      else if f.frozen then (s, .error (.fault { code := 0x0504, addr := f.cellVa ia.toNat, aux := 0xFFFFFFFF }))
      else
        match s.cellAccess t f ia.toNat true with
        | (s, .error x) => (s, .error x)
        | (s, .ok pa) =>
          match s.cellAccess t f ib.toNat true with
          | (s, .error x) => (s, .error x)
          | (s, .ok pb) => (s, .ok (t.field, ia.toNat, ib.toNat, t.rd k .cq d, pa, pb))

/-- `xfer` (11 R245, R246). -/
def execXfer (d a b : Reg) (s : State) : Out :=
  .next (issue ({
    shape := fun _ => { named := [d, a, b], reads := [(.cq, d), (.int, a), (.int, b)] },
    pre := xferChecks d a b,
    act := eachThread (fun s c t x =>
      let (fid, ia, ib, m, pa, pb) := x
      (s.addOp (s.newOp c t .st (.xfer fid ia ib m pa pb .sent)), .go)) }) s)

/-! ### Selecting and reading (11 R244, R248, R249, R251, R252) -/

/-- `fsel` (11 R244). -/
def execFsel (a : Reg) (s : State) : Out :=
  .next (issue ({
    shape := fun _ => { named := [a], reads := [(.int, a)] },
    pre := fun s _ t =>
      let k := (t.rd ((s.fieldFrac t).getD 0) .int a).toNat
      if 256 < k then (s, .error (.fault { code := 0x0603, aux := 2 }))
      else if k < 256 && (s.field? (s.slotOf t) k).isNone then (s, .error (.fault { code := 0x0603, aux := 1 }))
      else (s, .ok k),
    act := eachThread (fun s _ t k => (s.setThread { t with field := k }, .go)) }) s)

/-- `fld` (11 R248). -/
def execFld (d a : Reg) (s : State) : Out :=
  .next (issue ({
    shape := fun _ => { named := [d, a], reads := [(.int, a)] },
    pre := fun s _ t =>
      if t.full .ld then (s, .error (.leave (.room .ld)))
      else
        match s.currentField t with
        | .error x => (s, .error x)
        | .ok f =>
          let i := t.rd ((s.fieldFrac t).getD 0) .int a
          if f.n ≤ i.toNat then (s, .error (indexFault i 0))
          else if t.modeD && s.inTransferSet t t.field f then (s, .error (.fault { code := 0x0605 }))
          else
            match s.cellAccess t f i.toNat false with
            | (s, .error x) => (s, .error x)
            | (s, .ok p) => (s, .ok (t.field, i.toNat, p)),
    act := eachThread (fun s c t x =>
      (s.addOp { s.newOp c t .ld (.cellRead x.1 x.2.1 x.2.2 false) with dsts := [d], tag := .cq }, .go)) }) s)

/-- A read waits behind a lock of its cell or behind a request queued before it (11 R255). -/
def State.cellBusy (s : State) (op loc : Nat) : Bool :=
  s.locks.any (fun l => l.cell == loc) || (s.lockWait.takeWhile (fun l => l.op != op)).any (fun l => l.cell == loc)

/-- A read of a cell arrives: it waits in the cell's order, or is served. -/
def State.queueRead (s : State) (op loc : Nat) : State :=
  if s.lockWait.any (fun l => l.op == op && l.cell == loc) then s
  else { s with lockWait := s.lockWait ++ [{ cell := loc, op := op, first := false }] }

/-- A read leaves the cell's order. -/
def State.leaveRead (s : State) (op : Nat) : State := { s with lockWait := s.lockWait.filter (fun l => l.op != op) }

/-- `fchk` has visited cell i and found its ω to be 0, or has passed over a source or sink: it goes on above it. `start` is kept in its
data from the first cell on. -/
def State.checkOn (s : State) (o : Op) (fid i : Nat) : State :=
  (s.leaveRead o.id).mapOp o.id (fun p =>
    { p with kind := .cellRead fid (i + 1) none true, data := [p.data.headD (BitVec.ofNat 32 i)] })

/-- `fchk` ends: with the cell found and its ω, or with none. -/
def State.checkFound (s : State) (o : Op) (x y : Word) : State :=
  (s.leaveRead o.id).arrive o.id (fun p => { p with data := [x, y] })

/-- The visit of `fchk` to cell i has read its ω. -/
def State.checkVisited (s : State) (o : Op) (fid i : Nat) (w : Word) : State :=
  if w = 0 then s.checkOn o fid i else s.checkFound o (BitVec.ofNat 32 i) w

/-- The next step of `fchk` at cell i (11 R251): past the field's end nothing is found, nor where the global out-of-range counter is 0
before the first cell; a source or sink is passed over. A cell whose page is no longer mapped raises 0x0501 on completion (DESIGN CHOICE,
assumption 120). -/
def State.checkCell (s : State) (o : Op) (fid i : Nat) : State :=
  match s.field? o.slot fid with
  | none => s.checkFound o 0xFFFFFFFF 0
  | some f =>
    if f.n ≤ i || (o.data.isEmpty && (s.setsOf o.slot fid).any (fun c => c.key == 9 && c.outOfRange == 0)) then s.checkFound o 0xFFFFFFFF 0
    else if f.role i ≠ 0 then s.checkOn o fid i
    else
      match s.translateFor o.id o.core o.slot (f.cellVa i) with
      | (s, .wait) => s
      | (s, .failed aux) => (s.leaveRead o.id).arriveFault o.id 0x0501 (f.cellVa i) aux
      | (s, .found x) =>
        let loc := x.place (va57 (f.cellVa i))
        match peerOf loc with
        | some d => if s.awaits o.id then s else s.request o d (peerAddr loc) 9 10 4 [] 0
        | none =>
          if s.cellBusy o.id loc then s.queueRead o.id loc
          else if s.homeBad loc 4 then (s.leaveRead o.id).opError o loc (f.cellVa i)
          else s.checkVisited o fid i (BitVec.ofInt 32 (Sparse.get 0 s.omega loc))

/-- A read of a place that holds a cell of this module: queued behind its lock, or served from its true content, once its check code is good
(16 R375). -/
def State.readCell (s : State) (o : Op) (loc : Nat) (value : Int → List Word) : State :=
  if s.cellBusy o.id loc then s.queueRead o.id loc
  else if s.homeBad loc 4 then (s.leaveRead o.id).opError o loc 0
  else (s.leaveRead o.id).arrive o.id (fun p => { p with data := value (s.trueAt loc) })

/-- The role of a place that `ld.b32` reads by address: a source or sink cell reads as 0 (07 R167, 11 R248). -/
def State.roleByVa (s : State) (slot : Nat) (va : Pair) : Bool :=
  (s.slot slot).fields.any (fun p => p.2.usable && decide (p.2.base ≤ va.toNat) && decide (va.toNat < p.2.base + 4 * p.2.n) &&
    p.2.role ((va.toNat - p.2.base) / 4) != 0)

/-- Serves a read of a cell (`fld`, `fchk`, or `ld.b32` of a conserved-field page). -/
def State.serveCell (s : State) (o : Op) : State :=
  if o.arrived || s.fieldHeld o then s
  else
    match o.kind with
    | .cellRead _ _ (some loc) true => s.readCell o loc (fun v => [BitVec.ofInt 32 (v / 2 ^ 32)])
    | .cellRead fid i none true => s.checkCell o fid i
    | .cellRead fid _ none false => let _ := fid; s.arrive o.id (fun p => { p with data := [0] })
    | .cellRead fid _ (some loc) false =>
      (match peerOf loc with
       | some d => if s.awaits o.id then s else s.request o d (peerAddr loc) 9 8 4 (leBytes 4 fid) 0
       | none => s.readCell o loc (fun v => [clampCell v]))
    | .load a _ _ =>
      if a.cls ≠ 1 || a.sp ≠ 0 then s
      else
        (match a.peer with
         | some d => if s.awaits o.id then s else s.request o d (peerAddr a.loc) 9 8 4 (leBytes 4 0) 0
         | none =>
           if s.roleByVa o.slot a.va then s.arrive o.id (fun p => { p with data := [0] })
           else s.readCell o a.loc (fun v => [clampCell v]))
    | _ => s

/-- A cell read is served once no lock on the cell is held or queued before it (11 R255). -/
def execCellReadServed (op : Nat) (s : State) : Out :=
  match s.op? op with
  | none => .next s
  | some o => .next (s.serveCell o)

/-- The words that `ftot` writes (11 R249). -/
def CounterSet.words (c : CounterSet) (k : Nat) : List Word :=
  let w := fun (p : Pair) => [loWord p, hiWord p]
  match k with
  | 0 => w c.interior
  | 1 => w c.emitted
  | 2 => w c.absorbed
  | 3 => w c.initial
  | 4 => w c.outOfRange
  | _ => w c.interior ++ w c.emitted ++ w c.absorbed

/-- The registers that `ftot` writes, in the order of its words. -/
def totalRegs (d : Reg) (k : Nat) : List Reg := if k = 5 then [d, d + 1, d + 2, d + 3, d + 4, d + 5] else pairRegs d

/-- `ftot` (11 R249): a read of the global set holds the context's cross-module transfers from its issue on (R242). -/
def execFtot (d : Reg) (x : BitVec 2) (k : BitVec 3) (s : State) : Out :=
  .next (issue ({
    shape := fun _ => { named := namesOf ((totalRegs d k.toNat).filter (fun r => d.toNat ≤ r.toNat)),
                        past := if k = 5 && 122 < d.toNat then some 128 else none },
    pre := fun s _ t =>
      if t.full .ld then (s, .error (.leave (.room .ld)))
      else
        match s.currentField t with
        | .error e => (s, .error e)
        | .ok f =>
          if t.modeD && k ≠ 3 && s.inTransferSet t t.field f then (s, .error (.fault { code := 0x0605 }))
          else (s, .ok t.field),
    act := eachThread (fun s c t fid =>
      let key := match x.toNat with
        | 0 => dieOf t.core
        | 1 => 8
        | _ => 9
      let o := { s.newOp c t .ld (.totals fid key k.toNat) with dsts := totalRegs d k.toNat, tag := .x64 }
      let s := s.addOp o
      (if key = 9 then s.mapSlot o.slot (fun c => { c with holds := c.holds ++ [(o.id, s.coreClock o.core)] }) else s, .go)) }) s)

/-- Cross-module transfers of a field that were under way when a read of its global set began (11 R242). -/
def State.underWay (s : State) (slot fid op : Nat) : Bool :=
  s.ops.any (fun o => o.slot == slot && decide (o.id < op) && o.origin.isNone &&
    (match o.kind with | .xfer k _ _ _ pa pb _ => k == fid && crossModule pa pb | _ => false))

/-- Reads a counter set as one event and lifts the hold (11 R240, R242). -/
def State.readTotals (s : State) (o : Op) (fid key k : Nat) : State :=
  let c := ((s.setsOf o.slot fid).find? (fun c => c.key == key)).getD { slot := o.slot, fid := fid, key := key }
  (s.mapSlot o.slot (fun x => { x with holds := x.holds.filter (fun h => h.1 != o.id) })).arrive o.id
    (fun p => { p with data := c.words k })

/-- The read of a counter set, where no cross-module transfer under way delays it. -/
def State.serveTotals (s : State) (o : Op) : State :=
  match o.kind with
  | .totals fid key k =>
    if o.arrived || s.fieldHeld o then s
    else if key == 9 && s.underWay o.slot fid o.id then s.mapOp o.id (fun p => { p with served := true })
    else s.readTotals o fid key k
  | _ => s

/-- What holds a read of the global set at its core, transfers of the field between modules apart, for which its wait has a limit (11 R242,
R256). -/
def State.totalsHeld (s : State) (o : Op) (fid : Nat) : Bool :=
  s.heldByAcquire o || ({ s with ops := s.ops.filter (fun p => match p.kind with
    | .xfer k _ _ _ pa pb _ => !(k == fid && crossModule pa pb && p.slot == o.slot)
    | _ => true) } : State).heldByReach o

/-- A read of the global set stops waiting after 5 µs, 3,000 cycles of the reading die's counter (11 R242, 01 R17). -/
def execFtotHoldTimeout (op : Nat) (s : State) : Out :=
  match s.op? op with
  | none => .next s
  | some o =>
    match o.kind with
    | .totals fid 9 k =>
      if o.arrived || s.totalsHeld o fid || s.coreClock o.core < o.since + 3000 then .next s else .next (s.readTotals o fid 9 k)
    | _ => .next s

/-- `fchk` (11 R251). -/
def execFchk (d a : Reg) (s : State) : Out :=
  .next (issue ({
    shape := fun _ => { named := pairNames d ++ [a], reads := [(.int, a)] },
    pre := fun s _ t =>
      if t.full .ld then (s, .error (.leave (.room .ld)))
      else
        match s.currentField t with
        | .error e => (s, .error e)
        | .ok f =>
          if t.modeD && s.inTransferSet t t.field f then (s, .error (.fault { code := 0x0605 }))
          else (s, .ok (t.field, (t.rd ((s.fieldFrac t).getD 0) .int a).toNat)),
    act := eachThread (fun s c t x =>
      (s.addOp { s.newOp c t .ld (.cellRead x.1 x.2 none true) with dsts := pairRegs d, tag := .int }, .go)) }) s)

/-- `finfo` (11 R252). -/
def execFinfo (d a : Reg) (q : BitVec 7) (s : State) : Out :=
  let wide := q = 2 || q = 4
  .next (issue ({
    shape := fun _ => { named := (if wide then pairNames d else [d]) ++ (if q = 3 then [a] else []),
                        reads := if q = 3 then [(.int, a)] else [] },
    pre := fun s _ t =>
      match s.currentField t with
      | .error e => (s, .error e)
      | .ok f => (s, .ok f),
    act := eachThread (fun s _ t f =>
      let w := fun (n : Nat) => BitVec.ofNat 32 n
      (s.setThread (match q.toNat with
        | 0 => t.setReg d (w (f.word 3)) .int
        | 1 => t.setReg d (w (f.word 2)) .int
        | 2 => t.setPair d (BitVec.ofNat 64 f.base) .x64
        | 3 => t.setReg d (w (f.role (t.rd ((s.fieldFrac t).getD 0) .int a).toNat)) .int
        | _ => t.setPair d (BitVec.ofNat 64 f.init) .x64), .go)) }) s)

/-! ### Installing and removing (11 R250) -/

/-- A translation that a list has no entry for yet joins it. -/
def withTrans (ps : List Trans) (x : Trans) : List Trans := if ps.contains x then ps else ps ++ [x]

/-- Every ordinary cell's page passes the checks of R245 step 6, from cell i on: the first bad one faults. A miss stalls the thread, which
goes on from that cell. The pages of source and sink cells are found with them, and one that is not present is passed over (R250 steps 4
and 6). -/
def State.cellPages (s : State) (t : Thread) (f : FieldSt) (i n : Nat) (ps : List Trans) : State × Except Stop (List Trans) :=
  match n with
  | 0 => (s, .ok ps)
  | n + 1 =>
    let va := f.cellVa i
    match s.translate t va with
    | (s, .wait wid) => (s.mapThread t.tid (fun u => { u with checked := i, pages := ps }), .error (.leave (.walk wid)))
    | (s, .bad aux) =>
      if f.role i ≠ 0 then State.cellPages s t f (i + 1) n ps else (s, .error (.fault { code := 0x0501, addr := va, aux := aux }))
    | (s, .hit x) =>
      if f.role i ≠ 0 then State.cellPages s t f (i + 1) n (withTrans ps x)
      else
        match s.pageChecks t x va { ofClass := fun c => if c = 1 then none else some (0x0504, 1), write := true } with
        | some e => (s, .error (.fault e))
        | none => State.cellPages s t f (i + 1) n (withTrans ps x)

/-- The 16 words of a descriptor at their home on this module. -/
def State.descriptorAt (s : State) (loc : Nat) : List Word := (List.range 16).map (fun i => BitVec.ofNat 32 (s.homeNat (loc + 4 * i) 4))

/-- Asks the home of a descriptor, here or at a peer, for its 64 bytes; the thread waits for them at its `fdecl` (11 R250 step 2). -/
def State.askDescriptor (s : State) (c : Ctx) (t : Thread) (acc : Access) : State × Wait :=
  let o := s.newOp c t .none (.descr acc)
  let s1 := s.addOp o
  (match acc.peer with
   | some d => s1.request o d (peerAddr acc.loc) 1 0 64 [] 0
   | none => s1, .op o.id)

/-- The read of a descriptor at its home on this module; bytes that fail their check end the context (01 R33). -/
def State.readDescriptor (s : State) (o : Op) (acc : Access) : State :=
  if acc.peer.isSome then s
  else if s.homeBad acc.loc 64 then s.opError o acc.loc acc.va
  else s.arrive o.id (fun q => { q with data := s.descriptorAt acc.loc })

/-- `fdecl` with a zero address: removes the field. -/
inductive Decl where
  | remove (fid : Nat)
  | install (fid : Nat) (f : FieldSt)
  deriving DecidableEq, Repr

/-- The checks that `fdecl` makes at issue, steps 1 to 4 of R250. An id whose installation is still pending holds its descriptor already: aux 5
(DESIGN CHOICE, assumption 120). -/
def fdeclChecks (a b : Reg) (s : State) (c : Ctx) (t : Thread) : State × Except Stop Decl :=
  let j := (t.rd ((s.fieldFrac t).getD 0) .int a).toNat
  let addr := t.pair b
  if t.full .st then (s, .error (.leave (.room .st)))
  else if 256 ≤ j then (s, .error (.fault { code := 0x0603, aux := 2 }))
  else if addr = 0 then (s, .ok (.remove j))
  else if (Sparse.find (s.slot (s.slotOf t)).fields j).isSome then (s, .error (.fault { code := 0x0603, aux := 5 }))
  else if !s.holds t .quiet then (s, .error (.leave .quiet))
  else
    let s := (s.releasePush t.core 2).codeOut t 3
    match s.globalAccess t addr 64 0 none (needLoad false) with
    | (s, .error x) => (s, .error x)
    | (s, .ok acc) =>
      if t.descr.isEmpty then
        let r := s.askDescriptor c t acc
        (r.1, .error (.leave r.2))
      else
        let f : FieldSt := { words := t.descr, usable := false, gen := s.nextId }
        if !f.valid then (s, .error (.fault { code := 0x0603, aux := 3 }))
        else
          match s.cellPages t f t.checked (f.n - t.checked) t.pages with
          | (s, .error e) => (s, .error e)
          | (s, .ok ps) => (s, .ok (.install j { f with pages := ps }))

/-- `fdecl` (11 R250). -/
def execFdecl (a b : Reg) (s : State) : Out :=
  .next (issue ({
    shape := fun _ => { named := [a] ++ pairNames b, reads := [(.int, a), (.int64, b)], level := .supervisor },
    pre := fdeclChecks a b,
    act := eachThread (fun s c t x =>
      match x with
      | .remove j => (s.addOp (s.newOp c t .st (.fdecl j 0)), .go)
      | .install j f =>
        if (Sparse.find (s.slot (s.slotOf t)).fields j).isSome then (s, .fault { code := 0x0603, aux := 5 })
        else
          let s := s.addOp (s.newOp c t .st (.fdecl j (t.pair b)))
          (s.mapSlot (s.slotOf t) (fun x => { x with fields := Sparse.put x.fields j f }), .go)) }) s)

/-- An operation on a field of a context that is not complete; of the installs and removals of the field, those issued before `op`. -/
def Op.onField (o : Op) (op slot fid : Nat) : Bool :=
  o.slot == slot &&
    (match o.kind with
     | .xfer k _ _ _ _ _ _ => k == fid
     | .cellRead k _ _ _ => k == fid
     | .totals k _ _ => k == fid
     | .fdecl k _ => k == fid && decide (o.id < op)
     | _ => false)

/-- The translation of an address of a field that `fdecl` found at issue. -/
def FieldSt.page? (f : FieldSt) (va : Pair) : Option Trans :=
  f.pages.find? (fun x => decide (x.vbase ≤ va57 va) && decide (va57 va < x.vbase + x.size))

/-- The places of the ordinary cells of a field, from cell i on. -/
def FieldSt.cellPlaces (f : FieldSt) (i n : Nat) : List Nat :=
  match n with
  | 0 => []
  | n + 1 =>
    let rest := FieldSt.cellPlaces f (i + 1) n
    if f.role i ≠ 0 then rest
    else
      match f.page? (f.cellVa i) with
      | some x => x.place (va57 (f.cellVa i)) :: rest
      | none => rest

/-- The places of the source and sink cells that a conserved-field page backs (11 R250 step 6). -/
def FieldSt.rolePlaces (f : FieldSt) : List Nat :=
  (f.sourceCells ++ f.sinkCells).filterMap (fun i =>
    match f.page? (f.cellVa i) with
    | some x => if x.cls == 1 then some (x.place (va57 (f.cellVa i))) else none
    | none => none)

/-- The ordinary cells of a field that peers hold. -/
def FieldSt.peerOrdinary (f : FieldSt) : List Nat := (f.cellPlaces 0 f.n).filter (fun l => (peerOf l).isSome)

/-- The cells on peers that `fdecl` reads, in the order of its requests. -/
def FieldSt.peerCells (f : FieldSt) : List Nat := f.peerOrdinary ++ f.rolePlaces.filter (fun l => (peerOf l).isSome)

/-- What the peers have answered to the reads of `fdecl`, by place. -/
def Op.peerWords (o : Op) (f : FieldSt) : List (Nat × Word) := f.peerCells.zip o.data

/-- The content of a cell at its home as `fdecl` reads it. -/
def State.cellWord (s : State) (ws : List (Nat × Word)) (loc : Nat) : Nat :=
  if (peerOf loc).isSome then
    match ws.find? (fun x => x.1 == loc) with
    | some x => x.2.toNat
    | none => 0
  else s.homeNat loc 4

/-- The sum of cells as `fdecl` reads them. -/
def State.cellSum (s : State) (ws : List (Nat × Word)) (places : List Nat) : Nat := places.foldl (fun n l => n + s.cellWord ws l) 0

/-- The counter sets of a field at its installation (11 R250 step 5). -/
def State.newSets (s : State) (ws : List (Nat × Word)) (slot fid : Nat) (places : List Nat) : List CounterSet :=
  (List.range 10).map (fun key =>
    let total : Pair := BitVec.ofNat 64 (s.cellSum ws (places.filter (fun l => (setKeys l).contains key)))
    { slot := slot, fid := fid, key := key, interior := total, initial := total })

/-- Step 6 of R250 is passed: the source and sink cells that a conserved-field page backs hold 0, and the ordinary cells sum to the
initial total. -/
def State.cellsAgree (s : State) (o : Op) (f : FieldSt) : Bool :=
  let ws := o.peerWords f
  f.rolePlaces.all (fun l => s.cellWord ws l == 0) && s.cellSum ws (f.cellPlaces 0 f.n) == f.init

/-- The field of an `fdecl` that has passed its checks: its counter sets start, and every ω at this module becomes 0 (11 R250 step 5). -/
def State.startSets (s : State) (o : Op) (fid : Nat) (f : FieldSt) : State :=
  let places := f.cellPlaces 0 f.n
  { s with omega := places.foldl (fun m l => Sparse.erase m l) s.omega,
           sets := s.sets ++ s.newSets (o.peerWords f) o.slot fid places }

/-- The next step of an install: the cells on peers are read one by one; with the last of them the field is refused, every cell as it was,
or its sets start; then the ω of each ordinary cell on a peer becomes 0; then the field is usable (11 R250 steps 5 and 6). -/
def State.installField (s : State) (o : Op) (fid : Nat) (f : FieldSt) : State :=
  let reads := f.peerCells
  let zeros := f.peerOrdinary
  if s.awaits o.id then s
  else
    match reads[o.data.length]? with
    | some loc => s.request o ((peerOf loc).getD 0) (peerAddr loc) 9 11 4 (leBytes 4 0) 0
    | none =>
      let begun := !(s.setsOf o.slot fid).isEmpty
      match (if begun then none else (f.cellPlaces 0 f.n ++ f.rolePlaces).find? (fun l => (peerOf l).isNone && s.homeBad l 4)) with
      | some loc => (s.mapSlot o.slot (fun c => { c with fields := Sparse.erase c.fields fid })).opError o loc 0
      | none =>
      if !begun && !s.cellsAgree o f then
        (s.mapSlot o.slot (fun c => { c with fields := Sparse.erase c.fields fid })).arriveFault o.id 0x0603 0 4
      else
        let s := if begun then s else s.startSets o fid f
        match zeros[o.data.length - reads.length]? with
        | some loc => s.request o ((peerOf loc).getD 0) (peerAddr loc) 9 11 4 (leBytes 4 1) 0
        | none => (s.mapSlot o.slot (fun c => { c with fields := Sparse.put c.fields fid { f with usable := true } })).arrive o.id id

/-- The reads of `fdecl` at the homes finish, those of cells on peers one by one: the field is installed or refused; or, with every
operation on it complete, it is removed (11 R250). -/
def execFdeclHomeComplete (op : Nat) (s : State) : Out :=
  match s.op? op with
  | none => .next s
  | some o =>
    match o.kind with
    | .fdecl fid addr =>
      if o.arrived || s.fieldHeld o then .next s
      else if addr = 0 then
        if s.ops.any (fun p => p.onField op o.slot fid) then .next s
        else
          .next (({ s.mapSlot o.slot (fun c => { c with fields := Sparse.erase c.fields fid }) with
                    sets := s.sets.filter (fun c => !(c.slot == o.slot && c.fid == fid)) } : State).arrive op id)
      else
        match Sparse.find (s.slot o.slot).fields fid with
        | none => .next (s.arrive op id)
        | some f => .next (s.installField o fid f)
    | _ => .next s

end Sys2Proof.Machine
end

