-- ==== Sys2Proof/Machine/Creel.lean ====
section
/-!
DEFINITION. Creels (10 R226 to R233) and stall records (10 R234, R235).
-/
namespace Sys2Proof.Machine

/-! ### The state of a creel -/

/-- A creel of a unit. -/
def State.creel (s : State) (uid k : Nat) : Creel :=
  match s.unit? uid with
  | some u => Sparse.get {} u.creels k
  | none => {}

/-- Writes a creel of a unit. -/
def State.setCreel (s : State) (uid k : Nat) (c : Creel) : State :=
  s.mapUnit uid (fun u => { u with creels := Sparse.set {} u.creels k c })

/-- Writes the state of a creel slot. -/
def Creel.put (c : Creel) (i : Nat) (x : CreelSlot) : Creel := { c with slots := Sparse.set .free c.slots i x }

/-- The wait of a creel split point: until the creel's counts change (04 R87). -/
def State.creelWait (s : State) (uid k : Nat) : Wait :=
  let c := s.creel uid k
  .creel k c.freeCount c.filledCount c.overCount

/-- The values that govern overflow slots: the captured ones, otherwise the context's (10 R231): base, count, log2 stride. -/
def State.overflowOf (s : State) (uid : Nat) (c : Creel) : Nat × Nat × Nat :=
  match c.captured with
  | some x => x
  | none =>
    match s.unit? uid with
    | some u =>
      let r := s.slot u.slot
      (r.ovBase.toNat, r.ovM, r.ovStr)
    | none => (0, 0, 16)

/-- The slot that a claim takes, or none (10 R229). `copy` for `cpyc`. -/
def Creel.claim (c : Creel) (copy : Bool) : Option (Nat × Creel) :=
  let k : CreelSlot := if copy then .claimedCopy else .claimedPost
  if !c.o && 0 < c.freeCount then
    some (c.h, { (c.put c.h k) with h := (c.h + 1) % c.n, queue := c.queue ++ [c.h] })
  else if c.o && copy && c.slotAt (c.n + c.j) == .free then
    let m := (c.captured.getD (0, 1, 0)).2.1
    some (c.n + c.j, { (c.put (c.n + c.j) k) with j := (c.j + 1) % m, queue := c.queue ++ [c.n + c.j] })
  else none

/-- Every one of n claims can be made, one after another (10 R229). -/
def Creel.claims (c : Creel) (copy : Bool) (n : Nat) : Bool :=
  match n with
  | 0 => true
  | n + 1 =>
    match c.claim copy with
    | some (_, d) => Creel.claims d copy n
    | none => false

/-- A creel instruction of a creel that is not initialised raises 0x0506 with the creel id (10 R232). -/
def creelReady (k : BitVec 7) (s : State) (_ : Ctx) (t : Thread) : State × Except Stop Unit :=
  if (s.creel t.unit k.toNat).v then (s, .ok ())
  else (s, .error (.fault { code := 0x0506, aux := k.setWidth 32 }))

/-- A fault of a creel slot (10 R232). -/
def slotFault (i : Word) : After := .fault { code := 0x0506, aux := i }

/-! ### `crinit` (10 R227) -/

/-- Copies in flight into a creel write their bytes and post nothing. -/
def State.orphanCopies (s : State) (uid k : Nat) : State :=
  { s with ops := s.ops.map (fun o =>
      match o.kind with
      | .copy c => if o.unit = uid && (match c.creel with | some (j, _) => j == k | none => false)
          then { o with kind := .copy { c with creel := none } } else o
      | _ => o) }

/-- `crinit` of a unit's creel with a configuration word: none where the word is refused. A `cpyc` that stands goes on standing. -/
def State.initCreel (s : State) (u : UnitSt) (k : Nat) (cfg : Word) : Option State :=
  let nm := cfg.toNat / 2 ^ 24
  let size := 64 * (cfg.toNat / 2 ^ 14 % 2 ^ 10 + 1)
  let base := 64 * (cfg.toNat % 2 ^ 13)
  if nm = 0 || cfg.getLsbD 13 || u.scrLen < base + (nm + 1) * size then none
  else
    some ((s.orphanCopies u.uid k).setCreel u.uid k
      { v := true, base := base, size := size, n := nm + 1, x := (u.core * 32 + u.row0) * 8 + k,
        starved := (s.creel u.uid k).starved })

/-- `crinit` (10 R227, 15 R349). -/
def execCrinit (a : Reg) (k : BitVec 7) (s : State) : Out :=
  .next (issue ({
    shape := fun _ => { named := [a], reads := [(.int, a)] }, pre := noCheck,
    act := eachThread (fun s _ t _ =>
      match s.unitOf t with
      | none => (s, .go)
      | some u =>
        if u.ncr ≤ k.toNat then (s, slotFault (k.setWidth 32))
        else
          let cfg := t.rd ((s.fieldFrac t).getD 0) .int a
          match s.initCreel u k.toNat cfg with
          | some s => (s, .go)
          | none => (s, slotFault cfg)) }) s)

/-! ### Taking and giving (10 R230) -/

/-- The group waits unless the front of the claim queue holds a FILLED slot for every thread of it (10 R230). -/
def takeGroup (k : BitVec 7) (s : State) (_ : Ctx) (ts : List Thread) : State × Option Wait :=
  match ts with
  | [] => (s, none)
  | t :: _ =>
    if (s.creel t.unit k.toNat).filledCount < ts.length then (s, some (s.creelWait t.unit k.toNat)) else (s, none)

/-- An acquire at scope 0 that a thread performs at once where its earlier loads have completed, and otherwise before it
issues again (09 R199). -/
def State.acquireNow (s : State) (t : Thread) : State × After :=
  if s.holds t .loads then ((s.acquireDiscard t.core 0).codeIn (s.slotOf t) t.core 0, .go)
  else (s.mapThread t.tid (fun t => { t with owes := some 0 }), .split .loads)

/-- `crtake` (10 R230). -/
def execCrtake (d : Reg) (k : BitVec 7) (s : State) : Out :=
  .next (issue ({
    shape := fun _ => { named := [d] }, pre := creelReady k, group := takeGroup k,
    act := eachThread (fun s _ t _ =>
      let c := s.creel t.unit k.toNat
      match c.queue with
      | [] => (s, .go)
      | i :: rest =>
        let s := (s.setCreel t.unit k.toNat { (c.put i .taken) with queue := rest }).setThread
          (t.setReg d (BitVec.ofNat 32 i) .int)
        if c.n ≤ i then s.acquireNow t else (s, .go)) }) s)

/-- `crgive`: after the thread's earlier loads and copies (10 R230). -/
def execCrgive (a : Reg) (k : BitVec 7) (s : State) : Out :=
  .next (issue ({
    shape := fun _ => { named := [a], reads := [(.int, a)] },
    pre := fun s c t =>
      match creelReady k s c t with
      | (s, .error x) => (s, .error x)
      | (s, .ok _) => if s.holds t .reads then (s, .ok ()) else (s, .error (.leave .reads)),
    act := eachThread (fun s _ t _ =>
      let c := s.creel t.unit k.toNat
      let i := t.rd ((s.fieldFrac t).getD 0) .int a
      if c.n + (s.overflowOf t.unit c).2.1 ≤ i.toNat || c.slotAt i.toNat != .taken then (s, slotFault i)
      else (s.setCreel t.unit k.toNat (c.put i.toNat .free).leaveOver, .go)) }) s)

/-- `crtest`: 1 where a `crtake` would take a slot now; in deterministic mode it waits as `crtake` would (10 R230). Each thread asks for one slot,
in a gathered block too (DESIGN CHOICE, assumption 119). -/
def execCrtest (d : Reg) (k : BitVec 7) (s : State) : Out :=
  .next (issue ({
    shape := fun _ => { named := [d] }, pre := creelReady k,
    group := fun s c ts => if ts.any (fun t => t.modeD) then takeGroup k s c ts else (s, none),
    act := eachThread (fun s _ t _ =>
      (s.setThread (t.setReg d (flag (0 < (s.creel t.unit k.toNat).filledCount)) .int), .go)) }) s)

/-! ### Claiming and posting (10 R229) -/

/-- The claims of a group are made only if every one of them can be (10 R229); a `cpyc` that stands for want of a claim is
noted (10 R233). -/
def claimGroup (copy : Bool) (k : BitVec 7) (s : State) (_ : Ctx) (ts : List Thread) : State × Option Wait :=
  match ts with
  | [] => (s, none)
  | t :: _ =>
    let c := s.creel t.unit k.toNat
    if c.claims copy ts.length then (s, none)
    else
      let fresh := (ts.filter (fun t => !(c.starved.any (fun p => p.1 == t.tid)))).map (fun t => (t.tid, s.coreClock t.core))
      let s := if copy then s.setCreel t.unit k.toNat { c with starved := c.starved ++ fresh } else s
      (s, some (s.creelWait t.unit k.toNat))

/-- A claim that `claimGroup` found possible: the slot, and the creel after it. -/
def State.takeClaim (s : State) (t : Thread) (k : Nat) (copy : Bool) : State × Nat :=
  let c := s.creel t.unit k
  match c.claim copy with
  | none => (s, 0)
  | some (i, c) => (s.setCreel t.unit k { c with starved := c.starved.filter (fun p => p.1 != t.tid) }, i)

/-- `crclaim` (10 R229). -/
def execCrclaim (d : Reg) (k : BitVec 7) (s : State) : Out :=
  .next (issue ({
    shape := fun _ => { named := [d] }, pre := creelReady k, group := claimGroup false k,
    act := eachThread (fun s _ t _ =>
      let r := s.takeClaim t k.toNat false
      (r.1.setThread (t.setReg d (BitVec.ofNat 32 r.2) .int), .go)) }) s)

/-- `crpost`: after a release at scope 0 (10 R229). -/
def execCrpost (a : Reg) (k : BitVec 7) (s : State) : Out :=
  .next (issue ({
    shape := fun _ => { named := [a], reads := [(.int, a)] },
    pre := fun s c t =>
      match creelReady k s c t with
      | (s, .error x) => (s, .error x)
      | (s, .ok _) => if s.holds t .quiet then (s, .ok ()) else (s, .error (.leave .quiet)),
    act := eachThread (fun s _ t _ =>
      let c := s.creel t.unit k.toNat
      let i := t.rd ((s.fieldFrac t).getD 0) .int a
      if c.n + (s.overflowOf t.unit c).2.1 ≤ i.toNat || c.slotAt i.toNat != .claimedPost then (s, slotFault i)
      else ((s.codeOut t 0).setCreel t.unit k.toNat (c.put i.toNat .filled), .go)) }) s)

/-! ### Reading (10 R228, R231) -/

/-- The status word of a creel (10 R228). -/
def Creel.word (c : Creel) : Word :=
  BitVec.ofNat 32 (c.freeCount * 2 ^ 23 + c.filledCount % 2 ^ 9 * 2 ^ 14 + c.h * 2 ^ 6 + (if c.o then 32 else 0) + (if c.v then 16 else 0))

/-- `crstat` (10 R228). -/
def execCrstat (d : Reg) (k : BitVec 7) (s : State) : Out :=
  .next (issue ({
    shape := fun _ => { named := [d] }, pre := noCheck,
    act := eachThread (fun s _ t _ => (s.setThread (t.setReg d (s.creel t.unit k.toNat).word .int), .go)) }) s)

/-- The address of a creel slot (10 R231). -/
def State.slotAddress (s : State) (uid : Nat) (c : Creel) (i : Nat) : Pair :=
  if i < c.n then BitVec.ofNat 64 (0x82 * 2 ^ 56 + c.base + i * c.size)
  else
    let r := s.overflowOf uid c
    BitVec.ofNat 64 (r.1 + (c.x * r.2.1 + (i - c.n)) * 2 ^ r.2.2)

/-- `craddr` (10 R231). -/
def execCraddr (d a : Reg) (k : BitVec 7) (s : State) : Out :=
  .next (issue ({
    shape := fun _ => { named := pairNames d ++ [a], reads := [(.int, a)] },
    pre := fun s c t =>
      match creelReady k s c t with
      | (s, .error x) => (s, .error x)
      | (s, .ok _) =>
        let i := t.rd ((s.fieldFrac t).getD 0) .int a
        let c := s.creel t.unit k.toNat
        if c.n + (s.overflowOf t.unit c).2.1 ≤ i.toNat then (s, .error (.fault { code := 0x0506, aux := i }))
        else (s, .ok i),
    act := eachThread (fun s _ t i =>
      (s.setThread (t.setPair d (s.slotAddress t.unit (s.creel t.unit k.toNat) i.toNat) .x64), .go)) }) s)

/-! ### Overflow (10 R233) -/

/-- The conditions on the context's registers under which a creel may enter overflow mode. -/
def Slot.overflowFits (r : Slot) (c : Creel) : Bool :=
  let last := r.ovBase.toNat + (c.x * r.ovM + r.ovM) * 2 ^ r.ovStr - 1
  r.ovEn && decide (0 < r.ovM) && decide (c.size ≤ 2 ^ r.ovStr) && canonical r.ovBase && r.ovBase.toNat % 65536 == 0 &&
    decide (last < 2 ^ 64) && canonical (BitVec.ofNat 64 last) &&
    r.ovBase.getLsbD 56 == (BitVec.ofNat 64 last : Pair).getLsbD 56

/-- A `cpyc` that stands at its split point. -/
def State.standsFor (s : State) (tid k : Nat) : Bool :=
  match s.thread? tid with
  | none => false
  | some t =>
    match t.state with
    | .blocked (.creel j _ _ _) => j == k
    | .queued (.creel j _ _ _) => j == k
    | _ => false

/-- A creel enters overflow mode when a `cpyc` has stood for 2^20 cycles and its conditions hold (10 R233). -/
def execCreelOverflowEnter (unit k : Nat) (s : State) : Out :=
  match s.unit? unit with
  | none => .next s
  | some u =>
    let c := s.creel unit k
    let r := s.slot u.slot
    let det := s.threads.any (fun t => t.unit == unit && t.modeD)
    if c.v && !c.o && !det && r.overflowFits c && c.starved.any (fun p => s.standsFor p.1 k && decide (p.2 + 2 ^ 20 ≤ s.coreClock u.core)) then
      .next (s.setCreel unit k { c with o := true, j := 0, captured := some (r.ovBase.toNat, r.ovM, r.ovStr) })
    else .next s

/-! ### Stall records (10 R234, R235) -/

/-- A thread's wait gives its unit no progress by itself: a barrier, a creel or a counter. -/
def State.stuck (s : State) (t : Thread) : Bool :=
  let waits := fun (w : Wait) =>
    match w with
    | .none => false
    | .yield _ _ => false
    | .walk _ => false
    | .object h _ => !(match s.obj? (s.slotOf t) h with
        | some o => !o.ended && !(s.slot (s.slotOf t)).within (s.handleOf t) h
        | none => false)
    | _ => true
  match t.state with
  | .blocked w => waits w
  | .queued w => waits w && !s.holds t w
  | .ready _ =>
    -- a thread of a group that is not complete at its gathered entry stays where it is (04 R98)
    match s.entryOf t with
    | some (_, e) => e.blk.gath && !s.groupComplete t.core e t
    | none => false
  | _ => false

/-- An operation is a progress source of its unit: one that counts, a fence, an invalidation, a `sysset` or the read of a descriptor, which may
wait for a Held peer (10 R234, 14 R336). -/
def Op.progress (o : Op) : Bool :=
  o.cls != .none ||
    (match o.kind with
     | .fence _ _ | .inval _ _ _ _ | .sysWrite _ _ _ | .descr _ => true
     | _ => false)

/-- A unit is stalled in this cycle (10 R234). -/
def State.stalled (s : State) (u : UnitSt) : Bool :=
  let live := s.threads.filter (fun t => t.unit == u.uid && t.live)
  !live.isEmpty && live.all s.stuck && !(s.ops.any (fun o => o.unit == u.uid && o.progress)) &&
    !(s.cmds.any (fun c => c.unit == u.uid && c.state != .retired)) &&
    !(u.creels.any (fun p => p.2.starved.any (fun q => s.standsFor q.1 p.1 && decide (s.coreClock u.core < q.2 + 2 ^ 20))))

/-- Every unit's stall interval starts, goes on or ends (10 R234). -/
def State.watch (s : State) : State :=
  { s with units := s.units.map (fun u =>
      if s.stalled u then { u with stallSince := some (u.stallSince.getD (s.coreClock u.core)) } else { u with stallSince := none }) }

/-- The wait of a thread. -/
def Thread.waitOf (t : Thread) : Wait :=
  match t.state with
  | .blocked w => w
  | .queued w => w
  | _ => .none

/-- The 8 words of a stall record (10 R235). -/
def State.stallWords (s : State) (u : UnitSt) : List Word :=
  let ws := (s.threads.filter (fun t => t.unit == u.uid && t.live)).map Thread.waitOf
  let crs := ws.filterMap (fun w => match w with | .creel k _ _ _ => some k | _ => none)
  let bars := ws.filterMap (fun w => match w with | .barrier i _ => some i | _ => none)
  let mask := fun (l : List Nat) (lo n : Nat) =>
    (List.range n).foldl (fun m i => if l.contains (lo + i) then m + 2 ^ i else m) 0
  [u.launch, BitVec.ofNat 32 u.index, BitVec.ofNat 32 (u.core * 2 ^ 10 + (u.rows - 1) * 2 ^ 5 + u.row0),
   BitVec.ofNat 32 (mask crs 0 8 * 2 ^ 24 + crs.length * 2 ^ 12 + bars.length),
   BitVec.ofNat 32 ((ws.filter (fun w => w != .none)).length - crs.length - bars.length), loWord (s.cyc (dieOf u.core)),
   BitVec.ofNat 32 (mask bars 0 32), BitVec.ofNat 32 (mask bars 32 32)]

/-- A unit that has been stalled for 2^24 consecutive cycles gets a stall record, one until it issues a word (10 R234). -/
def execStallRecord (unit : Nat) (s : State) : Out :=
  match s.unit? unit with
  | none => .next s
  | some u =>
    match u.stallSince with
    | none => .next s
    | some since =>
      if u.stallSent || s.coreClock u.core < since + 2 ^ 24 || !s.stalled u then .next s
      else .next ((s.send 0x41 u.slot (s.stallWords u)).mapUnit unit (fun u => { u with stallSent := true }))

end Sys2Proof.Machine
end

