-- ==== Sys2Proof/Machine/Launch.lean ====
section
/-!
DEFINITION. Launches (15 R337 to R345): the descriptor and its checks, `lch`, `lcancel`, `lcnt`, `lwaitc`; placement
(15 R346 to R348, 01 R24, R25); the ends of units; pre-emption by drain, save and flush, and the restore of a saved unit
(15 R351 to R354).
-/
namespace Sys2Proof.Machine

/-! ### The descriptor (15 R338) -/

/-- Threads of a unit. -/
def Obj.threads (o : Obj) : Nat :=
  ((o.word 7).toNat % 2 ^ 11 + 1) * ((o.word 7).toNat / 2 ^ 11 % 2 ^ 11 + 1) * ((o.word 8).toNat % 2 ^ 11 + 1)

/-- Group width. -/
def Obj.gw (o : Obj) : Nat := 8 * 2 ^ o.opt 8 2

/-- Register budget. -/
def Obj.budget (o : Obj) : Nat := 8 * (o.opt 10 4 + 1)

/-- Bytes of a lane-private window. -/
def Obj.window (o : Obj) : Nat := 512 * 2 ^ o.opt 18 3

/-- Bytes of core scratchpad of a unit. -/
def Obj.scr (o : Obj) : Nat := 64 * (o.word 12).toNat

/-- Bytes of cluster memory of a unit. -/
def Obj.clu (o : Obj) : Nat := 64 * (o.word 13).toNat

/-- Slot rows of a unit (01 R24). -/
def Obj.rows (o : Obj) : Nat := (o.threads + 63) / 64

/-- The fields that the field mask lists. -/
def Obj.fieldList (o : Obj) : List Nat := (List.range 256).filter (fun k => (o.word (24 + k / 32)).getLsbD (k % 32))

/-- The policy of a launch's units: 0 normal, 1 P clear, 2 D set (04 R105). -/
def Obj.policy (o : Obj) : Nat := if o.opt 24 1 = 1 then 2 else if o.opt 25 1 = 1 then 0 else 1

/-- A reserved field is nonzero, a value outside its range, or the shape or the modes do not fit: cause 1 (15 R340). -/
def Obj.malformed (o : Obj) : Bool :=
  o.opt 29 3 != 0 || o.opt 0 8 != 0 || (o.word 7).toNat / 2 ^ 22 != 0 || (o.word 8).toNat / 2 ^ 11 != 0 ||
  (o.word 9).toNat / 2 ^ 20 != 0 || (o.word 10).toNat / 2 ^ 20 != 0 || (o.word 11).toNat / 2 ^ 20 != 0 ||
  decide (8192 < (o.word 12).toNat) || decide (4096 < (o.word 13).toNat) || (o.item 16).toNat / 2 ^ 48 != 0 || o.item 16 == 0 ||
  decide (4 < (o.word 19).toNat) || (List.range 4).any (fun k => (o.word 19).toNat ≤ k && o.word (20 + k) != 0) ||
  decide (4 < o.opt 21 3) || decide (5 < o.opt 18 3) || decide (8 < o.opt 14 4) || o.opt 10 4 == 0 ||
  o.threads % o.gw != 0 || decide (2048 < o.threads) || (o.opt 24 1 == 1 && o.opt 25 1 == 0)

/-- The head word at an address as Clehild reads it: every check of a control transfer passes (04 R109, 03 R65). -/
def State.headAt (s : State) (slot : Nat) (a : Pair) : Option Word :=
  if !canonical a || a.toNat % 4 ≠ 0 then none
  else
    match s.walkNow slot (va57 a) with
    | .failed _ => none
    | .found x =>
      if !x.x then none
      else
        let loc := x.place (va57 a)
        let h : Word := BitVec.ofNat 32 (if (peerOf loc).isSome then leNat ((List.range 4).map (fun i => Config.peerByte s.fresh (loc + i)))
          else s.homeNat loc 4)
        if validHead h then some h else none

/-- The block at an address, read through the context's table; a head that cannot be read is met when a strand starts. -/
def State.blockFor (s : State) (slot : Nat) (a : Pair) : Block :=
  match s.headAt slot a with
  | some h => blockOf a h
  | none => headBlock a

/-- The graph that a descriptor names, for a launch that issues it: 0 joins the issuer's graph (15 R337, R338). -/
def State.graphFor (s : State) (slot : Nat) (own : Option Word) (g : Word) : Option Word :=
  if g.toNat % 2 ^ 30 = 0 && handleLevel g < 2 then
    match own with
    | none => none
    | some h => (s.obj? slot h).map (fun o => o.parent)
  else some g

/-- A graph is live, open and of the issuer's job (15 R340 cause 7). -/
def State.graphOk (s : State) (slot : Nat) (own : Option Word) (g : Word) : Bool :=
  let c := s.slot slot
  match c.obj? g with
  | none => false
  | some o =>
    handleLevel g == 1 && !o.ended && !o.closed &&
      (match own with
       | none => true
       | some h => c.jobOf h == c.jobOf g)

/-- An empty core could hold one unit (15 R340 cause 5). -/
def State.couldHold (s : State) (slot : Nat) (o : Obj) : Bool :=
  (s.slot slot).cores != 0 && decide (o.rows ≤ Config.slotRows) && decide (o.rows * o.window ≤ Config.laneBytes) &&
    decide (o.scr ≤ Config.coreScratch) && decide (o.clu ≤ Config.clusterBytes) && decide (o.opt 21 3 ≤ 4) &&
    decide (o.opt 14 4 ≤ (s.slot slot).qCr)

/-- The level of the threads of a launch. -/
def State.levelOf (s : State) (slot : Nat) (h : Word) : Level :=
  match s.obj? slot h with
  | some o => o.level
  | none => .user

/-- The first cause for which a launch is refused, 0 for none (15 R340). `own` is the launch that issues it, `bare` says that no
annex comes with it. -/
def State.launchCause (s : State) (slot : Nat) (own : Option Word) (bare : Bool) (o : Obj) : Nat :=
  let okFn := match s.headAt slot (o.item 0) with
    | some h => headE h && decide (headBudget h ≤ o.budget)
    | none => false
  let okHandler := o.item 2 == 0 || (match s.headAt slot (o.item 2) with
    | some h => !headG h && (!headE h || decide (headBudget h ≤ o.budget))
    | none => false)
  let okEmul := o.item 4 == 0 || (match s.headAt slot (o.item 4) with
    | some h => !headG h
    | none => false)
  let graph := s.graphFor slot own (o.word 18)
  if o.malformed then 1
  else if !okFn then 2
  else if !okHandler then 3
  else if !okEmul then 4
  else if !s.couldHold slot o then 5
  else if o.fieldList.any (fun k => (s.field? slot k).isNone) then 6
  else if !(match graph with | some g => s.graphOk slot own g | none => false) then 7
  else if !(o.preds.all (fun p => handleLevel p == 0 && (match s.obj? slot p with | some q => some q.parent == graph | none => false))) then 8
  else if bare && o.opt 28 1 = 1 && (match own with | some h => s.levelOf slot h == .user | none => false) then 9
  else 0

/-- Creates a launch that has passed its checks (15 R340): it waits for its predecessors, and is cancelled with a cancelled
one. -/
def State.createLaunch (s : State) (slot : Nat) (own : Option Word) (o : Obj) : State × Word :=
  match s.newHandle slot 0, s.graphFor slot own (o.word 18) with
  | some h, some g =>
    let set := o.fieldList.filterMap (fun k => (Sparse.find (s.slot slot).fields k).map (fun f => (k, f.gen)))
    let o := { o with handle := h, parent := g, state := .waiting, xferSet := set }
    let s := s.addObj slot o
    if o.preds.any (fun p => match s.obj? slot p with | some q => q.state == .cancelled | none => false) then (s.cancel slot h, h)
    else (s.startReady slot, h)
  | _, _ => (s, 0)

/-- A launch from its words: the handle and the cause (15 R340). -/
def State.launch (s : State) (slot : Nat) (own : Option Word) (bare : Bool) (o : Obj) : State × Word × Nat :=
  match s.launchCause slot own bare o with
  | 0 =>
    let r := s.createLaunch slot own o
    (r.1, r.2, 0)
  | c => (s, 0, c)

/-! ### `lch` (15 R340) -/

/-- A word of a context's memory as the runtime reads it for Clehild, at its home. -/
def State.wordAt (s : State) (slot : Nat) (a : Pair) : Word :=
  match s.walkNow slot (va57 a) with
  | .failed _ => 0
  | .found x =>
    let loc := x.place (va57 a)
    if (peerOf loc).isSome then BitVec.ofNat 32 (leNat ((List.range 4).map (fun i => Config.peerByte s.fresh (loc + i))))
    else BitVec.ofNat 32 (s.homeNat loc 4)

/-- The creel entries of the annex at descriptor + 128, which the runtime records before it issues an `lch` with AX = 1, so that it can run
`crinit` for each unit as it is placed (15 R339); `lch` itself reads no annex. -/
def State.annexCreels (s : State) (slot : Nat) (a : Pair) : List (Nat × Word) :=
  (List.range (Nat.min 8 ((s.wordAt slot a).toNat % 16))).map (fun i =>
    ((s.wordAt slot (a + BitVec.ofNat 64 (4 + 8 * i))).toNat % 8, s.wordAt slot (a + BitVec.ofNat 64 (8 + 8 * i))))

/-- The scope entries of that annex: the runtime has written them, and the launch has listed their ids (15 R339). -/
def State.annexScopes (s : State) (slot : Nat) (a : Pair) : List (Nat × BitVec 320) :=
  let w := (s.wordAt slot a).toNat
  let word := fun (k : Nat) => s.wordAt slot (a + BitVec.ofNat 64 (4 * k))
  (List.range (Nat.min 7 (w / 16 % 16))).map (fun i =>
    let k := 1 + 2 * Nat.min 8 (w % 16) + 11 * i
    ((word k).toNat, BitVec.ofNat 320 ((List.range 10).foldl (fun n j => n + (word (k + 1 + j)).toNat * 2 ^ (32 * j)) 0)))

/-- Clehild judges a descriptor that has been read. Its units run at User level, whoever issued the `lch` (16 R356). -/
def State.judgeLaunch (s : State) (o : Op) (ws : List Word) : State :=
  let d : Obj := { handle := 0, parent := 0, desc := ws }
  let d := match o.kind with
    | .lch a => if d.opt 28 1 = 1 then { d with creels := s.annexCreels o.slot (a.va + 128), scopes := s.annexScopes o.slot (a.va + 128) } else d
    | _ => d
  let r := s.launch o.slot (some o.launch) true d
  r.1.arrive o.id (fun p => { p with data := [r.2.1, BitVec.ofNat 32 r.2.2] })

/-- The descriptor of an `lch` is read as a load reads (15 R340). -/
def State.serveLaunch (s : State) (o : Op) : State :=
  match o.kind with
  | .lch a =>
    if !s.freeToAct o || s.awaits o.id then s
    else
      (match a.peer with
       | some d =>
         if a.cls = 2 then s.askRead o a d a.z 0
         else s.request o d (peerAddr a.loc) 1 0 a.z [] 0
       | none =>
         if a.cls = 2 then
           let r := s.page? a.pageLoc
           let off := a.loc - a.pageLoc
           match (if o.served then judgeHome r off a.z else judgeRead r a.pageSize off a.z o.detM) with
           | .wait => s
           | .passed => s.mapOp o.id (fun p => { p with served := true })
           | .fault aux => s.arriveFault o.id 0x0702 a.va aux
           | .bytes => if s.homeBad a.loc a.z then s.opError o a.loc a.va else s.judgeLaunch o (loadWords false (s.homeRead a.loc a.z))
         else if s.l2Bad (dieOf o.core) a.loc a.z then s.opError o a.loc a.va
         else
           let r := s.l2Read (dieOf o.core) a.loc a.z
           r.1.judgeLaunch o (loadWords false (r.1.overlay o a.loc r.2)))
  | _ => s

/-- `lch` (15 R340). -/
def execLch (d a : Reg) (s : State) : Out :=
  .next (issue ({
    shape := fun _ => { named := pairNames d ++ pairNames a, reads := [(.int64, a)] },
    pre := fun s _ t => if t.full .ld then (s, .error (.leave (.room .ld))) else s.globalAccess t (t.pair a) 128 0 none (needLoad false),
    act := eachThread (fun s c t acc =>
      (s.addOp { s.newOp c t .ld (.lch acc) with dsts := pairRegs d, tag := .int }, .go)) }) s)

/-! ### `lcancel`, `lcnt`, `lwaitc` (15 R342, R343, R345) -/

/-- `lcancel` (15 R345). -/
def execLcancel (a : Reg) (s : State) : Out :=
  .next (issue ({
    shape := fun _ => { named := [a], reads := [(.int, a)] },
    pre := noCheck,
    act := eachThread (fun s _ t _ =>
      match s.named t (s.intOf t a) with
      | some h => (s.cancel (s.slotOf t) h, .go)
      | none => (s, .go)) }) s)

/-- The status word of an object (15 R341). -/
def Obj.status (o : Obj) : Word :=
  BitVec.ofNat 32 ((match o.state with | .waiting => 0 | .running => 1 | .complete => 2 | .cancelled => 3) * 2 ^ 30 +
    (if o.fault then 2 ^ 29 else 0) + (if o.range then 2 ^ 28 else 0) + (if o.ctxErr then 2 ^ 27 else 0) + (if o.range then o.fld % 256 else 0))

/-- The words that `lcnt` writes: the done count or the status (15 R342). -/
def State.countWords (s : State) (slot : Nat) (h : Option Word) (q : Nat) : List Word :=
  match h.bind (s.obj? slot) with
  | some o => if q = 0 then [BitVec.ofNat 32 o.done, BitVec.ofNat 32 (o.done / 2 ^ 32)] else [o.status]
  | none => if q = 0 then [0, 0] else [0xC0000000]

/-- The values of an `lcnt` are read at Clehild; in deterministic mode not before the object has ended (15 R342). -/
def State.serveCount (s : State) (o : Op) : State :=
  match o.kind with
  | .lcnt h q =>
    let live := match h.bind (s.obj? o.slot) with
      | some x => !x.ended
      | none => false
    if (o.detM && live) || s.heldByAcquire o then s else s.arrive o.id (fun p => { p with data := s.countWords o.slot h q })
  | _ => s

/-- `lcnt` (15 R342). -/
def execLcnt (d a : Reg) (q : BitVec 7) (s : State) : Out :=
  let ds := if q = 0 then pairRegs d else [d]
  .next (issue ({
    shape := fun _ => { named := namesOf ds ++ [a], reads := [(.int, a)] },
    pre := fun s _ t =>
      if t.full .ld then (s, .error (.leave (.room .ld)))
      else
        let h := s.named t (s.intOf t a)
        if t.modeD && (match h with | some x => (s.slot (s.slotOf t)).within (s.handleOf t) x | none => false)
        then (s, .error (.fault { code := 0x0A01, aux := 0xFFFFFFFF })) else (s, .ok h),
    act := eachThread (fun s c t h =>
      (s.addOp { s.newOp c t .ld (.lcnt h q.toNat) with dsts := ds, tag := if q = 0 then .x64 else .int }, .go)) }) s)

/-- `lwaitc` (15 R343): the thread goes on behind an acquire at scope 11. -/
def execLwaitc (a b : Reg) (s : State) : Out :=
  .next (issue ({
    shape := fun _ => { named := a :: pairNames b, reads := [(.int, a), (.int64, b)] },
    pre := noCheck,
    act := eachThread (fun s _ t _ =>
      match s.named t (s.intOf t a) with
      | none => (s, .go)
      | some h =>
        let w : Wait := .object h (t.pair b).toNat
        if s.holds t w && s.holds t .loads then ((s.acquireDiscard t.core 3).codeIn (s.slotOf t) t.core 11, .go)
        else (s.mapThread t.tid (fun t => { t with owes := some 11 }), .split (if s.holds t w then .loads else w))) }) s)

/-! ### Placement (15 R346 to R348, 01 R24, R25) -/

/-- Units resident on a core. -/
def State.unitsOn (s : State) (core : Nat) : List UnitSt := s.units.filter (fun u => u.core == core)

/-- A sum over a list. -/
def sumOf {α : Type} (f : α → Nat) (l : List α) : Nat := l.foldl (fun n x => n + f x) 0

/-- The lowest run of free slot rows of a core (01 R24). -/
def State.freeRows (s : State) (core n : Nat) : Option Nat :=
  (List.range (Config.slotRows + 1 - n)).find? (fun r =>
    (s.unitsOn core).all (fun u => decide (r + n ≤ u.row0) || decide (u.row0 + u.rows ≤ r)))

/-- Bytes of lane-private memory that threads of a unit's shape take in a lane (01 R25). -/
def laneUse (threads window lane : Nat) : Nat := (threads / 64 + (if lane < threads % 64 then 1 else 0)) * window

/-- The launch number that a launch has or may take on a core: the lowest that is free (04 R84; DESIGN CHOICE, assumption 118: the rule does
not say which). -/
def State.numberFor (s : State) (core slot : Nat) (o : Obj) : Option Nat :=
  match Sparse.find o.numbers core with
  | some n => some n
  | none =>
    let used := (s.unitsOn core).filterMap (fun u => (s.obj? u.slot u.launch).bind (fun x => Sparse.find x.numbers core))
    let _ := slot
    (List.range 32).find? (fun n => !used.contains n)

/-- A core holds units of the launch's policy alone (04 R105). -/
def State.samePolicy (s : State) (core : Nat) (o : Obj) : Bool :=
  (s.unitsOn core).all (fun u => match s.obj? u.slot u.launch with | some x => x.policy == o.policy | none => true)

/-- Bytes of cluster memory in use in a core's cluster. -/
def State.clusterUsed (s : State) (core : Nat) : Nat :=
  sumOf (fun u => u.cluLen) (s.units.filter (fun u => clusterOf u.core == clusterOf core))

/-- A core can hold a unit of a launch: the slot row at which it would stand (15 R346). -/
def State.canHold (s : State) (core slot : Nat) (o : Obj) : Option Nat :=
  let us := s.unitsOn core
  if (s.slot slot).cores.getLsbD core && !o.draining.contains core && s.samePolicy core o &&
      (List.range Config.lanes).all (fun l =>
        decide (sumOf (fun u => laneUse u.nthreads u.lpLen l) us + laneUse o.threads o.window l ≤ Config.laneBytes)) &&
      decide (sumOf (fun u => u.scrLen) us + o.scr ≤ Config.coreScratch) &&
      decide (sumOf (fun u => u.acc) us + o.opt 21 3 ≤ 4) &&
      decide (s.clusterUsed core + o.clu ≤ Config.clusterBytes) && (s.numberFor core slot o).isSome &&
      decide (sumOf (fun u => u.ncr) (us.filter (fun u => u.slot == slot)) + o.opt 14 4 ≤ (s.slot slot).qCr)
  then s.freeRows core o.rows else none

/-- The cores granted to a context, ascending (15 R350). -/
def Slot.granted (c : Slot) : List Nat := (List.range Config.cores).filter (fun n => c.cores.getLsbD n)

/-- The hash that chooses a core in deterministic mode (15 R348). -/
def placeHash (seed : Pair) (u : Nat) : Pair :=
  let x := seed ^^^ (BitVec.ofNat 64 u * 0x9E3779B97F4A7C15)
  let x := (x ^^^ (x >>> 30)) * 0xBF58476D1CE4E5B9
  let x := (x ^^^ (x >>> 27)) * 0x94D049BB133111EB
  x ^^^ (x >>> 31)

/-- The core chosen for a unit in deterministic mode (15 R348). -/
def State.chosenCore (s : State) (slot : Nat) (o : Obj) (u : Nat) : Option Nat :=
  let l := (s.slot slot).granted
  l[(placeHash (o.item 14) u).toNat % l.length]?

/-- The core with the fewest resident threads among those that can hold a unit, the lowest on a tie (15 R347). -/
def State.leastCore (s : State) (slot : Nat) (o : Obj) (cores : List Nat) : Option (Nat × Nat) :=
  (cores.filterMap (fun n => (s.canHold n slot o).map (fun r => (n, r)))).foldl (fun acc x =>
    match acc with
    | none => some x
    | some y =>
      if sumOf (fun u => u.nthreads) (s.unitsOn x.1) < sumOf (fun u => u.nthreads) (s.unitsOn y.1) then some x else some y) none

/-- The core and slot row for a unit. -/
def State.placeFor (s : State) (slot : Nat) (o : Obj) (u : Nat) : Option (Nat × Nat) :=
  if o.opt 24 1 = 1 then
    match s.chosenCore slot o u with
    | none => none
    | some n => (s.canHold n slot o).map (fun r => (n, r))
  else s.leastCore slot o (s.slot slot).granted

/-- The first unit of a range whose core can hold it. -/
def State.firstPlace (s : State) (slot : Nat) (o : Obj) (u n : Nat) : Option (Nat × Nat × Nat) :=
  match n with
  | 0 => none
  | n + 1 =>
    match s.placeFor slot o u with
    | some (c, r) => some (u, c, r)
    | none => State.firstPlace s slot o (u + 1) n

/-- The `aopen`s that the runtime issued for the annex of a launch have not all completed: its units wait (02 R59, 15 R339). -/
def State.opening (s : State) (slot : Nat) (h : Word) : Bool :=
  s.ops.any (fun o => o.tid == 0 && o.origin.isNone && o.slot == slot && o.launch == h && (match o.kind with | .aopen _ _ => true | _ => false))

/-- The unit of a context that is placed next, with the queue behind it. In normal mode the units behind one that must wait
wait too (15 R347); a unit of a deterministic launch waits for its core alone (15 R348). -/
def State.nextPlace (s : State) (slot : Nat) (seen queue : List (Word × Nat × Nat)) :
    Option (Obj × Nat × Nat × Nat × List (Word × Nat × Nat)) :=
  match queue with
  | [] => none
  | (h, lo, hi) :: rest =>
    match s.obj? slot h with
    | none => State.nextPlace s slot seen rest
    | some o =>
      match (if s.opening slot h then none else s.firstPlace slot o lo (if o.opt 24 1 = 1 then hi - lo else 1)) with
      | some (u, c, r) =>
        some (o, u, c, r, seen ++ (if lo < u then [(h, lo, u)] else []) ++ (if u + 1 < hi then [(h, u + 1, hi)] else []) ++ rest)
      | none => if o.opt 24 1 = 1 then State.nextPlace s slot (seen ++ [(h, lo, hi)]) rest else none

/-- The lowest offset at which n bytes overlap no region in use; where the regions stand is not visible. -/
def fitAt (used : List (Nat × Nat)) (n : Nat) : Nat :=
  let ends := used.map (fun p => p.1 + p.2)
  (ends.filter (fun a => used.all (fun p => decide (a + n ≤ p.1) || decide (p.1 + p.2 ≤ a)))).foldl Nat.min
    (if used.all (fun p => n ≤ p.1 || p.2 = 0) then 0 else ends.foldl Nat.max 0)

/-- Where the scratchpad and cluster regions of a unit stand. -/
def State.regionsFor (s : State) (core : Nat) (o : Obj) : Nat × Nat :=
  (fitAt ((s.unitsOn core).map (fun u => (u.scrOff, u.scrLen))) o.scr,
   fitAt ((s.units.filter (fun u => clusterOf u.core == clusterOf core)).map (fun u => (u.cluOff, u.cluLen))) o.clu)

/-- A launch takes a launch number on a core (04 R84). -/
def State.takeNumber (s : State) (core slot : Nat) (o : Obj) : State :=
  match s.numberFor core slot o with
  | some n => s.mapObj slot o.handle (fun o => { o with numbers := Sparse.put o.numbers core n })
  | none => s

/-- Lane-private memory that another context has used is zero-filled before a context's thread stands there (07 R162). -/
def Core.ownLane (c : Core) (slotIx owner : Nat) : Core :=
  if Sparse.get 0 c.lpOwner slotIx = owner then c
  else { c with lp := Sparse.clear c.lp (slotIx * Config.laneBytes) Config.laneBytes, lpOwner := Sparse.set 0 c.lpOwner slotIx owner }

/-- The thread slots of a unit become those of its context. -/
def State.ownLanes (s : State) (core slot row0 n : Nat) : State :=
  s.mapCore core (fun c => (List.range n).foldl (fun c i => c.ownLane (row0 * 64 + i) (s.contextOf slot)) c)

/-- A new thread of a unit (01 R34). -/
def newThread (o : Obj) (u : UnitSt) (tid i : Nat) (b : Block) : Thread :=
  { tid := tid, core := u.core, slot := u.row0 * 64 + i, unit := u.uid, index := i, pc := o.item 0, blk := b, budget := o.budget,
    modeD := o.opt 24 1 == 1, modeP := o.opt 25 1 == 1, modeT := o.opt 26 1 == 1, level := o.level, state := .parked }

/-- The runtime runs `crinit` for the creel entries of a launch (02 R58, 15 R346). DESIGN CHOICE (assumption 98): an entry that `crinit`
would refuse, with an id at or above NCR or a bad configuration word, initialises nothing; the spec names no outcome for it. -/
def State.runCreels (s : State) (uid : Nat) (l : List (Nat × Word)) : State :=
  l.foldl (fun s e =>
    match s.unit? uid with
    | none => s
    | some u => if u.ncr ≤ e.1 then s else (s.initCreel u e.1 e.2).getD s) s

/-- Places a new unit (15 R346): rows, zero-filled regions, creels; its threads enter the table (04 R83). A unit of a launch with
predecessors is placed behind an acquire at scope 11 (15 R344). -/
def State.placeNew (s : State) (slot : Nat) (o : Obj) (u core row0 : Nat) : State :=
  let off := s.regionsFor core o
  let n := o.threads
  let unit : UnitSt := { uid := s.nextId, slot := slot, launch := o.handle, index := u, core := core, row0 := row0, rows := o.rows,
                         nthreads := n, gw := o.gw, scrOff := off.1, scrLen := o.scr, cluOff := off.2, cluLen := o.clu,
                         lpLen := o.window, ncr := o.opt 14 4, acc := o.opt 21 3, placedAt := s.coreClock core }
  let b := s.blockFor slot (o.item 0)
  let ts := (List.range n).map (fun i => newThread o unit (s.nextId + 1 + i) i b)
  let s1 := s.takeNumber core slot o
  let s2 : State := { s1 with units := s1.units ++ [unit], threads := s1.threads ++ ts, nextId := s1.nextId + n + 1 }
  let s3 := s2.mapCore core (fun c => { c with scratch := Sparse.clear c.scratch off.1 o.scr })
  let clu := Sparse.clear (Sparse.get [] s3.clusters (clusterOf core)) off.2 o.clu
  let s4 := { s3 with clusters := Sparse.set [] s3.clusters (clusterOf core) clu }
  let s5 := (s4.ownLanes core slot row0 n).runCreels unit.uid o.creels
  let s6 := if o.preds.isEmpty then s5 else (s5.acquireDiscard core 3).codeIn slot core 11
  ts.foldl (fun s t => s.enterAt t.tid t.pc t.blk .none) s6

/-- Clehild launches a unit of the runtime on a context's behalf, at Supervisor level (16 R356). What it runs the spec does not say: its
descriptor is a free value, and it is launched where Clehild would accept it. -/
def State.launchRuntime (s : State) (slot : Nat) : State :=
  let o : Obj := { handle := 0, parent := 0, level := .supervisor,
                   desc := (List.range 32).map (fun i => Config.freeWord (s.fresh * 32 + i)) }
  (s.stir.launch slot none true o).1

/-- A waiting unit of a context is placed (15 R346). From 16 on the number names a context for which Clehild launches a unit of the runtime,
which is then placed in its turn. -/
def execPlaceUnit (slot : Nat) (s : State) : Out :=
  if 16 ≤ slot then (if (s.slot (slot % 16)).ended || s.pwr != .run then .next s else .next (s.launchRuntime (slot % 16)))
  else if (s.slot slot).ended || s.pwr != .run || s.clehild.pending.isSome then .next s
  else
    match s.nextPlace slot [] (s.slot slot).queue with
    | none => .next s
    | some (o, u, core, row0, queue) => .next ((s.mapSlot slot (fun c => { c with queue := queue })).placeNew slot o u core row0)

/-! ### Ends of units (15 R344) -/

/-- A drain has ended on a core: further units of its launch may be placed there (15 R352). -/
def State.endDrain (s : State) (slot : Nat) (h : Word) : State :=
  s.mapObj slot h (fun o => { o with draining := o.draining.filter (fun c =>
    s.units.any (fun u => u.slot == slot && u.launch == h && u.core == c && u.pre == some .drain)) })

/-- Every thread of a unit has exited and every operation of it has completed (04 R110). -/
def State.unitDone (s : State) (u : UnitSt) : Bool :=
  s.threads.all (fun t => t.unit != u.uid || t.state == .exited) && s.ops.all (fun o => o.unit != u.uid) &&
    s.cmds.all (fun c => c.unit != u.uid || c.state == .retired)

/-- A release at scope 11 on behalf of a unit: its stores stand where every core reads them, its words of code with them (15 R344). -/
def State.releaseUnit (s : State) (u : UnitSt) : State :=
  (s.releasePush u.core 3).offerCode (fun tid => s.threads.any (fun t => t.tid == tid && t.unit == u.uid)) s.nextId
    (s.reach u.slot u.core 11)

/-- A unit ends behind a release at scope 11 (15 R344). -/
def execUnitEnd (unit : Nat) (s : State) : Out :=
  match s.unit? unit with
  | none => .next s
  | some u =>
    if !s.unitDone u then .next s
    else
      let s := s.releaseUnit u
      let s := { s with cmds := s.cmds.filter (fun c => c.unit != unit) }
      .next ((s.removeUnit unit).endDrain u.slot u.launch |>.countUnit u.slot u.launch)

/-! ### Pre-emption (15 R351, R352) -/

/-- Cycles that a unit has spent on cores (15 R351). -/
def State.usedBy (s : State) (u : UnitSt) : Nat := u.usedBefore + (s.coreClock u.core - u.placedAt)

/-- The live bytes of a unit (15 R351). -/
def Obj.liveBytes (o : Obj) : Nat := o.threads * (4 * o.budget + 64 + o.window) + o.scr + o.clu + 81920 * o.opt 21 3 + 4096

/-- The costs of the allowed ways, in the order that breaks ties (15 R351). -/
def preCosts (o : Obj) (used : Nat) : List (PreWay × Nat) :=
  let expect := (o.item 16).toNat
  [(.drain, if used < expect then expect - used else 2 ^ 48 - 1), (.save, (o.liveBytes + 127) / 128)] ++
    (if o.opt 27 1 = 1 then [(.flush, used)] else [])

/-- The cheapest of some ways, the first on a tie. -/
def cheapest (l : List (PreWay × Nat)) : PreWay :=
  (l.foldl (fun (acc : Option (PreWay × Nat)) x =>
    match acc with
    | none => some x
    | some y => if x.2 < y.2 then some x else some y) none).elim .drain (fun x => x.1)

/-- The way that Clehild takes under a bound; 0 is no bound (15 R351). A unit that waits for its own pre-emption is not drained
(15 R354). -/
def chooseWay (o : Obj) (used bound : Nat) (own : Bool) : PreWay :=
  let l := (preCosts o used).filter (fun x => !(own && x.1 == .drain))
  let m := l.filter (fun x => decide (x.2 ≤ bound))
  if bound = 0 || m.isEmpty then cheapest l else cheapest m

/-- Erases the claims of one unit, and its drained lines at peers (10 R218, 12 R287, 13 R307). -/
def State.eraseUnitClaims (s : State) (u : UnitSt) : State :=
  { s.dropClaims (fun o => o.unit == u.uid && o.origin.isNone) with
    claimsGone := s.claimsGone ++ [(u.slot, u.launch, some u.index)],
    claims := s.claims.filter (fun c => !(c.slot == u.slot && c.launch == u.launch && c.u == u.index)),
    pages := s.pages.map (fun (p : Nat × PageRec) =>
      (p.1, { p.2 with claims := p.2.claims.filter (fun c => !(c.1 == u.slot && c.2.1 == u.launch && c.2.2.1 == u.index)) })) }

/-- A flush removes a unit as a cancel does and queues it again (15 R352). -/
def State.flushUnit (s : State) (u : UnitSt) : State :=
  (((((s.discardCmds u.uid).removeUnit u.uid).eraseUnitClaims u).endDrain u.slot u.launch).mapSlot u.slot (fun c =>
    { c with queue := c.queue ++ [(u.launch, u.index, u.index + 1)] }))

/-- A `pmreq` of a unit's own threads covers it and waits for it (15 R354). -/
def State.ownPmreq (s : State) (u : UnitSt) : Bool :=
  s.ops.any (fun o => o.unit == u.uid && (match o.kind with | .pmreq us => us.contains u.uid | _ => false))

/-- A pre-emption of a unit begins (15 R352). -/
def State.beginPre (s : State) (u : UnitSt) (bound : Nat) : State :=
  match s.obj? u.slot u.launch with
  | none => s
  | some o =>
    match chooseWay o (s.usedBy u) bound (s.ownPmreq u) with
    | .drain =>
      (s.mapUnit u.uid (fun u => { u with pre := some .drain, wants := [] })).mapObj u.slot u.launch (fun o =>
        { o with draining := o.draining ++ [u.core] })
    | .save => s.mapUnit u.uid (fun u => { u with pre := some .save, stopped := true, wants := [] })
    | .flush => s.flushUnit u

/-- A launch of a context's queue, in its turn, finds no core that can hold its next unit; one that waits for its annex does not want for a
core (15 R347, R348, R351). -/
def State.lacksCore (s : State) (slot : Nat) (queue : List (Word × Nat × Nat)) : Bool :=
  match queue with
  | [] => false
  | (h, lo, hi) :: rest =>
    match s.obj? slot h with
    | none => State.lacksCore s slot rest
    | some o =>
      let det := o.opt 24 1 = 1
      (!s.opening slot h && (s.firstPlace slot o lo (if det then hi - lo else 1)).isNone) || (decide det && State.lacksCore s slot rest)

/-- A launch of some context waits for a core (15 R351). -/
def State.starving (s : State) : Bool := (List.range 16).any (fun n => s.lacksCore n (s.slot n).queue)

/-- Clehild pre-empts a unit: for the oldest request that names it, or, with the bound that the event gives, for a waiting launch
that cannot otherwise be placed (15 R351). -/
def execPreemptUnit (unit bound : Nat) (s : State) : Out :=
  match s.unit? unit with
  | none => .next s
  | some u =>
    if u.pre.isSome && !(u.pre == some .drain && s.ownPmreq u) then .next s
    else
      match u.wants with
      | b :: _ => .next (s.beginPre u b)
      | [] => if s.starving then .next (s.beginPre u bound) else .next s

/-- Asks Clehild to pre-empt every resident unit of an object with a bound. One that is being saved already needs the request only where that
save fails, and the unit goes on (16 R367). -/
def State.askPre (s : State) (slot : Nat) (h : Word) (bound : Nat) : State :=
  { s with units := s.units.map (fun u =>
      if u.slot = slot ∧ (s.slot slot).within u.launch h then { u with wants := u.wants ++ [bound] } else u) }

/-- Resident units of an object. -/
def State.unitsIn (s : State) (slot : Nat) (h : Word) : List Nat :=
  (s.units.filter (fun u => u.slot == slot && (s.slot slot).within u.launch h)).map (fun u => u.uid)

/-- `pmreq` (15 R354). -/
def execPmreq (a b : Reg) (s : State) : Out :=
  .next (issue ({
    shape := fun _ => { named := [a, b], reads := [(.int, a), (.int, b)], level := .supervisor },
    pre := fun s _ t => (s, roomFor t .st),
    act := eachThread (fun s c t _ =>
      let slot := s.slotOf t
      match (s.named t (s.intOf t a)).filter (fun h => match s.obj? slot h with | some o => !o.ended | none => false) with
      | none =>
        let o := s.newOp c t .st (.pmreq [])
        ((s.addOp o).arrive o.id id, .go)
      | some h =>
        let o := s.newOp c t .st (.pmreq (s.unitsIn slot h))
        ((s.addOp o).askPre slot h (s.intOf t b).toNat, .go)) }) s)

/-- Operations that end with the pre-emption or the removal of units: a `pmreq` with no unit left to wait for, in a thread that is
not itself saved, and a `ctxsave` or `ctxload` whose unit has been cancelled, which writes 0. -/
def State.sweepPre (s : State) : State :=
  s.ops.foldl (fun s o =>
    if o.arrived then s
    else
      match o.kind with
      | .pmreq [] => if s.saved.any (fun v => v.unit.uid == o.unit) then s else s.arrive o.id id
      | .saveUnit _ uid => if (s.unit? uid).isSome || !o.data.isEmpty then s else s.arrive o.id (fun p => { p with data := [0] })
      | .loadUnit _ _ => if !o.served || s.saved.any (fun v => v.loadOp == some o.id) then s else s.arrive o.id (fun p => { p with data := [0] })
      | _ => s) s

/-! ### Saving and restoring (15 R352, R353; 13 R313) -/

/-- Cells of a range, with keys from its start. -/
def cellsFrom (m : Sparse Byte) (lo n : Nat) : Sparse Byte :=
  (m.filter (fun (p : Nat × Byte) => decide (lo ≤ p.1) && decide (p.1 < lo + n))).map (fun (p : Nat × Byte) => (p.1 - lo, p.2))

/-- Bytes of lane-private memory of a unit's threads, which stand in consecutive thread slots (07 R162). -/
def UnitSt.lpBytes (u : UnitSt) : Nat := u.nthreads * Config.laneBytes

/-- Nothing of a stopped unit is still in progress (15 R352); a `pmreq` that covers the unit itself completes in the restored thread
(15 R354). Lines of a drain that wait at a peer's home stay there (13 R313). -/
def State.mayStore (s : State) (u : UnitSt) : Bool :=
  s.threads.all (fun t => t.unit != u.uid || t.state != .issued) &&
    s.ops.all (fun o => o.unit != u.uid || (match o.kind with | .pmreq us => us.contains u.uid | _ => false)) &&
    s.cmds.all (fun c => c.unit != u.uid || !(c.fn == .tlda || c.fn == .tldb) || !s.awaits c.uid)

/-- What a save stores of a unit (15 R352): a running tile command stops at its progress point. -/
def State.storeUnit (s : State) (u : UnitSt) : Saved :=
  { id := s.nextId, unit := { u with usedBefore := s.usedBy u, pre := none, stopped := false, saveOp := none, wants := [] },
    threads := s.threads.filter (fun t => t.unit == u.uid),
    cmds := (s.cmds.filter (fun c => c.unit == u.uid)).map (fun (c : Cmd) =>
      { c with state := if c.state = .running then .waiting else c.state, half := [], passed := none }),
    scratch := cellsFrom (s.core u.core).scratch u.scrOff u.scrLen,
    cluster := cellsFrom (Sparse.get [] s.clusters (clusterOf u.core)) u.cluOff u.cluLen,
    lp := cellsFrom (s.core u.core).lp (u.row0 * 64 * Config.laneBytes) u.lpBytes }

/-- A saved unit leaves its core behind a release at scope 11, so that its stores hold wherever it is restored (09 R172, 15 R344; DESIGN
CHOICE, assumption 117); merge records and held lines stay at their homes (13 R313). -/
def State.leaveCore (s : State) (u : UnitSt) (v : Saved) : State :=
  let s := s.releaseUnit u
  let s := ({ s with cmds := s.cmds.filter (fun c => c.unit != u.uid) } : State).removeUnit u.uid
  ({ s with saved := s.saved ++ [v] }.bump).endDrain u.slot u.launch

/-- The core and row at which a saved unit may stand again: in deterministic mode its own core, for a `ctxload` the core that it
names (15 R353, 16 R368). -/
def State.restorePlace (s : State) (v : Saved) (o : Obj) : Option (Nat × Nat) :=
  let slot := v.unit.slot
  if o.opt 24 1 = 1 then (s.canHold v.unit.core slot o).map (fun r => (v.unit.core, r))
  else
    match v.onCore with
    | some c => (s.canHold c slot o).map (fun r => (c, r))
    | none => s.leastCore slot o (s.slot slot).granted

/-- Puts cells back at a new start. -/
def putCells (m : Sparse Byte) (lo : Nat) (cells : Sparse Byte) : Sparse Byte :=
  cells.foldl (fun m p => Sparse.set 0 m (lo + p.1) p.2) m

/-- A saved wait as it stands on the core of the restore: entries of the old core's table are freed there, which satisfies a `yield`'s
set (04 R101). -/
def Wait.moved (w : Wait) : Wait :=
  match w with
  | .yield _ _ => .yield [] 0
  | w => w

/-- A thread resumes in the state that it was saved in (15 R353). -/
def State.reenter (s : State) (t : Thread) : State :=
  match t.state with
  | .ready _ => s.resumeAt t.tid t.pc t.blk
  | .blocked w => s.enterAt t.tid t.pc (s.landing t.tid t.pc t.blk) w.moved
  | .queued w => s.enterAt t.tid t.pc (s.landing t.tid t.pc t.blk) w.moved
  | _ => s

/-- Puts a command among others in order of issue (13 R295). -/
def insertCmd (c : Cmd) (l : List Cmd) : List Cmd :=
  match l with
  | [] => [c]
  | d :: r => if c.uid < d.uid then c :: d :: r else d :: insertCmd c r

/-- Places a saved unit again (15 R353): its threads keep their lanes and stand in other rows, on another core perhaps. The restore makes an
acquire at scope 11 there, so that every thread reads what it read or wrote before, and what a unit that its launch waits for has released
(09 R172, 15 R344; DESIGN CHOICE, assumption 117). -/
def State.placeSaved (s : State) (v : Saved) (o : Obj) (core row0 : Nat) : State :=
  let off := s.regionsFor core o
  let slot := v.unit.slot
  -- intervals that a core counts for the unit begin anew: no counter is compared with another die's (00 R4, assumption 95)
  let u := { v.unit with core := core, row0 := row0, scrOff := off.1, cluOff := off.2, placedAt := s.coreClock core, stallSince := none,
                         creels := v.unit.creels.map (fun (p : Nat × Creel) => (p.1, { p.2 with
                           starved := p.2.starved.map (fun q => (q.1, s.coreClock core)) })) }
  let move := fun (n : Nat) => n - v.unit.row0 * 64 + row0 * 64
  let ts := v.threads.map (fun t => { t with core := core, slot := move t.slot, cycLoaded := false })
  let cs := v.cmds.map (fun c => { c with core := core, tids := c.tids.map (fun p => (p.1, move p.2)) })
  let s1 := s.takeNumber core slot o
  let held := ts.map (fun (t : Thread) => if t.live then { t with state := .parked } else t)
  let s2 : State := { s1 with units := s1.units ++ [u], threads := s1.threads ++ held, cmds := cs.foldl (fun l c => insertCmd c l) s1.cmds,
                              saved := s1.saved.filter (fun x => x.id != v.id) }
  let s3 := s2.ownLanes core slot row0 u.nthreads
  let lane0 := row0 * 64 * Config.laneBytes
  let s4 := s3.mapCore core (fun c =>
    let lp := putCells (Sparse.clear c.lp lane0 u.lpBytes) lane0 v.lp
    { c with scratch := putCells (Sparse.clear c.scratch off.1 o.scr) off.1 v.scratch, lp := lp })
  let clu := putCells (Sparse.clear (Sparse.get [] s4.clusters (clusterOf core)) off.2 o.clu) off.2 v.cluster
  let s5 := { s4 with clusters := Sparse.set [] s4.clusters (clusterOf core) clu }
  ts.foldl State.reenter ((s5.acquireDiscard core 3).codeIn slot core 11)

/-- Clehild, or a `ctxload`, places a saved unit again (15 R353, 16 R368). A unit whose image a `ctxsave` wrote comes back through
`ctxload` alone. -/
def execRestoreUnit (saved : Nat) (s : State) : Out :=
  match s.saved.find? (fun v => v.id == saved) with
  | none => .next s
  | some v =>
    match s.obj? v.unit.slot v.unit.launch with
    | none => .next s
    | some o =>
      if (v.image.isSome && v.loadOp.isNone) || s.pwr != .run || s.clehild.pending.isSome then .next s
      else
        match s.restorePlace v o with
        | none => .next s
        | some (core, row0) =>
          let s := s.placeSaved v o core row0
          match v.loadOp with
          | some id => .next (s.arrive id (fun p => { p with data := [1] }))
          | none => .next s

end Sys2Proof.Machine
end

