-- ==== Sys2Proof/Machine/LoadStore.lean ====
section
/-!
DEFINITION. Loads, stores, prefetch, `ldacq` and `strel` (07 R162 to R179), fences (09 R198 to R203), the write-home events of the
remote partitions (09 R197, R206), page walks (08 R187) and the completion of invalidations (08 R190).
-/
namespace Sys2Proof.Machine

/-! ### Bytes of loads and stores -/

/-- A load of a conserved-field page in deterministic mode names a cell of a field of the launch's transfer set (07 R174,
11 R260). -/
def State.inSetByVa (s : State) (t : Thread) (va : Pair) : Bool :=
  (s.slot (s.slotOf t)).fields.any (fun p => p.2.usable && decide (p.2.base ≤ va.toNat) &&
    decide (va.toNat < p.2.base + 4 * p.2.n) && s.inTransferSet t p.1 p.2)

/-- The checks of a load at issue, with the deterministic-mode fault of a cell. -/
def loadChecks (a : Reg) (sp : BitVec 3) (z : Nat) (o : BitVec 6) (word : Bool) (s : State) (c : Ctx) (t : Thread) :
    State × Except Stop Access :=
  match s.xmAccess c t .ld sp a z o (needLoad word) with
  | (s, .error x) => (s, .error x)
  | (s, .ok acc) =>
    if acc.sp = 0 && acc.cls = 1 && t.modeD && s.inSetByVa t acc.va then (s, .error (.fault { code := 0x0605, addr := acc.va }))
    else (s, .ok acc)

/-- The registers that a load or a store of a width names. -/
def widthRegs (w : BitVec 3) (d : Reg) : List Reg := if w = 5 then pairRegs d else [d]

/-- A line of a peer page may be kept on the die: the page is peer-cacheable (07 R167). -/
def Access.cacheable (a : Access) : Bool := a.peer.isSome && a.pc && a.cls == 0

/-- A line of a peer that the die keeps: in the core's L1, otherwise in the remote partition. -/
def State.peerCopy (s : State) (o : Op) (a : Access) : Option (State × List Byte) :=
  if !a.cacheable then none
  else
    match s.l1Line? o.core a.loc with
    | some l => some (s, Memory.readBytes l.copy (a.loc % 128) a.z)
    | none =>
      let l := s.remoteLine (dieOf o.core) (lineOf a.loc)
      if !l.whole then none
      else
        let s := if a.pol = 0 || a.pol = 4 then s.l1Fill o.core a.loc (l.view 0 128) none 128 true else s
        some (s, l.view (a.loc % 128) a.z)

/-- Delivers the bytes of a load. -/
def State.giveBytes (s : State) (o : Op) (a : Access) (signed : Bool) (bs : List Byte) : State :=
  s.arrive o.id (fun p => { p with data := loadWords signed (s.overlay o a.loc bs) })

/-- Asks a peer for the bytes of a load: the whole line where the die may keep it. -/
def State.askPeer (s : State) (o : Op) (a : Access) (dev : Nat) : State :=
  if a.cacheable then s.request o dev (peerAddr a.loc / 128 * 128) 1 0 128 [] 0
  else s.request o dev (peerAddr a.loc) 1 0 a.z [] 0

/-- The bytes of a load of an ordinary page fail the check of their codes as they are delivered (16 R375); a prefetch delivers none. -/
def State.loadBad (s : State) (o : Op) (a : Access) : Bool :=
  a.sp == 0 && a.cls == 0 && (if o.origin.isSome then s.homeBad a.loc a.z else o.tid != 0 && s.l1Bad o.core a.loc a.z)

/-- A load is performed: its bytes come from the place that holds them (07 R162, R167, R173). -/
def State.performLoad (s : State) (o : Op) : State :=
  match o.kind with
  | .load a signed _ =>
    if !s.freeToAct o then s
    else if s.loadBad o a then s.opError o a.loc a.va
    else if a.sp = 1 then s.arrive o.id id
    else if a.sp ≠ 0 then s.giveBytes o a signed (s.scratchRead o.core a.sp a.loc a.z)
    else if a.cls = 1 then s.serveCell o
    else if a.cls = 2 then s.serveTailRead o
    else if o.origin.isSome then s.giveBytes o a signed (s.homeRead a.loc a.z)
    else
      (match a.peer with
       | none =>
         let r := s.cachedRead o.core a.loc a.z a.pol
         r.1.giveBytes o a signed r.2
       | some d =>
         match s.peerCopy o a with
         | some r => r.1.giveBytes o a signed r.2
         | none => if s.awaits o.id then s else s.askPeer o a d)
  | _ => s

/-- The region of a scratch space that an operation writes still belongs to its unit: a removed unit's does not (15 R345). -/
def State.regionLives (s : State) (o : Op) (sp : Nat) : Bool := sp == 4 || s.units.any (fun u => u.uid == o.unit)

/-- The line that the L1 holds takes the bytes of a store that it has not yet taken (07 R173). -/
def State.l1Late (s : State) (o : Op) (a : Access) (bs : List Byte) : State :=
  if o.served then s else s.l1Store o.core a.loc bs

/-- A store is performed (07 R168, R173, R179). -/
def State.performStore (s : State) (o : Op) : State :=
  match o.kind with
  | .store a bs rel =>
    if !s.freeToAct o || (rel.isSome && !s.quietBefore o) then s
    else
      let s := match rel with
        | some level =>
          if s.awaits o.id then s else (s.releasePush o.core level).offerCode (fun tid => tid == o.tid) o.id (o.reach, level)
        | none => s
      if a.sp = 1 then s.arrive o.id id
      else if a.sp ≠ 0 then (if s.regionLives o a.sp then s.scratchWrite o.core a.sp a.loc bs else s).arrive o.id id
      else if o.origin.isSome then ((s.noteCode o a bs).homeWrite a.loc bs).arrive o.id id
      else
        (match a.peer with
         | none => ((s.l2Write (dieOf o.core) a.loc bs).l1Late o a bs).arrive o.id id
         | some d =>
           if s.awaits o.id then s
           else ((s.dropCopies (dieOf o.core) a.loc a.z).l1Late o a bs).request o d (peerAddr a.loc) 2 0
             bs.length bs 0)
  | _ => s

/-! ### Issue -/

/-- The issue of a load; a load of a cell is a field read (11 R248) and writes tag CQ. A load of a lane-private window takes its bytes at once; one of a peer page sends its request. -/
def loadOp (d a : Reg) (sp : BitVec 3) (z : Nat) (o : BitVec 6) (dsts : List Reg) (word signed : Bool) (acq : Bool) (s : State) :
    State :=
  let _ := d
  issue ({
    shape := fun _ => { named := dsts ++ baseRegs sp a, reads := [baseOperand sp a] },
    pre := loadChecks a sp z o word,
    act := eachThread (fun s c t acc =>
      let level := if acq then some (s.scopeLevel (s.slotOf t) t.core c.hints.scope) else none
      let o := { s.newOp c t .ld (.load acc signed level) with
        reach := if acq then (s.reach (s.slotOf t) t.core c.hints.scope).1 else 0
        dsts := dsts
        tag := c.hints.tag (if acc.sp = 0 && acc.cls = 1 then .cq else .raw)
        data := if acc.sp = 1 then loadWords signed (s.lpRead t (acc.lpOffset t) z) else [] }
      let s := if acc.sp = 1 then s.stir else s
      let s := s.addOp o
      (if acc.peer.isSome && acc.cls = 0 then s.performLoad o else s, .go)) }) s

/-- The bytes that a store takes from registers: z bytes from the first (07 R175, R176). -/
def storeBytes (t : Thread) (rs : List Reg) (z : Nat) : List Byte := (wordBytes (rs.map t.val)).take z

/-- The store is held by an `ldacq`, or an earlier access of the thread or a lower lane's store of the same word to a common byte has still
to take its turn in the L1: the store's bytes go there as it is performed (07 R171, R172, R178). -/
def State.storesLate (s : State) (o : Op) : Bool :=
  s.heldByAcquire o || (s.earlier o).any (fun p => p.overlaps o && !p.arrived && !(p.isStore && p.served)) ||
    s.ops.any (fun p => p.batch == o.batch && p.isStore && decide (p.lane < o.lane) && p.overlaps o && !p.arrived && !p.served)

/-- The issue of a store. A store to a lane-private window writes it at once; a line that the L1 holds takes the bytes as the
write-through buffer accepts them (09 R197). -/
def storeOp (a : Reg) (sp : BitVec 3) (z : Nat) (o : BitVec 6) (srcs : List Reg) (rel : Bool) (s : State) : State :=
  issue ({
    shape := fun _ => { named := srcs ++ baseRegs sp a, reads := [baseOperand sp a] },
    pre := fun s c t => s.xmAccess c t .st sp a z o needStore,
    act := eachThread (fun s c t acc =>
      let level := if rel then some (s.scopeLevel (s.slotOf t) t.core c.hints.scope) else none
      let bs := storeBytes t srcs z
      let o := { s.newOp c t .st (.store acc bs level) with reach := if rel then (s.reach (s.slotOf t) t.core c.hints.scope).1 else 0 }
      let s := (s.addOp o).noteCode o acc bs
      if acc.sp = 1 then (s.lpWrite t (acc.lpOffset t) bs, .go)
      else if acc.sp ≠ 0 || rel then (s, .go)
      else
        let late := s.storesLate o
        let s := if late then s else (s.l1Store o.core acc.loc bs).mapOp o.id (fun p => { p with served := true })
        (if acc.peer.isSome then s.performStore { o with served := !late } else s, .go)) }) s

/-- The width is signed: 1 `.i8`, 3 `.i16` (07 R174). -/
def signedWidth (w : BitVec 3) : Bool := w == 1 || w == 3

/-- `ld` (07 R174). -/
def execLd (d a : Reg) (sp w : BitVec 3) (o : BitVec 6) (s : State) : Out :=
  .next (loadOp d a sp (sizeOf w) o (widthRegs w d) (w == 4) (signedWidth w) false s)

/-- `st` (07 R175). -/
def execSt (d a : Reg) (sp w : BitVec 3) (o : BitVec 6) (s : State) : Out :=
  .next (storeOp a sp (sizeOf w) o (widthRegs w d) false s)

/-- `ldq` (07 R176). -/
def execLdq (d a : Reg) (sp : BitVec 3) (o : BitVec 6) (s : State) : Out :=
  .next (loadOp d a sp 16 o (quadRegs d) false false false s)

/-- `stq` (07 R176). -/
def execStq (d a : Reg) (sp : BitVec 3) (o : BitVec 6) (s : State) : Out :=
  .next (storeOp a sp 16 o (quadRegs d) false s)

/-- `ldacq` (07 R178). -/
def execLdacq (d a : Reg) (sp w : BitVec 3) (o : BitVec 6) (s : State) : Out :=
  .next (loadOp d a sp (sizeOf w) o (widthRegs w d) (w == 4) (signedWidth w) true s)

/-- `strel` (07 R179). -/
def execStrel (d a : Reg) (sp w : BitVec 3) (o : BitVec 6) (s : State) : Out :=
  .next (storeOp a sp (sizeOf w) o (widthRegs w d) true s)

/-- Asks for a line of a peer-cacheable page on behalf of a prefetch: an operation of no thread, which counts on nothing and which
no other operation waits for; dropped where the peer cannot be asked (07 R177). -/
def State.prefetchPeer (s : State) (c : Ctx) (t : Thread) (x : Trans) (ea : Pair) (dev : Nat) : State :=
  if !x.pc || (s.peerCheck (s.slotOf t) dev).isSome then s
  else
    let a := mkAccess x ea 1 c.hints.pol
    let o := { s.newOp c t .none (.load a false none) with tid := 0, unit := 0 }
    (s.addOp o).performLoad o

/-- What `pf` does for a thread: it brings the line of an ordinary page, local or peer-cacheable, into the L2 and the L1, or is
dropped (07 R177). -/
def State.prefetch (s : State) (c : Ctx) (t : Thread) (a : Reg) (w : BitVec 3) (o : BitVec 6) : State :=
  let ea : Pair := BitVec.ofInt 64 (s.xmAddress t c.hints 0 a (sizeOf w) o)
  if (s.pendingOn t.tid (pairRegs a)).isSome || !(pairRegs a).all (fun r => Cls.int64.accepts (t.reg r).tag) || !canonical ea then s
  else
    match s.tlbLookup t.core (s.slotOf t) (va57 ea) with
    | none => s
    | some (x, s') =>
      if x.cls ≠ 0 then s
      else
        match x.peer with
        | some dev => s'.prefetchPeer c t x ea dev
        | none =>
          let loc := x.place (va57 ea) / 128 * 128
          let r := s'.l2ReadBy (dieOf t.core) loc 128 c.hints.pol
          if (s'.l1Line? t.core loc).isNone && (c.hints.pol = 0 || c.hints.pol = 4) then r.1.l1Fill t.core loc r.2 none 128 false
          else r.1

/-- `pf` (07 R177): it is never a split point and faults only on its encoding, privilege and budget. -/
def execPf (a : Reg) (w : BitVec 3) (o : BitVec 6) (s : State) : Out :=
  .next (issue ({
    pre := fun s _ t => match beyond t (pairNames a) with
      | some r => (s, .error (.fault { code := 0x0203, aux := r.setWidth 32 }))
      | none => (s, Except.ok ()),
    act := eachThread (fun s c t _ => (s.prefetch c t a w o, .go)) }) s)

/-! ### Completion of stores -/

/-- A store's bytes reach their place (07 R168). -/
def execStoreComplete (op : Nat) (s : State) : Out :=
  match s.op? op with
  | none => .next s
  | some o => .next (s.performStore o)

/-! ### Fences (09 R198 to R203) -/

/-- The release and the acquire of a fence can be made: the waits of R198 and R199 are over. -/
def State.fenceReady (s : State) (t : Thread) (acq rel : Option Nat) : Bool :=
  (rel.isNone || s.holds t .quiet) && (acq.isNone || s.holds t .loads)

/-- What a fence does for the fetch of code: its release reaches the cores of its scope, then its acquire takes in what has reached its core
(03 R81). -/
def State.fenceCode (s : State) (o : Op) (acq rel : Option Nat) : State :=
  let s := match rel with
    | some l => s.offerCode (fun tid => tid == o.tid) o.id (o.reach, l)
    | none => s
  match acq with
  | some l => s.takeCode o.core (o.reach, l)
  | none => s

/-- A fence (09 R201): at once where nothing is outstanding, it pushes nothing and it discards nothing, otherwise as an operation that its
thread waits for at the word after (09 R202); the flash of an acquire takes 2 cycles (09 R199). -/
def fenceOp (n : BitVec 4) (acq rel : Bool) (s : State) : State :=
  issue ({
    pre := noCheck,
    act := eachThread (fun s c t _ =>
      let level := s.scopeLevel (s.slotOf t) t.core n.toNat
      let al := if acq then some level else none
      let rl := if rel then some level else none
      let o := { s.newOp c t .none (.fence al rl) with reach := (s.reach (s.slotOf t) t.core n.toNat).1 }
      if s.fenceReady t al rl && level ≤ 1 && !acq then ((s.fenceEffect t.core al rl).fenceCode o al rl, .go)
      else (s.addOp o, .split (.op s.nextId))) }) s

/-- `fence.acq` (09 R201). -/
def execFenceAcq (n : BitVec 4) (s : State) : Out := .next (fenceOp n true false s)

/-- `fence.rel` (09 R201). -/
def execFenceRel (n : BitVec 4) (s : State) : Out := .next (fenceOp n false true s)

/-- `fence.ar` (09 R201). -/
def execFenceAr (n : BitVec 4) (s : State) : Out := .next (fenceOp n true true s)

/-- A fence completes when its waits are over and its pushes made; its thread becomes READY (09 R202). -/
def execFenceComplete (op : Nat) (s : State) : Out :=
  match s.op? op with
  | none => .next s
  | some o =>
    match o.kind with
    | .fence acq rel =>
      if (rel.isSome && !s.quietBefore o) || (acq.isSome && !s.readsBefore o) then .next s
      else .next (((s.fenceEffect o.core acq rel).fenceCode o acq rel).arrive op id)
    | _ => .next s

/-- A peer is cut off by links that retrain or are down. A link in a reconfiguration cuts nothing off until the switches have settled,
when the dark interval ends and it trains (09 R203, 14 R326). -/
def State.cutOff (s : State) (dev : Nat) : Bool :=
  s.peerView dev == 2 || (s.peerView dev == 1 && (match s.route? dev with
    | some r => r.state == .reachable && !(routeLinks r).any (fun n => s.reconf.contains n && !(s.link n).settled)
    | none => false))

/-- The 2 ms of a wait for a peer have passed; where a route to it was DARK in a reconfiguration they count from the end of the dark interval,
when the switches had settled (14 R326). -/
def State.waitedLong (s : State) (core since dev : Nat) : Bool :=
  let dark := Sparse.get 0 s.darkEnds dev
  decide (since + 1200000 ≤ s.coreClock core) && (dark == 0 || decide (dark + 1200000 ≤ s.now + 1))

/-- A release that waits on stores to a peer behind a retraining link for 2 ms, 1,200,000 cycles (01 R17): the first such
store ends its context with 0x0901 (09 R203). -/
def execPeerReleaseTimeout (op : Nat) (s : State) : Out :=
  match s.op? op with
  | none => .next s
  | some o =>
    if !o.releases || o.arrived then .next s
    else
      match (s.earlier o).find? (fun p => s.reqs.any (fun r => r.op == p.id && s.cutOff r.pkt.dst && s.waitedLong o.core o.since r.pkt.dst)) with
      | none => .next s
      | some p => .next (s.remoteError p.slot p.core p.tslot p.launch (match p.kind with
        | .store a _ _ => a.va
        | .atomic a _ _ _ _ _ => a.va
        | _ => 0) 0)

/-! ### Write-homes of a remote partition (09 R197, R206) -/

/-- A delta of a line arrives at its home and is added there; the copy then holds copy plus delta (09 R206). -/
def execDeltaWriteHome (die line : Nat) (s : State) : Out :=
  if !dieOk die then .fault (.noSuchDie die)
  else
    let l := s.remoteLine die line
    if l.deltas.isEmpty then .next s
    else .next ((s.homeDeltas line l).setRemote die line { l with copy := Memory.writeBytes [] 0 (l.view 0 128), deltas := [] })

/-- A line of a remote partition is evicted: its dirty bytes and deltas are written home (09 R197, R206). -/
def execRemoteEviction (die line : Nat) (s : State) : Out :=
  if !dieOk die then .fault (.noSuchDie die) else .next (s.dropRemote die line)

/-! ### Page walks (08 R187) -/

/-- Walks of a slot that run on a die. -/
def State.runningWalks (s : State) (die slot : Nat) : Nat :=
  (s.walks.filter (fun k => k.die == die && k.slot == slot && k.running && k.failed.isNone)).length

/-- Walks that found nothing and that no thread and no engine waits on are forgotten. -/
def State.tidyWalks (s : State) : State :=
  { s with walks := s.walks.filter (fun k => k.failed.isNone || s.awaited k.wid || !k.engines.isEmpty) }

/-- Walkers of a die in use (08 R187). -/
def State.walkersBusy (s : State) (die : Nat) : Nat := (s.walks.filter (fun k => k.die == die && k.running && k.failed.isNone)).length

/-- The walk cache of a die takes in the pointer entries of a walk, or not: which of them it keeps is open. -/
def State.keepPointers (s : State) (die : Nat) (ps : List Pointer) : State :=
  (if Config.freeChoice s.fresh then
    s.mapDie die (fun d => { d with pointers := ps ++ d.pointers.filter (fun p => !ps.any (fun q =>
      q.cid == p.cid && q.root == p.root && q.level == p.level && q.part == p.part)) }) else s).stir

/-- The first waiting walk whose context has a walker free within its quota starts on one of the die's 96 walkers, with the context's
registers as they stand (08 R187, R193). -/
def execPageWalkStart (die : Nat) (s : State) : Out :=
  if !dieOk die then .fault (.noSuchDie die)
  else
    match s.walks.find? (fun k => k.die == die && !k.running && k.failed.isNone && decide (s.runningWalks die k.slot < (s.slot k.slot).walk) &&
      decide (s.walkersBusy die < Config.walkers)) with
    | none => .next s
    | some k =>
      let c := s.slot k.slot
      .next { s with walks := s.walks.map (fun x =>
        if x.wid = k.wid then { x with running := true, cid := c.cid, root := c.root, ga := c.ga, rootValid := c.v } else x) }

/-- Cores whose threads, or whose threads' operations or tile commands, wait on a walk. -/
def State.waitingCores (s : State) (wid : Nat) : List Nat :=
  let es := match s.walks.find? (fun k => k.wid == wid) with
    | some k => k.engines
    | none => []
  (s.threads.filter (fun t => t.begun == some wid)).map (fun t => t.core) ++
    (s.ops.filter (fun o => es.contains o.id)).map (fun o => o.core) ++ (s.cmds.filter (fun c => es.contains c.uid)).map (fun c => c.core)

/-- A walk ends: it installs the translation in the L2 TLB and the L1 TLBs of the waiting cores, or nothing (08 R187); a stale
walk installs nothing (08 R188). -/
def execPageWalkComplete (walk : Nat) (s : State) : Out :=
  match s.walks.find? (fun k => k.wid == walk) with
  | none => .next s
  | some k =>
    if !k.running || k.failed.isSome then .next s
    else
      let gone := { s with walks := s.walks.filter (fun x => x.wid != walk) }
      if k.stale then .next gone
      else
        match walkRoot s (s.die k.die).pointers k.cid k.root k.rootValid k.ga (k.vpage * 4096) with
        | (.found x, ps) =>
          .next ((s.waitingCores walk).foldl (fun s c => s.fillL1Tlb c x) ((gone.keepPointers k.die ps).fillL2Tlb k.die x))
        | (.failed aux, _) =>
          .next (({ s with walks := s.walks.map (fun x => if x.wid = walk then { x with failed := some aux } else x) } : State).tidyWalks)

/-! ### Invalidations (08 R190) -/

/-- Writes of a context, named before a mark, that are still on their way, the lines of tile drains among them. -/
def State.writesOf (s : State) (slot before : Nat) : Bool :=
  s.ops.any (fun p => p.slot == slot && decide (p.id < before) && s.writePending p) || s.drainsOf slot before

/-- An invalidation completes once every write through removed entries has reached its home, of the contexts that the slots held as it was
issued; every die then pushes (08 R190). -/
def execTlbInvalidateComplete (op : Nat) (s : State) : Out :=
  match s.op? op with
  | none => .next s
  | some o =>
    match o.kind, o.mark with
    | .inval _ _ _ _, some m =>
      if o.slots.any (fun n => s.writesOf n m) then .next s else .next (s.pushAll.arrive op id)
    | _, _ => .next s

end Sys2Proof.Machine
end

