-- ==== Sys2Proof/Machine/SysRegs.lean ====
section
/-!
DEFINITION. The system registers (16 R361 to R364) with the rules that check their writes (08 R193, 09 R195, 10 R233, 12 R278,
14 R316, 15 R349, R350).
-/
namespace Sys2Proof.Machine

/-! ### Selectors (16 R361, R363) -/

/-- SLOT of a selector. -/
def selSlot (sel : Word) : Nat := sel.toNat % 16
/-- WORD of a selector. -/
def selWord (sel : Word) : Nat := sel.toNat / 16 % 16
/-- UNIT of a selector. -/
def selUnit (sel : Word) : Nat := sel.toNat / 256 % 512

/-- Words of a register. -/
def sysWords (n : Nat) : Nat :=
  match n with
  | 2 => 2 | 6 => 10 | 7 => 2 | 9 => 2 | 12 => 2 | 14 => 10 | _ => 1

/-- A register of each context slot. -/
def perSlot (n : Nat) : Bool := (1 ≤ n && n ≤ 8) || (11 ≤ n && n ≤ 14)

/-- UNIT names one of the register's instances. -/
def unitOk (n unit : Nat) : Bool :=
  match n with
  | 0 => unit < 320
  | 1 => unit < 8
  | 5 => 4 ≤ unit && unit ≤ 10
  | 6 => 4 ≤ unit && unit ≤ 10
  | 9 => unit < 8
  | 10 => unit < 8
  | 16 => unit < 8
  | 17 => unit < 8
  | _ => unit = 0

/-- The selector names a word of the register; SLOT must be 0 for one that is not per-slot (16 R361; DESIGN CHOICE, assumption 122). -/
def selOk (n : Nat) (sel : Word) : Bool :=
  sel.toNat / 2 ^ 17 == 0 && unitOk n (selUnit sel) && decide (selWord sel < sysWords n) && (perSlot n || selSlot sel == 0)

/-! ### Values -/

/-- A bit as a number. -/
def bit (b : Bool) : Nat := if b then 1 else 0

/-- The value of `sys.state` (16 R378). -/
def State.stateWord (s : State) : Nat :=
  (match s.sec with | .boot => 0 | .opened => 1 | .tenant => 2) * 2 ^ 30 +
    (match s.dbg with | .off => 0 | .observe => 1 | .halt => 2) * 2 ^ 28 +
    (match s.pwr with | .run => 0 | .idle => 1 | .retention => 2 | .off => 3) * 2 ^ 26

/-- The whole value of a system register instance. -/
def State.sysValue (s : State) (n slot unit : Nat) : Nat :=
  let c := s.slot slot
  match n with
  | 0 => (s.core unit).fair
  | 1 =>
    let w := Sparse.get (0, 0) c.win unit
    w.1 * 2 ^ 16 + w.2
  | 2 => c.root + c.cid * 8 + bit c.ga * 4 + bit c.v
  | 3 => c.ways.toNat
  | 4 => c.walk
  | 5 =>
    let e := Sparse.get {} c.scopes unit
    bit e.v * 2 ^ 31 + e.die * 16 + e.lvl * 4
  | 6 => (Sparse.get {} c.scopes unit).mask.toNat
  | 7 => c.ovBase.toNat
  | 8 => bit c.ovEn * 2 ^ 31 + c.ovStr * 2 ^ 16 + c.ovM
  | 9 => (s.die unit).hpBase * 2 ^ 21
  | 10 => (s.die unit).hpSize
  | 11 => bit c.ctagV * 2 ^ 31 + c.ctag
  | 12 => bit c.expWe * 2 ^ 63 + bit c.expV * 2 ^ 62 + c.expSize * 2 ^ 40 + c.expBase * 2 ^ 21
  | 13 => c.qCr * 2 ^ 23 + c.qLk * 2 ^ 17 + c.qTc * 2 ^ 8 + c.qBt
  | 14 => c.cores.toNat
  | 15 => s.stateWord
  | 16 => (s.die unit).ce
  | 17 => (s.die unit).gate * 2 ^ 16 + (s.die unit).grant
  | _ => 0

/-- The word of a register that a selector names; 0 where it names none (16 R361). -/
def State.sysRead (s : State) (n : Nat) (sel : Word) : Word :=
  if selOk n sel then BitVec.ofNat 32 (s.sysValue n (selSlot sel) (selUnit sel) / 2 ^ (32 * selWord sel)) else 0

/-! ### Checked writes -/

/-- The sum of a share over the sixteen slots with a new share for one. -/
def State.sumSlots (s : State) (slot new : Nat) (f : Slot → Nat) : Nat :=
  (List.range 16).foldl (fun n k => n + (if k = slot then new else f (s.slot k))) 0

/-- The greatest of a measure over a list. -/
def maxOf (f : Nat → Nat) (l : List Nat) : Nat := l.foldl (fun m x => Nat.max m (f x)) 0

/-- `ds.win`: a window that passes the end of the scratchpad, overlaps another context's, or belongs to a context with a unit on the
die is refused; a changed window is zero-filled (16 R364). -/
def State.setWin (s : State) (slot die x : Nat) : State :=
  let size := x / 2 ^ 16 % 2 ^ 10
  let base := x % 2 ^ 9
  let clash := (List.range 16).any (fun k =>
    let w := Sparse.get (0, 0) (s.slot k).win die
    k != slot && w.1 != 0 && size != 0 && decide (base < w.2 + w.1) && decide (w.2 < base + size))
  if 512 < base + size || clash || s.units.any (fun u => u.slot == slot && dieOf u.core == die) ||
      Sparse.get (0, 0) (s.slot slot).win die == (size, base) then s
  else
    (s.mapSlot slot (fun c => { c with win := Sparse.set (0, 0) c.win die (size, base) })).mapDie die (fun d =>
      { d with scratch := Sparse.clear d.scratch (base * 65536) (size * 65536) })

/-- `tr.root`: no two slots with V = 1 hold one context id (08 R193). A valid root written to a slot whose context has ended, and another
context id, open a new context there. -/
def State.setRoot (s : State) (slot x : Nat) : State :=
  let cid := x / 8 % 64
  let v := x % 2 == 1
  if v && (List.range 16).any (fun k => k != slot && (s.slot k).v && (s.slot k).cid == cid) then s
  else
    s.mapSlot slot (fun c =>
      let c := if v && c.ended then
          { c with ended := false, objs := [], nextNo := [], fields := [], queue := [], holds := [], gen := c.gen + 1 }
        else if cid ≠ c.cid then { c with gen := c.gen + 1 } else c
      { c with root := x / 2 ^ 12 % 2 ^ 34 * 4096, cid := cid, ga := x / 4 % 2 == 1, v := v })

/-- The members of a mask. -/
def coresOf (m : BitVec 320) : List Nat := (List.range 320).filter (fun k => m.getLsbD k)

/-- LVL and DIE of a mask (09 R195, R196). -/
def scopeOf (v : Bool) (m : BitVec 320) : Scope :=
  match coresOf m with
  | [] => {}
  | c :: rest =>
    if rest.isEmpty then { v := v, mask := m, lvl := 0, die := dieOf c }
    else if rest.all (fun k => dieOf k == dieOf c) then { v := v, mask := m, lvl := 1, die := dieOf c }
    else { v := v, mask := m, lvl := 2, die := 0 }

/-- Writes a scope entry with its level. -/
def State.putScope (s : State) (slot id : Nat) (v : Bool) (m : BitVec 320) : State :=
  s.mapSlot slot (fun c => { c with scopes := Sparse.set {} c.scopes id (scopeOf v m) })

/-- `scope.ctl` and `scope.mask`: a valid scope never has an empty mask (09 R195). -/
def State.setScope (s : State) (slot id : Nat) (v : Bool) (m : BitVec 320) : State :=
  if v && m == 0 then s else s.putScope slot id v m

/-- `hp.base` and `hp.size`: no part of the hamper outside the die's own memory; a change first drops every replica (12 R278). -/
def State.setHamper (s : State) (die base size : Nat) : State :=
  if size != 0 && (base < die * 65536 || (die + 1) * 65536 < base + size) then s
  else if (s.die die).hpBase = base ∧ (s.die die).hpSize = size then s
  else (s.dropReplicas die).mapDie die (fun d => { d with hpBase := base, hpSize := size })

/-- `fab.ctag`: no two slots with V = 1 have one TAG (14 R316). -/
def State.setCtag (s : State) (slot x : Nat) : State :=
  let v := x / 2 ^ 31 % 2 == 1
  let tag := x % 2 ^ 16
  if v && (List.range 16).any (fun k => k != slot && (s.slot k).ctagV && (s.slot k).ctag == tag) then s
  else s.mapSlot slot (fun c => { c with ctagV := v, ctag := tag })

/-- `fab.exp`: the window stays below 2^40 (14 R316); SIZE is at most 524,288. -/
def State.setExport (s : State) (slot x : Nat) : State :=
  let size := x / 2 ^ 40 % 2 ^ 20
  let base := x / 2 ^ 21 % 2 ^ 19
  if 2 ^ 19 < base + size then s
  else s.mapSlot slot (fun c => { c with expWe := x / 2 ^ 63 % 2 == 1, expV := x / 2 ^ 62 % 2 == 1, expSize := size, expBase := base })

/-- Lock entries that a context's first locks hold at the NCU that has most of them. -/
def State.firstsHeld (s : State) (slot : Nat) : Nat :=
  let mine := s.locks.filter (fun l => l.first && s.opSlot l.op == slot)
  mine.foldl (fun m l => Nat.max m (mine.filter (fun x => ncuOf x.cell == ncuOf l.cell)).length) 0

/-- `ten.quota` (15 R349). -/
def State.setQuota (s : State) (slot x : Nat) : State :=
  let cr := x / 2 ^ 23 % 2 ^ 9
  let lk := x / 2 ^ 17 % 2 ^ 6
  let tc := x / 2 ^ 8 % 2 ^ 9
  let bt := x % 2 ^ 8
  let cores := List.range Config.cores
  let heldCr := maxOf (fun n => sumOf (fun u => u.ncr) (s.units.filter (fun u => u.core == n && u.slot == slot))) cores
  let heldTc := maxOf (fun n => s.cmdCount n slot) cores
  let heldBt := maxOf (fun n => s.entriesOf n slot) cores
  if cr = 0 || lk = 0 || tc = 0 || bt = 0 || 256 < cr || 48 < lk || 256 < tc || 128 < bt ||
      256 < s.sumSlots slot cr (fun c => c.qCr) || 48 < s.sumSlots slot lk (fun c => c.qLk) ||
      256 < s.sumSlots slot tc (fun c => c.qTc) || 128 < s.sumSlots slot bt (fun c => c.qBt) ||
      cr < heldCr || lk < s.firstsHeld slot || tc < heldTc || bt < heldBt then s
  else s.mapSlot slot (fun c => { c with qCr := cr, qLk := lk, qTc := tc, qBt := bt })

/-- A whole new value reaches a register, if the rule of the register takes it; otherwise the old value stays (16 R362). -/
def State.sysStore (s : State) (n slot unit x : Nat) : State :=
  let c := s.slot slot
  match n with
  | 0 => if 32 ≤ x % 2 ^ 16 then s.mapCore unit (fun c => { c with fair := x % 2 ^ 16 }) else s
  | 1 => s.setWin slot unit x
  | 2 => s.setRoot slot x
  | 3 => if x % 2 ^ 16 = 0 then s else s.mapSlot slot (fun c => { c with ways := BitVec.ofNat 16 x })
  | 4 =>
    let q := x % 2 ^ 7
    if q = 0 || 96 < q || 96 < s.sumSlots slot q (fun c => c.walk) then s else s.mapSlot slot (fun c => { c with walk := q })
  | 5 => s.setScope slot unit (x / 2 ^ 31 % 2 == 1) (Sparse.get {} c.scopes unit).mask
  | 6 => s.setScope slot unit (Sparse.get {} c.scopes unit).v (BitVec.ofNat 320 x)
  | 7 => s.mapSlot slot (fun c => { c with ovBase := BitVec.ofNat 64 x })
  | 8 =>
    let str := x / 2 ^ 16 % 2 ^ 5
    if str < 6 || 16 < str then s
    else s.mapSlot slot (fun c => { c with ovEn := x / 2 ^ 31 % 2 == 1, ovStr := str, ovM := x % 2 ^ 12 })
  | 9 => s.setHamper unit (x / 2 ^ 21 % 2 ^ 25) (s.die unit).hpSize
  | 10 => s.setHamper unit (s.die unit).hpBase (x % 2 ^ 13)
  | 11 => s.setCtag slot x
  | 12 => s.setExport slot x
  | 13 => s.setQuota slot x
  | 14 => if x % 2 ^ 320 = 0 then s else s.mapSlot slot (fun c => { c with cores := BitVec.ofNat 320 x })
  | _ => s

/-- Registers whose writes the Tenant state ignores: `tr.*`, `fab.*`, `ten.*` and `hp.*` (16 R379). -/
def tenantHeld (n : Nat) : Bool := (2 ≤ n && n ≤ 4) || (9 ≤ n && n ≤ 14)

/-- The whole value of a register with the word that the selector names replaced (16 R361, R362). -/
def State.sysMerged (s : State) (n : Nat) (sel v : Word) : Nat :=
  let old := s.sysValue n (selSlot sel) (selUnit sel)
  let w := 2 ^ (32 * selWord sel)
  old - old / w % 2 ^ 32 * w + v.toNat * w

/-- Writes a word of a register (16 R361, R362). -/
def State.sysWrite (s : State) (n : Nat) (sel v : Word) : State :=
  if !selOk n sel || (s.sec == .tenant && tenantHeld n) then s
  else s.sysStore n (selSlot sel) (selUnit sel) (s.sysMerged n sel v)

/-! ### The write of a `sysset` reaches its register (16 R362) -/

/-- The write of a `sysset` to one of some registers is made, and its thread becomes READY. -/
def sysEvent (ns : List Nat) (op : Nat) (s : State) : Out :=
  match s.op? op with
  | none => .next s
  | some o =>
    match o.kind with
    | .sysWrite n sel v => if ns.contains n then .next ((s.sysWrite n sel v).arrive op id) else .next s
    | _ => .next s

/-- `wv.fair` (16 R364). -/
def execWvFairWrite (op : Nat) (s : State) : Out := sysEvent [0] op s
/-- `ds.win` (16 R364). -/
def execDsWinWrite (op : Nat) (s : State) : Out := sysEvent [1] op s
/-- `tr.root` (08 R193). -/
def execTrRootWrite (op : Nat) (s : State) : Out := sysEvent [2] op s
/-- `tr.ways` (08 R193). -/
def execTrWaysWrite (op : Nat) (s : State) : Out := sysEvent [3] op s
/-- `tr.walk` (08 R193). -/
def execTrWalkWrite (op : Nat) (s : State) : Out := sysEvent [4] op s
/-- `scope.ctl` (09 R195). -/
def execScopeCtlWrite (op : Nat) (s : State) : Out := sysEvent [5] op s
/-- `scope.mask` (09 R195). -/
def execScopeMaskWrite (op : Nat) (s : State) : Out := sysEvent [6] op s
/-- `cr.ovbase` (10 R233). -/
def execCrOvbaseWrite (op : Nat) (s : State) : Out := sysEvent [7] op s
/-- `cr.ovctl` (10 R233). -/
def execCrOvctlWrite (op : Nat) (s : State) : Out := sysEvent [8] op s
/-- `hp.base` (12 R278). -/
def execHpBaseWrite (op : Nat) (s : State) : Out := sysEvent [9] op s
/-- `hp.size` (12 R278). -/
def execHpSizeWrite (op : Nat) (s : State) : Out := sysEvent [10] op s
/-- `fab.ctag` (14 R316). -/
def execFabCtagWrite (op : Nat) (s : State) : Out := sysEvent [11] op s
/-- `fab.exp` (14 R316). -/
def execFabExpWrite (op : Nat) (s : State) : Out := sysEvent [12] op s
/-- `ten.quota` (15 R349). -/
def execTenQuotaWrite (op : Nat) (s : State) : Out := sysEvent [13] op s
/-- `ten.cores` (15 R350). -/
def execTenCoresWrite (op : Nat) (s : State) : Out := sysEvent [14] op s
/-- A write to a read-only register has no effect (16 R363). -/
def execRegisterWrite (op : Nat) (s : State) : Out := sysEvent [15, 16, 17] op s

end Sys2Proof.Machine
end

