-- ==== Sys2Proof/Machine/Copy.lean ====
section
/-!
DEFINITION. Copies (10 R222 to R225), `cpyc` (10 R229), the bulk operations and signals of the fabric (14 R329 to R332) and
`nstat` (14 R333).
-/
namespace Sys2Proof.Machine

/-! ### Copy addresses (10 R222) -/

/-- What a copy address names. -/
inductive CopyAddr where
  | scratch (sp off : Nat)
  | global
  | bad
  deriving DecidableEq, Repr

/-- A pair as a copy address (10 R222). -/
def copyAddr (p : Pair) : CopyAddr :=
  let code := p.toNat / 2 ^ 56
  if 0x81 ≤ code ∧ code ≤ 0x84 ∧ p.toNat / 2 ^ 32 % 2 ^ 24 = 0 then .scratch (code - 0x80) (p.toNat % 2 ^ 32)
  else if canonical p then .global
  else .bad

/-- Bytes of a copy (10 R223). -/
def CopyArgs.total (c : CopyArgs) : Nat := c.rows * c.len

/-- Where the run of bytes that a copy moves ends. -/
def CopyArgs.goal (c : CopyArgs) : Nat := if c.stop = 0 then c.total else c.stop

/-- Every byte of a copy stands at its place. -/
def CopyArgs.finished (c : CopyArgs) : Bool := decide (c.goal ≤ c.moved) && c.rest.isEmpty

/-- The bytes that a copy has written when it stands at byte k. -/
def CopyArgs.written (c : CopyArgs) (k : Nat) : Nat := c.before + (k - c.start)

/-- The index within its row of byte k, and its row. -/
def CopyArgs.place (c : CopyArgs) (k : Nat) : Nat × Nat := (k % c.len, k / c.len)

/-- A copy address moved by a signed distance: a scratch address keeps its space. -/
def shiftAddr (p : Pair) (d : Int) : Pair :=
  match copyAddr p with
  | .scratch sp off => BitVec.ofNat 64 ((0x80 + sp) * 2 ^ 56 + (((off : Int) + d) % 2 ^ 32).toNat)
  | _ => p + BitVec.ofInt 64 d

/-- The source address of byte k. -/
def CopyArgs.srcAt (c : CopyArgs) (k : Nat) : Pair := shiftAddr c.src (((c.place k).2 : Int) * c.sStride + ((c.place k).1 : Int))

/-- The destination address of byte k. -/
def CopyArgs.dstAt (c : CopyArgs) (k : Nat) : Pair := shiftAddr c.dst (((c.place k).2 : Int) * c.dStride + ((c.place k).1 : Int))

/-! ### One end of a byte (10 R224) -/

/-- Where a byte of a copy is read or written: a scratch array, memory of this module, a peer, or a fault; 0x0901 carries its
cause. -/
inductive CopyEnd where
  /-- the page's walk has not ended -/
  | wait
  | scratch (sp off : Nat)
  | here (a : Access)
  | peer (dev : Nat) (a : Access)
  | fault (code : Nat) (va : Pair) (cause : Word)
  deriving DecidableEq, Repr

/-- The fault of a byte by the class and W of its page (10 R224). -/
def copyPageFault (x : Trans) (write : Bool) : Option Nat :=
  if write then
    if x.cls = 1 then some 0x0503 else if x.cls = 2 then some 0x0502 else if !x.w then some 0x0504 else none
  else if x.cls = 1 then some 0x0504 else none

/-- Finds one end of a byte: the engine translates each page as it reaches it (08 R190). A byte of global memory that runs out of the canonical
range after the issue raises 0x0507 on completion (DESIGN CHOICE, assumption 125). -/
def State.copyEnd (s : State) (o : Op) (p : Pair) (write : Bool) : State × CopyEnd :=
  match copyAddr p with
  | .scratch sp off => (s, .scratch sp off)
  | .bad => (s, .fault 0x0507 p 0)
  | .global =>
    match s.translateFor o.id o.core o.slot p with
    | (s, .wait) => (s, .wait)
    | (s, .failed _) => (s, .fault 0x0501 p 0)
    | (s, .found x) =>
      match copyPageFault x write with
      | some code => (s, .fault code p 0)
      | none =>
        let a := mkAccess x p 1 0
        match x.peer with
        | none => (s, .here a)
        | some d =>
          match s.peerCheck o.slot d with
          | some cause => (s, .fault 0x0901 p cause)
          | none => (s, .peer d a)

/-- The start of the region of a scratch space of an operation's thread (07 R162). -/
def State.opRegion (s : State) (o : Op) (sp : Nat) : Nat :=
  match sp with
  | 1 => o.tslot * Config.laneBytes
  | 2 => (match s.unit? o.unit with | some u => u.scrOff | none => 0)
  | 3 => (match s.unit? o.unit with | some u => u.cluOff | none => 0)
  | _ => (Sparse.get (0, 0) (s.slot o.slot).win (dieOf o.core)).2 * 65536

/-- A byte that a copy reads from a scratch space. -/
def State.scratchByte (s : State) (o : Op) (sp off : Nat) : Byte :=
  if sp = 1 then
    match s.thread? o.tid with
    | some t => s.lpByte t off 0
    | none => 0
  else (s.scratchRead o.core sp (s.opRegion o sp + off) 1).headD 0

/-- Writes a byte of a scratch space for a copy. -/
def State.putScratch (s : State) (o : Op) (sp off : Nat) (b : Byte) : State :=
  if sp = 1 then
    match s.thread? o.tid with
    | some t => s.lpWrite t off [b]
    | none => s
  else if s.regionLives o sp then s.scratchWrite o.core sp (s.opRegion o sp + off) [b]
  else s

/-- What reading a source byte gives. -/
inductive SrcByte where
  | byte (b : Byte)
  | wait
  | peer (dev : Nat) (a : Access)
  | fault (code : Nat) (va : Pair) (cause : Word)
  /-- a byte whose half-sector's check code differs by `e` from the code of its bytes (16 R375) -/
  | bad (loc : Nat) (b : Byte) (e : Half)
  deriving DecidableEq, Repr

/-- A source byte at a place with the code of its half-sector, as the line that delivers it has it. -/
def codedByte (loc : Nat) (b : Byte) (codes : Sparse Half) : SrcByte :=
  let e := Sparse.get 0 codes (loc % 128 / 32)
  if e = 0 then .byte b else .bad loc b e

/-- Writes a byte at a destination in this module's memory as a store: at the issuing die's L2 and in the L1; `nput` writes it at its home
(10 R225, 14 R330). -/
def State.copyStore (s : State) (o : Op) (c : CopyArgs) (loc : Nat) (bs : List Byte) : State :=
  let s := s.noteWrite o.writer o.core loc bs
  let s := if c.bulk && !c.get then (s.dropRemote (dieOf o.core) (lineOf loc)).homeWrite loc bs else s.l2Write (dieOf o.core) loc bs
  s.l1Store o.core loc bs

/-- The half-sector of a destination takes a byte whose code fails: the code travels with the data, through the caches, to where the copy writes
(16 R375). -/
def State.copyStoreBad (s : State) (o : Op) (c : CopyArgs) (loc : Nat) (b : Byte) (e : Half) : State :=
  let at' := if c.bulk && !c.get then homeDie loc else dieOf o.core
  -- the half-sector as the bytes before have left it carries the code already: only a code that stood there before is checked
  let s := if Sparse.get 0 (s.l2Codes at' (lineOf loc)) (loc % 128 / 32) = e then s.spoilL2 at' loc 0 else s
  ((s.copyStore o c loc [b]).spoilL2 at' loc e).spoilL1 o.core loc e

/-- A copy has read a byte of an append-seal page. -/
def State.readsSeal (s : State) (id : Nat) : State :=
  s.mapOp id (fun p => match p.kind with
    | .copy c => { p with kind := .copy { c with sealed := true } }
    | _ => p)

/-- Reads source byte k (09 R209, 12 R270): global bytes at the issuing die's L2, never from an L1; those of `nget` at their home
(14 R330). -/
def State.srcByte (s : State) (o : Op) (c : CopyArgs) (k : Nat) : State × SrcByte :=
  if c.zero then (s, .byte 0)
  else
    match s.copyEnd o (c.srcAt k) false with
    | (s, .wait) => (s, .wait)
    | (s, .scratch sp off) => ((if sp = 1 then s.stir else s), .byte (s.scratchByte o sp off))
    | (s, .peer d a) =>
      if a.cls ≠ 2 then (s, .peer d a)
      else
        (match s.replicaRead (dieOf o.core) a 1 with
         | some (s, bs, _) => (s.readsSeal o.id, codedByte a.loc (bs.getD (a.loc % 128) 0) (s.sealedCodes (dieOf o.core) a))
         | none => (s, .peer d a))
    | (s, .fault code va cause) => (s, .fault code va cause)
    | (s, .here a) =>
      if a.cls ≠ 2 then
        if c.get then (s, codedByte a.loc ((s.homeRead a.loc 1).headD 0) (s.homeCodes (lineOf a.loc)))
        else
          let r := s.l2ReadBy (dieOf o.core) a.loc 1 c.pol
          (r.1, codedByte a.loc (r.2.headD 0) (s.l2Codes (dieOf o.core) (lineOf a.loc)))
      else
        let q := s.page? a.pageLoc
        let off := a.loc - a.pageLoc
        let past := c.passed.isSome && k == c.moved
        match (if past then judgeHome q off 1 else judgeRead q a.pageSize off 1 o.detM) with
        | .wait => (s, .wait)
        | .passed =>
          if k = c.moved then (s.mapOp o.id (fun p => { p with kind := .copy { c with passed := some a.pageLoc } }), .wait) else (s, .wait)
        | .fault _ => (s, .fault 0x0702 a.va 0)
        | .bytes =>
          if !past && sealedQuiet q a.pageSize then
            let tail := match q with
              | some r => r.tail
              | none => 0
            let r := s.readSealed (dieOf o.core) a tail
            (r.1.readsSeal o.id, codedByte a.loc (r.2.getD (a.loc % 128) 0) (s.sealedCodes (dieOf o.core) a))
          else (s.readsSeal o.id, codedByte a.loc ((s.homeRead a.loc 1).headD 0) (s.homeCodes (lineOf a.loc)))

/-! ### Progress and ends of a copy -/

/-- Records that bytes below an index have been written. -/
def State.copyMoved (s : State) (id n : Nat) : State :=
  s.mapOp id (fun p => match p.kind with
    | .copy c => { p with kind := .copy { c with moved := n, passed := none } }
    | _ => p)

/-- A copy stops with a fault (10 R224). -/
def State.copyFault (s : State) (o : Op) (code : Nat) (va : Pair) (cause : Word) (written : Nat) : State :=
  s.arriveFault o.id code va (if code = 0x0901 then cause else BitVec.ofNat 32 written)

/-- An atomic without return at its home, on behalf of an operation: the elements of `nred` and the signals (14 R330, R331).
The claim's U where a deterministic launch's claim refuses it (10 R218). -/
def State.homeAtomic (s : State) (o : Op) (loc : Nat) (f : AtomFn) (x : Pair) : State × Option Nat :=
  let r := if o.claims then s.claimCheck (lineOf loc) o.claimSlot o.launch o.uix o.group false else (s, none)
  match r.2 with
  | some u => (r.1, some u)
  | none =>
    let q := ((r.1.l1Give o.core loc).dropRemote (dieOf o.core) (lineOf loc)).atomHome loc f x 0
    (q.1.notedFrom s o.writer o.core loc (q.1.homeRead loc f.size), none)

/-- The signal of a bulk operation: an add64 of 1 at scope 11 (14 R330). -/
def State.sendSignal (s : State) (o : Op) (c : CopyArgs) : State :=
  match s.copyEnd o c.signal true with
  | (s, .wait) => s
  | (s, .fault code va cause) => s.copyFault o code va cause c.total
  | (s, .here a) =>
    if s.homeBad a.loc 8 then s.opError o a.loc c.signal
    else
    (match s.homeAtomic o a.loc .add64 1 with
     | (s, some u) => s.arriveFault o.id 0x0A01 c.signal (BitVec.ofNat 32 u)
     | (s, none) => s.arrive o.id id)
  | (s, .peer d a) =>
    ((s.peerReduced o.core a.loc 8).mapOp o.id (fun p => { p with served := true })).request o d (peerAddr a.loc) 4 AtomFn.add64.code 8 (atomOperands o 1 0 false 1) 0
  | (s, .scratch _ _) => s.arrive o.id id

/-- Every byte stands at its place: a signal is sent, and the copy completes when its turn comes (10 R225, 14 R330). -/
def State.finishCopy (s : State) (o : Op) (c : CopyArgs) : State :=
  if c.bulk && c.signal != 0 && !o.served then s.sendSignal o c else s.arrive o.id id

/-- The bytes that a request to a peer may carry from a position: to the end of the row, of the run, of a 256-byte block of the address,
and of `limit` (14 R320). -/
def CopyArgs.chunk (c : CopyArgs) (k : Nat) (a : Access) (limit block : Nat) : Nat :=
  Nat.min limit (Nat.min (Nat.min (c.len - (c.place k).1) (c.goal - k)) (block - a.loc % block))

/-- Up to n source bytes from byte k that can be read at once. -/
def State.gather (s : State) (o : Op) (c : CopyArgs) (k n : Nat) : State × List Byte :=
  match n with
  | 0 => (s, [])
  | n + 1 =>
    match s.srcByte o c k with
    | (s, .byte b) =>
      let r := State.gather s o c (k + 1) n
      (r.1, b :: r.2)
    | (s, _) => (s, [])

/-- The element size of a copy: 1, or that of its reduction (14 R331). -/
def CopyArgs.unit (c : CopyArgs) : Nat :=
  match c.red with
  | some f => f.size
  | none => 1

/-- The operation of `nred` by its code; codes 11 to 15 are illegal (14 R331). -/
def redFn (n : Nat) : Option AtomFn :=
  match n with
  | 0 => some .add | 1 => some .add64 | 2 => some .minI | 3 => some .maxI | 4 => some .minN | 5 => some .maxN | 6 => some .and
  | 7 => some .or | 8 => some .xor | 9 => some .fadd | 10 => some .dadd | _ => none

/-- The code of a reduction's function. -/
def AtomFn.redCode (f : AtomFn) : Nat := ((List.range 11).find? (fun n => redFn n == some f)).getD 0

/-- Sends bytes from byte k to the peer that homes their destination: a write, or a reduction whose operands stand before its
elements (the layout is the model's). -/
def State.sendBytes (s : State) (o : Op) (c : CopyArgs) (k dev : Nat) (a : Access) (bs : List Byte) : State :=
  match c.red with
  | none => (s.peerStored o.core a.loc bs).request o dev (peerAddr a.loc) 2 0 bs.length bs k
  | some f =>
    (s.peerReduced o.core a.loc bs.length).request o dev (peerAddr a.loc) 5 f.redCode (16 + bs.length)
      (leBytes 4 o.launch.toNat ++ leBytes 4 o.uix ++ leBytes 4 o.group ++ leBytes 4 (if o.claims then 1 else 0) ++ bs) k

/-- What writing bytes at a destination leads to. -/
inductive Put where
  | next (s : State)
  | stop (s : State)
  deriving DecidableEq, Repr

/-- Writes one unit (a byte, or an element of a reduction) at its destination (10 R225, 14 R331). -/
def State.putUnit (s : State) (o : Op) (c : CopyArgs) (k : Nat) (bs : List Byte) : Put :=
  match s.copyEnd o (c.dstAt k) true with
  | (s, .wait) => .stop s
  | (s, .fault code va cause) => .stop (s.copyFault o code va cause (c.written k))
  | (s, .scratch sp off) => .next ((s.putScratch o sp off (bs.headD 0)).copyMoved o.id (k + 1))
  | (s, .peer d a) => .stop (s.sendBytes o c k d a bs)
  | (s, .here a) =>
    match c.red with
    | none => .next ((s.copyStore o c a.loc bs).copyMoved o.id (k + 1))
    | some f =>
      if s.homeBad a.loc f.size then .stop (s.opError o a.loc (c.dstAt k))
      else
      match s.homeAtomic o a.loc f (BitVec.ofNat 64 (leNat bs)) with
      | (s, some u) => .stop (s.arriveFault o.id 0x0A01 a.va (BitVec.ofNat 32 u))
      | (s, none) => .next (s.copyMoved o.id (k + f.size))

/-- Writes bytes that have been read, one unit after another from byte k, until one must wait. -/
def State.putAll (s : State) (o : Op) (c : CopyArgs) (k n : Nat) (bs : List Byte) : State :=
  match n with
  | 0 => s
  | n + 1 =>
    if bs.length < c.unit || bs.isEmpty then s
    else
      match s.putUnit o c k (bs.take c.unit) with
      | .stop s => s
      | .next s => State.putAll s o c (k + c.unit) n (bs.drop c.unit)

/-- The destination of byte k lies on a peer. -/
def State.dstPeer (s : State) (o : Op) (c : CopyArgs) (k : Nat) : Option (Nat × Access) :=
  match (s.copyEnd o (c.dstAt k) true).2 with
  | .peer d a => some (d, a)
  | _ => none

/-- A source byte whose check code fails. A copy to memory of this module carries it there, with its code; a reduction uses it at an NCU, and a
packet takes it out at a port: these consume it (01 R33). A copy into a scratch array, which holds no codes, consumes it too (DESIGN CHOICE,
assumption 111). -/
def State.copyBad (s : State) (o : Op) (c : CopyArgs) (k loc : Nat) (b : Byte) (e : Half) : Put :=
  match s.copyEnd o (c.dstAt k) true with
  | (s, .wait) => .stop s
  | (s, .fault code va cause) => .stop (s.copyFault o code va cause (c.written k))
  | (s, .here a) =>
    if c.red.isSome then .stop (s.opError o loc (c.srcAt k))
    else .next ((s.copyStoreBad o c a.loc b e).copyMoved o.id (k + 1))
  | (s, _) => .stop (s.opError o loc (c.srcAt k))

/-- One step of a copy from byte k: a unit moved, or a request to a peer, or a wait, or a fault. Where both ends of a byte fail the source's
fault stops the copy (10 R224; DESIGN CHOICE, assumption 116). -/
def State.copyUnit (s : State) (o : Op) (c : CopyArgs) (k n : Nat) : Put :=
  match s.srcByte o c k with
  | (s, .wait) => .stop s
  | (s, .fault code va cause) => .stop (s.copyFault o code va cause (c.written k))
  | (s, .bad loc b e) => s.copyBad o c k loc b e
  | (s, .peer d a) =>
    -- each byte of an append-seal page is judged by itself (10 R224, 12 R270), and an element of a reduction moves whole (14 R331)
    if a.cls = 2 then .stop ((s.readsSeal o.id).askRead o a d c.unit k)
    else
      let m := c.chunk k a (Nat.max n c.unit) 256
      .stop (s.request o d (peerAddr a.loc) 1 0 (m / c.unit * c.unit) [] k)
  | (s, .byte _) =>
    match s.dstPeer o c k with
    | some (d, a) =>
      let r := s.gather o c k (c.chunk k a (Nat.min (Nat.max n c.unit) 240) 256)
      let m := r.2.length / c.unit * c.unit
      if m = 0 then .stop r.1 else .stop (r.1.sendBytes o c k d a (r.2.take m))
    | none =>
      let r := s.gather o c k c.unit
      if c.unit ≤ r.2.length then r.1.putUnit o c k r.2
      else
        -- a byte of the element cannot be read
        match r.1.srcByte o c (k + r.2.length) with
        | (s, .fault code va cause) => .stop (s.copyFault o code va cause (c.written k))
        | (s, .bad loc _ _) => .stop (s.opError o loc (c.srcAt (k + r.2.length)))
        | (s, _) => .stop s

/-- Moves up to n units, bytes or elements of a reduction. -/
def State.moveBytes (s : State) (id n : Nat) : State :=
  match n with
  | 0 => s
  | m + 1 =>
    match s.op? id with
    | none => s
    | some o =>
      match o.kind with
      | .copy c =>
        if c.goal ≤ c.moved then s
        else
          (match s.copyUnit o c c.moved n with
           | .stop s => s
           | .next s => State.moveBytes s id m)
      | _ => s

/-- Ends a copy whose bytes have all been written. -/
def State.endCopy (s : State) (id : Nat) : State :=
  match s.op? id with
  | none => s
  | some o =>
    match o.kind with
    | .copy c => if c.finished && !o.arrived && !s.awaits id then s.finishCopy o c else s
    | _ => s

/-- An earlier store of the thread has not completed (10 R225). -/
def State.storesBefore (s : State) (o : Op) : Bool := (s.earlier o).any (fun p => p.isStore)

/-- A bulk form goes on at another run of the bytes that are left: the i-th of its runs, from an offset of it on, at an element. -/
def CopyArgs.jump (c : CopyArgs) (i off : Nat) : CopyArgs :=
  let runs := ((c.moved, c.goal) :: c.rest).filter (fun p => decide (p.1 < p.2))
  match runs[i % runs.length]? with
  | none => c
  | some (lo, hi) =>
    let k := lo + off % (hi - lo) / c.unit * c.unit
    { c with moved := k, start := k, stop := hi, before := c.written c.moved,
             rest := runs.filter (fun p => p != (lo, hi)) ++ (if lo < k then [(lo, k)] else []) }

/-- Its packets go in any order: the next run is a free choice (14 R330). -/
def State.jumpCopy (s : State) (o : Op) : State :=
  match o.kind with
  | .copy c =>
    if !c.bulk || c.finished || c.passed.isSome then s
    else (s.mapOp o.id (fun p => { p with kind := .copy (c.jump (Config.freeNat s.fresh) (Config.freeNat (s.fresh + 1))) })).stir.stir
  | _ => s

/-- A copy moves up to n more bytes (elements, for a reduction), in index order or, for a bulk form, in any order, and completes when every
byte stands at its place (10 R225, 14 R330). -/
def execCopyComplete (op n : Nat) (s : State) : Out :=
  match s.op? op with
  | none => .next s
  | some o =>
    match o.kind with
    | .copy _ => if o.arrived || s.awaits op || s.storesBefore o then .next s else .next (((s.jumpCopy o).moveBytes op n).endCopy op)
    | _ => .next s

/-- The bytes of a chunk that a copy asked a peer for have come. -/
def State.copyArrived (s : State) (o : Op) (bs : List Byte) : State :=
  match o.kind with
  | .copy c => (s.putAll o c c.moved bs.length bs).endCopy o.id
  | _ => s

/-- A peer has written n bytes of a copy. -/
def State.copyWritten (s : State) (o : Op) (n : Nat) : State :=
  match o.kind with
  | .copy c => (s.copyMoved o.id (c.moved + n)).endCopy o.id
  | _ => s

/-! ### Issue (10 R222 to R224) -/

/-- A range of a scratch space lies within the region of a thread; an empty range always does. -/
def State.rangeFits (s : State) (t : Thread) (p : Pair) (d : Int) (len : Nat) : Bool :=
  match copyAddr p with
  | .scratch sp off => len == 0 || (decide (0 ≤ (off : Int) + d) && decide ((off : Int) + d + len ≤ ((s.region t sp).1 : Int)))
  | _ => true

/-- The bad address of a copy, in the order destination, source. -/
def badAddr (ps : List Pair) : Option Pair := ps.find? (fun p => copyAddr p == .bad)

/-- The range checks of both ends, first and last row (10 R224). -/
def State.rowsFit (s : State) (t : Thread) (p : Pair) (stride : Int) (rows len : Nat) : Bool :=
  rows == 0 || (s.rangeFits t p 0 len && s.rangeFits t p (((rows : Int) - 1) * stride) len)

/-- The checks of a copy at issue (10 R223, R224). Of two faults with one code that of the destination comes first, and the record names the
start of the end concerned, for a total above 2^32 - 1 that of the destination (DESIGN CHOICE, assumption 125). -/
def State.copyChecks (s : State) (t : Thread) (c : CopyArgs) : Except Stop CopyArgs :=
  if t.full .cp then .error (.leave (.room .cp))
  else
    match badAddr (if c.zero then [c.dst] else [c.dst, c.src]) with
    | some p => .error (.fault { code := 0x0507, addr := p })
    | none =>
      if 2 ^ 32 ≤ c.total then .error (.fault { code := 0x0506, addr := c.dst })
      else if !s.rowsFit t c.dst c.dStride c.rows c.len then .error (.fault { code := 0x0506, addr := c.dst })
      else if !c.zero && !s.rowsFit t c.src c.sStride c.rows c.len then .error (.fault { code := 0x0506, addr := c.src })
      else .ok c

/-- Puts a copy in flight for a thread. -/
def State.startCopy (s : State) (c : Ctx) (t : Thread) (x : CopyArgs) : State := s.addOp (s.newOp c t .cp (.copy x))

/-- `cpy` (10 R223). -/
def execCpy (d a b : Reg) (s : State) : Out :=
  .next (issue ({
    shape := fun _ => { named := pairNames d ++ pairNames a ++ [b], reads := [(.int64, d), (.int64, a), (.int, b)] },
    pre := fun s c t => (s, s.copyChecks t { dst := t.pair d, src := t.pair a, len := (s.intOf t b).toNat, pol := c.hints.pol }),
    act := eachThread (fun s c t x => (s.startCopy c t x, .go)) }) s)

/-- `cpy2d` (10 R223). -/
def execCpy2d (d a b : Reg) (s : State) : Out :=
  .next (issue ({
    hx := true,
    illegal := fun h => h.c.toNat % 4 != 0,
    shape := fun h => { named := pairNames d ++ pairNames a ++ [b, h.c, h.c + 1, h.c + 2],
                        reads := [(.int64, d), (.int64, a), (.int, b), (.int, h.c), (.int, h.c + 1), (.int, h.c + 2)] },
    pre := fun s c t =>
      let q := c.hints.c
      (s, s.copyChecks t { dst := t.pair d, src := t.pair a, len := (s.intOf t b).toNat, rows := (s.intOf t q).toNat,
                           sStride := (s.intOf t (q + 1)).toInt, dStride := (s.intOf t (q + 2)).toInt, pol := c.hints.pol }),
    act := eachThread (fun s c t x => (s.startCopy c t x, .go)) }) s)

/-- `cpyz` (10 R223). -/
def execCpyz (d b : Reg) (s : State) : Out :=
  .next (issue ({
    shape := fun _ => { named := pairNames d ++ [b], reads := [(.int64, d), (.int, b)] },
    pre := fun s c t =>
      (s, s.copyChecks t { dst := t.pair d, src := 0, len := (s.intOf t b).toNat, zero := true, pol := c.hints.pol }),
    act := eachThread (fun s c t x => (s.startCopy c t x, .go)) }) s)

/-- `cpyc`: the destination is the slot that the thread claims (10 R223, R229, R232). -/
def execCpyc (d a : Reg) (k : BitVec 7) (s : State) : Out :=
  .next (issue ({
    shape := fun _ => { named := d :: pairNames a, reads := [(.int64, a)] },
    pre := fun s c t =>
      let q := s.creel t.unit k.toNat
      if t.full .cp then (s, .error (.leave (.room .cp)))
      else if copyAddr (t.pair a) = .bad then (s, .error (.fault { code := 0x0507, addr := t.pair a }))
      else if !q.v then (s, .error (.fault { code := 0x0506, aux := k.setWidth 32 }))
      else if !s.rangeFits t (t.pair a) 0 q.size then (s, .error (.fault { code := 0x0506, addr := t.pair a }))
      else (s, .ok c.hints.pol),
    group := claimGroup true k,
    act := eachThread (fun s c t pol =>
      let src := t.pair a
      let r := s.takeClaim t k.toNat true
      let q := r.1.creel t.unit k.toNat
      let s := r.1.setThread (t.setReg d (BitVec.ofNat 32 r.2) .int)
      (s.startCopy c t { dst := s.slotAddress t.unit q r.2, src := src, len := q.size, creel := some (k.toNat, r.2), pol := pol }, .go)) }) s)

/-! ### Bulk operations (14 R329 to R331) -/

/-- The checks of the accesses to peers of a bulk form at issue, for the addresses from the k-th on: each is translated, a miss stalls the
thread, which goes on from it, and one that is mapped to a peer is checked (14 R317); one that is not mapped faults as the copy comes to
it. -/
def State.bulkPeers (s : State) (t : Thread) (k : Nat) (ps : List Pair) : State × Except Stop Unit :=
  match ps with
  | [] => (s, .ok ())
  | p :: ps =>
    if copyAddr p ≠ .global then State.bulkPeers s t (k + 1) ps
    else
      match s.translate t p with
      | (s, .wait wid) => (s.mapThread t.tid (fun u => { u with checked := k }), .error (.leave (.walk wid)))
      | (s, .bad _) => State.bulkPeers s t (k + 1) ps
      | (s, .hit x) =>
        match x.peer.bind (fun d => s.peerCheck (s.slotOf t) d) with
        | some cause => (s, .error (.fault { code := 0x0901, addr := p, aux := cause }))
        | none => State.bulkPeers s t (k + 1) ps

/-- The checks of a bulk form at issue (14 R329). `far` is the address that must be canonical. -/
def State.bulkChecks (s : State) (t : Thread) (c : CopyArgs) (far : Pair) : State × Except Stop CopyArgs :=
  let near := if far = c.dst then c.src else c.dst
  if t.full .cp then (s, .error (.leave (.room .cp)))
  else if !canonical far then (s, .error (.fault { code := 0x0507, addr := far }))
  else if copyAddr near = .bad then (s, .error (.fault { code := 0x0507, addr := near }))
  else if !canonical c.signal then (s, .error (.fault { code := 0x0507, addr := c.signal }))
  else if c.dst.toNat % c.unit ≠ 0 then (s, .error (.fault { code := 0x0505, addr := c.dst }))
  else if c.src.toNat % c.unit ≠ 0 || c.len % c.unit ≠ 0 then (s, .error (.fault { code := 0x0505, addr := c.src }))
  else if c.signal.toNat % 8 ≠ 0 then (s, .error (.fault { code := 0x0505, addr := c.signal }))
  else if !s.rangeFits t c.dst 0 c.len then (s, .error (.fault { code := 0x0506, addr := c.dst }))
  else if !s.rangeFits t c.src 0 c.len then (s, .error (.fault { code := 0x0506, addr := c.src }))
  else if t.modeD && (c.red == some .fadd || c.red == some .dadd) then
    (s, .error (.fault { code := 0x0A01, addr := c.dst, aux := 0xFFFFFFFF }))
  else
    -- a length of 0 only sends the signal (14 R330)
    let ends := if c.len = 0 then [] else [c.dst, c.src]
    let far := ends ++ if c.signal = 0 then [] else [c.signal]
    match s.bulkPeers t t.checked (far.drop t.checked) with
    | (s, .error e) => (s, .error e)
    | (s, .ok _) => (s, .ok c)

/-- The issue of a bulk form. -/
def bulkOp (d a b : Reg) (toPeer : Bool) (red : Hints → Option AtomFn) (illegal : Hints → Bool) (s : State) : State :=
  issue ({
    hx := true,
    illegal := fun h => h.c.toNat % 2 == 1 || illegal h,
    shape := fun h => { named := pairNames d ++ pairNames a ++ [b] ++ pairNames h.c,
                        reads := [(.int64, d), (.int64, a), (.int, b), (.int64, h.c)] },
    pre := fun s c t =>
      s.bulkChecks t { dst := t.pair d, src := t.pair a, len := (s.intOf t b).toNat, bulk := true, get := !toPeer,
                           red := red c.hints, signal := t.pair c.hints.c } (if toPeer then t.pair d else t.pair a),
    act := eachThread (fun s c t x => (s.startCopy c t x, .go)) }) s

/-- `nput` (14 R330). -/
def execNput (d a b : Reg) (s : State) : Out := .next (bulkOp d a b true (fun _ => none) (fun _ => false) s)

/-- `nget` (14 R330). -/
def execNget (d a b : Reg) (s : State) : Out := .next (bulkOp d a b false (fun _ => none) (fun _ => false) s)

/-- `nred` (14 R331): the operation stands in the low four modifier bits of its hx hint. -/
def execNred (d a b : Reg) (s : State) : Out :=
  .next (bulkOp d a b true (fun h => redFn (h.mod.toNat % 16)) (fun h => (redFn (h.mod.toNat % 16)).isNone) s)

/-! ### Signals and status (14 R332, R333) -/

/-- The release of `nsig` waits also for the thread's bulk operations. -/
def State.bulkBefore (s : State) (t : Thread) : Option Nat :=
  (s.ops.find? (fun o => o.tid == t.tid && (match o.kind with | .copy c => c.bulk | _ => false))).map (fun o => o.id)

/-- `nsig` (14 R332): a release at scope 11, then an add64 without return at the home of the word. -/
def execNsig (a b : Reg) (s : State) : Out :=
  .next (issue ({
    shape := fun _ => { named := pairNames a ++ [b], reads := [(.int64, a), (.int, b)] },
    pre := fun s _ t =>
      if t.full .st then (s, .error (.leave (.room .st)))
      else
        match s.globalAccess t (t.pair a) 8 0 none needStore with
        | (s, .error x) => (s, .error x)
        | (s, .ok acc) =>
          if !s.holds t .quiet then (s, .error (.leave .quiet))
          else
            match s.bulkBefore t with
            | some id => (s, .error (.leave (.op id)))
            | none => (s, .ok acc),
    act := eachThread (fun s c t acc =>
      let x : Pair := (s.intOf t b).setWidth 64
      let s := (s.releasePush t.core 3).codeOut t 11
      (s.addOp (s.newOp c t .st (.atomic acc .add64 x 0 (atomPlace t.modeD 3 acc) false)), .go)) }) s)

/-- The code of a link state (14 R333). -/
def LinkState.code (x : LinkState) : Nat :=
  match x with
  | .down => 0 | .training => 1 | .up => 2 | .dark => 3

/-- The link status word (14 R333). -/
def Link.word (l : Link) : Word :=
  let up := l.state == .up
  BitVec.ofNat 32 (l.state.code * 2 ^ 30 + (if up then l.peer * 2 ^ 15 + l.plink * 2 ^ 9 else 0) + Nat.min l.rtc 511)

/-- The peer state word (14 R333). -/
def State.peerWord (s : State) (dev : Nat) : Word :=
  let v := s.peerView dev
  let hops := match s.route? dev with
    | some r => r.hops
    | none => 0
  BitVec.ofNat 32 (v * 2 ^ 30 + (if v = 0 then hops * 2 ^ 16 else 0))

/-- The value of `nstat` (14 R333). -/
def State.statusOf (s : State) (q : Nat) (x : Word) : Word :=
  match q with
  | 0 => if linkOk x.toNat then (s.link x.toNat).word else 0xFFFFFFFF
  | 1 => s.peerWord (x.toNat % 2 ^ 15)
  | _ => BitVec.ofNat 32 (s.dev * 2 ^ 15 + (s.groups - 1) * 2 ^ 5)

/-- `nstat` (14 R333). -/
def execNstat (d a : Reg) (q : BitVec 7) (s : State) : Out :=
  .next (issue ({
    shape := fun _ => { named := if q = 2 then [d] else [d, a], reads := if q = 2 then [] else [(.int, a)] },
    pre := noCheck,
    act := eachThread (fun s _ t _ =>
      (s.setThread (t.setReg d (s.statusOf q.toNat (if q = 2 then 0 else s.intOf t a)) .int), .go)) }) s)

end Sys2Proof.Machine
end

