-- ==== Sys2Proof/Machine/Narrow.lean ====
section
/-!
DEFINITION. Floating-point and narrow-format instructions: majors 0x18 to 0x1C (06 R139 to R159).
-/
namespace Sys2Proof.Machine

/-! ### Shapes -/

/-- f32 of two operands, tag F32 unless hq overrides it (06 R143, R144). -/
def fl2 (d a b : Reg) (f : Nat → Bool → Nat → Nat → Nat) (s : State) : State :=
  regWord (fun _ => { named := [d, a, b], reads := [(.f32, a), (.f32, b)] }) (fun _ => false) false
    (fun h k t => t.setReg d (w32 (f h.rnd h.sat (t.rd k .f32 a).toNat (t.rd k .f32 b).toNat)) (h.tag .f32)) s

/-- f32 of one operand with a result tag (06 R144). -/
def fl1 (d a : Reg) (out : Tag) (f : Nat → Bool → Nat → Nat) (s : State) : State :=
  regWord (fun _ => { named := [d, a], reads := [(.f32, a)] }) (fun _ => false) false
    (fun h k t => t.setReg d (w32 (f h.rnd h.sat (t.rd k .f32 a).toNat)) (h.tag out)) s

/-- A relation of two f32 operands, tag INT (06 R144). -/
def flCmp (d a b : Reg) (f : Nat → Nat → Bool) (s : State) : State :=
  regWord (fun _ => { named := [d, a, b], reads := [(.f32, a), (.f32, b)] }) (fun _ => false) false
    (fun h k t => t.setReg d (flag (f (t.rd k .f32 a).toNat (t.rd k .f32 b).toNat)) (h.tag .int)) s

/-- f64 of two operands, tag D64 on both registers (06 R147). -/
def db2 (d a b : Reg) (f : Nat → Bool → Nat → Nat → Nat) (s : State) : State :=
  regWord (fun _ => { named := pairNames d ++ pairNames a ++ pairNames b, reads := [(.f64, a), (.f64, b)] }) (fun _ => false) false
    (fun h _ t => t.setPair d (w64 (f h.rnd h.sat (t.pair a).toNat (t.pair b).toNat)) (h.tag .d64)) s

/-- A relation of two f64 operands, tag INT (06 R147). -/
def dbCmp (d a b : Reg) (f : Nat → Nat → Bool) (s : State) : State :=
  regWord (fun _ => { named := [d] ++ pairNames a ++ pairNames b, reads := [(.f64, a), (.f64, b)] }) (fun _ => false) false
    (fun h _ t => t.setReg d (flag (f (t.pair a).toNat (t.pair b).toNat)) (h.tag .int)) s

/-- Element i of a packed word (06 R148). -/
def elem (x : Word) (i : Nat) : Nat := x.toNat / 2 ^ (16 * i) % 65536

/-- Two elements packed. -/
def packElems (lo hi : Nat) : Word := w32 (lo % 65536 + hi % 65536 * 65536)

/-- A packed operation on two operands, element by element (06 R148). -/
def packed2 (cls : Cls) (out : Tag) (d a b : Reg) (f : Nat → Bool → Nat → Nat → Nat) (s : State) : State :=
  regWord (fun _ => { named := [d, a, b], reads := [(cls, a), (cls, b)] }) (fun _ => false) false
    (fun h _ t =>
      let g := fun i => f h.rnd h.sat (elem (t.val a) i) (elem (t.val b) i)
      t.setReg d (packElems (g 0) (g 1)) (h.tag out)) s

/-- The packed fused multiply-add d + a × b (06 R148). -/
def packedFma (fmt : Fmt) (cls : Cls) (out : Tag) (d a b : Reg) (s : State) : State :=
  regWord (fun _ => { named := [d, a, b], reads := [(cls, d), (cls, a), (cls, b)] }) (fun _ => false) false
    (fun h _ t =>
      let g := fun i => fmt.fma h.rnd h.sat (elem (t.val a) i) (elem (t.val b) i) (elem (t.val d) i)
      t.setReg d (packElems (g 0) (g 1)) (h.tag out)) s

/-- `hdot` and `bdot`: two exact products added to an f32 accumulator, one rounding each (06 R149). -/
def packedDot (fmt : Fmt) (cls : Cls) (d a b : Reg) (s : State) : State :=
  regWord (fun _ => { named := [d, a, b], reads := [(.f32, d), (cls, a), (cls, b)] }) (fun _ => false) false
    (fun h k t =>
      let p := fun i => mulVal (fmt.val (elem (t.val a) i)) (fmt.val (elem (t.val b) i))
      let acc0 := f32.addVal h.rnd h.sat (f32.val (t.rd k .f32 d).toNat) (p 0)
      t.setReg d (w32 (f32.addVal h.rnd h.sat (f32.val acc0) (p 1))) (h.tag .f32)) s

/-- A conversion of one word operand (06 R150). -/
def conv1 (cls : Cls) (d a : Reg) (out : Tag) (f : Hints → Nat → Word → Word) (s : State) : State :=
  regWord (fun _ => { named := [d, a], reads := [(cls, a)] }) (fun _ => false) false
    (fun h k t => t.setReg d (f h k (t.rd k cls a)) (h.tag out)) s

/-- A conversion of one word operand to f64 (06 R150). -/
def convWide (cls : Cls) (d a : Reg) (f : Word → Pair) (s : State) : State :=
  regWord (fun _ => { named := pairNames d ++ [a], reads := [(cls, a)] }) (fun _ => false) false
    (fun h k t => t.setPair d (f (t.rd k cls a)) (h.tag .d64)) s

/-- A conversion of an f64 operand (06 R150). -/
def convNarrow (d a : Reg) (out : Tag) (f : Hints → Pair → Word) (s : State) : State :=
  regWord (fun _ => { named := [d] ++ pairNames a, reads := [(.f64, a)] }) (fun _ => false) false
    (fun h _ t => t.setReg d (f h (t.pair a)) (h.tag out)) s

/-- Two f32 operands packed in a narrow format (06 R150). -/
def convPack (fmt : Fmt) (out : Tag) (d a b : Reg) (s : State) : State :=
  regWord (fun _ => { named := [d, a, b], reads := [(.f32, a), (.f32, b)] }) (fun _ => false) false
    (fun h k t =>
      let g := fun (r : Reg) => fmt.ofVal h.rnd h.sat (f32.val (t.rd k .f32 r).toNat)
      t.setReg d (packElems (g a) (g b)) (h.tag out)) s

/-- A conversion that needs the current field's fraction width: 0x0603 without a current field (06 R150). -/
def convField (cls : Cls) (d a : Reg) (out : Tag) (f : Hints → Nat → Word → Word) (s : State) : State :=
  issue ({ shape := fun _ => { named := [d, a], reads := [(cls, a)] },
           pre := fun s _ t => match s.fieldFrac t with
             | some k => (s, .ok k)
             | none => (s, .error (.fault { code := 0x0603, aux := if 256 ≤ t.field then 0 else 1 })),
           act := eachThread (fun s c t k => (s.setThread (t.setReg d (f c.hints k (t.rd k cls a)) (c.hints.tag out)), .go)) }) s

/-! ### LNS6 (06 R151 to R159) -/

/-- Code i of an L5 word (06 R151). -/
def lcode (x : Word) (i : Nat) : Nat := x.toNat / 2 ^ (6 * i) % 64

/-- The log code L of a code. -/
def llog (c : Nat) : Nat := c % 32

/-- The sign of a code. -/
def lsign (c : Nat) : Bool := c / 32 % 2 == 1

/-- lin[f]: the f32 constants of R153. -/
def lin (f : Nat) : Nat :=
  match f with
  | 0 => 0x3F800000 | 1 => 0x3F9837F0 | 2 => 0x3FB504F3 | _ => 0x3FD744FD

/-- (-1)^s × lin[n mod 4] × 2^e, exactly. -/
def linVal (s : Bool) (n : Nat) (e : Int) : FVal :=
  match f32.val (lin (n % 4)) with
  | .fin _ m q => .fin s m (q + e)
  | v => v

/-- `lscale`: the scale exponent of a block whose largest magnitude is x (06 R154). -/
def lscaleE (x : Nat) : Nat :=
  match f32.val (f32.mag x) with
  | .nan => 255
  | .inf _ => 255
  | .fin _ m e =>
    if m = 0 then 0
    else
      let top := Nat.log2 m
      let k : Int := if m ^ 4 ≤ 8 * 2 ^ (4 * top) then top + e - 3 else top + e - 2
      (if k + 127 < 0 then 0 else if 254 < k + 127 then 254 else k + 127).toNat

/-- The integer j with 2^(2j - 33) ≤ y^8 < 2^(2j - 31) for y = m × 2^e (06 R155). -/
def lround (m : Nat) (e : Int) : Int := (Nat.log2 (m ^ 8) + 8 * e + 33) / 2

/-- `qnt`: the code of one element (06 R155). -/
def qntCode (x sc : Word) : Nat :=
  let ex := sc.toNat % 256
  match f32.val x.toNat with
  | .nan => 0x20
  | .inf _ => 0x20
  | .fin s m e =>
    if ex = 255 then 0x20
    else if m = 0 then 0
    else
      let j := lround m (e + 127 - ex)
      if j < 1 then 0 else (if s then 32 else 0) + (if 31 < j then 31 else j.toNat)

/-- `dqnt` (06 R156). -/
def dqntV (h : Hints) (x sc : Word) : Nat :=
  let c := x.toNat % 64
  let ex := sc.toNat % 256
  if c = 0x20 || ex = 255 then f32.nan
  else if llog c = 0 then 0
  else f32.ofVal h.rnd h.sat (linVal (lsign c) (llog c) ((llog c / 4 : Nat) - 4 + (ex : Int) - 127))

/-- One position of `lmul` (06 R158). -/
def lmulCode (ca cb : Nat) : Nat :=
  if ca = 0x20 || cb = 0x20 then 0x20
  else if llog ca = 0 || llog cb = 0 then 0
  else
    let l : Int := (llog ca : Int) + llog cb - 16
    if l < 1 then 0 else (if lsign ca != lsign cb then 32 else 0) + (if 31 < l then 31 else l.toNat)

/-- `lmul` (06 R158). -/
def lmulV (x y : Word) : Word :=
  w32 ((List.range 5).foldl (fun acc i => acc + lmulCode (lcode x i) (lcode y i) * 2 ^ (6 * i)) 0)

/-- The exact product of two codes with scales ea and eb; none where it adds nothing (06 R159). -/
def lprod (ca cb ea eb : Nat) : Option FVal :=
  if ca = 0x20 || cb = 0x20 then some .nan
  else if llog ca = 0 || llog cb = 0 then none
  else
    let l := llog ca + llog cb
    some (linVal (lsign ca != lsign cb) l ((l / 4 : Nat) - 8 + (ea : Int) + eb - 254))

/-- Adds a product to an f32 accumulator with one rounding. -/
def lstep (rnd : Nat) (sat : Bool) (acc : Nat) (p : Option FVal) : Nat :=
  match p with
  | none => acc
  | some v => f32.addVal rnd sat (f32.val acc) v

/-- `ldot` (06 R159). -/
def ldotV (rnd : Nat) (sat : Bool) (acc : Nat) (x y : Word) (ea eb : Nat) : Nat :=
  let acc := if ea = 255 || eb = 255 then f32.nan else acc
  let r := (List.range 5).foldl (fun acc i => lstep rnd sat acc (lprod (lcode x i) (lcode y i) ea eb)) acc
  if f32.isNan r then f32.nan else r

/-! ### f32 arithmetic (06 R144 to R146) -/

/-- `fadd` (06 R144). -/
def execFadd (d a b : Reg) (s : State) : Out := .next (fl2 d a b f32.add s)

/-- `fsub` (06 R144). -/
def execFsub (d a b : Reg) (s : State) : Out := .next (fl2 d a b f32.sub s)

/-- `fmul` (06 R144). -/
def execFmul (d a b : Reg) (s : State) : Out := .next (fl2 d a b f32.mul s)

/-- `fma`: z + x × y with one rounding, z = v[d] (06 R144). -/
def execFma (d a b : Reg) (s : State) : Out := .next (regWord (fun _ => { named := [d, a, b], reads := [(.f32, d), (.f32, a), (.f32, b)] }) (fun _ => false) false
    (fun h k t => t.setReg d (w32 (f32.fma h.rnd h.sat (t.rd k .f32 a).toNat (t.rd k .f32 b).toNat (t.rd k .f32 d).toNat))
      (h.tag .f32)) s)

/-- `fmin` (06 R145). -/
def execFmin (d a b : Reg) (s : State) : Out := .next (fl2 d a b (fun _ _ x y => f32.min x y) s)

/-- `fmax` (06 R145). -/
def execFmax (d a b : Reg) (s : State) : Out := .next (fl2 d a b (fun _ _ x y => f32.max x y) s)

/-- `fabs` (06 R144). -/
def execFabs (d a : Reg) (s : State) : Out := .next (fl1 d a .f32 (fun _ _ x => f32.abs x) s)

/-- `fneg` (06 R144). -/
def execFneg (d a : Reg) (s : State) : Out := .next (fl1 d a .f32 (fun _ _ x => f32.negate x) s)

/-- `fcmp.eq` (06 R144). -/
def execFcmpEq (d a b : Reg) (s : State) : Out := .next (flCmp d a b f32.eq s)

/-- `fcmp.lt` (06 R144). -/
def execFcmpLt (d a b : Reg) (s : State) : Out := .next (flCmp d a b f32.lt s)

/-- `fcmp.le` (06 R144). -/
def execFcmpLe (d a b : Reg) (s : State) : Out := .next (flCmp d a b f32.le s)

/-- `fcmp.un` (06 R144). -/
def execFcmpUn (d a b : Reg) (s : State) : Out := .next (flCmp d a b f32.un s)

/-- `fclass` (06 R146). -/
def execFclass (d a : Reg) (s : State) : Out := .next (fl1 d a .int (fun _ _ x => f32.classMask x) s)

/-- `frnd` (06 R145). -/
def execFrnd (d a : Reg) (s : State) : Out := .next (fl1 d a .f32 f32.rint s)

/-- `frcp` (06 R145). -/
def execFrcp (d a : Reg) (s : State) : Out := .next (fl1 d a .f32 f32.rcp s)

/-- `frsq` (06 R145). -/
def execFrsq (d a : Reg) (s : State) : Out := .next (fl1 d a .f32 f32.rsqrt s)

/-- `fsqrt` (06 R145). -/
def execFsqrt (d a : Reg) (s : State) : Out := .next (fl1 d a .f32 f32.sqrt s)

/-- `fexp2` (06 R145). -/
def execFexp2 (d a : Reg) (s : State) : Out := .next (fl1 d a .f32 f32.exp2 s)

/-- `flog2` (06 R145). -/
def execFlog2 (d a : Reg) (s : State) : Out := .next (fl1 d a .f32 f32.log2 s)

/-- `fdiv` (06 R144). -/
def execFdiv (d a b : Reg) (s : State) : Out := .next (fl2 d a b f32.div s)

/-! ### f64 arithmetic (06 R147) -/

/-- `dadd` (06 R147). -/
def execDadd (d a b : Reg) (s : State) : Out := .next (db2 d a b f64.add s)

/-- `dsub` (06 R147). -/
def execDsub (d a b : Reg) (s : State) : Out := .next (db2 d a b f64.sub s)

/-- `dmul` (06 R147). -/
def execDmul (d a b : Reg) (s : State) : Out := .next (db2 d a b f64.mul s)

/-- `dfma` (06 R147). -/
def execDfma (d a b : Reg) (s : State) : Out := .next (regWord (fun _ => { named := pairNames d ++ pairNames a ++ pairNames b, reads := [(.f64, d), (.f64, a), (.f64, b)] })
    (fun _ => false) false
    (fun h _ t => t.setPair d (w64 (f64.fma h.rnd h.sat (t.pair a).toNat (t.pair b).toNat (t.pair d).toNat)) (h.tag .d64)) s)

/-- `dmin` (06 R147). -/
def execDmin (d a b : Reg) (s : State) : Out := .next (db2 d a b (fun _ _ x y => f64.min x y) s)

/-- `dmax` (06 R147). -/
def execDmax (d a b : Reg) (s : State) : Out := .next (db2 d a b (fun _ _ x y => f64.max x y) s)

/-- `dcmp.eq` (06 R147). -/
def execDcmpEq (d a b : Reg) (s : State) : Out := .next (dbCmp d a b f64.eq s)

/-- `dcmp.lt` (06 R147). -/
def execDcmpLt (d a b : Reg) (s : State) : Out := .next (dbCmp d a b f64.lt s)

/-- `dcmp.le` (06 R147). -/
def execDcmpLe (d a b : Reg) (s : State) : Out := .next (dbCmp d a b f64.le s)

/-- `ddiv` (06 R147). -/
def execDdiv (d a b : Reg) (s : State) : Out := .next (db2 d a b f64.div s)

/-- `dsqrt` (06 R147). -/
def execDsqrt (d a : Reg) (s : State) : Out := .next (regWord (fun _ => { named := pairNames d ++ pairNames a, reads := [(.f64, a)] }) (fun _ => false) false
    (fun h _ t => t.setPair d (w64 (f64.sqrt h.rnd h.sat (t.pair a).toNat)) (h.tag .d64)) s)

/-! ### Packed f16 and bf16 (06 R148, R149) -/

/-- `hadd` (06 R148). -/
def execHadd (d a b : Reg) (s : State) : Out := .next (packed2 .h2 .h2 d a b f16.add s)

/-- `hmul` (06 R148). -/
def execHmul (d a b : Reg) (s : State) : Out := .next (packed2 .h2 .h2 d a b f16.mul s)

/-- `hfma` (06 R148). -/
def execHfma (d a b : Reg) (s : State) : Out := .next (packedFma f16 .h2 .h2 d a b s)

/-- `hmin` (06 R148). -/
def execHmin (d a b : Reg) (s : State) : Out := .next (packed2 .h2 .h2 d a b (fun _ _ x y => f16.min x y) s)

/-- `hmax` (06 R148). -/
def execHmax (d a b : Reg) (s : State) : Out := .next (packed2 .h2 .h2 d a b (fun _ _ x y => f16.max x y) s)

/-- `badd` (06 R148). -/
def execBadd (d a b : Reg) (s : State) : Out := .next (packed2 .b2 .b2 d a b bf16.add s)

/-- `bmul` (06 R148). -/
def execBmul (d a b : Reg) (s : State) : Out := .next (packed2 .b2 .b2 d a b bf16.mul s)

/-- `bfma` (06 R148). -/
def execBfma (d a b : Reg) (s : State) : Out := .next (packedFma bf16 .b2 .b2 d a b s)

/-- `bmin` (06 R148). -/
def execBmin (d a b : Reg) (s : State) : Out := .next (packed2 .b2 .b2 d a b (fun _ _ x y => bf16.min x y) s)

/-- `bmax` (06 R148). -/
def execBmax (d a b : Reg) (s : State) : Out := .next (packed2 .b2 .b2 d a b (fun _ _ x y => bf16.max x y) s)

/-- `hdot` (06 R149). -/
def execHdot (d a b : Reg) (s : State) : Out := .next (packedDot f16 .h2 d a b s)

/-- `bdot` (06 R149). -/
def execBdot (d a b : Reg) (s : State) : Out := .next (packedDot bf16 .b2 d a b s)

/-! ### Conversions (06 R150) -/

/-- `cvt.f32.i32` (06 R150). -/
def execCvtF32I32 (d a : Reg) (s : State) : Out := .next (conv1 .int d a .f32 (fun h _ x => w32 (f32.roundInt h.rnd h.sat false x.toInt 0)) s)

/-- `cvt.f32.n32` (06 R150). -/
def execCvtF32N32 (d a : Reg) (s : State) : Out := .next (conv1 .int d a .f32 (fun h _ x => w32 (f32.round h.rnd h.sat false x.toNat 0 false)) s)

/-- `cvt.i32.f32` (06 R150). -/
def execCvtI32F32 (d a : Reg) (s : State) : Out := .next (conv1 .f32 d a .int (fun h _ x => BitVec.ofInt 32 (f32.toInt h.rnd 0 (-(2 ^ 31)) (2 ^ 31 - 1) x.toNat)) s)

/-- `cvt.n32.f32` (06 R150). -/
def execCvtN32F32 (d a : Reg) (s : State) : Out := .next (conv1 .f32 d a .int (fun h _ x => BitVec.ofInt 32 (f32.toInt h.rnd 0 0 (2 ^ 32 - 1) x.toNat)) s)

/-- `cvt.f64.f32`: exact (06 R150). -/
def execCvtF64F32 (d a : Reg) (s : State) : Out := .next (convWide .f32 d a (fun x => w64 (f64.ofVal 0 false (f32.val x.toNat))) s)

/-- `cvt.f32.f64` (06 R150). -/
def execCvtF32F64 (d a : Reg) (s : State) : Out := .next (convNarrow d a .f32 (fun h x => w32 (f32.ofVal h.rnd h.sat (f64.val x.toNat))) s)

/-- `cvt.h2.f32` (06 R150). -/
def execCvtH2F32 (d a b : Reg) (s : State) : Out := .next (convPack f16 .h2 d a b s)

/-- `cvt.b2.f32` (06 R150). -/
def execCvtB2F32 (d a b : Reg) (s : State) : Out := .next (convPack bf16 .b2 d a b s)

/-- `cvt.f32.h2lo`: exact (06 R150). -/
def execCvtF32H2lo (d a : Reg) (s : State) : Out := .next (conv1 .h2 d a .f32 (fun _ _ x => w32 (f32.ofVal 0 false (f16.val (elem x 0)))) s)

/-- `cvt.f32.h2hi`: exact (06 R150). -/
def execCvtF32H2hi (d a : Reg) (s : State) : Out := .next (conv1 .h2 d a .f32 (fun _ _ x => w32 (f32.ofVal 0 false (f16.val (elem x 1)))) s)

/-- `cvt.f32.b2lo`: exact (06 R150). -/
def execCvtF32B2lo (d a : Reg) (s : State) : Out := .next (conv1 .b2 d a .f32 (fun _ _ x => w32 (f32.ofVal 0 false (bf16.val (elem x 0)))) s)

/-- `cvt.f32.b2hi`: exact (06 R150). -/
def execCvtF32B2hi (d a : Reg) (s : State) : Out := .next (conv1 .b2 d a .f32 (fun _ _ x => w32 (f32.ofVal 0 false (bf16.val (elem x 1)))) s)

/-- `cvt.f64.i32`: exact (06 R150). -/
def execCvtF64I32 (d a : Reg) (s : State) : Out := .next (convWide .int d a (fun x => w64 (f64.roundInt 0 false false x.toInt 0)) s)

/-- `cvt.i32.f64` (06 R150). -/
def execCvtI32F64 (d a : Reg) (s : State) : Out := .next (convNarrow d a .int (fun h x => BitVec.ofInt 32 (f64.toInt h.rnd 0 (-(2 ^ 31)) (2 ^ 31 - 1) x.toNat)) s)

/-- `cvt.f32.cq` (06 R150). -/
def execCvtF32Cq (d a : Reg) (s : State) : Out := .next (convField .cq d a .f32 (fun h k x => w32 (f32.round h.rnd h.sat false x.toNat (-(k : Int)) false)) s)

/-- `cvt.cq.f32` (06 R150). -/
def execCvtCqF32 (d a : Reg) (s : State) : Out := .next (convField .f32 d a .cq (fun h k x => BitVec.ofInt 32 (f32.toInt h.rnd k 0 (2 ^ 32 - 1) x.toNat)) s)

/-! ### LNS instructions (06 R154 to R159) -/

/-- `qnt` (06 R155). -/
def execQnt (d a b : Reg) (s : State) : Out := .next (regWord (fun _ => { named := [d, a, b], reads := [(.f32, a), (.sc, b)] }) (fun _ => false) false
    (fun h k t => t.setReg d (w32 (qntCode (t.rd k .f32 a) (t.val b))) (h.tag .l5)) s)

/-- `dqnt` (06 R156). -/
def execDqnt (d a b : Reg) (s : State) : Out := .next (regWord (fun _ => { named := [d, a, b], reads := [(.l5, a), (.sc, b)] }) (fun _ => false) false
    (fun h _ t => t.setReg d (w32 (dqntV h (t.val a) (t.val b))) (h.tag .f32)) s)

/-- `lpack` (06 R157). -/
def execLpack (d a b : Reg) (s : State) : Out := .next (regWord (fun _ => { named := [d, a, b], reads := [(.l5, a), (.l5, b)] }) (fun _ => false) false
    (fun h _ t => t.setReg d (w32 ((t.val a).toNat / 64 % 2 ^ 24 + (t.val b).toNat % 64 * 2 ^ 24)) (h.tag .l5)) s)

/-- `lunpk` (06 R157). -/
def execLunpk (d a : Reg) (j : BitVec 7) (s : State) : Out := .next (regWord (fun _ => { named := [d, a], reads := [(.l5, a)] }) (fun _ => false) false
    (fun h _ t => t.setReg d (w32 (lcode (t.val a) j.toNat)) (h.tag .l5)) s)

/-- `lscale` (06 R154). -/
def execLscale (d a : Reg) (s : State) : Out := .next (conv1 .f32 d a .sc (fun _ _ x => w32 (lscaleE x.toNat)) s)

/-- The scales of `ldot`: v[c] and v[c + 1] with an hx hint, 127 each without (06 R159). -/
def ldotScale (h : Hints) (t : Thread) (k : Nat) : Nat :=
  match h.hx with
  | none => 127
  | some (_, c) => (t.val (c + BitVec.ofNat 7 k)).toNat % 256

/-- `ldot`: an odd c is an illegal encoding (06 R159). -/
def execLdot (d a b : Reg) (s : State) : Out :=
  .next (regWord
    (fun h => match h.hx with
      | none => { named := [d, a, b], reads := [(.f32, d), (.l5, a), (.l5, b)] }
      | some (_, c) => { named := [d, a, b] ++ pairNames c,
                         reads := [(.f32, d), (.l5, a), (.l5, b), (.sc, c), (.sc, c + 1)] })
    (fun h => h.hx.isSome && h.c.toNat % 2 == 1) false
    (fun h k t => t.setReg d (w32 (ldotV h.rnd h.sat (t.rd k .f32 d).toNat (t.val a) (t.val b) (ldotScale h t 0) (ldotScale h t 1)))
      (h.tag .f32)) s)

/-- `lmul` (06 R158). -/
def execLmul (d a b : Reg) (s : State) : Out := .next (regWord (fun _ => { named := [d, a, b], reads := [(.l5, a), (.l5, b)] }) (fun _ => false) false
    (fun h _ t => t.setReg d (lmulV (t.val a) (t.val b)) (h.tag .l5)) s)

end Sys2Proof.Machine
end

