-- ==== Sys2Proof/Machine/Tile.lean ====
section
/-!
DEFINITION. The tile engine (13 R288 to R313): command words and their issue, the command graph, loads, multiplies, drains with
strict merges, store-outs, faults and the fate of a faulted command.
-/
namespace Sys2Proof.Machine

/-! ### Formats and words (13 R289 to R291) -/

/-- The format of an FMT field (13 R289). -/
def TileFmt.ofCode (n : Nat) : Option TileFmt :=
  match n with
  | 0 => some .f32 | 1 => some .bf16 | 2 => some .f16 | 3 => some .f64 | 4 => some .lns6 | _ => none

/-- Bytes of a block (13 R290). -/
def TileFmt.block (f : TileFmt) : Nat :=
  match f with
  | .f32 => 128 | .bf16 => 64 | .f16 => 64 | .f64 => 256 | .lns6 => 32

/-- Bytes of an element (13 R290); of a word for the packed format. -/
def TileFmt.elem (f : TileFmt) : Nat :=
  match f with
  | .f32 => 4 | .bf16 => 2 | .f16 => 2 | .f64 => 8 | .lns6 => 4

/-- The format that a configuration word names. -/
def cfgFmt (w : Word) : TileFmt := (TileFmt.ofCode (w.toNat % 8)).getD .f32

/-- SM of a configuration word. -/
def cfgSm (w : Word) : Bool := w.getLsbD 3

/-- A configuration word is valid: reserved bits zero, FMT at most 4, SM only with LNS6 (13 R293). -/
def cfgValid (w : Word) : Bool := w.toNat / 16 == 0 && decide (w.toNat % 8 ≤ 4) && (!cfgSm w || w.toNat % 8 == 4)

/-- A field of a control word (13 R291). -/
def ctl (w : Word) (lo n : Nat) : Nat := w.toNat / 2 ^ lo % 2 ^ n

/-- The auxiliary word of 0x0801 (13 R309). -/
def tileAux (code id kb record : Nat) : Word := BitVec.ofNat 32 (code * 2 ^ 16 + id * 2 ^ 8 + kb * 2 ^ 7 + record % 64)

/-! ### Commands -/

/-- The command of a name. -/
def State.cmd? (s : State) (uid : Nat) : Option Cmd := s.cmds.find? (fun c => c.uid == uid)

/-- The command of a name, in a sequencer or with a saved unit; failing that, one that waits for lines which that command sent. -/
def State.anyCmd? (s : State) (uid : Nat) : Option Cmd :=
  let all := s.cmds ++ s.saved.flatMap (fun v => v.cmds)
  match all.find? (fun c => c.uid == uid) with
  | some c => some c
  | none => all.find? (fun c => c.sent == some uid)

/-- Changes the command of a name. -/
def State.mapCmd (s : State) (uid : Nat) (f : Cmd → Cmd) : State :=
  { s with cmds := s.cmds.map (fun c => if c.uid = uid then f c else c),
           saved := s.saved.map (fun v => { v with cmds := v.cmds.map (fun c => if c.uid = uid then f c else c) }) }

/-- The pipe that runs a command: 0 fetcher, 1 array, 2 drainer (13 R288). -/
def CmdFn.pipe (f : CmdFn) : Nat :=
  match f with
  | .tlda => 0 | .tldb => 0 | .tmma => 1 | .tzero => 1 | .tdrain => 2 | .tstacc => 2

/-- The command acts on a tile. -/
def CmdFn.onTile (f : CmdFn) : Bool := !(f == .tlda || f == .tldb)

/-- The format that a command captured. -/
def Cmd.fmt (c : Cmd) : TileFmt := cfgFmt c.cfg

/-- The tiles and buffers that a command names: (0 tile, 1 A, 2 B; index) (13 R312). -/
def cmdNames (fn : CmdFn) (fmt : TileFmt) (x ab bb : Nat) : List (Nat × Nat) :=
  let tiles := if fmt = .f64 then [(0, x), (0, x + 1)] else [(0, x)]
  match fn with
  | .tlda => [(1, x)]
  | .tldb => [(2, x)]
  | .tmma => tiles ++ [(1, ab), (2, bb)]
  | _ => tiles

/-- The names of a command in flight. -/
def Cmd.names (c : Cmd) : List (Nat × Nat) := cmdNames c.fn c.fmt c.x c.ab c.bb

/-- The command of a unit that holds an id (13 R294). -/
def State.holder (s : State) (unit id : Nat) : Option Cmd :=
  s.cmds.find? (fun c => c.unit == unit && c.id == id && c.state != .retired)

/-- A command as an operation in flight: what its accesses, requests and faults need of it. -/
def Cmd.asOp (c : Cmd) (tid tslot : Nat) : Op :=
  { id := c.uid, tid := tid, slot := c.slot, launch := c.launch, unit := c.unit, uix := c.uix, group := c.group, core := c.core,
    tslot := tslot, cls := .none, pc := c.pc, word := c.word, detM := c.detM, kind := .drain c.next }

/-- The thread that gives the address of a record or row: the leader, or for a gather form the lane's (13 R310). -/
def Cmd.giver (c : Cmd) (row : Nat) : Nat × Nat :=
  let own := if c.gather then c.tids.find? (fun p => p.2 % 64 == row) else c.tids.find? (fun p => p.1 == c.leader)
  own.getD (c.leader, 0)

/-- Counts retired commands as complete for a thread, in issue order (13 R292): tl falls by one for each. -/
def State.settleFor (s : State) (tid : Nat) : State :=
  let mine := s.cmds.filter (fun c => c.tids.any (fun p => p.1 == tid) && !c.counted.contains tid)
  let done := (mine.takeWhile (fun c => c.state == .retired)).map (fun c => c.uid)
  ({ s with cmds := s.cmds.map (fun c => if done.contains c.uid then { c with counted := c.counted ++ [tid] } else c) } : State).mapThread
    tid (fun t => { t with tl := t.tl - done.length })

/-- Counts retired commands for every thread, and forgets those that every thread has counted. -/
def State.settle (s : State) : State :=
  let tids := (s.cmds.filter (fun c => c.state == .retired)).flatMap (fun c => c.tids.map (fun p => p.1))
  let s := tids.foldl State.settleFor s
  { s with cmds := s.cmds.filter (fun c => !(c.state == .retired && c.tids.all (fun p => c.counted.contains p.1))) }

/-- A command retires, or is abandoned (13 R294, R311). -/
def State.retireCmd (s : State) (uid : Nat) : State := (s.mapCmd uid (fun c => { c with state := .retired })).settle

/-- A fault of a running command (13 R310): it parks the thread that gave the address, and the command is faulted; where that
thread has ended the command is abandoned and the fault counted (13 R311). -/
def State.cmdFault (s : State) (c : Cmd) (f : FaultInfo) (who : Nat × Nat) : State :=
  -- an abandoned command has retired, with nothing else to come of it (13 R311)
  if (s.cmd? c.uid).any (fun x => x.state == .retired) then s
  else
  let s := s.mapCmd c.uid (fun c => { c with state := .faulted, culprit := who.1, fault := some (f.code, f.addr, f.aux), half := [], passed := none })
  let gone := match s.thread? who.1 with
    | some t => t.state == .exited
    | none => true
  let s := s.opFault (c.asOp who.1 who.2) f
  if gone && f.code != 0x0901 then s.retireCmd c.uid else s

/-- The record number that a fault reports: counted within a dense form, the lane of a gather form (13 R309). -/
def Cmd.recNo (c : Cmd) (row : Nat) : Nat := if c.gather || c.fn == .tldb then row else row - c.lane0

/-- A fault of one block, row or line (13 R309): the underlying code, or for a remote error its cause. -/
def State.rowFault (s : State) (c : Cmd) (row kb code : Nat) (va : Pair) (cause : Word) : State :=
  s.cmdFault c
    (if code = 0x0901 then { code := code, addr := va, aux := cause }
     else { code := 0x0801, addr := va, aux := tileAux code c.id kb (c.recNo row) }) (c.giver row)

/-- The command of a unit, resident or saved, faults: a saved one once it is restored (13 R313). -/
def State.cmdStop (s : State) (c : Cmd) (f : FaultInfo) (who : Nat × Nat) : State :=
  if (s.cmd? c.uid).isSome then s.cmdFault c f who
  else s.mapCmd c.uid (fun c => { c with fault := some (f.code, f.addr, f.aux) })

/-- A fault that a thread holds was counted as it came (04 R116). -/
def Thread.holdsCounted (t : Thread) (f : Nat × Pair × Word) : Bool :=
  t.held.any (fun r => r.counted && r.code == f.1 && r.addr == f.2.1 && r.aux == f.2.2)

/-- Faulted commands whose thread has ended are abandoned, their faults recorded against the launch (13 R311, 04 R110), and restored
commands raise the faults that their lines met meanwhile (R313). -/
def State.sweepCmds (s : State) : State :=
  s.cmds.foldl (fun s c =>
    match c.state, c.fault with
    | .faulted, some f =>
      (match s.thread? c.culprit with
       | some t =>
         if t.state != .exited then s
         else if t.holdsCounted f then s.retireCmd c.uid
         else (s.opFault (c.asOp c.culprit t.slot) { code := f.1, addr := f.2.1, aux := f.2.2 }).retireCmd c.uid
       | none => (s.opFault (c.asOp c.culprit 0) { code := f.1, addr := f.2.1, aux := f.2.2 }).retireCmd c.uid)
    | .waiting, some f => s.cmdFault c { code := f.1, addr := f.2.1, aux := f.2.2 } (c.giver 64)
    | _, _ => s) s

/-- A record names a tile command (13 R311): by the id in the record of 0x0801, or of the 0x0A01 of a closed mark (R312). -/
def Record.names (r : Record) (c : Cmd) : Bool :=
  r.onCompletion && r.pc == c.pc && r.word == c.word &&
    ((r.code == 0x0801 && c.id == r.aux.toNat / 256 % 256) || (r.code == 0x0A01 && c.id == r.aux.toNat))

/-- The faulted command that a thread's record names (13 R311). -/
def State.recordCmd (s : State) (t : Thread) : Option Cmd :=
  s.cmds.find? (fun c => c.state == .faulted && c.culprit == t.tid && t.record.names c)

/-- The fate of the command that a thread's record names: abandoned, or restarted from its progress point (13 R311). -/
def State.decideCmd (s : State) (t : Thread) (abandon : Bool) : State :=
  match s.recordCmd t with
  | none => s
  | some c => if abandon then s.retireCmd c.uid else s.mapCmd c.uid (fun c => { c with state := .waiting, fault := none })

/-- The faulted commands of a thread that `unpark` resumes restart from their progress points, whichever fault its newest record holds; one
whose fault is still held parks the thread again, which decides it then (13 R311, 16 R360, 04 R116). -/
def State.restartCmds (s : State) (t : Thread) : State :=
  { s with cmds := s.cmds.map (fun c =>
      if c.state == .faulted && c.culprit == t.tid && !t.held.any (fun r => r.names c) then { c with state := .waiting, fault := none } else c) }

/-- The data that a tile command consumes has an uncorrectable error at a place: its context ends (01 R33, 13 R311). -/
def State.cmdError (s : State) (c : Cmd) (pa : Nat) : State :=
  if s.awaits c.uid then s.remoteError c.slot c.core (c.giver c.lane0).2 c.launch 0 2
  else
    s.endContext c.slot (s.errorWords 1 (dieOf c.core) c.slot 0 c.launch (BitVec.ofNat 64 (pa % Config.placeSpan)) 0
      (BitVec.ofNat 32 (c.core * 2048 + (c.giver c.lane0).2)))

/-! ### Issue (13 R292, R293) -/

/-- The configuration word of a thread's group. -/
def State.tileCfg (s : State) (t : Thread) : Word :=
  match s.unitOf t with
  | some u => Sparse.get 0 u.config (s.groupOf t)
  | none => 0

/-- The operands of a command and the meaning of its fields. -/
structure TileForm where
  fn : CmdFn
  b : Reg
  /-- stride and base of a dense form -/
  dense : Option (Reg × Reg) := none
  /-- the gather form -/
  gather : Bool := false
  /-- the row mask of `tmma` -/
  mask : Option Reg := none
  deriving DecidableEq, Repr

/-- The operands that a form reads, in order. -/
def TileForm.operands (f : TileForm) (h : Hints) : List (Cls × Reg) :=
  (match f.dense with | some (d, a) => [(.int, d), (.int64, a)] | none => []) ++
    (match f.mask with | some a => [(Cls.any, a)] | none => []) ++ [(.int, f.b)] ++
    (match h.hx with
     | none => []
     | some (_, c) => if f.gather then [(.int64, c)] else if f.fn = .tzero then [(.any, c)] else [(.int, c)])

/-- The registers of operands, pairs expanded. -/
def shapeOf (l : List (Cls × Reg)) : Shape :=
  { named := l.flatMap (fun p => if p.1.wide then pairNames p.2 else [p.2]), reads := l }

/-- An hx hint stands before a form that takes none, or names an odd pair (13 R297). -/
def TileForm.illegal (f : TileForm) (h : Hints) : Bool :=
  match h.hx with
  | none => false
  | some (_, c) => if f.gather then c.toNat % 2 == 1 else f.fn == .tlda || f.fn == .tldb || f.fn == .tstacc

/-- The base that a fault at issue reports: the leader's (13 R309). -/
def TileForm.baseOf (f : TileForm) (h : Hints) (t : Thread) : Pair :=
  match f.dense with
  | some (_, a) => t.pair a
  | none => if f.gather then t.pair h.c else 0

/-- The leader's value of an hx register that is no address. -/
def TileForm.extra (f : TileForm) (s : State) (h : Hints) (t : Thread) : Option Word :=
  if f.gather || f.fn == .tzero then none
  else h.hx.map (fun p => s.intOf t p.2)

/-- The cause of 0x0801 on the leader's values: checks 1 to 4 of R293, 0 where none fails. -/
def TileForm.cause (f : TileForm) (s : State) (h : Hints) (t : Thread) : Nat :=
  let w := s.intOf t f.b
  let acc := match s.unitOf t with
    | some u => u.acc
    | none => 0
  let f64 := f.fn.onTile && cfgFmt (s.tileCfg t) == .f64
  let x := ctl w 26 2
  let e := f.extra s h t
  if (f.fn != .tmma && w.toNat / 2 ^ 28 != 0) || (ctl w 8 8 != 0 && ctl w 24 1 == 0) || (ctl w 16 8 != 0 && ctl w 25 1 == 0) ||
      (f.fn == .tdrain && (match e with | some m => m.toNat / 2 ^ 16 != 0 | none => false)) then 1
  else if acc ≤ x || (f.fn == .tmma && (acc ≤ ctl w 28 2 || acc ≤ ctl w 30 2)) || (f64 && acc ≤ x + 1) then 2
  else if f64 && x % 2 == 1 then 3
  else if f.fn == .tmma && (match e with | some k => k == 0 || 64 < k.toNat | none => false) then 4
  else if f.fn == .tdrain && (match e with | some m => m.toNat / 256 < m.toNat % 256 | none => false) then 5
  else 0

/-- The tiles and buffers that a form names. -/
def TileForm.names (f : TileForm) (s : State) (t : Thread) : List (Nat × Nat) :=
  let w := s.intOf t f.b
  cmdNames f.fn (cfgFmt (s.tileCfg t)) (ctl w 26 2) (ctl w 28 2) (ctl w 30 2)

/-- Another group of the unit has claimed a tile or buffer of the list (13 R312). -/
def State.tileClaimed (s : State) (t : Thread) (names : List (Nat × Nat)) : Bool :=
  match s.unitOf t with
  | none => false
  | some u => u.tileClaims.any (fun c => names.contains (c.1, c.2.1) && c.2.2 != s.groupOf t)

/-- The checks of R293 on the leader's values, in order. -/
def TileForm.check (f : TileForm) (s : State) (h : Hints) (t : Thread) : Option FaultInfo :=
  let w := s.intOf t f.b
  let id := ctl w 0 8
  let base := f.baseOf h t
  let unit := if f.fn.onTile then 128 else (cfgFmt (s.tileCfg t)).block
  let aux : Word := BitVec.ofNat 32 id
  if f.cause s h t ≠ 0 then some { code := 0x0801, addr := base, aux := tileAux 0 id 0 (f.cause s h t) }
  else if (ctl w 24 1 == 1 && ctl w 8 8 == id) || (ctl w 25 1 == 1 && ctl w 16 8 == id) then
    some { code := 0x0802, addr := base, aux := aux }
  else if (s.holder t.unit id).isSome then some { code := 0x0803, addr := base, aux := aux }
  else if (match f.dense with
      | some (d, _) => base.toNat % unit != 0 || (s.intOf t d).toInt % unit != 0
      | none => false) then some { code := 0x0801, addr := base, aux := tileAux 0x0505 id 0 0 }
  else if t.modeD && s.tileClaimed t (f.names s t) then some { code := 0x0A01, addr := base, aux := aux }
  else none

/-- The commands that a new one waits for: its predecessors as bound now, and in deterministic mode the earlier commands of its
group on a tile or buffer that it names (13 R294, R312). -/
def TileForm.preds (f : TileForm) (s : State) (t : Thread) : List Nat :=
  let w := s.intOf t f.b
  let bound := fun (v p : Nat) => if ctl w v 1 = 1 then ((s.holder t.unit (ctl w p 8)).map (fun c => c.uid)).toList else []
  bound 24 8 ++ bound 25 16 ++
    (if t.modeD then (s.cmds.filter (fun c => c.unit == t.unit && c.group == s.groupOf t && c.state != .retired &&
      c.names.any (fun n => (f.names s t).contains n))).map (fun c => c.uid) else [])

/-- The records or rows of a command with their addresses (13 R299, R305, R308). -/
def TileForm.addrs (f : TileForm) (s : State) (h : Hints) (t : Thread) (ts : List Thread) : List (Nat × Pair) :=
  let sp := s.spanOf t
  match f.dense with
  | none => if f.gather then ts.map (fun u => (u.lane, u.pair h.c)) else []
  | some (d, a) =>
    let at' := fun (r : Nat) => t.pair a + BitVec.ofInt 64 ((r : Int) * (s.intOf t d).toInt)
    match f.fn with
    | .tlda => (List.range sp.2).map (fun r => (sp.1 + r, at' r))
    | .tldb => (List.range 64).map (fun r => (r, at' r))
    | _ => ts.map (fun u => (u.lane, at' (u.lane - sp.1)))

/-- The rows that a command selects (13 R301, R302). -/
def TileForm.rows (f : TileForm) (h : Hints) (ts : List Thread) : List Nat :=
  let on : List Thread := match f.mask, f.fn, h.hx with
    | some a, _, _ => ts.filter (fun (t : Thread) => t.val a != 0)
    | none, .tzero, some (_, c) => ts.filter (fun (t : Thread) => t.val c != 0)
    | _, _, _ => ts
  on.map (fun t => t.lane)

/-- A command enters the sequencer (13 R292). -/
def TileForm.start (f : TileForm) (s : State) (c : Ctx) (t : Thread) (ts : List Thread) : State :=
  let w := s.intOf t f.b
  let sp := s.spanOf t
  let e := f.extra s c.hints t
  let cmd : Cmd :=
    { uid := s.nextId, unit := t.unit, uix := (match s.unitOf t with | some u => u.index | none => 0), core := t.core,
      slot := s.slotOf t, launch := s.handleOf t, group := s.groupOf t, lane0 := sp.1, width := sp.2, leader := t.tid,
      tids := ts.map (fun u => (u.tid, u.slot)), fn := f.fn, id := ctl w 0 8, x := ctl w 26 2, ab := ctl w 28 2, bb := ctl w 30 2,
      cfg := s.tileCfg t, addrs := f.addrs s c.hints t ts, gather := f.gather, rowsOn := f.rows c.hints ts,
      kappa := (if f.fn = .tmma then (match e with | some k => k.toNat | none => 64) else 64),
      merge := (if f.fn = .tdrain then (match e with
        | some m => some (m.toNat % 256, m.toNat / 256 + 1)
        | none => if t.modeD then some (0, 1) else none) else none),
      preds := f.preds s t, pc := c.runPc, word := c.word, detM := t.modeD }
  let s := if t.modeD then s.mapUnit t.unit (fun u => { u with tileClaims := u.tileClaims ++
    ((f.names s t).filter (fun n => !u.tileClaims.any (fun x => (x.1, x.2.1) == n))).map (fun n => (n.1, n.2, s.groupOf t)) }) else s
  ts.foldl (fun s u => s.mapThread u.tid (fun u => u.raise .tl)) ({ s with cmds := s.cmds ++ [cmd] } : State).bump

/-- The issue of a command, once for a group; its leader is the lowest lane of the active set (13 R292). -/
def tileOp (f : TileForm) (s : State) : State :=
  issue ({
    lane := true,
    hx := f.gather,
    shape := fun h => shapeOf (f.operands h),
    illegal := f.illegal,
    pre := fun s _ t => if t.full .tl then (s, .error (.leave (.room .tl))) else (s, Except.ok ()),
    group := fun s c ts => match ts with
      | [] => (s, none)
      | t :: _ =>
        if (f.check s c.hints t).isNone && !s.holds t .tileEntry then (s, some .tileEntry) else (s, none),
    act := fun s c ts =>
      let us := ts.filterMap (fun p => s.thread? p.1)
      match us with
      | [] => (s, [])
      | t :: _ =>
        match f.check s c.hints t with
        | some e => (s, ts.map (fun p => (p.1, After.fault e)))
        | none => (f.start s c t us, ts.map (fun p => (p.1, After.go))) }) s

/-- `tcfg` (13 R298). -/
def execTcfg (a : Reg) (s : State) : Out :=
  .next (issue ({
    lane := true,
    shape := fun _ => { named := [a], reads := [(.int, a)] },
    pre := noCheck,
    act := fun s _ ts =>
      match ts.filterMap (fun p => s.thread? p.1) with
      | [] => (s, [])
      | t :: _ =>
        let w := s.intOf t a
        if !cfgValid w then (s, ts.map (fun p => (p.1, After.fault { code := 0x0801, aux := tileAux 0 0 0 1 })))
        else
          (s.mapUnit t.unit (fun u => { u with config := Sparse.set 0 u.config (s.groupOf t) w }), ts.map (fun p => (p.1, After.go))) }) s)

/-- `tlda`, dense (13 R299). -/
def execTlda (d a b : Reg) (s : State) : Out := .next (tileOp { fn := .tlda, b := b, dense := some (d, a) } s)

/-- `tlda`, gather (13 R299). -/
def execTldaGather (b : Reg) (s : State) : Out := .next (tileOp { fn := .tlda, b := b, gather := true } s)

/-- `tldb`, dense (13 R299). -/
def execTldb (d a b : Reg) (s : State) : Out := .next (tileOp { fn := .tldb, b := b, dense := some (d, a) } s)

/-- `tldb`, gather (13 R299). -/
def execTldbGather (b : Reg) (s : State) : Out := .next (tileOp { fn := .tldb, b := b, gather := true } s)

/-- `tmma` (13 R302). -/
def execTmma (a b : Reg) (s : State) : Out := .next (tileOp { fn := .tmma, b := b, mask := some a } s)

/-- `tzero` (13 R301). -/
def execTzero (b : Reg) (s : State) : Out := .next (tileOp { fn := .tzero, b := b } s)

/-- `tdrain` (13 R305). -/
def execTdrain (d a b : Reg) (s : State) : Out := .next (tileOp { fn := .tdrain, b := b, dense := some (d, a) } s)

/-- `tstacc`, dense (13 R308). -/
def execTstacc (d a b : Reg) (s : State) : Out := .next (tileOp { fn := .tstacc, b := b, dense := some (d, a) } s)

/-- `tstacc`, gather (13 R308). -/
def execTstaccGather (b : Reg) (s : State) : Out := .next (tileOp { fn := .tstacc, b := b, gather := true } s)

/-! ### Pipes (13 R294, R295, R302) -/

/-- A `tmma` that a save stopped within its chains has read the accumulators of a tile of this command: its access to each element is under
way, so it goes first (13 R296, R313). -/
def State.chained (s : State) (c : Cmd) : Bool :=
  c.fn.pipe == 1 && s.cmds.any (fun m => m.uid != c.uid && m.unit == c.unit && m.fn == .tmma && m.state == .waiting && m.next != 0 &&
    m.names.any (fun n => n.1 == 0 && c.names.contains n))

/-- Every command that this one waits for has retired (13 R294). -/
def State.cmdReady (s : State) (c : Cmd) : Bool :=
  c.state == .waiting && c.preds.all (fun u => !s.cmds.any (fun p => p.uid == u && p.state != .retired)) &&
    !(match s.unit? c.unit with | some u => u.stopped | none => true) && !s.chained c

/-- An operand buffer of a unit. -/
def UnitSt.buf (u : UnitSt) (kind i : Nat) : TileBuf := Sparse.get {} (if kind = 1 then u.bufA else u.bufB) i

/-- Both buffers of a `tmma` hold the format that it captured (13 R302). -/
def State.formatsMatch (s : State) (c : Cmd) : Bool :=
  match s.unit? c.unit with
  | none => true
  | some u => (u.buf 1 c.ab).fmt == c.fmt && (u.buf 2 c.bb).fmt == c.fmt

/-- Lines of a row: 2, or 4 for f64. -/
def Cmd.rowLines (c : Cmd) : Nat := if c.fmt = .f64 then 4 else 2

/-- Lines that a drain or a store-out sends. -/
def Cmd.lines (c : Cmd) : Nat := c.addrs.length * c.rowLines

/-- A command occupies its pipe while it runs: the drainer sends lines, and one that has sent its last is free for the next command though
lines are held or not yet applied (13 R295, R307). -/
def Cmd.occupies (c : Cmd) : Bool := c.state == .running && !(c.fn.pipe == 2 && decide (c.lines ≤ c.next))

/-- A pipe starts its earliest-issued ready command (13 R295). -/
def execTileCommandStart (core pipe : Nat) (s : State) : Out :=
  if !coreOk core then .fault (.noSuchCore core)
  else if s.cmds.any (fun c => c.core == core && c.fn.pipe == pipe && c.occupies) then .next s
  else
    match s.cmds.find? (fun c => c.core == core && c.fn.pipe == pipe && s.cmdReady c) with
    | none => .next s
    | some c =>
      if c.fn == .tmma && c.next == 0 && !s.formatsMatch c then
        .next (s.cmdFault c { code := 0x0801, aux := tileAux 0 c.id 0 6 } (c.giver 64))
      else .next (s.mapCmd c.uid (fun c => { c with state := .running }))

/-- An earlier store of a thread of the active set has not completed (13 R300, 17 R385). -/
def State.tileHeld (s : State) (c : Cmd) : Bool :=
  s.ops.any (fun o => o.isStore && decide (o.id < c.uid) && c.tids.any (fun p => p.1 == o.tid)) ||
    (match s.unit? c.unit with | some u => u.stopped | none => true)

/-! ### Loads (13 R299, R300) -/

/-- Blocks that a load reads. -/
def Cmd.blocks (c : Cmd) : Nat := 2 * c.addrs.length

/-- Writes a block into its buffer and moves the progress point on. -/
def State.putBlock (s : State) (c : Cmd) (row kb : Nat) (bs : List Byte) : State :=
  let put := fun (m : Sparse TileBuf) =>
    let b := Sparse.get {} m c.x
    Sparse.set {} m c.x { b with cells := Memory.writeBytes b.cells (512 * row + c.fmt.block * kb) bs }
  (s.mapUnit c.unit (fun u => if c.fn = .tlda then { u with bufA := put u.bufA } else { u with bufB := put u.bufB })).mapCmd c.uid
    (fun c => { c with next := c.next + 1, half := [], passed := none })

/-- Bytes of one access of a load: a block, or one line of an f64 block (13 R290). -/
def Cmd.accessLen (c : Cmd) : Nat := Nat.min c.fmt.block 128

/-- One access of a load has its bytes: its block stands in the buffer once its last line has come (13 R290). -/
def State.takeAccess (s : State) (c : Cmd) (row kb : Nat) (bs : List Byte) : State :=
  if c.half.length + bs.length < c.fmt.block then s.mapCmd c.uid (fun c => { c with half := bs, passed := none })
  else s.putBlock c row kb (c.half ++ bs)

/-- A load has read bytes of an append-seal page. -/
def State.loadsSeal (s : State) (uid : Nat) : State := s.mapCmd uid (fun c => { c with sealed := true })

/-- A load makes the next access of the block at its progress point, the lower line of two first (13 R290, R300). -/
def State.loadBlock (s : State) (c : Cmd) : State :=
  match c.addrs[c.next % c.addrs.length]? with
  | none => s
  | some (row, addr) =>
    let kb := c.next / c.addrs.length
    let n := c.accessLen
    let block := addr + BitVec.ofNat 64 (kb * c.fmt.block)
    let va := block + BitVec.ofNat 64 c.half.length
    let o := c.asOp (c.giver row).1 (c.giver row).2
    if !canonical va then s.rowFault c row kb 0x0507 block 0
    else if addr.toNat % c.fmt.block ≠ 0 then s.rowFault c row kb 0x0505 block 0
    else
      match s.copyEnd o va false with
      | (s, .scratch _ _) => s
      | (s, .wait) => s
      | (s, .fault code _ cause) => s.rowFault c row kb code block cause
      | (s, .peer d a) =>
        if a.cls ≠ 2 then s.request o d (peerAddr a.loc) 1 0 n [] 0
        else
          (match s.replicaRead (dieOf c.core) a n with
           | some (s, bs, _) =>
             if s.sealedBad (dieOf c.core) a n then s.cmdError c a.loc
             else (s.loadsSeal c.uid).takeAccess c row kb ((bs.drop (a.loc % 128)).take n)
           | none => (s.loadsSeal c.uid).askRead o a d n 0)
      | (s, .here a) =>
        if a.cls ≠ 2 then
          if s.l2Bad (dieOf c.core) a.loc n then s.cmdError c a.loc
          else
            let r := s.l2Read (dieOf c.core) a.loc n
            r.1.takeAccess c row kb r.2
        else
          let q := s.page? a.pageLoc
          let off := a.loc - a.pageLoc
          match (if c.passed.isSome then judgeHome q off n else judgeRead q a.pageSize off n c.detM) with
          | .wait => s
          | .passed => s.mapCmd c.uid (fun c => { c with passed := some a.pageLoc })
          | .fault _ => s.rowFault c row kb 0x0702 block 0
          | .bytes =>
            if (if c.passed.isNone && sealedQuiet q a.pageSize then s.sealedBad (dieOf c.core) a n else s.homeBad a.loc n) then
              s.cmdError c a.loc
            else if c.passed.isNone && sealedQuiet q a.pageSize then
              let tail := match q with
                | some r => r.tail
                | none => 0
              let r := s.readSealed (dieOf c.core) a tail
              (r.1.loadsSeal c.uid).takeAccess c row kb ((r.2.drop (a.loc % 128)).take n)
            else (s.loadsSeal c.uid).takeAccess c row kb (s.homeRead a.loc n)

/-- An access that a peer was asked for has its bytes. -/
def State.blockArrived (s : State) (c : Cmd) (bs : List Byte) : State :=
  match c.addrs[c.next % c.addrs.length]? with
  | none => s
  | some (row, _) => s.takeAccess c row (c.next / c.addrs.length) (bs.take c.accessLen)

/-! ### Multiplies (13 R301 to R303) -/

/-- An element of a tile. -/
def UnitSt.tile (u : UnitSt) (t i j : Nat) : Word := Sparse.get 0 u.tiles (4096 * t + 64 * i + j)

/-- Writes an element of a tile. -/
def UnitSt.setTile (u : UnitSt) (t i j : Nat) (v : Word) : UnitSt :=
  { u with tiles := Sparse.set 0 u.tiles (4096 * t + 64 * i + j) v }

/-- A number in a buffer: n bytes at an offset of a record. -/
def TileBuf.num (b : TileBuf) (r off n : Nat) : Nat := leNat (Memory.readBytes b.cells (512 * r + off) n)

/-- K-element k of a record as f32 bits: bf16 and f16 are widened exactly (13 R303). -/
def TileBuf.f32At (b : TileBuf) (f : TileFmt) (r k : Nat) : Nat :=
  let x := b.num r (f.elem * k) f.elem
  match f with
  | .bf16 => f32.ofVal 0 false (bf16.val x)
  | .f16 => f32.ofVal 0 false (f16.val x)
  | _ => x

/-- The LNS6 code at K-step k of a record, and its block's scale, 127 while SM = 0 (13 R290, R303). -/
def TileBuf.lnsAt (b : TileBuf) (sm : Bool) (r k : Nat) : Nat × Nat :=
  let at' := 32 * (k / 32)
  let m := k % 32
  (lcode (BitVec.ofNat 32 (b.num r (at' + 4 + 4 * (m / 5)) 4)) (m % 5), if sm then b.num r at' 4 % 256 else 127)

/-- `step` on an f32 accumulator (13 R303). -/
def tileStep (f : TileFmt) (sm : Bool) (acc : Nat) (a b : TileBuf) (i j k : Nat) : Nat :=
  match f with
  | .lns6 =>
    let x := a.lnsAt sm i k
    let y := b.lnsAt sm j k
    if x.2 = 255 || y.2 = 255 then f32.nan else lstep 0 false acc (lprod x.1 y.1 x.2 y.2)
  | _ => f32.fma 0 false (a.f32At f i k) (b.f32At f j k) acc

/-- The accumulator of an element of a running `tmma`: the tile's before the first K-step (13 R302). -/
def UnitSt.accOf (u : UnitSt) (c : Cmd) (t i j : Nat) : Word :=
  if c.next = 0 then u.tile t i j else Sparse.get 0 c.partials (4096 * t + 64 * i + j)

/-- One K-step of one element of a `tmma` on a unit: its accumulators, the high word of f64 in the next tile. -/
def UnitSt.mmaAt (u : UnitSt) (c : Cmd) (m : Sparse Word) (i j k : Nat) : Sparse Word :=
  let a := u.buf 1 c.ab
  let b := u.buf 2 c.bb
  let put := fun (m : Sparse Word) (t : Nat) (v : Word) => Sparse.set 0 m (4096 * t + 64 * i + j) v
  if c.fmt = .f64 then
    let acc := (pairOf (u.accOf c c.x i j) (u.accOf c (c.x + 1) i j)).toNat
    let r := w64 (f64.fma 0 false (a.num i (8 * k) 8) (b.num j (8 * k) 8) acc)
    put (put m c.x (loWord r)) (c.x + 1) (hiWord r)
  else put m c.x (w32 (tileStep c.fmt (cfgSm c.cfg) (u.accOf c c.x i j).toNat a b i j k))

/-- One K-step of every selected element; the array runs the K-steps in ascending order. -/
def UnitSt.mmaStep (u : UnitSt) (c : Cmd) : Sparse Word :=
  c.rowsOn.foldl (fun m i => (List.range 64).foldl (fun m j => u.mmaAt c m i j c.next) m) c.partials

/-- The array makes the K-step at the progress point of a `tmma`: it reads the buffers' elements of the step once, for all elements of the tile
(DESIGN CHOICE, assumption 99). -/
def State.kStep (s : State) (c : Cmd) : State :=
  match s.unit? c.unit with
  | none => s
  | some u => s.mapCmd c.uid (fun x => { x with next := c.next + 1, partials := u.mmaStep c })

/-- The K-steps that a `tmma` still lacks. -/
def State.kSteps (s : State) (uid n : Nat) : State :=
  match n with
  | 0 => s
  | n + 1 =>
    match s.cmd? uid with
    | none => s
    | some c => State.kSteps (s.kStep c) uid n

/-- The elements that a `tmma` selects, in the order in which the array writes them (assumption 99). -/
def Cmd.elements (c : Cmd) : List (Nat × Nat) := c.rowsOn.flatMap (fun i => (List.range 64).map (fun j => (i, j)))

/-- Elements of the tile take the accumulators of a `tmma` whose K-steps are all made (13 R296, R302). -/
def UnitSt.takeSums (u : UnitSt) (c : Cmd) (es : List (Nat × Nat)) : UnitSt :=
  es.foldl (fun u e =>
    let one := fun (u : UnitSt) (t : Nat) => u.setTile t e.1 e.2 (Sparse.get 0 c.partials (4096 * t + 64 * e.1 + e.2))
    if c.fmt = .f64 then one (one u c.x) (c.x + 1) else one u c.x) u

/-- The array writes the next element of a `tmma` whose K-steps are all made; the progress point counts on from κ. -/
def State.sumStep (s : State) (c : Cmd) : State :=
  (s.mapUnit c.unit (fun u => u.takeSums c ((c.elements.drop (c.next - c.kappa)).take 1))).mapCmd c.uid (fun c => { c with next := c.next + 1 })

/-- A `tmma` writes every element that it has not yet written. -/
def State.sumRest (s : State) (uid : Nat) : State :=
  match s.cmd? uid with
  | none => s
  | some c => s.mapUnit c.unit (fun u => u.takeSums c (c.elements.drop (c.next - c.kappa)))

/-- A block arrives in its buffer and the progress point moves on (13 R299); for a `tmma` the array makes one K-step, or, once all are made,
writes one element. -/
def execTileBlockArrival (cmd : Nat) (s : State) : Out :=
  match s.cmd? cmd with
  | none => .next s
  | some c =>
    if c.state ≠ .running || s.awaits cmd then .next s
    else
      match c.fn with
      | .tlda => if s.tileHeld c || c.blocks ≤ c.next then .next s else .next (s.loadBlock c)
      | .tldb => if s.tileHeld c || c.blocks ≤ c.next then .next s else .next (s.loadBlock c)
      | .tmma =>
        if (match s.unit? c.unit with | some u => u.stopped | none => true) then .next s
        else if c.kappa ≤ c.next then .next (s.sumStep c)
        else .next (s.kStep c)
      | _ => .next s

/-! ### Merges at a home (13 R306, R307, R312) -/

/-- The merge record of a line. -/
def State.merge? (s : State) (loc : Nat) : Option Merge := s.merges.find? (fun m => m.loc == loc)

/-- Writes a merge record. -/
def State.setMerge (s : State) (m : Merge) : State :=
  { s with merges := s.merges.filter (fun x => x.loc != m.loc) ++ [m] }

/-- The slice of the module that homes a line. -/
def sliceOf (loc : Nat) : Nat := homeDie loc * 24 + homeSlice loc

/-- Lines held in the merge buffer of a slice. -/
def State.heldAt (s : State) (slice : Nat) : Nat :=
  s.merges.foldl (fun n m => if sliceOf m.loc = slice then n + m.held.length else n) 0

/-- The slice has an entry free: 2,048 lines (13 R307). -/
def State.mergeRoom (s : State) (loc : Nat) : Bool := decide (s.heldAt (sliceOf loc) < 2048)

/-- An add-on-store of a line's elements at its home (13 R305). -/
def State.addLine (s : State) (loc : Nat) (wide : Bool) (vals : List Word) : State :=
  let q := if wide then
    (List.range (vals.length / 2)).foldl (fun s i =>
      (s.atomHome (loc + 8 * i) .dadd (pairOf (vals.getD (2 * i) 0) (vals.getD (2 * i + 1) 0)) 0).1) s
  else (List.range vals.length).foldl (fun s i => (s.atomHome (loc + 4 * i) .fadd ((vals.getD i 0).setWidth 64) 0).1) s
  q.notedFrom s (foreignWriter 2) (40 * homeDie loc) loc (q.homeRead loc (4 * vals.length))

/-- A line of a drain has been applied: the command has one line less to wait for; that of a peer is answered. -/
def State.lineApplied (s : State) (cmd line : Nat) : State :=
  let off := fun (c : Cmd) => if c.uid = cmd || c.sent = some cmd then { c with unapplied := c.unapplied.filter (fun x => x != line) } else c
  let s' := { s with cmds := s.cmds.map off, saved := s.saved.map (fun (v : Saved) => { v with cmds := v.cmds.map off }) }
  match s.anyCmd? cmd with
  | some _ => s'
  | none => s'.arrive cmd id

/-- A strict merge has completed on a line: its record closes, and a deterministic launch leaves its mark (13 R312). -/
def State.closeMerge (s : State) (loc slot : Nat) (launch : Word) (det : Bool) : State :=
  { s with merges := s.merges.filter (fun m => m.loc != loc),
           closedMarks := if det then s.closedMarks ++ [(loc, slot, launch)] else s.closedMarks }

/-- Applies the held or waiting chunk that a record expects next, as long as there is one; the record closes after the last. A second line of
an applied chunk goes on waiting for its own turn, which faults it (13 R306). -/
def State.cascade (s : State) (loc : Nat) (det : Bool) (fuel : Nat) : State :=
  match fuel with
  | 0 => s
  | n + 1 =>
    match s.merge? loc with
    | none => s
    | some m =>
      if m.n ≤ m.q then s.closeMerge loc m.slot m.launch det
      else
        let mine := fun (h : HeldLine) => h.loc == loc && h.slot == m.slot && h.launch == m.launch && h.n == m.n && h.k == m.q
        match (m.held ++ s.mergeWait).find? mine with
        | none => s
        | some h =>
          let s := (s.addLine loc h.wide h.vals).setMerge { m with q := m.q + 1, held := m.held.filter (fun x => x != h) }
          let s := { s with mergeWait := s.mergeWait.filter (fun x => x != h) }
          State.cascade (s.lineApplied h.cmd h.line) loc det n

/-- How a strict line fares at its home (13 R306, R312); the line that it would be added to may fail the check of its codes (16 R375). -/
inductive Strict where
  | bad
  | applied
  | held
  | fault (cause : Nat)
  | closed
  deriving DecidableEq, Repr

/-- A waiting line can be served otherwise than by waiting again. -/
def State.mayEnter (s : State) (h : HeldLine) : Bool :=
  match s.merge? h.loc with
  | none => h.k == 0 || s.mergeRoom h.loc
  | some m => m.slot == h.slot && m.launch == h.launch && (m.n != h.n || decide (h.k ≤ m.q) || s.mergeRoom h.loc)

/-- Holds a line in the merge buffer, or lets it wait at the slice while the buffer is full or, for a line that now arrives, while an earlier
one waits for the entry (13 R307). -/
def State.holdLine (s : State) (m : Merge) (h : HeldLine) (now : Bool) : State :=
  if s.mergeRoom h.loc && !(now && s.mergeWait.any (fun x => sliceOf x.loc == sliceOf h.loc && s.mayEnter x))
  then s.setMerge { m with held := m.held ++ [h] }
  else { s.setMerge m with mergeWait := s.mergeWait ++ [h] }

/-- A strict line is served at its home (13 R306), as it arrives or, after waiting at its slice, in its turn. -/
def State.strictLine (s : State) (h : HeldLine) (now : Bool) : State × Strict :=
  if s.homeBad h.loc 128 then (s, .bad)
  else if h.det && s.closedMarks.any (fun x => x.1 == h.loc && x.2.1 == h.slot && x.2.2 == h.launch) then (s, .closed)
  else
    match s.merge? h.loc with
    | none =>
      let m : Merge := { loc := h.loc, slot := h.slot, launch := h.launch, n := h.n, q := 0 }
      if h.k = 0 then
        let s := s.addLine h.loc h.wide h.vals
        if h.n ≤ 1 then (s.closeMerge h.loc h.slot h.launch h.det, .applied)
        else ((s.setMerge { m with q := 1 }).cascade h.loc h.det h.n, .applied)
      else (s.holdLine m h now, .held)
    | some m =>
      if m.slot ≠ h.slot || m.launch ≠ h.launch then ({ s with mergeWait := s.mergeWait ++ [h] }, .held)
      else if m.n ≠ h.n then (s, .fault 7)
      else if h.k < m.q || (m.held ++ s.mergeWait).any (fun x => x.loc == h.loc && x.slot == h.slot && x.launch == h.launch && x.k == h.k)
      then (s, .fault 8)
      else if h.k = m.q then
        (((s.addLine h.loc h.wide h.vals).setMerge { m with q := m.q + 1 }).cascade h.loc h.det (h.n + 1), .applied)
      else (s.holdLine m h now, .held)

/-- The fault of a strict line: causes 7 and 8, or 0x0A01 after a closed mark (13 R306, R312). -/
def strictFault (c : Cmd) (va : Pair) (r : Strict) : Option FaultInfo :=
  match r with
  | .fault cause => some { code := 0x0801, addr := va, aux := tileAux 0 c.id 0 cause }
  | .closed => some { code := 0x0A01, addr := va, aux := BitVec.ofNat 32 c.id }
  | _ => none

/-- What follows for the sender of a line that waited at its slice. -/
def State.strictEnd (s : State) (h : HeldLine) (va : Pair) (r : Strict) : State :=
  match r with
  | .held => s
  | .applied => s.lineApplied h.cmd h.line
  | .bad =>
    (match s.anyCmd? h.cmd, s.op? h.cmd with
     | some c, _ => s.cmdError c h.loc
     | none, some o => s.opError o h.loc 0
     | none, none => s)
  | r =>
    match s.anyCmd? h.cmd with
    | some c =>
      (match strictFault c va r with
       | some f => (s.lineApplied h.cmd h.line).cmdStop c f (c.giver 64)
       | none => s)
    | none => s.arriveFault h.cmd (if r = .closed then 0x0A01 else 0x0801) va (match r with
        | .fault cause => BitVec.ofNat 32 cause
        | _ => 0)

/-- A line that waits at a slice obtains an entry, in arrival order (13 R307). -/
def execMergeBufferEntryGrant (slice : Nat) (s : State) : Out :=
  match s.mergeWait.find? (fun h => sliceOf h.loc == slice && s.mayEnter h) with
  | none => .next s
  | some h =>
    let s := { s with mergeWait := s.mergeWait.filter (fun x => x != h) }
    let r := s.strictLine h false
    .next (r.1.strictEnd h h.va r.2)

/-! ### Drains and store-outs (13 R305, R308) -/

/-- The element values of a line of a row of a tile, as words in ascending address. -/
def UnitSt.lineWords (u : UnitSt) (c : Cmd) (row line : Nat) : List Word :=
  if c.fmt = .f64 then
    (List.range 16).flatMap (fun i => [u.tile c.x row (16 * line + i), u.tile (c.x + 1) row (16 * line + i)])
  else (List.range 32).map (fun i => u.tile c.x row (32 * line + i))

/-- What a request of a drained line carries before its elements (the layout is the model's). -/
def drainOperands (c : Cmd) : List Byte :=
  leBytes 4 c.launch.toNat ++ leBytes 4 (match c.merge with | some (k, n) => k + 256 * (n - 1) | none => 0) ++ leBytes 4 c.uix ++
    leBytes 4 ((if c.merge.isSome then 1 else 0) + (if c.detM then 2 else 0) + (if c.fmt = .f64 then 4 else 0))

/-- The line at the progress point of a drain or store-out is sent: a drained line is applied or held at its home, a stored line
is written at the issuing die's L2, and a line of a peer is sent there (13 R305 to R308). -/
def State.sendLine (s : State) (c : Cmd) (u : UnitSt) : State :=
  match c.addrs[c.next / c.rowLines]? with
  | none => s
  | some (row, addr) =>
    let ln := c.next % c.rowLines
    let va := addr + BitVec.ofNat 64 (128 * ln)
    let o := c.asOp (c.giver row).1 (c.giver row).2
    let vals := u.lineWords c row ln
    let step := fun (s : State) => s.mapCmd c.uid (fun c => { c with next := c.next + 1 })
    let sent := fun (s : State) => s.mapCmd c.uid (fun x => { x with next := x.next + 1, unapplied := x.unapplied ++ [c.next] })
    if !canonical va then s.rowFault c row 0 0x0507 va 0
    else if addr.toNat % 128 ≠ 0 then s.rowFault c row 0 0x0505 va 0
    else
      match s.copyEnd o va true with
      | (s, .scratch _ _) => s
      | (s, .wait) => s
      | (s, .fault code va cause) => s.rowFault c row 0 code va cause
      | (s, .peer d a) =>
        if c.fn = .tstacc then ((sent s).peerStored c.core a.loc (wordBytes vals)).request o d (peerAddr a.loc) 2 0 128 (wordBytes vals) c.next
        else ((sent s).peerReduced c.core a.loc 128).request o d (peerAddr a.loc) 5 (if c.merge.isSome then 25 else 24) 144 (drainOperands c ++ wordBytes vals) c.next
      | (s, .here a) =>
        if c.fn = .tstacc then step (((s.noteWrite (foreignWriter 2) c.core a.loc (wordBytes vals)).l2Write (dieOf c.core) a.loc (wordBytes vals)).l1Store c.core
            a.loc (wordBytes vals))
        else
          let s := (s.l1Give c.core a.loc).dropRemote (dieOf c.core) (lineOf a.loc)
          match (if s.homeBad a.loc 128 then none else some c.merge) with
          | none => s.cmdError c a.loc
          | some none => step (s.addLine a.loc (c.fmt == .f64) vals)
          | some (some (k, n)) =>
            let h : HeldLine := { loc := a.loc, slot := c.slot, uix := c.uix, launch := c.launch, k := k, n := n, cmd := c.uid, line := c.next,
                                  det := c.detM, wide := c.fmt == .f64, vals := vals, va := va }
            match s.strictLine h true with
            | (s, .applied) => step s
            | (s, .held) => sent s
            | (s, r) =>
              match strictFault c va r with
              | some f => s.cmdFault c f (c.giver row)
              | none => s

/-- A drained line arrives at its home and is applied, held or faulted (13 R306); a store-out writes its next line (13 R308). -/
def execDrainLineArrival (cmd : Nat) (s : State) : Out :=
  match s.cmd? cmd with
  | none => .next s
  | some c =>
    if c.state ≠ .running || c.fn.pipe ≠ 2 || c.lines ≤ c.next || s.tileHeld c then .next s
    else
      match s.unit? c.unit with
      | none => .next s
      | some u => .next (s.sendLine c u)

/-! ### Retirement (13 R295) -/

/-- The selected rows of a tile are cleared (13 R301). -/
def UnitSt.zeroRows (u : UnitSt) (c : Cmd) : UnitSt :=
  let one := fun (u : UnitSt) (t : Nat) => { u with tiles := c.rowsOn.foldl (fun m i => Sparse.clear m (4096 * t + 64 * i) 64) u.tiles }
  if c.fmt = .f64 then one (one u c.x) (c.x + 1) else one u c.x

/-- A buffer takes the format of the load that retires (13 R299). -/
def State.setFormat (s : State) (c : Cmd) : State :=
  s.mapUnit c.unit (fun u =>
    let put := fun (m : Sparse TileBuf) => Sparse.set {} m c.x { Sparse.get {} m c.x with fmt := c.fmt }
    if c.fn = .tlda then { u with bufA := put u.bufA } else { u with bufB := put u.bufB })

/-- A load of a buffer ends: the buffer takes its format. After one that has shown its threads a seal the die holds no copy that an acquire at a
narrow scope would leave (12 R277; assumption 115). -/
def State.endLoad (s : State) (c : Cmd) : State :=
  ((if c.sealed then s.dropRemotes (dieOf c.core) else s).setFormat c).retireCmd c.uid

/-- A command retires: its id and entry are free, its dependents may start (13 R294, R295). -/
def execTileCommandRetire (cmd : Nat) (s : State) : Out :=
  match s.cmd? cmd with
  | none => .next s
  | some c =>
    if c.state ≠ .running || s.awaits cmd || (match s.unit? c.unit with | some u => u.stopped | none => true) then .next s
    else
      match c.fn with
      | .tlda => if c.blocks ≤ c.next then .next (s.endLoad c) else .next s
      | .tldb => if c.blocks ≤ c.next then .next (s.endLoad c) else .next s
      | .tmma => .next (((s.kSteps cmd (c.kappa - c.next)).sumRest cmd).retireCmd cmd)
      | .tzero => .next ((s.mapUnit c.unit (fun u => u.zeroRows c)).retireCmd cmd)
      | _ => if c.lines ≤ c.next && c.unapplied.isEmpty then .next (s.retireCmd cmd) else .next s

end Sys2Proof.Machine
end

