-- ==== Sys2Proof/Machine/System.lean ====
section
/-!
DEFINITION. The system instructions (16 R356 to R366, R369): handlers, `unpark`, system registers, invalidations, L2 write-back
and `brk`. The images of units stand in Images.lean.
-/
namespace Sys2Proof.Machine

/-! ### Handlers (16 R358 to R360) -/

/-- What `rfe` decides for a faulted tile command that the thread's record names (13 R311). -/
def State.rfeCommand (s : State) (t : Thread) (k : Nat) : State := if t.emul then s else s.decideCmd t (k != 0)

/-- `rfe` (16 R358): each thread leaves to its own point. -/
def execRfe (k : BitVec 7) (s : State) : Out :=
  .next (issue ({
    pre := noCheck,
    act := eachThread (fun s _ t _ =>
      match t.returnPoint k.toNat with
      | some (u, pc, b) => ((s.setThread u).rfeCommand t k.toNat, .jump pc (s.landing t.tid pc b))
      | none => (s, .fault { code := 0x0207 })) }) s)

/-- `frec` (16 R359). -/
def execFrec (d : Reg) (k : BitVec 7) (s : State) : Out :=
  .next (issue ({
    shape := fun _ => { named := [d] },
    pre := noCheck,
    act := eachThread (fun s _ t _ => (s.setThread (t.setReg d (t.recordWords.getD k.toNat 0) .int), .go)) }) s)

/-- The thread that a locator names (04 R112, 16 R360). -/
def State.located (s : State) (loc : Word) : Option Thread :=
  s.threads.find? (fun t => t.core == loc.toNat / 2 ^ 11 % 2 ^ 9 && t.slot == loc.toNat % 2 ^ 11)

/-- A thread below Hypervisor level names a thread of another context (16 R356). -/
def State.foreignThread (s : State) (t u : Thread) : Bool := t.level != .hypervisor && s.slotOf t != s.slotOf u

/-- `unpark` (16 R360). -/
def execUnpark (d a : Reg) (k : BitVec 7) (s : State) : Out :=
  .next (issue ({
    shape := fun _ => { named := [d, a], reads := [(.int, a)], level := .supervisor },
    pre := fun s _ t =>
      match s.located (s.intOf t a) with
      | some u => if s.foreignThread t u then (s, .error (.fault { code := 0x0B01 })) else (s, .ok ())
      | none => (s, .ok ()),
    act := eachThread (fun s _ t _ =>
      match (s.located (s.intOf t a)).filter (fun u => u.state == .parked) with
      | some u => (((s.restartCmds u).unparkThread u k.toNat).mapThread t.tid (fun t => t.setReg d 1 .int), .go)
      | none => (s.setThread (t.setReg d 0 .int), .go)) }) s)

/-! ### System registers (16 R361 to R364) -/

/-- A thread below Hypervisor level names another context's register (16 R356, R363). -/
def State.foreignSlot (s : State) (t : Thread) (n : Nat) (sel : Word) : Bool :=
  t.level != .hypervisor && perSlot n && selSlot sel != s.slotOf t

/-- `sysget` (16 R362): the word as it stands at issue. -/
def execSysget (d a : Reg) (n : BitVec 7) (s : State) : Out :=
  .next (issue ({
    shape := fun _ => { named := [d, a], reads := [(.int, a)], level := .supervisor },
    pre := fun s _ t =>
      if s.foreignSlot t n.toNat (s.intOf t a) then (s, .error (.fault { code := 0x0B01 })) else (s, .ok ()),
    act := eachThread (fun s _ t _ => (s.setThread (t.setReg d (s.sysRead n.toNat (s.intOf t a)) .int), .go)) }) s)

/-- The level that a `sysset` to a register needs (16 R363). -/
def sysLevel (n : Nat) : Level := if tenantHeld n then .hypervisor else .supervisor

/-- A slot that holds a context. -/
def Slot.live (c : Slot) : Bool := c.v && !c.ended

/-- A core is granted to a context and to no other (16 R364). -/
def State.onlyOf (s : State) (slot core : Nat) : Bool :=
  (s.slot slot).cores.getLsbD core &&
    (List.range 16).all (fun k => k == slot || !(s.slot k).live || !(s.slot k).cores.getLsbD core)

/-- The checks of a `sysset` that its selector decides: another slot, or `wv.fair` of a core that is not the context's alone. -/
def State.sysDenied (s : State) (t : Thread) (n : Nat) (sel : Word) : Bool :=
  s.foreignSlot t n sel || (n == 0 && t.level != .hypervisor && selOk n sel && !s.onlyOf (s.slotOf t) (selUnit sel))

/-- `sysset` (16 R362): behind the wait of R198, the thread stands at the word after until the write has reached its register. -/
def execSysset (d a : Reg) (n : BitVec 7) (s : State) : Out :=
  .next (issue ({
    shape := fun _ => { named := [d, a], reads := [(.int, a)], level := sysLevel n.toNat },
    pre := fun s _ t =>
      if s.sysDenied t n.toNat (s.intOf t a) then (s, .error (.fault { code := 0x0B01 }))
      else if !s.holds t .quiet then (s, .error (.leave .quiet)) else (s, .ok ()),
    act := eachThread (fun s c t _ =>
      (s.addOp (s.newOp c t .none (.sysWrite n.toNat (s.intOf t a) (t.val d))), .split (.op s.nextId))) }) s)

/-! ### Invalidations (08 R188 to R190, 16 R365) -/

/-- A page of a translation overlaps the range [lo, hi) of the 57-bit space. -/
def Trans.overlaps (x : Trans) (lo hi : Nat) : Bool := decide (x.vbase < hi) && decide (lo < x.vbase + x.size)

/-- A TLB entry that an invalidation removes: with `all` every entry, otherwise one tagged with a context id of the list, not global,
whose page overlaps the range. -/
def Trans.removed (x : Trans) (cids : List Nat) (all : Bool) (lo hi : Nat) : Bool :=
  all || (!x.glob && cids.contains x.cid && x.overlaps lo hi)

/-- A pointer entry that a context could use to reach a range goes (08 R188, R189). -/
def Pointer.removed (x : Pointer) (cids : List Nat) (all : Bool) (lo hi : Nat) : Bool :=
  all || (cids.contains x.cid && decide (levelPart x.level (lo % 2 ^ 57) ≤ x.part) && decide (x.part ≤ levelPart x.level ((hi - 1) % 2 ^ 57)))

/-- A line marked for a context of the list, or with `all` every marked line, goes with an invalidation, whatever its page (12 R282). -/
def L1Line.markedFor (l : L1Line) (cids : List Nat) (all : Bool) : Bool :=
  match l.mark with
  | some (_, cid) => all || cids.contains cid
  | none => false

/-- Removes translations and marked lines from every TLB and L1 of the module and marks the walks of the contexts stale (08 R188, R189,
12 R282). -/
def State.removeTrans (s : State) (cids : List Nat) (all : Bool) (lo hi : Nat) : State :=
  { s with
    cores := s.cores.map (fun (p : Nat × Core) =>
      (p.1, { p.2 with l1tlb := p.2.l1tlb.filter (fun x => !x.removed cids all lo hi),
                       l1 := p.2.l1.filter (fun l => !l.2.markedFor cids all) })),
    dies := s.dies.map (fun (p : Nat × Die) =>
      (p.1, { p.2 with l2tlb := p.2.l2tlb.filter (fun x => !x.removed cids all lo hi),
                       pointers := p.2.pointers.filter (fun x => !x.removed cids all lo hi) })),
    walks := s.walks.map (fun k => if all || cids.contains k.cid then { k with stale := true } else k) }

/-- A range of addresses, rounded out to 4 KiB (08 R188). -/
def pageRange (base len : Nat) : Nat × Nat := (base / 4096 * 4096, (base + len + 4095) / 4096 * 4096)

/-- Every address of a non-empty range is canonical and in one half (08 R188). -/
def rangeOk (r : Nat × Nat) : Bool := decide (r.2 ≤ 2 ^ 56) || (decide (2 ^ 64 - 2 ^ 56 ≤ r.1) && decide (r.2 ≤ 2 ^ 64))

/-- A context id is held by a slot (08 R189). -/
def State.cidHeld (s : State) (cid : Word) : Bool :=
  (List.range 16).any (fun k => (s.slot k).live && (s.slot k).cid == cid.toNat)

/-- A thread below Hypervisor level names a context id that belongs to another slot (16 R365). -/
def State.foreignCid (s : State) (t : Thread) (cid : Word) : Bool :=
  t.level != .hypervisor && (List.range 16).any (fun k => k != s.slotOf t && (s.slot k).live && (s.slot k).cid == cid.toNat)

/-- The slots that hold a context id of a list. -/
def State.slotsOf (s : State) (cids : List Nat) (all : Bool) : List Nat :=
  (List.range 16).filter (fun n => all || cids.contains (s.slot n).cid)

/-- An invalidation starts: its removals are made, and the thread stands at the word after until it completes (08 R190). -/
def State.startInval (s : State) (c : Ctx) (t : Thread) (cids : List Nat) (all : Bool) (lo hi : Nat) : State × After :=
  let o := { s.newOp c t .none (.inval cids all lo hi) with mark := some s.nextId, slots := s.slotsOf cids all }
  ((s.addOp o).removeTrans cids all lo hi, .split (.op o.id))

/-- `tlbinv` (08 R188, 16 R365). -/
def execTlbinv (d a b : Reg) (s : State) : Out :=
  .next (issue ({
    shape := fun _ => { named := [d] ++ pairNames a ++ pairNames b, reads := [(.int, d), (.int64, a), (.int64, b)], level := .supervisor },
    pre := fun s _ t =>
      let r := pageRange (t.pair a).toNat (t.pair b).toNat
      if s.foreignCid t (s.intOf t d) then (s, .error (.fault { code := 0x0B01 }))
      else if s.cidHeld (s.intOf t d) && t.pair b != 0 && !rangeOk r then (s, .error (.fault { code := 0x0507, addr := t.pair a }))
      else (s, .ok r),
    act := eachThread (fun s c t r =>
      let cid := s.intOf t d
      if !s.cidHeld cid || t.pair b = 0 then (s, .go)
      else s.startInval c t [cid.toNat] false (r.1 % 2 ^ 57) (r.1 % 2 ^ 57 + (r.2 - r.1))) }) s)

/-- `tlbinva` (08 R189, 16 R365). -/
def execTlbinva (a : Reg) (s : State) : Out :=
  .next (issue ({
    shape := fun _ => { named := [a], reads := [(.int, a)], level := .supervisor },
    pre := fun s _ t =>
      let cid := s.intOf t a
      if (cid = 0xFFFFFFFF && t.level != .hypervisor) || s.foreignCid t cid then (s, .error (.fault { code := 0x0B01 }))
      else (s, .ok cid),
    act := eachThread (fun s c t cid =>
      if cid = 0xFFFFFFFF then s.startInval c t [] true 0 (2 ^ 57)
      else if !s.cidHeld cid then (s, .go)
      else s.startInval c t [cid.toNat] false 0 (2 ^ 57)) }) s)

/-! ### `l2wb` (16 R366) -/

/-- The issue of an `l2wb`: bit 0 pushes every remote partition, bit 1 writes dirty home lines to their memory. -/
def l2wbOp (a : Reg) (s : State) : State :=
  issue ({
    shape := fun _ => { named := [a], reads := [(.int, a)], level := .supervisor },
    pre := fun s _ t => (s, roomFor t .st),
    act := eachThread (fun s c t _ =>
      let v := s.intOf t a
      (s.addOp (s.newOp c t .st (.writeBack (v.getLsbD 0) (v.getLsbD 1))), .go)) }) s

/-- `l2wb` (16 R366). The word is one; this is its row for bit 0. -/
def execL2wbRemotePush (a : Reg) (s : State) : Out := .next (l2wbOp a s)

/-- `l2wb` (16 R366). The word is one; this is its row for bit 1. -/
def execL2wbHomeWriteback (a : Reg) (s : State) : Out := .next (l2wbOp a s)

/-- Writes home what the remote partitions hold, then to memory what the home slices hold (16 R366). -/
def State.writeBack (s : State) (push home : Bool) : State :=
  let s := if push then s.pushAll else s
  if home then { s with homeDirty := [] } else s

/-- Every write of an `l2wb` has been applied (16 R366). -/
def execL2wbComplete (op : Nat) (s : State) : Out :=
  match s.op? op with
  | none => .next s
  | some o =>
    match o.kind with
    | .writeBack push home => .next ((s.writeBack push home).arrive op id)
    | _ => .next s

/-! ### `brk` (16 R369) -/

/-- `brk` (16 R369): nothing in Off and in the Tenant state, an event in Observe, a fault in Halt. The event's words are the thread's locator, the
PC, low then high, and k (DESIGN CHOICE, assumption 123: the rule gives them no layout). -/
def execBrk (k : BitVec 7) (s : State) : Out :=
  .next (issue ({
    pre := noCheck,
    act := eachThread (fun s c t _ =>
      if s.sec == .tenant || s.dbg == .off then (s, .go)
      else if s.dbg == .observe then (s.send 0x43 (s.slotOf t) [t.locator, loWord c.pc, hiWord c.pc, k.setWidth 32], .go)
      else (s, .fault { code := 0x0206, aux := k.setWidth 32 })) }) s)

end Sys2Proof.Machine
end

