-- ==== Sys2Proof/Machine/Images.lean ====
section
/-!
DEFINITION. Images of saved units (15 R352, 16 R367, R368): `ctxsave`, `ctxload`, the end of a save, and the layout of an image.
The bytes whose layout only `ctxload` reads name the saved state by the number of its image; a `ctxload` takes every documented part, the
registers, tags, windows, scratchpad, cluster memory and tiles, from the image, and what those names stand for besides (DESIGN CHOICE,
assumption 59).
-/
namespace Sys2Proof.Machine

/-! ### The layout (16 R367) -/

/-- Bytes of a thread's record: 64 of state, registers, tags, padded to 64, then the window. -/
def recordLen (o : Obj) : Nat := (64 + 4 * o.budget + o.budget / 2 + 63) / 64 * 64 + o.window

/-- Bytes of an image. -/
def imageLen (o : Obj) : Nat := 4096 + o.threads * recordLen o + o.scr + o.clu + o.opt 21 3 * 81920

/-- Free bytes of an image, taken from a position of the counter. -/
def freeBytes (at' n : Nat) : List Byte := (List.range n).map (fun i => Config.freeByte (at' + i))

/-- Pads bytes to a length. -/
def padTo (n : Nat) (bs : List Byte) : List Byte := (bs ++ List.replicate (n - bs.length) 0).take n

/-- Two tags in a byte, the even register's in the low half. -/
def tagByte (t : Thread) (i : Nat) : Byte :=
  BitVec.ofNat 8 ((t.reg (BitVec.ofNat 7 (2 * i))).tag.code + 16 * (t.reg (BitVec.ofNat 7 (2 * i + 1))).tag.code)

/-- The record of a thread of an image: 64 bytes in the layout that only `ctxload` reads, the number of the image and that of the record
before free bytes (DESIGN CHOICE, assumption 59), then what 16 R367 lays out. -/
def recordBytes (o : Obj) (v : Saved) (num free : Nat) (t : Thread) (k : Nat) : List Byte :=
  padTo (recordLen o - o.window)
      (leBytes 8 num ++ leBytes 4 k ++ freeBytes free 52 ++ (List.range o.budget).flatMap (fun i => leBytes 4 (t.val (BitVec.ofNat 7 i)).toNat) ++
        (List.range (o.budget / 2)).map (tagByte t)) ++
    Memory.readBytes v.lp ((t.slot - v.unit.row0 * 64) * Config.laneBytes) o.window

/-- A tile with its pair of buffers. -/
def tileBytes (u : UnitSt) (i : Nat) : List Byte :=
  (List.range 4096).flatMap (fun k => leBytes 4 (Sparse.get 0 u.tiles (4096 * i + k)).toNat) ++
    Memory.readBytes (u.buf 1 i).cells 0 32768 ++ Memory.readBytes (u.buf 2 i).cells 0 32768

/-- What follows the digest of an image: the rest of the header, with the number of the image before free bytes, and its parts. -/
def imageBody (o : Obj) (v : Saved) (num free : Nat) : List Byte :=
  leBytes 8 num ++ freeBytes free 4040 ++
    (v.threads.zipIdx.flatMap (fun (p : Thread × Nat) => recordBytes o v num (free + 4048 + 64 * p.2) p.1 p.2)) ++
    Memory.readBytes v.scratch 0 o.scr ++ Memory.readBytes v.cluster 0 o.clu ++
    (List.range (o.opt 21 3)).flatMap (tileBytes v.unit)

/-- The image of a saved unit of a context id, under a number. -/
def imageBytes (o : Obj) (v : Saved) (cid num free : Nat) : List Byte :=
  let body := imageBody o v num free
  leBytes 4 (imageLen o) ++ leBytes 4 cid ++ leBytes 4 v.unit.launch.toNat ++ leBytes 4 v.unit.index ++
    digestBytes (sha256 body) ++ body

/-! ### Writing an image (10 R224) -/

/-- How far an engine came through the pages of an image: to the end, to a page that it waits for, or to one that faults, with the offset, the
code and the cause. -/
inductive PageEnd where
  | done
  | wait
  | fault (off code : Nat) (cause : Word)
  deriving DecidableEq, Repr

/-- Judges the page at an offset of an image as a copy judges it: its access, or what stops it. -/
def State.imagePage (s : State) (o : Op) (a : Pair) (off : Nat) (n : Need) : State × Except PageEnd Access :=
  let va := a + BitVec.ofNat 64 off
  if !canonical va then (s, .error (.fault off 0x0507 0))
  else
    match s.translateFor o.id o.core o.slot va with
    | (s, .wait) => (s, .error .wait)
    | (s, .failed _) => (s, .error (.fault off 0x0501 0))
    | (s, .found x) =>
      match n.ofClass x.cls with
      | some (code, _) => (s, .error (.fault off code 0))
      | none =>
        if n.write && !x.w then (s, .error (.fault off 0x0504 0))
        else
          match x.peer.bind (s.peerCheck o.slot) with
          | some cause => (s, .error (.fault off 0x0901 cause))
          | none => (s, .ok (mkAccess x va 4096 0))

/-- The pages of an image with their accesses, up to the first that stops it. -/
def State.imagePages (s : State) (o : Op) (a : Pair) (off n : Nat) : State × List Access × PageEnd :=
  match n with
  | 0 => (s, [], .done)
  | n + 1 =>
    match s.imagePage o a off needStore with
    | (s, .error e) => (s, [], e)
    | (s, .ok x) =>
      let r := State.imagePages s o a (off + 4096) n
      (r.1, x :: r.2.1, r.2.2)

/-- Writes a line of an image to its place, or sends it to the peer that holds it. -/
def State.imageLine (s : State) (o : Op) (loc pos : Nat) (bs : List Byte) : State :=
  match peerOf loc with
  | none => ((s.noteWrite o.writer o.core loc bs).l2Write (dieOf o.core) loc bs).l1Store o.core loc bs
  | some d => (s.peerStored o.core loc bs).request o d (peerAddr loc) 2 0 bs.length bs pos

/-- Writes up to a page of an image, line by line. -/
def State.imageWrite (s : State) (o : Op) (a : Access) (pos : Nat) (bs : List Byte) : State :=
  ((List.range ((bs.length + 127) / 128)).foldl (fun s i =>
    s.imageLine o (a.loc + 128 * i) (pos + 128 * i) ((bs.drop (128 * i)).take 128)) s)

/-- Writes a whole image to its pages. -/
def State.imageWriteAll (s : State) (o : Op) (pages : List Access) (pos : Nat) (bs : List Byte) : State :=
  match pages with
  | [] => s
  | a :: rest => State.imageWriteAll (s.imageWrite o a pos (bs.take 4096)) o rest (pos + 4096) (bs.drop 4096)

/-! ### The end of a save (15 R352) -/

/-- The unit goes on in place, as if never stopped (16 R367). -/
def State.goOn (s : State) (uid : Nat) : State :=
  s.mapUnit uid (fun u => { u with pre := none, stopped := false, saveOp := none })

/-- The fault of an image operation: its code and address; the auxiliary word counts the bytes below it (10 R224), or is the cause of a
remote error. -/
def imageFault (addr : Pair) (off code : Nat) (cause : Word) : Nat × Pair × Word :=
  (code, addr + BitVec.ofNat 64 off, if code = 0x0901 then cause else BitVec.ofNat 32 off)

/-- The save that a `ctxsave` asked for: the image is written, or faults as a copy destination does, with the bytes below the fault written,
and the unit goes on (16 R367, 10 R224). -/
def State.saveTo (s : State) (u : UnitSt) (o : Op) (addr : Pair) : State :=
  match s.obj? u.slot u.launch with
  | none => s
  | some l =>
    let v := s.storeUnit u
    let n := imageLen l
    let bytes := imageBytes l v (s.slot u.slot).cid s.images.length s.fresh
    let write := fun (s : State) (pages : List Access) =>
      ({ s with fresh := s.fresh + 4048 + 64 * l.threads } : State).imageWriteAll o pages 0 bytes
    match s.imagePages o addr 0 ((n + 4095) / 4096) with
    | (s, _, .wait) => s
    | (s, pages, .fault off code cause) =>
      let s := ((write s pages).goOn u.uid).mapOp o.id (fun p => { p with fault := some (imageFault addr off code cause) })
      if s.awaits o.id then s else s.arrive o.id id
    | (s, pages, .done) =>
      let v := { v with image := some bytes }
      let s := ((write s pages).leaveCore u v).mapOp o.id (fun p => { p with data := [BitVec.ofNat 32 n] })
      let s := { s with images := s.images ++ [v] }
      if s.awaits o.id then s else s.arrive o.id id

/-- A stopping unit's operations have finished: its state is stored and its resources are free (15 R352). -/
def execSaveUnitComplete (unit : Nat) (s : State) : Out :=
  match s.unit? unit with
  | none => .next s
  | some u =>
    if u.pre != some .save || !s.mayStore u then .next s
    else
      match u.saveOp.bind s.op? with
      | some o =>
        match o.kind with
        | .saveUnit addr _ => .next (s.saveTo u o addr)
        | _ => .next s
      | none => .next (s.leaveCore u (s.storeUnit u))

/-! ### `ctxsave` (16 R367) -/

/-- The checks of an image address: canonical, and a multiple of 4 KiB. -/
def imageAddress (t : Thread) (a : Reg) : Except Stop Unit :=
  if t.full .st then .error (.leave (.room .st))
  else if !canonical (t.pair a) then .error (.fault { code := 0x0507, addr := t.pair a })
  else if (t.pair a).toNat % 4096 ≠ 0 then .error (.fault { code := 0x0505, addr := t.pair a })
  else .ok ()

/-- The unit that a locator names, which a thread may save: resident, of its context, not its own, and not being pre-empted. -/
def State.savable (s : State) (t : Thread) (loc : Word) : Option UnitSt :=
  s.units.find? (fun u => u.core == loc.toNat / 2 ^ 10 % 2 ^ 9 && u.row0 == loc.toNat % 2 ^ 5 && u.slot == s.slotOf t &&
    u.uid != t.unit && u.pre.isNone)

/-- `ctxsave` (16 R367). -/
def execCtxsave (d a b : Reg) (s : State) : Out :=
  .next (issue ({
    shape := fun _ => { named := [d] ++ pairNames a ++ [b], reads := [(.int64, a), (.int, b)], level := .supervisor },
    pre := fun s _ t => (s, imageAddress t a),
    act := eachThread (fun s c t _ =>
      match s.savable t (s.intOf t b) with
      | none =>
        let o := { s.newOp c t .st (.saveUnit (t.pair a) 0) with dsts := [d], tag := .int }
        ((s.addOp o).arrive o.id (fun p => { p with data := [0] }), .go)
      | some u =>
        let o := { s.newOp c t .st (.saveUnit (t.pair a) u.uid) with dsts := [d], tag := .int }
        ((s.addOp o).mapUnit u.uid (fun u => { u with pre := some .save, stopped := true, saveOp := some o.id }), .go)) }) s)

/-! ### `ctxload` (16 R368) -/

/-- The bytes of an image that a `ctxload` has read. -/
def Op.imageSoFar (o : Op) : List Byte := wordBytes o.data

/-- A `ctxload` takes in bytes of its image. -/
def State.imageTake (s : State) (o : Op) (bs : List Byte) : State := s.mapOp o.id (fun p => { p with data := p.data ++ loadWords false bs })

/-- One step of the read of an image, at the end of what has been read: the rest of a page of this module, or a request to the peer that
holds the next 256 bytes; none where the step must wait. -/
def State.imageStep (s : State) (o : Op) (addr : Pair) : State × PageEnd :=
  let off := 4 * o.data.length
  match s.imagePage o addr (off / 4096 * 4096) (needLoad false) with
  | (s, .error e) => (s, e)
  | (s, .ok a) =>
    let loc := a.loc + off % 4096
    match a.peer with
    | some d => (s.request o d (peerAddr loc) 1 0 256 [] 0, .wait)
    | none =>
      if (List.range 32).any (fun i => s.l2Bad (dieOf o.core) (a.loc + 128 * i) 128) then (s.opError o a.loc a.va, .wait)
      else (s.imageTake o ((List.range (4096 - off % 4096)).map (fun i => (s.l2View (dieOf o.core) (loc + i) 1).headD 0)), .done)

/-- Reads an image up to a length, as far as it goes at once. -/
def State.imageRead (s : State) (id : Nat) (addr : Pair) (len n : Nat) : State × PageEnd :=
  match n with
  | 0 => (s, .wait)
  | n + 1 =>
    match s.op? id with
    | none => (s, .wait)
    | some o =>
      if len ≤ 4 * o.data.length then (s, .done)
      else
        match s.imageStep o addr with
        | (s, .done) => State.imageRead s id addr len n
        | r => r

/-- The launch handle and the unit index that a header names (16 R367). -/
def headLaunch (head : List Byte) : Word := BitVec.ofNat 32 (leNat ((head.drop 8).take 4))

/-- The unit index of a header. -/
def headIndex (head : List Byte) : Nat := leNat ((head.drop 12).take 4)

/-- The saved unit of a slot that a number in an image names: the one whose image `ctxsave` wrote under it. -/
def State.imageNamed (s : State) (slot num : Nat) : Option Saved := s.images[num]?.bind (fun v => if v.unit.slot = slot then some v else none)

/-- A unit of a launch as it is when it is placed: what a name in an image stands for under which no image was written (DESIGN CHOICE,
assumption 59). Its names are taken behind those in use as it is taken up. -/
def State.freshUnit (s : State) (slot : Nat) (o : Obj) (index : Nat) : Saved :=
  let unit : UnitSt := { uid := 1, slot := slot, launch := o.handle, index := index, core := (s.chosenCore slot o index).getD 0, row0 := 0,
                         rows := o.rows, nthreads := o.threads, gw := o.gw, scrLen := o.scr, cluLen := o.clu, lpLen := o.window,
                         ncr := o.opt 14 4, acc := o.opt 21 3 }
  { id := 0, unit := unit, cmds := [], scratch := [], cluster := [], lp := [],
    threads := (List.range o.threads).map (fun i =>
      { newThread o unit (2 + i) i (s.blockFor slot (o.item 0)) with state := .ready 0 }) }

/-- The unit whose state a header holds, by the number in its bytes that only `ctxload` reads (16 R367). -/
def State.savedFor (s : State) (slot : Nat) (o : Obj) (head : List Byte) : Saved :=
  match s.imageNamed slot (leNat ((head.drop 48).take 8)) with
  | some v => if v.threads.length = o.threads then v else s.freshUnit slot o (headIndex head)
  | none => s.freshUnit slot o (headIndex head)

/-- The thread whose state a record holds, by the numbers in its 64 bytes that only `ctxload` reads (16 R367). -/
def State.threadFor (s : State) (slot : Nat) (record : List Byte) : Option Thread :=
  (s.imageNamed slot (leNat (record.take 8))).bind (fun v => v.threads[leNat ((record.drop 8).take 4)]?)

/-- A thread of a unit in the state of another record: it keeps its own place and names. -/
def Thread.inState (t u : Thread) : Thread :=
  { u with tid := t.tid, core := t.core, slot := t.slot, unit := t.unit, index := t.index }

/-- The saved unit that an image stands for, under the launch and the index of its header: its own state from the header, each thread's from its
record (assumption 59). -/
def State.fromHead (s : State) (v : Saved) (o : Obj) (img : List Byte) : Saved :=
  let fresh := s.freshUnit v.unit.slot o (headIndex img)
  { v with
    threads := v.threads.zipIdx.map (fun (p : Thread × Nat) =>
      match s.threadFor v.unit.slot (img.drop (4096 + p.2 * recordLen o)), fresh.threads[p.2]? with
      | some u, _ => p.1.inState u
      | none, some u => p.1.inState u
      | none, none => p.1)
    unit := { v.unit with launch := headLaunch img, index := headIndex img }
    cmds := v.cmds.map (fun (c : Cmd) => { c with launch := headLaunch img, uix := headIndex img }) }

/-- A thread with the registers and tags of its record. -/
def Thread.fromRecord (t : Thread) (budget : Nat) (r : List Byte) : Thread :=
  (List.range budget).foldl (fun t i =>
    t.setReg (BitVec.ofNat 7 i) (BitVec.ofNat 32 (leNat ((r.drop (64 + 4 * i)).take 4)))
      (Tag.ofCode ((r.getD (64 + 4 * budget + i / 2) 0).toNat / 16 ^ (i % 2) % 16))) { t with regs := [] }

/-- The cells of a list of bytes, from a key on. -/
def bytesAt (m : Sparse Byte) (lo : Nat) (bs : List Byte) : Sparse Byte := Memory.writeBytes m lo bs

/-- A saved unit with every documented part as its image has it. -/
def Saved.fromImage (v : Saved) (o : Obj) (img : List Byte) : Saved :=
  let len := recordLen o
  let rec' := fun (k : Nat) => (img.drop (4096 + k * len)).take len
  let ts := v.threads.zipIdx.map (fun (p : Thread × Nat) =>
    if p.1.state == .exited then p.1 else p.1.fromRecord o.budget (rec' p.2))
  let lp := v.threads.zipIdx.foldl (fun m (p : Thread × Nat) =>
    bytesAt m ((p.1.slot - v.unit.row0 * 64) * Config.laneBytes) ((rec' p.2).drop (len - o.window))) []
  let base := 4096 + o.threads * len
  let tile := fun (i : Nat) => (img.drop (base + o.scr + o.clu + i * 81920)).take 81920
  let n := o.opt 21 3
  let tiles := (List.range n).foldl (fun m i => (List.range 4096).foldl (fun m k =>
    Sparse.set 0 m (4096 * i + k) (BitVec.ofNat 32 (leNat (((tile i).drop (4 * k)).take 4)))) m) ([] : Sparse Word)
  let buf := fun (kind off : Nat) (bufs : Sparse TileBuf) => (List.range n).foldl (fun m i =>
    Sparse.set {} m i { (v.unit.buf kind i) with cells := bytesAt [] 0 (((tile i).drop off).take 32768) }) bufs
  { v with threads := ts, lp := lp, scratch := bytesAt [] 0 ((img.drop base).take o.scr),
           cluster := bytesAt [] 0 ((img.drop (base + o.scr)).take o.clu),
           unit := { v.unit with tiles := tiles, bufA := buf 1 16384 v.unit.bufA, bufB := buf 2 49152 v.unit.bufB } }

/-- A core number that `ctxload` may name for a unit: any of the 320, or all ones, and in deterministic mode the unit's own
(16 R368). -/
def coreNamed (core : Word) (o : Obj) (v : Saved) : Bool :=
  core == 0xFFFFFFFF || (decide (core.toNat < 320) && (o.opt 24 1 != 1 || core.toNat == v.unit.core))

/-- A saved unit under new names for it, its threads and its commands: an image may be loaded while the unit that an earlier load placed
still stands. -/
def Saved.renamed (v : Saved) (k : Nat) : Saved :=
  { v with
    id := v.id + k
    unit := { v.unit with
      uid := v.unit.uid + k
      creels := v.unit.creels.map (fun (p : Nat × Creel) => (p.1, { p.2 with starved := p.2.starved.map (fun q => (q.1 + k, q.2)) })) }
    threads := v.threads.map (fun t => { t with tid := t.tid + k, unit := t.unit + k })
    cmds := v.cmds.map (fun c => { c with uid := c.uid + k, unit := c.unit + k, leader := c.leader + k,
                                          tids := c.tids.map (fun p => (p.1 + k, p.2)), preds := c.preds.map (fun n => n + k),
                                          culprit := c.culprit + k, counted := c.counted.map (fun n => n + k), sent := some c.uid }) }

/-- A line of a command still stands: held at its home here, or asked of a peer that has not answered. -/
def State.lineStands (s : State) (cmd line : Nat) : Bool :=
  (s.merges.flatMap (fun (m : Merge) => m.held) ++ s.mergeWait).any (fun h => h.cmd == cmd && h.line == line) ||
    s.reqs.any (fun r => r.op == cmd && r.pos == line)

/-- A copy's drains wait for the lines of its image that still stand at their homes; the others have been applied since (13 R313). -/
def State.waitLines (s : State) (v : Saved) : Saved :=
  { v with cmds := v.cmds.map (fun (c : Cmd) => { c with unapplied := c.unapplied.filter (fun l => s.lineStands (c.sent.getD c.uid) l) }) }

/-- The unit of an image waits for its placement since its save. -/
def Saved.waitsFor (x v : Saved) : Bool :=
  x.id == v.id && x.loadOp.isNone && x.unit.launch == v.unit.launch && x.unit.index == v.unit.index

/-- Takes a unit up for placement from its image: the one that waits since its save, whose lines at their homes may have been applied since, or
another copy of it. -/
def State.takeImage (s : State) (o : Op) (l : Obj) (v : Saved) (img : List Byte) (core : Word) : State :=
  let want := fun (x : Saved) => { x.fromImage l img with loadOp := some o.id, onCore := if core = 0xFFFFFFFF then none else some core.toNat }
  let s := s.mapOp o.id (fun p => { p with served := true, data := [] })
  if s.saved.any (fun x => x.waitsFor v) then
    { s with saved := s.saved.map (fun x => if x.waitsFor v then want { v with cmds := x.cmds } else x) }
  else { s with saved := s.saved ++ [s.waitLines (want (v.renamed s.nextId))], nextId := 2 * s.nextId + l.threads + 2 }

/-- `ctxload` reads its image and takes the unit up for placement, or writes 0 (16 R368). -/
def State.loadFrom (s : State) (id : Nat) (addr : Pair) (core : Word) : State :=
  let stop := fun (s : State) (e : PageEnd) => match e with
    | .fault off code cause =>
      let f := imageFault addr off code cause
      s.arriveFault id f.1 f.2.1 f.2.2
    | _ => s
  let no := fun (s : State) => s.arrive id (fun p => { p with data := [0] })
  match s.imageRead id addr 4096 20 with
  | (s, .done) =>
    (match s.op? id with
     | none => s
     | some o =>
       let head := o.imageSoFar.take 4096
       match s.obj? o.slot (headLaunch head) with
       | none => no s
       | some l =>
         match s.imageRead id addr (imageLen l) (imageLen l / 256 + 20) with
         | (s, .done) =>
           let img := match s.op? id with
             | some o => o.imageSoFar.take (imageLen l)
             | none => []
           let v := s.savedFor o.slot l head
           if l.ended || leNat (head.take 4) ≠ imageLen l || leNat ((head.drop 4).take 4) ≠ (s.slot o.slot).cid ||
               (head.drop 16).take 32 != digestBytes (sha256 (img.drop 48)) || !coreNamed core l v then no s
           else s.takeImage o l (s.fromHead v l img) img core
         | (s, e) => stop s e)
  | (s, e) => stop s e

/-- The next step of a `ctxload` that reads its image. -/
def State.loadMore (s : State) (o : Op) : State :=
  match o.kind with
  | .loadUnit addr core => if o.served || o.arrived || s.awaits o.id then s else s.loadFrom o.id addr core
  | _ => s

/-- `ctxload` (16 R368). -/
def execCtxload (d a b : Reg) (s : State) : Out :=
  .next (issue ({
    shape := fun _ => { named := [d] ++ pairNames a ++ [b], reads := [(.int64, a), (.int, b)], level := .supervisor },
    pre := fun s _ t => (s, imageAddress t a),
    act := eachThread (fun s c t _ =>
      let core := s.intOf t b
      let o := { s.newOp c t .st (.loadUnit (t.pair a) core) with dsts := [d], tag := .int }
      ((s.addOp o).loadMore o, .go)) }) s)

end Sys2Proof.Machine
end

