-- ==== Sys2Proof/Machine/Complete.lean ====
section
/-!
DEFINITION. The completion of loads and of the other operations whose values come from one place (07 R168), and uncorrectable errors in the
data that an operation or a tile command consumes (01 R33, 16 R375). Every delivery to a register, every use by an NCU operation and every
answer to a peer is such a consumption. A check fails where the code of a half-sector that is read disagrees with its bytes
(Machine/Memory.lean); an error that data meets on its way is an event, whose flag `bad` says so.
-/
namespace Sys2Proof.Machine

/-- The place of the data that an operation consumes. -/
def State.placeOf (s : State) (o : Op) : Nat :=
  match o.kind with
  | .copy c =>
    (match s.mappedNow o.core o.slot (c.srcAt c.moved) with
     | some x => x.place (va57 (c.srcAt c.moved))
     | none => 0)
  | .xfer _ _ _ _ pa pb _ => (pa.orElse (fun _ => pb)).getD 0
  | .cellRead _ _ cell _ => cell.getD 0
  | .descr a => a.loc
  | _ =>
    match o.span, o.asealAccess with
    | some (_, l, _), _ => l
    | none, some a => a.loc
    | none, none => 0

/-- The virtual address that an error record of an operation's request names. -/
def Op.faultVa (o : Op) : Pair :=
  match o.kind with
  | .load a _ _ => a.va
  | .store a _ _ => a.va
  | .lch a => a.va
  | .atomic a _ _ _ _ _ => a.va
  | .descr a => a.va
  | .copy c => c.srcAt c.moved
  | _ => match o.asealAccess with
    | some a => a.va
    | none => 0

/-- An operation that may now read the data it consumes, or that waits for a peer to send it. A transfer reads its cells before its
commit; a prefetch consumes nothing. -/
def State.consumes (s : State) (o : Op) : Bool :=
  !o.arrived &&
    (match o.kind with
     | .load _ _ _ => (o.tid != 0 || o.origin.isSome) && s.freeToAct o
     | .store _ _ _ => s.freeToAct o
     | .lch _ => s.freeToAct o
     | .xfer _ _ _ _ _ _ x => x == .sent || x == .waitFirst || x == .first || x == .waitSecond
     | .cellRead _ _ _ _ => true
     | .fdecl _ _ => true
     | .descr _ => true
     | .copy _ => true
     | .append _ _ _ => true
     | .reduction => !o.served
     | .declare _ _ => true
     | .saveUnit _ _ => true
     | .loadUnit _ _ => true
     | .atomic _ _ _ _ _ _ => s.awaits o.id
     | _ => false)

/-- The place of the data that a tile command consumes. -/
def State.cmdPlace (s : State) (c : Cmd) : Nat :=
  match c.addrs[c.next % c.addrs.length]? with
  | some (_, a) => (match s.mappedNow c.core c.slot a with
    | some x => x.place (va57 a)
    | none => 0)
  | none => 0

/-- `fdecl` of a peer reads a cell here, or, once it has accepted the field, sets its ω to 0 (11 R250 steps 5 and 6). -/
def State.declareCell (s : State) (o : Op) (cell : Nat) (zero : Bool) : State :=
  if !zero && s.homeBad cell 4 then s.opError o cell 0
  else
    (if zero then { s with omega := Sparse.erase s.omega cell } else s).arrive o.id (fun q =>
      { q with data := [BitVec.ofNat 32 (s.homeNat cell 4)] })

/-- A load's value comes from its place (07 R168). The same event serves the other operations of class ld whose values come from one place:
cells, totals, the descriptor of an `fdecl`, `atail`, `astate`, `lch` and `lcnt` (15 R340, R342), and the reads of a `ctxload` (16 R368). `bad` says that the data which the operation of that name consumes, or
the tile command of that name, has an uncorrectable error (01 R33). -/
def execLoadComplete (op : Nat) (bad : Bool) (s : State) : Out :=
  match s.op? op with
  | none =>
    (match s.cmd? op with
     | some c => if bad && c.state == .running then .next (s.cmdError c (s.cmdPlace c)) else .next s
     | none => .next s)
  | some o =>
    if o.arrived then .next s
    else if bad then (if s.consumes o then .next (s.opError o (s.placeOf o) o.faultVa) else .next s)
    else
      match o.kind with
      | .load _ _ _ => .next (s.performLoad o)
      | .cellRead _ _ _ _ => .next (s.serveCell o)
      | .totals _ _ _ => .next (s.serveTotals o)
      | .status _ _ => .next (s.serveStatus o)
      | .lch _ => .next (s.serveLaunch o)
      | .lcnt _ _ => .next (s.serveCount o)
      | .loadUnit _ _ => .next (s.loadMore o)
      | .declare cell zero => .next (s.declareCell o cell zero)
      | .descr acc => .next (s.readDescriptor o acc)
      | _ => .next s

end Sys2Proof.Machine
end

