-- ==== Sys2Proof/Machine/Control.lean ====
section
/-!
DEFINITION. Hints (03 R68 to R72), illegal words (03 R66, R76), control flow and `wait` (04 R106 to R110), and the events of
the Weaver: forming strands, the overflow queue, spilling, register-bank retries (04 R88 to R104, 05 R137).
-/
namespace Sys2Proof.Machine

/-! ### Hints -/

/-- `hk`: extends the target's immediate (03 R69). -/
def execHk (p : BitVec 24) (s : State) : Out :=
  .next (issueHint s .hk { hk := some p } (fun h => h.hk.isSome) (fun h => { h with hk := some p }))

/-- `hx`: modifier bits and a fourth register (03 R69). -/
def execHx (m : BitVec 17) (c : Reg) (s : State) : Out :=
  .next (issueHint s .hx { hx := some (m, c) } (fun h => h.hx.isSome) (fun h => { h with hx := some (m, c) }))

/-- `hs`: cache policy and scope (03 R69). -/
def execHs (p : BitVec 3) (x : BitVec 4) (s : State) : Out :=
  .next (issueHint s .hs { hs := some (p, x) } (fun h => h.hs.isSome) (fun h => { h with hs := some (p, x) }))

/-- `hq`: tag override, saturation and rounding (03 R69). -/
def execHq (e : BitVec 1) (t : BitVec 4) (x : BitVec 1) (r : BitVec 3) (s : State) : Out :=
  .next (issueHint s .hq { hq := some (e, t, x, r) } (fun h => h.hq.isSome) (fun h => { h with hq := some (e, t, x, r) }))

/-! ### Illegal words -/

/-- The word faults for every thread of the strand. -/
def faultWord (code : Nat) (s : State) : State :=
  issue ({ pre := fun s _ _ => (s, .error (.fault { code := code })), act := eachThread (α := Unit) (fun s _ _ _ => (s, .go)) }) s

/-- A word that no opcode or sub-field assigns: 0x0101 (03 R76), on the emulation path of R78. A hint word that R69 makes
illegal comes here too, with the record that R72 gives a hint. -/
def execIllegalEncoding (s : State) : Out :=
  match s.strand? s.issuing with
  | none => .next s
  | some st =>
    if (ctxOf s st).word.toNat / 2 ^ 26 == 0x01 then .next (issueHint s .hk {} (fun _ => true) id)
    else .next (faultWord 0x0101 s)

/-- A block head word in a block's body: 0x0103 (03 R66). -/
def execHeadWordInBody (s : State) : Out := .next (faultWord 0x0103 s)

/-! ### Branches and calls -/

/-- The target of a branch by offset: PC + 4 × sext(off, 64) (04 `br`). -/
def Ctx.branchTo (c : Ctx) (o : BitVec 16) : Pair := c.pc + 4 * o.signExtend 64

/-- Checks of a transfer to `a` before a thread goes there. -/
def goTo (s : State) (t : Thread) (a : Pair) : State × Except Stop (Option (Pair × Block)) :=
  match s.goChecks t a with
  | (s, .head h) => (s, .ok (some (a, blockOf a h)))
  | (s, .fault f) => (s, .error (.fault f))
  | (s, .wait wid) => (s, .error (.leave (.walk wid)))

/-- A thread goes to a checked target, or on to the word after (03 R66). -/
def goAct (s : State) (_ : Ctx) (_ : Thread) (x : Option (Pair × Block)) : State × After :=
  match x with
  | none => (s, .go)
  | some (a, b) => (s, .jump a b)

/-- A branch that reads one register through the class any and tests it (04 `br`). -/
def branchIf (rs : List Reg) (taken : Thread → Bool) (o : BitVec 16) (s : State) : State :=
  issue ({ shape := fun _ => { named := rs }, term := true,
           pre := fun s c t => if taken t then goTo s t (c.branchTo o) else (s, .ok none),
           act := eachThread goAct }) s

/-- `br` (04 R109). -/
def execBr (o : BitVec 16) (s : State) : Out := .next (branchIf [] (fun _ => true) o s)

/-- `br.z`: taken when the register is zero. -/
def execBrZ (a : Reg) (o : BitVec 16) (s : State) : Out := .next (branchIf [a] (fun t => t.val a == 0) o s)

/-- `br.nz`: taken when the register is not zero. -/
def execBrNz (a : Reg) (o : BitVec 16) (s : State) : Out := .next (branchIf [a] (fun t => t.val a != 0) o s)

/-- `br.neg`: taken when bit 31 is set. -/
def execBrNeg (a : Reg) (o : BitVec 16) (s : State) : Out := .next (branchIf [a] (fun t => (t.val a).getLsbD 31) o s)

/-- `br.nn`: taken when bit 31 is clear. -/
def execBrNn (a : Reg) (o : BitVec 16) (s : State) : Out := .next (branchIf [a] (fun t => !(t.val a).getLsbD 31) o s)

/-- The window size of a thread (01 R25). -/
def State.windowOf (s : State) (t : Thread) : Nat :=
  match s.unitOf t with
  | some u => u.lpLen
  | none => 0

/-- The checks of a call to `a`: R109, a function entry, its budget and room for a frame (04 `call`). -/
def callTo (s : State) (t : Thread) (a : Pair) : State × Except Stop (Option (Pair × Block)) :=
  match s.goChecks t a with
  | (s, .fault f) => (s, .error (.fault f))
  | (s, .wait wid) => (s, .error (.leave (.walk wid)))
  | (s, .head h) =>
    if !headE h then (s, .error (.fault { code := 0x0201, addr := a }))
    else if t.budget < headBudget h then
      (s, .error (.fault { code := 0x0202, addr := a, aux := BitVec.ofNat 32 (headBudget h) }))
    else if s.windowOf t < 8 * (t.depth + 1) then (s, .error (.fault { code := 0x0506, addr := a }))
    else (s, .ok (some (a, blockOf a h)))

/-- Pushes the return address PC + 4 and goes to the callee (04 `call`, R108). -/
def callAct (s : State) (c : Ctx) (t : Thread) (x : Option (Pair × Block)) : State × After :=
  match x with
  | none => (s, .go)
  | some (a, b) =>
    let n := t.depth + 1
    let s := s.mapThread t.tid (fun t => { t with depth := n })
    (s.lpWrite t (s.windowOf t - 8 * n) (leBytes 8 c.next.toNat), .jump a b)

/-- `call` (04). -/
def execCall (o : BitVec 16) (s : State) : Out :=
  .next (issue ({ term := true, pre := fun s c t => callTo s t (c.branchTo o), act := eachThread callAct }) s)

/-- `bx`: go(pair(a)), every tag accepted (04). -/
def execBx (a : Reg) (s : State) : Out :=
  .next (issue ({ shape := fun _ => { named := pairNames a }, term := true, pre := fun s _ t => goTo s t (t.pair a),
                  act := eachThread goAct }) s)

/-- `callx` (04). -/
def execCallx (a : Reg) (s : State) : Out :=
  .next (issue ({ shape := fun _ => { named := pairNames a }, term := true, pre := fun s _ t => callTo s t (t.pair a),
                  act := eachThread callAct }) s)

/-- The return address in the top frame (04 R108). -/
def State.topFrame (s : State) (t : Thread) : Pair :=
  BitVec.ofNat 64 (leNat (s.lpRead t (s.windowOf t - 8 * t.depth) 8))

/-- `ret` leaves the frame and goes to its address; with an empty stack the thread exits (04 R110). -/
def retAct (s : State) (_ : Ctx) (t : Thread) (x : Option (Pair × Block)) : State × After :=
  match x with
  | none => (s, .exit)
  | some (a, b) => (s.mapThread t.tid (fun t => { t with depth := t.depth - 1 }), .jump a b)

/-- `ret` (04). -/
def execRet (s : State) : Out :=
  .next (issue ({ term := true, pre := fun s _ t => if t.depth = 0 then (s, .ok none) else goTo s t (s.topFrame t),
                  act := eachThread retAct }) s)

/-- `exit` (04 R110). -/
def execExit (s : State) : Out :=
  .next (issue ({ term := true, pre := noCheck, act := eachThread (fun s _ _ _ => (s, .exit)) }) s)

/-- The set Y of a `yield`: the entries of the core, other than the thread's resume point, that hold a ready thread
(04 R101). -/
def State.yieldSet (s : State) (t : Thread) (resume : Pair) : List (Nat × Nat) :=
  ((s.core t.core).table.filter (fun p =>
    !(p.2.pc == resume && p.2.cid == s.cidOf t && p.2.launchNo == s.launchNo t) &&
      (s.waiters t.core p.2).any (fun u => u.isReady))).map (fun p => (p.2.num, p.2.formed))

/-- `yield`: in normal mode the thread waits until every entry of Y is satisfied (04 R101); with P clear or D set there is no set Y, and it
is ready in the next cycle (04 R103, R104). -/
def execYield (s : State) : Out :=
  .next (issue ({ pre := noCheck, act := eachThread (fun s c t _ =>
    (s, .split (.yield (if t.modeD || !t.modeP then [] else s.yieldSet t c.next) (s.coreClock t.core)))) }) s)

/-- `nop` (04). -/
def execNop (s : State) : Out := .next (issue ({ pre := noCheck, act := eachThread (fun s _ _ _ => (s, .go)) }) s)

/-- `trap n`: 0x0205 with n in the auxiliary word (04). -/
def execTrap (b : Reg) (s : State) : Out :=
  .next (issue ({ pre := fun s _ _ => (s, .error (.fault { code := 0x0205, aux := b.setWidth 32 })),
                  act := eachThread (α := Unit) (fun s _ _ _ => (s, .go)) }) s)

/-- `wait`: the thread leaves with reason counter until every named class is at or below its threshold (04 R107). -/
def execWait (l x c t : BitVec 4) (s : State) : Out :=
  let w : Wait := .counter l.toNat x.toNat c.toNat t.toNat
  .next (issue ({ pre := fun s _ th => if s.holds th w then (s, .ok ()) else (s, .error (.leave w)),
                  act := eachThread (fun s _ _ _ => (s, .go)) }) s)

/-! ### Events of the Weaver -/

/-- A decoder forms a strand (04 R90 to R104). -/
def execFormStrand (core dec : Nat) (s : State) : Out :=
  if !coreOk core then .fault (.noSuchCore core) else .next (s.formStrand core (dec % 2))

/-- Moves up to 4 threads from the overflow queue into the table (04 R88). -/
def execOverflowQueueMove (core : Nat) (s : State) : Out :=
  if !coreOk core then .fault (.noSuchCore core) else .next (s.moveUp core)

/-- Spills an entry for want of which a ready thread cannot enter (04 R89). -/
def execSpillEntry (core : Nat) (s : State) : Out :=
  if !coreOk core then .fault (.noSuchCore core) else .next (s.spill core)

/-- A strand whose register reads are not all served loses the round and retries in the next cycle (05 R137): at most 7
consecutive rounds. -/
def execBankReadRetry (strand : Nat) (s : State) : Out :=
  .next { s with strands := s.strands.map (fun x =>
    if x.sid = strand && x.lost < 7 && x.lostAt != some (s.coreClock x.core) then
      { x with lost := x.lost + 1, lostAt := some (s.coreClock x.core) } else x) }

end Sys2Proof.Machine
end

