-- ==== Sys2Proof/Machine/HostChannel.lean ====
section
/-!
DEFINITION. The host's channel to Clehild (16 R371 to R373), the messages it carries, the security, debug and power states
(16 R377 to R382, R392), the debug requests (R379) and soft errors (R376).
-/
namespace Sys2Proof.Machine

/-! ### Delivery (16 R371, R373) -/

/-- A message or reply of TYPE 0x03: an acknowledgement or a refusal with its words. -/
def State.reply (s : State) (slot : Nat) (ws : List Word) : State := s.send 0x03 slot ws

/-- Messages between two sequence numbers, modulo 2^32. -/
def seqGap (first last : Nat) : Nat := (last + 2 ^ 32 - first) % 2 ^ 32

/-- An ACK releases the messages of the log that it covers. -/
def State.takeAck (s : State) (ack : Nat) : State :=
  { s with clehild := { s.clehild with log := s.clehild.log.filter (fun m => decide (2 ^ 31 ≤ seqGap m.seq ack)) } }

/-- The TYPE is one that the state of the module serves (16 R379). -/
def State.serves (s : State) (typ : Nat) : Bool :=
  match s.pwr with
  | .off => typ == 0x21
  | .retention => [0x01, 0x02, 0x03, 0x21, 0x30].contains typ
  | _ => s.sec != .boot || [0x01, 0x02, 0x03, 0x21, 0x22, 0x23, 0x30].contains typ

/-- The header is one that Clehild refuses: a reserved bit, a TYPE that is not the message's, or a hypervisor's TYPE without H
(16 R371). -/
def badHead (h : MsgHead) (typ : Nat) : Bool := h.rsvd != 0 || h.typ != typ || (typ == 0x20 && !h.hyp) || decide (16 ≤ h.vf)

/-- A query, a reply to one or an acknowledgement is served when it arrives; its number is passed where it is the next. -/
def State.receiveNow (s : State) (h : MsgHead) (typ : Nat) (perform : State → State) : State :=
  if h.epoch ≠ s.clehild.epoch && typ != 0x01 then s
  else
    let next := h.epoch == s.clehild.epoch && h.seq == s.clehild.nextIn
    let s := if next then { s with clehild := { s.clehild with nextIn := (s.clehild.nextIn + 1) % 2 ^ 32 } } else s
    let s := if h.epoch = s.clehild.epoch then s.takeAck h.ack else s
    if badHead h typ || !s.serves typ then s.reply h.vf [1] else perform s

/-- The delivery point: the last number delivered in order. -/
def State.delivered (s : State) : Word := BitVec.ofNat 32 ((s.clehild.nextIn + 2 ^ 32 - 1) % 2 ^ 32)

/-- Sends every message of the log once more. -/
def State.resend (s : State) : State :=
  let log := s.clehild.log.map (fun m => { m with sentAt := s.now })
  { s with clehild := { s.clehild with log := log }, outbox := s.outbox ++ log }

/-- A message that no ACK has covered for 1 ms, 600,000 cycles (01 R17), is sent again (16 R373). -/
def execMessageResendTimeout (s : State) : Out :=
  let late := fun (m : Msg) => decide (m.sentAt + 600000 ≤ s.now)
  .next { s with outbox := s.outbox ++ (s.clehild.log.filter late).map (fun m => { m with sentAt := s.now }),
                 clehild := { s.clehild with log := s.clehild.log.map (fun m => if late m then { m with sentAt := s.now } else m) } }

/-- Clehild's firmware restarts with its log and its delivery point, and sends a query (16 R373). -/
def execClehildRestart (s : State) : Out := .next (s.send 0x01 0 [])

/-! ### Objects (16 R372, 15 R341) -/

/-- A create message makes a graph, phase or job: its handle, or none where it is refused (16 R372). It reads ST = running from then on (DESIGN
CHOICE, assumption 121: 15 R341 does not say which of waiting and running). -/
def State.create (s : State) (slot : Nat) (level parent : Word) : Option (State × Word) :=
  let l := level.toNat
  let open' := l == 3 || (match s.obj? slot parent with
    | some p => handleLevel parent == l + 1 && !p.ended && !p.closed
    | none => false)
  if l = 0 || 3 < l || !open' || (s.slot slot).ended then none
  else
    (s.newHandle slot l).map (fun h => (s.addObj slot { handle := h, parent := if l = 3 then 0 else parent }, h))

/-- A create message (16 R372). -/
def State.doCreate (s : State) (h : MsgHead) (level parent : Word) : State :=
  match s.create h.vf level parent with
  | some r => r.1.reply h.vf [0, r.2]
  | none => s.reply h.vf [1]

/-- A close message: no further member may join, and a container all of whose members have ended is complete (15 R341). -/
def State.doClose (s : State) (h : MsgHead) (obj : Word) : State :=
  match s.obj? h.vf obj with
  | none => s.reply h.vf [1]
  | some _ =>
    if handleLevel obj = 0 then s.reply h.vf [1]
    else ((s.mapObj h.vf obj (fun o => { o with closed := true })).checkEnd h.vf obj 3).reply h.vf [0]

/-! ### Launch messages (15 R339, 16 R372) -/

/-- The annex of a launch: creel entries, scope entries, append-seal regions. -/
structure Annex where
  creels : List (Nat × Word) := []
  scopes : List (Nat × BitVec 320) := []
  regions : List (Pair × Nat × Nat) := []
  deriving DecidableEq, Repr

/-- A mask from its ten words. -/
def maskOf (ws : List Word) : BitVec 320 :=
  BitVec.ofNat 320 ((List.range 10).foldl (fun n i => n + (ws.getD i 0).toNat * 2 ^ (32 * i)) 0)

/-- Reads an annex (15 R339): none where its counts are out of range or call for another number of words. A size word other than 0 is read as
2 MiB (DESIGN CHOICE, assumption 101: R339 gives 0 and 1 alone). -/
def readAnnex (ws : List Word) : Option Annex :=
  let w := (ws.getD 0 0).toNat
  let nce := w % 16
  let nse := w / 16 % 16
  let nae := w / 256
  if 8 < nce || 7 < nse || ws.length ≠ 1 + 2 * nce + 11 * nse + 4 * nae then none
  else
    some {
      creels := (List.range nce).map (fun i => ((ws.getD (1 + 2 * i) 0).toNat % 8, ws.getD (2 + 2 * i) 0)),
      scopes := (List.range nse).map (fun i =>
        ((ws.getD (1 + 2 * nce + 11 * i) 0).toNat, maskOf (ws.drop (2 + 2 * nce + 11 * i)))),
      regions := (List.range nae).map (fun i =>
        let k := 1 + 2 * nce + 11 * nse + 4 * i
        (pairOf (ws.getD k 0) (ws.getD (k + 1) 0), if ws.getD (k + 2) 0 = 0 then 65536 else 2 ^ 21, (ws.getD (k + 3) 0).toNat)) }

/-- A scope entry names an id whose installed mask differs, while a launch that listed the id has not ended: cause 10 (15 R339). -/
def State.scopeConflict (s : State) (slot : Nat) (e : Nat × BitVec 320) : Bool :=
  (Sparse.get {} (s.slot slot).scopes e.1).mask != e.2 &&
    (s.slot slot).objs.any (fun o => !o.ended && o.scopes.any (fun x => x.1 == e.1))

/-- The runtime issues an `aopen` with OP 1 on a page of a region (15 R339), as an operation of no thread for the launch, whose units wait for
it. One that the checks of 12 R266 would refuse, on a page that is not mapped as a writable append-seal page, or on an unreachable peer, is
passed over (DESIGN CHOICE, assumption 72). -/
def State.openPage (s : State) (slot : Nat) (launch : Word) (a : Pair) : State :=
  match s.walkNow slot (va57 a) with
  | .failed _ => s
  | .found x =>
    if x.cls ≠ 2 || !x.w || !canonical a || (x.peer.bind (s.peerCheck slot)).isSome then s
    else
      s.addOp { id := s.nextId, tid := 0, slot := slot, launch := launch, unit := 0, uix := 0, group := 0, core := 0, tslot := 0, cls := .none,
                pc := 0, word := 0, kind := .aopen (mkAccess x a 4 0) 1, since := s.coreClock 0 }

/-- The runtime opens the pages of an annex for a launch (15 R339, 02 R59). -/
def State.openPages (s : State) (slot : Nat) (launch : Word) (x : Annex) : State :=
  x.regions.foldl (fun s r =>
    (List.range r.2.2).foldl (fun s i => s.openPage slot launch (r.1 + BitVec.ofNat 64 (i * r.2.1))) s) s

/-- The runtime writes the scope entries of an annex (15 R339). An entry whose id lies outside 4 to 10 writes nothing (DESIGN CHOICE,
assumption 100). -/
def State.applyScopes (s : State) (slot : Nat) (x : Annex) : State :=
  x.scopes.foldl (fun s e => s.setScope slot e.1 true e.2) s

/-- The words of a launch message: its descriptor and its annex; none where the length is not theirs (16 R372). -/
def splitLaunch (len : Nat) (ws : List Word) : Option (List Word × Annex) :=
  let ax := (ws.getD 6 0).getLsbD 28
  if len ≠ ws.length || ws.length < 32 then none
  else if !ax then (if ws.length = 32 then some (ws, {}) else none)
  else (readAnnex (ws.drop 32)).map (fun x => (ws.take 32, x))

/-- A launch that a message carries: the handle and the cause (15 R340). -/
def State.launchFrom (s : State) (h : MsgHead) (ws : List Word) : State × Word × Nat :=
  match splitLaunch h.len ws with
  | none => (s, 0, 1)
  | some (d, x) =>
    let o : Obj := { handle := 0, parent := 0, desc := d, creels := x.creels, scopes := x.scopes,
                     level := if h.hyp then .hypervisor else .user }
    match s.launchCause h.vf none false o with
    | 0 =>
      if x.scopes.any (s.scopeConflict h.vf) then (s, 0, 10)
      else
        let r := (s.applyScopes h.vf x).launch h.vf none false o
        (r.1.openPages h.vf r.2.1 x, r.2)
    | c => (s, 0, c)

/-- A launch message (16 R372); in Idle it returns the module to Run (16 R379). -/
def State.doLaunch (s : State) (h : MsgHead) (payload : List Word) : State :=
  if (s.slot h.vf).ended then s.reply h.vf [1]
  else
    let r := s.launchFrom h payload
    let s := if r.2.2 = 0 && r.1.pwr == .idle then { r.1 with pwr := .run } else r.1
    s.reply h.vf [0, r.2.1, BitVec.ofNat 32 r.2.2]

/-! ### Cancel, pre-empt, counts, registers -/

/-- A cancel message (15 R345). -/
def State.doCancel (s : State) (h : MsgHead) (obj : Word) : State :=
  (s.cancel h.vf obj).reply h.vf [0]

/-- A pre-empt message: every resident unit of an object, with a bound (15 R351). -/
def State.doPreempt (s : State) (h : MsgHead) (obj bound : Word) : State :=
  (match s.obj? h.vf obj with
   | some o => if o.ended then s else s.askPre h.vf obj bound.toNat
   | none => s).reply h.vf [0]

/-- A message that reads a done count and a status (15 R342, 16 R372). -/
def State.doCounts (s : State) (h : MsgHead) (obj : Word) : State :=
  s.reply h.vf ([0] ++ s.countWords h.vf (some obj) 0 ++ s.countWords h.vf (some obj) 1)

/-- A hypervisor's message reads or writes a system register (16 R363, R372). -/
def State.doRegister (s : State) (h : MsgHead) (write : Bool) (n : Reg) (sel value : Word) : State :=
  if 18 ≤ n.toNat then s.reply h.vf [1]
  else if write then (s.sysWrite n.toNat sel value).reply h.vf [0]
  else s.reply h.vf [0, s.sysRead n.toNat sel]

/-! ### Security, debug and power states (16 R378 to R380, R392) -/

/-- Every context ends (16 R380, R392). -/
def State.dropContexts (s : State) : State := (List.range 16).foldl State.dropContext s

/-- No unit is resident. -/
def State.noUnits (s : State) : Bool := s.units.isEmpty

/-- Clehild saves every resident unit for a change that waits for it (16 R372, R380). -/
def State.saveUnits (s : State) : State :=
  { s with units := s.units.map (fun u => if u.pre.isNone then { u with pre := some .save, stopped := true, wants := [] } else u) }

/-- A module reset (16 R392). Memory keeps what it holds; the counters of the model and the host's side of the channel go on. Clehild
sets the device id and the number of groups anew, from the domain configuration that the host gives it (14 R314): free values here, a
device id that names a module and 1 to 513 groups. -/
def State.moduleReset (s : State) : State :=
  let t := s.dropContexts
  { State.reset with
    mem := t.mem, codes := t.codes, outbox := t.outbox, sentPackets := t.sentPackets, sentBeats := t.sentBeats, streamed := t.streamed,
    dev := Config.freeNat t.fresh % (513 * 32), groups := 1 + Config.freeNat (t.fresh + 1) % 513,
    now := t.now, agenda := t.agenda, fresh := t.fresh + 2, nextId := t.nextId,
    clehild := { epoch := (t.clehild.epoch + 1) % 2 ^ 32 } }

/-- The board's reset, or the end of an Off cycle (16 R392). -/
def execModuleReset (s : State) : Out := .next s.moduleReset

/-- Off is entered: every context ends, on-package memory is lost (16 R380). -/
def State.enterOff (s : State) : State :=
  let t := s.dropContexts
  { t with mem := t.mem.filter (fun (p : Nat × Byte) => 2 ^ 40 ≤ p.1), codes := t.codes.filter (fun p => 2 ^ 35 ≤ p.1), sec := .boot, dbg := .off, pwr := .off,
           clehild := { t.clehild with pending := none } }

/-- SEC of a requested word. -/
def wantSec (w : Word) : Option Sec :=
  match w.toNat / 2 ^ 30 with
  | 0 => some .boot | 1 => some .opened | 2 => some .tenant | _ => none

/-- DBG of a requested word. -/
def wantDbg (w : Word) : Option Dbg :=
  match w.toNat / 2 ^ 28 % 4 with
  | 0 => some .off | 1 => some .observe | 2 => some .halt | _ => none

/-- PWR of a requested word. -/
def wantPwr (w : Word) : Pwr :=
  match w.toNat / 2 ^ 26 % 4 with
  | 0 => .run | 1 => .idle | 2 => .retention | _ => .off

/-- A change of the security state alone (16 R380). -/
def State.toSec (s : State) (want : Sec) : Option State :=
  match s.sec, want with
  | .boot, .opened => if s.clehild.measurement.isSome then some { s with sec := .opened } else none
  | .opened, .tenant => if s.dbg != .halt && s.clehild.quoted then some { s with sec := .tenant } else none
  | .tenant, .opened =>
    let t := s.dropContexts
    some { t with sec := .opened, clehild := { t.clehild with quoted := false } }
  | _, _ => none

/-- A change of the debug state alone (16 R380). -/
def State.toDbg (s : State) (want : Dbg) : Option State :=
  match s.sec, want with
  | .opened, d => some { s with dbg := d }
  | .tenant, .halt => none
  | .tenant, d => some { s with dbg := d }
  | .boot, _ => none

/-- A state request (16 R378, R380): the requested word has the layout of `sys.state`, and changes one of the three variables. None
where it is refused; a change that waits for units to be saved is answered when it is made. -/
def State.request21 (s : State) (slot : Nat) (w : Word) : Option State :=
  let pwr := wantPwr w
  if s.pwr = .off then (if pwr = .run then some (s.moduleReset.reply slot [0]) else none)
  else if pwr = .off then some (s.enterOff.reply slot [0])
  else
    match wantSec w, wantDbg w with
    | some sec, some dbg =>
      if pwr ≠ s.pwr then
        if sec ≠ s.sec || dbg ≠ s.dbg || s.sec == .boot then none
        else if pwr = .run then some (({ s with pwr := .run } : State).reply slot [0])
        else if s.pwr ≠ .run || s.clehild.pending.isSome then none
        else some ({ s with clehild := { s.clehild with pending := some { pwr := some pwr, slot := slot } } } : State).saveUnits
      else if sec ≠ s.sec then (if dbg ≠ s.dbg then none else (s.toSec sec).map (fun s => s.reply slot [0]))
      else if dbg ≠ s.dbg then (s.toDbg dbg).map (fun s => s.reply slot [0])
      else none
    | _, _ => none

/-- A state request (16 R380). -/
def State.doRequest (s : State) (h : MsgHead) (want : Word) : State :=
  (s.request21 h.vf want).getD (s.reply h.vf [1])

/-- A change that waited for the last unit is made: `l2wb` with both bits, then the power state or the stream of the checkpoint
(16 R372, R380). -/
def State.sweepPower (s : State) : State :=
  match s.clehild.pending with
  | none => s
  | some p =>
    if !s.noUnits then s
    else
      let s := s.writeBack true true
      let s := { s with clehild := { s.clehild with pending := none } }
      match p.pwr with
      | some pwr => ({ s with pwr := pwr } : State).reply p.slot [0]
      | none => ({ s.egressCheck with streamed := s.streamed ++ [(p.tier, s.mem.filter (fun (c : Nat × Byte) => c.1 < 2 ^ 40))] } : State).reply p.slot [0]

/-! ### Firmware, attestation, checkpoints (16 R372, R381, R382) -/

/-- A firmware image: the boot ROM accepts it with the fused key, a signature that verifies and a version that is not too old
(16 R381). -/
def State.doFirmware (s : State) (h : MsgHead) (image : List Byte) (version : Nat) (key : List Byte) (r q : BitVec 256) : State :=
  if s.sec != .boot then s.reply h.vf [1]
  else if sha256 key = Config.fusedKeyDigest && ecdsaVerify (Config.keyPoint key).1 (Config.keyPoint key).2 (sha256 image) r q &&
      decide (Config.fusedMinVersion ≤ version) then
    ({ s with sec := .opened, clehild := { s.clehild with measurement := some (sha256 image) } } : State).reply h.vf [0]
  else s.reply h.vf [2]

/-- The words of a number, least significant first: so a quote holds its items of 256 bits (DESIGN CHOICE, assumption 73). -/
def wordsOf (n x : Nat) : List Word := (List.range n).map (fun i => BitVec.ofNat 32 (x / 2 ^ (32 * i)))

/-- What a quote holds before its signature (16 R382), in the rule's order. -/
def State.quoteWords (s : State) (slot : Nat) (nonce : List Byte) : List Word :=
  wordsOf 8 ((s.clehild.measurement.getD 0).toNat) ++ [BitVec.ofNat 32 s.dev] ++
    wordsOf 1 (s.sysValue 3 slot 0) ++ wordsOf 1 (s.sysValue 4 slot 0) ++ wordsOf 1 (s.sysValue 13 slot 0) ++
    wordsOf 10 (s.sysValue 14 slot 0) ++ wordsOf 2 (s.sysValue 12 slot 0) ++ wordsOf 8 (leNat nonce)

/-- A quote with its ECDSA P-256 signature by the identity key (r, then s) and the identity certificate (16 R382, 01 R17). -/
def State.quote (s : State) (slot : Nat) (nonce : List Byte) : List Word :=
  let q := s.quoteWords slot nonce
  let digest := sha256 (wordBytes q)
  let sig := ecdsaSign Config.identityKey digest (Config.signNonce digest) 9
  q ++ wordsOf 8 sig.1.toNat ++ wordsOf 8 sig.2.toNat ++ Config.identityCertificate

/-- An attestation request (16 R382). -/
def State.doAttest (s : State) (h : MsgHead) (nonce : List Byte) (slot : Nat) : State :=
  if nonce.length ≠ 32 || 16 ≤ slot then s.reply h.vf [1]
  else
    (if s.sec = .opened then { s with clehild := { s.clehild with quoted := true } } else s).send 0x22 h.vf (s.quote slot nonce)

/-- A checkpoint saves every unit, writes the L2 back and streams on-package memory to the tier that the message names; a restore puts the
bytes that the tier delivers back (16 R372). -/
def State.doCheckpoint (s : State) (h : MsgHead) (restore : Bool) (tier : Nat × List (Nat × Byte)) : State :=
  if restore then
    if !s.noUnits then s.reply h.vf [1]
    else
      let far := s.mem.filter (fun (p : Nat × Byte) => 2 ^ 40 ≤ p.1)
      let mem := tier.2.foldl (fun m (p : Nat × Byte) => if p.1 < 2 ^ 40 then Memory.write m p.1 p.2 else m) far
      let cores := s.cores.map (fun (p : Nat × Core) => (p.1, { p.2 with l1 := [] }))
      let dies := s.dies.map (fun (p : Nat × Die) => (p.1, { p.2 with remote := [] }))
      ({ s with mem := mem, codes := s.codes.filter (fun p => 2 ^ 35 ≤ p.1), cores := cores, dies := dies, homeDirty := [] } : State).reply h.vf [0]
  else if s.clehild.pending.isSome then s.reply h.vf [1]
  else ({ s with clehild := { s.clehild with pending := some { pwr := none, slot := h.vf, tier := tier.1 } } } : State).saveUnits

/-! ### Debug requests (16 R379) -/

/-- The 4,224 bits of a Block Table entry (04 R84). -/
def State.entryBits (s : State) (core : Nat) (e : Entry) : Nat :=
  let ws := s.waiters core e
  let vec := fun (l : List Thread) => l.foldl (fun n t => n + 2 ^ t.slot) 0
  vec ws * 2 ^ 2176 + vec (ws.filter (fun t => t.isReady)) * 2 ^ 128 + 2 ^ 127 + bit e.resume * 2 ^ 126 + bit e.blk.gath * 2 ^ 125 +
    s.age core e * 2 ^ 107 + (e.cid * 32 + e.launchNo) * 2 ^ 96 + e.pc.toNat / 4 % 2 ^ 55 * 2 ^ 41

/-- The Block Table of a core: for each entry its index and its 132 words. -/
def State.tableWords (s : State) (core : Nat) : List Word :=
  (s.core core).table.flatMap (fun (p : Nat × Entry) => BitVec.ofNat 32 p.1 :: wordsOf 132 (s.entryBits core p.2))

/-- The thread of a core and a thread slot. -/
def State.threadAt (s : State) (core slot : Nat) : Option Thread := s.threads.find? (fun t => t.core == core && t.slot == slot)

/-- The code of a creel slot's state. -/
def CreelSlot.code (x : CreelSlot) : Nat :=
  match x with
  | .free => 0 | .claimedCopy => 1 | .claimedPost => 2 | .filled => 3 | .taken => 4

/-- The state of a creel as a debug request reads it (the layout is the model's). -/
def Creel.words (c : Creel) : List Word :=
  ([bit c.v, c.base, c.size, c.n, c.h, bit c.o, c.freeCount, c.filledCount] ++ (List.range c.n).map (fun i => (c.slotAt i).code)).map
    (fun n => BitVec.ofNat 32 n)

/-- The registers of a PARKED thread: value and tag in turn. -/
def Thread.regWords (t : Thread) : List Word :=
  (List.range t.budget).flatMap (fun i => [t.val (BitVec.ofNat 7 i), BitVec.ofNat 32 (t.reg (BitVec.ofNat 7 i)).tag.code])

/-- Link states, power grants and corrected-error counts, which the Tenant state lets a debug request read. -/
def State.countsWords (s : State) : List Word :=
  ((List.range Config.links).map (fun n => match (Sparse.get ({} : Link) s.links n).state with
    | .down => 0 | .training => 1 | .up => 2 | .dark => 3) ++
   (List.range Config.dies).map (fun d => (s.die d).gate * 2 ^ 16 + (s.die d).grant) ++
   (List.range Config.dies).map (fun d => (s.die d).ce)).map (fun n => BitVec.ofNat 32 n)

/-- What a debug request reads, in a state that serves it (16 R379). -/
def State.debugRead (s : State) (q : DebugQuery) : Option (List Word) :=
  match q with
  | .table core => some (s.tableWords core)
  | .barrier u i => (s.unit? u).map (fun u => [(Sparse.get {} u.barriers i).word])
  | .creel u i => (s.unit? u).map (fun u => (Sparse.get {} u.creels i).words)
  | .record core slot => (s.threadAt core slot).map (fun t => t.recordWords)
  | .regs core slot => ((s.threadAt core slot).filter (fun t => t.state == .parked)).map (fun t => t.regWords)
  | .counts => some s.countsWords
  | .state => some [BitVec.ofNat 32 s.stateWord]
  | _ => none

/-- What a debug request changes in Halt: a register of a PARKED thread, a unit's strand formation, a thread parked by `brk`
(16 R369, R379). -/
def State.debugWrite (s : State) (q : DebugQuery) : Option State :=
  match q with
  | .writeReg core slot r v tag =>
    ((s.threadAt core slot).filter (fun t => t.state == .parked && decide (r.toNat < t.budget))).map (fun t =>
      s.setThread (t.setReg r v (Tag.ofCode tag)))
  | .stopUnit u => (s.unit? u).map (fun _ => s.mapUnit u (fun u => { u with halted := true }))
  | .resumeUnit u => (s.unit? u).map (fun _ => s.mapUnit u (fun u => { u with halted := false }))
  | .resumeThread core slot =>
    ((s.threadAt core slot).filter (fun t => t.state == .parked && t.record.code == 0x0206)).map (fun t =>
      s.resumeAt t.tid (t.resumePoint 1) t.parkBlk)
  | _ => none

/-- A debug request in the module's state: what it reads or changes, none where the state does not serve it (16 R379). -/
def State.debug (s : State) (q : DebugQuery) : Option (State × List Word) :=
  if s.dbg = .off then none
  else if s.pwr = .retention then (if q = .state then (s.debugRead q).map (fun ws => (s, ws)) else none)
  else
    match s.sec with
    | .boot => if q = .bootLog then some (s.stir, [Config.freeWord s.fresh]) else none
    | .tenant => if q = .counts then (s.debugRead q).map (fun ws => (s, ws)) else none
    | .opened =>
      match s.debugRead q with
      | some ws => some (s, ws)
      | none => if s.dbg = .halt then (s.debugWrite q).map (fun s => (s, [])) else none

/-- A debug request (16 R379). -/
def State.doDebug (s : State) (h : MsgHead) (q : DebugQuery) : State :=
  match s.debug q with
  | some r => r.1.send 0x30 h.vf r.2
  | none => s.reply h.vf [1]

/-! ### Power and soft errors (16 R376, R377) -/

/-- GATE at the end of an interval: one sixteenth more for a die above its grant, up to 15, one less for a die below it, down to 0
(16 R377). -/
def gateStep (aboveGrant : Bool) (gate : Nat) : Nat := if aboveGrant then Nat.min 15 (gate + 1) else gate - 1

/-- A die's interval of 4 µs, 2,400 cycles (01 R17), has ended (16 R377). -/
def Die.intervalOver (d : Die) (clock : Nat) : Bool := decide (d.gateAt + 2400 ≤ clock)

/-- The grants of the other compute dies, in tenths of a watt. -/
def State.otherGrants (s : State) (die : Nat) : Nat :=
  (((List.range Config.dies).filter (fun d => d != die)).map (fun d => (s.die d).grant)).foldl (fun n g => n + g) 0

/-- A grant comes to a die: the arbiter grants the eight dies 2,200 W together. GATE steps where the die's interval has ended (16 R377). -/
def execPowerGrant (die grant : Nat) (aboveGrant : Bool) (s : State) : Out :=
  if !dieOk die then .fault (.noSuchDie die)
  else if 22000 < grant + s.otherGrants die then .next s
  else
    let now := s.clock die
    .next (s.mapDie die (fun d =>
      let d := { d with grant := grant, grantAt := now }
      if d.intervalOver now then { d with gate := gateStep aboveGrant d.gate, gateAt := now } else d))

/-- An interval of a die ends without a grant: GATE steps, up or down as the die's power lies, which is an open choice here. A die without a
grant for 12 µs, 7,200 cycles (01 R17), uses 150 W (16 R377). -/
def execPowerGrantTimeout (die : Nat) (s : State) : Out :=
  if !dieOk die then .fault (.noSuchDie die)
  else
    let now := s.clock die
    if !(s.die die).intervalOver now then .next s
    else
      .next (s.stir.mapDie die (fun d =>
        { d with grant := if d.grantAt + 7200 ≤ now then 1500 else d.grant, gate := gateStep (Config.freeChoice s.fresh) d.gate, gateAt := now }))

/-- A corrected soft error is counted, up to the counter's end (16 R376). -/
def execSoftErrorCorrected (die : Nat) (s : State) : Out :=
  if !dieOk die then .fault (.noSuchDie die)
  else .next (s.mapDie die (fun d => { d with ce := Nat.min (2 ^ 32 - 1) (d.ce + 1) }))

/-- An uncorrectable error: of an entry of a TLB or a walk cache, which is discarded and walked again; of other state of a core, which ends
every context with a unit there (16 R376); or of data that no instruction has consumed, at its home, in the die's remote partition or in the
core's L1, which the die's next error record reports, and whose half-sector then fails its check wherever it is read (01 R33, 16 R375). -/
def execUncorrectableStateError (core : Nat) (site : ErrorSite) (s : State) : Out :=
  if !coreOk core then .fault (.noSuchCore core)
  else
    match site with
    | .l1Tlb i => .next (s.mapCore core (fun c => { c with l1tlb := c.l1tlb.eraseIdx i }))
    | .l2Tlb i => .next (s.mapDie (dieOf core) (fun d => { d with l2tlb := d.l2tlb.eraseIdx i }))
    | .walkCache i => .next (s.mapDie (dieOf core) (fun d => { d with pointers := d.pointers.eraseIdx i }))
    | .data pa =>
      .next (({ s with codes := Sparse.set 0 s.codes (pa / 32) (freshError s.fresh) } : State).mapDie (dieOf core) (fun d =>
        { d with found := d.found ++ [pa] })).stir
    | .remoteData loc =>
      .next ((s.spoilRemote (dieOf core) loc (freshError s.fresh)).mapDie (dieOf core) (fun d =>
        { d with found := d.found ++ [loc % Config.placeSpan] })).stir
    | .l1Data loc =>
      .next ((s.spoilL1 core loc (freshError s.fresh)).mapDie (dieOf core) (fun d =>
        { d with found := d.found ++ [loc % Config.placeSpan] })).stir
    | .core =>
      let slots := (List.range 16).filter (fun k => s.units.any (fun u => u.core == core && u.slot == k))
      .next (slots.foldl (fun s k => s.endContext k (s.errorWords 4 (dieOf core) k 0 0 0 0 (BitVec.ofNat 32 (core * 2048)))) s)

/-! ### Delivery in order (16 R373) -/

/-- The header and the TYPE of a message. -/
def HostMsg.head (m : HostMsg) : MsgHead × Nat :=
  match m with
  | .create h _ _ => (h, 0x10)
  | .close h _ => (h, 0x11)
  | .launch h _ => (h, 0x12)
  | .cancel h _ => (h, 0x13)
  | .preempt h _ _ => (h, 0x14)
  | .counts h _ => (h, 0x15)
  | .register h _ _ _ _ => (h, 0x20)
  | .request h _ => (h, 0x21)
  | .attest h _ _ => (h, 0x22)
  | .firmware h _ _ _ _ _ => (h, 0x23)
  | .checkpoint h _ _ => (h, 0x24)
  | .debug h _ => (h, 0x30)

/-- What a delivered message does. -/
def State.actOn (s : State) (m : HostMsg) : State :=
  match m with
  | .create h level parent => s.doCreate h level parent
  | .close h obj => s.doClose h obj
  | .launch h payload => s.doLaunch h payload
  | .cancel h obj => s.doCancel h obj
  | .preempt h obj bound => s.doPreempt h obj bound
  | .counts h obj => s.doCounts h obj
  | .register h write n sel value => s.doRegister h write n sel value
  | .request h want => s.doRequest h want
  | .attest h nonce slot => s.doAttest h nonce slot
  | .firmware h image version key r q => s.doFirmware h image version key r q
  | .checkpoint h restore tier => s.doCheckpoint h restore tier
  | .debug h q => s.doDebug h q

/-- A message is delivered: its number is passed, it is refused or performed. -/
def State.deliver (s : State) (m : HostMsg) : State :=
  let h := m.head.1
  let s := ({ s with clehild := { s.clehild with nextIn := (s.clehild.nextIn + 1) % 2 ^ 32 } } : State).takeAck h.ack
  if badHead h m.head.2 || !s.serves m.head.2 then s.reply h.vf [1] else s.actOn m

/-- The messages that waited behind a gap that has closed are delivered in order. -/
def State.releaseWaiting (s : State) (n : Nat) : State :=
  match n with
  | 0 => s
  | n + 1 =>
    match s.clehild.waiting.find? (fun m => m.head.1.seq == s.clehild.nextIn && m.head.1.epoch == s.clehild.epoch) with
    | none => s
    | some m =>
      let rest := s.clehild.waiting.filter (fun x => x.head.1.seq != m.head.1.seq)
      State.releaseWaiting (({ s with clehild := { s.clehild with waiting := rest } } : State).deliver m) n

/-- Delivers what waits, as far as there is no gap. -/
def State.closeGap (s : State) : State := s.releaseWaiting s.clehild.waiting.length

/-- A message arrives (16 R373): it is delivered in the order of its number; a duplicate is acknowledged again; one past a gap waits,
up to 4,096 of them. A message of another epoch is acknowledged and not delivered. -/
def State.receive (s : State) (m : HostMsg) : State :=
  let h := m.head.1
  let gap := seqGap s.clehild.nextIn h.seq
  if h.epoch ≠ s.clehild.epoch then s.reply h.vf []
  else if gap = 0 then (s.deliver m).closeGap
  else if 2 ^ 31 ≤ gap then s.reply h.vf []
  else if s.clehild.waiting.any (fun w => w.head.1.seq == h.seq) || 4096 ≤ s.clehild.waiting.length then s
  else { s with clehild := { s.clehild with waiting := s.clehild.waiting ++ [m] } }

/-- A query is answered with the delivery point (16 R373). -/
def execHostQuery (h : MsgHead) (s : State) : Out := .next (s.receiveNow h 0x01 (fun s => s.send 0x02 h.vf [s.delivered])).closeGap

/-- The reply to a query: everything after the host's delivery point is sent again (16 R373). -/
def execQueryReply (h : MsgHead) (delivered : Word) (s : State) : Out :=
  .next (s.receiveNow h 0x02 (fun s => (s.takeAck delivered.toNat).resend)).closeGap

/-- An acknowledgement or refusal (16 R373): its header releases what it covers. -/
def execAcknowledgement (h : MsgHead) (s : State) : Out := .next (s.receiveNow h 0x03 (fun s => s)).closeGap

/-- A create message (TYPE 0x10) makes a job, phase or graph (16 R372). -/
def execCreateObject (h : MsgHead) (level parent : Word) (s : State) : Out :=
  .next (s.receive (.create h level parent))

/-- A close message (TYPE 0x11, 15 R341). -/
def execCloseObject (h : MsgHead) (obj : Word) (s : State) : Out :=
  .next (s.receive (.close h obj))

/-- A launch message (TYPE 0x12, 16 R372). -/
def execLaunchMessage (h : MsgHead) (payload : List Word) (s : State) : Out :=
  .next (s.receive (.launch h payload))

/-- A cancel message (TYPE 0x13, 15 R345). -/
def execCancelMessage (h : MsgHead) (obj : Word) (s : State) : Out :=
  .next (s.receive (.cancel h obj))

/-- A pre-empt message (TYPE 0x14, 15 R351). -/
def execPreemptMessage (h : MsgHead) (obj bound : Word) (s : State) : Out :=
  .next (s.receive (.preempt h obj bound))

/-- A message that reads a done count and a status (TYPE 0x15, 15 R342). -/
def execCountReadMessage (h : MsgHead) (obj : Word) (s : State) : Out :=
  .next (s.receive (.counts h obj))

/-- A hypervisor's message that writes or reads a system register (TYPE 0x20, 16 R363). -/
def execSystemRegisterMessage (h : MsgHead) (write : Bool) (n : Reg) (sel value : Word) (s : State) : Out :=
  .next (s.receive (.register h write n sel value))

/-- A state request (TYPE 0x21, 16 R380). -/
def execStateRequest (h : MsgHead) (want : Word) (s : State) : Out :=
  .next (s.receive (.request h want))

/-- An attestation request (TYPE 0x22, 16 R382). -/
def execAttestationRequest (h : MsgHead) (nonce : List Byte) (slot : Nat) (s : State) : Out :=
  .next (s.receive (.attest h nonce slot))

/-- A firmware image (TYPE 0x23, 16 R381). -/
def execFirmwareImage (h : MsgHead) (image : List Byte) (version : Nat) (key : List Byte) (r q : BitVec 256) (s : State) : Out :=
  .next (s.receive (.firmware h image version key r q))

/-- A checkpoint or its restore (TYPE 0x24, 16 R372). -/
def execCheckpoint (h : MsgHead) (restore : Bool) (tier : Nat × List (Nat × Byte)) (s : State) : Out :=
  .next (s.receive (.checkpoint h restore tier))

/-- A debug request (TYPE 0x30, 16 R379). -/
def execDebugRequest (h : MsgHead) (q : DebugQuery) (s : State) : Out :=
  .next (s.receive (.debug h q))

end Sys2Proof.Machine
end

