-- ==== Sys2Proof/Machine/Lane.lean ====
section
/-!
DEFINITION. Lane instructions, major 0x0B (05 R132 to R135): the threads of one group read each other's registers.
-/
namespace Sys2Proof.Machine

/-- Writes what each thread of a list gets. -/
def writeAll (s : State) (ts : List Thread) (f : Thread → Thread) : State := ts.foldl (fun s t => s.setThread (f t)) s

/-- A lane instruction: `f` has the group's width, the active set A in ascending lane order, the field's fraction width of
each thread, and the thread that gets the result (05 R132). -/
def laneWord (named : List Reg) (reads : List (Cls × Reg)) (f : Nat → (Thread → Nat) → List Thread → Thread → Thread) (s : State) :
    State :=
  issue ({ shape := fun _ => { named := named, reads := reads }, lane := true, pre := noCheck,
           act := fun s _ l =>
             let ts := l.filterMap (fun p => s.thread? p.1)
             let w := match ts with
               | [] => 1
               | t :: _ => (s.spanOf t).2
             (writeAll s ts (f w (fun t => (s.fieldFrac t).getD 0) ts), l.map (fun p => (p.1, .go))) }) s

/-- The relative lane of a thread in a group of width w (05 R132). -/
def relLane (w : Nat) (t : Thread) : Nat := t.lane % w

/-- `from(l, t)`: the register of the lane at relative index `j` if that lane is in A, the thread's own otherwise (05 R134). -/
def fromLane (w : Nat) (ts : List Thread) (t : Thread) (a : Reg) (j : Int) : RegVal :=
  if j < 0 || (w : Int) ≤ j then t.reg a
  else
    match ts.find? (fun u => (relLane w u : Int) == j) with
    | some u => u.reg a
    | none => t.reg a

/-- A shuffle: each lane takes the register of the lane that `j` names (05 R134, fn 0 to 4). -/
def shuffle (named : List Reg) (reads : List (Cls × Reg)) (d a : Reg) (j : Nat → Nat → Thread → Int) (s : State) : State :=
  laneWord named reads (fun w k ts t =>
    let v := fromLane w ts t a (j w (k t) t)
    t.setReg d v.val v.tag) s

/-- `bcast` (05 R134). -/
def execBcast (d a b : Reg) (s : State) : Out := .next (shuffle [d, a] [(.any, a)] d a (fun _ _ _ => b.toNat) s)

/-- `shfl` (05 R134). -/
def execShfl (d a b : Reg) (s : State) : Out :=
  .next (shuffle [d, a, b] [(.any, a), (.int, b)] d a (fun _ k t => (t.rd k .int b).toNat) s)

/-- `shfx` (05 R134). -/
def execShfx (d a b : Reg) (s : State) : Out :=
  .next (shuffle [d, a, b] [(.any, a), (.int, b)] d a (fun w k t => Nat.xor (relLane w t) (t.rd k .int b).toNat) s)

/-- `shfup` (05 R134). -/
def execShfup (d a b : Reg) (s : State) : Out :=
  .next (shuffle [d, a, b] [(.any, a), (.int, b)] d a (fun w k t => (relLane w t : Int) - (t.rd k .int b).toNat) s)

/-- `shfdn` (05 R134). -/
def execShfdn (d a b : Reg) (s : State) : Out :=
  .next (shuffle [d, a, b] [(.any, a), (.int, b)] d a (fun w k t => (relLane w t : Int) + (t.rd k .int b).toNat) s)

/-- `vote.any` (05 R134). -/
def execVoteAny (d a : Reg) (s : State) : Out :=
  .next (laneWord [d, a] [(.any, a)] (fun _ _ ts t => t.setReg d (flag (ts.any (fun u => u.val a != 0))) .int) s)

/-- `vote.all` (05 R134). -/
def execVoteAll (d a : Reg) (s : State) : Out :=
  .next (laneWord [d, a] [(.any, a)] (fun _ _ ts t => t.setReg d (flag (ts.all (fun u => u.val a != 0))) .int) s)

/-- The sum of 2^j over the lanes of A whose register is not zero (05 R134, `vote.mask`). -/
def voteMask (w : Nat) (a : Reg) (ts : List Thread) : Nat :=
  ts.foldl (fun m u => if u.val a != 0 then m + 2 ^ relLane w u else m) 0

/-- `vote.mask` (05 R134). -/
def execVoteMask (d a : Reg) (s : State) : Out :=
  .next (laneWord (pairNames d ++ [a]) [(.any, a)] (fun w _ ts t => t.setPair d (BitVec.ofNat 64 (voteMask w a ts)) .x64) s)

/-- The sum of a register over lanes, low 32 bits (05 R134). -/
def laneSum (k : Thread → Nat) (a : Reg) (ts : List Thread) : Word := ts.foldl (fun m u => m + u.rd (k u) .int a) 0

/-- The lanes of A up to and including a thread's lane. -/
def upTo (ts : List Thread) (t : Thread) : List Thread := ts.filter (fun u => u.lane ≤ t.lane)

/-- `gred.add` (05 R134). -/
def execGredAdd (d a : Reg) (s : State) : Out :=
  .next (laneWord [d, a] [(.int, a)] (fun _ k ts t => t.setReg d (laneSum k a ts) .int) s)

/-- The best of a register over lanes by a choice of two, as i32 (05 R134). -/
def laneBest (k : Thread → Nat) (a : Reg) (pick : Word → Word → Word) (ts : List Thread) : Word :=
  match ts with
  | [] => 0
  | t :: r => r.foldl (fun m u => pick m (u.rd (k u) .int a)) (t.rd (k t) .int a)

/-- `gred.min` (05 R134). -/
def execGredMin (d a : Reg) (s : State) : Out :=
  .next (laneWord [d, a] [(.int, a)]
    (fun _ k ts t => t.setReg d (laneBest k a (fun x y => if x.toInt ≤ y.toInt then x else y) ts) .int) s)

/-- `gred.max` (05 R134). -/
def execGredMax (d a : Reg) (s : State) : Out :=
  .next (laneWord [d, a] [(.int, a)]
    (fun _ k ts t => t.setReg d (laneBest k a (fun x y => if x.toInt ≤ y.toInt then y else x) ts) .int) s)

/-- A NaN made canonical, also where a sum is the value of a single lane (05 R135; DESIGN CHOICE, assumption 108). -/
def canonNan (x : Word) : Word := if f32.isNan x.toNat then w32 f32.nan else x

/-- The sum S of R135 over lanes in ascending order, one rounding per addition; a NaN result is canonical. -/
def laneFsum (k : Thread → Nat) (a : Reg) (ts : List Thread) : Word :=
  match ts with
  | [] => 0
  | t :: r => canonNan (r.foldl (fun m u => w32 (f32.add 0 false m.toNat (u.rd (k u) .f32 a).toNat)) (t.rd (k t) .f32 a))

/-- `gred.fadd` (05 R135). -/
def execGredFadd (d a : Reg) (s : State) : Out :=
  .next (laneWord [d, a] [(.f32, a)] (fun _ k ts t => t.setReg d (laneFsum k a ts) .f32) s)

/-- `gscan.add` (05 R134). -/
def execGscanAdd (d a : Reg) (s : State) : Out :=
  .next (laneWord [d, a] [(.int, a)] (fun _ k ts t => t.setReg d (laneSum k a (upTo ts t)) .int) s)

/-- `gscan.fadd` (05 R135). -/
def execGscanFadd (d a : Reg) (s : State) : Out :=
  .next (laneWord [d, a] [(.f32, a)] (fun _ k ts t => t.setReg d (laneFsum k a (upTo ts t)) .f32) s)

/-- `gfirst` (05 R134). -/
def execGfirst (d a : Reg) (s : State) : Out :=
  .next (laneWord [d, a] [(.any, a)] (fun w _ ts t =>
    t.setReg d (match ts.find? (fun u => u.val a != 0) with
      | some u => BitVec.ofNat 32 (relLane w u)
      | none => 0xFFFFFFFF) .int) s)

end Sys2Proof.Machine
end

