-- ==== Sys2Proof/Machine/Peer.lean ====
section
/-!
DEFINITION. Requests of peers at this module (14 R317, R327), responses to this module's requests (14 R318, R327), resends and
remote errors (14 R327, R328, 11 R257). A request is performed by an operation of no thread, which is answered as it completes.
The layout of operands in packets is the model's (assumption log).
-/
namespace Sys2Proof.Machine

/-! ### Operands of packets -/

/-- A little-endian number of n bytes at an offset of a packet's data. -/
def pktNum (p : Packet) (off n : Nat) : Nat := leNat ((p.data.drop off).take n)

/-- The words of a packet's data. -/
def pktWords (p : Packet) (off n : Nat) : List Word := (List.range n).map (fun i => BitVec.ofNat 32 (pktNum p (off + 4 * i) 4))

/-- Bytes of the largest page size that the operands name. -/
def pktPageSize (p : Packet) : Nat := if pktNum p 28 4 / 2 % 2 = 1 then 2 ^ 21 else 2 ^ 16

/-! ### Acceptance (14 R317) -/

/-- The first byte and the count of the bytes that a request names. -/
def pktSpan (p : Packet) : Nat × Nat :=
  if p.typ = 9 && p.op < 8 then (p.addr / pktPageSize p * pktPageSize p, pktPageSize p)
  else if p.typ = 5 then (p.addr, p.len + 1 - 16)
  else (p.addr, p.len + 1)

/-- The lane of the thread of a request, how many requests its word sends, and the word's name (10 R212, 12 R263). -/
def pktWord (p : Packet) : Nat × Nat × Nat :=
  if p.typ = 3 || p.typ = 4 || p.typ = 6 || (p.typ = 9 && p.op < 8)
  then (pktNum p 24 4 / 2 ^ 16 % 64, pktNum p 24 4 / 2 ^ 24 % 64 + 1, pktNum p 28 4 / 8) else (0, 1, 0)

/-- A slot accepts a request: its tag is the packet's, its window is valid and holds every byte named, and a request that writes
finds WE set (14 R317). -/
def Slot.accepts (c : Slot) (p : Packet) : Bool :=
  let r := pktSpan p
  c.ctagV && c.ctag == p.ctag && c.expV && decide (c.expBase * 2 ^ 21 ≤ r.1) &&
    decide (r.1 + r.2 ≤ (c.expBase + c.expSize) * 2 ^ 21) && (p.typ == 1 || c.expWe)

/-- The slot that accepts a request. -/
def State.acceptor (s : State) (p : Packet) : Option Nat := (List.range 16).find? (fun n => (s.slot n).accepts p)

/-! ### Performing a request -/

/-- An operation that performs a request for the slot that accepted it. -/
def State.foreignOp (s : State) (p : Packet) (slot : Nat) (launch : Word) (uix group : Nat) (det : Bool) (kind : OpKind) : Op :=
  { id := s.nextId, tid := 0, slot := slot, launch := launch, unit := 0, uix := uix, group := group, core := homeDie p.addr * 40,
    tslot := 0, cls := .none, pc := 0, word := 0, detM := det, kind := kind, origin := some p, since := s.clock (homeDie p.addr) }

/-- The access that a request names. -/
def pktAccess (p : Packet) (z cls size : Nat) : Access :=
  { sp := 0, va := BitVec.ofNat 64 p.addr, loc := p.addr, z := z, cls := cls, pageLoc := p.addr / size * size, pageSize := size,
    pol := 1, w := true }

/-- The operation of an append-seal request (12 R266): the launch, U, group and flags stand behind four words. -/
def asealKind (p : Packet) : OpKind :=
  let a := pktAccess p 4 2 (pktPageSize p)
  match p.op with
  | 0 => .append a (pktWords p 0 1) none
  | 1 => .append a (pktWords p 0 2) none
  | 2 => .append a (pktWords p 0 4) none
  | 3 => .seal a
  | 4 => .free a
  | 5 => .aopen a (BitVec.ofNat 32 (pktNum p 0 4))
  | 6 => .status a false
  | _ => .status a true

/-- The operation of a read of an append-seal page. -/
def tailReadKind (p : Packet) : OpKind := .load (pktAccess p (p.len + 1) 2 (pktPageSize p)) false none

/-- An atomic request: its operation and its function (14 R320, OP). -/
def atomicKind (p : Packet) : OpKind :=
  let f := AtomFn.ofCode p.op
  .atomic (pktAccess p f.size 0 4096) f (BitVec.ofNat 64 (pktNum p 0 8)) (BitVec.ofNat 64 (pktNum p 8 8)) .home
    (pktNum p 28 4 / 2 % 2 == 1)

/-- The transfer of a first-lock request, whose coordinator this module is (11 R253): the lower cell is here. Its field is one of the
issuing module's context: numbers from 256 on name no field of this module. -/
def State.firstLockKind (s : State) (p : Packet) : OpKind :=
  let high := if pktNum p 8 4 = 2 ^ 32 - 1 then none
    else if pktNum p 8 4 = s.dev then some (pktNum p 12 8) else some (peerPlace (pktNum p 8 4) (pktNum p 12 8))
  let m : Word := BitVec.ofNat 32 (pktNum p 0 4)
  let fid := 256 + pktNum p 4 4 % 256
  if pktNum p 20 4 % 2 = 1 then .xfer fid 0 1 m (some p.addr) high .sent
  else .xfer fid 0 1 m high (some p.addr) .sent

/-- The transfer of a second-lock request: the higher cell is here, the lower one at the coordinator. Its field is one of this module
where this module issued the transfer. -/
def State.secondLockKind (s : State) (p : Packet) : OpKind :=
  let m : Word := BitVec.ofNat 32 (pktNum p 0 4)
  let fid := (if pktNum p 12 4 = s.dev then 0 else 256) + pktNum p 8 4 % 256
  let low := peerPlace p.src 0
  if pktNum p 4 4 % 2 = 1 then .xfer fid 0 1 m (some p.addr) (some low) .first
  else .xfer fid 0 1 m (some low) (some p.addr) .first

/-- The elements of a reduction packet are applied in ascending address order, as one event (14 R331). One whose claim is refused ends it,
with its place and the claim's U (10 R218). -/
def State.reduceAll (s : State) (o : Op) (loc : Nat) (f : AtomFn) (bs : List Byte) (n : Nat) : State × Option (Nat × Nat) :=
  match n with
  | 0 => (s, none)
  | n + 1 =>
    if bs.length < f.size then (s, none)
    else
      match s.homeAtomic o loc f (BitVec.ofNat 64 (leNat (bs.take f.size))) with
      | (s, some u) => (s, some (loc, u))
      | (s, none) => State.reduceAll s o (loc + f.size) f (bs.drop f.size) n

/-- A reduction or a drained line of a peer becomes an operation here, for the launch, U and group that its packet names; one that comes after the
erasure of its launch or unit leaves no claim and no held line (10 R218, 13 R307). -/
def State.addReduce (s : State) (p : Packet) (slot : Nat) (gone : Bool) : State :=
  let det := !gone && (if p.op < 24 then pktNum p 12 4 % 2 == 1 else pktNum p 12 4 / 2 % 2 == 1)
  s.addOp { s.foreignOp p slot (BitVec.ofNat 32 (pktNum p 0 4)) (if p.op < 24 then pktNum p 4 4 else pktNum p 8 4)
    (if p.op < 24 then pktNum p 8 4 else 0) det .reduction with claimless := gone }

/-- The line of a peer's strict drain (13 R305, R306). -/
def heldOf (o : Op) (p : Packet) : HeldLine :=
  { loc := p.addr, slot := o.claimSlot, launch := o.launch, k := pktNum p 4 4 % 256, n := pktNum p 4 4 / 256 + 1, cmd := o.id, line := 0,
    uix := o.uix, det := o.detM, wide := pktNum p 12 4 / 4 % 2 == 1, vals := pktWords p 16 32 }

/-- A reduction or a drained line of a peer is performed (14 R331, 13 R305); the NCU reads what it changes, whose check codes may fail
(16 R375). -/
def State.performReduce (s : State) (o : Op) (p : Packet) (bad : Bool) : State :=
  if o.served || o.arrived then s
  else if bad || s.homeBad p.addr (p.data.length - 16) then s.opError o p.addr 0
  else if p.op < 24 then
    let bs := p.data.drop 16
    match s.reduceAll o p.addr ((redFn p.op).getD .add) bs bs.length with
    | (s, some (loc, u)) => s.arriveFault o.id 0x0A01 (BitVec.ofNat 64 (loc - p.addr)) (BitVec.ofNat 32 u)
    | (s, none) => s.arrive o.id id
  else if p.op = 24 then (s.addLine p.addr (pktNum p 12 4 / 4 % 2 == 1) (pktWords p 16 32)).arrive o.id id
  else if o.claimless then s.arrive o.id id
  else
    let h := heldOf o p
    let r := (s.mapOp o.id (fun q => { q with served := true })).strictLine h true
    r.1.strictEnd h 0 r.2

/-- A batch of atomics arrives at its place, or the reduction of a peer's packet at its home (10 R212, 14 R331). `batch` names one of its
operations. -/
def execAtomicBatchArrival (batch : Nat) (bad : Bool) (s : State) : Out :=
  match s.op? batch with
  | none => .next s
  | some o =>
    match o.kind, o.origin with
    | .reduction, some p => .next (s.performReduce o p bad)
    | _, _ => .next (s.applyBatch o bad)

/-- The transfer of a peer's coordinator that holds the lock of a cell. -/
def State.lockedBy (s : State) (p : Packet) : Option Op :=
  s.ops.find? (fun o => o.second && (match o.origin with | some q => q.src == p.src | none => false) &&
    s.locks.any (fun l => l.op == o.id && l.cell == p.addr))

/-- A transfer step at the higher cell's home: second lock, commit, unlock (11 R253 to R255). -/
def State.performXfer (s : State) (p : Packet) (slot : Nat) : State :=
  match p.op with
  | 0 => s.addOp (s.foreignOp p slot 0 0 0 false (s.secondLockKind p))
  | 1 =>
    match s.lockedBy p with
    | none => s.respond p 8 3 []
    | some o =>
      match o.kind with
      | .xfer fid _ _ m pa pb _ =>
        ((s.changeCell o (pktNum p 4 4) fid m pa pb p.addr).mapOp o.id (fun q => { q with origin := some p })).setStep o.id .applied
      | _ => s
  | 2 =>
    match s.lockedBy p with
    | none => s.respond p 8 3 []
    | some o => ((s.unlockOne o.id p.addr).forget o.id).respond p 8 3 []
  | _ => s

/-- The counter updates of a transfer of this module that a peer's home has applied: the sets of the field take them, and the home is
answered when each has acknowledged (11 R240). The slot is the one of the packet's tag. -/
def State.applyOwed (s : State) (p : Packet) : State :=
  let fid := pktNum p 0 4
  let num := fun (off : Nat) => (BitVec.ofNat 64 (pktNum p off 8)).toInt
  match (List.range 16).find? (fun n => (s.slot n).ctagV && (s.slot n).ctag == p.ctag) with
  | none => s.respond p 8 3 []
  | some n =>
    let o := s.foreignOp p n 0 0 0 false (.xfer fid 0 0 0 none none .applied)
    (s.addOp o).sendUpdates o 0 fid [(fid % 8, 0, num 12, num 20, 0), (8, 0, num 12, num 20, 0),
      (9, num 4, num 12, num 20, (BitVec.ofNat 32 (pktNum p 28 4)).toInt)]


/-- An erasure concerns a launch, by its tag and handle, and where it names one only a unit. -/
def erases (e : Packet) (slot : Nat) (launch : Word) (uix : Nat) : Bool :=
  slot == 16 + e.src * 2 ^ 16 + e.ctag % 2 ^ 16 && launch == BitVec.ofNat 32 (pktNum e 0 4) && (pktNum e 4 4 != 1 || uix == pktNum e 8 4)

/-- A transaction number lies before another, modulo 2^16. -/
def txnBefore (a b : Nat) : Bool := decide (0 < (b + 2 ^ 16 - a) % 2 ^ 16) && decide ((b + 2 ^ 16 - a) % 2 ^ 16 < 2 ^ 15)

/-- A peer's launch has ended, or a unit of it was flushed: its claims here are erased and its held lines discarded, and with the launch its
merge records (10 R218, 12 R287, 13 R307). Operations of it here, and its earlier requests that come later, leave none; a discarded line is
answered. -/
def State.eraseFor (s : State) (p : Packet) : State :=
  let hit := erases p
  let lines := s.ops.filter (fun o => o.kind == .reduction && o.served && !o.arrived && hit o.claimSlot o.launch o.uix)
  let s := { s.dropClaims (fun o => o.origin.isSome && hit o.claimSlot o.launch o.uix) with
    gone := s.gone ++ [p],
    claims := s.claims.filter (fun c => !hit c.slot c.launch c.u),
    pages := s.pages.map (fun (q : Nat × PageRec) => (q.1, { q.2 with claims := q.2.claims.filter (fun c => !hit c.1 c.2.1 c.2.2.1) })),
    merges := s.merges.map (fun (m : Merge) => { m with held := m.held.filter (fun h => !hit h.slot h.launch h.uix) }),
    mergeWait := s.mergeWait.filter (fun h => !hit h.slot h.launch h.uix) }
  let s := if pktNum p 4 4 = 1 then s else
    { s with closedMarks := s.closedMarks.filter (fun m => !hit m.2.1 m.2.2 0), merges := s.merges.filter (fun m => !hit m.slot m.launch 0) }
  (lines.foldl (fun s o => s.arrive o.id id) s).respond p 0x11 0 []

/-- Sends the erasures that are due to every peer that a request of the context has gone to; no operation waits for their answers, and one to
a peer that is Down waits until it is not. -/
def State.sendErasures (s : State) : State :=
  s.claimsGone.foldl (fun s (e : Nat × Word × Option Nat) =>
    let o : Op := { id := 0, tid := 0, slot := e.1, launch := e.2.1, unit := 0, uix := 0, group := 0, core := 0, tslot := 0, cls := .none,
                    pc := 0, word := 0, kind := .drain 0 }
    if !(s.slot e.1).ctagV then s
    else
      (s.asks.filter (fun a => a.1 == e.1)).foldl (fun s a =>
        s.request o a.2 0 9 12 12 (leBytes 4 e.2.1.toNat ++ leBytes 4 (if e.2.2.isSome then 1 else 0) ++ leBytes 4 (e.2.2.getD 0)) 0) s)
    { s with claimsGone := [] }

/-- An accepted request is performed for a slot (14 R317 step 4). -/
def State.perform (s : State) (p : Packet) (slot : Nat) : State :=
  -- a launch that has ended since makes no claim (10 R218)
  let gone := fun (off u : Nat) => s.gone.any (fun e => txnBefore p.txn e.txn &&
    erases e (16 + p.src * 2 ^ 16 + p.ctag % 2 ^ 16) (BitVec.ofNat 32 (pktNum p off 4)) (pktNum p u 4))
  let whose := fun (off : Nat) (det : Bool) (k : OpKind) =>
    s.addOp { s.foreignOp p slot (BitVec.ofNat 32 (pktNum p off 4)) (pktNum p (off + 4) 4) (pktNum p (off + 8) 4 % 2 ^ 16) det k with
      claimless := gone off (off + 4) }
  let plain := fun (k : OpKind) => s.addOp (s.foreignOp p slot 0 0 0 false k)
  match p.typ with
  | 1 => if p.op = 2 then whose 16 (pktNum p 28 4 % 2 == 1) (tailReadKind p)
         else plain (.load (pktAccess p (p.len + 1) 0 4096) false none)
  | 2 => plain (.store (pktAccess p (p.len + 1) 0 4096) (p.data.take (p.len + 1)) none)
  | 3 => whose 16 (pktNum p 28 4 % 2 == 1) (atomicKind p)
  | 4 => whose 16 (pktNum p 28 4 % 2 == 1) (atomicKind p)
  | 5 => s.addReduce p slot (gone 0 (if p.op < 24 then 4 else 8))
  | 6 => whose 16 (pktNum p 28 4 % 2 == 1) (atomicKind p)
  | 7 => s.addOp (s.foreignOp p slot 0 0 0 (pktNum p 20 4 / 2 % 2 == 1) (s.firstLockKind p))
  | 8 => s.performXfer p slot
  | _ =>
    if p.op < 8 then whose 16 (pktNum p 28 4 % 2 == 1) (asealKind p)
    else if p.op = 8 then plain (.cellRead 256 0 (some p.addr) false)
    else if p.op = 11 then plain (.declare p.addr (pktNum p 0 4 == 1))
    else if p.op = 10 then plain (.cellRead 256 0 (some p.addr) true)
    else plain (.totals (pktNum p 0 4) (pktNum p 4 4) (pktNum p 8 4))

/-- The place that the requests of a word meet at: the NCU of an atomic, the page of an append-seal operation (10 R212, 12 R263). -/
def meetsAt (p : Packet) : Nat := if p.typ = 9 then p.addr else ncuOf p.addr

/-- The requests of a word of a peer's threads are performed together, in ascending lane order: they are one batch (10 R212, 12 R263). -/
def State.performWord (s : State) (ps : List (Packet × Nat)) : State :=
  let batch := s.nextId
  ((List.range 64).flatMap (fun l => ps.filter (fun g => (pktWord g.1).1 == l))).foldl (fun s g =>
    (s.perform g.1 g.2).mapOp s.nextId (fun o => { o with batch := batch })) s

/-- An accepted request is performed, with the others of its word at its place once they have all come. -/
def State.letIn (s : State) (p : Packet) (slot : Nat) : State :=
  let w := pktWord p
  if w.2.1 ≤ 1 then s.perform p slot
  else
    let mates := s.gathering.filter (fun g => g.1.src == p.src && g.1.typ == p.typ && (pktWord g.1).2.2 == w.2.2 &&
      meetsAt g.1 == meetsAt p)
    if mates.length + 1 < w.2.1 then { s with gathering := s.gathering ++ [(p, slot)] }
    else ({ s with gathering := s.gathering.filter (fun g => !mates.contains g) } : State).performWord (mates ++ [(p, slot)])

/-! ### Requests that arrive (14 R317, R327) -/

/-- The LOW of the newest packet of a source that this module has taken. -/
def State.lowOf (s : State) (src : Nat) : Option Nat :=
  match Sparse.get 0 s.lows src with
  | 0 => none
  | n + 1 => some n

/-- A request is a late duplicate: its source no longer holds its transaction, so it has had its response (14 R327). -/
def State.late (s : State) (p : Packet) : Bool :=
  match s.lowOf p.src with
  | none => false
  | some low => txnBefore p.txn low

/-- Remembered responses that the LOW of the newest packet of a source has passed are dropped, and the oldest beyond 4,096
(14 R327); so are requests that the source has given up while they wait for others of their word. A packet that an older one has
passed on its way lowers nothing. -/
def State.pruneResponses (s : State) (p : Packet) : State :=
  let low := match s.lowOf p.src with
    | none => p.low
    | some l => if txnBefore l p.low then p.low else l
  let keep := s.responses.filter (fun r => r.dst != p.src || !txnBefore r.txn low)
  let mine := keep.filter (fun r => r.dst == p.src)
  { s with lows := Sparse.set 0 s.lows p.src (low + 1),
           gathering := s.gathering.filter (fun g => g.1.src != p.src || !txnBefore g.1.txn low),
           gone := s.gone.filter (fun e => e.src != p.src || !txnBefore e.txn low),
           responses := if mine.length ≤ 4096 then keep
             else keep.filter (fun r => r.dst != p.src || (mine.drop (mine.length - 4096)).contains r) }

/-- A reclaim of replicas, passed to every die of this module (12 R280); the removal of a free's translations (12 R283 step 3). -/
def State.receiveReclaim (s : State) (p : Packet) : State :=
  if p.op = 0 then
    (((List.range Config.dies).foldl (fun s d => s.dropReplica d (peerPlace p.src p.addr)) s).staleReads p.src p.addr).respond p 10 1 []
  else s.removeFor p

/-- A request arrives. One that this module holds a response to is answered with it, and one in progress or long answered is left alone;
another is accepted and performed, or refused with cause 1 (14 R317, R327). -/
def execPeerRequestReceive (p : Packet) (s : State) : Out :=
  if p.dst ≠ s.dev then .next s
  else if p.typ = 0 || 10 < p.typ || (p.typ == 10 && p.op != 0 && p.op != 2) then .next s
  else
    let s := s.pruneResponses p
    match s.responses.find? (fun r => r.dst == p.src && r.txn == p.txn) with
    | some r => .next (s.inject r)
    | none =>
      if s.late p || s.gathering.any (fun g => g.1.src == p.src && g.1.txn == p.txn) ||
          s.ops.any (fun o => match o.origin with | some q => q.src == p.src && q.txn == p.txn | none => false) then .next s
      else if p.typ = 10 then .next (s.receiveReclaim p)
      else if p.typ = 8 && p.op = 4 then .next (s.applyOwed p)
      else if p.typ = 9 && p.op = 12 then .next (s.eraseFor p)
      else
        match s.acceptor p with
        | none => .next (s.respond p 0x12 1 [])
        | some n => .next (s.letIn p n)

/-! ### Remote errors (14 R328, 11 R257) -/

/-- The thread, launch and address that a request's failure names: those of its operation, of its tile command, whose unit may be saved, or of
the command that sent it and has been discarded (14 R328). -/
def State.requester (s : State) (r : Req) : Nat × Nat × Word × Pair :=
  let addr : Pair := BitVec.ofNat 64 r.pkt.addr
  match s.op? r.op with
  | some o => (o.core, o.tslot, o.launch, (match o.kind with
      | .load a _ _ => a.va
      | .store a _ _ => a.va
      | .atomic a _ _ _ _ _ => a.va
      | .append a _ _ => a.va
      | .seal a => a.va
      | .free a => a.va
      | .aopen a _ => a.va
      | .status a _ => a.va
      | .descr a => a.va
      | _ => addr))
  | none =>
    match s.anyCmd? r.op with
    | some c => (c.core, (c.giver c.lane0).2, c.launch, addr)
    | none => (r.core, r.tslot, r.launch, addr)

/-- The commit of a transfer was sent and not acknowledged: the transfer is in doubt (11 R257). One that waits unsent is not. -/
def State.inDoubt (s : State) (r : Req) : Option (Op × Nat × Nat × Nat × Word) :=
  if r.pkt.typ ≠ 8 || r.pkt.op ≠ 1 || r.sends = 0 then none
  else
    match s.op? r.op with
    | none => none
    | some o =>
      match o.kind with
      | .xfer fid _ _ m pa pb _ =>
        (match s.lockOrder pa pb with
         | [l, h] => some (o, fid, l, h, m)
         | _ => none)
      | _ => none

/-- The request of a prefetch: an operation of no thread that reads for this module (07 R177). -/
def State.ofPrefetch (s : State) (r : Req) : Bool :=
  match s.op? r.op with
  | none => false
  | some o =>
    match o.kind with
    | .load _ _ _ => o.tid == 0 && o.origin.isNone
    | _ => false

/-- The words of a record that name both cells and the amount of a transfer in doubt. -/
def doubtWords (l h : Nat) (m : Word) : List Word :=
  [BitVec.ofNat 32 l, BitVec.ofNat 32 (l / 2 ^ 32), BitVec.ofNat 32 h, BitVec.ofNat 32 (h / 2 ^ 32), m]

/-- A peer's coordinator reports a transfer of this module as in doubt. -/
def State.doubtReport (s : State) (r : Req) (cause : Word) : List Word :=
  if cause ≠ 4 then []
  else
    match s.op? r.op with
    | none => []
    | some o =>
      match o.kind with
      | .xfer _ _ _ m pa pb _ =>
        (match s.lockOrder pa pb with
         | [l, h] => doubtWords l h m
         | _ => [])
      | _ => []

/-- A reclaim, or the removal of a free's translations, is answered no more: one to a peer that is Down counts as answered (12 R280); another
ends the context of the free (14 R327). -/
def State.reclaimLost (s : State) (r : Req) (cause : Word) : State :=
  match ((s.page? r.pkt.addr).bind (fun q => q.freeOp)).bind s.op? with
  | some o =>
    if cause = 0 then s
    else
      match o.origin with
      | some q => s.respond q 0x12 cause.toNat []
      | none => s.remoteError o.slot o.core o.tslot o.launch (match o.asealAccess with | some a => a.va | none => 0) cause
  | none => s

/-- A request fails for good: the one of a prefetch is dropped, the one of a transfer that a peer issued is answered with a refusal, and
another's context ends with 0x0901 and a cause; a transfer in doubt applies the coordinator's change, and its record also names both cells
and the amount (14 R328, 11 R257). -/
def State.failRequest (s : State) (r : Req) (cause : Word) : State :=
  let w := s.requester r
  let s := { s with reqs := s.reqs.filter (fun q => q != r) }
  let words := fun (c : Word) => s.errorWords 2 (dieOf w.1) r.slot 0x0901 w.2.2.1 w.2.2.2 c (BitVec.ofNat 32 (w.1 * 2048 + w.2.1))
  match s.inDoubt r with
  | some (o, fid, l, h, m) =>
    let s' := match o.kind with
      | .xfer _ _ _ _ pa pb _ => s.changeCell o (s.issuerOf o) fid m pa pb l
      | _ => s
    let t := (s'.dropLocks o.id).forget o.id
    (match o.origin with
     | some q => t.respond q 0x12 4 []
     | none => t.endContext r.slot (words 4 ++ doubtWords l h m))
  | none =>
    let t := (s.dropLocks r.op).forget r.op
    match (s.op? r.op).bind (fun o => o.origin) with
    | some q => t.respond q 0x12 cause.toNat []
    | none =>
      if r.pkt.typ = 10 then t.reclaimLost r cause
      else if s.ofPrefetch r || r.op = 0 then t
      else t.endContext r.slot (words cause ++ s.doubtReport r cause)

/-- Requests to peers that are Down end their contexts with cause 0 (14 R336); transfers that such a peer's coordinator began here
release their cells unchanged (11 R257); dies drop their replicas of its pages (12 R281). -/
def State.losePeers (s : State) : State :=
  let s := (s.reqs.filter (fun r => s.peerView r.pkt.dst == 2 && !r.erasure)).foldl (fun s r => if s.reqs.contains r then s.failRequest r 0 else s) s
  let s := (s.ops.filter (fun o => match o.origin, o.kind with
      | some q, .xfer _ _ _ _ _ _ x => o.second && s.peerView q.src == 2 && (x == .commit || x == .waitSecond || x == .first)
      | _, _ => false)).foldl (fun s o => (s.dropLocks o.id).forget o.id) s
  (List.range Config.dies).foldl (fun s d =>
    ((s.die d).replicas.filter (fun r => match peerOf r.page with
      | some dev => s.peerView dev == 2
      | none => false)).foldl (fun s r => s.dropReplica d r.page) s) s

/-! ### Responses (14 R318, R327) -/

/-- The line of a sealed page that a peer sent with a read, and its tail: none where the page was not SEALED, or has been reclaimed since. -/
def sealedLine (r : Req) (p : Packet) : Option (List Byte × Nat) :=
  let z := r.pkt.len + 1
  let k := (z + 3) / 4 * 4
  if r.stale || p.data.length < k + (if z < 128 then 132 else 4) then none
  else some (if z < 128 then (p.data.drop (k + 4)).take 128 else p.data.take 128, pktNum p k 4)

/-- That line is kept in the hamper of the die that read it (12 R279). -/
def State.keepSealed (s : State) (die : Nat) (r : Req) (p : Packet) : State :=
  match sealedLine r p with
  | none => s
  | some (line, tail) =>
    let size := pktPageSize r.pkt
    let loc := peerPlace r.pkt.dst r.pkt.addr
    let page := peerPlace r.pkt.dst (r.pkt.addr / size * size)
    let s := if (s.replica? die page).isSome then s else s.newReplica die page size tail
    s.fillReplica die page (loc / 128 * 128) line

/-- A load keeps it in the L1 as well, with its mark (12 R282). -/
def State.markSealed (s : State) (o : Op) (a : Access) (r : Req) (p : Packet) : State :=
  match sealedLine r p with
  | none => s
  | some (line, tail) => s.fillSealed o a line tail

/-- The bytes of a peer load have come: a cacheable line is kept in the remote partition and the L1 (14 R318). -/
def State.loadArrived (s : State) (o : Op) (a : Access) (signed : Bool) (r : Req) (p : Packet) : State :=
  if a.cls = 1 then s.arrive o.id (fun q => { q with data := [BitVec.ofNat 32 (pktNum p 0 4)] })
  else if a.cls = 2 then ((s.keepSealed (dieOf o.core) r p).markSealed o a r p).giveBytes o a signed (p.data.take a.z)
  else
    let s := if !a.cacheable || s.overtaken r then s
      else
        let s := if a.pol = 3 then s
          else s.setRemote (dieOf o.core) (lineOf a.loc) { whole := true, copy := Memory.writeBytes [] 0 (p.data.take 128) }
        if (a.pol = 0 || a.pol = 4) && !a.late then s.l1Fill o.core a.loc (p.data.take 128) none 128 true else s
    s.giveBytes o a signed ((p.data.drop (a.loc % Config.placeSpan - r.pkt.addr)).take a.z)

/-- The byte of a read of an append-seal page at which a copy stops, as the tail that the fault names gives it (12 R271). -/
def failingByte (r : Req) (aux : Word) : Nat :=
  let d := aux.toNat - r.pkt.addr % pktPageSize r.pkt
  if r.pkt.op = 2 ∧ d ≤ r.pkt.len then d else 0

/-- A fault that the peer's home found is the issuing instruction's own, on completion (14 R317). That of a copy is of the end that the
request names, with the bytes below it (10 R224); that of a reduction's claim has U as its auxiliary word, and the address of the element
that starts `off` bytes into the packet (10 R218). -/
def State.peerFault (s : State) (o : Op) (r : Req) (code : Nat) (aux : Word) (off : Nat) : State :=
  match o.kind with
  | .copy c =>
    if c.finished then s.arriveFault o.id code c.signal aux
    else if r.pkt.typ = 1 then s.copyFault o code (c.srcAt (c.moved + failingByte r aux)) 0 (c.written c.moved)
    else if code = 0x0A01 then s.arriveFault o.id code (c.dstAt (c.moved + off)) aux
    else s.copyFault o code (c.dstAt c.moved) 0 (c.written c.moved)
  | .atomic _ _ _ _ _ _ => s.mapOp o.id (fun p => { p with served := true, fault := some (code, o.faultVa, aux) })
  | .xfer fid ia ib _ _ _ _ => (s.xferFails o code fid ia ib).setStep o.id .done
  | _ => s.arriveFault o.id code o.faultVa aux

/-- A `ctxload` goes on with its image. -/
def State.moreOf (s : State) (id : Nat) : State :=
  match s.op? id with
  | some o => s.loadMore o
  | none => s

/-- A response completes a request of an operation. -/
def State.answered (s : State) (o : Op) (r : Req) (p : Packet) : State :=
  match o.kind with
  | .load a signed _ => s.loadArrived o a signed r p
  | .store _ _ _ => s.arrive o.id id
  | .lch _ => s.judgeLaunch o (loadWords false (p.data.take 128))
  | .saveUnit _ _ => if s.awaits o.id then s else s.arrive o.id id
  | .loadUnit _ _ => (s.imageTake o (p.data.take 256)).moreOf o.id
  | .atomic _ f _ _ _ _ =>
    s.mapOp o.id (fun q => { q with served := true, data := if o.dsts.isEmpty then [] else pktWords p 0 (f.size / 4) })
  | .copy c =>
    if c.finished then s.endCopy o.id
    else if p.typ = 0x10 then
      (if r.pkt.op = 2 then s.keepSealed (dieOf o.core) r p else s).copyArrived o (p.data.take (r.pkt.len + 1))
    else s.copyWritten o (if r.pkt.typ = 5 then r.pkt.len + 1 - 16 else r.pkt.len + 1)
  | .xfer _ _ _ _ _ _ x =>
    if r.pkt.typ = 7 then s.setStep o.id .applied
    else if r.pkt.op = 4 then s.releaseCell o.id r.pos
    else if r.pkt.op = 0 && x == .waitSecond then s.coordinate o (some (BitVec.ofNat 64 (pktNum p 0 8)).toInt)
    else s
  | .append _ _ _ => s.arrive o.id (fun q => { q with data := pktWords p 0 1 })
  | .status _ _ => s.arrive o.id (fun q => { q with data := pktWords p 0 1 })
  | .cellRead fid i none true => s.checkVisited o fid i (BitVec.ofNat 32 (pktNum p 0 4))
  | .cellRead _ _ _ _ => s.arrive o.id (fun q => { q with data := pktWords p 0 1 })
  | .fdecl _ _ => s.mapOp o.id (fun q => { q with data := q.data ++ [BitVec.ofNat 32 (pktNum p 0 4)] })
  | .totals _ _ k => s.arrive o.id (fun q => { q with data := pktWords p 0 (if k = 5 then 6 else 2) })
  | _ => s.arrive o.id id

/-- A response completes a request of a tile command. -/
def State.cmdAnswered (s : State) (c : Cmd) (r : Req) (p : Packet) : State :=
  if c.fn.pipe = 0 then (if r.pkt.op = 2 then s.keepSealed (dieOf c.core) r p else s).blockArrived c (p.data.take (r.pkt.len + 1))
  else s.lineApplied c.uid r.pos

/-- A fault that the peer's home found for a tile command (13 R309). -/
def State.cmdPeerFault (s : State) (c : Cmd) (r : Req) (code : Nat) (aux : Word) : State :=
  if c.fn.pipe = 0 then
    match c.addrs[c.next % c.addrs.length]? with
    | some (row, addr) => s.rowFault c row (c.next / c.addrs.length) code (addr + BitVec.ofNat 64 (c.next / c.addrs.length * c.fmt.block)) 0
    | none => s
  else
    match c.addrs[r.pos / c.rowLines]? with
    | some (row, addr) =>
      let va := addr + BitVec.ofNat 64 (128 * (r.pos % c.rowLines))
      (s.lineApplied c.uid r.pos).cmdStop c
        (if code = 0x0A01 then { code := code, addr := va, aux := BitVec.ofNat 32 c.id }
         else { code := 0x0801, addr := va, aux := tileAux 0 c.id 0 aux.toNat }) (c.giver row)
    | none => s

/-- A response arrives: its request ends with it. A refusal ends the context with the cause in OP (14 R317, R328); a response to no
request is discarded. -/
def execPeerResponseReceive (p : Packet) (s : State) : Out :=
  if p.dst ≠ s.dev then .next s
  else
    match s.reqs.find? (fun r => r.pkt.dst == p.src && r.pkt.txn == p.txn && r.sends != 0) with
    | none => .next s
    | some r =>
      if p.typ = 0x12 then .next (s.failRequest r (BitVec.ofNat 32 p.op))
      else
        let s := ({ s with reqs := s.reqs.filter (fun q => q != r) } : State).spoilFills r
        let code := pktNum p 0 4
        let aux : Word := BitVec.ofNat 32 (pktNum p 4 4)
        let bad := p.typ == 0x10 && p.op == 1
        match s.op? r.op with
        | some o => .next ((if bad && s.ofPrefetch r then s.forget o.id else if bad then s.peerFault o r code aux (pktNum p 8 4) else s.answered o r p).pumpReqs)
        | none =>
          match s.anyCmd? r.op with
          | some c => .next ((if bad then s.cmdPeerFault c r code aux else s.cmdAnswered c r p).pumpReqs)
          | none => .next s.pumpReqs

/-- A request of an operation has been Reachable and unanswered for 3 ms, 1,800,000 cycles (01 R17): it is sent again, and after the third send its context
ends with cause 3 (14 R327). -/
def execRequestResendTimeout (op : Nat) (s : State) : Out :=
  match s.reqs.find? (fun r => r.op == op && r.sends != 0 && s.peerView r.pkt.dst == 0 && decide (1800000 ≤ r.waited)) with
  | none => .next s
  | some r => if r.sends < 3 || r.erasure then .next (s.sendReq r) else .next (s.failRequest r 3)

end Sys2Proof.Machine
end

