-- ==== Sys2Proof/Machine/Links.lean ====
section
/-!
DEFINITION. Fabric links and routing as events (14 R320 to R326, R334, R335): flits, allowances, retraining, routing tables and
reconfigurations of the optical switches.
-/
namespace Sys2Proof.Machine

/-! ### What follows a change of the links -/

/-- Packets and requests that can move do, and requests to peers that are Down fail. -/
def State.pumpFabric (s : State) : State := s.losePeers.pumpReqs.pumpTransit

/-! ### Packets that arrive (14 R320) -/

/-- A waymark echo arrives. -/
def State.takeEcho (s : State) (link pool : Nat) : State :=
  let l := s.link link
  if !l.reconf || l.state != .up then s
  else (s.mapLink link (fun l => { l with waymarks := l.waymarks.filter (fun x => x != pool) })).drainLink link

/-- A waymark has come: it is echoed once the buffers of its pool are empty (14 R334 step 3). -/
def State.takeWaymark (s : State) (link pool : Nat) : State := (s.mapLink link (fun l => { l with echoes := l.echoes ++ [pool] })).echoDue

/-- A whole packet is taken from a link: it is delivered here, which empties its buffers, or it goes on from them (14 R324). -/
def State.takePacket (s : State) (link : Nat) (p : Packet) : State :=
  let pool := poolNo p.vc (isResponse p.typ)
  if p.typ = 0x20 then s.takeWaymark link p.op
  else if p.typ = 0x21 then s.takeEcho link p.op
  else if p.dst ≠ s.dev then s.passOn p (some (link, pool))
  else
    let s := (s.freeBuffer (some (link, pool)) (pktFlits p)).pruneResponses p
    match (if 16 ≤ p.typ || (p.typ == 8 && p.op == 3) || (p.typ == 10 && p.op % 2 == 1) then execPeerResponseReceive p s else execPeerRequestReceive p s) with
    | .next s => s
    | _ => s

/-- An UP link enters TRAINING, which RTC counts; a packet that it has received in part goes on where it stopped (14 R325, R333). -/
def Link.retrain (now : Nat) (l : Link) : Link :=
  if l.state = .up then { l with state := .training, rtc := Nat.min 511 (l.rtc + 1), since := now } else l

/-- A link enters TRAINING for a reason that RTC does not count: from DOWN or DARK, and where its buffers are found occupied after a dark
interval (14 R325, R335). -/
def Link.train (now : Nat) (l : Link) : Link := { l with state := .training, since := now }

/-- A link already holds a flit of this number: it is one of the 2,048 numbers before the next that it expects (14 R325; assumption 113). -/
def Link.holds (l : Link) (seq : Nat) : Bool := decide ((l.rxSeq + 4095 - seq) % 4096 < 2048)

/-- A link takes in a good flit that it does not hold yet: a header begins a packet, a payload flit extends it. -/
def State.takeFlit (s : State) (link : Nat) (f : Flit) : State :=
  let l := s.link link
  match l.partialPkt with
  | none =>
    let p := pktOfHeader f.bits
    if !typeListed p.typ || p.rsvd ≠ 0 then s.mapLink link (Link.retrain s.now)
    else
      let s := s.mapLink link (fun l => { l with rxSeq := (f.seq + 1) % 4096 })
      if pktPayload p = 0 then
        s.takePacket link { p with data := if holdsOperands p.typ then p.data else if carriesData p.typ then p.data.take (p.len + 1) else [] }
      else s.mapLink link (fun l => { l with partialPkt := some ({ p with data := [] }, pktPayload p) })
  | some (p, left) =>
    let n := Nat.min 64 left
    let p := { p with data := p.data ++ (flitBytes f.bits).take n }
    let s := s.mapLink link (fun l =>
      { l with rxSeq := (f.seq + 1) % 4096, partialPkt := if left ≤ 64 then none else some (p, left - n) })
    if left ≤ 64 then s.takePacket link p else s

/-- A link receives a flit: a bad check code retrains it, a sequence number that it already holds is dropped (14 R320, R321, R325). -/
def execFlitReceive (link : Nat) (f : Flit) (s : State) : Out :=
  if !linkOk link then .fault (.noSuchLink link)
  else if (s.link link).state != .up then .next s
  else if !flitGood f then .next (s.mapLink link (Link.retrain s.now))
  else if (s.link link).holds f.seq then .next s
  else .next (s.takeFlit link f)

/-- Acknowledged flits leave the replay buffer (14 R325). -/
def execFlitAcknowledgement (link : Nat) (seq : Nat) (s : State) : Out :=
  if !linkOk link then .fault (.noSuchLink link)
  else
    let l := s.link link
    if !l.replay.any (fun p => p.1 == seq) then .next s
    else
      .next ((s.mapLink link (fun l => { l with replay := (l.replay.dropWhile (fun p => p.1 != seq)).drop 1 })).drainLink link).pumpTransit

/-! ### Allowances (14 R324, R335) -/

/-- A returned CUM becomes FREED only if it lies between FREED and SENT (14 R324). -/
def Pool.give (p : Pool) (c : Half) : Pool :=
  if (c - p.freed).toNat ≤ (p.sent - p.freed).toNat then { p with freed := c } else p

/-- Changes a pool of a link. -/
def Link.mapPool (l : Link) (n : Nat) (f : Pool → Pool) : Link := { l with pools := Sparse.set {} l.pools n (f (l.pool n)) }

/-- A returned CUM arrives in the control sideband; one whose check code fails is discarded (14 R324). -/
def execAllowanceReturn (link pool : Nat) (cum : Half) (good : Bool) (s : State) : Out :=
  if !linkOk link then .fault (.noSuchLink link)
  else if !good || 12 ≤ pool then .next s
  else .next (s.mapLink link (fun l => l.mapPool pool (fun p => p.give cum))).pumpTransit

/-- A direction sends a resync beat (14 R324). -/
def State.sendBeat (s : State) (link : Nat) : State :=
  { s with sentBeats := s.sentBeats ++ [{ dev := s.dev, link := link, cums := (List.range 12).map (fun i => ((s.link link).pool i).cum) }] }

/-- A direction sends a resync beat: it carries the device id, the link number and every CUM (14 R324). -/
def execResyncBeatSend (link : Nat) (s : State) : Out :=
  if !linkOk link then .fault (.noSuchLink link)
  else if (s.link link).state != .up then .next s
  else .next (s.sendBeat link)

/-- Buffers of a link still hold flits: of packets that wait to go on, or of one that has come in part. -/
def State.occupied (s : State) (link : Nat) : Bool :=
  (s.link link).partialPkt.isSome || s.transit.any (fun w => match w.source with | some (n, _) => n == link | none => false)

/-- A resync beat arrives: after a dark interval SENT and FREED of every pool take the far end's CUM, and a link with buffers that are not
empty retrains, which RTC does not count (14 R325); otherwise each CUM is a return; the far end's identity is that of the beat (14 R324, R335). -/
def execResyncBeatReceive (link : Nat) (dev plink : Nat) (cums : List Half) (s : State) : Out :=
  if !linkOk link then .fault (.noSuchLink link)
  else if (s.link link).state != .up then .next s
  else
    let first := (s.link link).resyncDue
    let busy := first && s.occupied link
    .next (s.mapLink link (fun l =>
      let l := (List.range 12).foldl (fun l i =>
        match cums[i]? with
        | none => l
        | some c => l.mapPool i (fun p => if first then { p with sent := c, freed := c } else p.give c)) l
      let l := { l with peer := dev, plink := plink, resyncDue := false }
      if busy then l.train s.now else l)).pumpTransit

/-- A packet without adaptive allowance for 256 fabric cycles, 128 cycles of a core (01 R19), goes to the escape channel and stays there
(14 R323): the first that has waited so long under the transaction number. -/
def execEscapeTimeout (txn : Nat) (s : State) : Out :=
  match s.transit.find? (fun w => w.pkt.txn == txn && decide (w.pkt.vc < 4) && decide (w.since + 128 ≤ s.now)) with
  | none => .next s
  | some w =>
    .next ({ s with transit := s.transit.map (fun x =>
      if x = w then { x with pkt := { x.pkt with vc := if x.pkt.gh then 5 else 4 } } else x) } : State).pumpTransit

/-! ### Training (14 R325) -/

/-- A check-code failure, a discarded packet or a loss of lock sends an UP link to TRAINING (14 R325). -/
def execLinkRetrain (link : Nat) (s : State) : Out :=
  if !linkOk link then .fault (.noSuchLink link) else .next (s.mapLink link (Link.retrain s.now)).pumpFabric

/-- The member that local link i of member m reaches, and the number of that link at the far end (14 R315). -/
def localEnd (m i : Nat) : Nat × Nat :=
  let j := if i < m then i else i + 1
  (j, if m < j then m else m - 1)

/-- A far end that a link can lock to: a local link reaches one end alone, a global link whatever the switches give it (14 R315). -/
def State.farEnd (s : State) (link peer plink : Nat) : Bool :=
  if link < 31 then decide (peer = s.dev / 32 * 32 + (localEnd (s.dev % 32) link).1) && decide (plink = (localEnd (s.dev % 32) link).2)
  else decide (31 ≤ plink) && linkOk plink && decide (peer / 32 ≤ 512)

/-- A training link locks and is UP; what was not acknowledged is replayed. After a dark interval, and after it was DOWN, each end sends a
resync beat at once; the part of a link in a reconfiguration goes on until the tables are rewritten (14 R325, R334, R335). -/
def execLinkLock (link peer plink : Nat) (s : State) : Out :=
  if !linkOk link then .fault (.noSuchLink link)
  else if (s.link link).state != .training || !s.farEnd link peer plink then .next s
  else
    let t := (s.mapLink link (fun l => { l with state := .up, peer := peer, plink := plink })).sendFrom link 0
    .next (if (s.link link).resyncDue then t.sendBeat link else t).echoDue.pumpFabric

/-- A link that goes DOWN: its replay buffer and a packet received in part are discarded, and both ends begin their sequence numbers anew; the
first lock after it resyncs the pools (14 R325; assumption 102). -/
def Link.fail (l : Link) : Link :=
  { l with state := .down, replay := [], partialPkt := none, txSeq := 0, rxSeq := 0, waymarks := [], echoes := [], echoed := [],
           resyncDue := l.resyncDue || !l.pools.isEmpty }

/-- A link that has not locked 2 ms, 1,200,000 cycles (01 R17), after it entered TRAINING is DOWN (14 R325). -/
def execLinkTrainingTimeout (link : Nat) (s : State) : Out :=
  if !linkOk link then .fault (.noSuchLink link)
  else if (s.link link).state != .training || decide (s.now < (s.link link).since + 1200000) then .next s
  else .next (s.mapLink link Link.fail).pumpFabric

/-- Clehild starts training: at bring-up on every link, and once a second, every 600,000,000 cycles (01 R17), on each DOWN link, of which
those whose far end answers go to TRAINING and the others read DOWN as before (14 R325). -/
def execLinkTrainingRetry (s : State) : Out :=
  if s.trainedAt.any (fun c => decide (s.now < c + 600000000)) then .next s
  else
    .next { (List.range Config.links).foldl (fun s n =>
      if (s.link n).state = .down ∧ (s.trainedAt = none ∨ Config.farEndAnswers n s.now = true) then s.mapLink n (Link.train s.now) else s) s
      with trainedAt := some s.now }

/-- A row as Clehild writes it: up to 4 non-minimal links, and no escape link that is down, dark or in a reconfiguration (14 R323). -/
def State.writtenRow (s : State) (r : Route) : Route :=
  { r with nonMinimal := r.nonMinimal.take 4
           escape := r.escape.filter (fun n => ((s.link n).state == .up || (s.link n).state == .training) && !s.reconf.contains n) }

/-- A link's part in a reconfiguration whose switches have settled ends with the rewrite of the tables, unless it is still training
(14 R334 step 5). -/
def State.endReconf (s : State) : State :=
  s.reconf.foldl (fun s n =>
    if (s.link n).settled && (s.link n).state != .training then
      ({ s with reconf := s.reconf.filter (fun m => m != n) } : State).mapLink n (fun l => { l with reconf := false, settled := false })
    else s) s

/-- Clehild rewrites the routing table; peers become Reachable, Held or Down (14 R323, R326, R334 step 5). -/
def execRoutingTableRewrite (routes : List Route) (s : State) : Out :=
  let t := s.endReconf
  .next ({ t with routes := routes.map t.writtenRow } : State).pumpFabric

/-! ### Reconfigurations (14 R334) -/

/-- A link's part in a reconfiguration begins: a waymark goes on each of its 12 pools, behind the flits that it still has to send, those of
a link that is TRAINING as it locks; a link that is DOWN or DARK has nothing to drain and is DARK (14 R334; assumption 114). -/
def State.beginReconf (s : State) (connect : List Nat) (n : Nat) : State :=
  let live := (s.link n).state == .up || (s.link n).state == .training
  let s := s.mapLink n (fun l =>
    let l := { l with reconf := true, settled := false, connect := connect.contains n }
    if live then { l with waymarks := List.range 12 } else l.darken)
  if !live then s else (List.range 12).foldl (fun s pool => s.sendMark n pool 0x20) s

/-- A management request of the host names the affected global links, and those that it connects again (14 R334 steps 1, 2). -/
def execOpticalReconfiguration (links : List Nat) (connect : List Nat) (s : State) : Out :=
  let ls := links.filter (fun n => 31 ≤ n && n < Config.links)
  match links.find? (fun n => !linkOk n) with
  | some n => .fault (.noSuchLink n)
  | none => .next (ls.foldl (fun s n => s.beginReconf connect n) { s with reconf := ls.foldl insertNat s.reconf })

/-- A waymark arrives and is echoed (14 R334 step 3). -/
def execWaymark (link pool : Nat) (s : State) : Out :=
  if !linkOk link then .fault (.noSuchLink link)
  else if (s.link link).state != .up then .next s
  else .next (s.takeWaymark link pool)

/-- A waymark echo arrives; a link that is drained with it is DARK (14 R334 step 3). -/
def execWaymarkEcho (link pool : Nat) (s : State) : Out :=
  if !linkOk link then .fault (.noSuchLink link) else .next (s.takeEcho link pool)

/-- The link is drained, or went DOWN before it was, and waits for the switches. -/
def Link.waitsSwitch (l : Link) : Bool := l.reconf && (l.state == .dark || l.state == .down)

/-- The switches have settled for a link: it trains where the reconfiguration connects it, and resyncs as it locks; otherwise it stays DARK
(14 R334 step 4, R335; assumption 114). -/
def Link.settle (now : Nat) (l : Link) : Link :=
  if l.connect then ({ l with settled := true, resyncDue := true }).train now else { l.darken with settled := true }

/-- The dark interval of the links that wait for the switches ends, for every peer with a route across one of them (14 R326). -/
def State.noteDarkEnd (s : State) : State :=
  { s with darkEnds := s.routes.foldl (fun m r =>
      if (routeLinks r).any (fun n => (s.link n).waitsSwitch) then Sparse.set 0 m r.dev (s.now + 1) else m) s.darkEnds }

/-- The switches have settled: the links of the reconfiguration that are drained start training where it connects them, the others stay DARK
(14 R334 step 4). -/
def execSwitchSettled (s : State) : Out :=
  .next ((List.range Config.links).foldl (fun s n =>
    if (s.link n).waitsSwitch then s.mapLink n (Link.settle s.now) else s) s.noteDarkEnd)

end Sys2Proof.Machine
end

