-- ==== Sys2Proof/Machine/Dispatch.lean ====
section
/-!
DEFINITION. The meaning of every instruction and event: one arm per constructor, each a direct call.
-/
namespace Sys2Proof.Machine

/-- One step's effect: the meaning of an instruction word for the issuing strand, or of an event. -/
def exec (i : Instr) (s : State) : Host.Outcome State Fault Refusal :=
  match i with
  | .hk p => Sys2Proof.Machine.execHk p s
  | .hx m c => Sys2Proof.Machine.execHx m c s
  | .hs p x => Sys2Proof.Machine.execHs p x s
  | .hq e t x r => Sys2Proof.Machine.execHq e t x r s
  | .illegalEncoding => Sys2Proof.Machine.execIllegalEncoding s
  | .headWordInBody => Sys2Proof.Machine.execHeadWordInBody s
  | .br o => Sys2Proof.Machine.execBr o s
  | .brZ a o => Sys2Proof.Machine.execBrZ a o s
  | .brNz a o => Sys2Proof.Machine.execBrNz a o s
  | .brNeg a o => Sys2Proof.Machine.execBrNeg a o s
  | .brNn a o => Sys2Proof.Machine.execBrNn a o s
  | .call o => Sys2Proof.Machine.execCall o s
  | .bx a => Sys2Proof.Machine.execBx a s
  | .callx a => Sys2Proof.Machine.execCallx a s
  | .ret => Sys2Proof.Machine.execRet s
  | .exit => Sys2Proof.Machine.execExit s
  | .yield => Sys2Proof.Machine.execYield s
  | .nop => Sys2Proof.Machine.execNop s
  | .trap b => Sys2Proof.Machine.execTrap b s
  | .wait l x c t => Sys2Proof.Machine.execWait l x c t s
  | .bar a j => Sys2Proof.Machine.execBar a j s
  | .barArrive a j => Sys2Proof.Machine.execBarArrive a j s
  | .barWait j => Sys2Proof.Machine.execBarWait j s
  | .movi d j => Sys2Proof.Machine.execMovi d j s
  | .movu d j => Sys2Proof.Machine.execMovu d j s
  | .mov d a => Sys2Proof.Machine.execMov d a s
  | .sel d a b => Sys2Proof.Machine.execSel d a b s
  | .movs d x => Sys2Proof.Machine.execMovs d x s
  | .movsw x a => Sys2Proof.Machine.execMovsw x a s
  | .tagget d a => Sys2Proof.Machine.execTagget d a s
  | .tagset d a k => Sys2Proof.Machine.execTagset d a k s
  | .tagchk d a k => Sys2Proof.Machine.execTagchk d a k s
  | .bcast d a j => Sys2Proof.Machine.execBcast d a j s
  | .shfl d a b => Sys2Proof.Machine.execShfl d a b s
  | .shfx d a b => Sys2Proof.Machine.execShfx d a b s
  | .shfup d a b => Sys2Proof.Machine.execShfup d a b s
  | .shfdn d a b => Sys2Proof.Machine.execShfdn d a b s
  | .voteAny d a => Sys2Proof.Machine.execVoteAny d a s
  | .voteAll d a => Sys2Proof.Machine.execVoteAll d a s
  | .voteMask d a => Sys2Proof.Machine.execVoteMask d a s
  | .gredAdd d a => Sys2Proof.Machine.execGredAdd d a s
  | .gredMin d a => Sys2Proof.Machine.execGredMin d a s
  | .gredMax d a => Sys2Proof.Machine.execGredMax d a s
  | .gredFadd d a => Sys2Proof.Machine.execGredFadd d a s
  | .gscanAdd d a => Sys2Proof.Machine.execGscanAdd d a s
  | .gscanFadd d a => Sys2Proof.Machine.execGscanFadd d a s
  | .gfirst d a => Sys2Proof.Machine.execGfirst d a s
  | .add d a b => Sys2Proof.Machine.execAdd d a b s
  | .sub d a b => Sys2Proof.Machine.execSub d a b s
  | .mul d a b => Sys2Proof.Machine.execMul d a b s
  | .mulhI d a b => Sys2Proof.Machine.execMulhI d a b s
  | .mulhN d a b => Sys2Proof.Machine.execMulhN d a b s
  | .divI d a b => Sys2Proof.Machine.execDivI d a b s
  | .divN d a b => Sys2Proof.Machine.execDivN d a b s
  | .remI d a b => Sys2Proof.Machine.execRemI d a b s
  | .remN d a b => Sys2Proof.Machine.execRemN d a b s
  | .minI d a b => Sys2Proof.Machine.execMinI d a b s
  | .maxI d a b => Sys2Proof.Machine.execMaxI d a b s
  | .minN d a b => Sys2Proof.Machine.execMinN d a b s
  | .maxN d a b => Sys2Proof.Machine.execMaxN d a b s
  | .abs d a => Sys2Proof.Machine.execAbs d a s
  | .neg d a => Sys2Proof.Machine.execNeg d a s
  | .add64 d a b => Sys2Proof.Machine.execAdd64 d a b s
  | .sub64 d a b => Sys2Proof.Machine.execSub64 d a b s
  | .mulwI d a b => Sys2Proof.Machine.execMulwI d a b s
  | .mulwN d a b => Sys2Proof.Machine.execMulwN d a b s
  | .mad d a b => Sys2Proof.Machine.execMad d a b s
  | .addsI d a b => Sys2Proof.Machine.execAddsI d a b s
  | .subsI d a b => Sys2Proof.Machine.execSubsI d a b s
  | .and d a b => Sys2Proof.Machine.execAnd d a b s
  | .or d a b => Sys2Proof.Machine.execOr d a b s
  | .xor d a b => Sys2Proof.Machine.execXor d a b s
  | .andn d a b => Sys2Proof.Machine.execAndn d a b s
  | .not d a => Sys2Proof.Machine.execNot d a s
  | .shl d a b => Sys2Proof.Machine.execShl d a b s
  | .shr d a b => Sys2Proof.Machine.execShr d a b s
  | .sha d a b => Sys2Proof.Machine.execSha d a b s
  | .rotl d a b => Sys2Proof.Machine.execRotl d a b s
  | .rotr d a b => Sys2Proof.Machine.execRotr d a b s
  | .bfeN d a b => Sys2Proof.Machine.execBfeN d a b s
  | .bfeI d a b => Sys2Proof.Machine.execBfeI d a b s
  | .bfi d a b => Sys2Proof.Machine.execBfi d a b s
  | .popc d a => Sys2Proof.Machine.execPopc d a s
  | .clz d a => Sys2Proof.Machine.execClz d a s
  | .ctz d a => Sys2Proof.Machine.execCtz d a s
  | .brev d a => Sys2Proof.Machine.execBrev d a s
  | .dshl d a b => Sys2Proof.Machine.execDshl d a b s
  | .dshr d a b => Sys2Proof.Machine.execDshr d a b s
  | .dsha d a b => Sys2Proof.Machine.execDsha d a b s
  | .eq d a b => Sys2Proof.Machine.execEq d a b s
  | .ne d a b => Sys2Proof.Machine.execNe d a b s
  | .ltI d a b => Sys2Proof.Machine.execLtI d a b s
  | .leI d a b => Sys2Proof.Machine.execLeI d a b s
  | .ltN d a b => Sys2Proof.Machine.execLtN d a b s
  | .leN d a b => Sys2Proof.Machine.execLeN d a b s
  | .eq64 d a b => Sys2Proof.Machine.execEq64 d a b s
  | .ne64 d a b => Sys2Proof.Machine.execNe64 d a b s
  | .lt64I d a b => Sys2Proof.Machine.execLt64I d a b s
  | .lt64N d a b => Sys2Proof.Machine.execLt64N d a b s
  | .lea d a b x => Sys2Proof.Machine.execLea d a b x s
  | .leaN d a b x => Sys2Proof.Machine.execLeaN d a b x s
  | .addi d a j => Sys2Proof.Machine.execAddi d a j s
  | .andi d a j => Sys2Proof.Machine.execAndi d a j s
  | .ori d a j => Sys2Proof.Machine.execOri d a j s
  | .xori d a j => Sys2Proof.Machine.execXori d a j s
  | .shiShl d a n => Sys2Proof.Machine.execShiShl d a n s
  | .shiShr d a n => Sys2Proof.Machine.execShiShr d a n s
  | .shiSha d a n => Sys2Proof.Machine.execShiSha d a n s
  | .shiRotl d a n => Sys2Proof.Machine.execShiRotl d a n s
  | .cmpiEq d a v => Sys2Proof.Machine.execCmpiEq d a v s
  | .cmpiNe d a v => Sys2Proof.Machine.execCmpiNe d a v s
  | .cmpiLtI d a v => Sys2Proof.Machine.execCmpiLtI d a v s
  | .cmpiLeI d a v => Sys2Proof.Machine.execCmpiLeI d a v s
  | .cmpiLtN d a v => Sys2Proof.Machine.execCmpiLtN d a v s
  | .cmpiLeN d a v => Sys2Proof.Machine.execCmpiLeN d a v s
  | .muli d a j => Sys2Proof.Machine.execMuli d a j s
  | .leai d a j => Sys2Proof.Machine.execLeai d a j s
  | .fadd d a b => Sys2Proof.Machine.execFadd d a b s
  | .fsub d a b => Sys2Proof.Machine.execFsub d a b s
  | .fmul d a b => Sys2Proof.Machine.execFmul d a b s
  | .fma d a b => Sys2Proof.Machine.execFma d a b s
  | .fmin d a b => Sys2Proof.Machine.execFmin d a b s
  | .fmax d a b => Sys2Proof.Machine.execFmax d a b s
  | .fabs d a => Sys2Proof.Machine.execFabs d a s
  | .fneg d a => Sys2Proof.Machine.execFneg d a s
  | .fcmpEq d a b => Sys2Proof.Machine.execFcmpEq d a b s
  | .fcmpLt d a b => Sys2Proof.Machine.execFcmpLt d a b s
  | .fcmpLe d a b => Sys2Proof.Machine.execFcmpLe d a b s
  | .fcmpUn d a b => Sys2Proof.Machine.execFcmpUn d a b s
  | .fclass d a => Sys2Proof.Machine.execFclass d a s
  | .frnd d a => Sys2Proof.Machine.execFrnd d a s
  | .frcp d a => Sys2Proof.Machine.execFrcp d a s
  | .frsq d a => Sys2Proof.Machine.execFrsq d a s
  | .fsqrt d a => Sys2Proof.Machine.execFsqrt d a s
  | .fexp2 d a => Sys2Proof.Machine.execFexp2 d a s
  | .flog2 d a => Sys2Proof.Machine.execFlog2 d a s
  | .fdiv d a b => Sys2Proof.Machine.execFdiv d a b s
  | .dadd d a b => Sys2Proof.Machine.execDadd d a b s
  | .dsub d a b => Sys2Proof.Machine.execDsub d a b s
  | .dmul d a b => Sys2Proof.Machine.execDmul d a b s
  | .dfma d a b => Sys2Proof.Machine.execDfma d a b s
  | .dmin d a b => Sys2Proof.Machine.execDmin d a b s
  | .dmax d a b => Sys2Proof.Machine.execDmax d a b s
  | .dcmpEq d a b => Sys2Proof.Machine.execDcmpEq d a b s
  | .dcmpLt d a b => Sys2Proof.Machine.execDcmpLt d a b s
  | .dcmpLe d a b => Sys2Proof.Machine.execDcmpLe d a b s
  | .ddiv d a b => Sys2Proof.Machine.execDdiv d a b s
  | .dsqrt d a => Sys2Proof.Machine.execDsqrt d a s
  | .hadd d a b => Sys2Proof.Machine.execHadd d a b s
  | .hmul d a b => Sys2Proof.Machine.execHmul d a b s
  | .hfma d a b => Sys2Proof.Machine.execHfma d a b s
  | .hmin d a b => Sys2Proof.Machine.execHmin d a b s
  | .hmax d a b => Sys2Proof.Machine.execHmax d a b s
  | .badd d a b => Sys2Proof.Machine.execBadd d a b s
  | .bmul d a b => Sys2Proof.Machine.execBmul d a b s
  | .bfma d a b => Sys2Proof.Machine.execBfma d a b s
  | .bmin d a b => Sys2Proof.Machine.execBmin d a b s
  | .bmax d a b => Sys2Proof.Machine.execBmax d a b s
  | .hdot d a b => Sys2Proof.Machine.execHdot d a b s
  | .bdot d a b => Sys2Proof.Machine.execBdot d a b s
  | .cvtF32I32 d a => Sys2Proof.Machine.execCvtF32I32 d a s
  | .cvtF32N32 d a => Sys2Proof.Machine.execCvtF32N32 d a s
  | .cvtI32F32 d a => Sys2Proof.Machine.execCvtI32F32 d a s
  | .cvtN32F32 d a => Sys2Proof.Machine.execCvtN32F32 d a s
  | .cvtF64F32 d a => Sys2Proof.Machine.execCvtF64F32 d a s
  | .cvtF32F64 d a => Sys2Proof.Machine.execCvtF32F64 d a s
  | .cvtH2F32 d a b => Sys2Proof.Machine.execCvtH2F32 d a b s
  | .cvtB2F32 d a b => Sys2Proof.Machine.execCvtB2F32 d a b s
  | .cvtF32H2lo d a => Sys2Proof.Machine.execCvtF32H2lo d a s
  | .cvtF32H2hi d a => Sys2Proof.Machine.execCvtF32H2hi d a s
  | .cvtF32B2lo d a => Sys2Proof.Machine.execCvtF32B2lo d a s
  | .cvtF32B2hi d a => Sys2Proof.Machine.execCvtF32B2hi d a s
  | .cvtF64I32 d a => Sys2Proof.Machine.execCvtF64I32 d a s
  | .cvtI32F64 d a => Sys2Proof.Machine.execCvtI32F64 d a s
  | .cvtF32Cq d a => Sys2Proof.Machine.execCvtF32Cq d a s
  | .cvtCqF32 d a => Sys2Proof.Machine.execCvtCqF32 d a s
  | .qnt d a b => Sys2Proof.Machine.execQnt d a b s
  | .dqnt d a b => Sys2Proof.Machine.execDqnt d a b s
  | .lpack d a b => Sys2Proof.Machine.execLpack d a b s
  | .lunpk d a j => Sys2Proof.Machine.execLunpk d a j s
  | .lscale d a => Sys2Proof.Machine.execLscale d a s
  | .ldot d a b => Sys2Proof.Machine.execLdot d a b s
  | .lmul d a b => Sys2Proof.Machine.execLmul d a b s
  | .ld d a x w o => Sys2Proof.Machine.execLd d a x w o s
  | .st d a x w o => Sys2Proof.Machine.execSt d a x w o s
  | .ldq d a x o => Sys2Proof.Machine.execLdq d a x o s
  | .stq d a x o => Sys2Proof.Machine.execStq d a x o s
  | .pf a w o => Sys2Proof.Machine.execPf a w o s
  | .ldacq d a x w o => Sys2Proof.Machine.execLdacq d a x w o s
  | .strel d a x w o => Sys2Proof.Machine.execStrel d a x w o s
  | .fenceAcq x => Sys2Proof.Machine.execFenceAcq x s
  | .fenceRel x => Sys2Proof.Machine.execFenceRel x s
  | .fenceAr x => Sys2Proof.Machine.execFenceAr x s
  | .atomAdd d a b => Sys2Proof.Machine.execAtomAdd d a b s
  | .atomSub d a b => Sys2Proof.Machine.execAtomSub d a b s
  | .atomAnd d a b => Sys2Proof.Machine.execAtomAnd d a b s
  | .atomOr d a b => Sys2Proof.Machine.execAtomOr d a b s
  | .atomXor d a b => Sys2Proof.Machine.execAtomXor d a b s
  | .atomMinI d a b => Sys2Proof.Machine.execAtomMinI d a b s
  | .atomMaxI d a b => Sys2Proof.Machine.execAtomMaxI d a b s
  | .atomMinN d a b => Sys2Proof.Machine.execAtomMinN d a b s
  | .atomMaxN d a b => Sys2Proof.Machine.execAtomMaxN d a b s
  | .atomXchg d a b => Sys2Proof.Machine.execAtomXchg d a b s
  | .atomIncw d a b => Sys2Proof.Machine.execAtomIncw d a b s
  | .atomDecw d a b => Sys2Proof.Machine.execAtomDecw d a b s
  | .atomFadd d a b => Sys2Proof.Machine.execAtomFadd d a b s
  | .atomAdd64 d a b => Sys2Proof.Machine.execAtomAdd64 d a b s
  | .atomXchg64 d a b => Sys2Proof.Machine.execAtomXchg64 d a b s
  | .atomnAdd a b => Sys2Proof.Machine.execAtomnAdd a b s
  | .atomnSub a b => Sys2Proof.Machine.execAtomnSub a b s
  | .atomnAnd a b => Sys2Proof.Machine.execAtomnAnd a b s
  | .atomnOr a b => Sys2Proof.Machine.execAtomnOr a b s
  | .atomnXor a b => Sys2Proof.Machine.execAtomnXor a b s
  | .atomnMinI a b => Sys2Proof.Machine.execAtomnMinI a b s
  | .atomnMaxI a b => Sys2Proof.Machine.execAtomnMaxI a b s
  | .atomnMinN a b => Sys2Proof.Machine.execAtomnMinN a b s
  | .atomnMaxN a b => Sys2Proof.Machine.execAtomnMaxN a b s
  | .atomnXchg a b => Sys2Proof.Machine.execAtomnXchg a b s
  | .atomnIncw a b => Sys2Proof.Machine.execAtomnIncw a b s
  | .atomnDecw a b => Sys2Proof.Machine.execAtomnDecw a b s
  | .atomnFadd a b => Sys2Proof.Machine.execAtomnFadd a b s
  | .atomnAdd64 a b => Sys2Proof.Machine.execAtomnAdd64 a b s
  | .atomnXchg64 a b => Sys2Proof.Machine.execAtomnXchg64 a b s
  | .cas d a b => Sys2Proof.Machine.execCas d a b s
  | .cas64 d a b => Sys2Proof.Machine.execCas64 d a b s
  | .cpy d a b => Sys2Proof.Machine.execCpy d a b s
  | .cpy2d d a b => Sys2Proof.Machine.execCpy2d d a b s
  | .cpyc d a k => Sys2Proof.Machine.execCpyc d a k s
  | .cpyz d b => Sys2Proof.Machine.execCpyz d b s
  | .crinit a k => Sys2Proof.Machine.execCrinit a k s
  | .crtake d k => Sys2Proof.Machine.execCrtake d k s
  | .crgive a k => Sys2Proof.Machine.execCrgive a k s
  | .crclaim d k => Sys2Proof.Machine.execCrclaim d k s
  | .crpost a k => Sys2Proof.Machine.execCrpost a k s
  | .crtest d k => Sys2Proof.Machine.execCrtest d k s
  | .crstat d k => Sys2Proof.Machine.execCrstat d k s
  | .craddr d a k => Sys2Proof.Machine.execCraddr d a k s
  | .fsel a => Sys2Proof.Machine.execFsel a s
  | .xfer d a b => Sys2Proof.Machine.execXfer d a b s
  | .fld d a => Sys2Proof.Machine.execFld d a s
  | .ftot d x k => Sys2Proof.Machine.execFtot d x k s
  | .fdecl a b => Sys2Proof.Machine.execFdecl a b s
  | .fchk d a => Sys2Proof.Machine.execFchk d a s
  | .finfo d a q => Sys2Proof.Machine.execFinfo d a q s
  | .app d a b => Sys2Proof.Machine.execApp d a b s
  | .app64 d a b => Sys2Proof.Machine.execApp64 d a b s
  | .appq d a b => Sys2Proof.Machine.execAppq d a b s
  | .seal a => Sys2Proof.Machine.execSeal a s
  | .free a => Sys2Proof.Machine.execFree a s
  | .aopen a b => Sys2Proof.Machine.execAopen a b s
  | .atail d a => Sys2Proof.Machine.execAtail d a s
  | .astate d a => Sys2Proof.Machine.execAstate d a s
  | .tcfg a => Sys2Proof.Machine.execTcfg a s
  | .tlda d a b => Sys2Proof.Machine.execTlda d a b s
  | .tldaGather b => Sys2Proof.Machine.execTldaGather b s
  | .tldb d a b => Sys2Proof.Machine.execTldb d a b s
  | .tldbGather b => Sys2Proof.Machine.execTldbGather b s
  | .tmma a b => Sys2Proof.Machine.execTmma a b s
  | .tzero b => Sys2Proof.Machine.execTzero b s
  | .tdrain d a b => Sys2Proof.Machine.execTdrain d a b s
  | .tstacc d a b => Sys2Proof.Machine.execTstacc d a b s
  | .tstaccGather b => Sys2Proof.Machine.execTstaccGather b s
  | .nput d a b => Sys2Proof.Machine.execNput d a b s
  | .nget d a b => Sys2Proof.Machine.execNget d a b s
  | .nred d a b => Sys2Proof.Machine.execNred d a b s
  | .nstat d a q => Sys2Proof.Machine.execNstat d a q s
  | .nsig a b => Sys2Proof.Machine.execNsig a b s
  | .rfe k => Sys2Proof.Machine.execRfe k s
  | .frec d k => Sys2Proof.Machine.execFrec d k s
  | .unpark d a k => Sys2Proof.Machine.execUnpark d a k s
  | .sysget d a n => Sys2Proof.Machine.execSysget d a n s
  | .sysset d a n => Sys2Proof.Machine.execSysset d a n s
  | .tlbinv d a b => Sys2Proof.Machine.execTlbinv d a b s
  | .tlbinva a => Sys2Proof.Machine.execTlbinva a s
  | .l2wbRemotePush a => Sys2Proof.Machine.execL2wbRemotePush a s
  | .l2wbHomeWriteback a => Sys2Proof.Machine.execL2wbHomeWriteback a s
  | .ctxsave d a b => Sys2Proof.Machine.execCtxsave d a b s
  | .ctxload d a b => Sys2Proof.Machine.execCtxload d a b s
  | .brk k => Sys2Proof.Machine.execBrk k s
  | .lch d a => Sys2Proof.Machine.execLch d a s
  | .lcancel a => Sys2Proof.Machine.execLcancel a s
  | .lcnt d a q => Sys2Proof.Machine.execLcnt d a q s
  | .lwaitc a b => Sys2Proof.Machine.execLwaitc a b s
  | .pmreq a b => Sys2Proof.Machine.execPmreq a b s
  | .formStrand core dec => Sys2Proof.Machine.execFormStrand core dec s
  | .overflowQueueMove core => Sys2Proof.Machine.execOverflowQueueMove core s
  | .spillEntry core => Sys2Proof.Machine.execSpillEntry core s
  | .bankReadRetry strand => Sys2Proof.Machine.execBankReadRetry strand s
  | .loadComplete op bad => Sys2Proof.Machine.execLoadComplete op bad s
  | .storeComplete op => Sys2Proof.Machine.execStoreComplete op s
  | .atomicBatchArrival batch bad => Sys2Proof.Machine.execAtomicBatchArrival batch bad s
  | .atomicComplete op => Sys2Proof.Machine.execAtomicComplete op s
  | .deltaWriteHome die line => Sys2Proof.Machine.execDeltaWriteHome die line s
  | .remoteEviction die line => Sys2Proof.Machine.execRemoteEviction die line s
  | .fenceComplete op => Sys2Proof.Machine.execFenceComplete op s
  | .peerReleaseTimeout op => Sys2Proof.Machine.execPeerReleaseTimeout op s
  | .pageWalkStart die => Sys2Proof.Machine.execPageWalkStart die s
  | .pageWalkComplete walk => Sys2Proof.Machine.execPageWalkComplete walk s
  | .tlbInvalidateComplete op => Sys2Proof.Machine.execTlbInvalidateComplete op s
  | .copyComplete op n => Sys2Proof.Machine.execCopyComplete op n s
  | .creelOverflowEnter unit k => Sys2Proof.Machine.execCreelOverflowEnter unit k s
  | .stallRecord unit => Sys2Proof.Machine.execStallRecord unit s
  | .xferCoordinatorRequest op => Sys2Proof.Machine.execXferCoordinatorRequest op s
  | .lockEntryGrant op => Sys2Proof.Machine.execLockEntryGrant op s
  | .xferSecondLock op => Sys2Proof.Machine.execXferSecondLock op s
  | .xferCommit op => Sys2Proof.Machine.execXferCommit op s
  | .xferUnlock op => Sys2Proof.Machine.execXferUnlock op s
  | .xferAcknowledge op => Sys2Proof.Machine.execXferAcknowledge op s
  | .counterSetUpdate upd => Sys2Proof.Machine.execCounterSetUpdate upd s
  | .xferComplete op => Sys2Proof.Machine.execXferComplete op s
  | .cellReadServed op => Sys2Proof.Machine.execCellReadServed op s
  | .ftotHoldTimeout op => Sys2Proof.Machine.execFtotHoldTimeout op s
  | .fdeclHomeComplete op => Sys2Proof.Machine.execFdeclHomeComplete op s
  | .appendBatchServe batch => Sys2Proof.Machine.execAppendBatchServe batch s
  | .appendDataWrite op => Sys2Proof.Machine.execAppendDataWrite op s
  | .tailReadServe op => Sys2Proof.Machine.execTailReadServe op s
  | .sealServe op => Sys2Proof.Machine.execSealServe op s
  | .sealComplete op => Sys2Proof.Machine.execSealComplete op s
  | .freeServe op => Sys2Proof.Machine.execFreeServe op s
  | .freeReclaim op => Sys2Proof.Machine.execFreeReclaim op s
  | .replicaReclaim page die => Sys2Proof.Machine.execReplicaReclaim page die s
  | .reclaimAck page agent => Sys2Proof.Machine.execReclaimAck page agent s
  | .freeShootdown op => Sys2Proof.Machine.execFreeShootdown op s
  | .freeReopen op => Sys2Proof.Machine.execFreeReopen op s
  | .aopenServe op => Sys2Proof.Machine.execAopenServe op s
  | .replicaFill op => Sys2Proof.Machine.execReplicaFill op s
  | .tileCommandStart core pipe => Sys2Proof.Machine.execTileCommandStart core pipe s
  | .tileBlockArrival cmd => Sys2Proof.Machine.execTileBlockArrival cmd s
  | .tileCommandRetire cmd => Sys2Proof.Machine.execTileCommandRetire cmd s
  | .drainLineArrival cmd => Sys2Proof.Machine.execDrainLineArrival cmd s
  | .mergeBufferEntryGrant slice => Sys2Proof.Machine.execMergeBufferEntryGrant slice s
  | .peerRequestReceive p => Sys2Proof.Machine.execPeerRequestReceive p s
  | .peerResponseReceive p => Sys2Proof.Machine.execPeerResponseReceive p s
  | .requestResendTimeout op => Sys2Proof.Machine.execRequestResendTimeout op s
  | .flitReceive link f => Sys2Proof.Machine.execFlitReceive link f s
  | .allowanceReturn link pool cum good => Sys2Proof.Machine.execAllowanceReturn link pool cum good s
  | .resyncBeatSend link => Sys2Proof.Machine.execResyncBeatSend link s
  | .resyncBeatReceive link dev plink cums => Sys2Proof.Machine.execResyncBeatReceive link dev plink cums s
  | .escapeTimeout txn => Sys2Proof.Machine.execEscapeTimeout txn s
  | .linkRetrain link => Sys2Proof.Machine.execLinkRetrain link s
  | .linkLock link peer plink => Sys2Proof.Machine.execLinkLock link peer plink s
  | .linkTrainingTimeout link => Sys2Proof.Machine.execLinkTrainingTimeout link s
  | .linkTrainingRetry => Sys2Proof.Machine.execLinkTrainingRetry s
  | .routingTableRewrite routes => Sys2Proof.Machine.execRoutingTableRewrite routes s
  | .opticalReconfiguration links connect => Sys2Proof.Machine.execOpticalReconfiguration links connect s
  | .waymark link pool => Sys2Proof.Machine.execWaymark link pool s
  | .waymarkEcho link pool => Sys2Proof.Machine.execWaymarkEcho link pool s
  | .switchSettled => Sys2Proof.Machine.execSwitchSettled s
  | .placeUnit slot => Sys2Proof.Machine.execPlaceUnit slot s
  | .unitEnd unit => Sys2Proof.Machine.execUnitEnd unit s
  | .preemptUnit unit bound => Sys2Proof.Machine.execPreemptUnit unit bound s
  | .saveUnitComplete unit => Sys2Proof.Machine.execSaveUnitComplete unit s
  | .restoreUnit saved => Sys2Proof.Machine.execRestoreUnit saved s
  | .hostQuery h => Sys2Proof.Machine.execHostQuery h s
  | .queryReply h delivered => Sys2Proof.Machine.execQueryReply h delivered s
  | .acknowledgement h => Sys2Proof.Machine.execAcknowledgement h s
  | .createObject h level parent => Sys2Proof.Machine.execCreateObject h level parent s
  | .closeObject h obj => Sys2Proof.Machine.execCloseObject h obj s
  | .launchMessage h payload => Sys2Proof.Machine.execLaunchMessage h payload s
  | .cancelMessage h obj => Sys2Proof.Machine.execCancelMessage h obj s
  | .preemptMessage h obj bound => Sys2Proof.Machine.execPreemptMessage h obj bound s
  | .countReadMessage h obj => Sys2Proof.Machine.execCountReadMessage h obj s
  | .systemRegisterMessage h write n sel value => Sys2Proof.Machine.execSystemRegisterMessage h write n sel value s
  | .stateRequest h want => Sys2Proof.Machine.execStateRequest h want s
  | .attestationRequest h nonce slot => Sys2Proof.Machine.execAttestationRequest h nonce slot s
  | .firmwareImage h image version key r x => Sys2Proof.Machine.execFirmwareImage h image version key r x s
  | .checkpoint h restore image => Sys2Proof.Machine.execCheckpoint h restore image s
  | .debugRequest h q => Sys2Proof.Machine.execDebugRequest h q s
  | .messageResendTimeout => Sys2Proof.Machine.execMessageResendTimeout s
  | .clehildRestart => Sys2Proof.Machine.execClehildRestart s
  | .moduleReset => Sys2Proof.Machine.execModuleReset s
  | .powerGrant die grant above => Sys2Proof.Machine.execPowerGrant die grant above s
  | .powerGrantTimeout die => Sys2Proof.Machine.execPowerGrantTimeout die s
  | .softErrorCorrected die => Sys2Proof.Machine.execSoftErrorCorrected die s
  | .uncorrectableStateError core site => Sys2Proof.Machine.execUncorrectableStateError core site s
  | .wvFairWrite op => Sys2Proof.Machine.execWvFairWrite op s
  | .dsWinWrite op => Sys2Proof.Machine.execDsWinWrite op s
  | .trRootWrite op => Sys2Proof.Machine.execTrRootWrite op s
  | .trWaysWrite op => Sys2Proof.Machine.execTrWaysWrite op s
  | .trWalkWrite op => Sys2Proof.Machine.execTrWalkWrite op s
  | .scopeCtlWrite op => Sys2Proof.Machine.execScopeCtlWrite op s
  | .scopeMaskWrite op => Sys2Proof.Machine.execScopeMaskWrite op s
  | .crOvbaseWrite op => Sys2Proof.Machine.execCrOvbaseWrite op s
  | .crOvctlWrite op => Sys2Proof.Machine.execCrOvctlWrite op s
  | .hpBaseWrite op => Sys2Proof.Machine.execHpBaseWrite op s
  | .hpSizeWrite op => Sys2Proof.Machine.execHpSizeWrite op s
  | .fabCtagWrite op => Sys2Proof.Machine.execFabCtagWrite op s
  | .fabExpWrite op => Sys2Proof.Machine.execFabExpWrite op s
  | .tenQuotaWrite op => Sys2Proof.Machine.execTenQuotaWrite op s
  | .tenCoresWrite op => Sys2Proof.Machine.execTenCoresWrite op s
  | .registerWrite op => Sys2Proof.Machine.execRegisterWrite op s
  | .flitAcknowledgement link seq => Sys2Proof.Machine.execFlitAcknowledgement link seq s
  | .counterSetAcknowledgement upd => Sys2Proof.Machine.execCounterSetAcknowledgement upd s
  | .replicaPageDrop die => Sys2Proof.Machine.execReplicaPageDrop die s
  | .l2wbComplete op => Sys2Proof.Machine.execL2wbComplete op s

end Sys2Proof.Machine
end

