-- ==== Sys2Proof/Machine/Step.lean ====
section
/-!
DEFINITION. One step of the module. The agenda in the state says who acts next and how many cycles pass before it: a strand issues
its next word, or another agent acts. Where the agenda is empty the oldest strand issues; failing that, the first event of the module
itself that changes anything; failing that, a cycle passes (assumption 2).
-/
namespace Sys2Proof.Machine

/-! ### Who acts -/

/-- The instruction that a strand issues next: the word decoded as the hints before it direct, or the word's fault (03 R66, R76). -/
noncomputable def Strand.instr (st : Strand) : Instr :=
  match decode st.hints.hx.isSome (st.words.getD st.pos 0) with
  | .ok i => i
  | .error .blockHead => .headWordInBody
  | .error _ => .illegalEncoding

/-- What an actor does. -/
noncomputable def State.instrOf (s : State) (who : Actor) : Option Instr :=
  match who with
  | .event e => some e
  | .strand sid => (s.strand? sid).map Strand.instr

/-- The events that may carry an operation in flight on. -/
noncomputable def Op.events (o : Op) : List Instr :=
  let id := o.id
  match o.kind with
  | .load _ _ _ => [.loadComplete id false]
  | .store _ _ _ => [.storeComplete id]
  | .atomic _ _ _ _ _ _ => [.atomicBatchArrival id false, .atomicComplete id]
  | .copy _ => [.copyComplete id 256]
  | .fence _ _ => [.fenceComplete id]
  | .inval _ _ _ _ => [.tlbInvalidateComplete id]
  | .sysWrite n _ _ =>
    [match n with
     | 0 => .wvFairWrite id | 1 => .dsWinWrite id | 2 => .trRootWrite id | 3 => .trWaysWrite id | 4 => .trWalkWrite id
     | 5 => .scopeCtlWrite id | 6 => .scopeMaskWrite id | 7 => .crOvbaseWrite id | 8 => .crOvctlWrite id | 9 => .hpBaseWrite id
     | 10 => .hpSizeWrite id | 11 => .fabCtagWrite id | 12 => .fabExpWrite id | 13 => .tenQuotaWrite id | 14 => .tenCoresWrite id
     | _ => .registerWrite id]
  | .xfer _ _ _ _ _ _ _ =>
    [.xferCoordinatorRequest id, .lockEntryGrant id, .xferSecondLock id, .xferCommit id, .xferUnlock id, .xferAcknowledge id,
     .xferComplete id]
  | .cellRead _ _ _ _ => [.loadComplete id false]
  | .totals _ _ _ => [.loadComplete id false, .ftotHoldTimeout id]
  | .fdecl _ _ => [.fdeclHomeComplete id]
  | .append _ _ _ => [.appendBatchServe id, .appendDataWrite id]
  | .seal _ => [.sealServe id, .sealComplete id]
  | .free _ => [.freeServe id, .freeReclaim id, .freeShootdown id, .freeReopen id]
  | .aopen _ _ => [.aopenServe id, .freeReclaim id, .freeShootdown id, .freeReopen id]
  | .status _ _ => [.loadComplete id false]
  | .lch _ => [.loadComplete id false]
  | .lcnt _ _ => [.loadComplete id false]
  | .loadUnit _ _ => [.loadComplete id false]
  | .reduction => [.atomicBatchArrival id false]
  | .declare _ _ => [.loadComplete id false]
  | .writeBack _ _ => [.l2wbComplete id]
  | _ => []

/-- The events of the module itself that may be due, in the order in which the default schedule tries them. -/
noncomputable def State.events (s : State) : List Instr :=
  let cores := (s.threads.map (fun t => t.core)).dedup
  s.ops.flatMap Op.events ++
    s.updates.flatMap (fun u => [.counterSetUpdate u.uid, .counterSetAcknowledgement u.uid]) ++
    s.pages.flatMap (fun (p : Nat × PageRec) => p.2.acks.flatMap (fun a => [.replicaReclaim p.1 a, .reclaimAck p.1 a])) ++
    s.walks.flatMap (fun k => [.pageWalkStart k.die, .pageWalkComplete k.wid]) ++
    s.cmds.flatMap (fun c => [.tileCommandStart c.core c.fn.pipe, .tileBlockArrival c.uid, .drainLineArrival c.uid,
      .tileCommandRetire c.uid]) ++
    s.mergeWait.map (fun h => .mergeBufferEntryGrant (sliceOf h.loc)) ++
    cores.flatMap (fun c => [.formStrand c 0, .formStrand c 1, .overflowQueueMove c, .spillEntry c]) ++
    s.units.flatMap (fun u => [.unitEnd u.uid, .saveUnitComplete u.uid] ++ if u.wants.isEmpty then [] else [.preemptUnit u.uid 0]) ++
    s.saved.map (fun v => .restoreUnit v.id) ++
    (List.range 16).map (fun n => .placeUnit n)

/-- An event changes the state. -/
def State.changes (s : State) (e : Instr) : Bool :=
  match exec e s with
  | .next t => t != s
  | _ => false

/-- The turn that is taken where the agenda names none. -/
noncomputable def State.defaultTurn (s : State) : Turn :=
  match s.strands with
  | st :: _ => { tick := true, who := .strand st.sid }
  | [] =>
    match s.events.find? s.changes with
    | some e => { tick := false, who := .event e }
    | none => { tick := true, who := .strand 0 }

/-- The next turn of the schedule. -/
noncomputable def State.turn (s : State) : Turn :=
  match s.agenda with
  | t :: _ => t
  | [] => s.defaultTurn

/-- The state in which a turn acts: its cycle has passed, with the threads that become ready in it, and the strand that issues is named. -/
def State.begin (s : State) (t : Turn) : State :=
  let c := if t.tick then (({ s with now := s.now + 1 } : State).countCycle t.still).countWaits.controlBeats.wakeAll else s
  { c with agenda := s.agenda.tail, issuing := match t.who with
      | .strand sid => sid
      | .event _ => 0 }

/-- A turn of a strand that may not issue now does nothing (04 R93). -/
def State.held (s : State) (who : Actor) : Bool :=
  match who with
  | .event _ => false
  | .strand sid =>
    match s.strand? sid with
    | some st => !s.mayIssue st
    | none => false

/-- The decoder of the strand that issues has issued its word of this cycle (04 R93). -/
def State.noteTurn (s : State) (who : Actor) : State :=
  match who with
  | .event _ => s
  | .strand sid =>
    match s.strand? sid with
    | some st => s.mapCore st.core (fun c => { c with issuedAt := Sparse.put c.issuedAt st.dec (s.coreClock st.core) })
    | none => s

/-- What follows every action at once: abandoned tile commands, operations that end with a unit's removal, a change that waited for the
last unit, the erasures of claims at peers and the requests that may go, threads whose conditions have come to hold, and the stall watch. -/
def State.finish (s : State) : State := s.sweepCmds.sweepPre.sweepPower.sendErasures.pumpReqs.wakeAll.watch

/-- The step after an action. -/
def finishOut (o : Host.Outcome State Fault Refusal) : Host.Outcome State Fault Refusal :=
  match o with
  | .next s => .next s.finish
  | .fault f => .fault f
  | .refused r => .refused r

/-- A turn of the schedule. -/
noncomputable def State.take (s : State) (t : Turn) : Host.Outcome State Fault Refusal :=
  let b := s.begin t
  if b.held t.who then .next b.finish
  else
    match b.instrOf t.who with
    | some i => finishOut (exec i (b.noteTurn t.who))
    | none => .next b.finish

/-- One step: the next turn. Before a cycle passes, each core does what it owes in the cycle that ends (04 R88, R89, R102), and the turn
is taken later. -/
noncomputable def step (s : State) : Host.Outcome State Fault Refusal :=
  let t := s.turn
  if t.tick then
    match s.due with
    | some e => finishOut (exec e { s with issuing := 0 })
    | none => s.take t
  else s.take t

/-! ### A word placed where the next step fetches it -/

/-- A word that needs an hx hint before it (03 R70), or that is read as a gather form behind one (13 R297). -/
def needsHx (w : Word) : Bool := (hintAccepts .hx w && w.toNat / 2 ^ 26 != 0x32) || gatherWord w

/-- The hint word `hx` with no modifier bits and register 0. -/
def plainHx : Word := 0x05000000

/-- A table word as the next word of a strand of one thread on core 0, behind an hx hint where it needs one. The model issues words from
the block that a strand has fetched, and a thread comes to run only through a launch (assumption 12); so this stands for a launch that has
been placed: its object, one unit of one thread at Hypervisor level, and the strand, whose turn is next. -/
def State.withFetchWord (s : State) (nbits w : Nat) : State :=
  let word : Word := BitVec.ofNat 32 (w % 2 ^ nbits)
  let hx := needsHx word
  let words := if hx then [plainHx, word] else [word]
  let b : Block := { head := 0x1000, len := words.length, gath := true }
  let o : Obj := { handle := 1, parent := 0, level := .hypervisor,
                   desc := [0x1000, 0, 0, 0, 0, 0, BitVec.ofNat 32 (2 ^ 25 + 15 * 2 ^ 10)] }
  let u : UnitSt := { uid := s.nextId, slot := 0, launch := 1, index := 0, core := 0, row0 := 0, rows := 1, nthreads := 1, gw := 8,
                      ncr := 8, acc := 4, scrLen := 524288, cluLen := 262144, placedAt := s.coreClock 0 }
  let t : Thread := { tid := s.nextId + 1, core := 0, slot := 0, unit := s.nextId, index := 0, pc := b.head, blk := b, budget := 128,
                      level := .hypervisor, state := .issued }
  let st : Strand := { sid := s.nextId + 2, core := 0, dec := 0, blk := b, words := words, pos := words.length - 1,
                       members := [t.tid], hints := if hx then { hx := some (0, 0) } else {}, runLen := words.length - 1 }
  (({ s with units := s.units ++ [u], threads := s.threads ++ [t], strands := st :: s.strands, nextId := s.nextId + 3,
             agenda := { tick := false, who := .strand st.sid } :: s.agenda } : State).addObj 0 o).mapCore 0 (fun c =>
    { c with issuedAt := [] })

end Sys2Proof.Machine
end

