-- ==== Sys2Proof/Safety.lean ====
section
/-!
DEFINITION. The terms in which claims about the machine are made: the strand that issues and the threads it issues for, the conditions
under which a word acts, what a word leaves, and what a safe run is.
-/
namespace Sys2Proof.Machine

/-! ### The issuing strand -/

/-- Names of threads are not shared. -/
def State.threadsNamed (s : State) : Prop := (s.threads.map (fun t => t.tid)).Nodup

/-- A strand is the one that issues: its members are threads of the machine that hold no fault of an earlier operation (04 R116) and
owe no acquire, and no other strand or thread has a name of theirs. -/
structure Issuing (s : State) (st : Strand) : Prop where
  found : s.strand? s.issuing = some st
  named : ∀ x ∈ s.strands, x.sid = st.sid → x = st
  threads : s.threadsNamed
  some' : st.members ≠ []
  distinct : st.members.Nodup
  present : ∀ m ∈ st.members, ∃ t, s.thread? m = some t ∧ t.held = [] ∧ t.owes = none

/-- The word that the strand issues is not the last of its block, so that its members stay in the strand (04 R94). -/
def Strand.more (st : Strand) : Prop := st.pos + 1 ≠ st.words.length

/-- A thread passes the checks of 03 R77 that come before an instruction's own, for the registers that a word names and the operands
that it reads: they lie below the budget (04 R98), no operation in flight holds them pending (07 R169), every operand's tag is accepted
or converted (05 R118), and a CQ conversion has a current field (05 R119, 06 R139). -/
structure OperandsReady (s : State) (t : Thread) (named : List Reg) (reads : List (Cls × Reg)) : Prop where
  budget : ∀ r ∈ named, r.toNat < t.budget
  free : ∀ o ∈ s.ops, o.tid = t.tid → ∀ r ∈ o.dsts, r ∉ named
  tags : ∀ p ∈ reads, t.operandOk p = true
  field : (∃ p ∈ reads, t.needsField p = true) → (s.fieldFrac t).isSome = true

/-- Every member of a strand passes those checks. -/
def AllReady (s : State) (st : Strand) (named : List Reg) (reads : List (Cls × Reg)) : Prop :=
  ∀ m ∈ st.members, ∀ t, s.thread? m = some t → OperandsReady s t named reads

/-! ### What a word leaves -/

/-- The word that a strand issues. -/
def Strand.word (st : Strand) : Word := st.words.getD st.pos 0

/-- The strand at the word after, which issues in the next cycle at the earliest and once the result of the word is there (04 R93, 06 R161):
the hint run is over. -/
def State.pastWord (s : State) (st : Strand) : Strand :=
  { st with pos := st.pos + 1, hints := {}, runLen := 0, lost := 0, busyTo := s.coreClock st.core + 1 + resultCycles st.word }

/-- The state after a word that changes each member of the issuing strand by itself and nothing else: the members are changed, the
strand stands at the next word, and a stall of the members' units is over (10 R234). Memory, caches, every other thread, register and
object are as before; one name has been used. -/
def State.wordDone (s : State) (st : Strand) (f : Thread → Thread) : State :=
  { s.noteIssue st with
    nextId := s.nextId + 1
    threads := s.threads.map (fun t => if st.members.contains t.tid then f t.acted else t)
    strands := s.strands.map (fun x => if x.sid = st.sid then s.pastWord st else x) }

/-- The value that a thread reads from a register through a class (05 R119). -/
def State.operand (s : State) (t : Thread) (c : Cls) (r : Reg) : Word := t.rd ((s.fieldFrac t).getD 0) c r

/-- THE INSTRUCTION COMPLETES with an effect on its threads' registers alone: wherever a strand issues it, anywhere but at the end of
its block, for members whose checks pass for the registers `named` and the operands `reads`, the step answers the state in which each
member has changed as `f` says (from the state, the hints of the run and the thread) and nothing else has. -/
def Completes (i : Instr) (named : Hints → List Reg) (reads : Hints → List (Cls × Reg)) (f : State → Hints → Thread → Thread) : Prop :=
  ∀ s st, Issuing s st → st.more → AllReady s st (named st.hints) (reads st.hints) →
    exec i s = .next (s.wordDone st (fun t => f s st.hints t))

/-- The same for a word that needs an `hx` hint before it (03 R70). -/
def CompletesHx (i : Instr) (named : Hints → List Reg) (reads : Hints → List (Cls × Reg)) (f : State → Hints → Thread → Thread) : Prop :=
  ∀ s st, Issuing s st → st.more → st.hints.hx.isSome = true → AllReady s st (named st.hints) (reads st.hints) →
    exec i s = .next (s.wordDone st (fun t => f s st.hints t))

/-- d ← v(x, y), tag k: x and y are registers a and b delivered through a class. -/
def Sets2 (i : Instr) (d a b : Reg) (c : Cls) (k : Tag) (v : Word → Word → Word) : Prop :=
  Completes i (fun _ => [d, a, b]) (fun _ => [(c, a), (c, b)])
    (fun s _ t => t.setReg d (v (s.operand t c a) (s.operand t c b)) k)

/-- d ← v(x), tag k: x is register a delivered through a class. -/
def Sets1 (i : Instr) (d a : Reg) (c : Cls) (k : Tag) (v : Word → Word) : Prop :=
  Completes i (fun _ => [d, a]) (fun _ => [(c, a)]) (fun s _ t => t.setReg d (v (s.operand t c a)) k)

/-- d ← v(x, y) on the bits of registers a and b, whatever their tags; tag INT. -/
def SetsBits2 (i : Instr) (d a b : Reg) (v : Word → Word → Word) : Prop :=
  Completes i (fun _ => [d, a, b]) (fun _ => []) (fun _ _ t => t.setReg d (v (t.val a) (t.val b)) .int)

/-- d ← v(x) on the bits of register a, whatever its tag; tag INT. -/
def SetsBits1 (i : Instr) (d a : Reg) (v : Word → Word) : Prop :=
  Completes i (fun _ => [d, a]) (fun _ => []) (fun _ _ t => t.setReg d (v (t.val a)) .int)

/-- d ← v(x, y, z) on the bits of registers a, b and c, with c from the `hx` hint; tag INT. -/
def SetsBits3 (i : Instr) (d a b : Reg) (v : Word → Word → Word → Word) : Prop :=
  CompletesHx i (fun h => [d, a, b, h.c]) (fun _ => []) (fun _ h t => t.setReg d (v (t.val a) (t.val b) (t.val h.c)) .int)

/-- pair(d) ← v(X, Y), tag k: X and Y are pairs read through a class of pairs. -/
def SetsPair2 (i : Instr) (d a b : Reg) (c : Cls) (k : Hints → Tag) (v : Hints → Pair → Pair → Pair) : Prop :=
  Completes i (fun _ => pairRegs d ++ pairRegs a ++ pairRegs b) (fun _ => [(c, a), (c, b)])
    (fun _ h t => t.setPair d (v h (t.pair a) (t.pair b)) (k h))

/-- d ← 1 if a relation of two pairs holds, 0 otherwise, tag k. -/
def Tests2 (i : Instr) (d a b : Reg) (c : Cls) (k : Hints → Tag) (v : Pair → Pair → Bool) : Prop :=
  Completes i (fun _ => [d] ++ pairRegs a ++ pairRegs b) (fun _ => [(c, a), (c, b)])
    (fun _ h t => t.setReg d (if v (t.pair a) (t.pair b) then 1 else 0) (k h))

/-- A 12-bit immediate, sign-extended, or the value of an `hk` hint: its low 20 payload bits above the immediate (03 R64, R69). -/
def signedImm (h : Hints) (i : BitVec 12) : Word :=
  match h.hk with
  | some p => p.extractLsb' 0 20 ++ i
  | none => i.signExtend 32

/-- A 12-bit immediate, zero-extended, or the value of an `hk` hint (03 R64, R69). -/
def unsignedImm (h : Hints) (i : BitVec 12) : Word :=
  match h.hk with
  | some p => p.extractLsb' 0 20 ++ i
  | none => i.setWidth 32

/-- d ← f(rnd, sat, x, y) on f32 bit patterns, the tag k unless the `hq` hint overrides it (06 R143, R144). -/
def SetsFloat2 (i : Instr) (d a b : Reg) (k : Tag) (f : Nat → Bool → Nat → Nat → Nat) : Prop :=
  Completes i (fun _ => [d, a, b]) (fun _ => [(.f32, a), (.f32, b)])
    (fun s h t => t.setReg d (w32 (f h.rnd h.sat (s.operand t .f32 a).toNat (s.operand t .f32 b).toNat)) (h.tag k))

/-- d ← f(rnd, sat, x) on an f32 bit pattern (06 R143, R144). -/
def SetsFloat1 (i : Instr) (d a : Reg) (k : Tag) (f : Nat → Bool → Nat → Nat) : Prop :=
  Completes i (fun _ => [d, a]) (fun _ => [(.f32, a)])
    (fun s h t => t.setReg d (w32 (f h.rnd h.sat (s.operand t .f32 a).toNat)) (h.tag k))

/-- pair(d) ← f(rnd, sat, x, y) on f64 bit patterns (06 R147). -/
def SetsDouble2 (i : Instr) (d a b : Reg) (f : Nat → Bool → Nat → Nat → Nat) : Prop :=
  SetsPair2 i d a b .f64 (fun h => h.tag .d64) (fun h x y => w64 (f h.rnd h.sat x.toNat y.toNat))

/-- Two halves as one word, element 0 in bits 15:0 (06 R148). -/
def twoHalves (lo hi : Nat) : Word := BitVec.ofNat 16 hi ++ BitVec.ofNat 16 lo

/-- Element 0 or 1 of a packed word (06 R148). -/
def half (x : Word) (i : Nat) : Nat := (x.extractLsb' (16 * i) 16).toNat

/-- d ← f(x, y) element by element (06 R148). -/
def SetsPacked (i : Instr) (d a b : Reg) (c : Cls) (k : Tag) (f : Nat → Bool → Nat → Nat → Nat) : Prop :=
  Completes i (fun _ => [d, a, b]) (fun _ => [(c, a), (c, b)])
    (fun _ h t => t.setReg d (twoHalves (f h.rnd h.sat (half (t.val a) 0) (half (t.val b) 0))
      (f h.rnd h.sat (half (t.val a) 1) (half (t.val b) 1))) (h.tag k))

/-- d ← d + x × y element by element, one rounding each (06 R148). -/
def SetsPackedFma (i : Instr) (d a b : Reg) (c : Cls) (k : Tag) (f : Fmt) : Prop :=
  Completes i (fun _ => [d, a, b]) (fun _ => [(c, d), (c, a), (c, b)])
    (fun _ h t => t.setReg d (twoHalves (f.fma h.rnd h.sat (half (t.val a) 0) (half (t.val b) 0) (half (t.val d) 0))
      (f.fma h.rnd h.sat (half (t.val a) 1) (half (t.val b) 1) (half (t.val d) 1))) (h.tag k))

/-- d ← (d + a0 × b0) + a1 × b1 in f32, the exact product of each element added with one rounding, element 0 first (06 R149). -/
def SetsDot (i : Instr) (d a b : Reg) (c : Cls) (f : Fmt) : Prop :=
  Completes i (fun _ => [d, a, b]) (fun _ => [(.f32, d), (c, a), (c, b)])
    (fun s h t =>
      let p := fun e => mulVal (f.val (half (t.val a) e)) (f.val (half (t.val b) e))
      let s0 := f32.addVal h.rnd h.sat (f32.val (s.operand t .f32 d).toNat) (p 0)
      t.setReg d (w32 (f32.addVal h.rnd h.sat (f32.val s0) (p 1))) (h.tag .f32))

/-- d ← f(x) with x delivered through a class, the tag k unless the `hq` hint overrides it (06 R150). -/
def SetsConv (i : Instr) (d a : Reg) (c : Cls) (k : Tag) (f : Hints → Word → Word) : Prop :=
  Completes i (fun _ => [d, a]) (fun _ => [(c, a)]) (fun s h t => t.setReg d (f h (s.operand t c a)) (h.tag k))

/-- d ← two f32 operands rounded into a narrow format, a in element 0 (06 R150). -/
def SetsPack (i : Instr) (d a b : Reg) (k : Tag) (f : Fmt) : Prop :=
  Completes i (fun _ => [d, a, b]) (fun _ => [(.f32, a), (.f32, b)])
    (fun s h t => t.setReg d (twoHalves (f.ofVal h.rnd h.sat (f32.val (s.operand t .f32 a).toNat))
      (f.ofVal h.rnd h.sat (f32.val (s.operand t .f32 b).toNat))) (h.tag k))

/-! ### Lane instructions -/

/-- The members of the issuing strand are the active lanes of one group of width w, in ascending lane order, in a gathered block
(04 R96, 05 R132). -/
structure OneGroup (s : State) (st : Strand) (w : Nat) (g : List Thread) : Prop where
  gathered : st.blk.gath = true
  lanes : st.members.filterMap s.thread? = g
  same : ∀ t ∈ g, ∀ u ∈ g, s.sameGroup t u = true
  width : ∀ t ∈ g, ∃ u, s.unitOf t = some u ∧ u.gw = w
  positive : 0 < w
  ascending : g.Pairwise (fun t u => t.lane < u.lane)
  span : ∀ t ∈ g, ∀ u ∈ g, t.lane / w = u.lane / w

/-- A lane instruction completes for a group whose members' checks all pass: each lane's thread changes as `f` says from the group's
width, its active lanes and the thread, and nothing else does. -/
def LaneCompletes (i : Instr) (named : List Reg) (reads : List (Cls × Reg)) (f : State → Nat → List Thread → Thread → Thread) : Prop :=
  ∀ s st w g, Issuing s st → st.more → OneGroup s st w g → AllReady s st named reads →
    exec i s = .next (s.wordDone st (fun t => f s w g t))

/-- d ← register a, with its tag, of the active lane at relative index j, or of the thread itself where there is none (05 R134,
`from`). -/
def takeLane (d a : Reg) (w : Nat) (g : List Thread) (t : Thread) (j : Int) : Thread :=
  match g.find? (fun u => ((u.lane % w : Nat) : Int) == j) with
  | some u => t.setReg d (u.val a) (u.reg a).tag
  | none => t.setReg d (t.val a) (t.reg a).tag

/-- The sum S of 05 R135: the first value, then one rounded addition for each further one; a NaN is the canonical one. -/
def floatSum (xs : List Word) : Word :=
  match xs with
  | [] => 0
  | x :: r =>
    let v := r.foldl (fun m y => w32 (f32.add 0 false m.toNat y.toNat)) x
    if f32.isNan v.toNat then 0x7FC00000 else v

/-! ### A strand of one thread -/

/-- The issuing strand has one member, the thread t, which waits for nothing that it began. -/
structure Alone (s : State) (st : Strand) (t : Thread) : Prop extends Issuing s st where
  only : st.members = [t.tid]
  thread : s.thread? t.tid = some t
  fresh : (t.begun = none ∧ t.descr = []) ∧ t.checked = 0 ∧ t.pages = []

/-- The state in which the checks of the word are made: a stall of the members' units is over (10 R234), and one name is used. -/
def State.atWord (s : State) (st : Strand) : State := (s.noteIssue st).bump

/-- The word that a strand issues, in its context: its hints, its address, and the name that its operations share. -/
def State.ctx (s : State) (st : Strand) : Ctx := ctxOf (s.noteIssue st) st

/-- The strand goes on to the word after. -/
def State.goesOn (s : State) (st : Strand) : State :=
  { s with strands := s.strands.map (fun x => if x.sid = st.sid then s.pastWord st else x) }

/-- The strand ends: its last member has left it (04 R93). -/
def State.endStrand (s : State) (st : Strand) : State := { s with strands := s.strands.filter (fun x => x.sid != st.sid) }

/-- The address of the word that a strand issues (03 R65). -/
def Strand.pc (st : Strand) : Pair := st.blk.head + 4 + BitVec.ofNat 64 (4 * st.pos)

/-- The address of the first word of the run of hints before the word, or of the word (03 R68). -/
def Strand.runPc (st : Strand) : Pair := st.pc - BitVec.ofNat 64 (4 * st.runLen)

/-- Where a fault of the word is raised: its record names the first word of the run and the target's word (03 R72). -/
def Strand.site (st : Strand) : Site :=
  { runPc := st.runPc, wordPc := st.pc, word := st.word, after := st.pc + 4, blk := st.blk }

/-- The thread takes a fault of its own issue and its strand ends. -/
def State.faults (s : State) (st : Strand) (t : Thread) (f : FaultInfo) : State :=
  ((s.atWord st).endStrand st).takeFault t.tid f st.site

/-- The instruction acts for the one thread of a strand whose checks pass, anywhere but at the end of a block, and the thread goes on in
the strand: `f` says what it does to the state. -/
def Acts (i : Instr) (named : Hints → List Reg) (reads : Hints → List (Cls × Reg)) (ok : Ctx → State → Thread → Prop)
    (f : Ctx → State → Thread → State) : Prop :=
  ∀ s st t, Alone s st t → st.more → OperandsReady s t (named st.hints) (reads st.hints) → ok (s.ctx st) (s.atWord st) t →
    exec i s = .next ((f (s.ctx st) (s.atWord st) t).goesOn st)

/-- The instruction raises a fault for the one thread of a strand whose common checks pass. -/
def Raises (i : Instr) (named : Hints → List Reg) (reads : Hints → List (Cls × Reg)) (ok : Ctx → State → Thread → Prop)
    (f : Ctx → State → Thread → FaultInfo) : Prop :=
  ∀ s st t, Alone s st t → OperandsReady s t (named st.hints) (reads st.hints) → ok (s.ctx st) (s.atWord st) t →
    exec i s = .next (s.faults st t (f (s.ctx st) (s.atWord st) t))

/-! ### Control transfer -/

/-- The checks of 04 R109 pass for a transfer of a thread to an address: canonical, a multiple of 4, translated by the core's L1 TLB to
an executable page, and a valid block head `h` there. -/
structure Reaches (s : State) (t : Thread) (a : Pair) (x : Trans) (h : Word) : Prop where
  canon : canonical a = true
  aligned : a.toNat % 4 = 0
  hit : (s.core t.core).l1tlb.find? (fun y => y.hits (s.slot (s.slotOf t)) (va57 a)) = some x
  exec : x.x = true
  word : s.fetchWord t.core (x.place (va57 a)) = h
  head : validHead h = true

/-- The thread stands at the head of the block at an address, ready, and its strand has ended. -/
def State.arrivesAt (s : State) (st : Strand) (t : Thread) (a : Pair) (x : Trans) (h : Word) : State :=
  (((s.atWord st).fillL1Tlb t.core x).endStrand st).enterAt t.tid a (blockOf a h) .none

/-- The word is a terminator at its place: the last of its block (03 R66). -/
def Strand.last (st : Strand) : Prop := st.pos + 1 = st.words.length

/-- A conditional branch goes to its target where its test holds, and on to the block after this one where it does not (04 R109). -/
def BranchesIf (i : Instr) (a : Reg) (o : BitVec 16) (test : Word → Bool) : Prop :=
  ∀ s st t x h, Alone s st t → st.last → OperandsReady s t [a] [] →
    (test (t.val a) = true → Reaches s t (st.pc + 4 * o.signExtend 64) x h →
      exec i s = .next (s.arrivesAt st t (st.pc + 4 * o.signExtend 64) x h)) ∧
    (test (t.val a) = false → Reaches s t (st.pc + 4) x h → exec i s = .next (s.arrivesAt st t (st.pc + 4) x h))

/-- A call to an address pushes the return address on the lane-private call stack and enters the function (04 R108, R109): the head is a
function entry, its budget is no more than the thread's, and there is room for a frame of 8 bytes. -/
def CallsTo (s : State) (st : Strand) (t : Thread) (a : Pair) (i : Instr) : Prop :=
  ∀ x h, Reaches s t a x h → h.getLsbD 24 = true → headBudget h ≤ t.budget → 8 * (t.depth + 1) ≤ s.windowOf t →
    exec i s = .next
      (((((((s.atWord st).fillL1Tlb t.core x).mapThread t.tid (fun t => { t with depth := t.depth + 1 })).lpWrite t
        (s.windowOf t - 8 * (t.depth + 1)) (leBytes 8 (st.pc + 4).toNat))).endStrand st).enterAt t.tid a (blockOf a h) .none)

/-! ### Hints -/

/-- A hint is held for its target: where no hint of its kind stands in the run yet, and the run has a target that accepts the kind and
the payload, the strand goes on with the hint in its run (03 R68 to R71). -/
def Holds (i : Instr) (k : HintKind) (first : Hints → Bool) (alone : Hints) (add : Hints → Hints) : Prop :=
  ∀ s st j w, Issuing s st → first st.hints = true → runTarget st.words st.pos = some (j, w) → hintAccepts k w = true →
    hintFits alone w = true →
    exec i s = .next { s.noteIssue st with strands := s.strands.map (fun x =>
      if x.sid = st.sid then { st with pos := st.pos + 1, hints := add st.hints, runLen := st.runLen + 1, lost := 0 } else x) }

/-! ### Operations in flight -/

/-- Nothing that a program sees as data has changed: memory, the cluster memories, and the scratch and lane-private arrays of every core
and die. -/
structure LeavesData (s s' : State) : Prop where
  mem : s'.mem = s.mem
  cores : ∀ n, (s'.core n).scratch = (s.core n).scratch ∧ (s'.core n).lp = (s.core n).lp
  clusters : s'.clusters = s.clusters
  dies : ∀ n, (s'.die n).scratch = (s.die n).scratch

/-- A word has put one operation in flight for its thread: the operation, of a class and a kind and with destinations that are pending
from now on (07 R169), stands last; the thread's counter of the class has risen by 1 (04 R106) and nothing else of it has changed; every
other thread and all data are as before; the strand stands at the word after. -/
structure PutsInFlight (s s' : State) (st : Strand) (t : Thread) (cls : Ctr) (dsts : List Reg) (kind : OpKind) : Prop where
  op : ∃ o, s'.ops = s.ops ++ [o] ∧ o.tid = t.tid ∧ o.cls = cls ∧ o.kind = kind ∧ o.dsts = dsts ∧ o.arrived = false ∧ o.core = t.core
  thread : s'.thread? t.tid = some (t.raise cls)
  others : ∀ n, n ≠ t.tid → s'.thread? n = s.thread? n
  data : LeavesData s s'
  strand : s'.strands = s.strands.map (fun x => if x.sid = st.sid then s'.pastWord st else x)

/-- The instruction puts an operation in flight, wherever a strand of one thread issues it, anywhere but at the end of a block, with
operands that are ready, and `ok` says which operation its own checks allow. -/
def Launches (i : Instr) (named : Hints → List Reg) (reads : Hints → List (Cls × Reg)) (cls : Ctr)
    (ok : Ctx → State → Thread → OpKind → List Reg → Prop) : Prop :=
  ∀ s st t kind dsts, Alone s st t → st.more → OperandsReady s t (named st.hints) (reads st.hints) →
    ok (s.ctx st) (s.atWord st) t kind dsts → ∃ s', exec i s = .next s' ∧ PutsInFlight s s' st t cls dsts kind

/-- The access of a load or store that passes its checks (07 R165), to this module. -/
def State.accessOk (s : State) (c : Ctx) (t : Thread) (ctr : Ctr) (sp : BitVec 3) (a : Reg) (z : Nat) (o : BitVec 6) (n : Need)
    (acc : Access) : Prop := (s.xmAccess c t ctr sp a z o n).2 = .ok acc ∧ acc.peer = none

/-- A load puts its operation in flight on class ld: the access passes the checks of 07 R165, and is no cell of the launch's transfer set
in deterministic mode (07 R174). -/
def LoadsFrom (i : Instr) (a : Reg) (sp : BitVec 3) (z : Nat) (o : BitVec 6) (dsts : List Reg) (word signed acq : Bool) : Prop :=
  Launches i (fun _ => dsts ++ baseRegs sp a) (fun _ => [baseOperand sp a]) .ld
    (fun c s t kind ds => ds = dsts ∧ ∃ acc, s.accessOk c t .ld sp a z o (needLoad word) acc ∧
      ¬(acc.sp = 0 ∧ acc.cls = 1 ∧ t.modeD = true ∧ s.inSetByVa t acc.va = true) ∧
      kind = .load acc signed (if acq then some (s.scopeLevel (s.slotOf t) t.core c.hints.scope) else none))

/-- A store to memory or a shared scratch space puts its operation in flight on class st, with the bytes it takes from its registers. -/
def StoresTo (i : Instr) (a : Reg) (sp : BitVec 3) (z : Nat) (o : BitVec 6) (srcs : List Reg) (rel : Bool) : Prop :=
  Launches i (fun _ => srcs ++ baseRegs sp a) (fun _ => [baseOperand sp a]) .st
    (fun c s t kind ds => ds = [] ∧ sp ≠ 1 ∧ ∃ acc, s.accessOk c t .st sp a z o needStore acc ∧
      kind = .store acc ((srcs.flatMap (fun r => leBytes 4 (t.val r).toNat)).take z)
        (if rel then some (s.scopeLevel (s.slotOf t) t.core c.hints.scope) else none))

/-- An atomic puts its operation in flight: the line's page passes the checks (10 R215), and in deterministic mode the form is one that
mode allows here (10 R217). -/
def AtomicOn (i : Instr) (ret : Bool) (f : AtomFn) (d a b : Reg) : Prop :=
  Launches i (fun _ => (if ret then f.regs d else []) ++ pairRegs a ++ f.regs b) (fun _ => [(.int64, a), (f.cls, b)])
    (if ret then .ld else .st)
    (fun c s t kind ds => ds = (if ret then f.regs d else []) ∧ t.full (if ret then .ld else .st) = false ∧
      ∃ acc, (s.globalAccess t (t.pair a) f.size c.hints.pol
          (if t.modeD && (f == .fadd || (orderedAtomic ret f && !c.st.blk.gath))
            then some { code := 0x0A01, addr := t.pair a, aux := 0xFFFFFFFF } else none) needStore).2 = .ok acc ∧
        kind = .atomic acc f (t.operand ((s.fieldFrac t).getD 0) f b) 0
          (atomPlace t.modeD (s.scopeLevel (s.slotOf t) t.core c.hints.scope) acc) (orderedAtomic ret f))

/-- A compare and swap puts its operation in flight, with the expected value from b and the new one from the register of its `hx` hint
(10 R216). -/
def SwapsOn (i : Instr) (f : AtomFn) (d a b : Reg) : Prop :=
  ∀ s st t kind dsts, Alone s st t → st.more → st.hints.hx.isSome = true → (f = .cas64 → st.hints.c.toNat % 2 = 0) →
    OperandsReady s t (f.regs d ++ pairRegs a ++ f.regs b ++ f.regs st.hints.c) [(.int64, a), (f.cls, b)] →
    dsts = f.regs d → t.full .ld = false →
    (∃ acc, ((s.atWord st).globalAccess t (t.pair a) f.size st.hints.pol
        (if t.modeD && !st.blk.gath then some { code := 0x0A01, addr := t.pair a, aux := 0xFFFFFFFF } else none) needStore).2 = .ok acc ∧
      kind = .atomic acc f (t.operand 0 f st.hints.c) (t.operand (((s.atWord st).fieldFrac t).getD 0) f b)
        (atomPlace t.modeD ((s.atWord st).scopeLevel ((s.atWord st).slotOf t) t.core st.hints.scope) acc) true) →
    ∃ s', exec i s = .next s' ∧ PutsInFlight s s' st t .ld dsts kind

/-- No operation has arrived, and no operation of its thread is before the one named: it completes as soon as it arrives. -/
def State.nextToRetire (s : State) (o : Op) : Prop :=
  s.op? o.id = some o ∧ (∀ p ∈ s.ops, p.arrived = false) ∧ (s.ops.map (fun p => p.id)).Nodup ∧
    (s.ops.takeWhile (fun p => p.id != o.id)).all (fun p => p.tid != o.tid) = true

/-- A fence of a thread: at once where its waits are over, its scope pushes nothing and it discards nothing, otherwise as an operation
(09 R199, R201, R202). -/
def FenceForm (i : Instr) (s : State) (st : Strand) (t : Thread) (n : Nat) (acq rel : Bool) : Prop :=
  let q := s.atWord st
  let reach := q.reach (q.slotOf t) t.core n
  let al := if acq then some reach.2 else none
  let rl := if rel then some reach.2 else none
  let o := { q.newOp (s.ctx st) t .none (.fence al rl) with reach := reach.1 }
  (q.fenceReady t al rl = true → reach.2 ≤ 1 → acq = false →
    exec i s = .next (((q.fenceEffect t.core al rl).fenceCode o al rl).goesOn st)) ∧
  (¬(q.fenceReady t al rl = true ∧ reach.2 ≤ 1 ∧ acq = false) →
    exec i s = .next (((q.addOp o).endStrand st).enterAt t.tid (st.pc + 4) ((q.addOp o).landing t.tid (st.pc + 4) st.blk) (.op q.nextId)))

/-- Two cores share the array of a scratch space: the scratchpad of the core (2), the memory of its cluster (3) or the scratchpad of its
die (4) (07 R162). -/
def sameScratch (sp x y : Nat) : Prop :=
  match sp with
  | 2 => x = y
  | 3 => clusterOf x = clusterOf y
  | _ => dieOf x = dieOf y

/-! ### Barriers -/

/-- An arrival at a barrier passes its checks: the operand is ready, the thread's earlier operations have completed, the count is 1 to the
unit's threads, and it is the open instance's count (10 R220). -/
def State.barrierReady (s : State) (t : Thread) (a : Reg) (i : BitVec 6) : Prop :=
  OperandsReady s t [a] [(.int, a)] ∧ s.holds t .quiet = true ∧ 1 ≤ (s.operand t .int a).toNat ∧ (s.operand t .int a).toNat ≤ s.ntid t ∧
    ((s.barrier t.unit i.toNat).opened = true → (s.barrier t.unit i.toNat).np = (s.operand t .int a).toNat)

/-- Arrivals at a barrier with the next one. -/
def State.came (s : State) (t : Thread) (i : BitVec 6) : Nat :=
  (if (s.barrier t.unit i.toNat).opened then (s.barrier t.unit i.toNat).na else 0) + 1

/-- The next arrival at a barrier completes the instance. -/
def State.lastToArrive (s : State) (t : Thread) (a : Reg) (i : BitVec 6) : Prop := s.came t i = (s.operand t .int a).toNat

/-- The barrier after an arrival, which is a release at core scope: it is counted, or the instance is complete and the next one closed. -/
def State.arrived (s : State) (t : Thread) (a : Reg) (i : BitVec 6) : State :=
  (s.codeOut t 0).setBarrier t.unit i.toNat
    (if s.came t i = (s.operand t .int a).toNat then { inst := (s.barrier t.unit i.toNat).inst + 1 }
     else { opened := true, np := (s.operand t .int a).toNat, na := s.came t i, inst := (s.barrier t.unit i.toNat).inst })

/-- The thread leaves the strand for the word after, waits there for the instance that was open, and owes an acquire at core scope. -/
def State.waitsAtBarrier (s : State) (st : Strand) (t : Thread) (i : BitVec 6) : State :=
  let q := s.mapThread t.tid (fun t => { t with owes := some 0 })
  (q.endStrand st).enterAt t.tid (st.pc + 4) (q.landing t.tid (st.pc + 4) st.blk) (.barrier i.toNat (s.barrier t.unit i.toNat).inst)

/-! ### Words and events -/

/-- An instruction that a strand issues: not an event of another agent, nor what a word that is no instruction runs as. -/
noncomputable def issuedByStrand (i : Instr) : Bool :=
  match i with
  | .illegalEncoding => false
  | .headWordInBody => false
  | .formStrand _ _ => false
  | .overflowQueueMove _ => false
  | .spillEntry _ => false
  | .bankReadRetry _ => false
  | .loadComplete _ _ => false
  | .storeComplete _ => false
  | .atomicBatchArrival _ _ => false
  | .atomicComplete _ => false
  | .deltaWriteHome _ _ => false
  | .remoteEviction _ _ => false
  | .fenceComplete _ => false
  | .peerReleaseTimeout _ => false
  | .pageWalkStart _ => false
  | .pageWalkComplete _ => false
  | .tlbInvalidateComplete _ => false
  | .copyComplete _ _ => false
  | .creelOverflowEnter _ _ => false
  | .stallRecord _ => false
  | .xferCoordinatorRequest _ => false
  | .lockEntryGrant _ => false
  | .xferSecondLock _ => false
  | .xferCommit _ => false
  | .xferUnlock _ => false
  | .xferAcknowledge _ => false
  | .counterSetUpdate _ => false
  | .xferComplete _ => false
  | .cellReadServed _ => false
  | .ftotHoldTimeout _ => false
  | .fdeclHomeComplete _ => false
  | .appendBatchServe _ => false
  | .appendDataWrite _ => false
  | .tailReadServe _ => false
  | .sealServe _ => false
  | .sealComplete _ => false
  | .freeServe _ => false
  | .freeReclaim _ => false
  | .replicaReclaim _ _ => false
  | .reclaimAck _ _ => false
  | .freeShootdown _ => false
  | .freeReopen _ => false
  | .aopenServe _ => false
  | .replicaFill _ => false
  | .tileCommandStart _ _ => false
  | .tileBlockArrival _ => false
  | .tileCommandRetire _ => false
  | .drainLineArrival _ => false
  | .mergeBufferEntryGrant _ => false
  | .peerRequestReceive _ => false
  | .peerResponseReceive _ => false
  | .requestResendTimeout _ => false
  | .flitReceive _ _ => false
  | .allowanceReturn _ _ _ _ => false
  | .resyncBeatSend _ => false
  | .resyncBeatReceive _ _ _ _ => false
  | .escapeTimeout _ => false
  | .linkRetrain _ => false
  | .linkLock _ _ _ => false
  | .linkTrainingTimeout _ => false
  | .linkTrainingRetry => false
  | .routingTableRewrite _ => false
  | .opticalReconfiguration _ _ => false
  | .waymark _ _ => false
  | .waymarkEcho _ _ => false
  | .switchSettled => false
  | .placeUnit _ => false
  | .unitEnd _ => false
  | .preemptUnit _ _ => false
  | .saveUnitComplete _ => false
  | .restoreUnit _ => false
  | .hostQuery _ => false
  | .queryReply _ _ => false
  | .acknowledgement _ => false
  | .createObject _ _ _ => false
  | .closeObject _ _ => false
  | .launchMessage _ _ => false
  | .cancelMessage _ _ => false
  | .preemptMessage _ _ _ => false
  | .countReadMessage _ _ => false
  | .systemRegisterMessage _ _ _ _ _ => false
  | .stateRequest _ _ => false
  | .attestationRequest _ _ _ => false
  | .firmwareImage _ _ _ _ _ _ => false
  | .checkpoint _ _ _ => false
  | .debugRequest _ _ => false
  | .messageResendTimeout => false
  | .clehildRestart => false
  | .moduleReset => false
  | .powerGrant _ _ _ => false
  | .powerGrantTimeout _ => false
  | .softErrorCorrected _ => false
  | .uncorrectableStateError _ _ => false
  | .wvFairWrite _ => false
  | .dsWinWrite _ => false
  | .trRootWrite _ => false
  | .trWaysWrite _ => false
  | .trWalkWrite _ => false
  | .scopeCtlWrite _ => false
  | .scopeMaskWrite _ => false
  | .crOvbaseWrite _ => false
  | .crOvctlWrite _ => false
  | .hpBaseWrite _ => false
  | .hpSizeWrite _ => false
  | .fabCtagWrite _ => false
  | .fabExpWrite _ => false
  | .tenQuotaWrite _ => false
  | .tenCoresWrite _ => false
  | .registerWrite _ => false
  | .flitAcknowledgement _ _ => false
  | .counterSetAcknowledgement _ => false
  | .replicaPageDrop _ => false
  | .l2wbComplete _ => false
  | _ => true

/-! ### Fields -/

/-- The descriptor that a thread's `fdecl` has read, as a field not yet usable (11 R250). -/
def declared (s : State) (t : Thread) : FieldSt := { words := t.descr, usable := false, gen := s.nextId }

/-! ### Tile commands -/

/-- A tile instruction enters a command in the sequencer, for a strand of one thread in a gathered block whose checks pass and whose
context has an entry free: the command, with the fields of its control word, stands last and waits; the thread's counter tl has risen by
1; data, other threads and other commands are as before (13 R291 to R294). -/
def EntersSequencer (i : Instr) (f : TileForm) : Prop :=
  ∀ s st t, Alone s st t → st.more → st.blk.gath = true → (f.gather = true → st.hints.hx.isSome = true) → f.illegal st.hints = false →
    OperandsReady s t (shapeOf (f.operands st.hints)).named (f.operands st.hints) → t.full .tl = false →
    (s.atWord st).holds t .tileEntry = true → f.check (s.atWord st) st.hints t = none →
    ∃ s' c, exec i s = .next s' ∧ s'.cmds = s.cmds ++ [c] ∧ c.state = .waiting ∧ c.next = 0 ∧ c.fn = f.fn ∧
      c.id = (s.operand t .int f.b).toNat % 256 ∧ c.x = (s.operand t .int f.b).toNat / 2 ^ 26 % 4 ∧
      c.ab = (s.operand t .int f.b).toNat / 2 ^ 28 % 4 ∧ c.bb = (s.operand t .int f.b).toNat / 2 ^ 30 ∧ c.unit = t.unit ∧
      c.tids = [(t.tid, t.slot)] ∧ c.preds = f.preds (s.atWord st) t ∧ c.addrs = f.addrs (s.atWord st) st.hints t [t] ∧
      s'.thread? t.tid = some (t.raise .tl) ∧ (∀ n, n ≠ t.tid → s'.thread? n = s.thread? n) ∧ LeavesData s s' ∧
      s'.strands = s.strands.map (fun x => if x.sid = st.sid then s.pastWord st else x)

/-! ### The host's channel -/

/-- A numbered message of the host is the next in order, nothing waits behind a gap, and the header and the state of the module let its
TYPE be served (16 R371, R373, R379). -/
structure InOrder (s : State) (h : MsgHead) (typ : Nat) : Prop where
  epoch : h.epoch = s.clehild.epoch
  seq : h.seq = s.clehild.nextIn
  low : s.clehild.nextIn < 2 ^ 32
  alone : s.clehild.waiting = []
  head : h.rsvd = 0 ∧ h.typ = typ ∧ h.vf < 16 ∧ (typ = 0x20 → h.hyp = true)
  served : s.serves typ = true

/-- The state in which a message that is in order is performed: its number is passed, and its header releases what it acknowledges. -/
def State.passed (s : State) (h : MsgHead) : State :=
  ({ s with clehild := { s.clehild with nextIn := (s.clehild.nextIn + 1) % 2 ^ 32 } } : State).takeAck h.ack

/-- A message in order does `f` to the state in which it is performed, where its own conditions hold. -/
def Delivers (i : Instr) (h : MsgHead) (typ : Nat) (ok : State → Prop) (f : State → State) : Prop :=
  ∀ s, InOrder s h typ → ok (s.passed h) → exec i s = .next (f (s.passed h))

/-- The numbered messages of the host with their headers and types (16 R372). -/
def HostEvent (i : Instr) (h : MsgHead) (typ : Nat) (m : HostMsg) : Prop :=
  (∃ level parent, i = .createObject h level parent ∧ typ = 0x10 ∧ m = .create h level parent) ∨
  (∃ obj, i = .closeObject h obj ∧ typ = 0x11 ∧ m = .close h obj) ∨
  (∃ ws, i = .launchMessage h ws ∧ typ = 0x12 ∧ m = .launch h ws) ∨
  (∃ obj, i = .cancelMessage h obj ∧ typ = 0x13 ∧ m = .cancel h obj) ∨
  (∃ obj bound, i = .preemptMessage h obj bound ∧ typ = 0x14 ∧ m = .preempt h obj bound) ∨
  (∃ obj, i = .countReadMessage h obj ∧ typ = 0x15 ∧ m = .counts h obj) ∨
  (∃ w n sel v, i = .systemRegisterMessage h w n sel v ∧ typ = 0x20 ∧ m = .register h w n sel v) ∨
  (∃ want, i = .stateRequest h want ∧ typ = 0x21 ∧ m = .request h want) ∨
  (∃ nonce slot, i = .attestationRequest h nonce slot ∧ typ = 0x22 ∧ m = .attest h nonce slot) ∨
  (∃ image v key r q, i = .firmwareImage h image v key r q ∧ typ = 0x23 ∧ m = .firmware h image v key r q) ∨
  (∃ restore image, i = .checkpoint h restore image ∧ typ = 0x24 ∧ m = .checkpoint h restore image) ∨
  ∃ q, i = .debugRequest h q ∧ typ = 0x30 ∧ m = .debug h q

end Sys2Proof.Machine
end

