-- ==== Sys2Proof/Certificates/Slice0/Obligations.lean ====
section
/-!
DEFINITION. The statements about the machine, from the numbered rules of the manual. A statement with several parts names them under
`Sys2Proof.Claims`.
-/

open Sys2Proof Sys2Proof.Machine

/-- 05 R125, R120: the integer instructions on registers. Each writes d, or both registers of pair(d), and nothing else changes. -/
def Sys2Proof.Claims.IntegerArithmeticResults : Prop :=
  ∀ d a b : Reg,
    Sets2 (.add d a b) d a b .int .int (fun x y => x + y) ∧
    Sets2 (.sub d a b) d a b .int .int (fun x y => x - y) ∧
    Sets2 (.mul d a b) d a b .int .int (fun x y => x * y) ∧
    Sets2 (.mulhI d a b) d a b .int .int (fun x y => hiWord (x.signExtend 64 * y.signExtend 64)) ∧
    Sets2 (.mulhN d a b) d a b .int .int (fun x y => hiWord (x.setWidth 64 * y.setWidth 64)) ∧
    Sets2 (.divI d a b) d a b .int .int (fun x y =>
      if y = 0 then 0xFFFFFFFF else if x = 0x80000000 ∧ y = 0xFFFFFFFF then 0x80000000 else x.sdiv y) ∧
    Sets2 (.divN d a b) d a b .int .int (fun x y => if y = 0 then 0xFFFFFFFF else x / y) ∧
    Sets2 (.remI d a b) d a b .int .int (fun x y =>
      if y = 0 then x else if x = 0x80000000 ∧ y = 0xFFFFFFFF then 0 else x.srem y) ∧
    Sets2 (.remN d a b) d a b .int .int (fun x y => if y = 0 then x else x % y) ∧
    Sets2 (.minI d a b) d a b .int .int (fun x y => if x.slt y then x else y) ∧
    Sets2 (.maxI d a b) d a b .int .int (fun x y => if x.slt y then y else x) ∧
    Sets2 (.minN d a b) d a b .int .int (fun x y => if x < y then x else y) ∧
    Sets2 (.maxN d a b) d a b .int .int (fun x y => if x < y then y else x) ∧
    Sets1 (.abs d a) d a .int .int (fun x => if x.msb then -x else x) ∧
    Sets1 (.neg d a) d a .int .int (fun x => -x) ∧
    Sets2 (.addsI d a b) d a b .int .int (fun x y =>
      BitVec.ofInt 32 (min (max (x.toInt + y.toInt) (-2147483648)) 2147483647)) ∧
    Sets2 (.subsI d a b) d a b .int .int (fun x y =>
      BitVec.ofInt 32 (min (max (x.toInt - y.toInt) (-2147483648)) 2147483647)) ∧
    SetsPair2 (.add64 d a b) d a b .int64 (fun _ => .x64) (fun _ x y => x + y) ∧
    SetsPair2 (.sub64 d a b) d a b .int64 (fun _ => .x64) (fun _ x y => x - y) ∧
    Completes (.mulwI d a b) (fun _ => pairRegs d ++ [a, b]) (fun _ => [(.int, a), (.int, b)])
      (fun s _ t => t.setPair d ((s.operand t .int a).signExtend 64 * (s.operand t .int b).signExtend 64) .x64) ∧
    Completes (.mulwN d a b) (fun _ => pairRegs d ++ [a, b]) (fun _ => [(.int, a), (.int, b)])
      (fun s _ t => t.setPair d ((s.operand t .int a).setWidth 64 * (s.operand t .int b).setWidth 64) .x64) ∧
    CompletesHx (.mad d a b) (fun h => [d, a, b, h.c]) (fun h => [(.int, a), (.int, b), (.int, h.c)])
      (fun s h t => t.setReg d (s.operand t .int a * s.operand t .int b + s.operand t .int h.c) .int)

/-- 05 R126: logic, shifts and counts on the bits of registers, whatever their tags. -/
def Sys2Proof.Claims.LogicAndShiftResults : Prop :=
  ∀ d a b : Reg,
    SetsBits2 (.and d a b) d a b (fun x y => x &&& y) ∧
    SetsBits2 (.or d a b) d a b (fun x y => x ||| y) ∧
    SetsBits2 (.xor d a b) d a b (fun x y => x ^^^ y) ∧
    SetsBits2 (.andn d a b) d a b (fun x y => x &&& ~~~y) ∧
    SetsBits1 (.not d a) d a (fun x => ~~~x) ∧
    SetsBits2 (.shl d a b) d a b (fun x y => if 32 ≤ y then 0 else x <<< y) ∧
    SetsBits2 (.shr d a b) d a b (fun x y => if 32 ≤ y then 0 else x >>> y) ∧
    SetsBits2 (.sha d a b) d a b (fun x y => if 32 ≤ y then (if x.msb then 0xFFFFFFFF else 0) else x.sshiftRight' y) ∧
    SetsBits2 (.rotl d a b) d a b (fun x y => (x <<< (y % 32)) ||| (x >>> ((32 - y % 32) % 32))) ∧
    SetsBits2 (.rotr d a b) d a b (fun x y => (x >>> (y % 32)) ||| (x <<< ((32 - y % 32) % 32))) ∧
    SetsBits1 (.popc d a) d a (fun x => BitVec.ofNat 32 ((List.range 32).countP (fun i => x.getLsbD i))) ∧
    SetsBits1 (.clz d a) d a (fun x => x.clz) ∧
    SetsBits1 (.ctz d a) d a (fun x => x.reverse.clz) ∧
    SetsBits1 (.brev d a) d a (fun x => x.reverse) ∧
    SetsBits3 (.dshl d a b) d a b (fun x y z => hiWord ((x ++ y) <<< z)) ∧
    SetsBits3 (.dshr d a b) d a b (fun x y z => loWord ((x ++ y) >>> z)) ∧
    SetsBits3 (.dsha d a b) d a b (fun x y z => loWord ((x ++ y).sshiftRight' z))

/-- All the parts hold: `IntegerArithmeticResults`; `LogicAndShiftResults`. -/
def Obligations.IntegerAndLogicResults : Prop :=
  Claims.IntegerArithmeticResults ∧
    Claims.LogicAndShiftResults

/-- 05 R127: bit fields. q gives the position q[7:0] and the length q[15:8], at most 32; bits above bit 31 read as 0. -/
def Obligations.BitFieldResults : Prop :=
  ∀ d a b : Reg,
    SetsBits2 (.bfeN d a b) d a b (fun x q =>
      BitVec.ofNat 32 (x.toNat / 2 ^ (q.toNat % 256) % 2 ^ min (q.toNat / 256 % 256) 32)) ∧
    SetsBits2 (.bfeI d a b) d a b (fun x q =>
      let m := min (q.toNat / 256 % 256) 32
      BitVec.signExtend 32 (BitVec.ofNat m (x.toNat / 2 ^ (q.toNat % 256)))) ∧
    SetsBits3 (.bfi d a b) d a b (fun x y q =>
      let p := q.toNat % 256
      let m := min (q.toNat / 256 % 256) 32
      BitVec.ofFnLE (fun i : Fin 32 => if p ≤ i.val ∧ i.val < p + m then y.getLsbD (i.val - p) else x.getLsbD i.val))

/-- 05 R128: the compares write 1 or 0 with tag INT. -/
def Obligations.CompareResults : Prop :=
  ∀ d a b : Reg,
    SetsBits2 (.eq d a b) d a b (fun x y => if x = y then 1 else 0) ∧
    SetsBits2 (.ne d a b) d a b (fun x y => if x = y then 0 else 1) ∧
    Sets2 (.ltI d a b) d a b .int .int (fun x y => if x.slt y then 1 else 0) ∧
    Sets2 (.leI d a b) d a b .int .int (fun x y => if x.sle y then 1 else 0) ∧
    Sets2 (.ltN d a b) d a b .int .int (fun x y => if x.ult y then 1 else 0) ∧
    Sets2 (.leN d a b) d a b .int .int (fun x y => if x.ule y then 1 else 0) ∧
    Tests2 (.eq64 d a b) d a b .any (fun _ => .int) (fun x y => x == y) ∧
    Tests2 (.ne64 d a b) d a b .any (fun _ => .int) (fun x y => x != y) ∧
    Tests2 (.lt64I d a b) d a b .int64 (fun _ => .int) BitVec.slt ∧
    Tests2 (.lt64N d a b) d a b .int64 (fun _ => .int) BitVec.ult

/-- 05 R129, R130: address formation and the immediate forms, with the immediate of 03 R64 or of the `hk` hint. -/
def Sys2Proof.Claims.AddressAndImmediateResults : Prop :=
  ∀ (d a b : Reg) (sh : BitVec 3) (j : BitVec 12),
    Completes (.lea d a b sh) (fun _ => pairRegs d ++ pairRegs a ++ [b]) (fun _ => [(.int64, a), (.int, b)])
      (fun s _ t => t.setPair d (t.pair a + ((s.operand t .int b).signExtend 64 <<< sh.toNat)) .x64) ∧
    Completes (.leaN d a b sh) (fun _ => pairRegs d ++ pairRegs a ++ [b]) (fun _ => [(.int64, a), (.int, b)])
      (fun s _ t => t.setPair d (t.pair a + ((s.operand t .int b).setWidth 64 <<< sh.toNat)) .x64) ∧
    Completes (.leai d a j) (fun _ => pairRegs d ++ pairRegs a) (fun _ => [(.int64, a)])
      (fun _ h t => t.setPair d (t.pair a + (signedImm h j).signExtend 64) .x64) ∧
    Completes (.addi d a j) (fun _ => [d, a]) (fun _ => [(.int, a)])
      (fun s h t => t.setReg d (s.operand t .int a + signedImm h j) .int) ∧
    Completes (.muli d a j) (fun _ => [d, a]) (fun _ => [(.int, a)])
      (fun s h t => t.setReg d (s.operand t .int a * signedImm h j) .int) ∧
    Completes (.andi d a j) (fun _ => [d, a]) (fun _ => [(.any, a)])
      (fun _ h t => t.setReg d (t.val a &&& unsignedImm h j) .int) ∧
    Completes (.ori d a j) (fun _ => [d, a]) (fun _ => [(.any, a)])
      (fun _ h t => t.setReg d (t.val a ||| unsignedImm h j) .int) ∧
    Completes (.xori d a j) (fun _ => [d, a]) (fun _ => [(.any, a)])
      (fun _ h t => t.setReg d (t.val a ^^^ unsignedImm h j) .int)

/-- 05 R131: shifts and compares with an immediate. -/
def Sys2Proof.Claims.ShiftAndCompareImmediateResults : Prop :=
  ∀ (d a : Reg) (n : BitVec 5) (v : BitVec 9),
    Sets1 (.shiShl d a n) d a .any .int (fun x => x <<< n.toNat) ∧
    Sets1 (.shiShr d a n) d a .any .int (fun x => x >>> n.toNat) ∧
    Sets1 (.shiSha d a n) d a .any .int (fun x => x.sshiftRight n.toNat) ∧
    Sets1 (.shiRotl d a n) d a .any .int (fun x => x.rotateLeft n.toNat) ∧
    Sets1 (.cmpiEq d a v) d a .any .int (fun x => if x = v.signExtend 32 then 1 else 0) ∧
    Sets1 (.cmpiNe d a v) d a .any .int (fun x => if x = v.signExtend 32 then 0 else 1) ∧
    Sets1 (.cmpiLtI d a v) d a .int .int (fun x => if x.slt (v.signExtend 32) then 1 else 0) ∧
    Sets1 (.cmpiLeI d a v) d a .int .int (fun x => if x.sle (v.signExtend 32) then 1 else 0) ∧
    Sets1 (.cmpiLtN d a v) d a .int .int (fun x => if x.ult (v.setWidth 32) then 1 else 0) ∧
    Sets1 (.cmpiLeN d a v) d a .int .int (fun x => if x.ule (v.setWidth 32) then 1 else 0)

/-- All the parts hold: `AddressAndImmediateResults`; `ShiftAndCompareImmediateResults`. -/
def Obligations.ImmediateResults : Prop :=
  Claims.AddressAndImmediateResults ∧
    Claims.ShiftAndCompareImmediateResults

/-- 05 R121, R122: constants, moves and tags. A `tagset` or `tagchk` code of 10 or more is no instruction, so codes here are below 10. -/
def Sys2Proof.Claims.MoveAndTagResults : Prop :=
  ∀ (d a b : Reg) (i : BitVec 12) (u : BitVec 19) (k : BitVec 7),
    Completes (.movi d i) (fun _ => [d]) (fun _ => []) (fun _ h t => t.setReg d (signedImm h i) .int) ∧
    Completes (.movu d u) (fun _ => [d]) (fun _ => []) (fun _ h t => t.setReg d (match h.hk with
      | some p => p.setWidth 13 ++ u
      | none => u.setWidth 32) .int) ∧
    Completes (.mov d a) (fun _ => [d, a]) (fun _ => []) (fun _ _ t => t.setReg d (t.val a) (t.reg a).tag) ∧
    CompletesHx (.sel d a b) (fun h => [d, a, b, h.c]) (fun _ => []) (fun _ h t =>
      if t.val h.c = 0 then t.setReg d (t.val b) (t.reg b).tag else t.setReg d (t.val a) (t.reg a).tag) ∧
    Completes (.tagget d a) (fun _ => [d, a]) (fun _ => []) (fun _ _ t => t.setReg d (BitVec.ofNat 32 (t.reg a).tag.code) .int) ∧
    (∀ g : Tag, k.toNat = g.code →
      Completes (.tagset d a k) (fun _ => [d, a]) (fun _ => []) (fun _ _ t => t.setReg d (t.val a) g) ∧
      Completes (.tagchk d a k) (fun _ => [d, a]) (fun _ => []) (fun _ _ t => t.setReg d (if (t.reg a).tag = g then 1 else 0) .int))

/-- 05 R124: `movsw` writes bit 0 of `$mode` from bit 0 of the register, and nothing of any other special register. -/
def Sys2Proof.Claims.ModeWriteTouchesOnlyT : Prop :=
  ∀ a : Reg,
    Completes (.movsw 21 a) (fun _ => [a]) (fun _ => []) (fun _ _ t => { t with modeT := (t.val a).getLsbD 0 }) ∧
    ∀ x : BitVec 7, x ≠ 21 → Completes (.movsw x a) (fun _ => [a]) (fun _ => []) (fun _ _ t => t)

/-- All the parts hold: `MoveAndTagResults`; `ModeWriteTouchesOnlyT`. -/
def Obligations.MovesTagsAndMode : Prop :=
  Claims.MoveAndTagResults ∧
    Claims.ModeWriteTouchesOnlyT

/-- 06 R144 to R146, R143: f32 arithmetic. Operands are read through the f32 class; the result is tagged F32, or INT for the compares and
`fclass`, unless an `hq` hint overrides the tag; rnd and sat come from that hint. The exact values behind `fexp2`, `flog2`, `frcp` and
`frsq` are assumption 16. -/
def Sys2Proof.Claims.SingleFloatResults : Prop :=
  ∀ d a b : Reg,
    SetsFloat2 (.fadd d a b) d a b .f32 f32.add ∧ SetsFloat2 (.fsub d a b) d a b .f32 f32.sub ∧
    SetsFloat2 (.fmul d a b) d a b .f32 f32.mul ∧ SetsFloat2 (.fdiv d a b) d a b .f32 f32.div ∧
    SetsFloat2 (.fmin d a b) d a b .f32 (fun _ _ => f32.min) ∧ SetsFloat2 (.fmax d a b) d a b .f32 (fun _ _ => f32.max) ∧
    SetsFloat2 (.fcmpEq d a b) d a b .int (fun _ _ x y => if f32.eq x y then 1 else 0) ∧
    SetsFloat2 (.fcmpLt d a b) d a b .int (fun _ _ x y => if f32.lt x y then 1 else 0) ∧
    SetsFloat2 (.fcmpLe d a b) d a b .int (fun _ _ x y => if f32.le x y then 1 else 0) ∧
    SetsFloat2 (.fcmpUn d a b) d a b .int (fun _ _ x y => if f32.isNan x || f32.isNan y then 1 else 0) ∧
    SetsFloat1 (.fabs d a) d a .f32 (fun _ _ x => if f32.isNan x then 0x7FC00000 else x % 2 ^ 31) ∧
    SetsFloat1 (.fneg d a) d a .f32 (fun _ _ x => if f32.isNan x then 0x7FC00000 else (x + 2 ^ 31) % 2 ^ 32) ∧
    SetsFloat1 (.fclass d a) d a .int (fun _ _ x => 2 ^ f32.classBit x) ∧
    SetsFloat1 (.frnd d a) d a .f32 f32.rint ∧ SetsFloat1 (.frcp d a) d a .f32 f32.rcp ∧
    SetsFloat1 (.frsq d a) d a .f32 f32.rsqrt ∧ SetsFloat1 (.fsqrt d a) d a .f32 f32.sqrt ∧
    SetsFloat1 (.fexp2 d a) d a .f32 f32.exp2 ∧ SetsFloat1 (.flog2 d a) d a .f32 f32.log2 ∧
    Completes (.fma d a b) (fun _ => [d, a, b]) (fun _ => [(.f32, d), (.f32, a), (.f32, b)])
      (fun s h t => t.setReg d (w32 (f32.fma h.rnd h.sat (s.operand t .f32 a).toNat (s.operand t .f32 b).toNat
        (s.operand t .f32 d).toNat)) (h.tag .f32))

/-- 06 R147: f64 arithmetic on pairs; the compares write one register. -/
def Sys2Proof.Claims.DoubleFloatResults : Prop :=
  ∀ d a b : Reg,
    SetsDouble2 (.dadd d a b) d a b f64.add ∧ SetsDouble2 (.dsub d a b) d a b f64.sub ∧
    SetsDouble2 (.dmul d a b) d a b f64.mul ∧ SetsDouble2 (.ddiv d a b) d a b f64.div ∧
    SetsDouble2 (.dmin d a b) d a b (fun _ _ => f64.min) ∧ SetsDouble2 (.dmax d a b) d a b (fun _ _ => f64.max) ∧
    Tests2 (.dcmpEq d a b) d a b .f64 (fun h => h.tag .int) (fun x y => f64.eq x.toNat y.toNat) ∧
    Tests2 (.dcmpLt d a b) d a b .f64 (fun h => h.tag .int) (fun x y => f64.lt x.toNat y.toNat) ∧
    Tests2 (.dcmpLe d a b) d a b .f64 (fun h => h.tag .int) (fun x y => f64.le x.toNat y.toNat) ∧
    Completes (.dsqrt d a) (fun _ => pairRegs d ++ pairRegs a) (fun _ => [(.f64, a)])
      (fun _ h t => t.setPair d (w64 (f64.sqrt h.rnd h.sat (t.pair a).toNat)) (h.tag .d64)) ∧
    Completes (.dfma d a b) (fun _ => pairRegs d ++ pairRegs a ++ pairRegs b) (fun _ => [(.f64, d), (.f64, a), (.f64, b)])
      (fun _ h t => t.setPair d (w64 (f64.fma h.rnd h.sat (t.pair a).toNat (t.pair b).toNat (t.pair d).toNat)) (h.tag .d64))

/-- 06 R148, R149: packed f16 and bf16, element by element, and the dot products, element 0 first. -/
def Sys2Proof.Claims.PackedFloatResults : Prop :=
  ∀ d a b : Reg,
    SetsPacked (.hadd d a b) d a b .h2 .h2 f16.add ∧ SetsPacked (.hmul d a b) d a b .h2 .h2 f16.mul ∧
    SetsPacked (.hmin d a b) d a b .h2 .h2 (fun _ _ => f16.min) ∧ SetsPacked (.hmax d a b) d a b .h2 .h2 (fun _ _ => f16.max) ∧
    SetsPacked (.badd d a b) d a b .b2 .b2 bf16.add ∧ SetsPacked (.bmul d a b) d a b .b2 .b2 bf16.mul ∧
    SetsPacked (.bmin d a b) d a b .b2 .b2 (fun _ _ => bf16.min) ∧ SetsPacked (.bmax d a b) d a b .b2 .b2 (fun _ _ => bf16.max) ∧
    SetsPackedFma (.hfma d a b) d a b .h2 .h2 f16 ∧ SetsPackedFma (.bfma d a b) d a b .b2 .b2 bf16 ∧
    SetsDot (.hdot d a b) d a b .h2 f16 ∧ SetsDot (.bdot d a b) d a b .b2 bf16

/-- All the parts hold: `SingleFloatResults`; `DoubleFloatResults`; `PackedFloatResults`. -/
def Obligations.FloatResults : Prop :=
  Claims.SingleFloatResults ∧
    Claims.DoubleFloatResults ∧
    Claims.PackedFloatResults

/-- 06 R150: conversions between number formats. -/
def Sys2Proof.Claims.ConversionResults : Prop :=
  ∀ d a b : Reg,
    SetsConv (.cvtF32I32 d a) d a .int .f32 (fun h x => w32 (f32.roundInt h.rnd h.sat false x.toInt 0)) ∧
    SetsConv (.cvtF32N32 d a) d a .int .f32 (fun h x => w32 (f32.roundInt h.rnd h.sat false x.toNat 0)) ∧
    SetsConv (.cvtI32F32 d a) d a .f32 .int (fun h x => BitVec.ofInt 32 (f32.toInt h.rnd 0 (-(2 ^ 31)) (2 ^ 31 - 1) x.toNat)) ∧
    SetsConv (.cvtN32F32 d a) d a .f32 .int (fun h x => BitVec.ofInt 32 (f32.toInt h.rnd 0 0 (2 ^ 32 - 1) x.toNat)) ∧
    SetsConv (.cvtF32H2lo d a) d a .h2 .f32 (fun _ x => w32 (f32.ofVal 0 false (f16.val (x.toNat % 2 ^ 16)))) ∧
    SetsConv (.cvtF32H2hi d a) d a .h2 .f32 (fun _ x => w32 (f32.ofVal 0 false (f16.val (x.toNat / 2 ^ 16)))) ∧
    SetsConv (.cvtF32B2lo d a) d a .b2 .f32 (fun _ x => w32 (f32.ofVal 0 false (bf16.val (x.toNat % 2 ^ 16)))) ∧
    SetsConv (.cvtF32B2hi d a) d a .b2 .f32 (fun _ x => w32 (f32.ofVal 0 false (bf16.val (x.toNat / 2 ^ 16)))) ∧
    Completes (.cvtF64F32 d a) (fun _ => pairRegs d ++ [a]) (fun _ => [(.f32, a)])
      (fun s h t => t.setPair d (w64 (f64.ofVal 0 false (f32.val (s.operand t .f32 a).toNat))) (h.tag .d64)) ∧
    Completes (.cvtF64I32 d a) (fun _ => pairRegs d ++ [a]) (fun _ => [(.int, a)])
      (fun s h t => t.setPair d (w64 (f64.roundInt 0 false false (s.operand t .int a).toInt 0)) (h.tag .d64)) ∧
    Completes (.cvtF32F64 d a) (fun _ => [d] ++ pairRegs a) (fun _ => [(.f64, a)])
      (fun _ h t => t.setReg d (w32 (f32.ofVal h.rnd h.sat (f64.val (t.pair a).toNat))) (h.tag .f32)) ∧
    Completes (.cvtI32F64 d a) (fun _ => [d] ++ pairRegs a) (fun _ => [(.f64, a)])
      (fun _ h t => t.setReg d (BitVec.ofInt 32 (f64.toInt h.rnd 0 (-(2 ^ 31)) (2 ^ 31 - 1) (t.pair a).toNat)) (h.tag .int)) ∧
    SetsPack (.cvtH2F32 d a b) d a b .h2 f16 ∧ SetsPack (.cvtB2F32 d a b) d a b .b2 bf16

/-- 06 R154 to R159: LNS6 codes and scales. -/
def Sys2Proof.Claims.LogFormatResults : Prop :=
  ∀ (d a b : Reg) (j : BitVec 7),
    Completes (.qnt d a b) (fun _ => [d, a, b]) (fun _ => [(.f32, a), (.sc, b)])
      (fun s h t => t.setReg d (w32 (qntCode (s.operand t .f32 a) (t.val b))) (h.tag .l5)) ∧
    Completes (.dqnt d a b) (fun _ => [d, a, b]) (fun _ => [(.l5, a), (.sc, b)])
      (fun _ h t => t.setReg d (w32 (dqntV h (t.val a) (t.val b))) (h.tag .f32)) ∧
    Completes (.lpack d a b) (fun _ => [d, a, b]) (fun _ => [(.l5, a), (.l5, b)])
      (fun _ h t => t.setReg d ((0#2 ++ (t.val b).extractLsb' 0 6) ++ (t.val a).extractLsb' 6 24) (h.tag .l5)) ∧
    (j.toNat < 5 → Completes (.lunpk d a j) (fun _ => [d, a]) (fun _ => [(.l5, a)])
      (fun _ h t => t.setReg d (((t.val a).extractLsb' (6 * j.toNat) 6).setWidth 32) (h.tag .l5))) ∧
    Completes (.lscale d a) (fun _ => [d, a]) (fun _ => [(.f32, a)])
      (fun s h t => t.setReg d (w32 (lscaleE (s.operand t .f32 a).toNat)) (h.tag .sc)) ∧
    Completes (.lmul d a b) (fun _ => [d, a, b]) (fun _ => [(.l5, a), (.l5, b)])
      (fun _ h t => t.setReg d (lmulV (t.val a) (t.val b)) (h.tag .l5)) ∧
    (∀ s st, Issuing s st → st.more → st.hints.hx = none → AllReady s st [d, a, b] [(.f32, d), (.l5, a), (.l5, b)] →
      exec (.ldot d a b) s = .next (s.wordDone st (fun t => t.setReg d
        (w32 (ldotV st.hints.rnd st.hints.sat (s.operand t .f32 d).toNat (t.val a) (t.val b) 127 127)) (st.hints.tag .f32)))) ∧
    (∀ s st m c, Issuing s st → st.more → st.hints.hx = some (m, c) → c.toNat % 2 = 0 →
      AllReady s st ([d, a, b] ++ pairRegs c) [(.f32, d), (.l5, a), (.l5, b), (.sc, c), (.sc, c + 1)] →
      exec (.ldot d a b) s = .next (s.wordDone st (fun t => t.setReg d
        (w32 (ldotV st.hints.rnd st.hints.sat (s.operand t .f32 d).toNat (t.val a) (t.val b) ((t.val c).toNat % 256)
          ((t.val (c + 1)).toNat % 256))) (st.hints.tag .f32))))

/-- All the parts hold: `ConversionResults`; `LogFormatResults`. -/
def Obligations.ConversionAndLogResults : Prop :=
  Claims.ConversionResults ∧
    Claims.LogFormatResults

/-- 05 R132, R134: the exchange of registers within a group. A lane reads register a of the active lane at a relative index, or its own
register where that index names no active lane; the tag goes with the value. -/
def Sys2Proof.Claims.LaneShuffleResults : Prop :=
  ∀ d a b : Reg,
    LaneCompletes (.bcast d a b) [d, a] [(.any, a)] (fun _ w g t => takeLane d a w g t b.toNat) ∧
    LaneCompletes (.shfl d a b) [d, a, b] [(.any, a), (.int, b)]
      (fun s w g t => takeLane d a w g t (s.operand t .int b).toNat) ∧
    LaneCompletes (.shfx d a b) [d, a, b] [(.any, a), (.int, b)]
      (fun s w g t => takeLane d a w g t (Nat.xor (t.lane % w) (s.operand t .int b).toNat)) ∧
    LaneCompletes (.shfup d a b) [d, a, b] [(.any, a), (.int, b)]
      (fun s w g t => takeLane d a w g t ((t.lane % w : Nat) - ((s.operand t .int b).toNat : Int))) ∧
    LaneCompletes (.shfdn d a b) [d, a, b] [(.any, a), (.int, b)]
      (fun s w g t => takeLane d a w g t ((t.lane % w : Nat) + ((s.operand t .int b).toNat : Int)))

/-- 05 R134, R135: votes, reductions and scans over the active lanes of a group. That the float sums of one lane whose value is a NaN are the
canonical NaN, and not that lane's own value, is the model's choice: assumption 108. -/
def Sys2Proof.Claims.LaneReductionResults : Prop :=
  ∀ d a : Reg,
    LaneCompletes (.voteAny d a) [d, a] [(.any, a)]
      (fun _ _ g t => t.setReg d (if ∃ u ∈ g, u.val a ≠ 0 then 1 else 0) .int) ∧
    LaneCompletes (.voteAll d a) [d, a] [(.any, a)]
      (fun _ _ g t => t.setReg d (if ∀ u ∈ g, u.val a ≠ 0 then 1 else 0) .int) ∧
    LaneCompletes (.voteMask d a) (pairRegs d ++ [a]) [(.any, a)]
      (fun _ w g t => t.setPair d (BitVec.ofNat 64 (g.map (fun u => if u.val a = 0 then 0 else 2 ^ (u.lane % w))).sum) .x64) ∧
    LaneCompletes (.gredAdd d a) [d, a] [(.int, a)]
      (fun s _ g t => t.setReg d (BitVec.ofNat 32 (g.map (fun u => (s.operand u .int a).toNat)).sum) .int) ∧
    LaneCompletes (.gscanAdd d a) [d, a] [(.int, a)]
      (fun s _ g t => t.setReg d (BitVec.ofNat 32
        ((g.filter (fun u => u.lane ≤ t.lane)).map (fun u => (s.operand u .int a).toNat)).sum) .int) ∧
    LaneCompletes (.gredMin d a) [d, a] [(.int, a)]
      (fun s _ g t => t.setReg d (g.foldr (fun u m => if (s.operand u .int a).slt m then s.operand u .int a else m) 0x7FFFFFFF) .int) ∧
    LaneCompletes (.gredMax d a) [d, a] [(.int, a)]
      (fun s _ g t => t.setReg d (g.foldr (fun u m => if m.slt (s.operand u .int a) then s.operand u .int a else m) 0x80000000) .int) ∧
    LaneCompletes (.gredFadd d a) [d, a] [(.f32, a)]
      (fun s _ g t => t.setReg d (floatSum (g.map (fun u => s.operand u .f32 a))) .f32) ∧
    LaneCompletes (.gscanFadd d a) [d, a] [(.f32, a)]
      (fun s _ g t => t.setReg d (floatSum ((g.filter (fun u => u.lane ≤ t.lane)).map (fun u => s.operand u .f32 a))) .f32) ∧
    LaneCompletes (.gfirst d a) [d, a] [(.any, a)]
      (fun _ w g t => t.setReg d (match g.find? (fun u => u.val a != 0) with
        | some u => BitVec.ofNat 32 (u.lane % w)
        | none => 0xFFFFFFFF) .int)

/-- All the parts hold: `LaneShuffleResults`; `LaneReductionResults`. -/
def Obligations.LaneResults : Prop :=
  Claims.LaneShuffleResults ∧
    Claims.LaneReductionResults

/-- 04 R109: branches by offset, by register test and through a pair of registers. -/
def Sys2Proof.Claims.BranchesReachTheirTargets : Prop :=
  ∀ (a : Reg) (o : BitVec 16),
    (∀ s st t x h, Alone s st t → st.last → Reaches s t (st.pc + 4 * o.signExtend 64) x h →
      exec (.br o) s = .next (s.arrivesAt st t (st.pc + 4 * o.signExtend 64) x h)) ∧
    (∀ s st t x h, Alone s st t → st.last → OperandsReady s t (pairRegs a) [] → Reaches s t (t.pair a) x h →
      exec (.bx a) s = .next (s.arrivesAt st t (t.pair a) x h)) ∧
    BranchesIf (.brZ a o) a o (fun v => v == 0) ∧ BranchesIf (.brNz a o) a o (fun v => v != 0) ∧
    BranchesIf (.brNeg a o) a o (fun v => v.msb) ∧ BranchesIf (.brNn a o) a o (fun v => !v.msb)

/-- 04 R108 to R110: calls push the return address and enter the function; `ret` leaves the top frame and goes to its address, or ends
the thread when the stack is empty; `exit` ends the thread. -/
def Sys2Proof.Claims.CallReturnAndExit : Prop :=
  ∀ (a : Reg) (o : BitVec 16) s st t, Alone s st t → st.last →
    CallsTo s st t (st.pc + 4 * o.signExtend 64) (.call o) ∧
    (OperandsReady s t (pairRegs a) [] → CallsTo s st t (t.pair a) (.callx a)) ∧
    (∀ x h, t.depth ≠ 0 → Reaches s t (s.topFrame t) x h →
      exec .ret s = .next (((((s.atWord st).fillL1Tlb t.core x).mapThread t.tid (fun t => { t with depth := t.depth - 1 })).endStrand
        st).enterAt t.tid (s.topFrame t) (blockOf (s.topFrame t) h) .none)) ∧
    (t.depth = 0 → exec .ret s = .next (((s.atWord st).endStrand st).exitThread t.tid)) ∧
    exec .exit s = .next (((s.atWord st).endStrand st).exitThread t.tid)

/-- All the parts hold: `BranchesReachTheirTargets`; `CallReturnAndExit`. -/
def Obligations.ControlTransfers : Prop :=
  Claims.BranchesReachTheirTargets ∧
    Claims.CallReturnAndExit

/-- 04 R101 to R104, R107, R109: `nop` does nothing; `wait` goes on where every named counter is at or below its threshold, and otherwise
the thread leaves with reason counter and will issue the run again; `yield` leaves the strand for the word after, with the set Y, empty where P
is clear or D set, and the cycle of the `yield`. -/
def Sys2Proof.Claims.NopWaitAndYield : Prop :=
  Acts .nop (fun _ => []) (fun _ => []) (fun _ _ _ => True) (fun _ s _ => s) ∧
  (∀ l x c k : BitVec 4,
    Acts (.wait l x c k) (fun _ => []) (fun _ => [])
      (fun _ _ t => (l = 15 ∨ t.ld ≤ l.toNat) ∧ (x = 15 ∨ t.st ≤ x.toNat) ∧ (c = 15 ∨ t.cp ≤ c.toNat) ∧ (k = 15 ∨ t.tl ≤ k.toNat))
      (fun _ s _ => s) ∧
    ∀ s st t, Alone s st t →
      ¬ ((l = 15 ∨ t.ld ≤ l.toNat) ∧ (x = 15 ∨ t.st ≤ x.toNat) ∧ (c = 15 ∨ t.cp ≤ c.toNat) ∧ (k = 15 ∨ t.tl ≤ k.toNat)) →
      exec (.wait l x c k) s = .next (((s.atWord st).endStrand st).enterAt t.tid st.runPc st.blk
        (.counter l.toNat x.toNat c.toNat k.toNat))) ∧
  (∀ s st t, Alone s st t →
    exec .yield s = .next (((s.atWord st).endStrand st).enterAt t.tid (st.pc + 4) ((s.atWord st).landing t.tid (st.pc + 4) st.blk)
      (.yield (if t.modeD = true ∨ t.modeP = false then [] else (s.atWord st).yieldSet t (st.pc + 4)) (s.coreClock t.core))))

/-- 03 R66, R76; 04 R109: `trap`, a word that nothing assigns and a head word in a body raise their faults for the thread. -/
def Sys2Proof.Claims.TrapAndIllegalWordsFault : Prop :=
  (∀ b : Reg, Raises (.trap b) (fun _ => []) (fun _ => []) (fun _ _ _ => True)
    (fun _ _ _ => { code := 0x0205, aux := b.setWidth 32 })) ∧
  Raises .illegalEncoding (fun _ => []) (fun _ => []) (fun c _ _ => c.word.toNat / 2 ^ 26 ≠ 1) (fun _ _ _ => { code := 0x0101 }) ∧
  (∀ s st t, Alone s st t → st.word.toNat / 2 ^ 26 = 1 →
    exec .illegalEncoding s = .next (((s.noteIssue st).endStrand st).takeFault t.tid { code := 0x0101 } (hintSite (ctxOf s st)))) ∧
  Raises .headWordInBody (fun _ => []) (fun _ => []) (fun _ _ _ => True) (fun _ _ _ => { code := 0x0103 })

/-- All the parts hold: `NopWaitAndYield`; `TrapAndIllegalWordsFault`. -/
def Obligations.WaitsTrapsAndIllegalWords : Prop :=
  Claims.NopWaitAndYield ∧
    Claims.TrapAndIllegalWordsFault

/-- 03 R68 to R71: a hint before a target that accepts it, with no hint of its kind before it in the run and a payload that the target
allows, is held for the target; no thread and no memory changes. -/
def Obligations.HintsAreHeldForTheirTarget : Prop :=
  ∀ (p : BitVec 24) (m : BitVec 17) (c : Reg) (q : BitVec 3) (n : BitVec 4) (e : BitVec 1) (k : BitVec 4) (x : BitVec 1) (r : BitVec 3),
    Holds (.hk p) .hk (fun h => h.hk.isNone) { hk := some p } (fun h => { h with hk := some p }) ∧
    Holds (.hx m c) .hx (fun h => h.hx.isNone) { hx := some (m, c) } (fun h => { h with hx := some (m, c) }) ∧
    Holds (.hs q n) .hs (fun h => h.hs.isNone) { hs := some (q, n) } (fun h => { h with hs := some (q, n) }) ∧
    Holds (.hq e k x r) .hq (fun h => h.hq.isNone) { hq := some (e, k, x, r) } (fun h => { h with hq := some (e, k, x, r) })

/-- 07 R165 to R167, R174 to R179: loads, stores and their acquire and release forms are put in flight; their destinations are pending. -/
def Obligations.LoadsAndStoresGoInFlight : Prop :=
  ∀ (d a : Reg) (sp w : BitVec 3) (o : BitVec 6),
    LoadsFrom (.ld d a sp w o) a sp (Machine.sizeOf w) o (widthRegs w d) (w == 4) (w == 1 || w == 3) false ∧
    LoadsFrom (.ldacq d a sp w o) a sp (Machine.sizeOf w) o (widthRegs w d) (w == 4) (w == 1 || w == 3) true ∧
    LoadsFrom (.ldq d a sp o) a sp 16 o [d, d + 1, d + 2, d + 3] false false false ∧
    StoresTo (.st d a sp w o) a sp (Machine.sizeOf w) o (widthRegs w d) false ∧
    StoresTo (.strel d a sp w o) a sp (Machine.sizeOf w) o (widthRegs w d) true ∧
    StoresTo (.stq d a sp o) a sp 16 o [d, d + 1, d + 2, d + 3] false

/-- 07 R162: a store to the thread's own lane-private window, `st`, `strel` or `stq`, writes its bytes there at once; every other byte of that
array, and all of memory, is as before. The extent of the window is in bytes from its start. A load of the window takes its bytes at once: those
that the thread wrote as they stand. -/
def Sys2Proof.Claims.PrivateWindowIsWrittenAndRead : Prop :=
  (∀ (d a : Reg) (w : BitVec 3) (o : BitVec 6),
    ∀ x ∈ [(Instr.st d a 1 w o, widthRegs w d, Machine.sizeOf w), (.strel d a 1 w o, widthRegs w d, Machine.sizeOf w),
      (.stq d a 1 o, [d, d + 1, d + 2, d + 3], 16)],
    ∀ s st t acc, Alone s st t → st.more → OperandsReady s t (x.2.1 ++ [a]) [(.int, a)] →
      (s.atWord st).accessOk (s.ctx st) t .st 1 a x.2.2 o needStore acc → Memory.wf (s.core t.core).lp = true →
      ∃ s', exec x.1 s = .next s' ∧ s'.mem = s.mem ∧
        ∀ j, Memory.read (s'.core t.core).lp j =
          if acc.loc ≤ j ∧ j < acc.loc + x.2.2 then (x.2.1.flatMap (fun r => leBytes 4 (t.val r).toNat)).getD (j - acc.loc) 0
          else Memory.read (s.core t.core).lp j) ∧
  ∀ (d a : Reg) (w : BitVec 3) (o : BitVec 6),
    ∀ x ∈ [(Instr.ld d a 1 w o, widthRegs w d, Machine.sizeOf w, w == 1 || w == 3), (.ldq d a 1 o, [d, d + 1, d + 2, d + 3], 16, false)],
    ∀ s st t acc, Alone s st t → st.more → OperandsReady s t (x.2.1 ++ [a]) [(.int, a)] →
      (s.atWord st).accessOk (s.ctx st) t .ld 1 a x.2.2.1 o (needLoad (w == 4)) acc →
      (∀ i, acc.loc - t.slot * 16384 ≤ i → i < acc.loc - t.slot * 16384 + x.2.2.1 → i ∈ t.lpWritten) → t.slot * 16384 ≤ acc.loc →
      ∃ s' p, exec x.1 s = .next s' ∧ s'.ops = s.ops ++ [p] ∧ p.kind = .load acc x.2.2.2 none ∧ p.dsts = x.2.1 ∧
        p.data = loadWords x.2.2.2 ((List.range x.2.2.1).map (fun i => Memory.read (s.core t.core).lp (acc.loc + i)))

/-- 07 R168, R173, R179; 09 R197, R198; 14 R317: a store of a thread to ordinary memory of its die changes exactly its own bytes at the home,
after the push of its release where it is a `strel`. One whose home is another die of the module changes exactly its own bytes of the line in the
die's remote partition, as dirty bytes, where no delta covers them: memory and every other line stay. One to a peer sends its bytes to the peer's
home as a request of type 2; the store by which this module performs a peer's request changes exactly its bytes at the home. -/
def Sys2Proof.Claims.StoreReachesItsHome : Prop :=
  (∀ s o a bs rel, s.nextToRetire o → o.kind = .store a bs rel → a.sp = 0 → o.origin = none → o.fault = none → peerOf a.loc = none →
    s.awaits o.id = false → s.freeToAct o = true → homeDie a.loc = dieOf o.core → Memory.wf s.mem = true →
    let q := match rel with
      | some level => s.releasePush o.core level
      | none => s
    ∃ s', exec (.storeComplete o.id) s = .next s' ∧ s'.op? o.id = none ∧
      ∀ j, Memory.read s'.mem j = if a.loc ≤ j ∧ j < a.loc + bs.length then bs.getD (j - a.loc) 0 else Memory.read q.mem j) ∧
  (∀ s o a bs, s.nextToRetire o → o.kind = .store a bs none → a.sp = 0 → o.origin = none → o.fault = none → peerOf a.loc = none →
    s.freeToAct o = true → homeDie a.loc ≠ dieOf o.core →
    let line := lineOf a.loc
    let off := a.loc % 128
    let l := s.remoteLine (dieOf o.core) line
    Memory.wf l.copy = true → (∀ d ∈ l.deltas, deltaMeets off bs.length d = false) →
    ∃ s', exec (.storeComplete o.id) s = .next s' ∧ s'.op? o.id = none ∧ s'.mem = s.mem ∧
      (∀ i, Memory.read (s'.remoteLine (dieOf o.core) line).copy i =
        if off ≤ i ∧ i < off + bs.length then bs.getD (i - off) 0 else Memory.read l.copy i) ∧
      (∀ i, i ∈ (s'.remoteLine (dieOf o.core) line).dirty ↔ i ∈ l.dirty ∨ (off ≤ i ∧ i < off + bs.length)) ∧
      (s'.remoteLine (dieOf o.core) line).deltas = l.deltas ∧ (s'.remoteLine (dieOf o.core) line).whole = l.whole ∧
      ∀ die k, die ≠ dieOf o.core ∨ k ≠ line → s'.remoteLine die k = s.remoteLine die k) ∧
  (∀ s o a bs dev, s.op? o.id = some o → o.kind = .store a bs none → a.sp = 0 → o.origin = none → peerOf a.loc = some dev →
    s.freeToAct o = true → s.awaits o.id = false →
    let q := (s.dropCopies (dieOf o.core) a.loc a.z).l1Late o a bs
    let txn := Sparse.get 0 s.nextTxn dev
    exec (.storeComplete o.id) s = .next ({ q with
      nextTxn := Sparse.set 0 s.nextTxn dev ((txn + 1) % 2 ^ 16)
      reqs := s.reqs ++ [{
        op := o.id, tid := o.tid, slot := o.slot, core := o.core, tslot := o.tslot, launch := o.launch, pos := 0
        pkt := { dst := dev, src := s.dev, vc := 0, typ := 2, ctag := (s.slot o.slot).ctag, txn := txn, len := bs.length - 1, op := 0, hops := 0,
                 gh := false, addr := a.loc % Config.placeSpan, low := 0, rsvd := 0, data := bs } }] } : State).pumpReqs) ∧
  ∀ s o a bs p, s.nextToRetire o → o.kind = .store a bs none → a.sp = 0 → o.origin = some p → o.fault = none → s.freeToAct o = true →
    Memory.wf s.mem = true →
    ∃ s', exec (.storeComplete o.id) s = .next s' ∧ s'.op? o.id = none ∧
      ∀ j, Memory.read s'.mem j = if a.loc ≤ j ∧ j < a.loc + bs.length then bs.getD (j - a.loc) 0 else Memory.read s.mem j

/-- All the parts hold: `PrivateWindowIsWrittenAndRead`; `StoreReachesItsHome`. -/
def Obligations.StoresWriteTheirBytes : Prop :=
  Claims.PrivateWindowIsWrittenAndRead ∧
    Claims.StoreReachesItsHome

/-- 07 R165: when an access to a scratch space passes its checks, and which fault it raises when it does not. The
address words of the fault are assumption 89. -/
def Sys2Proof.Claims.ScratchAccessChecks : Prop :=
  ∀ (s : State) (t : Thread) (sp z : Nat) (o : Int), 0 < z →
    (o % z ≠ 0 → s.scratchAccess t sp z o = .error (.fault { code := 0x0505, addr := scratchWords o })) ∧
    (o % z = 0 → (o < 0 ∨ ((s.region t sp).1 : Int) < o + z) →
      s.scratchAccess t sp z o = .error (.fault { code := 0x0506, addr := scratchWords o })) ∧
    (∀ n : Nat, o = n → n % z = 0 → n + z ≤ (s.region t sp).1 →
      s.scratchAccess t sp z o = .ok { sp := sp, va := BitVec.ofNat 64 n, loc := (s.region t sp).2 + n, z := z })

/-- 07 R165, R167; 08 R180; 14 R317: the checks of an access to memory in their order: canonical address, alignment, translation, page
class, writable bit, peer. An entry of the L1 TLB serves, otherwise one of the L2 TLB, which fills the L1 TLB; a miss in both faults with 0x0501
where the walk that the thread waited for found nothing, and otherwise the thread waits for the walk of its page, which is queued where none is
(08 R186, R187). An access through a peer leaf ends the context where the context has no tag (cause 1), and where the group does not exist or the
peer is Down (cause 0). -/
def Sys2Proof.Claims.GlobalAccessChecks : Prop :=
  ∀ (s : State) (t : Thread) (ea : Pair) (z pol : Nat) (n : Need), 0 < z →
    (canonical ea = false → s.globalAccess t ea z pol none n = (s, .error (.fault { code := 0x0507, addr := ea }))) ∧
    (canonical ea = true → ea.toNat % z ≠ 0 → s.globalAccess t ea z pol none n = (s, .error (.fault { code := 0x0505, addr := ea }))) ∧
    let slot := s.slotOf t
    let inL1 := (s.core t.core).l1tlb.find? (fun y => y.hits (s.slot slot) (va57 ea))
    let inL2 := (s.die (dieOf t.core)).l2tlb.find? (fun y => y.hits (s.slot slot) (va57 ea))
    canonical ea = true → ea.toNat % z = 0 →
      (∀ (x : Trans) q, (inL1 = some x ∧ q = s.fillL1Tlb t.core x) ∨
          (inL1 = none ∧ inL2 = some x ∧ q = (s.fillL2Tlb (dieOf t.core) x).fillL1Tlb t.core x) →
        (∀ code aux, n.ofClass x.cls = some (code, aux) →
          s.globalAccess t ea z pol none n = (q, .error (.fault { code := code, addr := ea, aux := aux }))) ∧
        (n.ofClass x.cls = none → n.write = true → x.w = false →
          s.globalAccess t ea z pol none n = (q, .error (.fault { code := 0x0504, addr := ea }))) ∧
        (n.ofClass x.cls = none → (n.write = true → x.w = true) →
          (x.peer = none → s.globalAccess t ea z pol none n = (q, .ok (mkAccess x ea z pol))) ∧
          ∀ dev, x.peer = some dev →
            ((s.slot slot).ctagV = false →
              s.globalAccess t ea z pol none n = (q, .error (.fault { code := 0x0901, addr := ea, aux := 1 }))) ∧
            ((s.slot slot).ctagV = true → 512 < dev / 32 ∨ s.peerView dev = 2 →
              s.globalAccess t ea z pol none n = (q, .error (.fault { code := 0x0901, addr := ea, aux := 0 }))) ∧
            ((s.slot slot).ctagV = true → dev / 32 ≤ 512 → s.peerView dev ≠ 2 →
              s.globalAccess t ea z pol none n = (q, .ok (mkAccess x ea z pol))))) ∧
      (inL1 = none → inL2 = none →
        (∀ aux, s.failedWalk t (va57 ea / 4096) = some aux →
          s.globalAccess t ea z pol none n = (s, .error (.fault { code := 0x0501, addr := ea, aux := aux }))) ∧
        (s.failedWalk t (va57 ea / 4096) = none →
          (∀ k, s.walkOf (dieOf t.core) slot (va57 ea / 4096) = some k →
            s.globalAccess t ea z pol none n = (s, .error (.leave (.walk k.wid)))) ∧
          (s.walkOf (dieOf t.core) slot (va57 ea / 4096) = none → s.globalAccess t ea z pol none n =
            ({ s with nextId := s.nextId + 1, walks := s.walks ++
                [{ wid := s.nextId, die := dieOf t.core, slot := slot, cid := (s.slot slot).cid, vpage := va57 ea / 4096 }] },
              .error (.leave (.walk s.nextId))))))

/-- All the parts hold: `ScratchAccessChecks`; `GlobalAccessChecks`. -/
def Obligations.AccessChecks : Prop :=
  Claims.ScratchAccessChecks ∧
    Claims.GlobalAccessChecks

/-- 10 R212 to R217: atomics are put in flight, on class ld where they return the old value and on class st where they do not. -/
def Obligations.AtomicsGoInFlight : Prop :=
  ∀ d a b : Reg,
    AtomicOn (.atomAdd d a b) true .add d a b ∧ AtomicOn (.atomSub d a b) true .sub d a b ∧
    AtomicOn (.atomAnd d a b) true .and d a b ∧ AtomicOn (.atomOr d a b) true .or d a b ∧
    AtomicOn (.atomXor d a b) true .xor d a b ∧ AtomicOn (.atomMinI d a b) true .minI d a b ∧
    AtomicOn (.atomMaxI d a b) true .maxI d a b ∧ AtomicOn (.atomMinN d a b) true .minN d a b ∧
    AtomicOn (.atomMaxN d a b) true .maxN d a b ∧ AtomicOn (.atomXchg d a b) true .xchg d a b ∧
    AtomicOn (.atomIncw d a b) true .incw d a b ∧ AtomicOn (.atomDecw d a b) true .decw d a b ∧
    AtomicOn (.atomFadd d a b) true .fadd d a b ∧ AtomicOn (.atomAdd64 d a b) true .add64 d a b ∧
    AtomicOn (.atomXchg64 d a b) true .xchg64 d a b ∧
    AtomicOn (.atomnAdd a b) false .add 0 a b ∧ AtomicOn (.atomnSub a b) false .sub 0 a b ∧
    AtomicOn (.atomnAnd a b) false .and 0 a b ∧ AtomicOn (.atomnOr a b) false .or 0 a b ∧
    AtomicOn (.atomnXor a b) false .xor 0 a b ∧ AtomicOn (.atomnMinI a b) false .minI 0 a b ∧
    AtomicOn (.atomnMaxI a b) false .maxI 0 a b ∧ AtomicOn (.atomnMinN a b) false .minN 0 a b ∧
    AtomicOn (.atomnMaxN a b) false .maxN 0 a b ∧ AtomicOn (.atomnXchg a b) false .xchg 0 a b ∧
    AtomicOn (.atomnIncw a b) false .incw 0 a b ∧ AtomicOn (.atomnDecw a b) false .decw 0 a b ∧
    AtomicOn (.atomnFadd a b) false .fadd 0 a b ∧ AtomicOn (.atomnAdd64 a b) false .add64 0 a b ∧
    AtomicOn (.atomnXchg64 a b) false .xchg64 0 a b ∧
    SwapsOn (.cas d a b) .cas d a b ∧ SwapsOn (.cas64 d a b) .cas64 d a b

/-- 10 R214, R216: the value that an atomic leaves, from the old one and its operand (for a compare and swap: the new value and the
expected one). -/
def Sys2Proof.Claims.AtomicFunctions : Prop :=
  ∀ x y : Word, ∀ p q e : Pair,
    let z : Word → Pair := fun w => w.setWidth 64
    atomValue .add (z x) (z y) e = z (x + y) ∧ atomValue .sub (z x) (z y) e = z (x - y) ∧
    atomValue .and (z x) (z y) e = z (x &&& y) ∧ atomValue .or (z x) (z y) e = z (x ||| y) ∧
    atomValue .xor (z x) (z y) e = z (x ^^^ y) ∧
    atomValue .minI (z x) (z y) e = z (if x.slt y then x else y) ∧ atomValue .maxI (z x) (z y) e = z (if x.slt y then y else x) ∧
    atomValue .minN (z x) (z y) e = z (if x.ult y then x else y) ∧ atomValue .maxN (z x) (z y) e = z (if x.ult y then y else x) ∧
    atomValue .xchg (z x) (z y) e = z y ∧
    atomValue .incw (z x) (z y) e = z (if y.ule x then 0 else x + 1) ∧
    atomValue .decw (z x) (z y) e = z (if x = 0 ∨ y.ult x then y else x - 1) ∧
    atomValue .fadd (z x) (z y) e = z (w32 (f32.add 0 false x.toNat y.toNat)) ∧
    atomValue .add64 p q e = p + q ∧ atomValue .xchg64 p q e = q ∧
    (∀ n m : Word, atomValue .cas (z x) (z n) (z m) = if x = m then z n else z x) ∧
    atomValue .cas64 p q e = if p = e then q else p

/-- 10 R212, R218; 09 R204: a batch of one atomic that executes at its home, outside deterministic mode: the word at the home becomes
f(old, x), no other byte of memory changes when the issuing die holds no copy of the line and its core has applied no core-scope atomic there
whose write-through has still to be made, and the old value is kept for the destination. The half-sectors that it reads carry good check codes
(16 R375). -/
def Sys2Proof.Claims.HomeAtomicUpdatesItsWord : Prop :=
  ∀ s o a f x e ord, s.op? o.id = some o → o.kind = .atomic a f x e .home ord → o.served = false → o.detM = false →
    s.batchOf o = [o] → s.batchFree o = true → s.homeBad a.loc f.size = false → s.remoteLine (dieOf o.core) (lineOf a.loc) = {} →
    s.throughs o.core (lineOf a.loc) = [] → Memory.wf s.mem = true →
    ∃ s', exec (.atomicBatchArrival o.id false) s = .next s' ∧
      (∃ p, s'.op? o.id = some p ∧ p.served = true ∧ p.data = valueWords f.size (BitVec.ofNat 64 (s.homeNat a.loc f.size))) ∧
      (∀ j, Memory.read s'.mem j =
        if a.loc ≤ j ∧ j < a.loc + f.size then
          (leBytes f.size (atomValue f (BitVec.ofNat 64 (s.homeNat a.loc f.size)) x e).toNat).getD (j - a.loc) 0
        else Memory.read s.mem j)

/-- All the parts hold: `AtomicFunctions`; `HomeAtomicUpdatesItsWord`. -/
def Obligations.AtomicsUpdateTheirWord : Prop :=
  Claims.AtomicFunctions ∧
    Claims.HomeAtomicUpdatesItsWord

/-- 07 R168, R169; 04 R106; 10 R213; 09 R202: an operation whose turn it is completes: it is in flight no longer, its thread's counter has
fallen by 1, and its values stand in its destinations with its tag. The events are the load's from a shared scratch space (spaces 2 to 4), from
the lane-private window, whose bytes were taken at its issue, and from ordinary memory of this module whose check codes are good (16 R375), whose
bytes are those of the line that the core's L1 holds or else those that the die's L2 delivers;
the store's to a shared scratch space, whose bytes stand there afterwards while every other byte of the scratch spaces and the lane-private memories is as before,
an atomic's that has been served at a slice or home, and a fence's. The order between operations is assumption 81. -/
def Obligations.OperationsComplete : Prop :=
  ∀ s o t, s.nextToRetire o → s.thread? o.tid = some t → t.state ≠ .exited → o.origin = none → o.fault = none →
    (s.threads.map (fun t => t.tid)).Nodup →
    (∀ a sg, o.kind = .load a sg none → 2 ≤ a.sp → s.freeToAct o = true →
      ∃ s', exec (.loadComplete o.id false) s = .next s' ∧ s'.op? o.id = none ∧
        s'.thread? o.tid = some ((t.lower o.cls).deliver o.dsts (loadWords sg (s.scratchRead o.core a.sp a.loc a.z)) o.tag) ∧
        LeavesData s s') ∧
    (∀ a sg, o.kind = .load a sg none → a.sp = 1 → s.freeToAct o = true →
      ∃ s', exec (.loadComplete o.id false) s = .next s' ∧ s'.op? o.id = none ∧
        s'.thread? o.tid = some ((t.lower o.cls).deliver o.dsts o.data o.tag) ∧ LeavesData s s') ∧
    (∀ a sg, o.kind = .load a sg none → a.sp = 0 → a.cls = 0 → peerOf a.loc = none → s.freeToAct o = true → s.loadBad o a = false →
      let bs := match s.l1Line? o.core a.loc with
        | some l => Memory.readBytes l.copy (a.loc % 128) a.z
        | none => s.l2View (dieOf o.core) a.loc a.z
      ∃ s', exec (.loadComplete o.id false) s = .next s' ∧ s'.op? o.id = none ∧
        s'.thread? o.tid = some ((t.lower o.cls).deliver o.dsts (loadWords sg bs) o.tag) ∧ LeavesData s s') ∧
    (∀ a bs, o.kind = .store a bs none → 2 ≤ a.sp → s.freeToAct o = true → s.regionLives o a.sp = true →
      ∃ s', exec (.storeComplete o.id) s = .next s' ∧ s'.op? o.id = none ∧ s'.thread? o.tid = some ((t.lower o.cls).deliver o.dsts o.data o.tag) ∧
        s'.mem = s.mem ∧
        (a.sp ≤ 4 → (∀ n, (s'.core n).lp = (s.core n).lp) ∧ ∀ core sp j, 2 ≤ sp → sp ≤ 4 →
          (sp = a.sp → sameScratch sp core o.core → a.loc ≤ j → j < a.loc + bs.length →
            s'.scratchRead core sp j 1 = [bs.getD (j - a.loc) 0]) ∧
          (¬(sp = a.sp ∧ sameScratch sp core o.core ∧ a.loc ≤ j ∧ j < a.loc + bs.length) →
            s'.scratchRead core sp j 1 = s.scratchRead core sp j 1))) ∧
    (∀ a f x e pl ord, o.kind = .atomic a f x e pl ord → pl ≠ .l1 → o.served = true →
      ∃ s', exec (.atomicComplete o.id) s = .next s' ∧ s'.op? o.id = none ∧
        s'.thread? o.tid = some ((t.lower o.cls).deliver o.dsts o.data o.tag) ∧ LeavesData s s') ∧
    (∀ acq rel, o.kind = .fence acq rel → ∃ s', exec (.fenceComplete o.id) s = .next s' ∧ s'.op? o.id = none)

/-- 10 R219, R220: barriers. An arrival with count n, at most the unit's threads and equal to the open instance's count, is counted; the
n-th completes the instance, which ends every wait for it. `bar` then acquires at core scope; before the n-th it waits at the word after,
and so does `bar.wait` while an instance is open. Every arrival waits first until the thread's earlier operations have completed; a count of
0 or above the unit's threads, or other than the open instance's, raises 0x0204. -/
def Obligations.BarriersCountArrivals : Prop :=
  (∀ (a : Reg) (i : BitVec 6) s st t, Alone s st t → st.more → (s.atWord st).barrierReady t a i →
    exec (.barArrive a i) s = .next (((s.atWord st).arrived t a i).goesOn st)) ∧
  (∀ (a : Reg) (i : BitVec 6) s st t, Alone s st t → (s.atWord st).barrierReady t a i → (s.atWord st).lastToArrive t a i →
    st.more → exec (.bar a i) s =
      .next (((((s.atWord st).arrived t a i).acquireDiscard t.core 0).codeIn (s.slotOf t) t.core 0).goesOn st)) ∧
  (∀ (a : Reg) (i : BitVec 6) s st t, Alone s st t → (s.atWord st).barrierReady t a i → ¬(s.atWord st).lastToArrive t a i →
    exec (.bar a i) s = .next (((s.atWord st).arrived t a i).waitsAtBarrier st t i)) ∧
  (∀ (i : BitVec 6) s st t, Alone s st t → st.more → ((s.atWord st).barrier t.unit i.toNat).opened = false →
    exec (.barWait i) s = .next ((s.atWord st).goesOn st)) ∧
  (∀ (i : BitVec 6) s st t, Alone s st t → ((s.atWord st).barrier t.unit i.toNat).opened = true →
    exec (.barWait i) s = .next ((s.atWord st).waitsAtBarrier st t i)) ∧
  (∀ (a : Reg) (i : BitVec 6), ∀ x ∈ [Instr.bar a i, .barArrive a i],
    (∀ s st t, Alone s st t → OperandsReady s t [a] [(.int, a)] → (s.atWord st).holds t .quiet = false →
      exec x s = .next (((s.atWord st).endStrand st).enterAt t.tid st.runPc st.blk .quiet)) ∧
    Raises x (fun _ => [a]) (fun _ => [(.int, a)])
      (fun _ s t => s.holds t .quiet = true ∧ (s.operand t .int a = 0 ∨ s.ntid t < (s.operand t .int a).toNat))
      (fun _ s t => { code := 0x0204, aux := s.operand t .int a }) ∧
    Raises x (fun _ => [a]) (fun _ => [(.int, a)])
      (fun _ s t => s.holds t .quiet = true ∧ 1 ≤ (s.operand t .int a).toNat ∧ (s.operand t .int a).toNat ≤ s.ntid t ∧
        (s.barrier t.unit i.toNat).opened = true ∧ (s.barrier t.unit i.toNat).np ≠ (s.operand t .int a).toNat)
      (fun _ s t => { code := 0x0204, aux := BitVec.ofNat 32 (s.barrier t.unit i.toNat).np })) ∧
  (∀ (s : State) (t u : Thread) (a : Reg) (i : BitVec 6), (s.unit? t.unit).isSome = true → u.unit = t.unit → s.lastToArrive t a i →
    (s.arrived t a i).holds u (.barrier i.toNat (s.barrier t.unit i.toNat).inst) = true)

/-- 09 R198 to R202: a fence without an acquire, at core or die scope and with nothing outstanding that it waits for, has its effect at once;
any other, and every fence with an acquire, becomes an operation that the thread waits for at the word after. This division is the model's
choice (assumption 19). -/
def Sys2Proof.Claims.FencesOrderAtTheirScope : Prop :=
  ∀ (n : BitVec 4) s st t, Alone s st t → st.more →
    FenceForm (.fenceAcq n) s st t n.toNat true false ∧ FenceForm (.fenceRel n) s st t n.toNat false true ∧
    FenceForm (.fenceAr n) s st t n.toNat true true

/-- 07 R177: `pf` never faults on its address and never leaves the strand; it changes caches only. A line of a peer is asked for by an
operation of no thread; where every earlier operation is still under way, none completes. -/
def Sys2Proof.Claims.PrefetchChangesCachesOnly : Prop :=
  ∀ (a : Reg) (w : BitVec 3) (o : BitVec 6) s st t, Alone s st t → st.more → (∀ r ∈ pairRegs a, r.toNat < t.budget) → t.tid ≠ 0 →
    (∀ p ∈ s.ops, p.arrived = false) → (∀ u ∈ s.threads, u.tid ≠ 0) →
    ∃ s', exec (.pf a w o) s = .next s' ∧ LeavesData s s' ∧ s'.threads = s.threads ∧
      (s'.ops = s.ops ∨ ∃ p, s'.ops = s.ops ++ [p] ∧ p.tid = 0 ∧ p.cls = .none ∧ p.dsts = []) ∧
      s'.strands = s.strands.map (fun x => if x.sid = st.sid then s'.pastWord st else x)

/-- All the parts hold: `FencesOrderAtTheirScope`; `PrefetchChangesCachesOnly`. -/
def Obligations.FencesAndPrefetch : Prop :=
  Claims.FencesOrderAtTheirScope ∧
    Claims.PrefetchChangesCachesOnly

/-- 05 R122, R123; 01 R32: `movs` delivers the special registers; the two wide ones fill a pair with tag X64, every other register gets
tag INT, and reading `$cyc.lo` latches the upper half of the counter. -/
def Obligations.SpecialRegisterReads : Prop :=
  (∀ (d : Reg) (x : BitVec 7),
    Acts (.movs d x) (fun _ => if x = 16 ∨ x = 39 then pairRegs d else [d]) (fun _ => []) (fun _ _ _ => True)
      (fun _ s t => s.setThread (
        if x = 16 ∨ x = 39 then t.setPair d (s.special t x.toNat) .x64
        else if x = 17 then
          ({ t with cycLatch := hiWord (s.cyc (dieOf t.core)), cycLoaded := true } : Thread).setReg d (loWord (s.cyc (dieOf t.core))) .int
        else t.setReg d (loWord (s.special t x.toNat)) .int))) ∧
  ∀ (s : State) (t : Thread) (u : UnitSt), s.unitOf t = some u → u.gw ≠ 0 →
    let n : Nat → Pair := BitVec.ofNat 64
    s.special t 3 = n (t.index / u.gw) ∧ s.special t 4 = n u.nthreads ∧ s.special t 5 = n u.gw ∧ s.special t 9 = n (t.slot % 64) ∧
    s.special t 10 = n (t.slot / 64) ∧ s.special t 11 = n t.core ∧ s.special t 12 = n (t.core / 8) ∧ s.special t 13 = n (t.core / 40) ∧
    s.special t 14 = n s.dev ∧ s.special t 15 = u.launch.setWidth 64 ∧ s.special t 20 = n t.budget ∧ s.special t 22 = n t.field ∧
    s.special t 39 = t.iePc ∧ (t.cycLoaded = true → s.special t 18 = t.cycLatch.setWidth 64)

/-- 11 R244, R252; 06 R150: `fsel` names a field that is installed, or 256; `finfo` reads its descriptor; the CQ conversions use its
fraction width. The auxiliary word of 0x0603 is assumption 30. -/
def Obligations.FieldSelectionAndDescription : Prop :=
  ∀ d a : Reg,
    Acts (.fsel a) (fun _ => [a]) (fun _ => [(.int, a)])
      (fun _ s t => (s.operand t .int a).toNat ≤ 256 ∧
        ((s.operand t .int a).toNat < 256 → (s.field? (s.slotOf t) (s.operand t .int a).toNat).isSome = true))
      (fun _ s t => s.setThread { t with field := (s.operand t .int a).toNat }) ∧
    (∀ f : FieldSt,
      Acts (.finfo d a 0) (fun _ => [d]) (fun _ => []) (fun _ s t => s.currentField t = .ok f)
        (fun _ s t => s.setThread (t.setReg d (BitVec.ofNat 32 (f.word 3)) .int)) ∧
      Acts (.finfo d a 1) (fun _ => [d]) (fun _ => []) (fun _ s t => s.currentField t = .ok f)
        (fun _ s t => s.setThread (t.setReg d (BitVec.ofNat 32 (f.word 2)) .int)) ∧
      Acts (.finfo d a 2) (fun _ => pairRegs d) (fun _ => []) (fun _ s t => s.currentField t = .ok f)
        (fun _ s t => s.setThread (t.setPair d (BitVec.ofNat 64 f.base) .x64)) ∧
      Acts (.finfo d a 3) (fun _ => [d, a]) (fun _ => [(.int, a)]) (fun _ s t => s.currentField t = .ok f)
        (fun _ s t => s.setThread (t.setReg d (BitVec.ofNat 32 (f.role (s.operand t .int a).toNat)) .int)) ∧
      Acts (.finfo d a 4) (fun _ => pairRegs d) (fun _ => []) (fun _ s t => s.currentField t = .ok f)
        (fun _ s t => s.setThread (t.setPair d (BitVec.ofNat 64 f.init) .x64))) ∧
    (∀ k : Nat,
      Acts (.cvtF32Cq d a) (fun _ => [d, a]) (fun _ => [(.cq, a)]) (fun _ s t => s.fieldFrac t = some k)
        (fun c s t => s.setThread (t.setReg d (w32 (f32.round c.hints.rnd c.hints.sat false (t.val a).toNat (-(k : Int)) false))
          (c.hints.tag .f32))) ∧
      Acts (.cvtCqF32 d a) (fun _ => [d, a]) (fun _ => [(.f32, a)]) (fun _ s t => s.fieldFrac t = some k)
        (fun c s t => s.setThread (t.setReg d (BitVec.ofInt 32 (f32.toInt c.hints.rnd k 0 (2 ^ 32 - 1) (s.operand t .f32 a).toNat))
          (c.hints.tag .cq)))) ∧
    (∀ (s : State) (t : Thread), 256 ≤ t.field → s.currentField t = .error (.fault { code := 0x0603 }))

/-- 11 R245, R248, R249, R251, R250: the checks of `xfer`, `fld`, `ftot`, `fchk` and of `fdecl` with a zero address, and the operations
they put in flight; `ftot` with k = 5 names register 128 where d is 124 or 126. The auxiliary word of 0x0603 is assumption 30. -/
def Obligations.FieldOperationsGoInFlight : Prop :=
  ∀ (d a b : Reg) (x : BitVec 2) (k : BitVec 3),
    Launches (.xfer d a b) (fun _ => [d, a, b]) (fun _ => [(.cq, d), (.int, a), (.int, b)]) .st
      (fun _ s t kind ds => ds = [] ∧ t.full .st = false ∧ ∃ f pa pb s1,
        let i := (s.operand t .int a).toNat
        let j := (s.operand t .int b).toNat
        s.currentField t = .ok f ∧ i < f.n ∧ j < f.n ∧ f.role j ≠ 1 ∧ f.role i ≠ 2 ∧ (t.modeD = true → s.inTransferSet t t.field f = true) ∧
        f.frozen = false ∧ s.cellAccess t f i true = (s1, .ok pa) ∧ (s1.cellAccess t f j true).2 = .ok pb ∧
        kind = .xfer t.field i j (s.operand t .cq d) pa pb .sent) ∧
    Launches (.fld d a) (fun _ => [d, a]) (fun _ => [(.int, a)]) .ld
      (fun _ s t kind ds => ds = [d] ∧ t.full .ld = false ∧ ∃ f p,
        let i := (s.operand t .int a).toNat
        s.currentField t = .ok f ∧ i < f.n ∧ (t.modeD = true → s.inTransferSet t t.field f = false) ∧
        (s.cellAccess t f i false).2 = .ok p ∧ kind = .cellRead t.field i p false) ∧
    Launches (.ftot d x k) (fun _ => totalRegs d k.toNat) (fun _ => []) .ld
      (fun _ s t kind ds => ds = totalRegs d k.toNat ∧ t.full .ld = false ∧ ∃ f, s.currentField t = .ok f ∧
        (t.modeD = true → k ≠ 3 → s.inTransferSet t t.field f = false) ∧ (k = 5 → d.toNat ≤ 122) ∧
        kind = .totals t.field (if x = 0 then t.core / 40 else if x = 1 then 8 else 9) k.toNat) ∧
    Raises (.ftot d x 5) (fun _ => (totalRegs d 5).filter (fun r => d.toNat ≤ r.toNat)) (fun _ => []) (fun _ _ _ => 122 < d.toNat)
      (fun _ _ _ => { code := 0x0203, aux := 128 }) ∧
    Launches (.fchk d a) (fun _ => pairRegs d ++ [a]) (fun _ => [(.int, a)]) .ld
      (fun _ s t kind ds => ds = pairRegs d ∧ t.full .ld = false ∧ ∃ f, s.currentField t = .ok f ∧
        (t.modeD = true → s.inTransferSet t t.field f = false) ∧ kind = .cellRead t.field (s.operand t .int a).toNat none true) ∧
    Launches (.fdecl a b) (fun _ => [a] ++ pairRegs b) (fun _ => [(.int, a), (.int64, b)]) .st
      (fun _ s t kind ds => ds = [] ∧ t.level ≠ .user ∧ t.full .st = false ∧ (s.operand t .int a).toNat < 256 ∧ t.pair b = 0 ∧
        kind = .fdecl (s.operand t .int a).toNat 0)

/-- 11 R250; 01 R33: `fdecl` with an address asks for the descriptor there, whose 64 bytes reach its thread if they pass their check; it then
installs that, not yet usable; its completion makes it usable with its counter sets, once the cells on peers have been read and cleared of their ω, when the ordinary cells sum to the initial total and the role
cells are zero, and takes it away with 0x0603 otherwise; with a zero address it removes the field once no earlier operation on it is left.
The cells carry good check codes (16 R375). The reads of peers are assumption 32. -/
def Obligations.FieldsAreInstalledAndRemoved : Prop :=
  (∀ (a b : Reg) s st t s1 acc, Issuing s st → st.members = [t.tid] → s.thread? t.tid = some t →
    OperandsReady s t ([a] ++ pairRegs b) [(.int, a), (.int64, b)] →
    t.level ≠ .user → t.full .st = false → ((s.atWord st).operand t .int a).toNat < 256 → t.pair b ≠ 0 →
    Sparse.find ((s.atWord st).slot ((s.atWord st).slotOf t)).fields ((s.atWord st).operand t .int a).toNat = none →
    (s.atWord st).holds t .quiet = true →
    (((s.atWord st).releasePush t.core 2).codeOut t 3).globalAccess t (t.pair b) 64 0 none (needLoad false) = (s1, .ok acc) →
    acc.peer = none → t.descr = [] →
    exec (.fdecl a b) s = .next (((s1.addOp (s1.newOp (s.ctx st) t .none (.descr acc))).endStrand st).enterAt t.tid st.runPc st.blk (.op s1.nextId))) ∧
  (∀ s o acc, s.op? o.id = some o → o.kind = .descr acc → o.arrived = false → acc.peer = none →
    exec (.loadComplete o.id false) s = .next (
      if s.homeBad acc.loc 64 then s.opError o acc.loc acc.va
      else s.arrive o.id (fun q => { q with data := (List.range 16).map (fun i => BitVec.ofNat 32 (s.homeNat (acc.loc + 4 * i) 4)) }))) ∧
  (∀ s o t acc, s.nextToRetire o → o.kind = .descr acc → acc.peer = none → o.origin = none → o.fault = none → o.dsts = [] →
    s.homeBad acc.loc 64 = false → s.thread? o.tid = some t → t.state ≠ .exited → s.threadsNamed →
    ∃ s', exec (.loadComplete o.id false) s = .next s' ∧ s'.op? o.id = none ∧ s'.mem = s.mem ∧
      s'.thread? o.tid = some { t.lower o.cls with descr := (List.range 16).map (fun i => BitVec.ofNat 32 (s.homeNat (acc.loc + 4 * i) 4)) }) ∧
  (∀ (a b : Reg) s st t s1 acc s2 ps, Issuing s st → st.members = [t.tid] → s.thread? t.tid = some t → st.more →
    OperandsReady s t ([a] ++ pairRegs b) [(.int, a), (.int64, b)] →
    t.level ≠ .user → t.full .st = false → ((s.atWord st).operand t .int a).toNat < 256 → t.pair b ≠ 0 →
    Sparse.find ((s.atWord st).slot ((s.atWord st).slotOf t)).fields ((s.atWord st).operand t .int a).toNat = none →
    (s.atWord st).holds t .quiet = true →
    (((s.atWord st).releasePush t.core 2).codeOut t 3).globalAccess t (t.pair b) 64 0 none (needLoad false) = (s1, .ok acc) →
    t.descr ≠ [] → (declared s1 t).valid = true →
    s1.cellPages t (declared s1 t) t.checked ((declared s1 t).n - t.checked) t.pages = (s2, .ok ps) →
    let id := ((s.atWord st).operand t .int a).toNat
    let q := s2.mapThread t.tid Thread.acted
    exec (.fdecl a b) s = .next (((q.addOp (q.newOp (s.ctx st) t .st (.fdecl id (t.pair b)))).mapSlot (q.slotOf t) (fun x => { x with
      fields := Sparse.put x.fields id { declared s1 t with pages := ps } })).goesOn st)) ∧
  ∀ s o fid addr, s.op? o.id = some o → o.kind = .fdecl fid addr → o.arrived = false → s.fieldHeld o = false →
    (addr = 0 → (∀ p ∈ s.ops, p.onField o.id o.slot fid = false) →
      exec (.fdeclHomeComplete o.id) s = .next (({ s.mapSlot o.slot (fun c => { c with fields := Sparse.erase c.fields fid }) with
        sets := s.sets.filter (fun c => !(c.slot == o.slot && c.fid == fid)) } : State).arrive o.id id)) ∧
    ∀ f, addr ≠ 0 → Sparse.find (s.slot o.slot).fields fid = some f →
      let places := f.cellPlaces 0 f.n
      let ws := o.peerWords f
      let good := (∀ l ∈ f.rolePlaces, s.cellWord ws l = 0) ∧ s.cellSum ws places = f.init
      let reads := f.peerCells.length
      s.awaits o.id = false → s.setsOf o.slot fid = [] → reads ≤ o.data.length →
      (∀ l ∈ places ++ f.rolePlaces, peerOf l = none → s.homeBad l 4 = false) →
      (good → reads + f.peerOrdinary.length ≤ o.data.length → exec (.fdeclHomeComplete o.id) s = .next ((({ s with
          omega := places.foldl (fun m l => Sparse.erase m l) s.omega, sets := s.sets ++ s.newSets ws o.slot fid places } : State).mapSlot
            o.slot (fun c => { c with fields := Sparse.put c.fields fid { f with usable := true } })).arrive o.id id)) ∧
      (¬good → exec (.fdeclHomeComplete o.id) s =
        .next ((s.mapSlot o.slot (fun c => { c with fields := Sparse.erase c.fields fid })).arriveFault o.id 0x0603 0 4))

/-- 11 R246, R247, R253 to R255: the steps of a transfer between two ordinary cells of this module, the cell of lower address locked
first; the cells carry good check codes (16 R375). -/
def Obligations.TransferSteps : Prop :=
  ∀ s o fid ia ib m pa pb x, s.op? o.id = some o → o.kind = .xfer fid ia ib m (some pa) (some pb) x → o.origin = none →
    pa < Config.placeSpan → pb < Config.placeSpan → pa ≠ pb → s.homeBad pa 4 = false → s.homeBad pb 4 = false →
    let lo := Nat.min pa pb
    let hi := Nat.max pa pb
    let lockLo : Lock := { cell := lo, op := o.id, first := true }
    let lockHi : Lock := { cell := hi, op := o.id, first := false }
    let both : State := { s with locks := s.locks ++ [lockHi] }
    (x = .sent → ia ≠ ib → s.fieldHeld o = false → s.heldByTotals o = false →
      (s.lockFree lockLo s.lockWait = true → s.lockWait.any (s.eligible lockLo) = false →
        exec (.xferCoordinatorRequest o.id) s = .next (({ s with locks := s.locks ++ [lockLo] } : State).setStep o.id .first)) ∧
      (s.lockFree lockLo s.lockWait = false ∨ s.lockWait.any (s.eligible lockLo) = true →
        exec (.xferCoordinatorRequest o.id) s = .next (({ s with lockWait := s.lockWait ++ [lockLo] } : State).setStep o.id .waitFirst))) ∧
    (x = .waitFirst → s.lockWait = [lockLo] → s.lockFree lockLo [] = true →
      exec (.lockEntryGrant o.id) s = .next (({ s with lockWait := [], locks := s.locks ++ [lockLo] } : State).setStep o.id .first)) ∧
    (x = .first → s.lockFree lockHi s.lockWait = true → s.lockWait.any (s.eligible lockHi) = false → o.detM = false →
      ((m.toNat : Int) ≤ s.trueAt pa → s.trueAt pb + m.toNat < 2 ^ 32 →
        exec (.xferSecondLock o.id) s = .next (both.setStep o.id .commit)) ∧
      (s.trueAt pa < m.toNat →
        exec (.xferSecondLock o.id) s = .next ((((both.setStep o.id .waitSecond).xferFails o 0x0601 fid ia ib).unlockOne o.id lo).setStep o.id .unlock)) ∧
      ((m.toNat : Int) ≤ s.trueAt pa → 2 ^ 32 ≤ s.trueAt pb + m.toNat →
        exec (.xferSecondLock o.id) s = .next ((((both.setStep o.id .waitSecond).xferFails o 0x0602 fid ia ib).unlockOne o.id lo).setStep o.id .unlock))) ∧
    (x = .commit → exec (.xferCommit o.id) s = .next ((s.changeCell o s.dev fid m (some pa) (some pb) hi).setStep o.id .acked)) ∧
    (x = .unlock → exec (.xferUnlock o.id) s = .next ((s.unlockOne o.id hi).setStep o.id .done)) ∧
    (x = .acked → s.awaits o.id = false → (∀ l ∈ s.locks, l.op = o.id → l.cell ≠ hi) →
      exec (.xferAcknowledge o.id) s = .next ((s.changeCell o s.dev fid m (some pa) (some pb) lo).setStep o.id .applied)) ∧
    (x = .applied ∨ x = .done → o.arrived = false → s.awaits o.id = false → (∀ l ∈ s.locks, l.op ≠ o.id) →
      (∀ u ∈ s.updates, u.op ≠ o.id) → exec (.xferComplete o.id) s = .next (s.arrive o.id id))

/-- 11 R241, R247: the changes of a transfer of this module's contexts between two ordinary cells leave the sum of their contents as it was, whatever the contents
and the amount. -/
def Obligations.TransferConservesTheTotal : Prop :=
  ∀ (s : State) (o : Op) (fid : Nat) (m : Word) (pa pb : Nat), fid < 256 → pa + 4 ≤ pb ∨ pb + 4 ≤ pa → Memory.wf s.mem = true → Sparse.wf 0 s.omega = true →
    let once := s.changeCell o s.dev fid m (some pa) (some pb) (Nat.max pa pb)
    let both := once.changeCell o s.dev fid m (some pa) (some pb) (Nat.min pa pb)
    both.trueAt pa = s.trueAt pa - m.toNat ∧ both.trueAt pb = s.trueAt pb + m.toNat ∧
    both.trueAt pa + both.trueAt pb = s.trueAt pa + s.trueAt pb

/-- 11 R240, R242, R248, R249, R255: a change arrives at its counter set and is acknowledged; a cell read that nothing holds is served
with the content clamped to 32 bits; a read of the global set gives up waiting after 3,000 cycles and reads the set. 5 microseconds are
3,000 cycles (assumption 74). -/
def Obligations.CounterSetsAndCellReads : Prop :=
  (∀ s u, s.updates = [u] → u.applied = false →
    ∃ s', exec (.counterSetUpdate u.uid) s = .next s' ∧ s'.updates = [{ u with applied := true }] ∧ s'.mem = s.mem ∧
      s'.sets = s.sets.map (fun c =>
        if c.slot = u.slot ∧ c.fid = u.fid ∧ c.key = u.key then { c with
          interior := c.interior + BitVec.ofInt 64 u.dInterior, emitted := c.emitted + BitVec.ofInt 64 u.dEmitted,
          absorbed := c.absorbed + BitVec.ofInt 64 u.dAbsorbed, outOfRange := c.outOfRange + BitVec.ofInt 64 u.dRange }
        else c)) ∧
  (∀ s u, s.updates = [u] → u.applied = true →
    (∀ r ∈ s.reqs, ¬(r.op = u.op ∧ r.pkt.typ = 8 ∧ r.pkt.op = 4 ∧ r.pos = u.cell)) →
    exec (.counterSetAcknowledgement u.uid) s = .next { s with
      updates := [], locks := s.locks.filter (fun l => !(l.op == u.op && l.cell == u.cell)) }) ∧
  (∀ s o t fid i loc, s.nextToRetire o → o.kind = .cellRead fid i (some loc) false → loc < Config.placeSpan → o.origin = none →
    o.fault = none → s.fieldHeld o = false → s.cellBusy o.id loc = false → s.homeBad loc 4 = false → s.thread? o.tid = some t →
    t.state ≠ .exited → s.threadsNamed →
    ∃ s', exec (.cellReadServed o.id) s = .next s' ∧ s'.op? o.id = none ∧ s'.mem = s.mem ∧
      s'.thread? o.tid = some ((t.lower o.cls).deliver o.dsts [clampCell (s.trueAt loc)] o.tag)) ∧
  (∀ s o fid k, s.op? o.id = some o → o.kind = .totals fid 9 k → o.arrived = false → s.totalsHeld o fid = false → o.since + 3000 ≤ s.coreClock o.core →
    exec (.ftotHoldTimeout o.id) s = .next (s.readTotals o fid 9 k))

/-- 04 R88 to R94, 05 R137: a decoder takes the threads that the chosen entry offers into a strand on the words of their block, unless it
may not form one; a queued thread that is ready enters the table, and an entry of a starved context is spilled, once in a cycle; a strand
that loses a bank round counts it, once in a cycle, up to 7. The turn of each event comes from the agenda (assumption 2). That a strand from
a resume point keeps the block of its entry, with the head word as read when the thread entered, and reads the block's words again, is the
model's reading (assumption 6); a strand from a block head reads the head again. -/
def Obligations.WeaverMovesThreads : Prop :=
  (∀ (s : State) core dec, core < 320 → s.mayForm core (dec % 2) = false → exec (.formStrand core dec) s = .next s) ∧
  (∀ (s : State) core dec i e t ts b ws, core < 320 → s.mayForm core (dec % 2) = true →
    s.choose core (dec % 2) (s.closedLanes core (dec % 2)) = some (i, e) → s.offers core e (s.closedLanes core (dec % 2)) = t :: ts →
    e.blk.len ≠ 0 → s.threadsNamed →
    (e.resume = true ∧ pastEnd e.blk e.pc = false ∧ b = e.blk ∧
        (s.fetchWords core (s.slotOf t) (e.blk.head + 4) e.blk.len).2 = .ok ws) ∨
      (e.resume = false ∧ ∃ h, (s.goChecks t e.pc).2 = .head h ∧ b = blockOf e.pc h ∧
        ((s.goChecks t e.pc).1.fetchWords core (s.slotOf t) (e.pc + 4) (headLen h)).2 = .ok ws) →
    ∃ s', exec (.formStrand core dec) s = .next s' ∧ s'.mem = s.mem ∧
      s'.strands = s.strands ++ [{
        sid := s.nextId, core := core, dec := dec % 2, blk := b, words := ws,
        pos := if e.resume = true then (e.pc - b.head).toNat / 4 - 1 else 0, members := (t :: ts).map (fun u => u.tid),
        formedAt := s.coreClock core }] ∧
      ∀ u ∈ t :: ts, s.thread? u.tid = some u → s'.thread? u.tid = some { u with state := .issued, blk := b }) ∧
  (∀ (s : State) core n t, core < 320 → (s.core core).movedAt ≠ some (s.coreClock core) → (s.core core).queue = [n] →
    s.thread? n = some t → s.queueReady t = true → s.canEnter t = true →
    exec (.overflowQueueMove core) s = .next (((s.mapCore core (fun c => { c with queue := [] })).enter n .none).mapCore core (fun c =>
      { c with movedAt := some (s.coreClock core) }))) ∧
  (∀ (s : State) core, core < 320 → (s.core core).movedAt = some (s.coreClock core) → exec (.overflowQueueMove core) s = .next s) ∧
  (∀ (s : State) core t p w, core < 320 → (s.core core).spilledAt ≠ some (s.coreClock core) → s.starvedThread core = some t →
    (s.core core).table.find? (fun p => p.2.cid == s.cidOf t && !s.issuable core p.2) = some p → s.waiters core p.2 = [w] →
    exec (.spillEntry core) s = .next (((s.spillThread w).freeEntries core).mapCore core (fun c =>
      { c with spilledAt := some (s.coreClock core) }))) ∧
  ∀ (s : State) n, exec (.bankReadRetry n) s =
    .next { s with strands := s.strands.map (fun x => if x.sid = n ∧ x.lost < 7 ∧ x.lostAt ≠ some (s.coreClock x.core)
      then { x with lost := x.lost + 1, lostAt := some (s.coreClock x.core) } else x) }

/-- 08 R187, R188; 09 R197, R203, R206: a walk starts when its context has a walker free and ends by filling the TLBs, or by nothing where
it is stale; deltas are added at the home and dirty bytes are written there; a release that waits too long on a peer ends the context. The
times in cycles are assumption 74; the release that waits too long, assumption 48. That a walk reads all its entries in the one step of its
completion is the model's choice (assumption 109), and so is which pointers the walk cache keeps (assumption 97). -/
def Obligations.WalksAndWriteHomes : Prop :=
  (∀ (s : State) die k, die < 8 → s.walks = [k] → k.die = die → k.running = false → k.failed = none → 0 < (s.slot k.slot).walk →
    exec (.pageWalkStart die) s = .next { s with
      walks := [{ k with running := true, cid := (s.slot k.slot).cid, root := (s.slot k.slot).root, ga := (s.slot k.slot).ga, rootValid := (s.slot k.slot).v }] }) ∧
  (∀ (s : State) k, s.walks = [k] → k.running = true → k.failed = none →
    (k.stale = true → exec (.pageWalkComplete k.wid) s = .next { s with walks := [] }) ∧
    (∀ x ps, k.stale = false → walkRoot s (s.die k.die).pointers k.cid k.root k.rootValid k.ga (k.vpage * 4096) = (.found x, ps) →
      exec (.pageWalkComplete k.wid) s = .next ((s.waitingCores k.wid).foldl (fun s c => s.fillL1Tlb c x)
        ((({ s with walks := [] } : State).keepPointers k.die ps).fillL2Tlb k.die x))) ∧
    (∀ aux ps, k.stale = false → walkRoot s (s.die k.die).pointers k.cid k.root k.rootValid k.ga (k.vpage * 4096) = (.failed aux, ps) →
      s.awaited k.wid = true →
      exec (.pageWalkComplete k.wid) s = .next { s with walks := [{ k with failed := some aux }] })) ∧
  (∀ (s : State) die line off v, die < 8 → Memory.wf s.mem = true → (s.remoteLine die line).deltas = [(off, { wide := false, val := v })] →
    ∃ s', exec (.deltaWriteHome die line) s = .next s' ∧
      ∀ j, Memory.read s'.mem j =
        if line * 128 + off ≤ j ∧ j < line * 128 + off + 4 then
          (leBytes 4 (s.homeNat (line * 128 + off) 4 + v.toNat)).getD (j - (line * 128 + off)) 0
        else Memory.read s.mem j) ∧
  (∀ (s : State) die line off, die < 8 → Memory.wf s.mem = true → (s.remoteLine die line).deltas = [] →
    (s.remoteLine die line).dirty = [off] →
    ∃ s', exec (.remoteEviction die line) s = .next s' ∧
      ∀ j, Memory.read s'.mem j = if j = line * 128 + off then Memory.read (s.remoteLine die line).copy off else Memory.read s.mem j) ∧
  (∀ (s : State) o p a bs rel, s.op? o.id = some o → o.releases = true → o.arrived = false →
    (s.earlier o).find? (fun p => s.reqs.any (fun r => r.op == p.id && s.cutOff r.pkt.dst && s.waitedLong o.core o.since r.pkt.dst)) = some p → p.kind = .store a bs rel →
    exec (.peerReleaseTimeout o.id) s = .next (s.remoteError p.slot p.core p.tslot p.launch a.va 0))

/-- 16 R358 to R360, R362, R369: `rfe` returns from the emulation block before the fault handler and faults outside both; `frec`, `sysget`
and `unpark` write their results, and `unpark` restarts the thread's faulted tile commands (13 R311); `sysset` waits at the word after; `brk`
acts as the debug state says. What `brk` reports is the model's choice: in Observe the words of its event, locator, PC low, PC high and k
(assumption 123), in Halt the fault's word (assumption 63). -/
def Obligations.SystemInstructions : Prop :=
  ∀ (d a : Reg) (n : BitVec 7),
    (∀ s st t, Alone s st t →
      (t.emul = true → 
        let pc := if n = 0 then t.iePc else t.iePc + 4
        exec (.rfe n) s = .next ((((s.atWord st).setThread { t with emul := false }).endStrand st).enterAt t.tid pc
          ((s.atWord st).landing t.tid pc t.ieBlk) .none)) ∧
      (t.emul = false → t.handler = true →
        let pc := if t.record.onCompletion = true ∨ t.record.word = 0 ∨ n = 0 then t.parkPoint else t.record.runEnd
        exec (.rfe n) s = .next (((((s.atWord st).setThread { t with handler := false }).decideCmd t (n != 0)).endStrand st).enterAt t.tid pc
          ((s.atWord st).landing t.tid pc t.parkBlk) .none)) ∧
      (t.emul = false → t.handler = false → exec (.rfe n) s = .next (s.faults st t { code := 0x0207 }))) ∧
    Acts (.frec d n) (fun _ => [d]) (fun _ => []) (fun _ _ _ => True)
      (fun _ s t => s.setThread (t.setReg d (t.recordWords.getD n.toNat 0) .int)) ∧
    (∀ u : Thread, Acts (.unpark d a n) (fun _ => [d, a]) (fun _ => [(.int, a)])
      (fun _ s t => t.level = .hypervisor ∧ s.located (s.operand t .int a) = some u ∧ u.state = .parked)
      (fun _ s t => ((s.restartCmds u).unparkThread u n.toNat).mapThread t.tid (fun t => t.setReg d 1 .int))) ∧
    Acts (.unpark d a n) (fun _ => [d, a]) (fun _ => [(.int, a)])
      (fun _ s t => t.level = .hypervisor ∧ ∀ u, s.located (s.operand t .int a) = some u → u.state ≠ .parked)
      (fun _ s t => s.setThread (t.setReg d 0 .int)) ∧
    Acts (.sysget d a n) (fun _ => [d, a]) (fun _ => [(.int, a)])
      (fun _ s t => t.level = .hypervisor ∨ (t.level = .supervisor ∧ s.foreignSlot t n.toNat (s.operand t .int a) = false))
      (fun _ s t => s.setThread (t.setReg d (s.sysRead n.toNat (s.operand t .int a)) .int)) ∧
    (∀ s st t, Alone s st t → OperandsReady s t [d, a] [(.int, a)] → t.level = .hypervisor → s.holds t .quiet = true →
      
      let q := (s.atWord st).addOp ((s.atWord st).newOp (s.ctx st) t .none (.sysWrite n.toNat (s.operand t .int a) (t.val d)))
      exec (.sysset d a n) s = .next ((q.endStrand st).enterAt t.tid (st.pc + 4) (q.landing t.tid (st.pc + 4) st.blk)
        (.op (s.atWord st).nextId))) ∧
    Acts (.brk n) (fun _ => []) (fun _ => []) (fun _ s _ => s.sec = .tenant ∨ s.dbg = .off) (fun _ s _ => s) ∧
    Acts (.brk n) (fun _ => []) (fun _ => []) (fun _ s _ => s.sec ≠ .tenant ∧ s.dbg = .observe)
      (fun c s t => s.send 0x43 (s.slotOf t) [t.locator, loWord c.pc, hiWord c.pc, n.setWidth 32]) ∧
    ∀ s st t, Alone s st t → s.sec ≠ .tenant → s.dbg = .halt →
      exec (.brk n) s = .next (s.faults st t { code := 0x0206, aux := n.setWidth 32 })

/-- 08 R188 to R190; 16 R365, R366: an invalidation removes its translations at once and its thread waits at the word after; it completes
when no write through them of the contexts that its slots held at its issue is left. `l2wb` is put in flight; its completion pushes what its bits name. -/
def Obligations.InvalidationsAndWriteBack : Prop :=
  (∀ (d a b : Reg) s st t, Alone s st t → st.more → t.level = .hypervisor →
    let q := s.atWord st
    let inv := fun (cids : List Nat) (all : Bool) (lo hi : Nat) =>
      let r := (q.addOp { q.newOp (s.ctx st) t .none (.inval cids all lo hi) with mark := some q.nextId, slots := q.slotsOf cids all }).removeTrans cids all lo hi
      (r.endStrand st).enterAt t.tid (st.pc + 4) (r.landing t.tid (st.pc + 4) st.blk) (.op q.nextId)
    let r := pageRange (t.pair a).toNat (t.pair b).toNat
    (OperandsReady s t ([d] ++ pairRegs a ++ pairRegs b) [(.int, d), (.int64, a), (.int64, b)] →
      (q.cidHeld (q.operand t .int d) = true → t.pair b ≠ 0 → rangeOk r = true →
        exec (.tlbinv d a b) s = .next (inv [(q.operand t .int d).toNat] false (r.1 % 2 ^ 57) (r.1 % 2 ^ 57 + (r.2 - r.1)))) ∧
      (q.cidHeld (q.operand t .int d) = false ∨ t.pair b = 0 → exec (.tlbinv d a b) s = .next (q.goesOn st))) ∧
    (OperandsReady s t [a] [(.int, a)] →
      (q.operand t .int a = 0xFFFFFFFF → exec (.tlbinva a) s = .next (inv [] true 0 (2 ^ 57))) ∧
      (q.operand t .int a ≠ 0xFFFFFFFF → q.cidHeld (q.operand t .int a) = true →
        exec (.tlbinva a) s = .next (inv [(q.operand t .int a).toNat] false 0 (2 ^ 57))) ∧
      (q.operand t .int a ≠ 0xFFFFFFFF → q.cidHeld (q.operand t .int a) = false → exec (.tlbinva a) s = .next (q.goesOn st)))) ∧
  (∀ a : Reg, ∀ i ∈ [Instr.l2wbRemotePush a, Instr.l2wbHomeWriteback a],
    Launches i (fun _ => [a]) (fun _ => [(.int, a)]) .st (fun _ s t kind ds => ds = [] ∧ t.level ≠ .user ∧ t.full .st = false ∧
      kind = .writeBack ((s.operand t .int a).getLsbD 0) ((s.operand t .int a).getLsbD 1))) ∧
  (∀ (s : State) o push home, s.op? o.id = some o → o.kind = .writeBack push home →
    exec (.l2wbComplete o.id) s = .next ((if home then ({ (if push then s.pushAll else s) with homeDirty := [] } : State)
      else if push then s.pushAll else s).arrive o.id id)) ∧
  ∀ (s : State) o cids all lo hi m, s.op? o.id = some o → o.kind = .inval cids all lo hi → o.mark = some m →
    (∀ n ∈ o.slots, s.writesOf n m = false) → exec (.tlbInvalidateComplete o.id) s = .next (s.pushAll.arrive o.id id)

/-- 16 R361 to R364: the write of a `sysset` reaches its register and its thread's wait ends. -/
def Sys2Proof.Claims.SystemRegisterWritesArrive : Prop :=
  ∀ (s : State) o n sel v, s.op? o.id = some o → o.kind = .sysWrite n sel v →
    let done : Machine.Out := .next ((s.sysWrite n sel v).arrive o.id id)
    (n = 0 → exec (.wvFairWrite o.id) s = done) ∧ (n = 1 → exec (.dsWinWrite o.id) s = done) ∧
    (n = 2 → exec (.trRootWrite o.id) s = done) ∧ (n = 3 → exec (.trWaysWrite o.id) s = done) ∧
    (n = 4 → exec (.trWalkWrite o.id) s = done) ∧ (n = 5 → exec (.scopeCtlWrite o.id) s = done) ∧
    (n = 6 → exec (.scopeMaskWrite o.id) s = done) ∧ (n = 7 → exec (.crOvbaseWrite o.id) s = done) ∧
    (n = 8 → exec (.crOvctlWrite o.id) s = done) ∧ (n = 9 → exec (.hpBaseWrite o.id) s = done) ∧
    (n = 10 → exec (.hpSizeWrite o.id) s = done) ∧ (n = 11 → exec (.fabCtagWrite o.id) s = done) ∧
    (n = 12 → exec (.fabExpWrite o.id) s = done) ∧ (n = 13 → exec (.tenQuotaWrite o.id) s = done) ∧
    (n = 14 → exec (.tenCoresWrite o.id) s = done) ∧ (n ∈ [15, 16, 17] → exec (.registerWrite o.id) s = .next (s.arrive o.id id))

/-- 16 R361 to R364, R379; 08 R193; 10 R233: what a word written to a system register changes, and when the old value stays. A selector that
is not of its register has no effect and reads as 0 (R361); that this takes in a SLOT other than 0 of a register that no slot has is the
model's choice (assumption 122). -/
def Sys2Proof.Claims.SystemRegisterRules : Prop :=
  ∀ (s : State) (sel v : Word),
    (∀ n, selOk n sel = false → s.sysWrite n sel v = s ∧ s.sysRead n sel = 0) ∧
    (∀ n ∈ [2, 3, 4, 9, 10, 11, 12, 13, 14], s.sec = .tenant → s.sysWrite n sel v = s) ∧
    (selOk 0 sel = true → s.sysWrite 0 sel v =
      if 32 ≤ v.toNat % 65536 then s.mapCore (selUnit sel) (fun c => { c with fair := v.toNat % 65536 }) else s) ∧
    (selOk 3 sel = true → s.sec ≠ .tenant → s.sysWrite 3 sel v =
      if v.toNat % 65536 = 0 then s else s.mapSlot (selSlot sel) (fun c => { c with ways := v.setWidth 16 })) ∧
    (selOk 4 sel = true → s.sec ≠ .tenant → s.sysWrite 4 sel v =
      if v.toNat % 128 = 0 ∨ 96 < v.toNat % 128 ∨ 96 < s.sumSlots (selSlot sel) (v.toNat % 128) (fun c => c.walk) then s
      else s.mapSlot (selSlot sel) (fun c => { c with walk := v.toNat % 128 })) ∧
    (selOk 8 sel = true → s.sysWrite 8 sel v =
      if v.toNat / 65536 % 32 < 6 ∨ 16 < v.toNat / 65536 % 32 then s
      else s.mapSlot (selSlot sel) (fun c => { c with ovEn := v.msb, ovStr := v.toNat / 65536 % 32, ovM := v.toNat % 4096 })) ∧
    (∀ n ∈ [15, 16, 17], s.sysWrite n sel v = s)

/-- 08 R193; 09 R195, R196; 10 R233; 12 R278; 14 R316; 15 R349, R350; 16 R364: what the other system registers take, and when their old
value stays. The value is the whole register with the written word replaced; the Tenant state is as in the part above. A write of `tr.root`
that opens a context in its slot also clears what the slot held of the last one, which is the model's choice (assumption 23). -/
def Sys2Proof.Claims.ContextRegisterRules : Prop :=
  (∀ (s : State) (sel v : Word),
    let slot := selSlot sel
    let unit := selUnit sel
    (selOk 1 sel = true →
      let x := s.sysMerged 1 sel v
      let size := x / 2 ^ 16 % 1024
      let base := x % 512
      let w := fun k => Sparse.get (0, 0) (s.slot k).win unit
      let refused := 512 < base + size ∨
        (∃ k < 16, k ≠ slot ∧ size ≠ 0 ∧ (w k).1 ≠ 0 ∧ base < (w k).2 + (w k).1 ∧ (w k).2 < base + size) ∨
        ∃ u ∈ s.units, u.slot = slot ∧ dieOf u.core = unit
      (refused ∨ w slot = (size, base) → s.sysWrite 1 sel v = s) ∧
      (¬refused → w slot ≠ (size, base) → s.sysWrite 1 sel v =
        (s.mapSlot slot (fun c => { c with win := Sparse.set (0, 0) c.win unit (size, base) })).mapDie unit (fun d =>
          { d with scratch := Sparse.clear d.scratch (base * 65536) (size * 65536) }))) ∧
    (∀ n b m, (n = 5 ∧ b = (s.sysMerged 5 sel v).testBit 31 ∧ m = (Sparse.get {} (s.slot slot).scopes unit).mask) ∨
        (n = 6 ∧ b = (Sparse.get {} (s.slot slot).scopes unit).v ∧ m = BitVec.ofNat 320 (s.sysMerged 6 sel v)) → selOk n sel = true →
      s.sysWrite n sel v = if b = true ∧ m = 0 then s
        else s.mapSlot slot (fun c => { c with scopes := Sparse.set {} c.scopes unit (scopeOf b m) })) ∧
    (selOk 7 sel = true → s.sysWrite 7 sel v =
      s.mapSlot slot (fun c => { c with ovBase := BitVec.ofNat 64 (s.sysMerged 7 sel v) })) ∧
    (s.sec ≠ .tenant →
      (selOk 2 sel = true →
        let x := s.sysMerged 2 sel v
        let taken := x % 2 = 1 ∧ ∃ k < 16, k ≠ slot ∧ (s.slot k).v = true ∧ (s.slot k).cid = x / 8 % 64
        (taken → s.sysWrite 2 sel v = s) ∧
        (¬taken → ∃ c : Slot, s.sysWrite 2 sel v = s.mapSlot slot (fun _ => c) ∧ c.root = x / 4096 % 2 ^ 34 * 4096 ∧
          c.cid = x / 8 % 64 ∧ c.ga = x.testBit 2 ∧ c.v = x.testBit 0)) ∧
      (∀ n base size, (n = 9 ∧ base = s.sysMerged 9 sel v / 2 ^ 21 % 2 ^ 25 ∧ size = (s.die unit).hpSize) ∨
          (n = 10 ∧ base = (s.die unit).hpBase ∧ size = s.sysMerged 10 sel v % 2 ^ 13) → selOk n sel = true →
        s.sysWrite n sel v =
          if (size ≠ 0 ∧ (base < unit * 65536 ∨ (unit + 1) * 65536 < base + size)) ∨ (base = (s.die unit).hpBase ∧ size = (s.die unit).hpSize)
          then s else (s.dropReplicas unit).mapDie unit (fun d => { d with hpBase := base, hpSize := size })) ∧
      (selOk 11 sel = true →
        let x := s.sysMerged 11 sel v
        let taken := x.testBit 31 = true ∧ ∃ k < 16, k ≠ slot ∧ (s.slot k).ctagV = true ∧ (s.slot k).ctag = x % 65536
        (taken → s.sysWrite 11 sel v = s) ∧
        (¬taken → s.sysWrite 11 sel v = s.mapSlot slot (fun c => { c with ctagV := x.testBit 31, ctag := x % 65536 }))) ∧
      (selOk 12 sel = true →
        let x := s.sysMerged 12 sel v
        let size := x / 2 ^ 40 % 2 ^ 20
        let base := x / 2 ^ 21 % 2 ^ 19
        s.sysWrite 12 sel v = if 2 ^ 40 < (base + size) * 2 ^ 21 then s
          else s.mapSlot slot (fun c => { c with expWe := x.testBit 63, expV := x.testBit 62, expSize := size, expBase := base })) ∧
      (selOk 13 sel = true →
        let x := s.sysMerged 13 sel v
        let cr := x / 2 ^ 23 % 512
        let lk := x / 2 ^ 17 % 64
        let tc := x / 2 ^ 8 % 512
        let bt := x % 256
        let bad := (cr = 0 ∨ 256 < cr) ∨ (lk = 0 ∨ 48 < lk) ∨ (tc = 0 ∨ 256 < tc) ∨ bt = 0 ∨ 128 < bt
        let many := 256 < s.sumSlots slot cr (fun c => c.qCr) ∨ 48 < s.sumSlots slot lk (fun c => c.qLk) ∨
          256 < s.sumSlots slot tc (fun c => c.qTc) ∨ 128 < s.sumSlots slot bt (fun c => c.qBt)
        let held := (∃ n < 320, cr < sumOf (fun u => u.ncr) (s.units.filter (fun u => u.core == n && u.slot == slot))) ∨
          lk < s.firstsHeld slot ∨ ∃ n < 320, tc < s.cmdCount n slot ∨ bt < s.entriesOf n slot
        (bad ∨ many ∨ held → s.sysWrite 13 sel v = s) ∧
        (¬(bad ∨ many ∨ held) → s.sysWrite 13 sel v = s.mapSlot slot (fun c => { c with qCr := cr, qLk := lk, qTc := tc, qBt := bt }))) ∧
      (selOk 14 sel = true → s.sysWrite 14 sel v =
        if BitVec.ofNat 320 (s.sysMerged 14 sel v) = 0 then s
        else s.mapSlot slot (fun c => { c with cores := BitVec.ofNat 320 (s.sysMerged 14 sel v) })))) ∧
  ∀ b (m : BitVec 320), m ≠ 0 →
    let e := scopeOf b m
    e.v = b ∧ e.mask = m ∧ (e.lvl = 0 ↔ ∃ k, coresOf m = [k]) ∧
      (e.lvl ≤ 1 ↔ ∀ j ∈ coresOf m, ∀ k ∈ coresOf m, dieOf j = dieOf k) ∧ e.lvl ≤ 2 ∧
      (∀ k ∈ coresOf m, e.die = if e.lvl ≤ 1 then dieOf k else 0)

/-- All the parts hold: `SystemRegisterWritesArrive`; `SystemRegisterRules`; `ContextRegisterRules`. -/
def Obligations.SystemRegisterWrites : Prop :=
  Claims.SystemRegisterWritesArrive ∧
    Claims.SystemRegisterRules ∧
    Claims.ContextRegisterRules

/-- 10 R222 to R225; 14 R329 to R331: copies and bulk operations whose checks pass are put in flight on class cp. -/
def Sys2Proof.Claims.CopiesGoInFlight : Prop :=
  ∀ d a b : Reg,
    let bulk := fun (toPeer : Bool) (red : Hints → Option AtomFn) (c : Ctx) (s : State) (t : Thread) (kind : OpKind) (ds : List Reg) =>
      ds = [] ∧ c.hints.hx.isSome = true ∧ c.hints.c.toNat % 2 = 0 ∧ ∃ x : CopyArgs,
        x = { dst := t.pair d, src := t.pair a, len := (s.operand t .int b).toNat, bulk := true, get := !toPeer, red := red c.hints,
              signal := t.pair c.hints.c } ∧
        (s.bulkChecks t x (if toPeer then t.pair d else t.pair a)).2 = .ok x ∧ kind = .copy x
    let bulkRegs := fun (h : Hints) => pairRegs d ++ pairRegs a ++ [b] ++ pairRegs h.c
    let bulkReads := fun (h : Hints) => [(Cls.int64, d), (.int64, a), (.int, b), (.int64, h.c)]
    Launches (.cpy d a b) (fun _ => pairRegs d ++ pairRegs a ++ [b]) (fun _ => [(.int64, d), (.int64, a), (.int, b)]) .cp
      (fun c s t kind ds => ds = [] ∧ ∃ x : CopyArgs,
        x = { dst := t.pair d, src := t.pair a, len := (s.operand t .int b).toNat, pol := c.hints.pol } ∧
        s.copyChecks t x = .ok x ∧ kind = .copy x) ∧
    Launches (.cpyz d b) (fun _ => pairRegs d ++ [b]) (fun _ => [(.int64, d), (.int, b)]) .cp
      (fun c s t kind ds => ds = [] ∧ ∃ x : CopyArgs,
        x = { dst := t.pair d, src := 0, len := (s.operand t .int b).toNat, zero := true, pol := c.hints.pol } ∧
        s.copyChecks t x = .ok x ∧ kind = .copy x) ∧
    Launches (.cpy2d d a b) (fun h => pairRegs d ++ pairRegs a ++ [b, h.c, h.c + 1, h.c + 2])
      (fun h => [(.int64, d), (.int64, a), (.int, b), (.int, h.c), (.int, h.c + 1), (.int, h.c + 2)]) .cp
      (fun c s t kind ds => ds = [] ∧ c.hints.hx.isSome = true ∧ c.hints.c.toNat % 4 = 0 ∧ ∃ x : CopyArgs,
        x = { dst := t.pair d, src := t.pair a, len := (s.operand t .int b).toNat, rows := (s.operand t .int c.hints.c).toNat,
              sStride := (s.operand t .int (c.hints.c + 1)).toInt, dStride := (s.operand t .int (c.hints.c + 2)).toInt,
              pol := c.hints.pol } ∧
        s.copyChecks t x = .ok x ∧ kind = .copy x) ∧
    Launches (.nput d a b) bulkRegs bulkReads .cp (bulk true (fun _ => none)) ∧
    Launches (.nget d a b) bulkRegs bulkReads .cp (bulk false (fun _ => none)) ∧
    Launches (.nred d a b) bulkRegs bulkReads .cp (fun c s t kind ds =>
      (redFn (c.hints.mod.toNat % 16)).isSome = true ∧ bulk true (fun h => redFn (h.mod.toNat % 16)) c s t kind ds)

/-- 10 R223, R224: the checks of a copy at issue, in their order: room on class cp, addresses, size, the ranges in scratch spaces. A range
of no bytes is assumption 39, room before the checks assumption 20. Which address a record
holds, and that the destination comes first, is the model's choice (assumption 125). -/
def Sys2Proof.Claims.CopyChecksInOrder : Prop :=
  ∀ (s : State) (t : Thread) (c : CopyArgs),
    (63 ≤ t.cp → s.copyChecks t c = .error (.leave (.room .cp))) ∧
    (t.cp < 63 →
      (copyAddr c.dst = .bad → s.copyChecks t c = .error (.fault { code := 0x0507, addr := c.dst })) ∧
      (copyAddr c.dst ≠ .bad → c.zero = false → copyAddr c.src = .bad → s.copyChecks t c = .error (.fault { code := 0x0507, addr := c.src })) ∧
      (copyAddr c.dst ≠ .bad → (c.zero = true ∨ copyAddr c.src ≠ .bad) →
        (2 ^ 32 ≤ c.rows * c.len → s.copyChecks t c = .error (.fault { code := 0x0506, addr := c.dst })) ∧
        (c.rows * c.len < 2 ^ 32 → copyAddr c.dst = .global → (c.zero = true ∨ copyAddr c.src = .global) → s.copyChecks t c = .ok c) ∧
        (∀ sp off, c.rows = 1 → 0 < c.len → c.len < 2 ^ 32 → copyAddr c.dst = .scratch sp off → (s.region t sp).1 < off + c.len →
          s.copyChecks t c = .error (.fault { code := 0x0506, addr := c.dst }))))

/-- 10 R225: the last byte of a copy reaches its destination in memory of the issuing die, no other byte of memory changes, and the copy
completes. The order in which the engine moves bytes is assumption 38. -/
def Sys2Proof.Claims.CopyMovesItsBytes : Prop :=
  ∀ (s s2 : State) o c a b, s.nextToRetire o → o.kind = .copy c → o.origin = none → o.fault = none → c.creel = none → c.bulk = false →
    c.red = none → c.stop = 0 → c.rest = [] → c.total = c.moved + 1 → s.awaits o.id = false → s.srcByte o c c.moved = (s, .byte b) →
    s.copyEnd o (c.dstAt c.moved) true = (s2, .here a) → peerOf a.loc = none → homeDie a.loc = dieOf o.core → Memory.wf s.mem = true →
    ∃ s', exec (.copyComplete o.id 1) s = .next s' ∧ s'.op? o.id = none ∧
      ∀ j, Memory.read s'.mem j = if j = a.loc then b else Memory.read s.mem j

/-- All the parts hold: `CopiesGoInFlight`; `CopyChecksInOrder`; `CopyMovesItsBytes`. -/
def Obligations.CopiesAreCheckedAndMoveBytes : Prop :=
  Claims.CopiesGoInFlight ∧
    Claims.CopyChecksInOrder ∧
    Claims.CopyMovesItsBytes

/-- 14 R332, R333: `nsig` releases and puts an add of its operand in flight at the home of the word; `nstat` reads the state of a link,
of a peer, or of this module. -/
def Obligations.SignalsAndFabricStatus : Prop :=
  ∀ (d a b : Reg),
    Acts (.nsig a b) (fun _ => pairRegs a ++ [b]) (fun _ => [(.int64, a), (.int, b)])
      (fun _ s t => t.full .st = false ∧ s.holds t .quiet = true ∧ s.bulkBefore t = none ∧
        ∃ s1 acc, s.globalAccess t (t.pair a) 8 0 none needStore = (s1, .ok acc))
      (fun c s t =>
        let r := s.globalAccess t (t.pair a) 8 0 none needStore
        match r.2 with
        | .ok acc =>
          let q := (r.1.releasePush t.core 3).codeOut t 11
          q.addOp (q.newOp c t .st (.atomic acc .add64 ((s.operand t .int b).setWidth 64) 0 (atomPlace t.modeD 3 acc) false))
        | .error _ => s) ∧
    Acts (.nstat d a 0) (fun _ => [d, a]) (fun _ => [(.int, a)]) (fun _ _ _ => True)
      (fun _ s t =>
        let x := s.operand t .int a
        s.setThread (t.setReg d (if x.toNat < 47 then (s.link x.toNat).word else 0xFFFFFFFF) .int)) ∧
    Acts (.nstat d a 1) (fun _ => [d, a]) (fun _ => [(.int, a)]) (fun _ _ _ => True)
      (fun _ s t => s.setThread (t.setReg d (s.peerWord ((s.operand t .int a).toNat % 2 ^ 15)) .int)) ∧
    Acts (.nstat d a 2) (fun _ => [d]) (fun _ => []) (fun _ _ _ => True)
      (fun _ s t => s.setThread (t.setReg d (BitVec.ofNat 32 (s.dev * 2 ^ 15 + (s.groups - 1) * 2 ^ 5)) .int))

/-- 10 R226 to R231: creels. A claim takes the head slot in ring order; a post fills it; a take removes the front of the claim queue; a
give frees it; the status and the address are read. That FILLED, taken modulo 2^9, is the low bits of a count which can pass 511 is the
model's reading (assumption 110). -/
def Sys2Proof.Claims.CreelsMoveSlots : Prop :=
  ∀ (d a : Reg) (k : BitVec 7),
    let cr := fun (s : State) (t : Thread) => s.creel t.unit k.toNat
    let idx := fun (s : State) (t : Thread) => (s.operand t .int a).toNat
    Acts (.crinit a k) (fun _ => [a]) (fun _ => [(.int, a)])
      (fun _ s t => ∃ u, s.unitOf t = some u ∧ k.toNat < u.ncr ∧ 2 ^ 24 ≤ idx s t ∧ idx s t / 2 ^ 13 % 2 = 0 ∧
        64 * (idx s t % 2 ^ 13) + (idx s t / 2 ^ 24 + 1) * (64 * (idx s t / 2 ^ 14 % 2 ^ 10 + 1)) ≤ u.scrLen)
      (fun _ s t =>
        let u := (s.unitOf t).getD { uid := 0, slot := 0, launch := 0, index := 0, core := 0, row0 := 0, rows := 0, nthreads := 0, gw := 0 }
        (s.orphanCopies u.uid k.toNat).setCreel u.uid k.toNat
          { v := true, base := 64 * (idx s t % 2 ^ 13), size := 64 * (idx s t / 2 ^ 14 % 2 ^ 10 + 1), n := idx s t / 2 ^ 24 + 1,
            x := (u.core * 32 + u.row0) * 8 + k.toNat, starved := (s.creel u.uid k.toNat).starved }) ∧
    Acts (.crclaim d k) (fun _ => [d]) (fun _ => [])
      (fun _ s t => (cr s t).v = true ∧ (cr s t).o = false ∧ 0 < (cr s t).n ∧ (cr s t).h < (cr s t).n ∧ (cr s t).slotAt (cr s t).h = .free)
      (fun _ s t =>
        let c := cr s t
        (s.setCreel t.unit k.toNat { (c.put c.h .claimedPost) with
          h := (c.h + 1) % c.n, queue := c.queue ++ [c.h], starved := c.starved.filter (fun p => p.1 != t.tid) }).setThread
          (t.setReg d (BitVec.ofNat 32 c.h) .int)) ∧
    Acts (.crpost a k) (fun _ => [a]) (fun _ => [(.int, a)])
      (fun _ s t => (cr s t).v = true ∧ s.holds t .quiet = true ∧ idx s t < (cr s t).n ∧ (cr s t).slotAt (idx s t) = .claimedPost)
      (fun _ s t => (s.codeOut t 0).setCreel t.unit k.toNat ((cr s t).put (idx s t) .filled)) ∧
    (∀ i rest, Acts (.crtake d k) (fun _ => [d]) (fun _ => [])
      (fun _ s t => (cr s t).v = true ∧ (cr s t).queue = i :: rest ∧ (cr s t).slotAt i = .filled ∧ i < (cr s t).n)
      (fun _ s t => (s.setCreel t.unit k.toNat { ((cr s t).put i .taken) with queue := rest }).setThread
        (t.setReg d (BitVec.ofNat 32 i) .int))) ∧
    Acts (.crgive a k) (fun _ => [a]) (fun _ => [(.int, a)])
      (fun _ s t => (cr s t).v = true ∧ s.holds t .reads = true ∧ (cr s t).o = false ∧ idx s t < (cr s t).n ∧
        (cr s t).slotAt (idx s t) = .taken)
      (fun _ s t => s.setCreel t.unit k.toNat ((cr s t).put (idx s t) .free)) ∧
    Acts (.crtest d k) (fun _ => [d]) (fun _ => []) (fun _ s t => (cr s t).v = true ∧ t.modeD = false)
      (fun _ s t => s.setThread (t.setReg d (if (cr s t).filledCount = 0 then 0 else 1) .int)) ∧
    Acts (.crstat d k) (fun _ => [d]) (fun _ => []) (fun _ _ _ => True)
      (fun _ s t => s.setThread (t.setReg d (BitVec.ofNat 32 ((cr s t).freeCount * 2 ^ 23 + (cr s t).filledCount % 2 ^ 9 * 2 ^ 14 +
        (cr s t).h * 2 ^ 6 + (if (cr s t).o then 32 else 0) + (if (cr s t).v then 16 else 0))) .int)) ∧
    Acts (.craddr d a k) (fun _ => pairRegs d ++ [a]) (fun _ => [(.int, a)])
      (fun _ s t => (cr s t).v = true ∧ idx s t < (cr s t).n)
      (fun _ s t => s.setThread (t.setPair d (BitVec.ofNat 64 (0x82 * 2 ^ 56 + (cr s t).base + idx s t * (cr s t).size)) .x64)) ∧
    Acts (.cpyc d a k) (fun _ => d :: pairRegs a) (fun _ => [(.int64, a)])
      (fun _ s t => t.full .cp = false ∧ copyAddr (t.pair a) = .global ∧ (cr s t).v = true ∧ (cr s t).o = false ∧ 0 < (cr s t).n ∧
        (cr s t).h < (cr s t).n ∧ (cr s t).slotAt (cr s t).h = .free)
      (fun c s t =>
        let q := cr s t
        let s1 := (s.setCreel t.unit k.toNat { (q.put q.h .claimedCopy) with
          h := (q.h + 1) % q.n, queue := q.queue ++ [q.h], starved := q.starved.filter (fun p => p.1 != t.tid) }).setThread
          (t.setReg d (BitVec.ofNat 32 q.h) .int)
        s1.addOp (s1.newOp c t .cp (.copy {
          dst := BitVec.ofNat 64 (0x82 * 2 ^ 56 + q.base + q.h * q.size), src := t.pair a, len := q.size, creel := some (k.toNat, q.h),
          pol := c.hints.pol }))) ∧
    (∀ i ∈ [Instr.crclaim d k, .crtake d k, .crtest d k], Raises i (fun _ => [d]) (fun _ => []) (fun _ s t => (cr s t).v = false)
      (fun _ _ _ => { code := 0x0506, aux := k.setWidth 32 })) ∧
    (∀ i ∈ [Instr.crpost a k, .crgive a k], Raises i (fun _ => [a]) (fun _ => [(.int, a)]) (fun _ s t => (cr s t).v = false)
      (fun _ _ _ => { code := 0x0506, aux := k.setWidth 32 }))

/-- 10 R233 to R235: a creel whose `cpyc` has stood for 2^20 cycles enters overflow mode and captures the context's registers; a unit
stalled for 2^24 cycles sends one stall record. -/
def Sys2Proof.Claims.OverflowModeAndStallRecords : Prop :=
  (∀ (s : State) u k tid at', s.unit? u.uid = some u → (s.creel u.uid k).v = true → (s.creel u.uid k).o = false →
    (∀ t ∈ s.threads, t.unit = u.uid → t.modeD = false) → (s.slot u.slot).overflowFits (s.creel u.uid k) = true →
    (s.creel u.uid k).starved = [(tid, at')] → s.standsFor tid k = true → at' + 2 ^ 20 ≤ s.coreClock u.core →
    exec (.creelOverflowEnter u.uid k) s = .next (s.setCreel u.uid k { s.creel u.uid k with
      o := true, j := 0, captured := some ((s.slot u.slot).ovBase.toNat, (s.slot u.slot).ovM, (s.slot u.slot).ovStr) })) ∧
  ∀ (s : State) u since, s.unit? u.uid = some u → u.stallSince = some since → u.stallSent = false → s.stalled u = true →
    (since + 2 ^ 24 ≤ s.coreClock u.core → exec (.stallRecord u.uid) s =
      .next ((s.send 0x41 u.slot (s.stallWords u)).mapUnit u.uid (fun u => { u with stallSent := true }))) ∧
    (s.coreClock u.core < since + 2 ^ 24 → exec (.stallRecord u.uid) s = .next s)

/-- All the parts hold: `CreelsMoveSlots`; `OverflowModeAndStallRecords`. -/
def Obligations.CreelsMoveSlotsAndOverflow : Prop :=
  Claims.CreelsMoveSlots ∧
    Claims.OverflowModeAndStallRecords

/-- 12 R265 to R267, R274 to R276, R283, R285: the instructions of append-seal pages are put in flight when the page passes its checks.
That a `seal`, `free` or `aopen` waits at itself is assumption 78. -/
def Obligations.AppendPageOperationsGoInFlight : Prop :=
  ∀ d a b : Reg,
    let page := fun (ctr : Ctr) (write det quiet : Bool) (dst : List Reg) (kind : State → Thread → Access → OpKind) (c : Ctx) (s : State)
        (t : Thread) (k : OpKind) (ds : List Reg) =>
      ds = dst ∧ t.full ctr = false ∧ (quiet = true → s.holds t .quiet = true) ∧
        ∃ acc, (s.asealAccess t a write det c.st.blk.gath).2 = .ok acc ∧ k = kind s t acc
    Launches (.app d a b) (fun _ => d :: pairRegs a ++ [b]) (fun _ => [(.int64, a), (.any, b)]) .ld
      (page .ld true true false [d] (fun _ t acc => .append acc [t.val b] none)) ∧
    Launches (.app64 d a b) (fun _ => d :: pairRegs a ++ pairRegs b) (fun _ => [(.int64, a), (.any, b), (.any, b + 1)]) .ld
      (page .ld true true false [d] (fun _ t acc => .append acc [t.val b, t.val (b + 1)] none)) ∧
    Launches (.appq d a b) (fun _ => d :: pairRegs a ++ [b, b + 1, b + 2, b + 3]) (fun _ => [(.int64, a)]) .ld
      (page .ld true true false [d] (fun _ t acc => .append acc [t.val b, t.val (b + 1), t.val (b + 2), t.val (b + 3)] none)) ∧
    Launches (.free a) (fun _ => pairRegs a) (fun _ => [(.int64, a)]) .st (page .st true true true [] (fun _ _ acc => .free acc)) ∧
    Launches (.aopen a b) (fun _ => pairRegs a ++ [b]) (fun _ => [(.int64, a), (.int, b)]) .st
      (fun c s t k ds => t.level ≠ .user ∧ page .st true false true [] (fun s t acc => .aopen acc (s.operand t .int b)) c s t k ds) ∧
    Launches (.atail d a) (fun _ => d :: pairRegs a) (fun _ => [(.int64, a)]) .ld
      (page .ld false false false [d] (fun _ _ acc => .status acc false)) ∧
    Launches (.astate d a) (fun _ => d :: pairRegs a) (fun _ => [(.int64, a)]) .ld
      (page .ld false false false [d] (fun _ _ acc => .status acc true)) ∧
    Acts (.seal a) (fun _ => pairRegs a) (fun _ => [(.int64, a)])
      (fun c s t => t.full .st = false ∧ s.holds t .quiet = true ∧ ∃ acc, (s.asealAccess t a true true c.st.blk.gath).2 = .ok acc)
      (fun c s t =>
        let r := s.asealAccess t a true true c.st.blk.gath
        match r.2 with
        | .ok acc =>
          let q := (r.1.releasePush t.core 3).codeOut t 11
          q.addOp { q.newOp c t .st (.seal acc) with tag := .int }
        | .error _ => s)

/-- 12 R261, R267, R268: an append of z bytes takes the next multiple of z at or above the tail, fills the gap with zeros and reserves its
bytes; its data is then written there, the offset is its result, and no other byte changes. A page that is not OPEN, or full, faults. -/
def Obligations.AppendsReserveThenWrite : Prop :=
  (∀ (s : State) o a ws r, s.op? o.id = some o → o.kind = .append a ws none → a.peer = none → s.appendBatch o = [o] →
    s.mayServe o false = true → s.page? a.pageLoc = some r → o.detM = false → r.size = a.pageSize → ws ≠ [] →
    let z := 4 * ws.length
    let off := (r.tail + z - 1) / z * z
    (r.state = .opened → off + z ≤ r.size → exec (.appendBatchServe o.id) s =
      .next (((s.homeWrite (a.pageLoc + r.tail) (List.replicate (off - r.tail) 0)).setPage a.pageLoc { r with
        tail := off + z, reserved := r.reserved ++ [(off, z)] }).mapOp o.id (fun q => { q with
          served := true, kind := .append a ws (some off) }))) ∧
    (r.state = .opened → r.size < off + z → exec (.appendBatchServe o.id) s =
      .next (s.arriveFault o.id 0x0703 a.va (BitVec.ofNat 32 r.tail))) ∧
    (r.state ≠ .opened → exec (.appendBatchServe o.id) s = .next (s.arriveFault o.id 0x0701 a.va r.tailAux))) ∧
  ∀ (s : State) o t a ws off, s.nextToRetire o → o.kind = .append a ws (some off) → o.fault = none → o.origin = none →
    s.thread? o.tid = some t → t.state ≠ .exited → s.threadsNamed → Memory.wf s.mem = true →
    ∃ s', exec (.appendDataWrite o.id) s = .next s' ∧ s'.op? o.id = none ∧
      s'.thread? o.tid = some ((t.lower o.cls).deliver o.dsts [BitVec.ofNat 32 off] o.tag) ∧
      ∀ j, Memory.read s'.mem j =
        if a.pageLoc + off ≤ j ∧ j < a.pageLoc + off + 4 * ws.length then
          (ws.flatMap (fun w => leBytes 4 w.toNat)).getD (j - (a.pageLoc + off)) 0
        else Memory.read s.mem j

/-- 12 R264, R276, R283, R285: a seal makes an OPEN page SEALED and completes when no data is outstanding; a free makes a SEALED page
FREEING; `aopen` makes a new OPEN page, refuses an existing one with CTL 0, waits on one that is FREEING, and frees it otherwise; a page in the
wrong state faults. What a waiting `aopen` does when the freeing ends is assumption 37. -/
def Sys2Proof.Claims.PagesAreSealedFreedAndOpened : Prop :=
  ∀ (s : State) o a, s.op? o.id = some o → o.detM = false → a.peer = none →
    (o.kind = .seal a → s.mayServe o true = true → ∀ r, s.page? a.pageLoc = some r → r.size = a.pageSize →
      (r.state = .opened → exec (.sealServe o.id) s =
        .next ((s.setPage a.pageLoc { r with state := .sealed }).mapOp o.id (fun p => { p with served := true }))) ∧
      (r.state ≠ .opened → exec (.sealServe o.id) s = .next (s.arriveFault o.id 0x0704 a.va (stateAux false false (some r))))) ∧
    (o.kind = .seal a → o.served = true → o.arrived = false → s.awaits o.id = false → ∀ r, s.page? a.pageLoc = some r → r.reserved = [] →
      exec (.sealComplete o.id) s = .next (s.arrive o.id id)) ∧
    (o.kind = .free a → s.mayServe o true = true → ∀ r, s.page? a.pageLoc = some r → r.size = a.pageSize →
      (r.state = .sealed → exec (.freeServe o.id) s = .next ((s.setPage a.pageLoc { r with
        state := .freeing, freeOp := some o.id, reclaiming := false, acks := [], removing := false }).mapOp o.id (fun p => { p with
          served := true }))) ∧
      (r.state ≠ .sealed → exec (.freeServe o.id) s = .next (s.arriveFault o.id 0x0704 a.va (stateAux false false (some r))))) ∧
    (∀ ctl, o.kind = .aopen a ctl → s.mayServe o true = true →
      (3 ≤ ctl.toNat → exec (.aopenServe o.id) s = .next (s.arriveFault o.id 0x0704 a.va (stateAux true false (s.page? a.pageLoc)))) ∧
      (s.page? a.pageLoc = none → ctl.toNat < 2 → exec (.aopenServe o.id) s =
        .next ((s.setPage a.pageLoc { state := .opened, size := a.pageSize }).arrive o.id id)) ∧
      (∀ r, s.page? a.pageLoc = some r →
        (ctl = 0 → exec (.aopenServe o.id) s = .next (s.arriveFault o.id 0x0704 a.va (stateAux false false (some r)))) ∧
        (ctl = 1 ∨ ctl = 2 → r.state = .freeing →
          exec (.aopenServe o.id) s = .next (s.mapOp o.id (fun p => { p with served := true }))) ∧
        (ctl = 1 ∨ ctl = 2 → r.state ≠ .freeing → exec (.aopenServe o.id) s = .next ((s.setPage a.pageLoc { r with
          state := .freeing, freeOp := some o.id, reclaiming := false, acks := [], removing := ctl == 2 }).mapOp o.id (fun p => { p with
            served := true })))))

/-- 12 R280 to R283: the steps of a freeing: once no data is outstanding every replica is reclaimed; each die drops its replica and
acknowledges; then the issuing context's translations are removed; then, with no write and no read of the page on its way, the page is OPEN
with an empty tail, or loses its record, and the operations that waited for it end; that an `aopen` which waits for the freeing completes
then, also when the page loses its record, is the model's reading (assumption 37). -/
def Sys2Proof.Claims.FreeingStepByStep : Prop :=
  (∀ (s : State) o a r, s.freesPage o.id = some (o, a, r) →
    (r.reserved = [] → r.reclaiming = false → r.repAll = false → r.repPeers = [] → (∀ d ∈ r.repDies, d < 8) → exec (.freeReclaim o.id) s =
      .next (s.setPage a.pageLoc { r with reclaiming := true, acks := r.repDies })) ∧
    (r.reclaiming = true → r.acks = [] → o.mark = none → o.origin = none → exec (.freeShootdown o.id) s =
      .next ((s.shootPage (s.slot o.slot).cid a.pageLoc).mapOp o.id (fun p => { p with mark := some s.nextId }))) ∧
    (∀ m, o.mark = some m → o.origin = none → s.writesPage o a.pageLoc m = false → s.readsPage a.pageLoc = false →
      (∀ b, o.kind = .free b → r.removing = false → exec (.freeReopen o.id) s =
        .next (((s.pushAll.setPage a.pageLoc { state := .opened, size := r.size, claims := r.claims }).endWaiting a.pageLoc).arrive
          o.id id)) ∧
      (r.removing = true → exec (.freeReopen o.id) s = .next (((s.pushAll.erasePage a.pageLoc).endWaiting a.pageLoc).arrive o.id id)))) ∧
  (∀ (s : State) page die r, die < 8 → s.page? page = some r →
    (die ∈ r.acks → exec (.replicaReclaim page die) s = .next (s.dropReplica die page)) ∧
    (s.replica? die page = none → exec (.reclaimAck page die) s =
      .next (s.setPage page { r with acks := r.acks.filter (fun x => x != die) })))

/-- All the parts hold: `PagesAreSealedFreedAndOpened`; `FreeingStepByStep`. -/
def Obligations.PagesChangeTheirStates : Prop :=
  Claims.PagesAreSealedFreedAndOpened ∧
    Claims.FreeingStepByStep

/-- 12 R271 to R275, R279, R281: a read of an append-seal page is judged at the tail slice; `atail` and `astate` read its tail and state;
one of bytes not yet written
waits at their home; a sealed line is served from a copy or brought into the die's replica; a die may drop its least recently used replica. The
data pass the check of their codes (16 R375). Where replicas stand is assumption 33. -/
def Obligations.TailSliceServesReads : Prop :=
  (∀ (s : State) o a w r, s.op? o.id = some o → o.kind = .status a w → s.mayServe o true = true → a.peer = none → o.detM = false →
    s.page? a.pageLoc = some r → r.size = a.pageSize →
    exec (.tailReadServe o.id) s = .next (s.arrive o.id (fun p => { p with
      data := [if w then BitVec.ofNat 32 (r.state.code * 2 ^ 30 + (if r.size = 2 ^ 21 then 2 ^ 29 else 0) +
          (if r.reserved = [] then 0 else 2 ^ 28) + r.tail)
        else match r.state with
          | .opened => BitVec.ofNat 32 r.fill
          | .sealed => BitVec.ofNat 32 r.tail
          | .freeing => 0] }))) ∧
  (∀ (s : State) o a sg acq r, s.op? o.id = some o → o.kind = .load a sg acq → a.sp = 0 → a.cls = 2 → s.freeToAct o = true →
    s.awaits o.id = false → o.served = false → s.sealedCopy o a = none → a.peer = none → s.page? a.pageLoc = some r → r.size = a.pageSize → o.detM = false →
    s.tailBad o a = false →
    (r.state ≠ .freeing → r.tail < a.loc - a.pageLoc + a.z →
      exec (.tailReadServe o.id) s = .next (s.arriveFault o.id 0x0702 a.va (BitVec.ofNat 32 r.tail))) ∧
    (r.state = .opened → a.loc - a.pageLoc + a.z ≤ r.tail → r.reserved = [] →
      exec (.tailReadServe o.id) s = .next (s.arrive o.id (fun p => { p with data := loadWords sg (s.homeRead a.loc a.z) }))) ∧
    (r.state ≠ .freeing → a.loc - a.pageLoc + a.z ≤ r.tail → r.unwritten (a.loc - a.pageLoc) a.z = true →
      exec (.tailReadServe o.id) s = .next (s.mapOp o.id (fun p => { p with served := true }))) ∧
    (r.state = .sealed → a.loc - a.pageLoc + a.z ≤ r.tail → r.reserved = [] → o.origin = none →
      let q := s.readSealed (dieOf o.core) a r.tail
      exec (.replicaFill o.id) s = .next ((q.1.fillSealed o a q.2 r.tail).arrive o.id (fun p => { p with
        data := loadWords sg ((q.2.drop (a.loc % 128)).take a.z) })))) ∧
  (∀ (s : State) o a sg acq r, s.op? o.id = some o → o.kind = .load a sg acq → a.sp = 0 → a.cls = 2 → s.freeToAct o = true →
    s.awaits o.id = false → o.served = false → o.origin = none → s.sealedCopy o a = some r →
    s.tailBad o a = false →
    exec (.replicaFill o.id) s = .next (r.1.arrive o.id (fun p => { p with data := loadWords sg r.2 }))) ∧
  ∀ (s : State) die r rest, die < 8 → (s.die die).replicas = r :: rest →
    exec (.replicaPageDrop die) s = .next (s.dropReplica die r.page)

/-- 13 R291 to R299, R301, R302, R305, R308: every tile instruction enters its command; `tcfg` sets the group's configuration word when it
is valid. -/
def Obligations.TileCommandsEnterTheSequencer : Prop :=
  ∀ d a b : Reg,
    EntersSequencer (.tlda d a b) { fn := .tlda, b := b, dense := some (d, a) } ∧
    EntersSequencer (.tldaGather b) { fn := .tlda, b := b, gather := true } ∧
    EntersSequencer (.tldb d a b) { fn := .tldb, b := b, dense := some (d, a) } ∧
    EntersSequencer (.tldbGather b) { fn := .tldb, b := b, gather := true } ∧
    EntersSequencer (.tmma a b) { fn := .tmma, b := b, mask := some a } ∧
    EntersSequencer (.tzero b) { fn := .tzero, b := b } ∧
    EntersSequencer (.tdrain d a b) { fn := .tdrain, b := b, dense := some (d, a) } ∧
    EntersSequencer (.tstacc d a b) { fn := .tstacc, b := b, dense := some (d, a) } ∧
    EntersSequencer (.tstaccGather b) { fn := .tstacc, b := b, gather := true } ∧
    ∀ s st t w, Alone s st t → st.more → st.blk.gath = true → OperandsReady s t [a] [(.int, a)] → w = s.operand t .int a →
      w.toNat / 16 = 0 → w.toNat % 8 ≤ 4 → (w.getLsbD 3 = true → w.toNat % 8 = 4) →
      exec (.tcfg a) s = .next (((s.atWord st).mapUnit t.unit (fun u => { u with
        config := Sparse.set 0 u.config ((s.atWord st).groupOf t) w })).goesOn st)

/-- 13 R294, R295, R302: a pipe that runs nothing starts the earliest of its commands that are ready; a `tmma` whose buffers hold another
format faults with cause 6; a command that has done its work retires, a `tmma` with its sums in the tile. That a drain which has sent its lines no longer occupies its pipe is
assumption 77. -/
def Sys2Proof.Claims.TilePipesStartAndRetire : Prop :=
  (∀ (s : State) core pipe c, core < 320 → (∀ x ∈ s.cmds, x.core = core → x.fn.pipe = pipe → x.state ≠ .running) →
    s.cmds.find? (fun x => x.core == core && x.fn.pipe == pipe && s.cmdReady x) = some c →
    (c.fn ≠ .tmma ∨ c.next ≠ 0 ∨ s.formatsMatch c = true → exec (.tileCommandStart core pipe) s =
      .next (s.mapCmd c.uid (fun c => { c with state := .running }))) ∧
    (c.fn = .tmma → c.next = 0 → s.formatsMatch c = false → exec (.tileCommandStart core pipe) s =
      .next (s.cmdFault c { code := 0x0801, aux := tileAux 0 c.id 0 6 } (c.giver 64)))) ∧
  ∀ (s : State) c u, s.cmd? c.uid = some c → c.state = .running → s.awaits c.uid = false → s.unit? c.unit = some u → u.stopped = false →
    (c.fn = .tlda ∨ c.fn = .tldb → 2 * c.addrs.length ≤ c.next → exec (.tileCommandRetire c.uid) s =
      .next (((if c.sealed then s.dropRemotes (dieOf c.core) else s).setFormat c).retireCmd c.uid)) ∧
    (c.fn = .tzero → exec (.tileCommandRetire c.uid) s = .next ((s.mapUnit c.unit (fun u => u.zeroRows c)).retireCmd c.uid)) ∧
    (c.fn = .tmma → c.kappa ≤ c.next → exec (.tileCommandRetire c.uid) s = .next ((s.mapUnit c.unit (fun u =>
      u.takeSums c (c.elements.drop (c.next - c.kappa)))).retireCmd c.uid)) ∧
    (c.fn = .tdrain ∨ c.fn = .tstacc → c.lines ≤ c.next → c.unapplied = [] →
      exec (.tileCommandRetire c.uid) s = .next (s.retireCmd c.uid))

/-- 13 R290, R299, R300, R302, R303, R305, R308: the steps of a running command: a load reads the block at its progress point, of f64 one
line after the other; a `tmma` makes one K-step of its selected rows, with the product of f32, f64, bf16, f16 or LNS6 elements that R303 gives,
and after the last writes its sums element by element; a drain without
a merge adds a line at its home, a store-out writes a line at the issuing die's L2. A line applied where it is sent is assumption 40, the order
of the sums assumption 99. -/
def Sys2Proof.Claims.TileCommandsProgress : Prop :=
  (∀ (s : State) c, s.cmd? c.uid = some c → c.state = .running → s.awaits c.uid = false →
    (∀ s1 row addr x, c.fn = .tlda ∨ c.fn = .tldb → s.tileHeld c = false → c.next < 2 * c.addrs.length →
      c.addrs[c.next % c.addrs.length]? = some (row, addr) →
      let kb := c.next / c.addrs.length
      let va := addr + BitVec.ofNat 64 (kb * c.fmt.block) + BitVec.ofNat 64 c.half.length
      canonical va = true → addr.toNat % c.fmt.block = 0 →
      s.copyEnd (c.asOp (c.giver row).1 (c.giver row).2) va false = (s1, .here x) → x.cls ≠ 2 → s1.l2Bad (dieOf c.core) x.loc (Nat.min c.fmt.block 128) = false →
      let r := s1.l2Read (dieOf c.core) x.loc (Nat.min c.fmt.block 128)
      exec (.tileBlockArrival c.uid) s = .next (if c.half.length + r.2.length < c.fmt.block
        then r.1.mapCmd c.uid (fun c => { c with half := r.2, passed := none }) else r.1.putBlock c row kb (c.half ++ r.2))) ∧
    (∀ u, c.fn = .tmma → c.next < c.kappa → s.unit? c.unit = some u → u.stopped = false → exec (.tileBlockArrival c.uid) s =
      .next (s.mapCmd c.uid (fun x => { x with
        next := c.next + 1
        partials := c.rowsOn.foldl (fun m i => (List.range 64).foldl (fun m j => u.mmaAt c m i j c.next) m) c.partials }))) ∧
    (∀ u, c.fn = .tmma → c.kappa ≤ c.next → s.unit? c.unit = some u → u.stopped = false → exec (.tileBlockArrival c.uid) s =
      .next ((s.mapUnit c.unit (fun u => u.takeSums c ((c.elements.drop (c.next - c.kappa)).take 1))).mapCmd c.uid (fun c => { c with
        next := c.next + 1 }))) ∧
    (∀ s1 u row addr x, c.fn = .tdrain ∨ c.fn = .tstacc → c.next < c.lines → s.tileHeld c = false → s.unit? c.unit = some u →
      c.addrs[c.next / c.rowLines]? = some (row, addr) →
      let va := addr + BitVec.ofNat 64 (128 * (c.next % c.rowLines))
      let vals := u.lineWords c row (c.next % c.rowLines)
      canonical va = true → addr.toNat % 128 = 0 →
      s.copyEnd (c.asOp (c.giver row).1 (c.giver row).2) va true = (s1, .here x) →
      (c.fn = .tstacc → exec (.drainLineArrival c.uid) s =
        .next ((((s1.noteWrite (foreignWriter 2) c.core x.loc (wordBytes vals)).l2Write (dieOf c.core) x.loc (wordBytes vals)).l1Store c.core x.loc
          (wordBytes vals)).mapCmd c.uid (fun c => { c with
          next := c.next + 1 }))) ∧
      (c.fn = .tdrain → c.merge = none → ((s1.l1Give c.core x.loc).dropRemote (dieOf c.core) (lineOf x.loc)).homeBad x.loc 128 = false → exec (.drainLineArrival c.uid) s =
        .next ((((s1.l1Give c.core x.loc).dropRemote (dieOf c.core) (lineOf x.loc)).addLine x.loc (c.fmt == .f64) vals).mapCmd c.uid
          (fun c => { c with next := c.next + 1 }))))) ∧
  (∀ (u : UnitSt) c t i j, (c.next = 0 → u.accOf c t i j = u.tile t i j) ∧
    (c.next ≠ 0 → u.accOf c t i j = Sparse.get 0 c.partials (4096 * t + 64 * i + j))) ∧
  (∀ (u : UnitSt) c m i j k, c.fmt = .f32 → u.mmaAt c m i j k = Sparse.set 0 m (4096 * c.x + 64 * i + j) (w32 (f32.fma 0 false
    ((u.buf 1 c.ab).num i (4 * k) 4) ((u.buf 2 c.bb).num j (4 * k) 4) (u.accOf c c.x i j).toNat))) ∧
  (∀ (u : UnitSt) c m i j k, c.fmt = .f64 → u.mmaAt c m i j k =
    let r := w64 (f64.fma 0 false ((u.buf 1 c.ab).num i (8 * k) 8) ((u.buf 2 c.bb).num j (8 * k) 8)
      (pairOf (u.accOf c c.x i j) (u.accOf c (c.x + 1) i j)).toNat)
    Sparse.set 0 (Sparse.set 0 m (4096 * c.x + 64 * i + j) (loWord r)) (4096 * (c.x + 1) + 64 * i + j) (hiWord r)) ∧
  (∀ (u : UnitSt) c m i j k, c.fmt = .bf16 → u.mmaAt c m i j k = Sparse.set 0 m (4096 * c.x + 64 * i + j) (w32 (f32.fma 0 false
    (f32.ofVal 0 false (bf16.val ((u.buf 1 c.ab).num i (2 * k) 2))) (f32.ofVal 0 false (bf16.val ((u.buf 2 c.bb).num j (2 * k) 2)))
    (u.accOf c c.x i j).toNat))) ∧
  (∀ (u : UnitSt) c m i j k, c.fmt = .f16 → u.mmaAt c m i j k = Sparse.set 0 m (4096 * c.x + 64 * i + j) (w32 (f32.fma 0 false
    (f32.ofVal 0 false (f16.val ((u.buf 1 c.ab).num i (2 * k) 2))) (f32.ofVal 0 false (f16.val ((u.buf 2 c.bb).num j (2 * k) 2)))
    (u.accOf c c.x i j).toNat))) ∧
  (∀ (u : UnitSt) c m i j k, c.fmt = .lns6 → u.mmaAt c m i j k = Sparse.set 0 m (4096 * c.x + 64 * i + j) (w32 (
    let code := fun (b : TileBuf) (r : Nat) => b.num r (32 * (k / 32) + 4 + 4 * (k % 32 / 5)) 4 / 2 ^ (6 * (k % 32 % 5)) % 64
    let scale := fun (b : TileBuf) (r : Nat) => if c.cfg.getLsbD 3 then b.num r (32 * (k / 32)) 4 % 256 else 127
    let ca := code (u.buf 1 c.ab) i
    let cb := code (u.buf 2 c.bb) j
    let ea := scale (u.buf 1 c.ab) i
    let eb := scale (u.buf 2 c.bb) j
    let l := ca % 32 + cb % 32
    let acc := (u.accOf c c.x i j).toNat
    if ea = 255 ∨ eb = 255 ∨ ca = 0x20 ∨ cb = 0x20 then 0x7FC00000
    else if ca % 32 = 0 ∨ cb % 32 = 0 then acc
    else f32.addVal 0 false (f32.val acc) (linVal (decide (32 ≤ ca) != decide (32 ≤ cb)) l ((l / 4 : Nat) - 8 + (ea : Int) + eb - 254)))))

/-- All the parts hold: `TilePipesStartAndRetire`; `TileCommandsProgress`. -/
def Obligations.TilePipesRunTheirCommands : Prop :=
  Claims.TilePipesStartAndRetire ∧
    Claims.TileCommandsProgress

/-- 13 R306, R307: strict merges outside deterministic mode, row by row of the table. A line whose chunk is the next of its merge is added,
and every held or waiting chunk that comes next is added in turn; the record closes after the last. A later chunk is held while the buffer has
room and no earlier line waits for the entry, and waits at its slice otherwise; so does a line of another context or launch. A wrong count
faults with cause 7 and a chunk that came before with cause 8. A waiting line is served as soon as it may enter. -/
def Obligations.StrictMergesApplyInOrder : Prop :=
  (∀ (s : State) h now, h.det = false → s.homeBad h.loc 128 = false →
    let full := s.mergeRoom h.loc = false ∨ (now = true ∧ ∃ x ∈ s.mergeWait, sliceOf x.loc = sliceOf h.loc ∧ s.mayEnter x = true)
    let stays := fun (m : Merge) =>
      (¬full → s.strictLine h now = (s.setMerge { m with held := m.held ++ [h] }, .held)) ∧
      (full → s.strictLine h now = ({ s.setMerge m with mergeWait := s.mergeWait ++ [h] }, .held))
    let added := s.addLine h.loc h.wide h.vals
    let fresh : Merge := { loc := h.loc, slot := h.slot, launch := h.launch, n := h.n, q := 0 }
    (s.merge? h.loc = none → h.k = 0 → h.n = 1 → s.strictLine h now =
      ({ added with merges := added.merges.filter (fun m => m.loc != h.loc) }, .applied)) ∧
    (s.merge? h.loc = none → h.k = 0 → 1 < h.n → s.strictLine h now =
      ((added.setMerge { fresh with q := 1 }).cascade h.loc false h.n, .applied)) ∧
    (s.merge? h.loc = none → h.k ≠ 0 → stays fresh) ∧
    (∀ m, s.merge? h.loc = some m →
      (m.slot ≠ h.slot ∨ m.launch ≠ h.launch → s.strictLine h now = ({ s with mergeWait := s.mergeWait ++ [h] }, .held)) ∧
      (m.slot = h.slot → m.launch = h.launch →
        let came := h.k < m.q ∨ ∃ x ∈ m.held ++ s.mergeWait, x.loc = h.loc ∧ x.slot = h.slot ∧ x.launch = h.launch ∧ x.k = h.k
        (m.n ≠ h.n → s.strictLine h now = (s, .fault 7)) ∧
        (m.n = h.n → came → s.strictLine h now = (s, .fault 8)) ∧
        (m.n = h.n → ¬came →
          (h.k = m.q → s.strictLine h now = ((added.setMerge { m with q := m.q + 1 }).cascade h.loc false (h.n + 1), .applied)) ∧
          (m.q < h.k → stays m))))) ∧
  (∀ (s : State) loc det fuel m, s.merge? loc = some m →
    let mine := fun (h : HeldLine) => h.loc == loc && h.slot == m.slot && h.launch == m.launch && h.n == m.n && h.k == m.q
    (m.n ≤ m.q → s.cascade loc det (fuel + 1) = s.closeMerge loc m.slot m.launch det) ∧
    (m.q < m.n → (m.held ++ s.mergeWait).find? mine = none → s.cascade loc det (fuel + 1) = s) ∧
    (∀ h, m.q < m.n → (m.held ++ s.mergeWait).find? mine = some h →
      let t := (s.addLine loc h.wide h.vals).setMerge { m with q := m.q + 1, held := m.held.filter (fun x => x != h) }
      s.cascade loc det (fuel + 1) =
        (({ t with mergeWait := t.mergeWait.filter (fun x => x != h) } : State).lineApplied h.cmd h.line).cascade loc det fuel)) ∧
  ∀ (s : State) h, s.mergeWait = [h] → s.mayEnter h = true →
    exec (.mergeBufferEntryGrant (sliceOf h.loc)) s = .next ((({ s with mergeWait := [] } : State).strictLine h false).1.strictEnd h h.va
      (({ s with mergeWait := [] } : State).strictLine h false).2)

/-- 14 R317, R327: a request of a peer is accepted by the slot whose tag and export window hold it, and then performed by an operation of
that slot; one that no slot accepts is refused with cause 1; one already answered is answered again where the response is held, and one in
progress is left alone. That a request below its source's LOW is discarded is the model's reading (assumption 104). The layout of operands in
a packet is assumptions 24 and 25. -/
def Sys2Proof.Claims.PeerRequestsAreAcceptedOrRefused : Prop :=
  (∀ (c : Slot) (p : Packet), p.typ = 2 → (c.accepts p = true ↔ c.ctagV = true ∧ c.ctag = p.ctag ∧ c.expV = true ∧ c.expWe = true ∧
    c.expBase * 2 ^ 21 ≤ p.addr ∧ p.addr + (p.len + 1) ≤ (c.expBase + c.expSize) * 2 ^ 21)) ∧
  ∀ (s : State) (p : Packet), p.dst = s.dev → 1 ≤ p.typ → p.typ ≤ 9 →
    let q := s.pruneResponses p
    (∀ r, q.responses.find? (fun r => r.dst == p.src && r.txn == p.txn) = some r →
      exec (.peerRequestReceive p) s = .next (q.inject r)) ∧
    (q.responses.find? (fun r => r.dst == p.src && r.txn == p.txn) = none →
      let progress := (∃ o ∈ s.ops, ∃ r, o.origin = some r ∧ r.src = p.src ∧ r.txn = p.txn) ∨
        ∃ g ∈ q.gathering, g.1.src = p.src ∧ g.1.txn = p.txn
      (q.late p = true ∨ progress → exec (.peerRequestReceive p) s = .next q) ∧
      (q.late p = false → ¬progress → ¬(p.typ = 8 ∧ p.op = 4) → ¬(p.typ = 9 ∧ p.op = 12) →
        ((∀ n < 16, (s.slot n).accepts p = false) → exec (.peerRequestReceive p) s = .next (q.respond p 0x12 1 [])) ∧
        (∀ n, s.acceptor p = some n → p.typ = 2 → ∃ s' o, exec (.peerRequestReceive p) s = .next s' ∧ s'.ops = s.ops ++ [o] ∧
          o.origin = some p ∧ o.slot = n ∧ o.tid = 0 ∧ s'.mem = s.mem ∧
          o.kind = .store (pktAccess p (p.len + 1) 0 4096) (p.data.take (p.len + 1)) none)))

/-- 14 R317, R318, R327, R328: a response ends its request: an acknowledgement completes a store, a refusal ends the context with the
cause in OP; a request unanswered for 3 ms is sent again, and after the third send fails with cause 3. The layout of operands in a packet
is assumptions 24 and 25, the times in cycles assumption 74. -/
def Sys2Proof.Claims.PeerResponsesEndRequests : Prop :=
  (∀ (s : State) (p : Packet) r, p.dst = s.dev → s.reqs.find? (fun r => r.pkt.dst == p.src && r.pkt.txn == p.txn && r.sends != 0) = some r →
    (p.typ = 0x12 → exec (.peerResponseReceive p) s = .next (s.failRequest r (BitVec.ofNat 32 p.op))) ∧
    (∀ o a bs rel, p.typ = 0x11 → s.op? r.op = some o → o.kind = .store a bs rel →
      exec (.peerResponseReceive p) s =
        .next ((({ s with reqs := s.reqs.filter (fun q => q != r) } : State).spoilFills r).arrive o.id id).pumpReqs)) ∧
  ∀ (s : State) op r, s.reqs.find? (fun r => r.op == op && r.sends != 0 && s.peerView r.pkt.dst == 0 && decide (1800000 ≤ r.waited)) = some r →
    (r.sends < 3 → exec (.requestResendTimeout op) s = .next (s.sendReq r)) ∧
    (3 ≤ r.sends → r.erasure = false → exec (.requestResendTimeout op) s = .next (s.failRequest r 3))

/-- All the parts hold: `PeerRequestsAreAcceptedOrRefused`; `PeerResponsesEndRequests`. -/
def Obligations.PeerRequestsAndResponses : Prop :=
  Claims.PeerRequestsAreAcceptedOrRefused ∧
    Claims.PeerResponsesEndRequests

/-- 14 R320, R324, R325, R335: flits and allowances. A flit with a bad check code or a header of no type retrains an UP link, one that it
already holds is dropped, a good header begins its packet, a payload flit extends it, and the last one delivers it; acknowledged flits leave
the replay buffer; a returned count is taken only where it lies between FREED and SENT; a resync beat carries the identity and the counts, which
a link that comes from a dark interval takes as SENT and FREED, and with buffers that are not empty such a link retrains, which RTC does not
count. Which numbers count as held is assumption 113; that a link which was DOWN resyncs its pools too is assumption 102. -/
def Sys2Proof.Claims.FlitsAndAllowances : Prop :=
  ∀ (s : State) (n : Nat), n < 47 →
    let retrained := fun (l : Link) => { l with state := .training, rtc := Nat.min 511 (l.rtc + 1), since := s.now }
    (∀ f, ((s.link n).state ≠ .up → exec (.flitReceive n f) s = .next s) ∧
      ((s.link n).state = .up → flitGood f = false → exec (.flitReceive n f) s = .next (s.mapLink n retrained)) ∧
      ((s.link n).state = .up → flitGood f = true → (s.link n).holds f.seq = true → exec (.flitReceive n f) s = .next s) ∧
      ((s.link n).state = .up → flitGood f = true → (s.link n).holds f.seq = false →
        let taken := fun (l : Link) => { l with rxSeq := (f.seq + 1) % 4096 }
        let q := pktOfHeader f.bits
        ((s.link n).partialPkt = none →
          (typeListed q.typ = false ∨ q.rsvd ≠ 0 → exec (.flitReceive n f) s = .next (s.mapLink n retrained)) ∧
          (typeListed q.typ = true → q.rsvd = 0 → pktPayload q ≠ 0 → exec (.flitReceive n f) s =
            .next ((s.mapLink n taken).mapLink n (fun l => { l with partialPkt := some ({ q with data := [] }, pktPayload q) }))) ∧
          (typeListed q.typ = true → q.rsvd = 0 → pktPayload q = 0 → exec (.flitReceive n f) s =
            .next ((s.mapLink n taken).takePacket n { q with
              data := if holdsOperands q.typ then q.data else if carriesData q.typ then q.data.take (q.len + 1) else [] }))) ∧
        (∀ p left, (s.link n).partialPkt = some (p, left) →
          (64 < left → exec (.flitReceive n f) s = .next (s.mapLink n (fun l => { taken l with
            partialPkt := some ({ p with data := p.data ++ (flitBytes f.bits).take 64 }, left - 64) }))) ∧
          (left ≤ 64 → exec (.flitReceive n f) s = .next ((s.mapLink n (fun l => { taken l with partialPkt := none })).takePacket n
            { p with data := p.data ++ (flitBytes f.bits).take left }))))) ∧
    (∀ seq, seq < 4096 → ((s.link n).holds seq = true ↔ ∃ k < 2048, (seq + k + 1) % 4096 = (s.link n).rxSeq % 4096)) ∧
    (∀ seq, ((s.link n).replay.any (fun p => p.1 == seq) = true → exec (.flitAcknowledgement n seq) s =
        .next ((s.mapLink n (fun l => { l with replay := (l.replay.dropWhile (fun p => p.1 != seq)).drop 1 })).drainLink n).pumpTransit) ∧
      ((s.link n).replay.any (fun p => p.1 == seq) = false → exec (.flitAcknowledgement n seq) s = .next s)) ∧
    (∀ pool cum, (pool < 12 → exec (.allowanceReturn n pool cum true) s =
        .next (s.mapLink n (fun l => { l with
          pools := Sparse.set {} l.pools pool (if (cum - (l.pool pool).freed).toNat ≤ ((l.pool pool).sent - (l.pool pool).freed).toNat
            then { l.pool pool with freed := cum } else l.pool pool) })).pumpTransit) ∧
      exec (.allowanceReturn n pool cum false) s = .next s) ∧
    ((s.link n).state ≠ .up → exec (.resyncBeatSend n) s = .next s) ∧
    ((s.link n).state = .up → exec (.resyncBeatSend n) s = .next { s with sentBeats := s.sentBeats ++
      [{ dev := s.dev, link := n, cums := (List.range 12).map (fun i => ((s.link n).pool i).cum) }] }) ∧
    ∀ dev plink cums, ((s.link n).state ≠ .up → exec (.resyncBeatReceive n dev plink cums) s = .next s) ∧
      ((s.link n).state = .up → exec (.resyncBeatReceive n dev plink cums) s =
        .next (s.mapLink n (fun l =>
          let q := { l with peer := dev, plink := plink, resyncDue := false, pools := (List.range 12).foldl (fun ps i =>
            match cums[i]? with
            | none => ps
            | some c => Sparse.set {} ps i (if l.resyncDue then { Sparse.get {} ps i with sent := c, freed := c }
                else (Sparse.get {} ps i).give c)) l.pools }
          if l.resyncDue ∧ s.occupied n = true then { q with state := .training, since := s.now } else q)).pumpTransit)

/-- 14 R315, R323, R325, R326: training and routing. An UP link retrains and counts it; a training link locks to a far end that it can have,
and replays what was not acknowledged, or after 2 ms is DOWN and loses its replay buffer; once a second the DOWN links whose far end answers
start training, and at bring-up all; a packet without allowance for 256 fabric cycles goes to the escape channel; the routing table is
replaced. The events of a link are assumption 45, its times in cycles assumption 74, its sequence numbers and the resync of its pools after a
failed training assumption 102. -/
def Sys2Proof.Claims.LinksTrainAndRoute : Prop :=
  ∀ (s : State),
    (∀ n, n < 47 → (s.link n).state = .up → exec (.linkRetrain n) s = .next (s.mapLink n (fun l => { l with
      state := .training, rtc := Nat.min 511 (l.rtc + 1), since := s.now })).pumpFabric) ∧
    (∀ n peer plink, n < 47 → (s.link n).state = .training →
      (s.farEnd n peer plink = false → exec (.linkLock n peer plink) s = .next s) ∧
      (s.farEnd n peer plink = true →
        let t := (s.mapLink n (fun l => { l with state := .up, peer := peer, plink := plink })).sendFrom n 0
        exec (.linkLock n peer plink) s = .next (if (s.link n).resyncDue then t.sendBeat n else t).echoDue.pumpFabric)) ∧
    (∀ n peer plink, n < 31 → (s.farEnd n peer plink = true ↔ peer / 32 = s.dev / 32 ∧
      (n < s.dev % 32 → peer % 32 = n ∧ plink = s.dev % 32 - 1) ∧ (s.dev % 32 ≤ n → peer % 32 = n + 1 ∧ plink = s.dev % 32))) ∧
    (∀ n, n < 47 → (s.link n).state = .training →
      (s.now < (s.link n).since + 1200000 → exec (.linkTrainingTimeout n) s = .next s) ∧
      ((s.link n).since + 1200000 ≤ s.now → exec (.linkTrainingTimeout n) s = .next (s.mapLink n (fun l => { l with
        state := .down, replay := [], partialPkt := none, txSeq := 0, rxSeq := 0, waymarks := [], echoes := [], echoed := [],
        resyncDue := l.resyncDue || !l.pools.isEmpty })).pumpFabric)) ∧
    (∀ c, s.trainedAt = some c → s.now < c + 600000000 → exec .linkTrainingRetry s = .next s) ∧
    ((∀ c, s.trainedAt = some c → c + 600000000 ≤ s.now) → ∃ s', exec .linkTrainingRetry s = .next s' ∧ s'.trainedAt = some s.now ∧
      ∀ n, n < 47 →
        s'.link n = if (s.link n).state = .down ∧ (s.trainedAt = none ∨ Config.farEndAnswers n s.now = true)
          then { s.link n with state := .training, since := s.now } else s.link n) ∧
    (∀ txn, (∀ w ∈ s.transit, w.pkt.txn = txn → w.pkt.vc < 4 → s.now < w.since + 128) → exec (.escapeTimeout txn) s = .next s) ∧
    (∀ txn w, s.transit.find? (fun w => w.pkt.txn == txn && decide (w.pkt.vc < 4) && decide (w.since + 128 ≤ s.now)) = some w →
      exec (.escapeTimeout txn) s = .next ({ s with transit := s.transit.map (fun x =>
        if x = w then { x with pkt := { x.pkt with vc := if x.pkt.gh then 5 else 4 } } else x) } : State).pumpTransit) ∧
    (∀ rs, s.reconf = [] → exec (.routingTableRewrite rs) s = .next ({ s with routes := rs.map (fun r => { r with
      nonMinimal := r.nonMinimal.take 4
      escape := r.escape.filter (fun n => (s.link n).state == .up || (s.link n).state == .training) }) } : State).pumpFabric)

/-- 14 R326, R334, R335: a reconfiguration names global links; a link that is UP or TRAINING sends a waymark on each pool; a waymark is
echoed once no packet waits in the buffers of its pool; a link is DARK when its waymarks have echoed, those of the far end have been echoed and
what it sent has been acknowledged, with SENT and FREED equal; when the switches have settled the links that are connected again start
training, and the dark interval of their peers ends; the rewrite of the tables ends the part of a link that trains no longer. That a link which
is DOWN or DARK goes DARK at once is assumption 114, that its numbers begin anew assumption 102, where a waymark names its pool assumption
24. -/
def Sys2Proof.Claims.ReconfigurationDrainsLinks : Prop :=
  ∀ (s : State),
    let dark := fun (l : Link) => { l with
      state := .dark, replay := [], partialPkt := none, txSeq := 0, rxSeq := 0, waymarks := [], echoes := [], echoed := [],
      pools := l.pools.map (fun (p : Nat × Pool) => (p.1, { p.2 with freed := p.2.sent })) }
    (∀ n connect, 31 ≤ n → n < 47 → (s.link n).state = .down ∨ (s.link n).state = .dark → exec (.opticalReconfiguration [n] connect) s =
      .next (({ s with reconf := insertNat s.reconf n } : State).mapLink n (fun l => dark { l with
        reconf := true, settled := false, connect := connect.contains n }))) ∧
    (∀ n connect, 31 ≤ n → n < 47 → (s.link n).state = .up ∨ (s.link n).state = .training →
      ∃ s' ps, exec (.opticalReconfiguration [n] connect) s = .next s' ∧
        s'.reconf = insertNat s.reconf n ∧ (s'.link n).state = (s.link n).state ∧ (s'.link n).waymarks = List.range 12 ∧
        s'.sentPackets = s.sentPackets ++ ps ∧
        ps.map (fun p => p.op) = List.range 12 ∧ ∀ p ∈ ps, p.typ = 0x20 ∧ p.dst = (s.link n).peer) ∧
    (∀ n pool, n < 47 → (s.link n).state = .up → (∀ x ∈ s.links, x.2.echoes = []) → (∀ k, (s.link k).drained = false) →
      (s.transit.any (fun w => w.source == some (n, pool)) = false → ∃ s' p, exec (.waymark n pool) s = .next s' ∧
        (s'.link n).echoed = insertNat (s.link n).echoed pool ∧
        s'.sentPackets = s.sentPackets ++ [p] ∧ p.typ = 0x21 ∧ p.op = pool ∧ p.dst = (s.link n).peer) ∧
      (s.transit.any (fun w => w.source == some (n, pool)) = true →
        exec (.waymark n pool) s = .next (s.mapLink n (fun l => { l with echoes := l.echoes ++ [pool] })))) ∧
    (∀ n pool, n < 47 → (s.link n).state ≠ .up → exec (.waymark n pool) s = .next s) ∧
    (∀ n pool, n < 47 → (s.link n).state = .up → (s.link n).reconf = true → (s.link n).settled = false → (s.link n).waymarks = [pool] →
      ((∀ k < 12, k ∈ (s.link n).echoed) → (s.link n).replay = [] →
        ∃ s', exec (.waymarkEcho n pool) s = .next s' ∧ (s'.link n).state = .dark ∧ (s'.link n).replay = [] ∧
          ∀ x ∈ (s'.link n).pools, x.2.freed = x.2.sent) ∧
      ((∃ k < 12, k ∉ (s.link n).echoed) ∨ (s.link n).replay ≠ [] →
        exec (.waymarkEcho n pool) s = .next (s.mapLink n (fun l => { l with waymarks := [] })))) ∧
    (∃ s', exec .switchSettled s = .next s' ∧
      (∀ r ∈ s.routes, (∃ k ∈ routeLinks r, k < 47 ∧ (s.link k).waitsSwitch = true) → Sparse.get 0 s'.darkEnds r.dev = s.now + 1) ∧
      ∀ n, n < 47 →
        s'.link n = if (s.link n).reconf = true ∧ ((s.link n).state = .dark ∨ (s.link n).state = .down) then
            (if (s.link n).connect = true then { s.link n with settled := true, resyncDue := true, state := .training, since := s.now }
             else { dark (s.link n) with settled := true })
          else s.link n) ∧
    ∀ n rs, s.reconf = [n] → (s.link n).settled = true → (s.link n).state ≠ .training →
      let t := ({ s with reconf := [] } : State).mapLink n (fun l => { l with reconf := false, settled := false })
      exec (.routingTableRewrite rs) s = .next ({ t with routes := rs.map t.writtenRow } : State).pumpFabric

/-- All the parts hold: `FlitsAndAllowances`; `LinksTrainAndRoute`; `ReconfigurationDrainsLinks`. -/
def Obligations.LinksCarryFlitsAndTrain : Prop :=
  Claims.FlitsAndAllowances ∧
    Claims.LinksTrainAndRoute ∧
    Claims.ReconfigurationDrainsLinks

/-- 15 R340, R342, R343, R345, R354: `lch` and `lcnt` are put in flight; `lcancel` cancels what the handle names and goes on; `lwaitc`
goes on where its count is reached, after an acquire, and waits at the word after otherwise; a foreign handle releases it at once; `pmreq`
asks for the pre-emption of every resident unit of a live object and completes at once for anything else. Where a thread whose `lwaitc`
waited acquires is assumption 55, the mark that `pmreq` leaves assumption 56. -/
def Obligations.LaunchInstructions : Prop :=
  ∀ (d a b : Reg) (q : BitVec 7),
    Launches (.lch d a) (fun _ => pairRegs d ++ pairRegs a) (fun _ => [(.int64, a)]) .ld
      (fun _ s t kind ds => ds = pairRegs d ∧ t.full .ld = false ∧
        ∃ acc, (s.globalAccess t (t.pair a) 128 0 none (needLoad false)).2 = .ok acc ∧ kind = .lch acc) ∧
    Launches (.lcnt d a q) (fun _ => (if q = 0 then pairRegs d else [d]) ++ [a]) (fun _ => [(.int, a)]) .ld
      (fun _ s t kind ds => ds = (if q = 0 then pairRegs d else [d]) ∧ t.full .ld = false ∧
        (t.modeD = true → ∀ h, s.named t (s.operand t .int a) = some h → (s.slot (s.slotOf t)).within (s.handleOf t) h = false) ∧
        kind = .lcnt (s.named t (s.operand t .int a)) q.toNat) ∧
    Acts (.lcancel a) (fun _ => [a]) (fun _ => [(.int, a)]) (fun _ _ _ => True)
      (fun _ s t => match s.named t (s.operand t .int a) with
        | some h => s.cancel (s.slotOf t) h
        | none => s) ∧
    (∀ s st t, Alone s st t → st.more → OperandsReady s t (a :: pairRegs b) [(.int, a), (.int64, b)] →
      let p := s.atWord st
      (p.named t (p.operand t .int a) = none → exec (.lwaitc a b) s = .next (p.goesOn st)) ∧
      ∀ h o, p.named t (p.operand t .int a) = some h → p.obj? (p.slotOf t) h = some o →
        let q := p.mapThread t.tid (fun t => { t with owes := some 11 })
        let waits := fun (w : Wait) => (q.endStrand st).enterAt t.tid (st.pc + 4) (q.landing t.tid (st.pc + 4) st.blk) w
        (o.ended = true ∨ (t.pair b).toNat ≤ o.done → p.holds t .loads = true →
          exec (.lwaitc a b) s = .next (((p.acquireDiscard t.core 3).codeIn (p.slotOf t) t.core 11).goesOn st)) ∧
        (o.ended = true ∨ (t.pair b).toNat ≤ o.done → p.holds t .loads = false → exec (.lwaitc a b) s = .next (waits .loads)) ∧
        (o.ended = false → o.done < (t.pair b).toNat → exec (.lwaitc a b) s = .next (waits (.object h (t.pair b).toNat)))) ∧
    (∀ h o, Acts (.pmreq a b) (fun _ => [a, b]) (fun _ => [(.int, a), (.int, b)])
      (fun _ s t => t.level ≠ .user ∧ t.full .st = false ∧ s.named t (s.operand t .int a) = some h ∧ s.obj? (s.slotOf t) h = some o ∧
        o.ended = false)
      (fun c s t => (s.addOp (s.newOp c t .st (.pmreq (s.unitsIn (s.slotOf t) h)))).askPre (s.slotOf t) h (s.operand t .int b).toNat)) ∧
    Acts (.pmreq a b) (fun _ => [a, b]) (fun _ => [(.int, a), (.int, b)])
      (fun c s t => t.level ≠ .user ∧ t.full .st = false ∧
        (∀ h o, s.named t (s.operand t .int a) = some h → s.obj? (s.slotOf t) h = some o → o.ended = true) ∧
        (((s.addOp (s.newOp c t .st (.pmreq []))).arrive s.nextId id).thread? t.tid).isSome = true)
      (fun c s t => (s.addOp (s.newOp c t .st (.pmreq []))).arrive s.nextId id)

/-- 15 R340, R346, R347, 01 R24, R34: the unit that is placed next takes its rows and resources on its core, its threads stand at ENTRY
with no register written, and the rest of the queue waits on. 15 R344: a unit all of whose threads have exited, with no operation in
flight and no tile command unretired, ends: it leaves its core and its launch counts it. That a deterministic unit holds back no other
entry of the queue is assumption 54. -/
def Obligations.UnitsArePlacedAndEnd : Prop :=
  (∀ (s : State) slot o u core row0 queue, slot < 16 → (s.slot slot).ended = false → s.pwr = .run → s.clehild.pending = none →
    s.nextPlace slot [] (s.slot slot).queue = some (o, u, core, row0, queue) → (∀ x ∈ s.units, x.uid ≠ s.nextId) →
    (∀ t ∈ s.threads, t.tid < s.nextId) →
    ∃ s' x, exec (.placeUnit slot) s = .next s' ∧ s'.units = s.units ++ [x] ∧ x.uid = s.nextId ∧ x.slot = slot ∧ x.launch = o.handle ∧
      x.index = u ∧ x.core = core ∧ x.row0 = row0 ∧ x.rows = o.rows ∧ x.nthreads = o.threads ∧ x.gw = o.gw ∧ x.scrLen = o.scr ∧
      x.cluLen = o.clu ∧ x.lpLen = o.window ∧ x.placedAt = s.coreClock core ∧ (s'.slot slot).queue = queue ∧
      ∀ i, i < o.threads → ∃ t ∈ s'.threads, t.unit = x.uid ∧ t.index = i ∧ t.slot = 64 * row0 + i ∧ t.core = core ∧ t.pc = o.item 0 ∧
        t.regs = [] ∧ t.budget = o.budget ∧ t.level = o.level ∧ t.ld = 0 ∧ t.st = 0 ∧ t.cp = 0 ∧ t.tl = 0 ∧ t.depth = 0) ∧
  ∀ (s : State) u o, s.unit? u.uid = some u → s.unitDone u = true → s.obj? u.slot u.launch = some o → o.ended = false →
    o.done + 1 < o.total →
    ∃ s' o', exec (.unitEnd u.uid) s = .next s' ∧ s'.units = s.units.filter (fun x => x.uid != u.uid) ∧
      (∀ t ∈ s'.threads, t.unit ≠ u.uid) ∧ s'.obj? u.slot u.launch = some o' ∧ o'.done = o.done + 1 ∧ o'.state = o.state

/-- 15 R351, R354: the way of a pre-emption, from the costs of the allowed ways and the bound; a unit that waits for its own pre-emption is not
drained. -/
def Sys2Proof.Claims.CheapestWayWithinTheBound : Prop :=
  ∀ (o : Obj) (used bound : Nat),
    let expect := (o.item 16).toNat
    let drain := if used < expect then expect - used else 2 ^ 48 - 1
    let save := (o.liveBytes + 127) / 128
    (o.opt 27 1 ≠ 1 → bound = 0 → chooseWay o used bound false = if drain ≤ save then .drain else .save) ∧
    (o.opt 27 1 = 1 → bound = 0 → chooseWay o used bound false =
      if drain ≤ save ∧ drain ≤ used then .drain else if save ≤ used then .save else .flush) ∧
    (drain ≤ bound → bound < save → (o.opt 27 1 = 1 → bound < used) → chooseWay o used bound false = .drain) ∧
    (bound < drain → save ≤ bound → (o.opt 27 1 = 1 → bound < used) → chooseWay o used bound false = .save) ∧
    (bound < drain → bound < save → o.opt 27 1 = 1 → used ≤ bound → chooseWay o used bound false = .flush) ∧
    (o.opt 27 1 ≠ 1 → chooseWay o used bound true = .save) ∧
    (o.opt 27 1 = 1 → bound = 0 → chooseWay o used bound true = if save ≤ used then .save else .flush)

/-- 15 R351 to R354: a pre-emption serves the oldest request or, with the bound of the event, a launch that cannot be placed; a drain lets the unit run on and places no more units of its launch on the
core; a save stops the unit, stores it when nothing of it is in progress and frees its resources; a flush removes it and queues it again;
a restore places a saved unit on a core that can hold it. The marks that carry a bound are assumption 56, the release at a save and the acquire
at a restore assumption 117. -/
def Sys2Proof.Claims.UnitsArePreemptedAndRestored : Prop :=
  (∀ (s : State) u e, s.unit? u.uid = some u → u.pre = none → u.wants = [] → s.starving = false → exec (.preemptUnit u.uid e) s = .next s) ∧
  (∀ (s : State) u e b o, s.unit? u.uid = some u → u.pre = none →
    (u.wants.head? = some b ∨ (u.wants = [] ∧ s.starving = true ∧ b = e)) → s.obj? u.slot u.launch = some o →
    let way := chooseWay o (u.usedBefore + (s.coreClock u.core - u.placedAt)) b (s.ownPmreq u)
    (way = .drain → exec (.preemptUnit u.uid e) s = .next ((s.mapUnit u.uid (fun u => { u with pre := some .drain, wants := [] })).mapObj
      u.slot u.launch (fun o => { o with draining := o.draining ++ [u.core] }))) ∧
    (way = .save → exec (.preemptUnit u.uid e) s = .next (s.mapUnit u.uid (fun u => { u with
      pre := some .save, stopped := true, wants := [] }))) ∧
    (way = .flush → ∃ s', exec (.preemptUnit u.uid e) s = .next s' ∧ s'.units = s.units.filter (fun x => x.uid != u.uid) ∧
      (s'.slot u.slot).queue = (s.slot u.slot).queue ++ [(u.launch, u.index, u.index + 1)] ∧ s'.mem = s.mem)) ∧
  (∀ (s : State) u, s.unit? u.uid = some u → u.pre = some .save → u.saveOp = none → s.mayStore u = true →
    ∃ s' v, exec (.saveUnitComplete u.uid) s = .next s' ∧ s'.saved = s.saved ++ [v] ∧ v.unit.uid = u.uid ∧ v.unit.index = u.index ∧
      v.unit.usedBefore = u.usedBefore + (s.coreClock u.core - u.placedAt) ∧ v.unit.barriers = u.barriers ∧ v.unit.creels = u.creels ∧
      v.unit.tiles = u.tiles ∧ v.threads = s.threads.filter (fun t => t.unit == u.uid) ∧
      (∀ i, i < u.scrLen → Memory.wf (s.core u.core).scratch = true →
        Memory.read v.scratch i = Memory.read (s.core u.core).scratch (u.scrOff + i)) ∧
      s'.units = s.units.filter (fun x => x.uid != u.uid) ∧ ∀ t ∈ s'.threads, t.unit ≠ u.uid) ∧
  ∀ (s : State) v o core row0, s.saved.find? (fun x => x.id == v.id) = some v → s.obj? v.unit.slot v.unit.launch = some o →
    v.image = none → v.loadOp = none → s.pwr = .run → s.clehild.pending = none → s.restorePlace v o = some (core, row0) →
    exec (.restoreUnit v.id) s = .next (s.placeSaved v o core row0)

/-- All the parts hold: `CheapestWayWithinTheBound`; `UnitsArePreemptedAndRestored`. -/
def Obligations.PreemptionChoosesAndActs : Prop :=
  Claims.CheapestWayWithinTheBound ∧
    Claims.UnitsArePreemptedAndRestored

/-- 16 R367, R368: `ctxsave` of a unit that it may save stops the unit for the save and counts on st; of any other it gives 0. `ctxload`
of an image takes the unit that its header and its records hold, or another copy of it, up for placement; where the digest, the context id, the
size or the core disagrees, or the launch has ended, it gives 0. The checks of the address come first. What the undocumented bytes of an image
stand for (`savedFor`, `fromHead`) is the model's choice, assumption 59, and the order of its checks assumption 60. -/
def Obligations.ImagesAreSavedAndLoaded : Prop :=
  ∀ (d a b : Reg),
    let named := fun (_ : Hints) => [d] ++ pairRegs a ++ [b]
    let reads := fun (_ : Hints) => [(Cls.int64, a), (.int, b)]
    let good := fun (t : Thread) => t.level ≠ .user ∧ t.full .st = false ∧ canonical (t.pair a) = true ∧ (t.pair a).toNat % 4096 = 0
    let opOf := fun (c : Ctx) (s : State) (t : Thread) (k : OpKind) => ({ s.newOp c t .st k with dsts := [d], tag := .int } : Op)
    (∀ u, Acts (.ctxsave d a b) named reads (fun _ s t => good t ∧ s.savable t (s.operand t .int b) = some u)
      (fun c s t => (s.addOp (opOf c s t (.saveUnit (t.pair a) u.uid))).mapUnit u.uid (fun u => { u with
        pre := some .save, stopped := true, saveOp := some s.nextId }))) ∧
    Acts (.ctxsave d a b) named reads
      (fun c s t => good t ∧ s.savable t (s.operand t .int b) = none ∧
        (((s.addOp (opOf c s t (.saveUnit (t.pair a) 0))).arrive s.nextId (fun p => { p with data := [0] })).thread? t.tid).isSome = true)
      (fun c s t => (s.addOp (opOf c s t (.saveUnit (t.pair a) 0))).arrive s.nextId (fun p => { p with data := [0] })) ∧
    Acts (.ctxload d a b) named reads
      (fun c s t => good t ∧ s.awaits s.nextId = false ∧
        (((s.addOp (opOf c s t (.loadUnit (t.pair a) (s.operand t .int b)))).loadFrom s.nextId (t.pair a) (s.operand t .int b)).thread?
          t.tid).isSome = true)
      (fun c s t => (s.addOp (opOf c s t (.loadUnit (t.pair a) (s.operand t .int b)))).loadFrom s.nextId (t.pair a) (s.operand t .int b)) ∧
    (∀ i ∈ [Instr.ctxsave d a b, .ctxload d a b],
      Raises i named reads (fun _ _ t => t.level ≠ .user ∧ t.full .st = false ∧ canonical (t.pair a) = false)
        (fun _ _ t => { code := 0x0507, addr := t.pair a }) ∧
      Raises i named reads (fun _ _ t => t.level ≠ .user ∧ t.full .st = false ∧ canonical (t.pair a) = true ∧ (t.pair a).toNat % 4096 ≠ 0)
        (fun _ _ t => { code := 0x0505, addr := t.pair a })) ∧
    (∀ (o : Obj) (v : Saved) cid num free, (imageBytes o v cid num free).take 16 =
      leBytes 4 (imageLen o) ++ leBytes 4 cid ++ leBytes 4 v.unit.launch.toNat ++ leBytes 4 v.unit.index ∧
      ((imageBytes o v cid num free).drop 16).take 32 = digestBytes (sha256 ((imageBytes o v cid num free).drop 48))) ∧
    ∀ (s : State) id addr core s1 o l s2 p, s.imageRead id addr 4096 20 = (s1, .done) → s1.op? id = some o →
      let head := o.imageSoFar.take 4096
      s1.obj? o.slot (headLaunch head) = some l → s1.imageRead id addr (imageLen l) (imageLen l / 256 + 20) = (s2, .done) →
      s2.op? id = some p →
      let img := p.imageSoFar.take (imageLen l)
      let v := s2.savedFor o.slot l head
      let good := l.ended = false ∧ leNat (head.take 4) = imageLen l ∧ leNat ((head.drop 4).take 4) = (s2.slot o.slot).cid ∧
        (head.drop 16).take 32 = digestBytes (sha256 (img.drop 48)) ∧ coreNamed core l v = true
      let want := fun (x : Saved) => { x.fromImage l img with
        loadOp := some id, onCore := if core = 0xFFFFFFFF then none else some core.toNat }
      let q := s2.mapOp id (fun p => { p with served := true, data := [] })
      let w := s2.fromHead v l img
      (¬good → s.loadFrom id addr core = s2.arrive id (fun p => { p with data := [0] })) ∧
      (good → s.loadFrom id addr core =
        if q.saved.any (fun x => x.waitsFor w) = true
        then { q with saved := q.saved.map (fun x => if x.waitsFor w = true then want { w with cmds := x.cmds } else x) }
        else { q with saved := q.saved ++ [q.waitLines (want (w.renamed q.nextId))], nextId := 2 * q.nextId + l.threads + 2 })

/-- 16 R371, R373, R379: the messages of the host are delivered in the order of their numbers, each once. A message that is the next is
performed; one that came before is acknowledged again; one past a gap waits; one of another epoch is not performed; a header with a
reserved bit, or a TYPE that the state of the module does not serve, is refused. The payloads of replies, and that a message of another
epoch is acknowledged, are the model's (assumptions 64 and 65). -/
def Obligations.HostMessagesAreDeliveredInOrder : Prop :=
  ∀ (i : Instr) (h : MsgHead) (typ : Nat) (m : HostMsg), HostEvent i h typ m → ∀ s,
    (InOrder s h typ → ((s.passed h).actOn m).clehild.waiting = [] → exec i s = .next ((s.passed h).actOn m)) ∧
    (h.epoch = s.clehild.epoch → h.seq = s.clehild.nextIn → s.clehild.nextIn < 2 ^ 32 → s.clehild.waiting = [] →
      (h.rsvd ≠ 0 ∨ h.typ ≠ typ ∨ (typ = 0x20 ∧ h.hyp = false) ∨ s.serves typ = false) → exec i s = .next ((s.passed h).reply h.vf [1])) ∧
    (h.epoch = s.clehild.epoch → 2 ^ 31 ≤ seqGap s.clehild.nextIn h.seq → exec i s = .next (s.reply h.vf [])) ∧
    (h.epoch = s.clehild.epoch → 0 < seqGap s.clehild.nextIn h.seq → seqGap s.clehild.nextIn h.seq < 2 ^ 31 → s.clehild.waiting.length < 4096 →
      (∀ w ∈ s.clehild.waiting, w.head.1.seq ≠ h.seq) →
      exec i s = .next { s with clehild := { s.clehild with waiting := s.clehild.waiting ++ [m] } }) ∧
    (h.epoch ≠ s.clehild.epoch → exec i s = .next (s.reply h.vf []))

/-- 16 R372, R380 to R382; 15 R341, R342, R345, R351: what each message of the host does once it is its turn. The payloads of replies, the
refusals of a close, the layout of a state request and of a quote, and the move to Open with an accepted image are the model's
(assumptions 65 to 68 and 73). So are what a checkpoint streams and a restore takes (assumption 69), the mark that a preempt message leaves
(assumption 56), and that a created object reads as running (assumption 121). -/
def Obligations.HostMessagesHaveTheirEffects : Prop :=
  ∀ (h : MsgHead),
    (∀ (level parent x : Word),
      Delivers (.createObject h level parent) h 0x10
        (fun s => (s.slot h.vf).ended = false ∧ 1 ≤ level.toNat ∧ level.toNat ≤ 3 ∧ s.newHandle h.vf level.toNat = some x ∧
          (level ≠ 3 → ∃ p, s.obj? h.vf parent = some p ∧ handleLevel parent = level.toNat + 1 ∧ p.ended = false ∧ p.closed = false))
        (fun s => (s.addObj h.vf { handle := x, parent := if level = 3 then 0 else parent }).reply h.vf [0, x])) ∧
    (∀ obj, Delivers (.closeObject h obj) h 0x11 (fun s => (s.obj? h.vf obj).isSome = true ∧ handleLevel obj ≠ 0)
      (fun s => ((s.mapObj h.vf obj (fun o => { o with closed := true })).checkEnd h.vf obj 3).reply h.vf [0])) ∧
    (∀ ws x q, Delivers (.launchMessage h ws) h 0x12 (fun s => (s.slot h.vf).ended = false ∧ s.launchFrom h ws = (q, x, 0) ∧ q.pwr ≠ .idle ∧
      q.clehild.waiting = []) (fun _ => q.reply h.vf [0, x, 0])) ∧
    (∀ ws x q n, Delivers (.launchMessage h ws) h 0x12 (fun s => (s.slot h.vf).ended = false ∧ s.launchFrom h ws = (q, x, n) ∧ 0 < n ∧
      q.clehild.waiting = []) (fun _ => q.reply h.vf [0, x, BitVec.ofNat 32 n])) ∧
    (∀ obj, Delivers (.cancelMessage h obj) h 0x13 (fun s => (s.cancel h.vf obj).clehild.waiting = [])
      (fun s => (s.cancel h.vf obj).reply h.vf [0])) ∧
    (∀ obj bound o, Delivers (.preemptMessage h obj bound) h 0x14 (fun s => s.obj? h.vf obj = some o ∧ o.ended = false)
      (fun s => ({ s with units := s.units.map (fun u => if u.slot = h.vf ∧ (s.slot h.vf).within u.launch obj then { u with
        wants := u.wants ++ [bound.toNat] } else u) } : State).reply h.vf [0])) ∧
    (∀ obj o, Delivers (.countReadMessage h obj) h 0x15 (fun s => s.obj? h.vf obj = some o)
      (fun s => s.reply h.vf [0, BitVec.ofNat 32 o.done, BitVec.ofNat 32 (o.done / 2 ^ 32), o.status])) ∧
    (∀ (n : Reg) sel v, n.toNat < 18 →
      Delivers (.systemRegisterMessage h false n sel v) h 0x20 (fun _ => True) (fun s => s.reply h.vf [0, s.sysRead n.toNat sel]) ∧
      Delivers (.systemRegisterMessage h true n sel v) h 0x20 (fun s => (s.sysWrite n.toNat sel v).clehild.waiting = [])
        (fun s => (s.sysWrite n.toNat sel v).reply h.vf [0])) ∧
    (∀ (want : Word) sec dbg, wantSec want = some sec → wantDbg want = some dbg →
      Delivers (.stateRequest h want) h 0x21
        (fun s => s.pwr ≠ .off ∧ wantPwr want = s.pwr ∧ s.sec = .boot ∧ sec = .opened ∧ dbg = s.dbg ∧ s.clehild.measurement.isSome = true)
        (fun s => ({ s with sec := .opened } : State).reply h.vf [0]) ∧
      Delivers (.stateRequest h want) h 0x21
        (fun s => s.pwr ≠ .off ∧ wantPwr want = s.pwr ∧ s.sec = .opened ∧ sec = .tenant ∧ dbg = s.dbg ∧ s.dbg ≠ .halt ∧ s.clehild.quoted = true)
        (fun s => ({ s with sec := .tenant } : State).reply h.vf [0]) ∧
      Delivers (.stateRequest h want) h 0x21
        (fun s => s.pwr ≠ .off ∧ wantPwr want = s.pwr ∧ s.sec = .opened ∧ sec = .tenant ∧ dbg = s.dbg ∧ (s.dbg = .halt ∨ s.clehild.quoted = false))
        (fun s => s.reply h.vf [1]) ∧
      Delivers (.stateRequest h want) h 0x21
        (fun s => s.pwr ≠ .off ∧ wantPwr want = s.pwr ∧ s.sec = .opened ∧ sec = .opened ∧ dbg ≠ s.dbg)
        (fun s => ({ s with dbg := dbg } : State).reply h.vf [0]) ∧
      Delivers (.stateRequest h want) h 0x21
        (fun s => s.pwr ≠ .off ∧ wantPwr want = s.pwr ∧ s.sec = .tenant ∧ sec = .tenant ∧ s.dbg ≠ .halt ∧ dbg = .halt)
        (fun s => s.reply h.vf [1])) ∧
    (∀ nonce slot, nonce.length = 32 → slot < 16 →
      Delivers (.attestationRequest h nonce slot) h 0x22 (fun s => s.sec = .opened)
        (fun s => ({ s with clehild := { s.clehild with quoted := true } } : State).send 0x22 h.vf (s.quote slot nonce))) ∧
    (∀ image v key r q,
      Delivers (.firmwareImage h image v key r q) h 0x23 (fun s => s.sec = .boot)
        (fun s =>
          if sha256 key = Config.fusedKeyDigest ∧ ecdsaVerify (Config.keyPoint key).1 (Config.keyPoint key).2 (sha256 image) r q = true ∧
              Config.fusedMinVersion ≤ v then
            ({ s with sec := .opened, clehild := { s.clehild with measurement := some (sha256 image) } } : State).reply h.vf [0]
          else s.reply h.vf [2])) ∧
    (∀ tier, Delivers (.checkpoint h false tier) h 0x24 (fun s => s.clehild.pending = none)
      (fun s => ({ s with clehild := { s.clehild with pending := some { pwr := none, slot := h.vf, tier := tier.1 } } } : State).saveUnits)) ∧
    (∀ tier, Delivers (.checkpoint h true tier) h 0x24 (fun s => s.units = [])
      (fun s => ({ s with
        mem := tier.2.foldl (fun m (p : Nat × Byte) => if p.1 < 2 ^ 40 then Memory.write m p.1 p.2 else m)
          (s.mem.filter (fun (p : Nat × Byte) => 2 ^ 40 ≤ p.1))
        codes := s.codes.filter (fun p => 2 ^ 35 ≤ p.1)
        cores := s.cores.map (fun (p : Nat × Core) => (p.1, { p.2 with l1 := [] }))
        dies := s.dies.map (fun (p : Nat × Die) => (p.1, { p.2 with remote := [] }))
        homeDirty := [] } : State).reply h.vf [0])) ∧
    (∀ q ws, Delivers (.debugRequest h q) h 0x30
      (fun s => s.dbg ≠ .off ∧ s.sec = .opened ∧ s.pwr ≠ .retention ∧ s.debugRead q = some ws) (fun s => s.send 0x30 h.vf ws)) ∧
    (∀ q, Delivers (.debugRequest h q) h 0x30 (fun s => s.dbg = .off ∨ (s.sec = .tenant ∧ s.pwr ≠ .retention ∧ q ≠ .counts)) (fun s => s.reply h.vf [1]))

/-- 16 R373, R376, R377, R392: queries and acknowledgements of the channel, resends, a restart of Clehild; a module reset; grants
of 2,200 W in all, and GATE, one step in an interval of 4 µs; corrected and uncorrectable errors. The reply to a query is assumption 65, what a
reset drops assumption 71, the times in cycles assumption 74, 150 W without a grant assumption 75, the entry that is discarded assumption 76, the
domain that a reset finds assumption 103, that a grant beyond 2,200 W does nothing and the free step of GATE assumption 105, the place of an error
of data that nothing has consumed, and the code that it leaves, assumption 111. -/
def Sys2Proof.Claims.ChannelResetAndErrorEvents : Prop :=
  ∀ (s : State),
    (∀ h, InOrder s h 0x01 → exec (.hostQuery h) s =
      .next ((s.passed h).send 0x02 h.vf [BitVec.ofNat 32 s.clehild.nextIn])) ∧
    (∀ h d, InOrder s h 0x02 → exec (.queryReply h d) s = .next ((s.passed h).takeAck d.toNat).resend) ∧
    (∀ h, InOrder s h 0x03 → exec (.acknowledgement h) s = .next (s.passed h)) ∧
    (∀ m, s.clehild.log = [m] → m.sentAt + 600000 ≤ s.now → exec .messageResendTimeout s = .next { s with
      outbox := s.outbox ++ [{ m with sentAt := s.now }], clehild := { s.clehild with log := [{ m with sentAt := s.now }] } }) ∧
    exec .clehildRestart s = .next (s.send 0x01 0 []) ∧
    (∃ s', exec .moduleReset s = .next s' ∧ s'.threads = [] ∧ s'.units = [] ∧ s'.strands = [] ∧ s'.ops = [] ∧ s'.cmds = [] ∧ s'.slots = [] ∧
      s'.cores = [] ∧ s'.walks = [] ∧ s'.links = [] ∧ s'.sec = .boot ∧ s'.dbg = .off ∧ s'.pwr = .run ∧
      s'.dev < 513 * 32 ∧ 1 ≤ s'.groups ∧ s'.groups ≤ 513 ∧ s'.clehild.epoch = (s.clehild.epoch + 1) % 2 ^ 32 ∧ s'.clehild.nextSeq = 0 ∧ s'.clehild.nextIn = 0 ∧ s'.clehild.log = [] ∧
      ∀ n, n < 8 → (s'.die n).hpBase = n * 65536 + 61440 ∧ (s'.die n).hpSize = 4096 ∧ (s'.die n).ce = 0 ∧ s'.cyc n = 0) ∧
    (∀ die grant above, die < 8 →
      let now := s.clock die
      let others := ((List.range 8).filter (fun d => d != die)).foldl (fun n d => n + (s.die d).grant) 0
      (22000 < grant + others → exec (.powerGrant die grant above) s = .next s) ∧
      (grant + others ≤ 22000 → now < (s.die die).gateAt + 2400 →
        exec (.powerGrant die grant above) s = .next (s.mapDie die (fun d => { d with grant := grant, grantAt := now }))) ∧
      (grant + others ≤ 22000 → (s.die die).gateAt + 2400 ≤ now →
        exec (.powerGrant die grant above) s = .next (s.mapDie die (fun d => { d with
          grant := grant, grantAt := now, gate := if above then Nat.min 15 (d.gate + 1) else d.gate - 1, gateAt := now })))) ∧
    (∀ die, die < 8 →
      let now := s.clock die
      (now < (s.die die).gateAt + 2400 → exec (.powerGrantTimeout die) s = .next s) ∧
      ((s.die die).gateAt + 2400 ≤ now → exec (.powerGrantTimeout die) s = .next (s.stir.mapDie die (fun d => { d with
        grant := if d.grantAt + 7200 ≤ now then 1500 else d.grant
        gate := if Config.freeChoice s.fresh then Nat.min 15 (d.gate + 1) else d.gate - 1
        gateAt := now })))) ∧
    (∀ die, die < 8 → exec (.softErrorCorrected die) s =
      .next (s.mapDie die (fun d => { d with ce := if d.ce + 1 < 2 ^ 32 then d.ce + 1 else 2 ^ 32 - 1 }))) ∧
    (∀ core i, core < 320 →
      exec (.uncorrectableStateError core (.l1Tlb i)) s = .next (s.mapCore core (fun c => { c with l1tlb := c.l1tlb.eraseIdx i })) ∧
      exec (.uncorrectableStateError core (.l2Tlb i)) s =
        .next (s.mapDie (dieOf core) (fun d => { d with l2tlb := d.l2tlb.eraseIdx i })) ∧
      exec (.uncorrectableStateError core (.walkCache i)) s =
        .next (s.mapDie (dieOf core) (fun d => { d with pointers := d.pointers.eraseIdx i })) ∧
      exec (.uncorrectableStateError core (.data i)) s = .next (({ s with codes := Sparse.set 0 s.codes (i / 32) (freshError s.fresh) } : State).mapDie
        (dieOf core) (fun d => { d with found := d.found ++ [i] })).stir ∧
      (∀ l, Sparse.find (s.die (dieOf core)).remote (lineOf i) = some l → exec (.uncorrectableStateError core (.remoteData i)) s =
        .next ((s.setRemote (dieOf core) (lineOf i) { l with codes := Sparse.set 0 l.codes (i % 128 / 32) (freshError s.fresh) }).mapDie (dieOf core)
          (fun d => { d with found := d.found ++ [i % Config.placeSpan] })).stir) ∧
      (∀ l, s.l1Line? core i = some l → exec (.uncorrectableStateError core (.l1Data i)) s =
        .next ((s.mapCore core (fun c => { c with
          l1 := Sparse.put c.l1 (lineOf i) { l with codes := Sparse.set 0 l.codes (i % 128 / 32) (freshError s.fresh) } })).mapDie (dieOf core) (fun d => { d with found := d.found ++ [i % Config.placeSpan] })).stir)) ∧
    (∀ core, core < 320 → ∃ s', exec (.uncorrectableStateError core .core) s = .next s' ∧
      ((∀ o ∈ s.ops, o.releases = false) → s'.mem = s.mem) ∧
      ∀ n, n < 16 → (∃ u ∈ s.units, u.core = core ∧ u.slot = n) → (s'.slot n).ended = true)

/-- 00 R9, 14 R315: an event addressed to a core, die or link that the module does not have stops the model, by name. The stop is the
model's choice (assumption 82). -/
def Sys2Proof.Claims.EventsOfAbsentAgentsStop : Prop :=
  ∀ (s : State) (n : Nat),
    (320 ≤ n → exec (.formStrand n 0) s = .fault (.noSuchCore n) ∧ exec (.uncorrectableStateError n .core) s = .fault (.noSuchCore n)) ∧
    (8 ≤ n → exec (.pageWalkStart n) s = .fault (.noSuchDie n) ∧ exec (.softErrorCorrected n) s = .fault (.noSuchDie n)) ∧
    (47 ≤ n → exec (.linkRetrain n) s = .fault (.noSuchLink n) ∧ exec (.resyncBeatSend n) s = .fault (.noSuchLink n))

/-- All the parts hold: `ChannelResetAndErrorEvents`; `EventsOfAbsentAgentsStop`. -/
def Obligations.ChannelResetErrorsAndStops : Prop :=
  Claims.ChannelResetAndErrorEvents ∧
    Claims.EventsOfAbsentAgentsStop

/-- 05 R118, R119: which tags the operand classes of the integer and float chapters accept, which they convert with T set, and the
values that a conversion delivers: of an f32 to int, truncation toward zero with saturation, and 0 for a NaN. -/
def Sys2Proof.Claims.ClassesAcceptAndConvertTags : Prop :=
  ∀ (t : Thread) (r : Reg) (frac : Nat),
    let k := (t.reg r).tag
    let m := (t.reg (r + 1)).tag
    t.operandOk (.any, r) = true ∧
    (t.operandOk (.int, r) = true ↔ k = .raw ∨ k = .int ∨ (t.modeT = true ∧ k = .f32)) ∧
    (t.operandOk (.int64, r) = true ↔ (k = .raw ∨ k = .int ∨ k = .x64) ∧ (m = .raw ∨ m = .int ∨ m = .x64)) ∧
    (t.operandOk (.f32, r) = true ↔ k = .raw ∨ k = .f32 ∨ (t.modeT = true ∧ (k = .int ∨ k = .cq))) ∧
    (k ≠ .f32 → t.rd frac .int r = t.val r) ∧
    (k = .f32 → f32.isNan (t.val r).toNat = true → t.rd frac .int r = 0) ∧
    (k = .f32 → f32.isNan (t.val r).toNat = false → t.rd frac .int r =
      let e := (t.val r).toNat / 2 ^ 23 % 256
      let sig := 2 ^ 23 + (t.val r).toNat % 2 ^ 23
      let n : Nat := if e = 0 then 0 else if 150 ≤ e then sig * 2 ^ (e - 150) else sig / 2 ^ (150 - e)
      BitVec.ofInt 32 (max (-(2 ^ 31)) (min (2 ^ 31 - 1) (if (t.val r).msb then -(n : Int) else (n : Int))))) ∧
    (k ≠ .int → k ≠ .cq → t.rd frac .f32 r = t.val r) ∧
    (k = .int → t.rd frac .f32 r = w32 (f32.roundInt 0 false false (t.val r).toInt 0)) ∧
    (k = .cq → t.rd frac .f32 r = w32 (f32.round 0 false false (t.val r).toNat (-(frac : Int)) false))

/-- 03 R77, 04 R98, 05 R118, 07 R169, 16 R356: the checks before an instruction's own, in their order, as an `add` meets them: a register
beyond the budget (0x0203), a pending register (the thread leaves and will issue the run again), a tag mismatch (0x0301); and a privileged
instruction at User level (0x0B01), whatever its registers. The order d, a, b of the registers is assumption 7. -/
def Sys2Proof.Claims.ChecksComeInOrder : Prop :=
  ∀ (d a b : Reg) (n : BitVec 7) s st t, Alone s st t →
    (t.budget ≤ d.toNat → exec (.add d a b) s = .next (s.faults st t { code := 0x0203, aux := d.setWidth 32 })) ∧
    (d.toNat < t.budget → t.budget ≤ a.toNat → exec (.add d a b) s = .next (s.faults st t { code := 0x0203, aux := a.setWidth 32 })) ∧
    (d.toNat < t.budget → a.toNat < t.budget → t.budget ≤ b.toNat →
      exec (.add d a b) s = .next (s.faults st t { code := 0x0203, aux := b.setWidth 32 })) ∧
    (d.toNat < t.budget → a.toNat < t.budget → b.toNat < t.budget →
      (∀ o, s.ops = [o] → o.tid = t.tid → (d ∈ o.dsts ∨ a ∈ o.dsts ∨ b ∈ o.dsts) →
        exec (.add d a b) s = .next (((s.atWord st).endStrand st).enterAt t.tid st.runPc st.blk (.op o.id))) ∧
      ((∀ o ∈ s.ops, o.tid = t.tid → d ∉ o.dsts ∧ a ∉ o.dsts ∧ b ∉ o.dsts) →
        t.operandOk (.int, a) = false ∨ t.operandOk (.int, b) = false →
        exec (.add d a b) s = .next (s.faults st t { code := 0x0301 }))) ∧
    (t.level = .user →
      ∀ i ∈ [Instr.sysget d a n, .sysset d a n, .tlbinv d a b, .tlbinva a, .unpark d a n, .l2wbRemotePush a, .l2wbHomeWriteback a,
        .ctxsave d a b, .ctxload d a b, .pmreq a b, .fdecl a b, .aopen a b],
        exec i s = .next (s.faults st t { code := 0x0B01 }))

/-- All the parts hold: `ClassesAcceptAndConvertTags`; `ChecksComeInOrder`. -/
def Obligations.OperandChecksComeInOrder : Prop :=
  Claims.ClassesAcceptAndConvertTags ∧
    Claims.ChecksComeInOrder

/-- 03 R78, R79; 04 R111 to R116; 15 R341; 16 R359: taking a fault. An illegal word goes to the emulation block where the launch names one
and the emulation flag is clear; any other fault writes the record and enters the fault handler where the launch names one, the handler
flag is clear and the fault may enter it; otherwise the thread parks, its launch counts the fault and flags it, and the host gets the
record. A fault on completion parks a thread that waits, is held by one that is in a strand, and is held and reported at once by one that is
parked. -/
def Obligations.FaultsParkOrEnterTheirHandlers : Prop :=
  (∀ (s : State) (t : Thread) (f : FaultInfo) (x : Site) (l : Obj), s.threadsNamed → s.thread? t.tid = some t → s.launchOf t = some l →
    let s' := s.takeFault t.tid f x
    let took : Thread → Prop := fun u => u.record = {
      onCompletion := false, code := f.code, pc := x.runPc, addr := f.addr, word := x.word, aux := f.aux, runEnd := x.after } ∧ u.everFaulted = true ∧ u.parkPoint = x.runPc ∧ u.parkBlk = x.blk ∧ u.regs = t.regs ∧
      (f.code = 0x0101 → u.iePc = x.wordPc ∧ u.ieWord = x.word) ∧ u.emul = t.emul
    (f.code = 0x0101 → t.emul = false → l.item 4 ≠ 0 →
      ∃ u, s'.thread? t.tid = some u ∧ u.pc = l.item 4 ∧ u.emul = true ∧ u.iePc = x.wordPc ∧ u.ieWord = x.word ∧ u.record = t.record ∧
        u.regs = t.regs ∧ u.handler = t.handler ∧ s'.outbox = s.outbox ∧ s'.mem = s.mem) ∧
    (f.code ≠ 0x0101 ∨ t.emul = true ∨ l.item 4 = 0 →
      (l.item 2 ≠ 0 → t.handler = false → f.code ≠ 0x0206 → ¬(f.code = 0x0101 ∧ t.emul = true) →
        ∃ u, s'.thread? t.tid = some u ∧ u.pc = l.item 2 ∧ u.handler = true ∧ took u ∧ s'.outbox = s.outbox ∧ s'.mem = s.mem) ∧
      (l.item 2 = 0 ∨ t.handler = true ∨ f.code = 0x0206 ∨ (f.code = 0x0101 ∧ t.emul = true) →
        ∃ u m l', s'.thread? t.tid = some u ∧ u.state = .parked ∧ u.handler = t.handler ∧ took u ∧ s'.outbox = s.outbox ++ [m] ∧
          m.typ = 0x40 ∧ m.payload = u.recordWords ++ [s.handleOf t] ∧ s'.obj? (s.slotOf t) l.handle = some l' ∧
          l'.faults = l.faults + 1 ∧ l'.fault = true ∧ s'.mem = s.mem))) ∧
  (∀ (t : Thread), t.everFaulted = true → t.record.onCompletion = false → t.recordWords =
    [BitVec.ofNat 32 (t.record.code % 65536), loWord t.record.pc, hiWord t.record.pc, loWord t.record.addr, hiWord t.record.addr,
      t.record.word, t.record.aux, BitVec.ofNat 32 (t.core * 2048 + t.slot)]) ∧
  ∀ (s : State) (t : Thread) (f : FaultInfo) (pc : Pair) (w : Word), s.threadsNamed → s.thread? t.tid = some t →
    let r : Record := { onCompletion := true, code := f.code, pc := pc, addr := f.addr, word := w, aux := f.aux, runEnd := pc }
    (t.state = .exited → s.takeLate t.tid f pc w = s) ∧
    (t.state = .issued → s.takeLate t.tid f pc w = s.setThread { t with held := t.held ++ [r] }) ∧
    (t.state = .parked → ∃ u m, (s.takeLate t.tid f pc w).thread? t.tid = some u ∧ u = { t with held := t.held ++ [{ r with counted := true }] } ∧
      (s.takeLate t.tid f pc w).outbox = s.outbox ++ [m] ∧ m.typ = 0x40) ∧
    (∀ c, t.state = .blocked c ∨ (∃ n, t.state = .ready n) ∨ t.state = .queued c → t.held = [] → s.handlerOf t f = none →
      ∃ u, (s.takeLate t.tid f pc w).thread? t.tid = some u ∧ u.state = .parked ∧ u.record = r ∧ u.parkPoint = t.pc)

/-- 01 R32, 08 R193, 09 R195, 10 R233, 12 R278, 14 R316, R325, 15 R349, R350, 16 R364, R376 to R378, R392: what the state after reset
holds: each system register and each register of a link at the Reset value of its table, no thread and no unit, and the module's own state. A
module reset leaves the system registers as they are in that state. -/
def Obligations.ResetLeavesTheStatedValues : Prop :=
  let r := State.reset
  (∀ slot unit, r.sysValue 0 slot unit = 256 ∧ r.sysValue 1 slot unit = 0 ∧ r.sysValue 2 slot unit = 0 ∧ r.sysValue 3 slot unit = 65535 ∧
    r.sysValue 4 slot unit = 6 ∧ r.sysValue 5 slot unit = 0 ∧ r.sysValue 6 slot unit = 0 ∧ r.sysValue 7 slot unit = 0 ∧ r.sysValue 8 slot unit = 16 * 2 ^ 16 ∧ r.sysValue 11 slot unit = 0 ∧
    r.sysValue 12 slot unit = 0 ∧ r.sysValue 13 slot unit = 16 * 2 ^ 23 + 3 * 2 ^ 17 + 16 * 2 ^ 8 + 8 ∧
    r.sysValue 14 slot unit = 2 ^ 320 - 1 ∧ r.sysValue 15 slot unit = 0) ∧
  (∀ e, e < 8 → r.sysValue 9 0 e = (e * 65536 + 61440) * 2 ^ 21 ∧ r.sysValue 10 0 e = 4096 ∧ r.sysValue 16 0 e = 0 ∧
    r.sysValue 17 0 e = 2750 ∧ r.cyc e = 0) ∧
  (∀ n, (r.link n).state = .down ∧ (r.link n).rtc = 0) ∧
  r.threads = [] ∧ r.units = [] ∧ r.sec = .boot ∧ r.dbg = .off ∧ r.pwr = .run ∧ (∀ n, (r.slot n).objs = [] ∧ (r.slot n).fields = []) ∧
  r.clehild.nextSeq = 0 ∧ r.clehild.nextIn = 0 ∧
  ∀ s, ∃ s', exec .moduleReset s = .next s' ∧ ∀ n slot unit, s'.sysValue n slot unit = r.sysValue n slot unit

/-- The canonical form of memory holds after reset. It is the model's own form for memory; the manual gives memory no contents after a
reset, and assumption 1 chooses what an unlisted byte reads as. -/
def Obligations.MemoryIsCanonicalAtReset : Prop := Memory.wf State.reset.mem = true ∧ ∀ a, Memory.read State.reset.mem a = 0

/-- Every step keeps memory in its canonical form: places strictly rising, no byte listed that reads as an unlisted one does. -/
def Obligations.MemoryStaysCanonical : Prop :=
  ∀ s s' : State, Memory.wf s.mem = true → Machine.step s = .next s' → Memory.wf s'.mem = true

/-- 03 R62, R75 and the encoding tables: words of branches, calls, waits, barriers, hints, immediates, integers, lanes, floats, conversions, loads,
stores, fences, atomics, copies, creels, fields, append-seal, tile, fabric, launch and system instructions, bit for bit, decode to the
instructions that their tables give for them; major
0x3E is a block head, and an illegal major, an odd pair and a nonzero zero field are no instruction (03 R63, R66, R76). -/
def Obligations.WordsDecodeToTheirInstructions : Prop :=
  decode false 0x08000005 = .ok (.br 5) ∧ decode false 0x081AFFFE = .ok (.brNz 3 0xFFFE) ∧ decode false 0x0C000010 = .ok (.call 16) ∧
  decode false 0x10008001 = .ok (.callx 8) ∧ decode false 0x14000FFF = .ok (.wait 0 15 15 15) ∧
  decode false 0x18002003 = .ok (.bar 2 3) ∧ decode false 0x04123456 = .ok (.hk 0x123456) ∧ decode false 0x05000289 = .ok (.hx 5 9) ∧
  decode false 0x06000043 = .ok (.hs 4 3) ∧ decode false 0x0700011A = .ok (.hq 1 1 1 2) ∧ decode false 0x20280007 = .ok (.movi 5 7) ∧
  decode false 0x40103FFF = .ok (.addi 2 3 0xFFF) ∧ decode false 0x5008281F = .ok (.shiSha 1 2 31) ∧
  decode false 0x54205403 = .ok (.cmpiLtI 4 5 3) ∧ decode false 0x30202060 = .ok (.add 4 2 3) ∧
  decode false 0x2C1840A1 = .ok (.shfl 3 4 5) ∧ decode false 0x2C307008 = .ok (.gredAdd 6 7) ∧
  decode false 0x60409140 = .ok (.fadd 8 9 10) ∧ decode false 0x64206100 = .ok (.dadd 4 6 8) ∧
  decode false 0x68082062 = .ok (.hfma 1 2 3) ∧ decode false 0x6C286002 = .ok (.cvtI32F32 5 6) ∧
  decode false 0x80184102 = .ok (.ld 3 4 0 4 2) ∧ decode false 0x84185481 = .ok (.st 3 5 2 2 1) ∧
  decode false 0x88404300 = .ok (.ldq 8 4 1 0) ∧ decode false 0x98104100 = .ok (.strel 2 4 0 4 0) ∧
  decode false 0xA0000033 = .ok (.fenceAr 3) ∧ decode false 0xA42860E0 = .ok (.atomAdd 5 6 7) ∧
  decode false 0xAC2860E0 = .ok (.cas 5 6 7) ∧ decode false 0xB440A080 = .ok (.cpy 8 10 4) ∧
  decode false 0x281840A1 = .ok (.sel 3 4 5) ∧ decode false 0x10000226 = .ok (.trap 17) ∧ decode false 0x28086046 = .ok (.tagchk 1 6 2) ∧
  decode false 0x70302081 = .ok (.dqnt 6 2 4) ∧ decode false 0xB8403047 = .ok (.craddr 8 3 2) ∧ decode false 0xC0202061 = .ok (.xfer 4 2 3) ∧
  decode false 0xC438A102 = .ok (.appq 7 10 8) ∧ decode false 0xC8C1A0A2 = .ok (.tldb 24 26 5) ∧ decode false 0xCC40A082 = .ok (.nred 8 10 4) ∧
  decode false 0xE4302022 = .ok (.lcnt 6 2 1) ∧ decode false 0xE0383004 = .ok (.sysset 7 3 0) ∧ decode false 0xE020A049 = .ok (.ctxload 4 10 2) ∧
  decode false 0xF8000000 = .error .blockHead ∧ decode false 0x00000000 = .error .major ∧ decode false 0xFC000000 = .error .major ∧
  decode false 0x10007000 = .error .operand ∧ decode false 0x10006020 = .error .field

/-- 03 R62, R75: every instruction that the encoding admits is read back from its word, with every operand at every value; and every well-formed
instruction that a strand issues has a word, but for `l2wbHomeWriteback`: the table's second row of `l2wb`, whose word is that of the first. -/
def Obligations.EncodingRoundTrip : Prop :=
  (∀ (i : Instr) (w : Word), i.wf = true → encode i = some w → decode i.isGather w = .ok i) ∧
  ∀ i : Instr, i.wf = true → issuedByStrand i = true → (∀ a, i ≠ .l2wbHomeWriteback a) → (encode i).isSome = true

/-- 03 R62, R63, R75, R76: a word that decodes is the word of its instruction, whose operands are legal: no bit of it is passed over, and no
two words stand for one instruction. -/
def Obligations.DecodingIsExact : Prop :=
  ∀ (hx : Bool) (w : Word) (i : Instr), decode hx w = .ok i → i.wf = true ∧ encode i = some w

/-- 03 R66, R68, R76; 04 R93; 01 R32: a turn of a strand runs the instruction that its next word decodes to, in the state in which the turn's
cycle has passed, where the strand may issue now; a word that decodes to none runs as the illegal word that it is; a turn of an event runs
the event. A cycle passes only when each core has done what it owes in the one that ends (04 R88, R89, R102), and then counts on every die
with a clock edge; a thread whose wait is over in it becomes ready. What follows a word at once is `finishOut`. The agenda of turns is the model's (assumption 2), and so is
the cycle in which a thread at AGE exactly F is owed a strand (assumption 124). -/
def Obligations.StepRunsTheDecodedWord : Prop :=
  ∀ (s : State) (t : Turn) (rest : List Turn), s.agenda = t :: rest →
    let b := s.begin t
    (t.tick = false ∨ s.due = none →
      (∀ sid st, t.who = .strand sid → s.strand? sid = some st →
        (b.mayIssue st = true →
          let n := b.noteTurn (.strand sid)
          (∀ i, decode st.hints.hx.isSome st.word = .ok i → Machine.step s = finishOut (exec i n)) ∧
          (decode st.hints.hx.isSome st.word = .error .blockHead → Machine.step s = finishOut (exec .headWordInBody n)) ∧
          (∀ e, decode st.hints.hx.isSome st.word = .error e → e ≠ .blockHead → Machine.step s = finishOut (exec .illegalEncoding n))) ∧
        (b.mayIssue st = false → Machine.step s = .next b.finish)) ∧
      (∀ e, t.who = .event e → Machine.step s = finishOut (exec e b))) ∧
    (∀ e, t.tick = true → s.due = some e → Machine.step s = finishOut (exec e { s with issuing := 0 })) ∧
    (∀ sid, t.tick = false → t.who = .strand sid → b = { s with agenda := rest, issuing := sid }) ∧
    (∀ e, t.tick = false → t.who = .event e → b = { s with agenda := rest, issuing := 0 }) ∧
    (t.tick = true → b.now = s.now + 1 ∧ b.agenda = rest ∧ b.strands = s.strands ∧ b.mem = s.mem ∧
      b.threads = s.threads.map ({ b with threads := s.threads } : State).wakeOne ∧
      ∀ d, d < 8 → b.clock d = if (s.pwr = .run ∨ s.pwr = .idle) ∧ d ∉ t.still then s.clock d + 1 else s.clock d)
end

