-- ==== Sys2Proof/Laws/Memory.lean ====
section
/-!
SUPPORT. Sparse maps and memory: a read after a write, and that every operation on memory keeps the canonical form.
-/
namespace Sys2Proof.Machine

variable {α : Type}

/-! ### Reading after writing -/

theorem Sparse.find_put (m : Sparse α) (k j : Nat) (v : α) :
    Sparse.find (Sparse.put m k v) j = if k = j then some v else Sparse.find m j := by
  induction m with
  | nil => simp [Sparse.put, Sparse.find]
  | cons p r ih =>
    obtain ⟨i, w⟩ := p
    simp only [Sparse.put]
    split
    · simp [Sparse.find]
    · split
      · next h => subst h; simp only [Sparse.find]; split <;> rfl
      · next h1 h2 =>
        simp only [Sparse.find, ih]
        by_cases hk : k = j
        · subst hk; simp [Ne.symm h2]
        · simp [hk]

theorem Sparse.wfFrom_mono [DecidableEq α] {d : α} {m : Sparse α} {a b : Nat} (h : Sparse.wfFrom d (some b) m) (hab : a ≤ b) :
    Sparse.wfFrom d (some a) m := by
  cases m with
  | nil => rfl
  | cons p r =>
    simp only [Sparse.wfFrom, Bool.and_eq_true, decide_eq_true_eq] at h ⊢
    exact ⟨⟨by omega, h.1.2⟩, h.2⟩

theorem Sparse.wfFrom_none [DecidableEq α] {d : α} {m : Sparse α} {a : Nat} (h : Sparse.wfFrom d (some a) m) :
    Sparse.wfFrom d none m := by
  cases m with
  | nil => rfl
  | cons p r =>
    simp only [Sparse.wfFrom, Bool.and_eq_true, decide_eq_true_eq] at h ⊢
    exact ⟨⟨trivial, h.1.2⟩, h.2⟩

theorem Sparse.find_erase (m : Sparse α) (k j : Nat) :
    Sparse.find (Sparse.erase m k) j = if k = j then none else Sparse.find m j := by
  induction m with
  | nil => simp [Sparse.erase, Sparse.find]
  | cons p r ih =>
    obtain ⟨i, w⟩ := p
    simp only [Sparse.erase]
    by_cases hik : i = k
    · subst hik
      rw [if_pos rfl, ih]
      by_cases hj : i = j <;> simp [Sparse.find, hj]
    · rw [if_neg hik]
      simp only [Sparse.find, ih]
      by_cases hj : i = j
      · subst hj; simp [Ne.symm hik]
      · simp [hj]

/-- What a map reads as after a write. -/
theorem Sparse.get_set [DecidableEq α] (d : α) (m : Sparse α) (k j : Nat) (v : α) :
    Sparse.get d (Sparse.set d m k v) j = if k = j then v else Sparse.get d m j := by
  unfold Sparse.get Sparse.set
  by_cases hv : v = d
  · rw [if_pos hv, Sparse.find_erase]
    by_cases hk : k = j <;> simp [hk, hv]
  · rw [if_neg hv, Sparse.find_put]
    by_cases hk : k = j <;> simp [hk]

@[simp] theorem Sparse.get_set_self [DecidableEq α] (d : α) (m : Sparse α) (k : Nat) (v : α) :
    Sparse.get d (Sparse.set d m k v) k = v := by rw [Sparse.get_set, if_pos rfl]

/-! ### The cores, dies and slots after a change of one -/

theorem State.core_mapCore (s : State) (n m : Nat) (f : Core → Core) :
    (s.mapCore n f).core m = if n = m then f (s.core n) else s.core m := Sparse.get_set _ _ _ _ _

theorem State.die_mapDie (s : State) (n m : Nat) (f : Die → Die) :
    (s.mapDie n f).die m = if n = m then f (s.die n) else s.die m := Sparse.get_set _ _ _ _ _

theorem State.slot_mapSlot (s : State) (n m : Nat) (f : Slot → Slot) :
    (s.mapSlot n f).slot m = if n = m then f (s.slot n) else s.slot m := Sparse.get_set _ _ _ _ _

/-! ### The canonical form is kept -/

theorem Sparse.wfFrom_put [DecidableEq α] {d : α} {lo : Option Nat} {m : Sparse α} (h : Sparse.wfFrom d lo m) {k : Nat} {v : α}
    (hv : v ≠ d) (hlo : ∀ l, lo = some l → l < k) : Sparse.wfFrom d lo (Sparse.put m k v) := by
  induction m generalizing lo with
  | nil =>
    simp only [Sparse.put, Sparse.wfFrom, Bool.and_eq_true, decide_eq_true_eq]
    refine ⟨⟨?_, hv⟩, trivial⟩
    cases lo with
    | none => rfl
    | some l => simpa using hlo l rfl
  | cons p r ih =>
    obtain ⟨i, w⟩ := p
    simp only [Sparse.wfFrom, Bool.and_eq_true] at h
    obtain ⟨⟨h1, h2⟩, h3⟩ := h
    simp only [Sparse.put]
    split
    · next hlt =>
      simp only [Sparse.wfFrom, Bool.and_eq_true, decide_eq_true_eq]
      refine ⟨⟨?_, hv⟩, ⟨hlt, by simpa using h2⟩, h3⟩
      cases lo with
      | none => rfl
      | some l => simpa using hlo l rfl
    · split
      · next heq => subst heq; simp only [Sparse.wfFrom, Bool.and_eq_true]; exact ⟨⟨h1, by simpa using hv⟩, h3⟩
      · simp only [Sparse.wfFrom, Bool.and_eq_true]
        exact ⟨⟨h1, h2⟩, ih h3 (by rintro l ⟨⟩; omega)⟩

theorem Sparse.wfFrom_erase [DecidableEq α] {d : α} {lo : Option Nat} {m : Sparse α} (h : Sparse.wfFrom d lo m) (k : Nat) :
    Sparse.wfFrom d lo (Sparse.erase m k) := by
  induction m generalizing lo with
  | nil => exact h
  | cons p r ih =>
    obtain ⟨i, w⟩ := p
    have h' := h
    simp only [Sparse.wfFrom, Bool.and_eq_true] at h
    simp only [Sparse.erase]
    split
    · apply ih
      cases lo with
      | none => exact Sparse.wfFrom_none h.2
      | some l => exact Sparse.wfFrom_mono h.2 (by have := h.1.1; simp at this; omega)
    · simp only [Sparse.wfFrom, Bool.and_eq_true]
      exact ⟨h.1, ih h.2⟩

theorem Sparse.wf_set [DecidableEq α] {d : α} {m : Sparse α} (h : Sparse.wf d m) (k : Nat) (v : α) :
    Sparse.wf d (Sparse.set d m k v) := by
  unfold Sparse.set
  by_cases hv : v = d
  · rw [if_pos hv]; exact Sparse.wfFrom_erase h k
  · rw [if_neg hv]; exact Sparse.wfFrom_put h hv (by simp)

theorem Sparse.wfFrom_filter [DecidableEq α] {d : α} {lo : Option Nat} {m : Sparse α} (h : Sparse.wfFrom d lo m)
    (p : Nat × α → Bool) : Sparse.wfFrom d lo (m.filter p) := by
  induction m generalizing lo with
  | nil => exact h
  | cons q r ih =>
    obtain ⟨i, w⟩ := q
    have h' := h
    simp only [Sparse.wfFrom, Bool.and_eq_true] at h
    rw [List.filter_cons]
    split
    · simp only [Sparse.wfFrom, Bool.and_eq_true]
      exact ⟨h.1, ih h.2⟩
    · apply ih
      cases lo with
      | none => exact Sparse.wfFrom_none h.2
      | some l => exact Sparse.wfFrom_mono h.2 (by have := h.1.1; simp at this; omega)

theorem Sparse.wf_clear [DecidableEq α] {d : α} {m : Sparse α} (h : Sparse.wf d m) (lo n : Nat) :
    Sparse.wf d (Sparse.clear m lo n) := Sparse.wfFrom_filter h _

/-! ### Memory -/

theorem Memory.wf_nil : Memory.wf [] := rfl

theorem Memory.wf_write {m : List Host.Cell} (h : Memory.wf m) (a : Nat) (b : Byte) : Memory.wf (Memory.write m a b) :=
  Sparse.wf_set h a b

theorem Memory.wf_writeBytes {m : List Host.Cell} (h : Memory.wf m) (a : Nat) (bs : List Byte) :
    Memory.wf (Memory.writeBytes m a bs) := by
  induction bs generalizing m a with
  | nil => exact h
  | cons b r ih => exact ih (Memory.wf_write h a b) (a + 1)

/-- A byte read after one byte is written. -/
theorem Memory.read_write (m : List Host.Cell) (a j : Nat) (b : Byte) :
    Memory.read (Memory.write m a b) j = if a = j then b else Memory.read m j := Sparse.get_set _ m a j b

/-- A byte read after a run of bytes is written. -/
theorem Memory.read_writeBytes (m : List Host.Cell) (a : Nat) (bs : List Byte) (j : Nat) :
    Memory.read (Memory.writeBytes m a bs) j = if a ≤ j ∧ j < a + bs.length then bs.getD (j - a) 0 else Memory.read m j := by
  induction bs generalizing m a with
  | nil => simp only [Memory.writeBytes, List.length_nil]; rw [if_neg (by omega)]
  | cons b r ih =>
    simp only [Memory.writeBytes, ih (Memory.write m a b) (a + 1), Memory.read_write]
    by_cases h1 : a = j
    · subst h1; simp
    · by_cases h2 : a + 1 ≤ j ∧ j < a + 1 + r.length
      · rw [if_pos h2, if_pos (by simp; omega)]
        obtain ⟨k, rfl⟩ : ∃ k, j = a + 1 + k := ⟨j - (a + 1), by omega⟩
        rw [show a + 1 + k - (a + 1) = k by omega, show a + 1 + k - a = k + 1 by omega, List.getD_cons_succ]
      · rw [if_neg h2, if_neg h1, if_neg (by simp; omega)]

theorem Memory.length_readBytes (m : List Host.Cell) (a n : Nat) : (Memory.readBytes m a n).length = n := by
  induction n generalizing a with
  | zero => rfl
  | succ n ih => simp [Memory.readBytes, ih]

/-- Reading back the bytes just written. -/
theorem Memory.readBytes_writeBytes (m : List Host.Cell) (a : Nat) (bs : List Byte) :
    Memory.readBytes (Memory.writeBytes m a bs) a bs.length = bs := by
  have key : ∀ n k, k + n = bs.length → Memory.readBytes (Memory.writeBytes m a bs) (a + k) n = bs.drop k := by
    intro n
    induction n with
    | zero => intro k hk; rw [List.drop_of_length_le (by omega)]; rfl
    | succ n ih =>
      intro k hk
      have h1 : bs.drop k = bs[k]'(by omega) :: bs.drop (k + 1) := List.drop_eq_getElem_cons (by omega)
      rw [Memory.readBytes, Memory.read_writeBytes, if_pos (by omega), Nat.add_assoc a k 1, ih (k + 1) (by omega),
        show a + k - a = k by omega, h1, List.getD_eq_getElem _ _ (by omega)]
  simpa using key bs.length 0 (by omega)

theorem leBytes_length (n x : Nat) : (leBytes n x).length = n := by
  induction n generalizing x with
  | zero => rfl
  | succ n ih => simp [leBytes, ih]

theorem leNat_leBytes (n x : Nat) : leNat (leBytes n x) = x % 256 ^ n := by
  induction n generalizing x with
  | zero => simp [leBytes, leNat, Nat.mod_one]
  | succ n ih =>
    have h1 : (BitVec.ofNat 8 x).toNat = x % 256 := BitVec.toNat_ofNat x 8
    rw [leBytes, leNat, ih, h1, Nat.pow_succ, Nat.mul_comm (256 ^ n) 256, Nat.mod_mul]

/-! ### Operations of the state that write memory keep the canonical form -/

@[simp] theorem State.noteBad_mem (s : State) (pa : Nat) : (s.noteBad pa).mem = s.mem := rfl

@[simp] theorem State.mergeCode_mem (s : State) (loc n half : Nat) : (State.mergeCode loc n s half).mem = s.mem := by
  unfold State.mergeCode; split
  · rfl
  · simp only; split <;> rfl

theorem State.mergeCodes_mem (loc n : Nat) (l : List Nat) (s : State) : (l.foldl (State.mergeCode loc n) s).mem = s.mem := by
  induction l generalizing s with
  | nil => rfl
  | cons i r ih => exact (ih _).trans (State.mergeCode_mem s loc n i)

/-- What a write at the home leaves in memory: its check codes change no byte. -/
@[simp] theorem State.homeWrite_mem (s : State) (loc : Nat) (bs : List Byte) :
    (s.homeWrite loc bs).mem = Memory.writeBytes s.mem loc bs :=
  congrArg (fun m => Memory.writeBytes m loc bs) (State.mergeCodes_mem loc bs.length _ s)

/-- A check code is good exactly where it is no distance from the code of its bytes (16 R375). -/
theorem State.codeGood_iff (s : State) (half : Nat) : s.codeGood half = true ↔ Sparse.get 0 s.codes half = 0 := by
  unfold State.codeGood State.codeAt
  rw [beq_iff_eq]
  constructor
  · intro h
    have : crc16 (s.homeRead (32 * half) 32) ^^^ (crc16 (s.homeRead (32 * half) 32) ^^^ Sparse.get 0 s.codes half) =
        crc16 (s.homeRead (32 * half) 32) ^^^ crc16 (s.homeRead (32 * half) 32) := by rw [h]
    rwa [← BitVec.xor_assoc, BitVec.xor_self, BitVec.zero_xor] at this
  · intro h; rw [h]; exact BitVec.xor_zero

theorem State.homeWrite_wf {s : State} (h : Memory.wf s.mem) (loc : Nat) (bs : List Byte) : Memory.wf (s.homeWrite loc bs).mem := by
  rw [State.homeWrite_mem]; exact Memory.wf_writeBytes h loc bs

theorem State.homeWrites_wf (f : Nat → Nat) (g : Nat → List Byte) (l : List Nat) {s : State} (h : Memory.wf s.mem) :
    Memory.wf (l.foldl (fun s i => s.homeWrite (f i) (g i)) s).mem := by
  induction l generalizing s with
  | nil => exact h
  | cons i r ih => exact ih (State.homeWrite_wf h _ _)

theorem State.homeAdd_wf {s : State} (h : Memory.wf s.mem) (loc : Nat) (d : Delta) : Memory.wf (s.homeAdd loc d).mem := by
  unfold State.homeAdd; split <;> exact State.homeWrite_wf h _ _

/-- What the check codes of dirty bytes leave in memory as they come home: every byte. -/
@[simp] theorem State.homeDirtyCode_mem (line : Nat) (l : RemoteLine) (s : State) (half : Nat) :
    (State.homeDirtyCode line l s half).mem = s.mem := by
  unfold State.homeDirtyCode; split
  · rfl
  · split
    · rfl
    · split <;> rfl

theorem State.homeDirtyCodes_mem (line : Nat) (l : RemoteLine) (hs : List Nat) (s : State) :
    (hs.foldl (State.homeDirtyCode line l) s).mem = s.mem := by
  induction hs generalizing s with
  | nil => rfl
  | cons h r ih => exact (ih _).trans (State.homeDirtyCode_mem line l s h)

theorem State.homeDirtyBytes_wf {s : State} (h : Memory.wf s.mem) (line : Nat) (l : RemoteLine) :
    Memory.wf (s.homeDirtyBytes line l).mem := by
  unfold State.homeDirtyBytes
  rw [State.homeDirtyCodes_mem]
  exact State.homeWrites_wf (fun i => line * 128 + i) (fun i => [Memory.read l.copy i]) l.dirty (s := { s with codes := _ }) h

theorem State.homeDeltas_wf {s : State} (h : Memory.wf s.mem) (line : Nat) (l : RemoteLine) :
    Memory.wf (s.homeDeltas line l).mem := by
  unfold State.homeDeltas
  induction l.deltas generalizing s with
  | nil => exact h
  | cons i r ih => exact ih (State.homeAdd_wf h _ _)

theorem State.pushLine_wf {s : State} (h : Memory.wf s.mem) (die line : Nat) : Memory.wf (s.pushLine die line).mem := by
  have := State.homeDeltas_wf (State.homeDirtyBytes_wf h line (s.remoteLine die line)) line (s.remoteLine die line)
  unfold State.pushLine
  simp only
  split <;> exact this

theorem State.pushDie_wf {s : State} (h : Memory.wf s.mem) (die : Nat) : Memory.wf (s.pushDie die).mem := by
  unfold State.pushDie
  generalize (s.die die).remote = l
  induction l generalizing s with
  | nil => exact h
  | cons i r ih => exact ih (State.pushLine_wf h _ _)

theorem State.pushAll_wf {s : State} (h : Memory.wf s.mem) : Memory.wf s.pushAll.mem := by
  unfold State.pushAll
  generalize List.range Config.dies = l
  induction l generalizing s with
  | nil => exact h
  | cons i r ih => exact ih (State.pushDie_wf h _)

theorem State.homeAdds_wf (f : Nat × Delta → Nat) (l : List (Nat × Delta)) {s : State} (h : Memory.wf s.mem) :
    Memory.wf (l.foldl (fun s p => s.homeAdd (f p) p.2) s).mem := by
  induction l generalizing s with
  | nil => exact h
  | cons p r ih => exact ih (State.homeAdd_wf h _ _)

theorem State.foldDeltas_wf {s : State} (h : Memory.wf s.mem) (die line off n : Nat) :
    Memory.wf (s.foldDeltas die line off n).mem := by
  unfold State.foldDeltas
  simp only
  split
  · exact h
  · exact State.homeAdds_wf (fun p => line * 128 + p.1) _ h

theorem State.remoteStore_wf {s : State} (h : Memory.wf s.mem) (die loc : Nat) (bs : List Byte) :
    Memory.wf (s.remoteStore die loc bs).mem :=
  State.foldDeltas_wf h _ _ _ _

theorem State.l2Write_wf {s : State} (h : Memory.wf s.mem) (die loc : Nat) (bs : List Byte) :
    Memory.wf (s.l2Write die loc bs).mem := by
  unfold State.l2Write
  split
  · exact State.homeWrite_wf h _ _
  · exact State.remoteStore_wf h _ _ _

theorem State.dropRemote_wf {s : State} (h : Memory.wf s.mem) (die line : Nat) : Memory.wf (s.dropRemote die line).mem :=
  State.pushLine_wf h die line

theorem State.releasePush_wf {s : State} (h : Memory.wf s.mem) (core level : Nat) : Memory.wf (s.releasePush core level).mem := by
  unfold State.releasePush; split
  · exact State.pushDie_wf h _
  · exact h

theorem State.acquireDiscard_wf {s : State} (h : Memory.wf s.mem) (core level : Nat) :
    Memory.wf (s.acquireDiscard core level).mem := by
  unfold State.acquireDiscard
  simp only
  split
  · exact State.pushDie_wf (s := s.l1Flush core) h _
  · split
    · show Memory.wf (State.pushDie _ _).mem
      exact State.pushDie_wf (s := State.mapFills (s.l1Flush core) _ _) h _
    · exact h

/-- After a module reset memory lists nothing, in the canonical form. -/
theorem State.reset_mem_wf : Memory.wf State.reset.mem := rfl

end Sys2Proof.Machine
end

