-- ==== Sys2Proof/Laws/State.lean ====
section
/-!
SUPPORT. What each named update of the state leaves in each field, one lemma per field per update, so that no proof unfolds a record
update.
-/
namespace Sys2Proof.Machine

/-! ### `State.bump` -/

@[simp] theorem State.bump_threads (s : State) : (s.bump).threads = s.threads := rfl
@[simp] theorem State.bump_units (s : State) : (s.bump).units = s.units := rfl
@[simp] theorem State.bump_strands (s : State) : (s.bump).strands = s.strands := rfl
@[simp] theorem State.bump_ops (s : State) : (s.bump).ops = s.ops := rfl
@[simp] theorem State.bump_cmds (s : State) : (s.bump).cmds = s.cmds := rfl
@[simp] theorem State.bump_cores (s : State) : (s.bump).cores = s.cores := rfl
@[simp] theorem State.bump_dies (s : State) : (s.bump).dies = s.dies := rfl
@[simp] theorem State.bump_clusters (s : State) : (s.bump).clusters = s.clusters := rfl
@[simp] theorem State.bump_slots (s : State) : (s.bump).slots = s.slots := rfl
@[simp] theorem State.bump_walks (s : State) : (s.bump).walks = s.walks := rfl
@[simp] theorem State.bump_mem (s : State) : (s.bump).mem = s.mem := rfl
@[simp] theorem State.bump_codes (s : State) : (s.bump).codes = s.codes := rfl
@[simp] theorem State.bump_codeWrites (s : State) : (s.bump).codeWrites = s.codeWrites := rfl
@[simp] theorem State.bump_homeDirty (s : State) : (s.bump).homeDirty = s.homeDirty := rfl
@[simp] theorem State.bump_claims (s : State) : (s.bump).claims = s.claims := rfl
@[simp] theorem State.bump_locks (s : State) : (s.bump).locks = s.locks := rfl
@[simp] theorem State.bump_lockWait (s : State) : (s.bump).lockWait = s.lockWait := rfl
@[simp] theorem State.bump_omega (s : State) : (s.bump).omega = s.omega := rfl
@[simp] theorem State.bump_sets (s : State) : (s.bump).sets = s.sets := rfl
@[simp] theorem State.bump_updates (s : State) : (s.bump).updates = s.updates := rfl
@[simp] theorem State.bump_pages (s : State) : (s.bump).pages = s.pages := rfl
@[simp] theorem State.bump_merges (s : State) : (s.bump).merges = s.merges := rfl
@[simp] theorem State.bump_mergeWait (s : State) : (s.bump).mergeWait = s.mergeWait := rfl
@[simp] theorem State.bump_closedMarks (s : State) : (s.bump).closedMarks = s.closedMarks := rfl
@[simp] theorem State.bump_saved (s : State) : (s.bump).saved = s.saved := rfl
@[simp] theorem State.bump_images (s : State) : (s.bump).images = s.images := rfl
@[simp] theorem State.bump_claimsGone (s : State) : (s.bump).claimsGone = s.claimsGone := rfl
@[simp] theorem State.bump_asks (s : State) : (s.bump).asks = s.asks := rfl
@[simp] theorem State.bump_gone (s : State) : (s.bump).gone = s.gone := rfl
@[simp] theorem State.bump_dev (s : State) : (s.bump).dev = s.dev := rfl
@[simp] theorem State.bump_groups (s : State) : (s.bump).groups = s.groups := rfl
@[simp] theorem State.bump_links (s : State) : (s.bump).links = s.links := rfl
@[simp] theorem State.bump_routes (s : State) : (s.bump).routes = s.routes := rfl
@[simp] theorem State.bump_transit (s : State) : (s.bump).transit = s.transit := rfl
@[simp] theorem State.bump_reqs (s : State) : (s.bump).reqs = s.reqs := rfl
@[simp] theorem State.bump_nextTxn (s : State) : (s.bump).nextTxn = s.nextTxn := rfl
@[simp] theorem State.bump_responses (s : State) : (s.bump).responses = s.responses := rfl
@[simp] theorem State.bump_gathering (s : State) : (s.bump).gathering = s.gathering := rfl
@[simp] theorem State.bump_lows (s : State) : (s.bump).lows = s.lows := rfl
@[simp] theorem State.bump_reconf (s : State) : (s.bump).reconf = s.reconf := rfl
@[simp] theorem State.bump_trainedAt (s : State) : (s.bump).trainedAt = s.trainedAt := rfl
@[simp] theorem State.bump_sec (s : State) : (s.bump).sec = s.sec := rfl
@[simp] theorem State.bump_dbg (s : State) : (s.bump).dbg = s.dbg := rfl
@[simp] theorem State.bump_pwr (s : State) : (s.bump).pwr = s.pwr := rfl
@[simp] theorem State.bump_clehild (s : State) : (s.bump).clehild = s.clehild := rfl
@[simp] theorem State.bump_outbox (s : State) : (s.bump).outbox = s.outbox := rfl
@[simp] theorem State.bump_streamed (s : State) : (s.bump).streamed = s.streamed := rfl
@[simp] theorem State.bump_sentPackets (s : State) : (s.bump).sentPackets = s.sentPackets := rfl
@[simp] theorem State.bump_sentBeats (s : State) : (s.bump).sentBeats = s.sentBeats := rfl
@[simp] theorem State.bump_sentSides (s : State) : (s.bump).sentSides = s.sentSides := rfl
@[simp] theorem State.bump_darkEnds (s : State) : (s.bump).darkEnds = s.darkEnds := rfl
@[simp] theorem State.bump_now (s : State) : (s.bump).now = s.now := rfl
@[simp] theorem State.bump_agenda (s : State) : (s.bump).agenda = s.agenda := rfl
@[simp] theorem State.bump_issuing (s : State) : (s.bump).issuing = s.issuing := rfl
@[simp] theorem State.bump_fresh (s : State) : (s.bump).fresh = s.fresh := rfl
@[simp] theorem State.bump_nextId (s : State) : (s.bump).nextId = s.nextId + 1 := rfl

/-! ### `State.stir` -/

@[simp] theorem State.stir_threads (s : State) : (s.stir).threads = s.threads := rfl
@[simp] theorem State.stir_units (s : State) : (s.stir).units = s.units := rfl
@[simp] theorem State.stir_strands (s : State) : (s.stir).strands = s.strands := rfl
@[simp] theorem State.stir_ops (s : State) : (s.stir).ops = s.ops := rfl
@[simp] theorem State.stir_cmds (s : State) : (s.stir).cmds = s.cmds := rfl
@[simp] theorem State.stir_cores (s : State) : (s.stir).cores = s.cores := rfl
@[simp] theorem State.stir_dies (s : State) : (s.stir).dies = s.dies := rfl
@[simp] theorem State.stir_clusters (s : State) : (s.stir).clusters = s.clusters := rfl
@[simp] theorem State.stir_slots (s : State) : (s.stir).slots = s.slots := rfl
@[simp] theorem State.stir_walks (s : State) : (s.stir).walks = s.walks := rfl
@[simp] theorem State.stir_mem (s : State) : (s.stir).mem = s.mem := rfl
@[simp] theorem State.stir_codes (s : State) : (s.stir).codes = s.codes := rfl
@[simp] theorem State.stir_codeWrites (s : State) : (s.stir).codeWrites = s.codeWrites := rfl
@[simp] theorem State.stir_homeDirty (s : State) : (s.stir).homeDirty = s.homeDirty := rfl
@[simp] theorem State.stir_claims (s : State) : (s.stir).claims = s.claims := rfl
@[simp] theorem State.stir_locks (s : State) : (s.stir).locks = s.locks := rfl
@[simp] theorem State.stir_lockWait (s : State) : (s.stir).lockWait = s.lockWait := rfl
@[simp] theorem State.stir_omega (s : State) : (s.stir).omega = s.omega := rfl
@[simp] theorem State.stir_sets (s : State) : (s.stir).sets = s.sets := rfl
@[simp] theorem State.stir_updates (s : State) : (s.stir).updates = s.updates := rfl
@[simp] theorem State.stir_pages (s : State) : (s.stir).pages = s.pages := rfl
@[simp] theorem State.stir_merges (s : State) : (s.stir).merges = s.merges := rfl
@[simp] theorem State.stir_mergeWait (s : State) : (s.stir).mergeWait = s.mergeWait := rfl
@[simp] theorem State.stir_closedMarks (s : State) : (s.stir).closedMarks = s.closedMarks := rfl
@[simp] theorem State.stir_saved (s : State) : (s.stir).saved = s.saved := rfl
@[simp] theorem State.stir_images (s : State) : (s.stir).images = s.images := rfl
@[simp] theorem State.stir_claimsGone (s : State) : (s.stir).claimsGone = s.claimsGone := rfl
@[simp] theorem State.stir_asks (s : State) : (s.stir).asks = s.asks := rfl
@[simp] theorem State.stir_gone (s : State) : (s.stir).gone = s.gone := rfl
@[simp] theorem State.stir_dev (s : State) : (s.stir).dev = s.dev := rfl
@[simp] theorem State.stir_groups (s : State) : (s.stir).groups = s.groups := rfl
@[simp] theorem State.stir_links (s : State) : (s.stir).links = s.links := rfl
@[simp] theorem State.stir_routes (s : State) : (s.stir).routes = s.routes := rfl
@[simp] theorem State.stir_transit (s : State) : (s.stir).transit = s.transit := rfl
@[simp] theorem State.stir_reqs (s : State) : (s.stir).reqs = s.reqs := rfl
@[simp] theorem State.stir_nextTxn (s : State) : (s.stir).nextTxn = s.nextTxn := rfl
@[simp] theorem State.stir_responses (s : State) : (s.stir).responses = s.responses := rfl
@[simp] theorem State.stir_gathering (s : State) : (s.stir).gathering = s.gathering := rfl
@[simp] theorem State.stir_lows (s : State) : (s.stir).lows = s.lows := rfl
@[simp] theorem State.stir_reconf (s : State) : (s.stir).reconf = s.reconf := rfl
@[simp] theorem State.stir_trainedAt (s : State) : (s.stir).trainedAt = s.trainedAt := rfl
@[simp] theorem State.stir_sec (s : State) : (s.stir).sec = s.sec := rfl
@[simp] theorem State.stir_dbg (s : State) : (s.stir).dbg = s.dbg := rfl
@[simp] theorem State.stir_pwr (s : State) : (s.stir).pwr = s.pwr := rfl
@[simp] theorem State.stir_clehild (s : State) : (s.stir).clehild = s.clehild := rfl
@[simp] theorem State.stir_outbox (s : State) : (s.stir).outbox = s.outbox := rfl
@[simp] theorem State.stir_streamed (s : State) : (s.stir).streamed = s.streamed := rfl
@[simp] theorem State.stir_sentPackets (s : State) : (s.stir).sentPackets = s.sentPackets := rfl
@[simp] theorem State.stir_sentBeats (s : State) : (s.stir).sentBeats = s.sentBeats := rfl
@[simp] theorem State.stir_sentSides (s : State) : (s.stir).sentSides = s.sentSides := rfl
@[simp] theorem State.stir_darkEnds (s : State) : (s.stir).darkEnds = s.darkEnds := rfl
@[simp] theorem State.stir_now (s : State) : (s.stir).now = s.now := rfl
@[simp] theorem State.stir_agenda (s : State) : (s.stir).agenda = s.agenda := rfl
@[simp] theorem State.stir_issuing (s : State) : (s.stir).issuing = s.issuing := rfl
@[simp] theorem State.stir_fresh (s : State) : (s.stir).fresh = s.fresh + 1 := rfl
@[simp] theorem State.stir_nextId (s : State) : (s.stir).nextId = s.nextId := rfl

/-! ### `State.setThread` -/

@[simp] theorem State.setThread_threads (s : State) (t : Thread) : (s.setThread t).threads = s.threads.map (fun x => if x.tid = t.tid then t else x) := rfl
@[simp] theorem State.setThread_units (s : State) (t : Thread) : (s.setThread t).units = s.units := rfl
@[simp] theorem State.setThread_strands (s : State) (t : Thread) : (s.setThread t).strands = s.strands := rfl
@[simp] theorem State.setThread_ops (s : State) (t : Thread) : (s.setThread t).ops = s.ops := rfl
@[simp] theorem State.setThread_cmds (s : State) (t : Thread) : (s.setThread t).cmds = s.cmds := rfl
@[simp] theorem State.setThread_cores (s : State) (t : Thread) : (s.setThread t).cores = s.cores := rfl
@[simp] theorem State.setThread_dies (s : State) (t : Thread) : (s.setThread t).dies = s.dies := rfl
@[simp] theorem State.setThread_clusters (s : State) (t : Thread) : (s.setThread t).clusters = s.clusters := rfl
@[simp] theorem State.setThread_slots (s : State) (t : Thread) : (s.setThread t).slots = s.slots := rfl
@[simp] theorem State.setThread_walks (s : State) (t : Thread) : (s.setThread t).walks = s.walks := rfl
@[simp] theorem State.setThread_mem (s : State) (t : Thread) : (s.setThread t).mem = s.mem := rfl
@[simp] theorem State.setThread_codes (s : State) (t : Thread) : (s.setThread t).codes = s.codes := rfl
@[simp] theorem State.setThread_codeWrites (s : State) (t : Thread) : (s.setThread t).codeWrites = s.codeWrites := rfl
@[simp] theorem State.setThread_homeDirty (s : State) (t : Thread) : (s.setThread t).homeDirty = s.homeDirty := rfl
@[simp] theorem State.setThread_claims (s : State) (t : Thread) : (s.setThread t).claims = s.claims := rfl
@[simp] theorem State.setThread_locks (s : State) (t : Thread) : (s.setThread t).locks = s.locks := rfl
@[simp] theorem State.setThread_lockWait (s : State) (t : Thread) : (s.setThread t).lockWait = s.lockWait := rfl
@[simp] theorem State.setThread_omega (s : State) (t : Thread) : (s.setThread t).omega = s.omega := rfl
@[simp] theorem State.setThread_sets (s : State) (t : Thread) : (s.setThread t).sets = s.sets := rfl
@[simp] theorem State.setThread_updates (s : State) (t : Thread) : (s.setThread t).updates = s.updates := rfl
@[simp] theorem State.setThread_pages (s : State) (t : Thread) : (s.setThread t).pages = s.pages := rfl
@[simp] theorem State.setThread_merges (s : State) (t : Thread) : (s.setThread t).merges = s.merges := rfl
@[simp] theorem State.setThread_mergeWait (s : State) (t : Thread) : (s.setThread t).mergeWait = s.mergeWait := rfl
@[simp] theorem State.setThread_closedMarks (s : State) (t : Thread) : (s.setThread t).closedMarks = s.closedMarks := rfl
@[simp] theorem State.setThread_saved (s : State) (t : Thread) : (s.setThread t).saved = s.saved := rfl
@[simp] theorem State.setThread_images (s : State) (t : Thread) : (s.setThread t).images = s.images := rfl
@[simp] theorem State.setThread_claimsGone (s : State) (t : Thread) : (s.setThread t).claimsGone = s.claimsGone := rfl
@[simp] theorem State.setThread_asks (s : State) (t : Thread) : (s.setThread t).asks = s.asks := rfl
@[simp] theorem State.setThread_gone (s : State) (t : Thread) : (s.setThread t).gone = s.gone := rfl
@[simp] theorem State.setThread_dev (s : State) (t : Thread) : (s.setThread t).dev = s.dev := rfl
@[simp] theorem State.setThread_groups (s : State) (t : Thread) : (s.setThread t).groups = s.groups := rfl
@[simp] theorem State.setThread_links (s : State) (t : Thread) : (s.setThread t).links = s.links := rfl
@[simp] theorem State.setThread_routes (s : State) (t : Thread) : (s.setThread t).routes = s.routes := rfl
@[simp] theorem State.setThread_transit (s : State) (t : Thread) : (s.setThread t).transit = s.transit := rfl
@[simp] theorem State.setThread_reqs (s : State) (t : Thread) : (s.setThread t).reqs = s.reqs := rfl
@[simp] theorem State.setThread_nextTxn (s : State) (t : Thread) : (s.setThread t).nextTxn = s.nextTxn := rfl
@[simp] theorem State.setThread_responses (s : State) (t : Thread) : (s.setThread t).responses = s.responses := rfl
@[simp] theorem State.setThread_gathering (s : State) (t : Thread) : (s.setThread t).gathering = s.gathering := rfl
@[simp] theorem State.setThread_lows (s : State) (t : Thread) : (s.setThread t).lows = s.lows := rfl
@[simp] theorem State.setThread_reconf (s : State) (t : Thread) : (s.setThread t).reconf = s.reconf := rfl
@[simp] theorem State.setThread_trainedAt (s : State) (t : Thread) : (s.setThread t).trainedAt = s.trainedAt := rfl
@[simp] theorem State.setThread_sec (s : State) (t : Thread) : (s.setThread t).sec = s.sec := rfl
@[simp] theorem State.setThread_dbg (s : State) (t : Thread) : (s.setThread t).dbg = s.dbg := rfl
@[simp] theorem State.setThread_pwr (s : State) (t : Thread) : (s.setThread t).pwr = s.pwr := rfl
@[simp] theorem State.setThread_clehild (s : State) (t : Thread) : (s.setThread t).clehild = s.clehild := rfl
@[simp] theorem State.setThread_outbox (s : State) (t : Thread) : (s.setThread t).outbox = s.outbox := rfl
@[simp] theorem State.setThread_streamed (s : State) (t : Thread) : (s.setThread t).streamed = s.streamed := rfl
@[simp] theorem State.setThread_sentPackets (s : State) (t : Thread) : (s.setThread t).sentPackets = s.sentPackets := rfl
@[simp] theorem State.setThread_sentBeats (s : State) (t : Thread) : (s.setThread t).sentBeats = s.sentBeats := rfl
@[simp] theorem State.setThread_sentSides (s : State) (t : Thread) : (s.setThread t).sentSides = s.sentSides := rfl
@[simp] theorem State.setThread_darkEnds (s : State) (t : Thread) : (s.setThread t).darkEnds = s.darkEnds := rfl
@[simp] theorem State.setThread_now (s : State) (t : Thread) : (s.setThread t).now = s.now := rfl
@[simp] theorem State.setThread_agenda (s : State) (t : Thread) : (s.setThread t).agenda = s.agenda := rfl
@[simp] theorem State.setThread_issuing (s : State) (t : Thread) : (s.setThread t).issuing = s.issuing := rfl
@[simp] theorem State.setThread_fresh (s : State) (t : Thread) : (s.setThread t).fresh = s.fresh := rfl
@[simp] theorem State.setThread_nextId (s : State) (t : Thread) : (s.setThread t).nextId = s.nextId := rfl

/-! ### `State.mapThread` -/

@[simp] theorem State.mapThread_threads (s : State) (n : Nat) (f : Thread → Thread) : (s.mapThread n f).threads = s.threads.map (fun x => if x.tid = n then f x else x) := rfl
@[simp] theorem State.mapThread_units (s : State) (n : Nat) (f : Thread → Thread) : (s.mapThread n f).units = s.units := rfl
@[simp] theorem State.mapThread_strands (s : State) (n : Nat) (f : Thread → Thread) : (s.mapThread n f).strands = s.strands := rfl
@[simp] theorem State.mapThread_ops (s : State) (n : Nat) (f : Thread → Thread) : (s.mapThread n f).ops = s.ops := rfl
@[simp] theorem State.mapThread_cmds (s : State) (n : Nat) (f : Thread → Thread) : (s.mapThread n f).cmds = s.cmds := rfl
@[simp] theorem State.mapThread_cores (s : State) (n : Nat) (f : Thread → Thread) : (s.mapThread n f).cores = s.cores := rfl
@[simp] theorem State.mapThread_dies (s : State) (n : Nat) (f : Thread → Thread) : (s.mapThread n f).dies = s.dies := rfl
@[simp] theorem State.mapThread_clusters (s : State) (n : Nat) (f : Thread → Thread) : (s.mapThread n f).clusters = s.clusters := rfl
@[simp] theorem State.mapThread_slots (s : State) (n : Nat) (f : Thread → Thread) : (s.mapThread n f).slots = s.slots := rfl
@[simp] theorem State.mapThread_walks (s : State) (n : Nat) (f : Thread → Thread) : (s.mapThread n f).walks = s.walks := rfl
@[simp] theorem State.mapThread_mem (s : State) (n : Nat) (f : Thread → Thread) : (s.mapThread n f).mem = s.mem := rfl
@[simp] theorem State.mapThread_codes (s : State) (n : Nat) (f : Thread → Thread) : (s.mapThread n f).codes = s.codes := rfl
@[simp] theorem State.mapThread_codeWrites (s : State) (n : Nat) (f : Thread → Thread) : (s.mapThread n f).codeWrites = s.codeWrites := rfl
@[simp] theorem State.mapThread_homeDirty (s : State) (n : Nat) (f : Thread → Thread) : (s.mapThread n f).homeDirty = s.homeDirty := rfl
@[simp] theorem State.mapThread_claims (s : State) (n : Nat) (f : Thread → Thread) : (s.mapThread n f).claims = s.claims := rfl
@[simp] theorem State.mapThread_locks (s : State) (n : Nat) (f : Thread → Thread) : (s.mapThread n f).locks = s.locks := rfl
@[simp] theorem State.mapThread_lockWait (s : State) (n : Nat) (f : Thread → Thread) : (s.mapThread n f).lockWait = s.lockWait := rfl
@[simp] theorem State.mapThread_omega (s : State) (n : Nat) (f : Thread → Thread) : (s.mapThread n f).omega = s.omega := rfl
@[simp] theorem State.mapThread_sets (s : State) (n : Nat) (f : Thread → Thread) : (s.mapThread n f).sets = s.sets := rfl
@[simp] theorem State.mapThread_updates (s : State) (n : Nat) (f : Thread → Thread) : (s.mapThread n f).updates = s.updates := rfl
@[simp] theorem State.mapThread_pages (s : State) (n : Nat) (f : Thread → Thread) : (s.mapThread n f).pages = s.pages := rfl
@[simp] theorem State.mapThread_merges (s : State) (n : Nat) (f : Thread → Thread) : (s.mapThread n f).merges = s.merges := rfl
@[simp] theorem State.mapThread_mergeWait (s : State) (n : Nat) (f : Thread → Thread) : (s.mapThread n f).mergeWait = s.mergeWait := rfl
@[simp] theorem State.mapThread_closedMarks (s : State) (n : Nat) (f : Thread → Thread) : (s.mapThread n f).closedMarks = s.closedMarks := rfl
@[simp] theorem State.mapThread_saved (s : State) (n : Nat) (f : Thread → Thread) : (s.mapThread n f).saved = s.saved := rfl
@[simp] theorem State.mapThread_images (s : State) (n : Nat) (f : Thread → Thread) : (s.mapThread n f).images = s.images := rfl
@[simp] theorem State.mapThread_claimsGone (s : State) (n : Nat) (f : Thread → Thread) : (s.mapThread n f).claimsGone = s.claimsGone := rfl
@[simp] theorem State.mapThread_asks (s : State) (n : Nat) (f : Thread → Thread) : (s.mapThread n f).asks = s.asks := rfl
@[simp] theorem State.mapThread_gone (s : State) (n : Nat) (f : Thread → Thread) : (s.mapThread n f).gone = s.gone := rfl
@[simp] theorem State.mapThread_dev (s : State) (n : Nat) (f : Thread → Thread) : (s.mapThread n f).dev = s.dev := rfl
@[simp] theorem State.mapThread_groups (s : State) (n : Nat) (f : Thread → Thread) : (s.mapThread n f).groups = s.groups := rfl
@[simp] theorem State.mapThread_links (s : State) (n : Nat) (f : Thread → Thread) : (s.mapThread n f).links = s.links := rfl
@[simp] theorem State.mapThread_routes (s : State) (n : Nat) (f : Thread → Thread) : (s.mapThread n f).routes = s.routes := rfl
@[simp] theorem State.mapThread_transit (s : State) (n : Nat) (f : Thread → Thread) : (s.mapThread n f).transit = s.transit := rfl
@[simp] theorem State.mapThread_reqs (s : State) (n : Nat) (f : Thread → Thread) : (s.mapThread n f).reqs = s.reqs := rfl
@[simp] theorem State.mapThread_nextTxn (s : State) (n : Nat) (f : Thread → Thread) : (s.mapThread n f).nextTxn = s.nextTxn := rfl
@[simp] theorem State.mapThread_responses (s : State) (n : Nat) (f : Thread → Thread) : (s.mapThread n f).responses = s.responses := rfl
@[simp] theorem State.mapThread_gathering (s : State) (n : Nat) (f : Thread → Thread) : (s.mapThread n f).gathering = s.gathering := rfl
@[simp] theorem State.mapThread_lows (s : State) (n : Nat) (f : Thread → Thread) : (s.mapThread n f).lows = s.lows := rfl
@[simp] theorem State.mapThread_reconf (s : State) (n : Nat) (f : Thread → Thread) : (s.mapThread n f).reconf = s.reconf := rfl
@[simp] theorem State.mapThread_trainedAt (s : State) (n : Nat) (f : Thread → Thread) : (s.mapThread n f).trainedAt = s.trainedAt := rfl
@[simp] theorem State.mapThread_sec (s : State) (n : Nat) (f : Thread → Thread) : (s.mapThread n f).sec = s.sec := rfl
@[simp] theorem State.mapThread_dbg (s : State) (n : Nat) (f : Thread → Thread) : (s.mapThread n f).dbg = s.dbg := rfl
@[simp] theorem State.mapThread_pwr (s : State) (n : Nat) (f : Thread → Thread) : (s.mapThread n f).pwr = s.pwr := rfl
@[simp] theorem State.mapThread_clehild (s : State) (n : Nat) (f : Thread → Thread) : (s.mapThread n f).clehild = s.clehild := rfl
@[simp] theorem State.mapThread_outbox (s : State) (n : Nat) (f : Thread → Thread) : (s.mapThread n f).outbox = s.outbox := rfl
@[simp] theorem State.mapThread_streamed (s : State) (n : Nat) (f : Thread → Thread) : (s.mapThread n f).streamed = s.streamed := rfl
@[simp] theorem State.mapThread_sentPackets (s : State) (n : Nat) (f : Thread → Thread) : (s.mapThread n f).sentPackets = s.sentPackets := rfl
@[simp] theorem State.mapThread_sentBeats (s : State) (n : Nat) (f : Thread → Thread) : (s.mapThread n f).sentBeats = s.sentBeats := rfl
@[simp] theorem State.mapThread_sentSides (s : State) (n : Nat) (f : Thread → Thread) : (s.mapThread n f).sentSides = s.sentSides := rfl
@[simp] theorem State.mapThread_darkEnds (s : State) (n : Nat) (f : Thread → Thread) : (s.mapThread n f).darkEnds = s.darkEnds := rfl
@[simp] theorem State.mapThread_now (s : State) (n : Nat) (f : Thread → Thread) : (s.mapThread n f).now = s.now := rfl
@[simp] theorem State.mapThread_agenda (s : State) (n : Nat) (f : Thread → Thread) : (s.mapThread n f).agenda = s.agenda := rfl
@[simp] theorem State.mapThread_issuing (s : State) (n : Nat) (f : Thread → Thread) : (s.mapThread n f).issuing = s.issuing := rfl
@[simp] theorem State.mapThread_fresh (s : State) (n : Nat) (f : Thread → Thread) : (s.mapThread n f).fresh = s.fresh := rfl
@[simp] theorem State.mapThread_nextId (s : State) (n : Nat) (f : Thread → Thread) : (s.mapThread n f).nextId = s.nextId := rfl

/-! ### `State.mapUnit` -/

@[simp] theorem State.mapUnit_threads (s : State) (n : Nat) (f : UnitSt → UnitSt) : (s.mapUnit n f).threads = s.threads := rfl
@[simp] theorem State.mapUnit_units (s : State) (n : Nat) (f : UnitSt → UnitSt) : (s.mapUnit n f).units = s.units.map (fun x => if x.uid = n then f x else x) := rfl
@[simp] theorem State.mapUnit_strands (s : State) (n : Nat) (f : UnitSt → UnitSt) : (s.mapUnit n f).strands = s.strands := rfl
@[simp] theorem State.mapUnit_ops (s : State) (n : Nat) (f : UnitSt → UnitSt) : (s.mapUnit n f).ops = s.ops := rfl
@[simp] theorem State.mapUnit_cmds (s : State) (n : Nat) (f : UnitSt → UnitSt) : (s.mapUnit n f).cmds = s.cmds := rfl
@[simp] theorem State.mapUnit_cores (s : State) (n : Nat) (f : UnitSt → UnitSt) : (s.mapUnit n f).cores = s.cores := rfl
@[simp] theorem State.mapUnit_dies (s : State) (n : Nat) (f : UnitSt → UnitSt) : (s.mapUnit n f).dies = s.dies := rfl
@[simp] theorem State.mapUnit_clusters (s : State) (n : Nat) (f : UnitSt → UnitSt) : (s.mapUnit n f).clusters = s.clusters := rfl
@[simp] theorem State.mapUnit_slots (s : State) (n : Nat) (f : UnitSt → UnitSt) : (s.mapUnit n f).slots = s.slots := rfl
@[simp] theorem State.mapUnit_walks (s : State) (n : Nat) (f : UnitSt → UnitSt) : (s.mapUnit n f).walks = s.walks := rfl
@[simp] theorem State.mapUnit_mem (s : State) (n : Nat) (f : UnitSt → UnitSt) : (s.mapUnit n f).mem = s.mem := rfl
@[simp] theorem State.mapUnit_codes (s : State) (n : Nat) (f : UnitSt → UnitSt) : (s.mapUnit n f).codes = s.codes := rfl
@[simp] theorem State.mapUnit_codeWrites (s : State) (n : Nat) (f : UnitSt → UnitSt) : (s.mapUnit n f).codeWrites = s.codeWrites := rfl
@[simp] theorem State.mapUnit_homeDirty (s : State) (n : Nat) (f : UnitSt → UnitSt) : (s.mapUnit n f).homeDirty = s.homeDirty := rfl
@[simp] theorem State.mapUnit_claims (s : State) (n : Nat) (f : UnitSt → UnitSt) : (s.mapUnit n f).claims = s.claims := rfl
@[simp] theorem State.mapUnit_locks (s : State) (n : Nat) (f : UnitSt → UnitSt) : (s.mapUnit n f).locks = s.locks := rfl
@[simp] theorem State.mapUnit_lockWait (s : State) (n : Nat) (f : UnitSt → UnitSt) : (s.mapUnit n f).lockWait = s.lockWait := rfl
@[simp] theorem State.mapUnit_omega (s : State) (n : Nat) (f : UnitSt → UnitSt) : (s.mapUnit n f).omega = s.omega := rfl
@[simp] theorem State.mapUnit_sets (s : State) (n : Nat) (f : UnitSt → UnitSt) : (s.mapUnit n f).sets = s.sets := rfl
@[simp] theorem State.mapUnit_updates (s : State) (n : Nat) (f : UnitSt → UnitSt) : (s.mapUnit n f).updates = s.updates := rfl
@[simp] theorem State.mapUnit_pages (s : State) (n : Nat) (f : UnitSt → UnitSt) : (s.mapUnit n f).pages = s.pages := rfl
@[simp] theorem State.mapUnit_merges (s : State) (n : Nat) (f : UnitSt → UnitSt) : (s.mapUnit n f).merges = s.merges := rfl
@[simp] theorem State.mapUnit_mergeWait (s : State) (n : Nat) (f : UnitSt → UnitSt) : (s.mapUnit n f).mergeWait = s.mergeWait := rfl
@[simp] theorem State.mapUnit_closedMarks (s : State) (n : Nat) (f : UnitSt → UnitSt) : (s.mapUnit n f).closedMarks = s.closedMarks := rfl
@[simp] theorem State.mapUnit_saved (s : State) (n : Nat) (f : UnitSt → UnitSt) : (s.mapUnit n f).saved = s.saved := rfl
@[simp] theorem State.mapUnit_images (s : State) (n : Nat) (f : UnitSt → UnitSt) : (s.mapUnit n f).images = s.images := rfl
@[simp] theorem State.mapUnit_claimsGone (s : State) (n : Nat) (f : UnitSt → UnitSt) : (s.mapUnit n f).claimsGone = s.claimsGone := rfl
@[simp] theorem State.mapUnit_asks (s : State) (n : Nat) (f : UnitSt → UnitSt) : (s.mapUnit n f).asks = s.asks := rfl
@[simp] theorem State.mapUnit_gone (s : State) (n : Nat) (f : UnitSt → UnitSt) : (s.mapUnit n f).gone = s.gone := rfl
@[simp] theorem State.mapUnit_dev (s : State) (n : Nat) (f : UnitSt → UnitSt) : (s.mapUnit n f).dev = s.dev := rfl
@[simp] theorem State.mapUnit_groups (s : State) (n : Nat) (f : UnitSt → UnitSt) : (s.mapUnit n f).groups = s.groups := rfl
@[simp] theorem State.mapUnit_links (s : State) (n : Nat) (f : UnitSt → UnitSt) : (s.mapUnit n f).links = s.links := rfl
@[simp] theorem State.mapUnit_routes (s : State) (n : Nat) (f : UnitSt → UnitSt) : (s.mapUnit n f).routes = s.routes := rfl
@[simp] theorem State.mapUnit_transit (s : State) (n : Nat) (f : UnitSt → UnitSt) : (s.mapUnit n f).transit = s.transit := rfl
@[simp] theorem State.mapUnit_reqs (s : State) (n : Nat) (f : UnitSt → UnitSt) : (s.mapUnit n f).reqs = s.reqs := rfl
@[simp] theorem State.mapUnit_nextTxn (s : State) (n : Nat) (f : UnitSt → UnitSt) : (s.mapUnit n f).nextTxn = s.nextTxn := rfl
@[simp] theorem State.mapUnit_responses (s : State) (n : Nat) (f : UnitSt → UnitSt) : (s.mapUnit n f).responses = s.responses := rfl
@[simp] theorem State.mapUnit_gathering (s : State) (n : Nat) (f : UnitSt → UnitSt) : (s.mapUnit n f).gathering = s.gathering := rfl
@[simp] theorem State.mapUnit_lows (s : State) (n : Nat) (f : UnitSt → UnitSt) : (s.mapUnit n f).lows = s.lows := rfl
@[simp] theorem State.mapUnit_reconf (s : State) (n : Nat) (f : UnitSt → UnitSt) : (s.mapUnit n f).reconf = s.reconf := rfl
@[simp] theorem State.mapUnit_trainedAt (s : State) (n : Nat) (f : UnitSt → UnitSt) : (s.mapUnit n f).trainedAt = s.trainedAt := rfl
@[simp] theorem State.mapUnit_sec (s : State) (n : Nat) (f : UnitSt → UnitSt) : (s.mapUnit n f).sec = s.sec := rfl
@[simp] theorem State.mapUnit_dbg (s : State) (n : Nat) (f : UnitSt → UnitSt) : (s.mapUnit n f).dbg = s.dbg := rfl
@[simp] theorem State.mapUnit_pwr (s : State) (n : Nat) (f : UnitSt → UnitSt) : (s.mapUnit n f).pwr = s.pwr := rfl
@[simp] theorem State.mapUnit_clehild (s : State) (n : Nat) (f : UnitSt → UnitSt) : (s.mapUnit n f).clehild = s.clehild := rfl
@[simp] theorem State.mapUnit_outbox (s : State) (n : Nat) (f : UnitSt → UnitSt) : (s.mapUnit n f).outbox = s.outbox := rfl
@[simp] theorem State.mapUnit_streamed (s : State) (n : Nat) (f : UnitSt → UnitSt) : (s.mapUnit n f).streamed = s.streamed := rfl
@[simp] theorem State.mapUnit_sentPackets (s : State) (n : Nat) (f : UnitSt → UnitSt) : (s.mapUnit n f).sentPackets = s.sentPackets := rfl
@[simp] theorem State.mapUnit_sentBeats (s : State) (n : Nat) (f : UnitSt → UnitSt) : (s.mapUnit n f).sentBeats = s.sentBeats := rfl
@[simp] theorem State.mapUnit_sentSides (s : State) (n : Nat) (f : UnitSt → UnitSt) : (s.mapUnit n f).sentSides = s.sentSides := rfl
@[simp] theorem State.mapUnit_darkEnds (s : State) (n : Nat) (f : UnitSt → UnitSt) : (s.mapUnit n f).darkEnds = s.darkEnds := rfl
@[simp] theorem State.mapUnit_now (s : State) (n : Nat) (f : UnitSt → UnitSt) : (s.mapUnit n f).now = s.now := rfl
@[simp] theorem State.mapUnit_agenda (s : State) (n : Nat) (f : UnitSt → UnitSt) : (s.mapUnit n f).agenda = s.agenda := rfl
@[simp] theorem State.mapUnit_issuing (s : State) (n : Nat) (f : UnitSt → UnitSt) : (s.mapUnit n f).issuing = s.issuing := rfl
@[simp] theorem State.mapUnit_fresh (s : State) (n : Nat) (f : UnitSt → UnitSt) : (s.mapUnit n f).fresh = s.fresh := rfl
@[simp] theorem State.mapUnit_nextId (s : State) (n : Nat) (f : UnitSt → UnitSt) : (s.mapUnit n f).nextId = s.nextId := rfl

/-! ### `State.mapSlot` -/

@[simp] theorem State.mapSlot_threads (s : State) (n : Nat) (f : Slot → Slot) : (s.mapSlot n f).threads = s.threads := rfl
@[simp] theorem State.mapSlot_units (s : State) (n : Nat) (f : Slot → Slot) : (s.mapSlot n f).units = s.units := rfl
@[simp] theorem State.mapSlot_strands (s : State) (n : Nat) (f : Slot → Slot) : (s.mapSlot n f).strands = s.strands := rfl
@[simp] theorem State.mapSlot_ops (s : State) (n : Nat) (f : Slot → Slot) : (s.mapSlot n f).ops = s.ops := rfl
@[simp] theorem State.mapSlot_cmds (s : State) (n : Nat) (f : Slot → Slot) : (s.mapSlot n f).cmds = s.cmds := rfl
@[simp] theorem State.mapSlot_cores (s : State) (n : Nat) (f : Slot → Slot) : (s.mapSlot n f).cores = s.cores := rfl
@[simp] theorem State.mapSlot_dies (s : State) (n : Nat) (f : Slot → Slot) : (s.mapSlot n f).dies = s.dies := rfl
@[simp] theorem State.mapSlot_clusters (s : State) (n : Nat) (f : Slot → Slot) : (s.mapSlot n f).clusters = s.clusters := rfl
@[simp] theorem State.mapSlot_slots (s : State) (n : Nat) (f : Slot → Slot) : (s.mapSlot n f).slots = Sparse.set {} s.slots n (f (s.slot n)) := rfl
@[simp] theorem State.mapSlot_walks (s : State) (n : Nat) (f : Slot → Slot) : (s.mapSlot n f).walks = s.walks := rfl
@[simp] theorem State.mapSlot_mem (s : State) (n : Nat) (f : Slot → Slot) : (s.mapSlot n f).mem = s.mem := rfl
@[simp] theorem State.mapSlot_codes (s : State) (n : Nat) (f : Slot → Slot) : (s.mapSlot n f).codes = s.codes := rfl
@[simp] theorem State.mapSlot_codeWrites (s : State) (n : Nat) (f : Slot → Slot) : (s.mapSlot n f).codeWrites = s.codeWrites := rfl
@[simp] theorem State.mapSlot_homeDirty (s : State) (n : Nat) (f : Slot → Slot) : (s.mapSlot n f).homeDirty = s.homeDirty := rfl
@[simp] theorem State.mapSlot_claims (s : State) (n : Nat) (f : Slot → Slot) : (s.mapSlot n f).claims = s.claims := rfl
@[simp] theorem State.mapSlot_locks (s : State) (n : Nat) (f : Slot → Slot) : (s.mapSlot n f).locks = s.locks := rfl
@[simp] theorem State.mapSlot_lockWait (s : State) (n : Nat) (f : Slot → Slot) : (s.mapSlot n f).lockWait = s.lockWait := rfl
@[simp] theorem State.mapSlot_omega (s : State) (n : Nat) (f : Slot → Slot) : (s.mapSlot n f).omega = s.omega := rfl
@[simp] theorem State.mapSlot_sets (s : State) (n : Nat) (f : Slot → Slot) : (s.mapSlot n f).sets = s.sets := rfl
@[simp] theorem State.mapSlot_updates (s : State) (n : Nat) (f : Slot → Slot) : (s.mapSlot n f).updates = s.updates := rfl
@[simp] theorem State.mapSlot_pages (s : State) (n : Nat) (f : Slot → Slot) : (s.mapSlot n f).pages = s.pages := rfl
@[simp] theorem State.mapSlot_merges (s : State) (n : Nat) (f : Slot → Slot) : (s.mapSlot n f).merges = s.merges := rfl
@[simp] theorem State.mapSlot_mergeWait (s : State) (n : Nat) (f : Slot → Slot) : (s.mapSlot n f).mergeWait = s.mergeWait := rfl
@[simp] theorem State.mapSlot_closedMarks (s : State) (n : Nat) (f : Slot → Slot) : (s.mapSlot n f).closedMarks = s.closedMarks := rfl
@[simp] theorem State.mapSlot_saved (s : State) (n : Nat) (f : Slot → Slot) : (s.mapSlot n f).saved = s.saved := rfl
@[simp] theorem State.mapSlot_images (s : State) (n : Nat) (f : Slot → Slot) : (s.mapSlot n f).images = s.images := rfl
@[simp] theorem State.mapSlot_claimsGone (s : State) (n : Nat) (f : Slot → Slot) : (s.mapSlot n f).claimsGone = s.claimsGone := rfl
@[simp] theorem State.mapSlot_asks (s : State) (n : Nat) (f : Slot → Slot) : (s.mapSlot n f).asks = s.asks := rfl
@[simp] theorem State.mapSlot_gone (s : State) (n : Nat) (f : Slot → Slot) : (s.mapSlot n f).gone = s.gone := rfl
@[simp] theorem State.mapSlot_dev (s : State) (n : Nat) (f : Slot → Slot) : (s.mapSlot n f).dev = s.dev := rfl
@[simp] theorem State.mapSlot_groups (s : State) (n : Nat) (f : Slot → Slot) : (s.mapSlot n f).groups = s.groups := rfl
@[simp] theorem State.mapSlot_links (s : State) (n : Nat) (f : Slot → Slot) : (s.mapSlot n f).links = s.links := rfl
@[simp] theorem State.mapSlot_routes (s : State) (n : Nat) (f : Slot → Slot) : (s.mapSlot n f).routes = s.routes := rfl
@[simp] theorem State.mapSlot_transit (s : State) (n : Nat) (f : Slot → Slot) : (s.mapSlot n f).transit = s.transit := rfl
@[simp] theorem State.mapSlot_reqs (s : State) (n : Nat) (f : Slot → Slot) : (s.mapSlot n f).reqs = s.reqs := rfl
@[simp] theorem State.mapSlot_nextTxn (s : State) (n : Nat) (f : Slot → Slot) : (s.mapSlot n f).nextTxn = s.nextTxn := rfl
@[simp] theorem State.mapSlot_responses (s : State) (n : Nat) (f : Slot → Slot) : (s.mapSlot n f).responses = s.responses := rfl
@[simp] theorem State.mapSlot_gathering (s : State) (n : Nat) (f : Slot → Slot) : (s.mapSlot n f).gathering = s.gathering := rfl
@[simp] theorem State.mapSlot_lows (s : State) (n : Nat) (f : Slot → Slot) : (s.mapSlot n f).lows = s.lows := rfl
@[simp] theorem State.mapSlot_reconf (s : State) (n : Nat) (f : Slot → Slot) : (s.mapSlot n f).reconf = s.reconf := rfl
@[simp] theorem State.mapSlot_trainedAt (s : State) (n : Nat) (f : Slot → Slot) : (s.mapSlot n f).trainedAt = s.trainedAt := rfl
@[simp] theorem State.mapSlot_sec (s : State) (n : Nat) (f : Slot → Slot) : (s.mapSlot n f).sec = s.sec := rfl
@[simp] theorem State.mapSlot_dbg (s : State) (n : Nat) (f : Slot → Slot) : (s.mapSlot n f).dbg = s.dbg := rfl
@[simp] theorem State.mapSlot_pwr (s : State) (n : Nat) (f : Slot → Slot) : (s.mapSlot n f).pwr = s.pwr := rfl
@[simp] theorem State.mapSlot_clehild (s : State) (n : Nat) (f : Slot → Slot) : (s.mapSlot n f).clehild = s.clehild := rfl
@[simp] theorem State.mapSlot_outbox (s : State) (n : Nat) (f : Slot → Slot) : (s.mapSlot n f).outbox = s.outbox := rfl
@[simp] theorem State.mapSlot_streamed (s : State) (n : Nat) (f : Slot → Slot) : (s.mapSlot n f).streamed = s.streamed := rfl
@[simp] theorem State.mapSlot_sentPackets (s : State) (n : Nat) (f : Slot → Slot) : (s.mapSlot n f).sentPackets = s.sentPackets := rfl
@[simp] theorem State.mapSlot_sentBeats (s : State) (n : Nat) (f : Slot → Slot) : (s.mapSlot n f).sentBeats = s.sentBeats := rfl
@[simp] theorem State.mapSlot_sentSides (s : State) (n : Nat) (f : Slot → Slot) : (s.mapSlot n f).sentSides = s.sentSides := rfl
@[simp] theorem State.mapSlot_darkEnds (s : State) (n : Nat) (f : Slot → Slot) : (s.mapSlot n f).darkEnds = s.darkEnds := rfl
@[simp] theorem State.mapSlot_now (s : State) (n : Nat) (f : Slot → Slot) : (s.mapSlot n f).now = s.now := rfl
@[simp] theorem State.mapSlot_agenda (s : State) (n : Nat) (f : Slot → Slot) : (s.mapSlot n f).agenda = s.agenda := rfl
@[simp] theorem State.mapSlot_issuing (s : State) (n : Nat) (f : Slot → Slot) : (s.mapSlot n f).issuing = s.issuing := rfl
@[simp] theorem State.mapSlot_fresh (s : State) (n : Nat) (f : Slot → Slot) : (s.mapSlot n f).fresh = s.fresh := rfl
@[simp] theorem State.mapSlot_nextId (s : State) (n : Nat) (f : Slot → Slot) : (s.mapSlot n f).nextId = s.nextId := rfl

/-! ### `State.mapCore` -/

@[simp] theorem State.mapCore_threads (s : State) (n : Nat) (f : Core → Core) : (s.mapCore n f).threads = s.threads := rfl
@[simp] theorem State.mapCore_units (s : State) (n : Nat) (f : Core → Core) : (s.mapCore n f).units = s.units := rfl
@[simp] theorem State.mapCore_strands (s : State) (n : Nat) (f : Core → Core) : (s.mapCore n f).strands = s.strands := rfl
@[simp] theorem State.mapCore_ops (s : State) (n : Nat) (f : Core → Core) : (s.mapCore n f).ops = s.ops := rfl
@[simp] theorem State.mapCore_cmds (s : State) (n : Nat) (f : Core → Core) : (s.mapCore n f).cmds = s.cmds := rfl
@[simp] theorem State.mapCore_cores (s : State) (n : Nat) (f : Core → Core) : (s.mapCore n f).cores = Sparse.set {} s.cores n (f (s.core n)) := rfl
@[simp] theorem State.mapCore_dies (s : State) (n : Nat) (f : Core → Core) : (s.mapCore n f).dies = s.dies := rfl
@[simp] theorem State.mapCore_clusters (s : State) (n : Nat) (f : Core → Core) : (s.mapCore n f).clusters = s.clusters := rfl
@[simp] theorem State.mapCore_slots (s : State) (n : Nat) (f : Core → Core) : (s.mapCore n f).slots = s.slots := rfl
@[simp] theorem State.mapCore_walks (s : State) (n : Nat) (f : Core → Core) : (s.mapCore n f).walks = s.walks := rfl
@[simp] theorem State.mapCore_mem (s : State) (n : Nat) (f : Core → Core) : (s.mapCore n f).mem = s.mem := rfl
@[simp] theorem State.mapCore_codes (s : State) (n : Nat) (f : Core → Core) : (s.mapCore n f).codes = s.codes := rfl
@[simp] theorem State.mapCore_codeWrites (s : State) (n : Nat) (f : Core → Core) : (s.mapCore n f).codeWrites = s.codeWrites := rfl
@[simp] theorem State.mapCore_homeDirty (s : State) (n : Nat) (f : Core → Core) : (s.mapCore n f).homeDirty = s.homeDirty := rfl
@[simp] theorem State.mapCore_claims (s : State) (n : Nat) (f : Core → Core) : (s.mapCore n f).claims = s.claims := rfl
@[simp] theorem State.mapCore_locks (s : State) (n : Nat) (f : Core → Core) : (s.mapCore n f).locks = s.locks := rfl
@[simp] theorem State.mapCore_lockWait (s : State) (n : Nat) (f : Core → Core) : (s.mapCore n f).lockWait = s.lockWait := rfl
@[simp] theorem State.mapCore_omega (s : State) (n : Nat) (f : Core → Core) : (s.mapCore n f).omega = s.omega := rfl
@[simp] theorem State.mapCore_sets (s : State) (n : Nat) (f : Core → Core) : (s.mapCore n f).sets = s.sets := rfl
@[simp] theorem State.mapCore_updates (s : State) (n : Nat) (f : Core → Core) : (s.mapCore n f).updates = s.updates := rfl
@[simp] theorem State.mapCore_pages (s : State) (n : Nat) (f : Core → Core) : (s.mapCore n f).pages = s.pages := rfl
@[simp] theorem State.mapCore_merges (s : State) (n : Nat) (f : Core → Core) : (s.mapCore n f).merges = s.merges := rfl
@[simp] theorem State.mapCore_mergeWait (s : State) (n : Nat) (f : Core → Core) : (s.mapCore n f).mergeWait = s.mergeWait := rfl
@[simp] theorem State.mapCore_closedMarks (s : State) (n : Nat) (f : Core → Core) : (s.mapCore n f).closedMarks = s.closedMarks := rfl
@[simp] theorem State.mapCore_saved (s : State) (n : Nat) (f : Core → Core) : (s.mapCore n f).saved = s.saved := rfl
@[simp] theorem State.mapCore_images (s : State) (n : Nat) (f : Core → Core) : (s.mapCore n f).images = s.images := rfl
@[simp] theorem State.mapCore_claimsGone (s : State) (n : Nat) (f : Core → Core) : (s.mapCore n f).claimsGone = s.claimsGone := rfl
@[simp] theorem State.mapCore_asks (s : State) (n : Nat) (f : Core → Core) : (s.mapCore n f).asks = s.asks := rfl
@[simp] theorem State.mapCore_gone (s : State) (n : Nat) (f : Core → Core) : (s.mapCore n f).gone = s.gone := rfl
@[simp] theorem State.mapCore_dev (s : State) (n : Nat) (f : Core → Core) : (s.mapCore n f).dev = s.dev := rfl
@[simp] theorem State.mapCore_groups (s : State) (n : Nat) (f : Core → Core) : (s.mapCore n f).groups = s.groups := rfl
@[simp] theorem State.mapCore_links (s : State) (n : Nat) (f : Core → Core) : (s.mapCore n f).links = s.links := rfl
@[simp] theorem State.mapCore_routes (s : State) (n : Nat) (f : Core → Core) : (s.mapCore n f).routes = s.routes := rfl
@[simp] theorem State.mapCore_transit (s : State) (n : Nat) (f : Core → Core) : (s.mapCore n f).transit = s.transit := rfl
@[simp] theorem State.mapCore_reqs (s : State) (n : Nat) (f : Core → Core) : (s.mapCore n f).reqs = s.reqs := rfl
@[simp] theorem State.mapCore_nextTxn (s : State) (n : Nat) (f : Core → Core) : (s.mapCore n f).nextTxn = s.nextTxn := rfl
@[simp] theorem State.mapCore_responses (s : State) (n : Nat) (f : Core → Core) : (s.mapCore n f).responses = s.responses := rfl
@[simp] theorem State.mapCore_gathering (s : State) (n : Nat) (f : Core → Core) : (s.mapCore n f).gathering = s.gathering := rfl
@[simp] theorem State.mapCore_lows (s : State) (n : Nat) (f : Core → Core) : (s.mapCore n f).lows = s.lows := rfl
@[simp] theorem State.mapCore_reconf (s : State) (n : Nat) (f : Core → Core) : (s.mapCore n f).reconf = s.reconf := rfl
@[simp] theorem State.mapCore_trainedAt (s : State) (n : Nat) (f : Core → Core) : (s.mapCore n f).trainedAt = s.trainedAt := rfl
@[simp] theorem State.mapCore_sec (s : State) (n : Nat) (f : Core → Core) : (s.mapCore n f).sec = s.sec := rfl
@[simp] theorem State.mapCore_dbg (s : State) (n : Nat) (f : Core → Core) : (s.mapCore n f).dbg = s.dbg := rfl
@[simp] theorem State.mapCore_pwr (s : State) (n : Nat) (f : Core → Core) : (s.mapCore n f).pwr = s.pwr := rfl
@[simp] theorem State.mapCore_clehild (s : State) (n : Nat) (f : Core → Core) : (s.mapCore n f).clehild = s.clehild := rfl
@[simp] theorem State.mapCore_outbox (s : State) (n : Nat) (f : Core → Core) : (s.mapCore n f).outbox = s.outbox := rfl
@[simp] theorem State.mapCore_streamed (s : State) (n : Nat) (f : Core → Core) : (s.mapCore n f).streamed = s.streamed := rfl
@[simp] theorem State.mapCore_sentPackets (s : State) (n : Nat) (f : Core → Core) : (s.mapCore n f).sentPackets = s.sentPackets := rfl
@[simp] theorem State.mapCore_sentBeats (s : State) (n : Nat) (f : Core → Core) : (s.mapCore n f).sentBeats = s.sentBeats := rfl
@[simp] theorem State.mapCore_sentSides (s : State) (n : Nat) (f : Core → Core) : (s.mapCore n f).sentSides = s.sentSides := rfl
@[simp] theorem State.mapCore_darkEnds (s : State) (n : Nat) (f : Core → Core) : (s.mapCore n f).darkEnds = s.darkEnds := rfl
@[simp] theorem State.mapCore_now (s : State) (n : Nat) (f : Core → Core) : (s.mapCore n f).now = s.now := rfl
@[simp] theorem State.mapCore_agenda (s : State) (n : Nat) (f : Core → Core) : (s.mapCore n f).agenda = s.agenda := rfl
@[simp] theorem State.mapCore_issuing (s : State) (n : Nat) (f : Core → Core) : (s.mapCore n f).issuing = s.issuing := rfl
@[simp] theorem State.mapCore_fresh (s : State) (n : Nat) (f : Core → Core) : (s.mapCore n f).fresh = s.fresh := rfl
@[simp] theorem State.mapCore_nextId (s : State) (n : Nat) (f : Core → Core) : (s.mapCore n f).nextId = s.nextId := rfl

/-! ### `State.mapDie` -/

@[simp] theorem State.mapDie_threads (s : State) (n : Nat) (f : Die → Die) : (s.mapDie n f).threads = s.threads := rfl
@[simp] theorem State.mapDie_units (s : State) (n : Nat) (f : Die → Die) : (s.mapDie n f).units = s.units := rfl
@[simp] theorem State.mapDie_strands (s : State) (n : Nat) (f : Die → Die) : (s.mapDie n f).strands = s.strands := rfl
@[simp] theorem State.mapDie_ops (s : State) (n : Nat) (f : Die → Die) : (s.mapDie n f).ops = s.ops := rfl
@[simp] theorem State.mapDie_cmds (s : State) (n : Nat) (f : Die → Die) : (s.mapDie n f).cmds = s.cmds := rfl
@[simp] theorem State.mapDie_cores (s : State) (n : Nat) (f : Die → Die) : (s.mapDie n f).cores = s.cores := rfl
@[simp] theorem State.mapDie_dies (s : State) (n : Nat) (f : Die → Die) : (s.mapDie n f).dies = Sparse.set {} s.dies n (f (s.die n)) := rfl
@[simp] theorem State.mapDie_clusters (s : State) (n : Nat) (f : Die → Die) : (s.mapDie n f).clusters = s.clusters := rfl
@[simp] theorem State.mapDie_slots (s : State) (n : Nat) (f : Die → Die) : (s.mapDie n f).slots = s.slots := rfl
@[simp] theorem State.mapDie_walks (s : State) (n : Nat) (f : Die → Die) : (s.mapDie n f).walks = s.walks := rfl
@[simp] theorem State.mapDie_mem (s : State) (n : Nat) (f : Die → Die) : (s.mapDie n f).mem = s.mem := rfl
@[simp] theorem State.mapDie_codes (s : State) (n : Nat) (f : Die → Die) : (s.mapDie n f).codes = s.codes := rfl
@[simp] theorem State.mapDie_codeWrites (s : State) (n : Nat) (f : Die → Die) : (s.mapDie n f).codeWrites = s.codeWrites := rfl
@[simp] theorem State.mapDie_homeDirty (s : State) (n : Nat) (f : Die → Die) : (s.mapDie n f).homeDirty = s.homeDirty := rfl
@[simp] theorem State.mapDie_claims (s : State) (n : Nat) (f : Die → Die) : (s.mapDie n f).claims = s.claims := rfl
@[simp] theorem State.mapDie_locks (s : State) (n : Nat) (f : Die → Die) : (s.mapDie n f).locks = s.locks := rfl
@[simp] theorem State.mapDie_lockWait (s : State) (n : Nat) (f : Die → Die) : (s.mapDie n f).lockWait = s.lockWait := rfl
@[simp] theorem State.mapDie_omega (s : State) (n : Nat) (f : Die → Die) : (s.mapDie n f).omega = s.omega := rfl
@[simp] theorem State.mapDie_sets (s : State) (n : Nat) (f : Die → Die) : (s.mapDie n f).sets = s.sets := rfl
@[simp] theorem State.mapDie_updates (s : State) (n : Nat) (f : Die → Die) : (s.mapDie n f).updates = s.updates := rfl
@[simp] theorem State.mapDie_pages (s : State) (n : Nat) (f : Die → Die) : (s.mapDie n f).pages = s.pages := rfl
@[simp] theorem State.mapDie_merges (s : State) (n : Nat) (f : Die → Die) : (s.mapDie n f).merges = s.merges := rfl
@[simp] theorem State.mapDie_mergeWait (s : State) (n : Nat) (f : Die → Die) : (s.mapDie n f).mergeWait = s.mergeWait := rfl
@[simp] theorem State.mapDie_closedMarks (s : State) (n : Nat) (f : Die → Die) : (s.mapDie n f).closedMarks = s.closedMarks := rfl
@[simp] theorem State.mapDie_saved (s : State) (n : Nat) (f : Die → Die) : (s.mapDie n f).saved = s.saved := rfl
@[simp] theorem State.mapDie_images (s : State) (n : Nat) (f : Die → Die) : (s.mapDie n f).images = s.images := rfl
@[simp] theorem State.mapDie_claimsGone (s : State) (n : Nat) (f : Die → Die) : (s.mapDie n f).claimsGone = s.claimsGone := rfl
@[simp] theorem State.mapDie_asks (s : State) (n : Nat) (f : Die → Die) : (s.mapDie n f).asks = s.asks := rfl
@[simp] theorem State.mapDie_gone (s : State) (n : Nat) (f : Die → Die) : (s.mapDie n f).gone = s.gone := rfl
@[simp] theorem State.mapDie_dev (s : State) (n : Nat) (f : Die → Die) : (s.mapDie n f).dev = s.dev := rfl
@[simp] theorem State.mapDie_groups (s : State) (n : Nat) (f : Die → Die) : (s.mapDie n f).groups = s.groups := rfl
@[simp] theorem State.mapDie_links (s : State) (n : Nat) (f : Die → Die) : (s.mapDie n f).links = s.links := rfl
@[simp] theorem State.mapDie_routes (s : State) (n : Nat) (f : Die → Die) : (s.mapDie n f).routes = s.routes := rfl
@[simp] theorem State.mapDie_transit (s : State) (n : Nat) (f : Die → Die) : (s.mapDie n f).transit = s.transit := rfl
@[simp] theorem State.mapDie_reqs (s : State) (n : Nat) (f : Die → Die) : (s.mapDie n f).reqs = s.reqs := rfl
@[simp] theorem State.mapDie_nextTxn (s : State) (n : Nat) (f : Die → Die) : (s.mapDie n f).nextTxn = s.nextTxn := rfl
@[simp] theorem State.mapDie_responses (s : State) (n : Nat) (f : Die → Die) : (s.mapDie n f).responses = s.responses := rfl
@[simp] theorem State.mapDie_gathering (s : State) (n : Nat) (f : Die → Die) : (s.mapDie n f).gathering = s.gathering := rfl
@[simp] theorem State.mapDie_lows (s : State) (n : Nat) (f : Die → Die) : (s.mapDie n f).lows = s.lows := rfl
@[simp] theorem State.mapDie_reconf (s : State) (n : Nat) (f : Die → Die) : (s.mapDie n f).reconf = s.reconf := rfl
@[simp] theorem State.mapDie_trainedAt (s : State) (n : Nat) (f : Die → Die) : (s.mapDie n f).trainedAt = s.trainedAt := rfl
@[simp] theorem State.mapDie_sec (s : State) (n : Nat) (f : Die → Die) : (s.mapDie n f).sec = s.sec := rfl
@[simp] theorem State.mapDie_dbg (s : State) (n : Nat) (f : Die → Die) : (s.mapDie n f).dbg = s.dbg := rfl
@[simp] theorem State.mapDie_pwr (s : State) (n : Nat) (f : Die → Die) : (s.mapDie n f).pwr = s.pwr := rfl
@[simp] theorem State.mapDie_clehild (s : State) (n : Nat) (f : Die → Die) : (s.mapDie n f).clehild = s.clehild := rfl
@[simp] theorem State.mapDie_outbox (s : State) (n : Nat) (f : Die → Die) : (s.mapDie n f).outbox = s.outbox := rfl
@[simp] theorem State.mapDie_streamed (s : State) (n : Nat) (f : Die → Die) : (s.mapDie n f).streamed = s.streamed := rfl
@[simp] theorem State.mapDie_sentPackets (s : State) (n : Nat) (f : Die → Die) : (s.mapDie n f).sentPackets = s.sentPackets := rfl
@[simp] theorem State.mapDie_sentBeats (s : State) (n : Nat) (f : Die → Die) : (s.mapDie n f).sentBeats = s.sentBeats := rfl
@[simp] theorem State.mapDie_sentSides (s : State) (n : Nat) (f : Die → Die) : (s.mapDie n f).sentSides = s.sentSides := rfl
@[simp] theorem State.mapDie_darkEnds (s : State) (n : Nat) (f : Die → Die) : (s.mapDie n f).darkEnds = s.darkEnds := rfl
@[simp] theorem State.mapDie_now (s : State) (n : Nat) (f : Die → Die) : (s.mapDie n f).now = s.now := rfl
@[simp] theorem State.mapDie_agenda (s : State) (n : Nat) (f : Die → Die) : (s.mapDie n f).agenda = s.agenda := rfl
@[simp] theorem State.mapDie_issuing (s : State) (n : Nat) (f : Die → Die) : (s.mapDie n f).issuing = s.issuing := rfl
@[simp] theorem State.mapDie_fresh (s : State) (n : Nat) (f : Die → Die) : (s.mapDie n f).fresh = s.fresh := rfl
@[simp] theorem State.mapDie_nextId (s : State) (n : Nat) (f : Die → Die) : (s.mapDie n f).nextId = s.nextId := rfl

/-! ### `State.mapOp` -/

@[simp] theorem State.mapOp_threads (s : State) (n : Nat) (f : Op → Op) : (s.mapOp n f).threads = s.threads := rfl
@[simp] theorem State.mapOp_units (s : State) (n : Nat) (f : Op → Op) : (s.mapOp n f).units = s.units := rfl
@[simp] theorem State.mapOp_strands (s : State) (n : Nat) (f : Op → Op) : (s.mapOp n f).strands = s.strands := rfl
@[simp] theorem State.mapOp_ops (s : State) (n : Nat) (f : Op → Op) : (s.mapOp n f).ops = s.ops.map (fun o => if o.id = n then f o else o) := rfl
@[simp] theorem State.mapOp_cmds (s : State) (n : Nat) (f : Op → Op) : (s.mapOp n f).cmds = s.cmds := rfl
@[simp] theorem State.mapOp_cores (s : State) (n : Nat) (f : Op → Op) : (s.mapOp n f).cores = s.cores := rfl
@[simp] theorem State.mapOp_dies (s : State) (n : Nat) (f : Op → Op) : (s.mapOp n f).dies = s.dies := rfl
@[simp] theorem State.mapOp_clusters (s : State) (n : Nat) (f : Op → Op) : (s.mapOp n f).clusters = s.clusters := rfl
@[simp] theorem State.mapOp_slots (s : State) (n : Nat) (f : Op → Op) : (s.mapOp n f).slots = s.slots := rfl
@[simp] theorem State.mapOp_walks (s : State) (n : Nat) (f : Op → Op) : (s.mapOp n f).walks = s.walks := rfl
@[simp] theorem State.mapOp_mem (s : State) (n : Nat) (f : Op → Op) : (s.mapOp n f).mem = s.mem := rfl
@[simp] theorem State.mapOp_codes (s : State) (n : Nat) (f : Op → Op) : (s.mapOp n f).codes = s.codes := rfl
@[simp] theorem State.mapOp_codeWrites (s : State) (n : Nat) (f : Op → Op) : (s.mapOp n f).codeWrites = s.codeWrites := rfl
@[simp] theorem State.mapOp_homeDirty (s : State) (n : Nat) (f : Op → Op) : (s.mapOp n f).homeDirty = s.homeDirty := rfl
@[simp] theorem State.mapOp_claims (s : State) (n : Nat) (f : Op → Op) : (s.mapOp n f).claims = s.claims := rfl
@[simp] theorem State.mapOp_locks (s : State) (n : Nat) (f : Op → Op) : (s.mapOp n f).locks = s.locks := rfl
@[simp] theorem State.mapOp_lockWait (s : State) (n : Nat) (f : Op → Op) : (s.mapOp n f).lockWait = s.lockWait := rfl
@[simp] theorem State.mapOp_omega (s : State) (n : Nat) (f : Op → Op) : (s.mapOp n f).omega = s.omega := rfl
@[simp] theorem State.mapOp_sets (s : State) (n : Nat) (f : Op → Op) : (s.mapOp n f).sets = s.sets := rfl
@[simp] theorem State.mapOp_updates (s : State) (n : Nat) (f : Op → Op) : (s.mapOp n f).updates = s.updates := rfl
@[simp] theorem State.mapOp_pages (s : State) (n : Nat) (f : Op → Op) : (s.mapOp n f).pages = s.pages := rfl
@[simp] theorem State.mapOp_merges (s : State) (n : Nat) (f : Op → Op) : (s.mapOp n f).merges = s.merges := rfl
@[simp] theorem State.mapOp_mergeWait (s : State) (n : Nat) (f : Op → Op) : (s.mapOp n f).mergeWait = s.mergeWait := rfl
@[simp] theorem State.mapOp_closedMarks (s : State) (n : Nat) (f : Op → Op) : (s.mapOp n f).closedMarks = s.closedMarks := rfl
@[simp] theorem State.mapOp_saved (s : State) (n : Nat) (f : Op → Op) : (s.mapOp n f).saved = s.saved := rfl
@[simp] theorem State.mapOp_images (s : State) (n : Nat) (f : Op → Op) : (s.mapOp n f).images = s.images := rfl
@[simp] theorem State.mapOp_claimsGone (s : State) (n : Nat) (f : Op → Op) : (s.mapOp n f).claimsGone = s.claimsGone := rfl
@[simp] theorem State.mapOp_asks (s : State) (n : Nat) (f : Op → Op) : (s.mapOp n f).asks = s.asks := rfl
@[simp] theorem State.mapOp_gone (s : State) (n : Nat) (f : Op → Op) : (s.mapOp n f).gone = s.gone := rfl
@[simp] theorem State.mapOp_dev (s : State) (n : Nat) (f : Op → Op) : (s.mapOp n f).dev = s.dev := rfl
@[simp] theorem State.mapOp_groups (s : State) (n : Nat) (f : Op → Op) : (s.mapOp n f).groups = s.groups := rfl
@[simp] theorem State.mapOp_links (s : State) (n : Nat) (f : Op → Op) : (s.mapOp n f).links = s.links := rfl
@[simp] theorem State.mapOp_routes (s : State) (n : Nat) (f : Op → Op) : (s.mapOp n f).routes = s.routes := rfl
@[simp] theorem State.mapOp_transit (s : State) (n : Nat) (f : Op → Op) : (s.mapOp n f).transit = s.transit := rfl
@[simp] theorem State.mapOp_reqs (s : State) (n : Nat) (f : Op → Op) : (s.mapOp n f).reqs = s.reqs := rfl
@[simp] theorem State.mapOp_nextTxn (s : State) (n : Nat) (f : Op → Op) : (s.mapOp n f).nextTxn = s.nextTxn := rfl
@[simp] theorem State.mapOp_responses (s : State) (n : Nat) (f : Op → Op) : (s.mapOp n f).responses = s.responses := rfl
@[simp] theorem State.mapOp_gathering (s : State) (n : Nat) (f : Op → Op) : (s.mapOp n f).gathering = s.gathering := rfl
@[simp] theorem State.mapOp_lows (s : State) (n : Nat) (f : Op → Op) : (s.mapOp n f).lows = s.lows := rfl
@[simp] theorem State.mapOp_reconf (s : State) (n : Nat) (f : Op → Op) : (s.mapOp n f).reconf = s.reconf := rfl
@[simp] theorem State.mapOp_trainedAt (s : State) (n : Nat) (f : Op → Op) : (s.mapOp n f).trainedAt = s.trainedAt := rfl
@[simp] theorem State.mapOp_sec (s : State) (n : Nat) (f : Op → Op) : (s.mapOp n f).sec = s.sec := rfl
@[simp] theorem State.mapOp_dbg (s : State) (n : Nat) (f : Op → Op) : (s.mapOp n f).dbg = s.dbg := rfl
@[simp] theorem State.mapOp_pwr (s : State) (n : Nat) (f : Op → Op) : (s.mapOp n f).pwr = s.pwr := rfl
@[simp] theorem State.mapOp_clehild (s : State) (n : Nat) (f : Op → Op) : (s.mapOp n f).clehild = s.clehild := rfl
@[simp] theorem State.mapOp_outbox (s : State) (n : Nat) (f : Op → Op) : (s.mapOp n f).outbox = s.outbox := rfl
@[simp] theorem State.mapOp_streamed (s : State) (n : Nat) (f : Op → Op) : (s.mapOp n f).streamed = s.streamed := rfl
@[simp] theorem State.mapOp_sentPackets (s : State) (n : Nat) (f : Op → Op) : (s.mapOp n f).sentPackets = s.sentPackets := rfl
@[simp] theorem State.mapOp_sentBeats (s : State) (n : Nat) (f : Op → Op) : (s.mapOp n f).sentBeats = s.sentBeats := rfl
@[simp] theorem State.mapOp_sentSides (s : State) (n : Nat) (f : Op → Op) : (s.mapOp n f).sentSides = s.sentSides := rfl
@[simp] theorem State.mapOp_darkEnds (s : State) (n : Nat) (f : Op → Op) : (s.mapOp n f).darkEnds = s.darkEnds := rfl
@[simp] theorem State.mapOp_now (s : State) (n : Nat) (f : Op → Op) : (s.mapOp n f).now = s.now := rfl
@[simp] theorem State.mapOp_agenda (s : State) (n : Nat) (f : Op → Op) : (s.mapOp n f).agenda = s.agenda := rfl
@[simp] theorem State.mapOp_issuing (s : State) (n : Nat) (f : Op → Op) : (s.mapOp n f).issuing = s.issuing := rfl
@[simp] theorem State.mapOp_fresh (s : State) (n : Nat) (f : Op → Op) : (s.mapOp n f).fresh = s.fresh := rfl
@[simp] theorem State.mapOp_nextId (s : State) (n : Nat) (f : Op → Op) : (s.mapOp n f).nextId = s.nextId := rfl

/-! ### `State.addOp` -/

@[simp] theorem State.addOp_threads (s : State) (o : Op) : (s.addOp o).threads = s.threads.map (fun x => if x.tid = o.tid then x.raise o.cls else x) := rfl
@[simp] theorem State.addOp_units (s : State) (o : Op) : (s.addOp o).units = s.units := rfl
@[simp] theorem State.addOp_strands (s : State) (o : Op) : (s.addOp o).strands = s.strands := rfl
@[simp] theorem State.addOp_ops (s : State) (o : Op) : (s.addOp o).ops = s.ops ++ [o] := rfl
@[simp] theorem State.addOp_cmds (s : State) (o : Op) : (s.addOp o).cmds = s.cmds := rfl
@[simp] theorem State.addOp_cores (s : State) (o : Op) : (s.addOp o).cores = s.cores := rfl
@[simp] theorem State.addOp_dies (s : State) (o : Op) : (s.addOp o).dies = s.dies := rfl
@[simp] theorem State.addOp_clusters (s : State) (o : Op) : (s.addOp o).clusters = s.clusters := rfl
@[simp] theorem State.addOp_slots (s : State) (o : Op) : (s.addOp o).slots = s.slots := rfl
@[simp] theorem State.addOp_walks (s : State) (o : Op) : (s.addOp o).walks = s.walks := rfl
@[simp] theorem State.addOp_mem (s : State) (o : Op) : (s.addOp o).mem = s.mem := rfl
@[simp] theorem State.addOp_codes (s : State) (o : Op) : (s.addOp o).codes = s.codes := rfl
@[simp] theorem State.addOp_codeWrites (s : State) (o : Op) : (s.addOp o).codeWrites = s.codeWrites := rfl
@[simp] theorem State.addOp_homeDirty (s : State) (o : Op) : (s.addOp o).homeDirty = s.homeDirty := rfl
@[simp] theorem State.addOp_claims (s : State) (o : Op) : (s.addOp o).claims = s.claims := rfl
@[simp] theorem State.addOp_locks (s : State) (o : Op) : (s.addOp o).locks = s.locks := rfl
@[simp] theorem State.addOp_lockWait (s : State) (o : Op) : (s.addOp o).lockWait = s.lockWait := rfl
@[simp] theorem State.addOp_omega (s : State) (o : Op) : (s.addOp o).omega = s.omega := rfl
@[simp] theorem State.addOp_sets (s : State) (o : Op) : (s.addOp o).sets = s.sets := rfl
@[simp] theorem State.addOp_updates (s : State) (o : Op) : (s.addOp o).updates = s.updates := rfl
@[simp] theorem State.addOp_pages (s : State) (o : Op) : (s.addOp o).pages = s.pages := rfl
@[simp] theorem State.addOp_merges (s : State) (o : Op) : (s.addOp o).merges = s.merges := rfl
@[simp] theorem State.addOp_mergeWait (s : State) (o : Op) : (s.addOp o).mergeWait = s.mergeWait := rfl
@[simp] theorem State.addOp_closedMarks (s : State) (o : Op) : (s.addOp o).closedMarks = s.closedMarks := rfl
@[simp] theorem State.addOp_saved (s : State) (o : Op) : (s.addOp o).saved = s.saved := rfl
@[simp] theorem State.addOp_images (s : State) (o : Op) : (s.addOp o).images = s.images := rfl
@[simp] theorem State.addOp_claimsGone (s : State) (o : Op) : (s.addOp o).claimsGone = s.claimsGone := rfl
@[simp] theorem State.addOp_asks (s : State) (o : Op) : (s.addOp o).asks = s.asks := rfl
@[simp] theorem State.addOp_gone (s : State) (o : Op) : (s.addOp o).gone = s.gone := rfl
@[simp] theorem State.addOp_dev (s : State) (o : Op) : (s.addOp o).dev = s.dev := rfl
@[simp] theorem State.addOp_groups (s : State) (o : Op) : (s.addOp o).groups = s.groups := rfl
@[simp] theorem State.addOp_links (s : State) (o : Op) : (s.addOp o).links = s.links := rfl
@[simp] theorem State.addOp_routes (s : State) (o : Op) : (s.addOp o).routes = s.routes := rfl
@[simp] theorem State.addOp_transit (s : State) (o : Op) : (s.addOp o).transit = s.transit := rfl
@[simp] theorem State.addOp_reqs (s : State) (o : Op) : (s.addOp o).reqs = s.reqs := rfl
@[simp] theorem State.addOp_nextTxn (s : State) (o : Op) : (s.addOp o).nextTxn = s.nextTxn := rfl
@[simp] theorem State.addOp_responses (s : State) (o : Op) : (s.addOp o).responses = s.responses := rfl
@[simp] theorem State.addOp_gathering (s : State) (o : Op) : (s.addOp o).gathering = s.gathering := rfl
@[simp] theorem State.addOp_lows (s : State) (o : Op) : (s.addOp o).lows = s.lows := rfl
@[simp] theorem State.addOp_reconf (s : State) (o : Op) : (s.addOp o).reconf = s.reconf := rfl
@[simp] theorem State.addOp_trainedAt (s : State) (o : Op) : (s.addOp o).trainedAt = s.trainedAt := rfl
@[simp] theorem State.addOp_sec (s : State) (o : Op) : (s.addOp o).sec = s.sec := rfl
@[simp] theorem State.addOp_dbg (s : State) (o : Op) : (s.addOp o).dbg = s.dbg := rfl
@[simp] theorem State.addOp_pwr (s : State) (o : Op) : (s.addOp o).pwr = s.pwr := rfl
@[simp] theorem State.addOp_clehild (s : State) (o : Op) : (s.addOp o).clehild = s.clehild := rfl
@[simp] theorem State.addOp_outbox (s : State) (o : Op) : (s.addOp o).outbox = s.outbox := rfl
@[simp] theorem State.addOp_streamed (s : State) (o : Op) : (s.addOp o).streamed = s.streamed := rfl
@[simp] theorem State.addOp_sentPackets (s : State) (o : Op) : (s.addOp o).sentPackets = s.sentPackets := rfl
@[simp] theorem State.addOp_sentBeats (s : State) (o : Op) : (s.addOp o).sentBeats = s.sentBeats := rfl
@[simp] theorem State.addOp_sentSides (s : State) (o : Op) : (s.addOp o).sentSides = s.sentSides := rfl
@[simp] theorem State.addOp_darkEnds (s : State) (o : Op) : (s.addOp o).darkEnds = s.darkEnds := rfl
@[simp] theorem State.addOp_now (s : State) (o : Op) : (s.addOp o).now = s.now := rfl
@[simp] theorem State.addOp_agenda (s : State) (o : Op) : (s.addOp o).agenda = s.agenda := rfl
@[simp] theorem State.addOp_issuing (s : State) (o : Op) : (s.addOp o).issuing = s.issuing := rfl
@[simp] theorem State.addOp_fresh (s : State) (o : Op) : (s.addOp o).fresh = s.fresh := rfl
@[simp] theorem State.addOp_nextId (s : State) (o : Op) : (s.addOp o).nextId = s.nextId + 1 := rfl

/-! ### `State.endBegun` -/

@[simp] theorem State.endBegun_threads (s : State) (l : List Nat) : (s.endBegun l).threads = s.threads.map (fun t => if l.contains t.tid then t.acted else t) := rfl
@[simp] theorem State.endBegun_units (s : State) (l : List Nat) : (s.endBegun l).units = s.units := rfl
@[simp] theorem State.endBegun_strands (s : State) (l : List Nat) : (s.endBegun l).strands = s.strands := rfl
@[simp] theorem State.endBegun_ops (s : State) (l : List Nat) : (s.endBegun l).ops = s.ops := rfl
@[simp] theorem State.endBegun_cmds (s : State) (l : List Nat) : (s.endBegun l).cmds = s.cmds := rfl
@[simp] theorem State.endBegun_cores (s : State) (l : List Nat) : (s.endBegun l).cores = s.cores := rfl
@[simp] theorem State.endBegun_dies (s : State) (l : List Nat) : (s.endBegun l).dies = s.dies := rfl
@[simp] theorem State.endBegun_clusters (s : State) (l : List Nat) : (s.endBegun l).clusters = s.clusters := rfl
@[simp] theorem State.endBegun_slots (s : State) (l : List Nat) : (s.endBegun l).slots = s.slots := rfl
@[simp] theorem State.endBegun_walks (s : State) (l : List Nat) : (s.endBegun l).walks = s.walks := rfl
@[simp] theorem State.endBegun_mem (s : State) (l : List Nat) : (s.endBegun l).mem = s.mem := rfl
@[simp] theorem State.endBegun_codes (s : State) (l : List Nat) : (s.endBegun l).codes = s.codes := rfl
@[simp] theorem State.endBegun_codeWrites (s : State) (l : List Nat) : (s.endBegun l).codeWrites = s.codeWrites := rfl
@[simp] theorem State.endBegun_homeDirty (s : State) (l : List Nat) : (s.endBegun l).homeDirty = s.homeDirty := rfl
@[simp] theorem State.endBegun_claims (s : State) (l : List Nat) : (s.endBegun l).claims = s.claims := rfl
@[simp] theorem State.endBegun_locks (s : State) (l : List Nat) : (s.endBegun l).locks = s.locks := rfl
@[simp] theorem State.endBegun_lockWait (s : State) (l : List Nat) : (s.endBegun l).lockWait = s.lockWait := rfl
@[simp] theorem State.endBegun_omega (s : State) (l : List Nat) : (s.endBegun l).omega = s.omega := rfl
@[simp] theorem State.endBegun_sets (s : State) (l : List Nat) : (s.endBegun l).sets = s.sets := rfl
@[simp] theorem State.endBegun_updates (s : State) (l : List Nat) : (s.endBegun l).updates = s.updates := rfl
@[simp] theorem State.endBegun_pages (s : State) (l : List Nat) : (s.endBegun l).pages = s.pages := rfl
@[simp] theorem State.endBegun_merges (s : State) (l : List Nat) : (s.endBegun l).merges = s.merges := rfl
@[simp] theorem State.endBegun_mergeWait (s : State) (l : List Nat) : (s.endBegun l).mergeWait = s.mergeWait := rfl
@[simp] theorem State.endBegun_closedMarks (s : State) (l : List Nat) : (s.endBegun l).closedMarks = s.closedMarks := rfl
@[simp] theorem State.endBegun_saved (s : State) (l : List Nat) : (s.endBegun l).saved = s.saved := rfl
@[simp] theorem State.endBegun_images (s : State) (l : List Nat) : (s.endBegun l).images = s.images := rfl
@[simp] theorem State.endBegun_claimsGone (s : State) (l : List Nat) : (s.endBegun l).claimsGone = s.claimsGone := rfl
@[simp] theorem State.endBegun_asks (s : State) (l : List Nat) : (s.endBegun l).asks = s.asks := rfl
@[simp] theorem State.endBegun_gone (s : State) (l : List Nat) : (s.endBegun l).gone = s.gone := rfl
@[simp] theorem State.endBegun_dev (s : State) (l : List Nat) : (s.endBegun l).dev = s.dev := rfl
@[simp] theorem State.endBegun_groups (s : State) (l : List Nat) : (s.endBegun l).groups = s.groups := rfl
@[simp] theorem State.endBegun_links (s : State) (l : List Nat) : (s.endBegun l).links = s.links := rfl
@[simp] theorem State.endBegun_routes (s : State) (l : List Nat) : (s.endBegun l).routes = s.routes := rfl
@[simp] theorem State.endBegun_transit (s : State) (l : List Nat) : (s.endBegun l).transit = s.transit := rfl
@[simp] theorem State.endBegun_reqs (s : State) (l : List Nat) : (s.endBegun l).reqs = s.reqs := rfl
@[simp] theorem State.endBegun_nextTxn (s : State) (l : List Nat) : (s.endBegun l).nextTxn = s.nextTxn := rfl
@[simp] theorem State.endBegun_responses (s : State) (l : List Nat) : (s.endBegun l).responses = s.responses := rfl
@[simp] theorem State.endBegun_gathering (s : State) (l : List Nat) : (s.endBegun l).gathering = s.gathering := rfl
@[simp] theorem State.endBegun_lows (s : State) (l : List Nat) : (s.endBegun l).lows = s.lows := rfl
@[simp] theorem State.endBegun_reconf (s : State) (l : List Nat) : (s.endBegun l).reconf = s.reconf := rfl
@[simp] theorem State.endBegun_trainedAt (s : State) (l : List Nat) : (s.endBegun l).trainedAt = s.trainedAt := rfl
@[simp] theorem State.endBegun_sec (s : State) (l : List Nat) : (s.endBegun l).sec = s.sec := rfl
@[simp] theorem State.endBegun_dbg (s : State) (l : List Nat) : (s.endBegun l).dbg = s.dbg := rfl
@[simp] theorem State.endBegun_pwr (s : State) (l : List Nat) : (s.endBegun l).pwr = s.pwr := rfl
@[simp] theorem State.endBegun_clehild (s : State) (l : List Nat) : (s.endBegun l).clehild = s.clehild := rfl
@[simp] theorem State.endBegun_outbox (s : State) (l : List Nat) : (s.endBegun l).outbox = s.outbox := rfl
@[simp] theorem State.endBegun_streamed (s : State) (l : List Nat) : (s.endBegun l).streamed = s.streamed := rfl
@[simp] theorem State.endBegun_sentPackets (s : State) (l : List Nat) : (s.endBegun l).sentPackets = s.sentPackets := rfl
@[simp] theorem State.endBegun_sentBeats (s : State) (l : List Nat) : (s.endBegun l).sentBeats = s.sentBeats := rfl
@[simp] theorem State.endBegun_sentSides (s : State) (l : List Nat) : (s.endBegun l).sentSides = s.sentSides := rfl
@[simp] theorem State.endBegun_darkEnds (s : State) (l : List Nat) : (s.endBegun l).darkEnds = s.darkEnds := rfl
@[simp] theorem State.endBegun_now (s : State) (l : List Nat) : (s.endBegun l).now = s.now := rfl
@[simp] theorem State.endBegun_agenda (s : State) (l : List Nat) : (s.endBegun l).agenda = s.agenda := rfl
@[simp] theorem State.endBegun_issuing (s : State) (l : List Nat) : (s.endBegun l).issuing = s.issuing := rfl
@[simp] theorem State.endBegun_fresh (s : State) (l : List Nat) : (s.endBegun l).fresh = s.fresh := rfl
@[simp] theorem State.endBegun_nextId (s : State) (l : List Nat) : (s.endBegun l).nextId = s.nextId := rfl

/-! ### `Thread.setReg` -/

@[simp] theorem Thread.setReg_tid (t : Thread) (r : Reg) (v : Word) (k : Tag) : (t.setReg r v k).tid = t.tid := rfl
@[simp] theorem Thread.setReg_core (t : Thread) (r : Reg) (v : Word) (k : Tag) : (t.setReg r v k).core = t.core := rfl
@[simp] theorem Thread.setReg_slot (t : Thread) (r : Reg) (v : Word) (k : Tag) : (t.setReg r v k).slot = t.slot := rfl
@[simp] theorem Thread.setReg_unit (t : Thread) (r : Reg) (v : Word) (k : Tag) : (t.setReg r v k).unit = t.unit := rfl
@[simp] theorem Thread.setReg_index (t : Thread) (r : Reg) (v : Word) (k : Tag) : (t.setReg r v k).index = t.index := rfl
@[simp] theorem Thread.setReg_pc (t : Thread) (r : Reg) (v : Word) (k : Tag) : (t.setReg r v k).pc = t.pc := rfl
@[simp] theorem Thread.setReg_blk (t : Thread) (r : Reg) (v : Word) (k : Tag) : (t.setReg r v k).blk = t.blk := rfl
@[simp] theorem Thread.setReg_budget (t : Thread) (r : Reg) (v : Word) (k : Tag) : (t.setReg r v k).budget = t.budget := rfl
@[simp] theorem Thread.setReg_regs (t : Thread) (r : Reg) (v : Word) (k : Tag) : (t.setReg r v k).regs = Sparse.set {} t.regs r.toNat { val := v, tag := k } := rfl
@[simp] theorem Thread.setReg_modeD (t : Thread) (r : Reg) (v : Word) (k : Tag) : (t.setReg r v k).modeD = t.modeD := rfl
@[simp] theorem Thread.setReg_modeP (t : Thread) (r : Reg) (v : Word) (k : Tag) : (t.setReg r v k).modeP = t.modeP := rfl
@[simp] theorem Thread.setReg_modeT (t : Thread) (r : Reg) (v : Word) (k : Tag) : (t.setReg r v k).modeT = t.modeT := rfl
@[simp] theorem Thread.setReg_level (t : Thread) (r : Reg) (v : Word) (k : Tag) : (t.setReg r v k).level = t.level := rfl
@[simp] theorem Thread.setReg_ld (t : Thread) (r : Reg) (v : Word) (k : Tag) : (t.setReg r v k).ld = t.ld := rfl
@[simp] theorem Thread.setReg_st (t : Thread) (r : Reg) (v : Word) (k : Tag) : (t.setReg r v k).st = t.st := rfl
@[simp] theorem Thread.setReg_cp (t : Thread) (r : Reg) (v : Word) (k : Tag) : (t.setReg r v k).cp = t.cp := rfl
@[simp] theorem Thread.setReg_tl (t : Thread) (r : Reg) (v : Word) (k : Tag) : (t.setReg r v k).tl = t.tl := rfl
@[simp] theorem Thread.setReg_depth (t : Thread) (r : Reg) (v : Word) (k : Tag) : (t.setReg r v k).depth = t.depth := rfl
@[simp] theorem Thread.setReg_field (t : Thread) (r : Reg) (v : Word) (k : Tag) : (t.setReg r v k).field = t.field := rfl
@[simp] theorem Thread.setReg_cycLatch (t : Thread) (r : Reg) (v : Word) (k : Tag) : (t.setReg r v k).cycLatch = t.cycLatch := rfl
@[simp] theorem Thread.setReg_cycLoaded (t : Thread) (r : Reg) (v : Word) (k : Tag) : (t.setReg r v k).cycLoaded = t.cycLoaded := rfl
@[simp] theorem Thread.setReg_record (t : Thread) (r : Reg) (v : Word) (k : Tag) : (t.setReg r v k).record = t.record := rfl
@[simp] theorem Thread.setReg_everFaulted (t : Thread) (r : Reg) (v : Word) (k : Tag) : (t.setReg r v k).everFaulted = t.everFaulted := rfl
@[simp] theorem Thread.setReg_handler (t : Thread) (r : Reg) (v : Word) (k : Tag) : (t.setReg r v k).handler = t.handler := rfl
@[simp] theorem Thread.setReg_emul (t : Thread) (r : Reg) (v : Word) (k : Tag) : (t.setReg r v k).emul = t.emul := rfl
@[simp] theorem Thread.setReg_ieWord (t : Thread) (r : Reg) (v : Word) (k : Tag) : (t.setReg r v k).ieWord = t.ieWord := rfl
@[simp] theorem Thread.setReg_iePc (t : Thread) (r : Reg) (v : Word) (k : Tag) : (t.setReg r v k).iePc = t.iePc := rfl
@[simp] theorem Thread.setReg_ieBlk (t : Thread) (r : Reg) (v : Word) (k : Tag) : (t.setReg r v k).ieBlk = t.ieBlk := rfl
@[simp] theorem Thread.setReg_parkPoint (t : Thread) (r : Reg) (v : Word) (k : Tag) : (t.setReg r v k).parkPoint = t.parkPoint := rfl
@[simp] theorem Thread.setReg_parkBlk (t : Thread) (r : Reg) (v : Word) (k : Tag) : (t.setReg r v k).parkBlk = t.parkBlk := rfl
@[simp] theorem Thread.setReg_held (t : Thread) (r : Reg) (v : Word) (k : Tag) : (t.setReg r v k).held = t.held := rfl
@[simp] theorem Thread.setReg_state (t : Thread) (r : Reg) (v : Word) (k : Tag) : (t.setReg r v k).state = t.state := rfl
@[simp] theorem Thread.setReg_owes (t : Thread) (r : Reg) (v : Word) (k : Tag) : (t.setReg r v k).owes = t.owes := rfl
@[simp] theorem Thread.setReg_begun (t : Thread) (r : Reg) (v : Word) (k : Tag) : (t.setReg r v k).begun = t.begun := rfl
@[simp] theorem Thread.setReg_descr (t : Thread) (r : Reg) (v : Word) (k : Tag) : (t.setReg r v k).descr = t.descr := rfl
@[simp] theorem Thread.setReg_checked (t : Thread) (r : Reg) (v : Word) (k : Tag) : (t.setReg r v k).checked = t.checked := rfl
@[simp] theorem Thread.setReg_pages (t : Thread) (r : Reg) (v : Word) (k : Tag) : (t.setReg r v k).pages = t.pages := rfl
@[simp] theorem Thread.setReg_lpWritten (t : Thread) (r : Reg) (v : Word) (k : Tag) : (t.setReg r v k).lpWritten = t.lpWritten := rfl

/-! ### `Thread.setPair` -/

@[simp] theorem Thread.setPair_tid (t : Thread) (r : Reg) (v : Pair) (k : Tag) : (t.setPair r v k).tid = t.tid := rfl
@[simp] theorem Thread.setPair_core (t : Thread) (r : Reg) (v : Pair) (k : Tag) : (t.setPair r v k).core = t.core := rfl
@[simp] theorem Thread.setPair_slot (t : Thread) (r : Reg) (v : Pair) (k : Tag) : (t.setPair r v k).slot = t.slot := rfl
@[simp] theorem Thread.setPair_unit (t : Thread) (r : Reg) (v : Pair) (k : Tag) : (t.setPair r v k).unit = t.unit := rfl
@[simp] theorem Thread.setPair_index (t : Thread) (r : Reg) (v : Pair) (k : Tag) : (t.setPair r v k).index = t.index := rfl
@[simp] theorem Thread.setPair_pc (t : Thread) (r : Reg) (v : Pair) (k : Tag) : (t.setPair r v k).pc = t.pc := rfl
@[simp] theorem Thread.setPair_blk (t : Thread) (r : Reg) (v : Pair) (k : Tag) : (t.setPair r v k).blk = t.blk := rfl
@[simp] theorem Thread.setPair_budget (t : Thread) (r : Reg) (v : Pair) (k : Tag) : (t.setPair r v k).budget = t.budget := rfl
@[simp] theorem Thread.setPair_modeD (t : Thread) (r : Reg) (v : Pair) (k : Tag) : (t.setPair r v k).modeD = t.modeD := rfl
@[simp] theorem Thread.setPair_modeP (t : Thread) (r : Reg) (v : Pair) (k : Tag) : (t.setPair r v k).modeP = t.modeP := rfl
@[simp] theorem Thread.setPair_modeT (t : Thread) (r : Reg) (v : Pair) (k : Tag) : (t.setPair r v k).modeT = t.modeT := rfl
@[simp] theorem Thread.setPair_level (t : Thread) (r : Reg) (v : Pair) (k : Tag) : (t.setPair r v k).level = t.level := rfl
@[simp] theorem Thread.setPair_ld (t : Thread) (r : Reg) (v : Pair) (k : Tag) : (t.setPair r v k).ld = t.ld := rfl
@[simp] theorem Thread.setPair_st (t : Thread) (r : Reg) (v : Pair) (k : Tag) : (t.setPair r v k).st = t.st := rfl
@[simp] theorem Thread.setPair_cp (t : Thread) (r : Reg) (v : Pair) (k : Tag) : (t.setPair r v k).cp = t.cp := rfl
@[simp] theorem Thread.setPair_tl (t : Thread) (r : Reg) (v : Pair) (k : Tag) : (t.setPair r v k).tl = t.tl := rfl
@[simp] theorem Thread.setPair_depth (t : Thread) (r : Reg) (v : Pair) (k : Tag) : (t.setPair r v k).depth = t.depth := rfl
@[simp] theorem Thread.setPair_field (t : Thread) (r : Reg) (v : Pair) (k : Tag) : (t.setPair r v k).field = t.field := rfl
@[simp] theorem Thread.setPair_cycLatch (t : Thread) (r : Reg) (v : Pair) (k : Tag) : (t.setPair r v k).cycLatch = t.cycLatch := rfl
@[simp] theorem Thread.setPair_cycLoaded (t : Thread) (r : Reg) (v : Pair) (k : Tag) : (t.setPair r v k).cycLoaded = t.cycLoaded := rfl
@[simp] theorem Thread.setPair_record (t : Thread) (r : Reg) (v : Pair) (k : Tag) : (t.setPair r v k).record = t.record := rfl
@[simp] theorem Thread.setPair_everFaulted (t : Thread) (r : Reg) (v : Pair) (k : Tag) : (t.setPair r v k).everFaulted = t.everFaulted := rfl
@[simp] theorem Thread.setPair_handler (t : Thread) (r : Reg) (v : Pair) (k : Tag) : (t.setPair r v k).handler = t.handler := rfl
@[simp] theorem Thread.setPair_emul (t : Thread) (r : Reg) (v : Pair) (k : Tag) : (t.setPair r v k).emul = t.emul := rfl
@[simp] theorem Thread.setPair_ieWord (t : Thread) (r : Reg) (v : Pair) (k : Tag) : (t.setPair r v k).ieWord = t.ieWord := rfl
@[simp] theorem Thread.setPair_iePc (t : Thread) (r : Reg) (v : Pair) (k : Tag) : (t.setPair r v k).iePc = t.iePc := rfl
@[simp] theorem Thread.setPair_ieBlk (t : Thread) (r : Reg) (v : Pair) (k : Tag) : (t.setPair r v k).ieBlk = t.ieBlk := rfl
@[simp] theorem Thread.setPair_parkPoint (t : Thread) (r : Reg) (v : Pair) (k : Tag) : (t.setPair r v k).parkPoint = t.parkPoint := rfl
@[simp] theorem Thread.setPair_parkBlk (t : Thread) (r : Reg) (v : Pair) (k : Tag) : (t.setPair r v k).parkBlk = t.parkBlk := rfl
@[simp] theorem Thread.setPair_held (t : Thread) (r : Reg) (v : Pair) (k : Tag) : (t.setPair r v k).held = t.held := rfl
@[simp] theorem Thread.setPair_state (t : Thread) (r : Reg) (v : Pair) (k : Tag) : (t.setPair r v k).state = t.state := rfl
@[simp] theorem Thread.setPair_owes (t : Thread) (r : Reg) (v : Pair) (k : Tag) : (t.setPair r v k).owes = t.owes := rfl
@[simp] theorem Thread.setPair_begun (t : Thread) (r : Reg) (v : Pair) (k : Tag) : (t.setPair r v k).begun = t.begun := rfl
@[simp] theorem Thread.setPair_descr (t : Thread) (r : Reg) (v : Pair) (k : Tag) : (t.setPair r v k).descr = t.descr := rfl
@[simp] theorem Thread.setPair_checked (t : Thread) (r : Reg) (v : Pair) (k : Tag) : (t.setPair r v k).checked = t.checked := rfl
@[simp] theorem Thread.setPair_pages (t : Thread) (r : Reg) (v : Pair) (k : Tag) : (t.setPair r v k).pages = t.pages := rfl
@[simp] theorem Thread.setPair_lpWritten (t : Thread) (r : Reg) (v : Pair) (k : Tag) : (t.setPair r v k).lpWritten = t.lpWritten := rfl

end Sys2Proof.Machine
end

