-- ==== Sys2Proof/Laws/Issue.lean ====
section
/-!
SUPPORT. What the issue of one word does, said once: for a word that changes its threads' registers alone, over every member of the
strand; for any word, over a strand of one thread.
-/
namespace Sys2Proof.Machine

/-! ### Changing the threads of a list -/

/-- The threads whose names stand in a list are changed. -/
def State.mapIn (s : State) (l : List Nat) (g : Thread → Thread) : State :=
  { s with threads := s.threads.map (fun t => if l.contains t.tid then g t else t) }

theorem State.mapIn_nil (s : State) (g : Thread → Thread) : s.mapIn [] g = s := by
  simp [State.mapIn]

theorem find?_map_tid (l : List Thread) (g : Thread → Thread) (hg : ∀ t, (g t).tid = t.tid) (n : Nat) :
    (l.map g).find? (fun t => t.tid == n) = (l.find? (fun t => t.tid == n)).map g := by
  induction l with
  | nil => rfl
  | cons a r ih => rw [List.map_cons, List.find?_cons, List.find?_cons, hg, ih]; split <;> rfl

theorem State.thread?_mapIn (s : State) (l : List Nat) (g : Thread → Thread) (hg : ∀ t, (g t).tid = t.tid) (n : Nat) :
    (s.mapIn l g).thread? n = (s.thread? n).map (fun t => if l.contains t.tid then g t else t) :=
  find?_map_tid _ _ (by intro t; split <;> simp [hg]) n

theorem State.thread?_tid {s : State} {n : Nat} {t : Thread} (h : s.thread? n = some t) : t.tid = n := by
  have := List.find?_some h; simpa using this

theorem State.thread?_mem {s : State} {n : Nat} {t : Thread} (h : s.thread? n = some t) : t ∈ s.threads :=
  List.mem_of_find?_eq_some h

/-- A thread of the machine is the thread of its name. -/
theorem State.eq_of_threadsNamed {s : State} (h : s.threadsNamed) {n : Nat} {t x : Thread} (ht : s.thread? n = some t)
    (hx : x ∈ s.threads) (hn : x.tid = n) : x = t := by
  have htn := State.thread?_tid ht
  have htm := State.thread?_mem ht
  exact List.inj_on_of_nodup_map h hx htm (by rw [hn, htn])

theorem State.threadsNamed_mapIn {s : State} (h : s.threadsNamed) (l : List Nat) (g : Thread → Thread)
    (hg : ∀ t, (g t).tid = t.tid) : (s.mapIn l g).threadsNamed := by
  unfold State.threadsNamed State.mapIn
  rw [List.map_map]
  rw [show ((fun t : Thread => t.tid) ∘ fun t => if l.contains t.tid then g t else t) = (fun t => t.tid) from ?_]
  · exact h
  · funext t; simp only [Function.comp]; split <;> simp [hg]

theorem State.setThread_eq_mapIn {s : State} (h : s.threadsNamed) {n : Nat} {t : Thread} (ht : s.thread? n = some t)
    (g : Thread → Thread) (hg : (g t).tid = t.tid) : s.setThread (g t) = s.mapIn [n] g := by
  have htn := State.thread?_tid ht
  unfold State.setThread State.mapIn
  congr 1
  apply List.map_congr_left
  intro x hx
  by_cases hxn : x.tid = n
  · have := State.eq_of_threadsNamed h ht hx hxn
    subst this; simp [hg, hxn]
  · simp [hg, htn, hxn]

theorem State.mapIn_mapIn (s : State) (l k : List Nat) (g : Thread → Thread) (hg : ∀ t, (g t).tid = t.tid)
    (hd : ∀ n ∈ k, n ∉ l) : (s.mapIn l g).mapIn k g = s.mapIn (l ++ k) g := by
  unfold State.mapIn
  simp only [List.map_map]
  congr 1
  apply List.map_congr_left
  intro t _
  simp only [Function.comp, List.contains_iff_mem, List.mem_append]
  by_cases h1 : t.tid ∈ l
  · have h2 : t.tid ∉ k := fun h => hd _ h h1
    simp [h1, h2, hg]
  · simp [h1]

/-- Changing a thread twice. -/
theorem State.mapIn_comp (s : State) (l : List Nat) (g f : Thread → Thread) (hg : ∀ t, (g t).tid = t.tid) :
    (s.mapIn l g).mapIn l f = s.mapIn l (fun t => f (g t)) := by
  unfold State.mapIn
  simp only [List.map_map]
  congr 1
  apply List.map_congr_left
  intro t _
  simp only [Function.comp, List.contains_iff_mem]
  by_cases h1 : t.tid ∈ l <;> simp [h1, hg]

theorem State.endBegun_eq (s : State) (l : List Nat) : s.endBegun l = s.mapIn l Thread.acted := rfl

/-! ### The checks -/

/-- Steps 3 to 6 of 03 R77 find nothing where the word is placed well and the operands are ready. -/
theorem commonStop_none {s : State} {sh : Shape} {t : Thread} (hl : sh.level = .user) (hp : sh.past = none)
    (h : OperandsReady s t sh.named sh.reads) : commonStop s false sh t = none := by
  have h1 : t.level.allows sh.level = true := by rw [hl]; cases t.level <;> rfl
  have h2 : beyond t sh.named = none := by
    unfold beyond
    rw [List.find?_eq_none]
    intro r hr
    have := h.budget r hr
    simp; omega
  have h3 : s.pendingOn t.tid sh.named = none := by
    unfold State.pendingOn
    rw [Option.map_eq_none_iff, List.find?_eq_none]
    intro o ho
    simp only [Bool.and_eq_true, beq_iff_eq, List.any_eq_true, List.contains_iff_mem, not_and, not_exists]
    intro h4 r hr h5
    exact h.free o ho h4 r hr h5
  have h4 : sh.reads.all t.operandOk = true := by
    rw [List.all_eq_true]; exact h.tags
  have h5 : (sh.reads.any t.needsField && (s.fieldFrac t).isNone) = false := by
    rw [Bool.and_eq_false_iff]
    by_cases hn : ∃ p ∈ sh.reads, t.needsField p = true
    · right
      have := h.field hn
      cases hf : s.fieldFrac t <;> simp_all
    · left
      rw [Bool.eq_false_iff]
      intro hc
      exact hn (List.any_eq_true.mp hc)
  unfold commonStop
  simp [h1, h2, h3, h4, h5, hp]

theorem OperandsReady.congr {s s' : State} {t t' : Thread} {n : List Reg} {r : List (Cls × Reg)} (h : OperandsReady s t n r)
    (ho : s'.ops = s.ops) (hf : s'.fieldFrac t' = s.fieldFrac t) (ht : t'.tid = t.tid) (hb : t'.budget = t.budget)
    (hr : t'.regs = t.regs) (hm : t'.modeT = t.modeT) : OperandsReady s' t' n r := by
  have hreg : ∀ q, t'.reg q = t.reg q := by intro q; unfold Thread.reg; rw [hr]
  refine ⟨?_, ?_, ?_, ?_⟩
  · intro q hq; rw [hb]; exact h.budget q hq
  · intro o h1 h2; rw [ho] at h1; rw [ht] at h2; exact h.free o h1 h2
  · intro p hp
    have := h.tags p hp
    simpa [Thread.operandOk, Thread.tagOk, hreg, hm] using this
  · rintro ⟨p, hp, h1⟩
    rw [hf]
    exact h.field ⟨p, hp, by simpa [Thread.needsField, hreg] using h1⟩

/-! ### A word that changes its threads' registers alone -/

/-- What a word of that kind does to one thread. -/
def regAct (f : Hints → Nat → Thread → Thread) (s : State) (h : Hints) (t : Thread) : Thread :=
  f h ((s.fieldFrac t).getD 0) t.acted

/-- The word leaves the thread's name, place and current field as they are. -/
def KeepsPlace (f : Hints → Nat → Thread → Thread) : Prop :=
  ∀ h k t, (f h k t).tid = t.tid

theorem State.fieldFrac_congr {s s' : State} {t t' : Thread} (hs : s'.slots = s.slots) (hu : s'.units.map (fun u => (u.uid, u.slot)) =
    s.units.map (fun u => (u.uid, u.slot))) (h1 : t'.unit = t.unit) (h2 : t'.field = t.field) :
    s'.fieldFrac t' = s.fieldFrac t := by
  have key : s'.slotOf t' = s.slotOf t := by
    unfold State.slotOf State.unitOf State.unit?
    rw [h1]
    generalize s'.units = a at hu
    generalize s.units = b at hu
    induction a generalizing b with
    | nil => cases b with
      | nil => rfl
      | cons y r => simp at hu
    | cons x q ih => cases b with
      | nil => simp at hu
      | cons y r =>
        simp only [List.map_cons, List.cons.injEq, Prod.mk.injEq] at hu
        obtain ⟨⟨e1, e2⟩, e3⟩ := hu
        simp only [List.find?_cons, e1]
        cases hc : (y.uid == t.unit)
        · exact ih r e3
        · simp [e2]
  unfold State.fieldFrac State.slot
  rw [h2, key, hs]

section Words

variable {s : State} {c : Ctx} {D : List Nat} {g : Thread → Thread}

/-- Each thread of a list acts by itself. -/
theorem eachThread_regs {f : Hints → Nat → Thread → Thread} (hn : s.threadsNamed) (hg : ∀ t, (g t).tid = t.tid)
    (ts : List Thread) (hts : ∀ t ∈ ts, s.thread? t.tid = some t) (hd : (ts.map (fun t => t.tid)).Nodup)
    (hgf : ∀ (s' : State) t, t ∈ ts → s'.slots = s.slots → s'.units = s.units → f c.hints ((s'.fieldFrac t).getD 0) t = g t) :
    eachThread (α := Unit) (fun s c t _ => (s.setThread (f c.hints ((s.fieldFrac t).getD 0) t), After.go)) s c
      (ts.map (fun t => (t.tid, ()))) = (s.mapIn (ts.map (fun t => t.tid)) g, ts.map (fun t => (t.tid, After.go))) := by
  induction ts generalizing s with
  | nil => simp [eachThread, State.mapIn_nil]
  | cons t r ih =>
    have ht := hts t (by simp)
    have hd' : t.tid ∉ r.map (fun t => t.tid) ∧ (r.map (fun t => t.tid)).Nodup := List.nodup_cons.mp hd
    have hset : s.setThread (g t) = s.mapIn [t.tid] g := State.setThread_eq_mapIn hn ht g (hg t)
    have hr : ∀ u ∈ r, (s.mapIn [t.tid] g).thread? u.tid = some u := by
      intro u hu
      rw [State.thread?_mapIn _ _ _ hg, hts u (by simp [hu])]
      have : u.tid ≠ t.tid := by
        intro h; apply hd'.1; rw [← h]; exact List.mem_map_of_mem hu
      simp [this]
    have := ih (s := s.mapIn [t.tid] g) (State.threadsNamed_mapIn hn _ _ hg) hr hd'.2
      (fun s' u hu h1 h2 => hgf s' u (by simp [hu]) h1 h2)
    simp only [List.map_cons, eachThread, ht, hgf s t (by simp) rfl rfl, hset, this]
    rw [State.mapIn_mapIn _ _ _ _ hg]
    · rfl
    · intro n hn' h
      simp only [List.mem_singleton] at h
      subst h
      exact hd'.1 (by simpa using hn')

/-- The checks of a list of threads that all pass. -/
theorem checkAll_ok {m : Meaning Unit} (hm : m.pre = noCheck) (ts : List Thread)
    (h : ∀ t ∈ ts, commonStop s (m.misplaced c) (m.shape c.hints) t = none) :
    m.checkAll s c ts = (s, ts.map (fun t => (t.tid, .ok ()))) := by
  induction ts with
  | nil => rfl
  | cons t r ih =>
    have h1 : m.check s c t = (s, .ok ()) := by
      unfold Meaning.check
      rw [h t (by simp), hm]; rfl
    simp only [Meaning.checkAll, h1, ih (fun t ht => h t (by simp [ht])), List.map_cons]

theorem passed_ok {α : Type} (ts : List Thread) (x : α) :
    passed (ts.map (fun t => (t.tid, (Except.ok x : Except Stop α)))) = ts.map (fun t => (t.tid, x)) := by
  induction ts with
  | nil => rfl
  | cons t r ih => simp only [passed] at ih ⊢; simp [ih]

theorem stops_ok {α : Type} (ts : List Thread) (x : α) :
    stops (ts.map (fun t => (t.tid, (Except.ok x : Except Stop α)))) = [] := by
  induction ts with
  | nil => rfl
  | cons t r ih => simp only [stops] at ih ⊢; simp [ih]

theorem faults_ok {α : Type} (ts : List Thread) (x : α) :
    faults (ts.map (fun t => (t.tid, (Except.ok x : Except Stop α)))) = [] := by
  induction ts with
  | nil => rfl
  | cons t r ih => simp only [faults] at ih ⊢; simp [ih]

end Words

theorem State.groupsOf_flatten (s : State) (ts : List Thread) : (s.groupsOf ts).flatten = ts := by
  induction ts with
  | nil => rfl
  | cons t r ih =>
    unfold State.groupsOf
    generalize s.groupsOf r = gs at ih ⊢
    cases gs with
    | nil => simp at ih; simp [ih]
    | cons a q =>
      cases a with
      | nil => simp at ih; simp [ih]
      | cons u v => simp only; split <;> simpa using ih

theorem State.parties_flatten (s : State) (c : Ctx) (ts : List Thread) : (s.parties c ts).flatten = ts := by
  unfold State.parties
  split
  · exact State.groupsOf_flatten s ts
  · induction ts with
    | nil => rfl
    | cons t r ih => simp only [List.map_cons, List.flatten_cons, ih]; rfl

/-- What the meaning of `regWord` is. -/
def regMeaning (shape : Hints → Shape) (illegal : Hints → Bool) (hx : Bool) (f : Hints → Nat → Thread → Thread) : Meaning Unit :=
  { shape := shape, illegal := illegal, hx := hx, pre := noCheck,
    act := eachThread (fun s c t _ => (s.setThread (f c.hints ((s.fieldFrac t).getD 0) t), .go)) }

/-- What `regWord` does to one thread, with the state in which the word starts. -/
def State.regOn (s : State) (f : Hints → Nat → Thread → Thread) (h : Hints) (t : Thread) : Thread :=
  f h ((s.fieldFrac t).getD 0) t.acted

theorem State.fieldFrac_eq {s s' : State} {t t' : Thread} (hs : s'.slots = s.slots) (hu : s'.units = s.units)
    (h1 : t'.unit = t.unit) (h2 : t'.field = t.field) : s'.fieldFrac t' = s.fieldFrac t :=
  State.fieldFrac_congr hs (by rw [hu]) h1 h2

theorem party_regs {s : State} {c : Ctx} {shape : Hints → Shape} {illegal : Hints → Bool} {hx : Bool}
    {f : Hints → Nat → Thread → Thread} (hn : s.threadsNamed) (hk : KeepsPlace f) (D : List Nat) (ts : List Thread)
    (hts : ∀ t ∈ ts, s.thread? t.tid = some t) (hd : (ts.map (fun t => t.tid)).Nodup) (hD : ∀ t ∈ ts, t.tid ∉ D)
    (hp : (regMeaning shape illegal hx f).misplaced c = false) (hl : (shape c.hints).level = .user) (hpa : (shape c.hints).past = none)
    (hr : ∀ t ∈ ts, OperandsReady s t (shape c.hints).named (shape c.hints).reads) :
    (regMeaning shape illegal hx f).party (s.mapIn D (s.regOn f c.hints)) c ts =
      (s.mapIn (D ++ ts.map (fun t => t.tid)) (s.regOn f c.hints), ts.map (fun t => (t.tid, After.go)), []) := by
  have hG : ∀ t, (s.regOn f c.hints t).tid = t.tid := fun t => hk _ _ _
  generalize hsD : s.mapIn D (s.regOn f c.hints) = sD
  have hops : sD.ops = s.ops := by rw [← hsD]; rfl
  have hslots : sD.slots = s.slots := by rw [← hsD]; rfl
  have hunits : sD.units = s.units := by rw [← hsD]; rfl
  have hnD : sD.threadsNamed := by rw [← hsD]; exact State.threadsNamed_mapIn hn _ _ hG
  have hcheck : (regMeaning shape illegal hx f).checkAll sD c ts = (sD, ts.map (fun t => (t.tid, .ok ()))) := by
    apply checkAll_ok rfl
    intro t ht
    rw [hp]
    exact commonStop_none hl hpa ((hr t ht).congr hops (State.fieldFrac_eq hslots hunits rfl rfl) rfl rfl rfl rfl)
  unfold Meaning.party
  simp only [hcheck, stops_ok, passed_ok, faults_ok, List.isEmpty_nil, if_true, Bool.not_true, Bool.false_eq_true, if_false,
    List.map_nil, List.map_map]
  have hgroup : ∀ x y z, (regMeaning shape illegal hx f).group x y z = (x, none) := fun _ _ _ => rfl
  simp only [hgroup]
  have hids : ((fun p : Nat × Unit => p.1) ∘ fun t : Thread => (t.tid, ())) = fun t => t.tid := rfl
  rw [hids, State.endBegun_eq]
  have hb : ∀ t : Thread, t.acted.tid = t.tid := fun _ => rfl
  have hact := eachThread_regs (s := sD.mapIn (ts.map (fun t => t.tid)) Thread.acted) (c := c)
    (g := fun t => f c.hints ((s.fieldFrac t).getD 0) t) (f := f) (State.threadsNamed_mapIn hnD _ _ hb) (fun t => hk _ _ _)
    (ts.map Thread.acted)
    (by
      intro u hu
      obtain ⟨t, ht, rfl⟩ := List.mem_map.mp hu
      have h1 : sD.thread? t.tid = some t := by
        rw [← hsD, State.thread?_mapIn _ _ _ hG, hts t ht]
        simp [hD t ht]
      rw [State.thread?_mapIn _ _ _ hb, hb, h1]
      have h2 : (ts.map (fun t => t.tid)).contains t.tid = true := by
        rw [List.contains_iff_mem]; exact List.mem_map_of_mem ht
      simp only [Option.map_some, h2, if_true])
    (by rw [List.map_map]; exact hd)
    (by
      intro s' u _ h1 h2
      rw [State.fieldFrac_eq (s := s) (t := u) (by rw [h1]; exact hslots) (by rw [h2]; exact hunits) rfl rfl])
  rw [List.map_map, List.map_map, List.map_map] at hact
  have hact' : (regMeaning shape illegal hx f).act (sD.mapIn (ts.map (fun t => t.tid)) Thread.acted) c
      (ts.map (fun t => (t.tid, ()))) = _ := hact
  rw [hact']
  have hcomp : (sD.mapIn (ts.map (fun t => t.tid)) Thread.acted).mapIn (ts.map (fun t => t.tid))
      (fun t => f c.hints ((s.fieldFrac t).getD 0) t) = sD.mapIn (ts.map (fun t => t.tid)) (s.regOn f c.hints) := by
    rw [State.mapIn_comp _ _ _ _ hb]
    rfl
  have hlast : sD.mapIn (ts.map (fun t => t.tid)) (s.regOn f c.hints) =
      s.mapIn (D ++ ts.map (fun t => t.tid)) (s.regOn f c.hints) := by
    rw [← hsD, State.mapIn_mapIn _ _ _ _ hG]
    intro n hn'
    obtain ⟨t, ht, rfl⟩ := List.mem_map.mp hn'
    exact hD t ht
  rw [← hlast, ← hcomp]
  rfl

theorem parties_regs {s : State} {c : Ctx} {shape : Hints → Shape} {illegal : Hints → Bool} {hx : Bool}
    {f : Hints → Nat → Thread → Thread} (hn : s.threadsNamed) (hk : KeepsPlace f)
    (hp : (regMeaning shape illegal hx f).misplaced c = false) (hl : (shape c.hints).level = .user) (hpa : (shape c.hints).past = none)
    (ps : List (List Thread)) (D : List Nat)
    (hts : ∀ t ∈ ps.flatten, s.thread? t.tid = some t) (hd : (ps.flatten.map (fun t => t.tid)).Nodup)
    (hD : ∀ t ∈ ps.flatten, t.tid ∉ D)
    (hr : ∀ t ∈ ps.flatten, OperandsReady s t (shape c.hints).named (shape c.hints).reads) :
    (regMeaning shape illegal hx f).parties (s.mapIn D (s.regOn f c.hints)) c ps =
      (s.mapIn (D ++ ps.flatten.map (fun t => t.tid)) (s.regOn f c.hints),
        ps.flatten.map (fun t => (t.tid, After.go)), []) := by
  have hG : ∀ t, (s.regOn f c.hints t).tid = t.tid := fun t => hk _ _ _
  induction ps generalizing D with
  | nil => simp [Meaning.parties]
  | cons p r ih =>
    rw [List.flatten_cons] at hts hd hD hr
    rw [List.map_append, List.nodup_append] at hd
    have hnow : p.filterMap (fun t => (s.mapIn D (s.regOn f c.hints)).thread? t.tid) = p := by
      have : ∀ q : List Thread, (∀ t ∈ q, t ∈ p) → q.filterMap (fun t => (s.mapIn D (s.regOn f c.hints)).thread? t.tid) = q := by
        intro q hq
        induction q with
        | nil => rfl
        | cons t q ihq =>
          have h1 : (s.mapIn D (s.regOn f c.hints)).thread? t.tid = some t := by
            rw [State.thread?_mapIn _ _ _ hG, hts t (by simp [hq t (by simp)])]
            simp [hD t (by simp [hq t (by simp)])]
          rw [List.filterMap_cons, h1, ihq (fun u hu => hq u (by simp [hu]))]
      exact this p (fun _ h => h)
    have h1 := party_regs (shape := shape) (illegal := illegal) (hx := hx) hn hk D p (fun t ht => hts t (by simp [ht])) hd.1
      (fun t ht => hD t (by simp [ht])) hp hl hpa (fun t ht => hr t (by simp [ht]))
    have h2 := ih (D ++ p.map (fun t => t.tid)) (fun t ht => hts t (by simp [ht])) hd.2.1
      (by
        intro t ht hc
        rcases List.mem_append.mp hc with h | h
        · exact hD t (by simp [ht]) h
        · exact hd.2.2 _ h _ (List.mem_map_of_mem ht) rfl)
      (fun t ht => hr t (by simp [ht]))
    simp only [Meaning.parties, hnow, h1, h2, List.flatten_cons, List.map_append, List.append_assoc, List.nil_append]

/-! ### Before and after the word -/

theorem State.noteIssue_units (s : State) (st : Strand) :
    (s.noteIssue st).units.map (fun u => (u.uid, u.slot)) = s.units.map (fun u => (u.uid, u.slot)) := by
  unfold State.noteIssue
  simp only [List.map_map]
  apply List.map_congr_left
  intro u _
  simp only [Function.comp]
  split <;> rfl

theorem filterMap_thread? {s : State} {l : List Nat} (h : ∀ m ∈ l, ∃ t, s.thread? m = some t) :
    (l.filterMap s.thread?).map (fun t => t.tid) = l ∧ ∀ t ∈ l.filterMap s.thread?, s.thread? t.tid = some t := by
  induction l with
  | nil => simp
  | cons m r ih =>
    obtain ⟨t, ht⟩ := h m (by simp)
    obtain ⟨h1, h2⟩ := ih (fun m hm => h m (by simp [hm]))
    have htn := State.thread?_tid ht
    rw [List.filterMap_cons, ht]
    refine ⟨by simp [htn, h1], ?_⟩
    intro u hu
    rcases List.mem_cons.mp hu with rfl | hu
    · rw [htn, ht]
    · exact h2 u hu

theorem foldl_keep {σ : Type} {F : σ × List Nat → Nat → σ × List Nat} (l : List Nat) (x : σ) (a : List Nat)
    (h : ∀ m ∈ l, ∀ a, F (x, a) m = (x, a ++ [m])) : l.foldl F (x, a) = (x, a ++ l) := by
  induction l generalizing a with
  | nil => simp
  | cons m r ih => rw [List.foldl_cons, h m (by simp), ih _ (fun n hn => h n (by simp [hn]))]; simp

/-- Nothing of a member's past comes before its word. -/
theorem Issuing.beforeRun {s : State} {st : Strand} (h : Issuing s st) : s.beforeRun st = (s.noteIssue st, st.members) := by
  unfold State.beforeRun
  simp only
  split
  · rfl
  · have hw : ∀ m ∈ st.members, (s.noteIssue st).owesWait m = false := by
      intro m hm
      obtain ⟨t, ht, -, ho⟩ := h.present m hm
      have : (s.noteIssue st).thread? m = some t := ht
      unfold State.owesWait
      simp [this, ho]
    have howing : (s.noteIssue st).owing st = [] := by
      unfold State.owing
      have h1 : st.members.filter (s.noteIssue st).owesWait = [] := by
        rw [List.filter_eq_nil_iff]
        intro m hm
        simp [hw m hm]
      simp only [h1, List.any_nil]
      split
      · rfl
      · simp
    rw [howing]
    rw [foldl_keep st.members (s.noteIssue st) []]
    · simp
    · intro m hm a
      obtain ⟨t, ht, hh, ho⟩ := h.present m hm
      have h1 : (s.noteIssue st).thread? m = some t := ht
      have h2 : (s.noteIssue st).payOwed t = s.noteIssue st := by unfold State.payOwed; rw [ho]
      simp [h1, hh, h2]

theorem Issuing.setStrand_self {s : State} {st : Strand} (h : Issuing s st) : (s.noteIssue st).setStrand st = s.noteIssue st := by
  unfold State.setStrand
  have : st.members.isEmpty = false := by
    cases hm : st.members with
    | nil => exact absurd hm h.some'
    | cons => rfl
  rw [this]
  simp only [Bool.false_eq_true, if_false]
  have h2 : (s.noteIssue st).strands.map (fun x => if x.sid = st.sid then st else x) = (s.noteIssue st).strands := by
    conv_rhs => rw [← List.map_id (s.noteIssue st).strands]
    apply List.map_congr_left
    intro x hx
    split
    · next hs => exact (h.named x hx hs).symm
    · rfl
  rw [h2]

/-- The context of the word that a strand issues, in the state that its checks see. -/
def State.wordCtx (s : State) (st : Strand) : Ctx := ctxOf (s.noteIssue st) st

theorem State.wordCtx_hints (s : State) (st : Strand) : (s.wordCtx st).hints = st.hints := rfl

theorem State.drawnOut_go (s : State) (c : Ctx) (l : List Nat) :
    s.drawnOut c (l.map (fun n => (n, After.go))) = l.map (fun n => (n, After.go)) := by
  have hrel : (l.map (fun n => (n, After.go))).map s.released = l.map (fun n => (n, After.go)) := by
    rw [List.map_map]; rfl
  unfold State.drawnOut
  split
  · rfl
  · simp only [hrel]
    rw [List.map_map]
    apply List.map_congr_left
    intro n _
    simp only [Function.comp]
    rw [if_neg]
    rw [Bool.not_eq_true, Bool.eq_false_iff]
    intro hc
    obtain ⟨y, hy, hy2⟩ := List.any_eq_true.mp hc
    obtain ⟨k, -, rfl⟩ := List.mem_map.mp hy
    simp at hy2

/-- After a word on which every member goes on. -/
theorem finishWord_go {s : State} {c : Ctx} (l : List Nat) (hl : l ≠ []) (hlast : c.last = false)
    (hp : ∀ n ∈ l, (s.thread? n).isSome = true) (hm : c.st.members = l) :
    s.finishWord c (l.map (fun n => (n, After.go))) [] =
      { s with strands := s.strands.map (fun x => if x.sid = c.st.sid then
          { c.st with pos := c.st.pos + 1, hints := {}, runLen := 0, lost := 0, busyTo := s.coreClock c.core + 1 + resultCycles c.word } else x) } := by
  unfold State.finishWord
  rw [State.drawnOut_go]
  have h1 : ((l.map (fun n => (n, After.go))).filter (fun x => x.2 == .go && (s.thread? x.1).isSome)).map (fun x => x.1) = l := by
    have h2 : (l.map (fun n => (n, After.go))).filter (fun x => x.2 == .go && (s.thread? x.1).isSome) =
        l.map (fun n => (n, After.go)) := by
      rw [List.filter_eq_self]
      intro x hx
      obtain ⟨n, hn, rfl⟩ := List.mem_map.mp hx
      simp [hp n hn]
    rw [h2, List.map_map]
    simp [Function.comp_def]
  have h3 : (l.map (fun n => (n, After.go))).filterMap (s.exitOf c) = [] := by
    rw [List.filterMap_eq_nil_iff]
    intro x hx
    obtain ⟨n, -, rfl⟩ := List.mem_map.mp hx
    rfl
  simp only [h1, h3, hlast, Bool.false_eq_true, if_false, List.append_nil]
  have h4 : l.isEmpty = false := by
    cases l with
    | nil => exact absurd rfl hl
    | cons => rfl
  unfold State.setStrand
  simp only [h4, Bool.false_eq_true, if_false]
  unfold State.leaveAll
  simp only [List.foldl_nil, hm]

/-- The issue of a word by a strand whose members have nothing of their past before it. -/
theorem Issuing.issue_eq {α : Type} {s : State} {st : Strand} (h : Issuing s st) (m : Meaning α) :
    issue m s =
      (let r := m.parties (s.noteIssue st).bump (s.wordCtx st)
        ((s.noteIssue st).parties (s.wordCtx st) (st.members.filterMap s.thread?))
       r.1.finishWord (s.wordCtx st) r.2.1 r.2.2) := by
  unfold issue
  rw [h.found]
  simp only [h.beforeRun]
  simp only [h.setStrand_self]
  rfl

/-- EVERYTHING THAT A WORD DOES WHICH CHANGES ITS THREADS' REGISTERS ALONE, where the strand issues it for members that all pass its
checks, anywhere but at the end of a block. -/
theorem regWord_next {s : State} {st : Strand} {shape : Hints → Shape} {illegal : Hints → Bool} {hx : Bool}
    {f : Hints → Nat → Thread → Thread} (h : Issuing s st) (hk : KeepsPlace f) (hmore : st.more)
    (hill : illegal st.hints = false) (hhx : hx = true → st.hints.hx.isSome = true) (hl : (shape st.hints).level = .user)
    (hpa : (shape st.hints).past = none)
    (hr : AllReady s st (shape st.hints).named (shape st.hints).reads) :
    regWord shape illegal hx f s = s.wordDone st (fun t => f st.hints ((s.fieldFrac t).getD 0) t) := by
  have hreg : regWord shape illegal hx f s = issue (regMeaning shape illegal hx f) s := rfl
  rw [hreg, h.issue_eq]
  have hpres : ∀ m ∈ st.members, ∃ t, s.thread? m = some t := fun m hm => by
    obtain ⟨t, ht, -⟩ := h.present m hm
    exact ⟨t, ht⟩
  obtain ⟨hids, hself⟩ := filterMap_thread? hpres
  generalize htsdef : st.members.filterMap s.thread? = ts at hids hself
  generalize hpsdef : (s.noteIssue st).parties (s.wordCtx st) ts = ps
  have hflat : ps.flatten = ts := by rw [← hpsdef]; exact State.parties_flatten _ _ _
  have hmis : (regMeaning shape illegal hx f).misplaced (s.wordCtx st) = false := by
    unfold Meaning.misplaced regMeaning
    simp only [State.wordCtx_hints, hill, Bool.false_and, Bool.or_false]
    cases hx
    · rfl
    · have := hhx rfl
      cases hh : st.hints.hx <;> simp_all
  have hmem : ∀ t ∈ ts, t.tid ∈ st.members := by
    intro t ht
    rw [← hids]; exact List.mem_map_of_mem ht
  have hfrac : ∀ t : Thread, (s.noteIssue st).bump.fieldFrac t = s.fieldFrac t := fun t =>
    State.fieldFrac_congr rfl (State.noteIssue_units s st) rfl rfl
  have hready : ∀ t ∈ ts, OperandsReady (s.noteIssue st).bump t (shape (s.wordCtx st).hints).named (shape (s.wordCtx st).hints).reads := by
    intro t ht
    exact (hr t.tid (hmem t ht) t (hself t ht)).congr rfl (hfrac t) rfl rfl rfl rfl
  have hmain := parties_regs (s := (s.noteIssue st).bump) (c := s.wordCtx st) (shape := shape) (illegal := illegal) (hx := hx) (f := f)
    h.threads hk hmis hl hpa ps [] (by rw [hflat]; exact hself) (by rw [hflat, hids]; exact h.distinct) (by simp)
    (by rw [hflat]; exact hready)
  rw [State.mapIn_nil, hflat, hids, List.nil_append] at hmain
  have hgo : ts.map (fun t => (t.tid, After.go)) = st.members.map (fun n => (n, After.go)) := by
    rw [← hids, List.map_map]; rfl
  simp only [hmain, hgo]
  have hlast : (s.wordCtx st).last = false := by
    have : (s.wordCtx st).last = (st.pos + 1 == st.words.length) := rfl
    rw [this, beq_eq_false_iff_ne]
    exact hmore
  have hG : ∀ t, ((s.noteIssue st).bump.regOn f (s.wordCtx st).hints t).tid = t.tid := fun t => hk _ _ _
  rw [finishWord_go st.members h.some' hlast ?_ rfl]
  · have e1 : ∀ t : Thread, (s.noteIssue st).bump.regOn f (s.wordCtx st).hints t =
        f st.hints ((s.fieldFrac t.acted).getD 0) t.acted := by
      intro t
      unfold State.regOn
      rw [hfrac]
      rfl
    unfold State.mapIn State.wordDone
    simp only [e1]
    rfl
  · intro n hn
    obtain ⟨t, ht⟩ := hpres n hn
    rw [State.thread?_mapIn _ _ _ hG]
    have : (s.noteIssue st).bump.thread? n = some t := ht
    simp [this]

/-! ### The completion of instructions on registers -/

theorem KeepsPlace.of_setReg {f : Hints → Nat → Thread → Thread} {d : Hints → Reg} {v : Hints → Nat → Thread → Word}
    {k : Hints → Nat → Thread → Tag} (h : ∀ x n t, f x n t = t.setReg (d x) (v x n t) (k x n t)) : KeepsPlace f := by
  intro x n t; rw [h]; rfl

theorem KeepsPlace.of_setPair {f : Hints → Nat → Thread → Thread} {d : Hints → Reg} {v : Hints → Nat → Thread → Pair}
    {k : Hints → Nat → Thread → Tag} (h : ∀ x n t, f x n t = t.setPair (d x) (v x n t) (k x n t)) : KeepsPlace f := by
  intro x n t; rw [h]; rfl

/-- An instruction whose meaning is `regWord` without a required hint completes. -/
theorem Completes.of_regWord {i : Instr} {named : Hints → List Reg} {reads : Hints → List (Cls × Reg)}
    {f : State → Hints → Thread → Thread} {shape : Hints → Shape} {illegal : Hints → Bool} {g : Hints → Nat → Thread → Thread}
    (he : ∀ s, exec i s = .next (regWord shape illegal false g s)) (hk : KeepsPlace g) (hn : ∀ h, (shape h).named = named h)
    (hr : ∀ h, (shape h).reads = reads h) (hl : ∀ h, (shape h).level = .user) (hpa : ∀ h, (shape h).past = none) (hi : ∀ h, illegal h = false)
    (hf : ∀ s h t, g h ((s.fieldFrac t).getD 0) t = f s h t) : Completes i named reads f := by
  intro s st hs hm hready
  rw [he, regWord_next hs hk hm (hi _) (by simp) (hl _) (hpa _) (by rw [hn, hr]; exact hready)]
  simp only [hf]

/-- An instruction whose meaning is `regWord` with a required `hx` hint completes. -/
theorem CompletesHx.of_regWord {i : Instr} {named : Hints → List Reg} {reads : Hints → List (Cls × Reg)}
    {f : State → Hints → Thread → Thread} {shape : Hints → Shape} {illegal : Hints → Bool} {g : Hints → Nat → Thread → Thread}
    (he : ∀ s, exec i s = .next (regWord shape illegal true g s)) (hk : KeepsPlace g) (hn : ∀ h, (shape h).named = named h)
    (hr : ∀ h, (shape h).reads = reads h) (hl : ∀ h, (shape h).level = .user) (hpa : ∀ h, (shape h).past = none) (hi : ∀ h, illegal h = false)
    (hf : ∀ s h t, g h ((s.fieldFrac t).getD 0) t = f s h t) : CompletesHx i named reads f := by
  intro s st hs hm hhx hready
  rw [he, regWord_next hs hk hm (hi _) (fun _ => hhx) (hl _) (hpa _) (by rw [hn, hr]; exact hready)]
  simp only [hf]

/-! ### A strand of one thread -/

theorem State.mapThread_eq_self {s : State} (h : s.threadsNamed) {t : Thread} (ht : s.thread? t.tid = some t) {f : Thread → Thread}
    (hf : f t = t) : s.mapThread t.tid f = s := by
  unfold State.mapThread
  have : s.threads.map (fun x => if x.tid = t.tid then f x else x) = s.threads := by
    conv_rhs => rw [← List.map_id s.threads]
    apply List.map_congr_left
    intro x hx
    split
    · next hn => rw [State.eq_of_threadsNamed h ht hx hn, hf]; rfl
    · rfl
  rw [this]

theorem State.endBegun_eq_self {s : State} (h : s.threadsNamed) {t : Thread} (ht : s.thread? t.tid = some t) (hb : (t.begun = none ∧ t.descr = []) ∧ t.checked = 0 ∧ t.pages = []) :
    s.endBegun [t.tid] = s := by
  have : s.endBegun [t.tid] = s.mapThread t.tid Thread.acted := by
    unfold State.endBegun State.mapThread
    congr 1
    apply List.map_congr_left
    intro x _
    by_cases hx : x.tid = t.tid <;> simp [hx]
  rw [this]
  exact State.mapThread_eq_self h ht (by obtain ⟨⟨h1, h2⟩, h3, h4⟩ := hb; cases t; simp only at h1 h2 h3 h4; subst h1 h2 h3 h4; rfl)

theorem Alone.parties {s : State} {st : Strand} {t : Thread} (h : Alone s st t) (c : Ctx) :
    (s.noteIssue st).parties c (st.members.filterMap s.thread?) = [[t]] := by
  rw [h.only]
  have : [t.tid].filterMap s.thread? = [t] := by simp [h.thread]
  rw [this]
  unfold State.parties
  split <;> rfl

theorem State.ctx_eq (s : State) (st : Strand) : s.wordCtx st = s.ctx st := rfl
theorem State.ctx_hints (s : State) (st : Strand) : (s.ctx st).hints = st.hints := rfl
theorem State.ctx_pc (s : State) (st : Strand) : (s.ctx st).pc = st.pc := rfl
theorem State.ctx_next (s : State) (st : Strand) : (s.ctx st).next = st.pc + 4 := rfl
theorem State.ctx_site (s : State) (st : Strand) : (s.ctx st).site = st.site := rfl
theorem State.ctx_runPc (s : State) (st : Strand) : (s.ctx st).runPc = st.runPc := rfl
theorem State.ctx_st (s : State) (st : Strand) : (s.ctx st).st = st := rfl
theorem State.ctx_word (s : State) (st : Strand) : (s.ctx st).word = st.word := rfl
theorem State.ctx_batch (s : State) (st : Strand) : (s.ctx st).batch = s.nextId := rfl
theorem State.ctx_last (s : State) (st : Strand) : (s.ctx st).last = (st.pos + 1 == st.words.length) := rfl

theorem State.atWord_thread? (s : State) (st : Strand) (n : Nat) : (s.atWord st).thread? n = s.thread? n := rfl

theorem OperandsReady.atWord {s : State} {st : Strand} {t : Thread} {n : List Reg} {r : List (Cls × Reg)} (h : OperandsReady s t n r) :
    OperandsReady (s.atWord st) t n r :=
  h.congr rfl (State.fieldFrac_congr rfl (State.noteIssue_units s st) rfl rfl) rfl rfl rfl rfl

/-- THE ISSUE OF A WORD BY A STRAND OF ONE THREAD whose checks all pass: the action, then what becomes of the thread. -/
theorem Alone.issue_ok {α : Type} {s s2 s3 : State} {st : Strand} {t : Thread} (h : Alone s st t) {m : Meaning α}
    {F : State → Ctx → Thread → α → State × After} {x : α} (hmis : m.misplaced (s.ctx st) = false)
    (hlev : t.level.allows (m.shape st.hints).level = true) (hpa : (m.shape st.hints).past = none)
    (hr : OperandsReady s t (m.shape st.hints).named (m.shape st.hints).reads)
    (hpre : m.pre (s.atWord st) (s.ctx st) t = (s2, .ok x)) (hgrp : m.group s2 (s.ctx st) [t] = (s3, none))
    (hn : s3.threadsNamed) (ht : s3.thread? t.tid = some t) (hact : m.act = eachThread F) :
    issue m s = (F s3 (s.ctx st) t x).1.finishWord (s.ctx st) [(t.tid, (F s3 (s.ctx st) t x).2)] [] := by
  have hc : commonStop (s.atWord st) (m.misplaced (s.ctx st)) (m.shape (s.ctx st).hints) t = none := by
    have h0 := commonStop_none (s := s.atWord st) (sh := { m.shape st.hints with level := .user }) (t := t) rfl hpa hr.atWord
    rw [hmis, State.ctx_hints]
    unfold commonStop at h0 ⊢
    simp only [hlev, Bool.not_true, Bool.false_eq_true, if_false] at h0 ⊢
    have : t.level.allows Level.user = true := by cases t.level <;> rfl
    simpa [this] using h0
  have hcheck : m.checkAll (s.atWord st) (s.ctx st) [t] = (s2, [(t.tid, .ok x)]) := by
    simp only [Meaning.checkAll, Meaning.check, hc, hpre]
  have hparty : m.party (s.atWord st) (s.ctx st) [t] = ((F s3 (s.ctx st) t x).1, [(t.tid, (F s3 (s.ctx st) t x).2)], []) := by
    unfold Meaning.party
    have h1 : stops [((t.tid, .ok x) : Nat × Except Stop α)] = [] := rfl
    have h2 : passed [((t.tid, .ok x) : Nat × Except Stop α)] = [(t.tid, x)] := rfl
    have h3 : faults [((t.tid, .ok x) : Nat × Except Stop α)] = [] := rfl
    simp only [hcheck, h1, h2, h3, List.isEmpty_nil, if_true, List.any_cons, List.any_nil, beq_self_eq_true, Bool.or_false,
      List.filter_cons, List.filter_nil, hgrp, Bool.not_true, Bool.false_eq_true, if_false, List.map_cons, List.map_nil,
      State.endBegun_eq_self hn ht h.fresh, hact, eachThread, ht]
  rw [h.toIssuing.issue_eq]
  have hps := h.parties (s.wordCtx st)
  simp only [hps, Meaning.parties, List.filterMap_cons, List.filterMap_nil]
  have ht0 : (s.noteIssue st).bump.thread? t.tid = some t := h.thread
  have hb : (s.noteIssue st).bump = s.atWord st := rfl
  rw [ht0]
  simp only [hb, State.ctx_eq, hparty, List.append_nil]

/-- A thread that goes on: the strand stands at the word after. -/
theorem Alone.finish_go {s s3 : State} {st : Strand} {t : Thread} (h : Alone s st t) (hmore : st.more)
    (ht : (s3.thread? t.tid).isSome = true) : s3.finishWord (s.ctx st) [(t.tid, .go)] [] = s3.goesOn st := by
  have hl : (s.ctx st).last = false := by rw [State.ctx_last, beq_eq_false_iff_ne]; exact hmore
  exact finishWord_go [t.tid] (by simp) hl (by simpa using ht) h.only

/-- An instruction whose meaning acts on each thread by itself acts. -/
theorem Acts.of_issue {α : Type} {i : Instr} {named : Hints → List Reg} {reads : Hints → List (Cls × Reg)}
    {ok : Ctx → State → Thread → Prop} {f : Ctx → State → Thread → State} {m : Meaning α}
    {F : State → Ctx → Thread → α → State × After} (he : ∀ s, exec i s = .next (issue m s)) (hact : m.act = eachThread F)
    (hpa : ∀ h, (m.shape h).past = none)
    (h : ∀ s st t, Alone s st t → st.more → OperandsReady s t (named st.hints) (reads st.hints) → ok (s.ctx st) (s.atWord st) t →
      ∃ x s2, m.misplaced (s.ctx st) = false ∧ t.level.allows (m.shape st.hints).level = true ∧
        (m.shape st.hints).named = named st.hints ∧ (m.shape st.hints).reads = reads st.hints ∧
        m.pre (s.atWord st) (s.ctx st) t = (s2, .ok x) ∧ m.group s2 (s.ctx st) [t] = (s2, none) ∧ s2.threads = s.threads ∧
        F s2 (s.ctx st) t x = (f (s.ctx st) (s.atWord st) t, .go) ∧ ((f (s.ctx st) (s.atWord st) t).thread? t.tid).isSome = true) :
    Acts i named reads ok f := by
  intro s st t hs hm hr hok
  obtain ⟨x, s2, h1, h2, h3, h4, h5, h6, h7, h8, h9⟩ := h s st t hs hm hr hok
  have hn : s2.threadsNamed := by unfold State.threadsNamed; rw [h7]; exact hs.threads
  have ht : s2.thread? t.tid = some t := by unfold State.thread?; rw [h7]; exact hs.thread
  rw [he, hs.issue_ok h1 h2 (hpa _) (by rw [h3, h4]; exact hr) h5 h6 hn ht hact, h8, hs.finish_go hm h9]

/-- A thread of a strand of one whose word ends in a fault: the strand ends and the thread takes the fault. -/
theorem Alone.issue_fault {α : Type} {s : State} {st : Strand} {t : Thread} (h : Alone s st t) {m : Meaning α} {f : FaultInfo}
    (hcode : f.code ≠ 0x0901) (hcheck : m.check (s.atWord st) (s.ctx st) t = (s.atWord st, .error (.fault f)))
    (hact : m.act (s.atWord st) (s.ctx st) [] = (s.atWord st, [])) (hgrp : ∀ s c, m.group s c [] = (s, none)) :
    issue m s = s.faults st t f := by
  have hall : m.checkAll (s.atWord st) (s.ctx st) [t] = (s.atWord st, [(t.tid, .error (.fault f))]) := by
    simp only [Meaning.checkAll, hcheck]
  have hself : (s.atWord st).endBegun [] = s.atWord st := by
    unfold State.endBegun
    simp
  have hparty : m.party (s.atWord st) (s.ctx st) [t] = (s.atWord st, [], [(t.tid, Exit.fault f st.site)]) := by
    unfold Meaning.party
    have h1 : stops [((t.tid, .error (.fault f)) : Nat × Except Stop α)] = [] := rfl
    have h2 : passed [((t.tid, .error (.fault f)) : Nat × Except Stop α)] = [] := rfl
    have h3 : faults [((t.tid, .error (.fault f)) : Nat × Except Stop α)] = [(t.tid, f)] := rfl
    simp only [hall, h1, h2, h3, List.isEmpty_nil, if_true, List.any_nil, Bool.false_eq_true, if_false, List.filter_cons,
      List.filter_nil, hgrp, Bool.not_true, List.map_cons, List.map_nil, hself, hact, State.ctx_site]
  rw [h.toIssuing.issue_eq]
  have hps := h.parties (s.wordCtx st)
  simp only [hps, Meaning.parties, List.filterMap_cons, List.filterMap_nil]
  have ht0 : (s.noteIssue st).bump.thread? t.tid = some t := h.thread
  have hb : (s.noteIssue st).bump = s.atWord st := rfl
  rw [ht0]
  simp only [hb, State.ctx_eq, hparty, List.append_nil]
  have hdrawn : (s.atWord st).drawnOut (s.ctx st) [] = [] := by unfold State.drawnOut; split <;> rfl
  have hend : (s.atWord st).setStrand { (s.ctx st).st with members := [] } = (s.atWord st).endStrand st := by
    unfold State.setStrand State.endStrand
    simp [State.ctx_st]
  have hend2 : ∀ n, (s.atWord st).setStrand { (s.ctx st).st with pos := (s.ctx st).st.pos + 1, members := [], hints := {}, runLen := 0, lost := 0, busyTo := n } =
      (s.atWord st).endStrand st := by
    intro n
    unfold State.setStrand State.endStrand
    simp [State.ctx_st]
  have hleave : ((s.atWord st).endStrand st).leaveAll [(t.tid, Exit.fault f st.site)] = s.faults st t f := by
    unfold State.leaveAll State.leaveOne State.faults
    simp only [List.foldl_cons, List.foldl_nil, State.insertExit, hcode, if_false]
    rw [State.mapThread_eq_self (s := (s.atWord st).endStrand st) h.threads h.thread (by obtain ⟨⟨h1, h2⟩, h3, h4⟩ := h.fresh; cases t; simp only at h1 h2 h3 h4; subst h1 h2 h3 h4; rfl)]
  unfold State.finishWord
  simp only [hdrawn, List.filter_nil, List.map_nil, List.filterMap_nil, List.append_nil, State.fallAll, hend, hend2, hleave]
  split <;> rfl

/-- A thread that leaves: the strand ends and the thread goes where its exit says. -/
theorem finish_leave {s s3 : State} {st : Strand} {t : Thread} (a : After) (e : Exit)
    (ha : s3.exitOf (s.ctx st) (t.tid, a) = some (t.tid, e))
    (hrel : s3.released (t.tid, a) = (t.tid, a)) :
    s3.finishWord (s.ctx st) [(t.tid, a)] [] = (s3.endStrand st).leaveOne (t.tid, e) := by
  have hng : (a == After.go) = false := by
    cases a <;> first | rfl | (simp [State.exitOf] at ha)
  have hdrawn : s3.drawnOut (s.ctx st) [(t.tid, a)] = [(t.tid, a)] := by
    unfold State.drawnOut
    split
    · rfl
    · simp only [List.map_cons, List.map_nil, hrel]
      cases a <;> rfl
  have hend : s3.setStrand { (s.ctx st).st with members := [] } = s3.endStrand st := by
    unfold State.setStrand State.endStrand
    simp [State.ctx_st]
  have hend2 : ∀ n, s3.setStrand { (s.ctx st).st with pos := (s.ctx st).st.pos + 1, members := [], hints := {}, runLen := 0, lost := 0, busyTo := n } =
      s3.endStrand st := by
    intro n
    unfold State.setStrand State.endStrand
    simp [State.ctx_st]
  have hleave : (s3.endStrand st).leaveAll [(t.tid, e)] = (s3.endStrand st).leaveOne (t.tid, e) := rfl
  unfold State.finishWord
  simp only [hdrawn, List.filter_cons, hng, Bool.false_and, Bool.false_eq_true, if_false, List.filter_nil, List.map_nil,
    List.filterMap_cons, ha, List.filterMap_nil, List.nil_append, State.fallAll, List.append_nil, hend, hend2, hleave]
  split <;> rfl

/-- A thread that acts on the last word of its block and goes on falls through to the block after it (04 R94). -/
theorem finish_fall {s s3 s4 : State} {st : Strand} {t u : Thread} {e : Exit} (hlast : st.last) (ht : s3.thread? t.tid = some u)
    (hf : s3.fallThrough u (st.pc + 4) st.blk = (s4, e)) :
    s3.finishWord (s.ctx st) [(t.tid, .go)] [] = (s4.endStrand st).leaveOne (t.tid, e) := by
  have hl : (s.ctx st).last = true := by rw [State.ctx_last, beq_iff_eq]; exact hlast
  have hdrawn : s3.drawnOut (s.ctx st) [(t.tid, .go)] = [(t.tid, .go)] := by
    have := State.drawnOut_go s3 (s.ctx st) [t.tid]
    simpa using this
  have hend : s4.setStrand { (s.ctx st).st with members := [] } = s4.endStrand st := by
    unfold State.setStrand State.endStrand
    simp [State.ctx_st]
  have hgo : (After.go == After.go) = true := rfl
  unfold State.finishWord
  simp only [hdrawn, List.filter_cons, hgo, ht, Option.isSome_some, Bool.and_self, if_true, List.filter_nil, List.map_cons, List.map_nil,
    List.filterMap_cons, State.exitOf, List.filterMap_nil, List.nil_append, hl, State.fallAll, State.ctx_next, State.ctx_st]
  have hf' : s3.fallThrough u (st.pc + 4) st.blk = (s4, e) := hf
  simp only [hf']
  have hend' : s4.setStrand { st with members := [] } = s4.endStrand st := hend
  simp only [hend']
  rfl

/-- A core whose L1 TLB has taken a translation in. -/
theorem State.fillL1Tlb_core (s : State) (n : Nat) (x : Trans) :
    (s.fillL1Tlb n x).core n = { s.core n with l1tlb := tlbTouch (s.core n).l1tlb x Config.l1TlbEntries } := by
  unfold State.fillL1Tlb
  rw [State.core_mapCore, if_pos rfl]

/-- The bytes that a die's L2 would deliver depend on memory, its check codes and the remote partition alone. -/
theorem State.l2View_congr {s s' : State} (hm : s'.mem = s.mem) (hd : s'.dies = s.dies) (hc : s'.codes = s.codes) (die loc n : Nat) :
    s'.l2View die loc n = s.l2View die loc n := by
  have hl : ∀ line, s'.remoteLine die line = s.remoteLine die line := by
    intro line; unfold State.remoteLine State.die; rw [hd]
  unfold State.l2View State.l2Read State.homeRead State.remoteFetch
  rw [hm, hl]
  split
  · rfl
  · simp only
    split
    · rw [hl]
    · unfold State.setRemote State.mapDie State.remoteLine State.die State.homeCodes
      simp only [hd, hc]

theorem State.fetchWord_fillL1Tlb (s : State) (n : Nat) (x : Trans) (loc : Nat) :
    (s.fillL1Tlb n x).fetchWord n loc = s.fetchWord n loc := by
  have hb : ∀ l, (s.fillL1Tlb n x).fetchByte n l = s.fetchByte n l := by
    intro l
    unfold State.fetchByte State.l1Line?
    have hl : ((s.fillL1Tlb n x).core n).l1 = (s.core n).l1 := by rw [State.fillL1Tlb_core]
    rw [hl, State.l2View_congr (s := s) (s' := s.fillL1Tlb n x) rfl rfl rfl]
    rfl
  have hr : (s.fillL1Tlb n x).rawWord n loc = s.rawWord n loc := by
    unfold State.rawWord
    simp only [hb]
  unfold State.fetchWord
  rw [hr]
  rfl

/-- The checks of a control transfer that reaches its target. -/
theorem Reaches.goChecks {s : State} {t : Thread} {a : Pair} {x : Trans} {h : Word} (hr : Reaches s t a x h) :
    s.goChecks t a = (s.fillL1Tlb t.core x, .head h) := by
  have ht : s.translate t a = (s.fillL1Tlb t.core x, .hit x) := by
    unfold State.translate State.tlbLookup
    simp only [hr.hit]
  have hw : (s.fillL1Tlb t.core x).fetchWord t.core (x.place (va57 a)) = h := by
    rw [State.fetchWord_fillL1Tlb]; exact hr.word
  unfold State.goChecks
  simp only [hr.canon, Bool.not_true, Bool.false_eq_true, if_false, hr.aligned, ne_eq, not_true_eq_false, ht, hr.exec, hw, hr.head, if_true]

/-! ### Operations in flight -/

theorem LeavesData.refl (s : State) : LeavesData s s := ⟨rfl, fun _ => ⟨rfl, rfl⟩, rfl, fun _ => rfl⟩

theorem LeavesData.trans {a b c : State} (h : LeavesData a b) (g : LeavesData b c) : LeavesData a c :=
  ⟨g.mem.trans h.mem, fun n => ⟨(g.cores n).1.trans (h.cores n).1, (g.cores n).2.trans (h.cores n).2⟩, g.clusters.trans h.clusters,
    fun n => (g.dies n).trans (h.dies n)⟩

/-- A state with the same data fields. -/
theorem LeavesData.of_eq {s s' : State} (h1 : s'.mem = s.mem) (h2 : s'.cores = s.cores) (h3 : s'.clusters = s.clusters)
    (h4 : s'.dies = s.dies) : LeavesData s s' :=
  ⟨h1, fun n => by simp [State.core, h2], h3, fun n => by simp [State.die, h4]⟩

theorem Raise.tid (t : Thread) (c : Ctr) : (t.raise c).tid = t.tid := by cases c <;> rfl

theorem State.thread?_mapThread (s : State) (n m : Nat) (f : Thread → Thread) (hf : ∀ t, (f t).tid = t.tid) :
    (s.mapThread n f).thread? m = (s.thread? m).map (fun t => if t.tid = n then f t else t) :=
  find?_map_tid _ _ (by intro t; split <;> simp [hf]) m

/-- An instruction whose meaning puts an operation in flight for each thread does so. -/
theorem Launches.of_issue {α : Type} {i : Instr} {named : Hints → List Reg} {reads : Hints → List (Cls × Reg)} {cls : Ctr}
    {ok : Ctx → State → Thread → OpKind → List Reg → Prop} {m : Meaning α} {F : State → Ctx → Thread → α → State × After}
    (he : ∀ s, exec i s = .next (issue m s)) (hact : m.act = eachThread F)
    (hpa : ∀ h, (m.shape h).past = none)
    (h : ∀ s st t kind dsts, Alone s st t → st.more → OperandsReady s t (named st.hints) (reads st.hints) →
      ok (s.ctx st) (s.atWord st) t kind dsts →
      ∃ x s2 q o, m.misplaced (s.ctx st) = false ∧ t.level.allows (m.shape st.hints).level = true ∧
        (m.shape st.hints).named = named st.hints ∧ (m.shape st.hints).reads = reads st.hints ∧
        m.pre (s.atWord st) (s.ctx st) t = (s2, .ok x) ∧ m.group s2 (s.ctx st) [t] = (s2, none) ∧ s2.threads = s.threads ∧
        s2.ops = s.ops ∧ s2.strands = s.strands ∧ LeavesData s s2 ∧ F s2 (s.ctx st) t x = (q, .go) ∧ q.ops = s2.ops ++ [o] ∧
        q.threads = (s2.mapThread t.tid (fun t => t.raise cls)).threads ∧ q.strands = s2.strands ∧ LeavesData s2 q ∧
        o.tid = t.tid ∧ o.cls = cls ∧ o.kind = kind ∧ o.dsts = dsts ∧ o.arrived = false ∧ o.core = t.core) :
    Launches i named reads cls ok := by
  intro s st t kind dsts hs hm hr hok
  obtain ⟨x, s2, q, o, h1, h2, h3, h4, h5, h6, h7, h8, h9, h10, h11, h12, h13, h14, h15, h16⟩ := h s st t kind dsts hs hm hr hok
  have hn : s2.threadsNamed := by unfold State.threadsNamed; rw [h7]; exact hs.threads
  have ht : s2.thread? t.tid = some t := by unfold State.thread?; rw [h7]; exact hs.thread
  have hq : ∀ n, q.thread? n = (s.thread? n).map (fun u => if u.tid = t.tid then u.raise cls else u) := by
    intro n
    have : q.thread? n = (s2.mapThread t.tid (fun t => t.raise cls)).thread? n := by unfold State.thread?; rw [h13]
    rw [this, State.thread?_mapThread _ _ _ _ (fun t => Raise.tid t cls)]
    have : s2.thread? n = s.thread? n := by unfold State.thread?; rw [h7]
    rw [this]
  have hqt : q.thread? t.tid = some (t.raise cls) := by rw [hq, hs.thread]; simp
  refine ⟨q.goesOn st, ?_, ⟨⟨o, ?_, h16⟩, ?_, ?_, ?_, ?_⟩⟩
  · rw [he, hs.issue_ok h1 h2 (hpa _) (by rw [h3, h4]; exact hr) h5 h6 hn ht hact, h11, hs.finish_go hm (by rw [hqt]; rfl)]
  · show q.ops = _; rw [h12, h8]
  · exact hqt
  · intro n hne
    show q.thread? n = _
    rw [hq]
    cases hsn : s.thread? n with
    | none => rfl
    | some u =>
      have := State.thread?_tid hsn
      simp [this, hne]
  · exact (h10.trans h15).trans (LeavesData.of_eq rfl rfl rfl rfl)
  · show q.strands.map _ = _
    rw [h14, h9]
    rfl

/-- A change of a core's caches and tables leaves data alone. -/
theorem LeavesData.mapCore {s : State} {n : Nat} {f : Core → Core}
    (h : (f (s.core n)).scratch = (s.core n).scratch ∧ (f (s.core n)).lp = (s.core n).lp) : LeavesData s (s.mapCore n f) := by
  refine ⟨rfl, fun m => ?_, rfl, fun _ => rfl⟩
  rw [State.core_mapCore]
  split
  · subst m; exact h
  · exact ⟨rfl, rfl⟩

theorem LeavesData.mapDie {s : State} {n : Nat} {f : Die → Die} (h : (f (s.die n)).scratch = (s.die n).scratch) :
    LeavesData s (s.mapDie n f) := by
  refine ⟨rfl, fun _ => ⟨rfl, rfl⟩, rfl, fun m => ?_⟩
  rw [State.die_mapDie]
  split
  · subst m; exact h
  · rfl

theorem State.fillL1Tlb_leaves (s : State) (n : Nat) (x : Trans) : LeavesData s (s.fillL1Tlb n x) := LeavesData.mapCore ⟨rfl, rfl⟩

theorem State.fillL2Tlb_leaves (s : State) (n : Nat) (x : Trans) : LeavesData s (s.fillL2Tlb n x) := LeavesData.mapDie rfl

/-- What an issue that only translates leaves alone. -/
structure OnlyCaches (s s' : State) : Prop where
  threads : s'.threads = s.threads
  ops : s'.ops = s.ops
  strands : s'.strands = s.strands
  units : s'.units = s.units
  slots : s'.slots = s.slots
  data : LeavesData s s'

theorem OnlyCaches.refl (s : State) : OnlyCaches s s := ⟨rfl, rfl, rfl, rfl, rfl, LeavesData.refl s⟩

theorem OnlyCaches.trans {a b c : State} (h : OnlyCaches a b) (g : OnlyCaches b c) : OnlyCaches a c :=
  ⟨g.threads.trans h.threads, g.ops.trans h.ops, g.strands.trans h.strands, g.units.trans h.units, g.slots.trans h.slots,
    h.data.trans g.data⟩

theorem State.translate_hit {s s' : State} {t : Thread} {a : Pair} {x : Trans} (h : s.translate t a = (s', .hit x)) : OnlyCaches s s' := by
  unfold State.translate State.tlbLookup at h
  cases h1 : (s.core t.core).l1tlb.find? (fun y => y.hits (s.slot (s.slotOf t)) (va57 a)) with
  | some y =>
    simp only [h1, Prod.mk.injEq] at h
    rw [← h.1]; exact ⟨rfl, rfl, rfl, rfl, rfl, State.fillL1Tlb_leaves _ _ _⟩
  | none =>
    simp only [h1] at h
    cases h2 : (s.die (dieOf t.core)).l2tlb.find? (fun y => y.hits (s.slot (s.slotOf t)) (va57 a)) with
    | some y =>
      simp only [h2, Prod.mk.injEq] at h
      rw [← h.1]
      exact ⟨rfl, rfl, rfl, rfl, rfl, (State.fillL2Tlb_leaves _ _ _).trans (State.fillL1Tlb_leaves _ _ _)⟩
    | none =>
      simp only [h2] at h
      split at h <;> simp at h

theorem State.globalAccess_ok {s s' : State} {t : Thread} {ea : Pair} {z pol : Nat} {own : Option FaultInfo} {n : Need} {acc : Access}
    (h : s.globalAccess t ea z pol own n = (s', .ok acc)) : OnlyCaches s s' := by
  unfold State.globalAccess at h
  split at h
  · simp at h
  · split at h
    · simp at h
    · split at h
      · simp at h
      · split at h
        · simp at h
        · simp at h
        · rename_i s1 x hx
          split at h
          · simp at h
          · simp only [Prod.mk.injEq] at h
            rw [← h.1]; exact State.translate_hit hx

theorem State.cellAccess_ok {s s' : State} {t : Thread} {f : FieldSt} {i : Nat} {w : Bool} {p : Option Nat}
    (h : s.cellAccess t f i w = (s', .ok p)) : OnlyCaches s s' := by
  unfold State.cellAccess at h
  split at h
  · simp only [Prod.mk.injEq] at h; rw [← h.1]; exact OnlyCaches.refl s
  · simp only at h
    split at h
    · simp at h
    · simp at h
    · rename_i s1 x hx
      split at h
      · simp at h
      · simp only [Prod.mk.injEq] at h
        rw [← h.1]; exact State.translate_hit hx

theorem State.xmAccess_ok {s s' : State} {c : Ctx} {t : Thread} {ctr : Ctr} {sp : BitVec 3} {a : Reg} {z : Nat} {o : BitVec 6} {n : Need}
    {acc : Access} (h : s.xmAccess c t ctr sp a z o n = (s', .ok acc)) : OnlyCaches s s' := by
  unfold State.xmAccess at h
  split at h
  · simp at h
  · simp only at h
    split at h
    · exact State.globalAccess_ok h
    · simp only [Prod.mk.injEq] at h
      rw [← h.1]; exact OnlyCaches.refl s

end Sys2Proof.Machine
end

