-- ==== Sys2Proof/Tests/Slice0.lean ====
section
/-!
SUPPORT. Tests: ill-formed terms that WellFormed refuses, words that the manual writes out, single steps with results from the manual, and
for every statement with hypotheses a concrete state that meets them. Such a witness takes the statement, applies it to a state written
here and gives what the statement then says; so the hypotheses of the statement, all together, hold of that state.
-/
namespace Sys2Proof.Tests
open Sys2Proof.Machine
set_option Elab.async false

/-! ### Small states -/

/-- A gathered block of two words at 0x1000. -/
def block : Block := { head := 0x1000, len := 2, gath := true }

/-- A unit of one thread on core 0. -/
def unit : UnitSt :=
  { uid := 1, slot := 0, launch := 1, index := 0, core := 0, row0 := 0, rows := 1, nthreads := 1, gw := 8, scrLen := 4096, ncr := 8, acc := 4 }

/-- Its thread, issued, with no register written. -/
def thread : Thread :=
  { tid := 2, core := 0, slot := 0, unit := 1, index := 0, pc := 0x1000, blk := block, budget := 128, state := .issued }

/-- The thread's strand, at the first of two words. -/
def strand : Strand := { sid := 3, core := 0, dec := 0, blk := block, words := [0, 0], pos := 0, members := [2] }

/-- The strand at the second word. -/
def atEnd : Strand := { strand with pos := 1 }

/-- The strand with an `hx` hint before its word that names v8. -/
def hinted : Strand := { strand with hints := { hx := some (0, 8) }, runLen := 1 }

/-- The launch of the unit. -/
def launch : Obj := { handle := 1, parent := 0, desc := [0x1000] }

/-- A module in which the strand issues. -/
def module (t : Thread) (st : Strand) : State :=
  { State.reset with
    units := [unit], threads := [t], strands := [st], issuing := 3, nextId := 4, slots := [(0, { v := true, objs := [launch] })] }

/-- The plain module of these tests. -/
def plain : State := module thread strand

/-- The thread with values and tags in registers. -/
def holding (rs : List (Reg × Word × Tag)) : Thread := rs.foldl (fun t r => t.setReg r.1 r.2.1 r.2.2) thread

/-- An instruction answers a next state. -/
def Runs (i : Instr) (s : State) : Prop := ∃ t, exec i s = .next t

theorem runs {i : Instr} {s t : State} (h : exec i s = .next t) : Runs i s := ⟨t, h⟩

theorem runs_of {i : Instr} {s : State} {p : State → Prop} (h : ∃ t, exec i s = .next t ∧ p t) : Runs i s := ⟨_, h.choose_spec.1⟩

theorem runs_of2 {α : Type} {i : Instr} {s : State} {p : State → α → Prop} (h : ∃ t c, exec i s = .next t ∧ p t c) : Runs i s :=
  ⟨_, h.choose_spec.choose_spec.1⟩

/-- A strand of the one thread of a module is alone. -/
theorem alone_of {s : State} {st : Strand} {t : Thread} (h1 : s.threads = [t]) (h2 : s.strands = [st]) (h3 : st.sid = s.issuing)
    (h4 : st.members = [t.tid]) (h5 : t.held = []) (h6 : t.owes = none) (h7 : t.begun = none ∧ t.descr = [])
    (h8 : t.checked = 0 ∧ t.pages = [] := by exact ⟨rfl, rfl⟩) : Alone s st t where
  found := by simp [State.strand?, h2, h3]
  named := by simp [h2]
  threads := by simp [State.threadsNamed, h1]
  some' := by simp [h4]
  distinct := by simp [h4]
  present := by
    intro m hm
    rw [h4, List.mem_singleton] at hm
    exact ⟨t, by simp [State.thread?, h1, hm], h5, h6⟩
  only := h4
  thread := by simp [State.thread?, h1]
  fresh := ⟨h7, h8⟩

/-- The word is not the last of its block. -/
theorem more_of {st : Strand} (h : (st.pos + 1 == st.words.length) = false) : st.more := by simpa [Strand.more] using h

/-- The word is the last of its block. -/
theorem last_of {st : Strand} (h : (st.pos + 1 == st.words.length) = true) : st.last := by simpa [Strand.last] using h

/-- The common checks of a thread, as a computation. -/
def passes (s : State) (t : Thread) (named : List Reg) (reads : List (Cls × Reg)) : Bool :=
  named.all (fun r => decide (r.toNat < t.budget)) && s.ops.all (fun o => o.tid != t.tid || o.dsts.all (fun r => !named.contains r)) &&
    reads.all t.operandOk && (!reads.any t.needsField || (s.fieldFrac t).isSome)

theorem ready_of {s : State} {t : Thread} {named : List Reg} {reads : List (Cls × Reg)} (h : passes s t named reads = true) :
    OperandsReady s t named reads := by
  simp only [passes, Bool.and_eq_true, List.all_eq_true, decide_eq_true_eq, Bool.or_eq_true, bne_iff_ne, Bool.not_eq_true',
    List.contains_eq_mem, decide_eq_false_iff_not, List.any_eq_false] at h
  refine ⟨h.1.1.1, fun o ho hn r hr hc => ?_, h.1.2, fun ⟨p, hp, hq⟩ => ?_⟩
  · rcases h.1.1.2 o ho with h' | h'
    · exact h' hn
    · exact h' r hr hc
  · rcases h.2 with h' | h'
    · exact absurd hq (h' p hp)
    · exact h'

/-- A thread that has written no register is ready for every operand, when nothing is in flight and CQ is not read. -/
theorem ready_all {s : State} {t : Thread} (h1 : s.ops = []) (h2 : t.budget = 128) (h3 : t.regs = []) (named : List Reg)
    (reads : List (Cls × Reg)) (h4 : ∀ p ∈ reads, p.1 ≠ .cq) : OperandsReady s t named reads where
  budget r _ := by rw [h2]; exact r.isLt
  free := by simp [h1]
  tags := by
    rintro ⟨c, r⟩ -
    have : ∀ r : Reg, t.reg r = {} := fun r => by simp [Thread.reg, h3]; rfl
    cases c <;> simp [Thread.operandOk, Thread.tagOk, this, Cls.accepts]
  field := by
    rintro ⟨p, hp, hq⟩
    have : t.reg p.2 = {} := by simp [Thread.reg, h3]; rfl
    simp [Thread.needsField, this, h4 p hp] at hq

/-! ### Ill-formed terms (03 R63, R75, R76): the first of a pair must be even, of four a multiple of 4, a sub-field legal -/

theorem test_hint_fields : [Instr.hs 5 0, .hs 0 12, .hq 1 0 0 5, .hq 1 10 0 0, .hq 0 1 0 0].all (fun i => !i.wf) = true := by decide

theorem test_odd_pairs : [Instr.bx 7, .callx 7, .voteMask 3 1, .add64 1 2 4, .add64 2 1 4, .add64 2 4 1, .mulwI 1 2 3, .eq64 1 3 4,
    .eq64 1 4 3, .lea 1 2 3 0, .lea 2 1 3 0, .leai 2 1 0, .dadd 1 2 4, .dfma 2 4 7, .dcmpLt 1 3 4, .dsqrt 2 5, .cvtF64F32 1 2, .cvtF32F64 1 3,
    .cvtF64I32 1 2, .cvtI32F64 1 3].all (fun i => !i.wf) = true := by decide

theorem test_special_registers : [Instr.movs 2 23, .movs 2 40, .movs 3 16, .movs 3 39, .movsw 16 2, .movsw 31 2, .tagset 1 2 10,
    .tagchk 1 2 10].all (fun i => !i.wf) = true := by decide

theorem test_scales_and_counts : [Instr.lea 2 4 6 5, .leaN 2 4 6 5, .lunpk 1 2 5].all (fun i => !i.wf) = true := by decide

theorem test_access_forms : [Instr.ld 2 4 5 0 0, .ld 2 4 0 6 0, .ld 2 3 0 4 0, .ld 3 4 0 5 0, .st 2 4 0 1 0, .st 2 4 0 3 0, .strel 2 4 1 3 0,
    .ldacq 2 5 0 4 0, .ldq 2 4 0 0, .ldq 4 3 0 0, .stq 4 3 0 0, .stq 4 2 5 0, .pf 3 4 0, .pf 2 6 0].all (fun i => !i.wf) = true := by decide

theorem test_ordering_forms : [Instr.fenceAcq 12, .fenceRel 12, .fenceAr 15, .atomAdd 1 3 2, .atomAdd64 1 2 4, .atomAdd64 2 4 5, .atomnAdd 3 1,
    .atomnXchg64 4 3, .cas 1 3 2, .cas64 2 4 1].all (fun i => !i.wf) = true := by decide

theorem test_copy_forms : [Instr.cpy 3 4 2, .cpy 4 3 2, .cpy2d 3 4 2, .cpyc 1 3 0, .cpyc 1 4 8, .cpyz 3 2, .crinit 1 8, .crtake 1 8, .craddr 3 2 0,
    .craddr 2 2 8].all (fun i => !i.wf) = true := by decide

theorem test_field_forms : [Instr.ftot 3 0 0, .ftot 2 3 0, .ftot 2 0 6, .fdecl 2 3, .fchk 3 0, .finfo 2 0 5, .finfo 3 0 2, .finfo 2 1 1,
    .finfo 3 0 4].all (fun i => !i.wf) = true := by decide

theorem test_page_tile_fabric_forms : [Instr.app 1 3 2, .app64 1 2 3, .appq 1 2 6, .seal 3, .free 3, .aopen 3 0, .atail 1 3, .astate 1 3,
    .tlda 1 3 2, .tldb 1 3 2, .tdrain 1 3 2, .tstacc 1 3 2, .nput 3 2 4, .nget 2 3 4, .nred 2 5 4, .nstat 1 2 3, .nstat 1 1 2, .nsig 3 2].all
    (fun i => !i.wf) = true := by decide

theorem test_system_forms : [Instr.rfe 2, .frec 1 8, .unpark 1 2 2, .sysget 1 2 18, .sysset 1 2 18, .tlbinv 1 3 2, .tlbinv 1 2 3, .ctxsave 1 3 2,
    .ctxload 1 3 2, .lch 3 2, .lch 2 3, .lcnt 1 2 2, .lcnt 1 2 0, .lwaitc 1 3].all (fun i => !i.wf) = true := by decide

/-! ### Words that the manual writes out -/

/-- A word decodes to an instruction. -/
def Reads (w : Word) (i : Instr) : Prop := decode false w = .ok i

theorem test_words_hints : Reads 0x05000009 (.hx 0 9) ∧ Reads 0x04012345 (.hk 0x12345) := ⟨rfl, rfl⟩

theorem test_words_control : Reads 0x10006000 (.bx 6) ∧ Reads 0x10008001 (.callx 8) ∧ Reads 0x10000002 .ret ∧ Reads 0x10000003 .exit ∧
    Reads 0x10000004 .yield ∧ Reads 0x10000005 .nop ∧ Reads 0x10000226 (.trap 17) := ⟨rfl, rfl, rfl, rfl, rfl, rfl, rfl⟩

theorem test_words_moves : Reads 0x28189000 (.mov 3 9) ∧ Reads 0x28080002 (.movs 1 0) ∧ Reads 0x28A84003 (.movsw 21 4) ∧
    Reads 0x28106004 (.tagget 2 6) ∧ Reads 0x28306045 (.tagset 6 6 2) ∧ Reads 0x28086046 (.tagchk 1 6 2) ∧ Reads 0x20380FFF (.movi 7 0xFFF) :=
  ⟨rfl, rfl, rfl, rfl, rfl, rfl, rfl⟩

theorem test_words_integer : Reads 0x302060E5 (.divI 4 6 7) ∧ Reads 0x38201042 (.ltI 4 1 2) ∧ Reads 0x3C508043 (.lea 10 8 2 3) ∧
    Reads 0x40285FFF (.addi 5 5 0xFFF) ∧ Reads 0x5010281F (.shiSha 2 2 31) ∧ Reads 0x542015FB (.cmpiLtI 4 1 0x1FB) ∧
    Reads 0x5C508100 (.leai 10 8 256) := ⟨rfl, rfl, rfl, rfl, rfl, rfl, rfl⟩

theorem test_words_formats : Reads 0x70307080 (.qnt 6 7 4) ∧ Reads 0x70486081 (.dqnt 9 6 4) ∧ Reads 0x70402065 (.ldot 8 2 3) := ⟨rfl, rfl, rfl⟩

theorem test_words_creels_fields_pages : Reads 0xB8004020 (.crinit 4 1) ∧ Reads 0xB8403047 (.craddr 8 3 2) ∧ Reads 0xC0202061 (.xfer 4 2 3) ∧
    Reads 0xC0382066 (.finfo 7 2 3) ∧ Reads 0xC428A040 (.app 5 10 2) ∧ Reads 0xC438A102 (.appq 7 10 8) := ⟨rfl, rfl, rfl, rfl, rfl, rfl⟩

theorem test_words_tile_fabric : Reads 0xC801D000 (.tcfg 29) ∧ Reads 0xC8B8A081 (.tlda 23 10 4) ∧ Reads 0xC80160E3 (.tmma 22 7) ∧
    Reads 0xCC40A080 (.nput 8 10 4) ∧ Reads 0xCC282023 (.nstat 5 2 1) := ⟨rfl, rfl, rfl, rfl, rfl⟩

theorem test_words_system : Reads 0xE420A000 (.lch 4 10) ∧ Reads 0xE4302022 (.lcnt 6 2 1) ∧ Reads 0xE4002064 (.pmreq 2 3) ∧
    Reads 0xE0000020 (.rfe 1) ∧ Reads 0xE010A185 (.tlbinv 2 10 12) ∧ Reads 0xE020A048 (.ctxsave 4 10 2) ∧ Reads 0xE000006A (.brk 3) :=
  ⟨rfl, rfl, rfl, rfl, rfl, rfl, rfl⟩

/-! ### Single steps, with results from the manual -/

/-- What one instruction leaves in a register of a thread that holds values: none where the thread takes a fault. -/
noncomputable def result (i : Instr) (t : Thread) (r : Reg) : Option (Word × Tag) :=
  match exec i (module t strand) with
  | .next s => ((s.thread? 2).filter (fun t => t.state == .issued)).map (fun t => ((t.reg r).val, (t.reg r).tag))
  | _ => none

/-- What it leaves behind an `hx` hint that names v8. -/
noncomputable def resultHx (i : Instr) (t : Thread) (r : Reg) : Option (Word × Tag) :=
  match exec i (module t hinted) with
  | .next s => (s.thread? 2).map (fun t => ((t.reg r).val, (t.reg r).tag))
  | _ => none

/-- Two operands in v2 and v3. -/
def two (a b : Word) : Thread := holding [(2, a, .raw), (3, b, .raw)]

/-- 05 R125: a quotient by zero, and the one that overflows. -/
theorem test_div_corners : result (.divI 4 2 3) (two 7 0) 4 = some (0xFFFFFFFF, .int) ∧
    result (.divI 4 2 3) (two 0x80000000 0xFFFFFFFF) 4 = some (0x80000000, .int) := by decide +kernel

/-- 05 R125: the remainder has the sign of the dividend, as division rounds toward zero. -/
theorem test_rem : result (.remI 4 2 3) (two 0xFFFFFFF9 3) 4 = some (0xFFFFFFFF, .int) := by decide +kernel

theorem test_mulh_signed : result (.mulhI 4 2 3) (two 0xFFFFFFFF 2) 4 = some (0xFFFFFFFF, .int) := by decide +kernel

theorem test_adds_saturates : result (.addsI 4 2 3) (two 0x7FFFFFFF 1) 4 = some (0x7FFFFFFF, .int) := by decide +kernel

/-- 05 R126: a shift by 32 or more. -/
theorem test_shift_32 : result (.shl 4 2 3) (two 1 32) 4 = some (0, .int) ∧ result (.sha 4 2 3) (two 0x80000000 40) 4 = some (0xFFFFFFFF, .int) := by
  decide +kernel

/-- 05 R127: control word 0x81C. -/
theorem test_bfe_cut : result (.bfeI 4 2 3) (two 0xF0000000 0x81C) 4 = some (15, .int) := by decide +kernel

/-- A destination that is also a source (05 R120). -/
theorem test_add64_carry :
    result (.add64 2 2 4) (holding [(2, 0xFFFFFFFF, .raw), (4, 1, .raw)]) 3 = some (1, .x64) := by decide +kernel

/-- 05, worked case of R118 and R119: `add` of 3.0 with T = 1, and with T = 0, where it raises 0x0301. -/
theorem test_add_converts :
    result (.add 4 2 3) { holding [(2, 0x40400000, .f32), (3, 7, .int)] with modeT := true } 4 = some (10, .int) ∧
      result (.add 4 2 3) (holding [(2, 0x40400000, .f32), (3, 7, .int)]) 4 = none := by decide +kernel

/-- 06, worked example: v5 = 10.0 and 14.0, and 100.0. -/
theorem test_lscale : result (.lscale 4 2) (two 0x41200000 0) 4 = some (127, .sc) ∧ result (.lscale 4 2) (two 0x41600000 0) 4 = some (128, .sc) ∧
    result (.lscale 4 2) (two 0x42C80000 0) 4 = some (130, .sc) := by decide +kernel

/-- 06, worked example: 10.0, −0.3 and 0.004 at scale 127. -/
theorem test_qnt : (result (.qnt 6 2 3) (two 0x41200000 127) 6).map (·.1) = some 0x1D ∧
    (result (.qnt 6 2 3) (two 0xBE99999A 127) 6).map (·.1) = some 0x29 ∧ (result (.qnt 6 2 3) (two 0x3B83126F 127) 6).map (·.1) = some 0 := by
  decide +kernel

/-- 06, worked example: the codes 0x1D and 0x29. -/
theorem test_dqnt : result (.dqnt 9 2 3) (two 0x1D 127) 9 = some (0x411837F0, .f32) ∧ result (.dqnt 9 2 3) (two 0x29 127) 9 = some (0xBE9837F0, .f32) := by
  decide +kernel

/-- 06, worked example: the sum in ascending order gives 16,777,218. -/
theorem test_ldot : result (.ldot 8 2 3) (holding [(2, 0x1F028410, .raw), (3, 0x02110410, .raw), (8, 0x4B800000, .f32)]) 8 =
    some (0x4B800001, .f32) := by decide +kernel

/-- 06 R143: a tie goes to even. -/
theorem test_fadd_tie : result (.fadd 4 2 3) (two 0x3F800000 0x33800000) 4 = some (0x3F800000, .f32) := by decide +kernel

/-- 05 R121: `sel` takes c from its `hx` hint; v8 = 0 selects b. -/
theorem test_sel : resultHx (.sel 4 2 3) (two 5 6) 4 = some (6, .raw) := by decide +kernel

theorem test_movi_negative : result (.movi 7 0xFFF) thread 7 = some (0xFFFFFFFF, .int) := by decide +kernel

theorem test_compare_signed : result (.ltI 4 2 3) (two 0xFFFFFFFF 0) 4 = some (1, .int) ∧ result (.ltN 4 2 3) (two 0xFFFFFFFF 0) 4 = some (0, .int) := by
  decide +kernel

/-- 04 R112: the record of `trap 17`. -/
theorem test_trap : (match exec (.trap 17) plain with
    | .next s => s.threads.map (fun t => (t.record.code, t.record.aux, t.record.pc, t.state))
    | _ => []) = [(0x0205, 17, 0x1004, .parked)] := by decide +kernel

/-- 01 R21, worked example: die 5 and slice 10, and die 0. -/
theorem test_home : homeDie 0xA000000100 = 5 ∧ homeSlice 0xA000000100 = 10 ∧ homeDie 0xA00000100 = 0 := by decide

theorem test_memory : Memory.read (Memory.write [] 5 7) 5 = 7 ∧ Memory.read (Memory.write [] 5 7) 4 = 0 ∧ Memory.write [(5, 7)] 5 0 = [] := by decide

/-- A placed table word is the next that the machine runs. -/
theorem test_fetch : (State.reset.withFetchWord 32 0x10000005).agenda.length = 1 ∧ decodeTableWord 32 0x10000005 = some .nop := by decide +kernel

/-! ### Instructions that change registers alone -/

theorem issuing_plain : Issuing plain strand := (alone_of rfl rfl rfl rfl rfl rfl ⟨rfl, rfl⟩ : Alone plain strand thread).toIssuing

/-- The hypotheses of every statement of the form `Completes`: the plain module meets them, whatever registers the word names. -/
theorem completes_runs {i : Instr} {named : Hints → List Reg} {reads : Hints → List (Cls × Reg)} {f : State → Hints → Thread → Thread}
    (h : Completes i named reads f) (hc : ∀ p ∈ reads {}, p.1 ≠ .cq) : exec i plain = .next (plain.wordDone strand (f plain {})) :=
  h plain strand issuing_plain (more_of rfl) (fun m hm t ht => by
    simp only [strand, List.mem_singleton] at hm
    subst hm
    obtain rfl : thread = t := Option.some.inj ht
    exact ready_all rfl rfl rfl _ _ hc)

/-- The same behind an `hx` hint. -/
theorem completesHx_runs {i : Instr} {named : Hints → List Reg} {reads : Hints → List (Cls × Reg)} {f : State → Hints → Thread → Thread}
    (h : CompletesHx i named reads f) (hc : ∀ p ∈ reads hinted.hints, p.1 ≠ .cq) :
    exec i (module thread hinted) = .next ((module thread hinted).wordDone hinted (f (module thread hinted) hinted.hints)) :=
  h (module thread hinted) hinted (alone_of rfl rfl rfl rfl rfl rfl ⟨rfl, rfl⟩ : Alone (module thread hinted) hinted thread).toIssuing (more_of rfl)
    rfl (fun m hm t ht => by
      simp only [hinted, strand, List.mem_singleton] at hm
      subst hm
      obtain rfl : thread = t := Option.some.inj ht
      exact ready_all rfl rfl rfl _ _ hc)

theorem witness_IntegerAndLogicResults (h : Obligations.IntegerAndLogicResults) :
    Runs (.add 1 2 3) plain ∧ Runs (.mad 1 2 3) (module thread hinted) ∧ Runs (.dshl 1 2 3) (module thread hinted) ∧
      Runs (.add64 2 4 6) plain ∧ Runs (.mulwI 2 4 6) plain ∧ Runs (.shl 1 2 3) plain :=
  let ⟨a1, _, _, _, _, _, _, _, _, _, _, _, _, _, _, _, _, a2, _, _⟩ := h.1 2 4 6
  let ⟨_, _, _, _, _, b1, _, _, _, _, _, _, _, _, b2, _⟩ := h.2 1 2 3
  ⟨runs (completes_runs (h.1 1 2 3).1 (by decide)), runs (completesHx_runs (h.1 1 2 3).2.2.2.2.2.2.2.2.2.2.2.2.2.2.2.2.2.2.2.2.2 (by decide)),
    runs (completesHx_runs b2 (by decide)), runs (completes_runs a2 (by decide)),
    runs (completes_runs (h.1 2 4 6).2.2.2.2.2.2.2.2.2.2.2.2.2.2.2.2.2.2.2.1 (by decide)), runs (completes_runs b1 (by decide))⟩

theorem witness_BitFieldResults (h : Obligations.BitFieldResults) :
    Runs (.bfeN 1 2 3) plain ∧ Runs (.bfeI 1 2 3) plain ∧ Runs (.bfi 1 2 3) (module thread hinted) :=
  let ⟨a, b, c⟩ := h 1 2 3
  ⟨runs (completes_runs a (by decide)), runs (completes_runs b (by decide)), runs (completesHx_runs c (by decide))⟩

theorem witness_CompareResults (h : Obligations.CompareResults) : Runs (.eq 1 2 3) plain ∧ Runs (.ltI 1 2 3) plain ∧ Runs (.eq64 1 2 4) plain :=
  ⟨runs (completes_runs (h 1 2 3).1 (by decide)), runs (completes_runs (h 1 2 3).2.2.1 (by decide)),
    runs (completes_runs (h 1 2 4).2.2.2.2.2.2.1 (by decide))⟩

theorem witness_ImmediateResults (h : Obligations.ImmediateResults) :
    Runs (.lea 2 4 6 3) plain ∧ Runs (.addi 1 2 0xFFF) plain ∧ Runs (.shiSha 1 2 31) plain ∧ Runs (.cmpiLtI 1 2 0x1FF) plain :=
  ⟨runs (completes_runs (h.1 2 4 6 3 0).1 (by decide)), runs (completes_runs (h.1 1 2 3 0 0xFFF).2.2.2.1 (by decide)),
    runs (completes_runs (h.2 1 2 31 0).2.2.1 (by decide)), runs (completes_runs (h.2 1 2 0 0x1FF).2.2.2.2.2.2.1 (by decide))⟩

theorem witness_MovesTagsAndMode (h : Obligations.MovesTagsAndMode) :
    Runs (.movi 7 0xFFF) plain ∧ Runs (.sel 1 2 3) (module thread hinted) ∧ Runs (.tagset 1 2 9) plain ∧ Runs (.tagchk 1 2 9) plain ∧
      Runs (.movsw 21 4) plain ∧ Runs (.movsw 20 4) plain :=
  let ⟨a, _, _, b, _, c⟩ := h.1 1 2 3 0xFFF 0 9
  ⟨runs (completes_runs (h.1 7 0 0 0xFFF 0 0).1 (by decide)), runs (completesHx_runs b (by decide)),
    runs (completes_runs (c .sc (by decide)).1 (by decide)), runs (completes_runs (c .sc (by decide)).2 (by decide)),
    runs (completes_runs (h.2 4).1 (by decide)), runs (completes_runs ((h.2 4).2 20 (by decide)) (by decide))⟩

theorem witness_FloatResults (h : Obligations.FloatResults) :
    Runs (.fadd 1 2 3) plain ∧ Runs (.fabs 1 2) plain ∧ Runs (.dadd 2 4 6) plain ∧ Runs (.dcmpEq 1 2 4) plain ∧ Runs (.hadd 1 2 3) plain ∧
      Runs (.hfma 1 2 3) plain ∧ Runs (.hdot 1 2 3) plain := by
  have hd := (h.2.1 2 4 6).1
  unfold SetsDouble2 SetsPair2 at hd
  obtain ⟨a, _, _, _, _, _, _, _, _, _, b, _⟩ := h.1 1 2 3
  obtain ⟨_, _, _, _, _, _, d, _⟩ := h.2.1 1 2 4
  obtain ⟨e, _, _, _, _, _, _, _, f, _, g, _⟩ := h.2.2 1 2 3
  exact ⟨runs (completes_runs a (by decide)), runs (completes_runs b (by decide)), runs (completes_runs hd (by decide)),
    runs (completes_runs d (by decide)), runs (completes_runs e (by decide)), runs (completes_runs f (by decide)),
    runs (completes_runs g (by decide))⟩

/-- The plain module behind an `hx` hint with an even register, for `ldot` with scales. -/
theorem witness_ConversionAndLogResults (h : Obligations.ConversionAndLogResults) :
    Runs (.cvtF32I32 1 2) plain ∧ Runs (.cvtH2F32 1 2 3) plain ∧ Runs (.lunpk 1 2 4) plain ∧ Runs (.ldot 1 2 3) plain ∧
      Runs (.ldot 1 2 3) (module thread hinted) :=
  let ⟨a, _, _, _, _, _, _, _, _, _, _, _, b, _⟩ := h.1 1 2 3
  let ⟨_, _, _, c, _, _, d, e⟩ := h.2 1 2 3 4
  ⟨runs (completes_runs a (by decide)), runs (completes_runs b (by decide)), runs (completes_runs (c (by decide)) (by decide)),
    runs (d plain strand issuing_plain (more_of rfl) rfl (fun m hm t ht => by
      simp only [strand, List.mem_singleton] at hm
      subst hm
      obtain rfl : thread = t := Option.some.inj ht
      exact ready_all rfl rfl rfl _ _ (by decide))),
    runs (e (module thread hinted) hinted 0 8 (alone_of rfl rfl rfl rfl rfl rfl ⟨rfl, rfl⟩ : Alone _ hinted thread).toIssuing (more_of rfl) rfl
      (by decide) (fun m hm t ht => by
        simp only [hinted, strand, List.mem_singleton] at hm
        subst hm
        obtain rfl : thread = t := Option.some.inj ht
        exact ready_all rfl rfl rfl _ _ (by decide)))⟩

/-- Two threads of one group of width 8, in lanes 0 and 1. -/
def second : Thread := { thread with tid := 4, slot := 1, index := 1 }

/-- Their strand. -/
def pair : Strand := { strand with members := [2, 4] }

/-- A module in which the group issues. -/
def duet : State := { plain with units := [{ unit with nthreads := 2 }], threads := [thread, second], strands := [pair], nextId := 5 }

theorem lane_runs {i : Instr} {named : List Reg} {reads : List (Cls × Reg)} {f : State → Nat → List Thread → Thread → Thread}
    (h : LaneCompletes i named reads f) (hc : ∀ p ∈ reads, p.1 ≠ .cq) : exec i duet = .next (duet.wordDone pair (f duet 8 [thread, second])) :=
  (h duet pair 8 [thread, second]
    { found := rfl, named := by simp [duet], threads := by unfold State.threadsNamed; decide, some' := by decide, distinct := by decide,
      present := by
        intro m hm
        simp only [pair, List.mem_cons, List.not_mem_nil, or_false] at hm
        rcases hm with rfl | rfl
        · exact ⟨thread, rfl, rfl, rfl⟩
        · exact ⟨second, rfl, rfl, rfl⟩ }
    (more_of rfl)
    { gathered := rfl, lanes := rfl, same := by decide, width := fun t ht => by
        simp only [List.mem_cons, List.not_mem_nil, or_false] at ht
        rcases ht with rfl | rfl <;> exact ⟨{ unit with nthreads := 2 }, rfl, rfl⟩
      positive := by decide, ascending := by decide, span := by decide }
    (fun m hm t ht => by
      simp only [pair, List.mem_cons, List.not_mem_nil, or_false] at hm
      rcases hm with rfl | rfl
      · obtain rfl : thread = t := Option.some.inj ht
        exact ready_all rfl rfl rfl _ _ hc
      · obtain rfl : second = t := Option.some.inj ht
        exact ready_all rfl rfl rfl _ _ hc))

theorem witness_LaneResults (h : Obligations.LaneResults) : Runs (.bcast 1 2 127) duet ∧ Runs (.voteAny 1 2) duet :=
  ⟨runs (lane_runs (h.1 1 2 127).1 (by decide)), runs (lane_runs (h.2 1 2).1 (by decide))⟩

/-! ### Control -/

/-- A translation of the first 2 MiB to itself, writable and executable. -/
def mapping : Trans :=
  { cid := 0, glob := false, vbase := 0, size := 0x200000, pbase := 0, cls := 0, w := true, x := true, peer := none, pc := false }

/-- A module with that translation in the L1 TLB of core 0 and the head of a function entry (budget 16, one word) at 0x100C. -/
def mapped (t : Thread) (st : Strand) : State :=
  { module t st with cores := [(0, { l1tlb := [mapping] })], mem := [(0x100C, 1), (0x100E, 0x10), (0x100F, 0xF9)] }

/-- The head word at 0x100C. -/
def entryHead : Word := 0xF9100001

theorem alone_mapped {t : Thread} {st : Strand} (h3 : st.sid = 3) (h4 : st.members = [t.tid]) (h5 : t.held = []) (h6 : t.owes = none)
    (h7 : t.begun = none ∧ t.descr = []) (h8 : t.checked = 0 ∧ t.pages = [] := by exact ⟨rfl, rfl⟩) : Alone (mapped t st) st t :=
  alone_of rfl rfl h3 h4 h5 h6 h7 h8

/-- The thread with 0x100C in the pair of v4. -/
def aimed : Thread := holding [(4, 0x100C, .raw)]

/-- The thread inside a call whose return address is 0x100C: the frame stands at the top of its window. -/
def called : Thread := { thread with depth := 1, lpWritten := List.range' 504 8 }

/-- Its module. -/
def inCall : State := { mapped called atEnd with cores := [(0, { l1tlb := [mapping], lp := [(504, 0x0C), (505, 0x10)] })] }

theorem witness_ControlTransfers (h : Obligations.ControlTransfers) :
    Runs (.br 1) (mapped thread atEnd) ∧ Runs (.bx 4) (mapped aimed atEnd) ∧ Runs (.brZ 4 1) (mapped thread atEnd) ∧
      Runs (.brNz 4 0x8000) (mapped thread atEnd) ∧ Runs (.call 1) (mapped thread atEnd) ∧ Runs (.callx 4) (mapped aimed atEnd) ∧
      Runs .ret inCall ∧ Runs .ret (mapped thread atEnd) ∧ Runs .exit (mapped thread atEnd) := by
  have a : Alone (mapped thread atEnd) atEnd thread := alone_mapped rfl rfl rfl rfl ⟨rfl, rfl⟩
  have b : Alone (mapped aimed atEnd) atEnd aimed := alone_mapped rfl rfl rfl rfl ⟨rfl, rfl⟩
  have c : Alone inCall atEnd called := alone_of rfl rfl rfl rfl rfl rfl ⟨rfl, rfl⟩
  have l : atEnd.last := last_of rfl
  have ra : Reaches (mapped thread atEnd) thread 0x100C mapping entryHead :=
    { canon := by decide, aligned := by decide, hit := rfl, exec := rfl, word := rfl, head := by decide }
  have rb : Reaches (mapped aimed atEnd) aimed 0x100C mapping entryHead :=
    { canon := by decide, aligned := by decide, hit := rfl, exec := rfl, word := rfl, head := by decide }
  have rc : Reaches inCall called 0x100C mapping entryHead :=
    { canon := by decide, aligned := by decide, hit := rfl, exec := rfl, word := rfl, head := by decide }
  exact ⟨runs ((h.1 4 1).1 _ _ _ _ _ a l ra), runs ((h.1 4 1).2.1 _ _ _ _ _ b l (ready_of (by decide)) rb),
    runs (((h.1 4 1).2.2.1 _ _ _ _ _ a l (ready_of (by decide))).1 rfl ra),
    runs (((h.1 4 0x8000).2.2.2.1 _ _ _ _ _ a l (ready_of (by decide))).2 rfl ra),
    runs ((h.2 4 1 _ _ _ a l).1 _ _ ra (by decide) (by decide) (by decide)),
    runs ((h.2 4 1 _ _ _ b l).2.1 (ready_of (by decide)) _ _ rb (by decide) (by decide) (by decide)),
    runs ((h.2 4 1 _ _ _ c l).2.2.1 _ _ (by decide) rc), runs ((h.2 4 1 _ _ _ a l).2.2.2.1 rfl), runs ((h.2 4 1 _ _ _ a l).2.2.2.2)⟩

/-- The thread with one load in flight. -/
def loading : Thread := { thread with ld := 1 }

theorem witness_WaitsTrapsAndIllegalWords (h : Obligations.WaitsTrapsAndIllegalWords) :
    Runs .nop plain ∧ Runs (.wait 0 0 0 0) plain ∧ Runs (.wait 0 15 15 15) (module loading strand) ∧ Runs .yield plain ∧ Runs (.trap 127) plain ∧
      Runs .illegalEncoding plain ∧ Runs .illegalEncoding (module thread { strand with words := [0x04000000, 0] }) ∧
      Runs .headWordInBody plain := by
  have a : Alone plain strand thread := alone_of rfl rfl rfl rfl rfl rfl ⟨rfl, rfl⟩
  have b : Alone (module loading strand) strand loading := alone_of rfl rfl rfl rfl rfl rfl ⟨rfl, rfl⟩
  have c : Alone (module thread { strand with words := [0x04000000, 0] }) { strand with words := [0x04000000, 0] } thread :=
    alone_of rfl rfl rfl rfl rfl rfl ⟨rfl, rfl⟩
  have m : strand.more := more_of rfl
  exact ⟨runs (h.1.1 _ _ _ a m (ready_of (by decide)) trivial),
    runs ((h.1.2.1 0 0 0 0).1 _ _ _ a m (ready_of (by decide)) (by decide)),
    runs ((h.1.2.1 0 15 15 15).2 _ _ _ b (by decide)), runs (h.1.2.2 _ _ _ a),
    runs (h.2.1 127 _ _ _ a (ready_of (by decide)) trivial), runs (h.2.2.1 _ _ _ a (ready_of (by decide)) (by decide)),
    runs (h.2.2.2.1 _ _ _ c (by decide)), runs (h.2.2.2.2 _ _ _ a (ready_of (by decide)) trivial)⟩

/-- A strand at a hint, before a target that accepts it: `hk` 0x12345 before an `addi`, `hx` before a `mad`, `hs` before an `ld`, `hq`
before an `fadd`. -/
def before (hint target : Word) : Strand := { strand with words := [hint, target] }

theorem witness_HintsAreHeldForTheirTarget (h : Obligations.HintsAreHeldForTheirTarget) :
    Runs (.hk 0x012345) (module thread (before 0x04012345 0x40285FFF)) ∧ Runs (.hx 0 9) (module thread (before 0x05000009 0x30000013)) ∧
      Runs (.hs 1 0) (module thread (before 0x06000000 0x80000000)) ∧ Runs (.hq 1 2 0 1) (module thread (before 0x07000000 0x60000000)) := by
  have a : ∀ st : Strand, st.sid = 3 → st.members = [2] → Issuing (module thread st) st := fun st h1 h2 =>
    (alone_of rfl rfl h1 h2 rfl rfl ⟨rfl, rfl⟩ : Alone (module thread st) st thread).toIssuing
  have k := h 0x012345 0 9 1 0 1 2 0 1
  exact ⟨runs (k.1 _ _ 1 0x40285FFF (a _ rfl rfl) rfl (by decide) (by decide) (by decide)),
    runs (k.2.1 _ _ 1 0x30000013 (a _ rfl rfl) rfl (by decide) (by decide) (by decide)),
    runs ((h 0 0 0 1 0 0 0 0 0).2.2.1 _ _ 1 0x80000000 (a _ rfl rfl) rfl (by decide) (by decide) (by decide)),
    runs (k.2.2.2 _ _ 1 0x60000000 (a _ rfl rfl) rfl (by decide) (by decide) (by decide))⟩

/-! ### Memory -/

/-- The thread with the address 0x2000 in the pair of v4, 32 in v6, and 7 in v8. -/
def addressed : Thread := holding [(4, 0x2000, .raw), (6, 32, .int), (8, 7, .int)]

/-- Its module. -/
def atMemory : State := mapped addressed strand

theorem alone_atMemory : Alone atMemory strand addressed := alone_mapped rfl rfl rfl rfl ⟨rfl, rfl⟩

/-- An access to 0x2000 of z bytes. -/
def word (z : Nat) : Access := mkAccess mapping 0x2000 z 0

/-- An access to the core scratchpad at 32 of z bytes. -/
def scratch (z : Nat) : Access := { sp := 2, va := 32, loc := 32, z := z }

theorem witness_LoadsAndStoresGoInFlight (h : Obligations.LoadsAndStoresGoInFlight) :
    Runs (.ld 10 4 0 4 0) atMemory ∧ Runs (.ld 10 6 2 1 0) atMemory ∧ Runs (.ldacq 10 4 0 4 0) atMemory ∧ Runs (.ldq 12 4 0 0) atMemory ∧
      Runs (.st 8 4 0 4 0) atMemory ∧ Runs (.st 8 6 2 4 0) atMemory ∧ Runs (.strel 8 4 0 4 0) atMemory ∧ Runs (.stq 12 4 0 0) atMemory := by
  have a := alone_atMemory
  have m : strand.more := more_of rfl
  have g := h 10 4 0 4 0
  have g2 := h 8 4 0 4 0
  exact ⟨runs_of (g.1 _ _ _ _ _ a m (ready_of (by decide)) ⟨rfl, word 4, ⟨by decide +kernel, rfl⟩, by decide +kernel, rfl⟩),
    runs_of ((h 10 6 2 1 0).1 _ _ _ _ _ a m (ready_of (by decide)) ⟨rfl, scratch 1, ⟨by decide +kernel, rfl⟩, by decide +kernel, rfl⟩),
    runs_of (g.2.1 _ _ _ _ _ a m (ready_of (by decide)) ⟨rfl, word 4, ⟨by decide +kernel, rfl⟩, by decide +kernel, rfl⟩),
    runs_of ((h 12 4 0 0 0).2.2.1 _ _ _ _ _ a m (ready_of (by decide)) ⟨rfl, word 16, ⟨by decide +kernel, rfl⟩, by decide +kernel, rfl⟩),
    runs_of (g2.2.2.2.1 _ _ _ _ _ a m (ready_of (by decide)) ⟨rfl, by decide, word 4, ⟨by decide +kernel, rfl⟩, rfl⟩),
    runs_of ((h 8 6 2 4 0).2.2.2.1 _ _ _ _ _ a m (ready_of (by decide)) ⟨rfl, by decide, scratch 4, ⟨by decide +kernel, rfl⟩, rfl⟩),
    runs_of (g2.2.2.2.2.1 _ _ _ _ _ a m (ready_of (by decide)) ⟨rfl, by decide, word 4, ⟨by decide +kernel, rfl⟩, rfl⟩),
    runs_of ((h 12 4 0 0 0).2.2.2.2.2 _ _ _ _ _ a m (ready_of (by decide)) ⟨rfl, by decide, word 16, ⟨by decide +kernel, rfl⟩, rfl⟩)⟩

/-- An operation of the thread in flight. -/
def flying (c : Ctr) (k : OpKind) : Op :=
  { id := 9, tid := 2, slot := 0, launch := 1, unit := 1, uix := 0, group := 0, core := 0, tslot := 0, cls := c, pc := 0x1004, word := 0,
    kind := k }

/-- The module with one operation in flight. -/
def withOp (o : Op) : State := { atMemory with ops := [o] }

theorem next_of {o : Op} (_ : o.id = 9) (ha : o.arrived = false) : (withOp o).nextToRetire o :=
  ⟨by simp [State.op?, withOp], by simp [withOp, ha], by simp [withOp], by simp [withOp]⟩

/-- The thread that has written its window at 32. -/
def privy : Thread := { addressed with lpWritten := [32, 33, 34, 35] }

/-- A store of four bytes to a place. -/
def storing (loc : Nat) : Op := flying .st (.store { word 4 with loc := loc } [1, 2, 3, 4] none)

/-- A request of module 33. -/
def asked : Packet :=
  { dst := 0, src := 33, vc := 0, typ := 2, ctag := 0, txn := 0, len := 3, op := 0, hops := 0, gh := false, addr := 0x2000, low := 0, rsvd := 0, data := [] }

theorem witness_StoresWriteTheirBytes (h : Obligations.StoresWriteTheirBytes) :
    Runs (.st 8 6 1 4 0) atMemory ∧ Runs (.strel 8 6 1 4 0) atMemory ∧ Runs (.ld 10 6 1 4 0) (mapped privy strand) ∧
      Runs (.storeComplete 9) (withOp (storing 0x2000)) ∧ Runs (.storeComplete 9) (withOp (storing (2 ^ 37))) ∧
      Runs (.storeComplete 9) (withOp (storing (peerPlace 33 0x2000))) ∧
      Runs (.storeComplete 9) (withOp { storing 0x2000 with origin := some asked }) := by
  obtain ⟨⟨p1, p2⟩, q1, q2, q3, q4⟩ := h
  refine ⟨?_, ?_, ?_, ?_, ?_, ?_, ?_⟩
  · exact runs_of (p1 8 6 4 0 (.st 8 6 1 4 0, widthRegs 4 8, 4) (by decide) _ _ _ { sp := 1, va := 32, loc := 32, z := 4 } alone_atMemory
      (more_of rfl) (ready_of (by decide)) ⟨by decide +kernel, rfl⟩ (by decide))
  · exact runs_of (p1 8 6 4 0 (.strel 8 6 1 4 0, widthRegs 4 8, 4) (by decide) _ _ _ { sp := 1, va := 32, loc := 32, z := 4 } alone_atMemory
      (more_of rfl) (ready_of (by decide)) ⟨by decide +kernel, rfl⟩ (by decide))
  · exact runs_of2 (p2 10 6 4 0 (.ld 10 6 1 4 0, widthRegs 4 10, 4, false) (by decide) _ _ privy { sp := 1, va := 32, loc := 32, z := 4 }
      (alone_mapped rfl rfl rfl rfl ⟨rfl, rfl⟩) (more_of rfl) (ready_of (by decide)) ⟨by decide +kernel, rfl⟩
      (fun i h1 h2 => by
        have a : 32 ≤ i := h1
        have b : i < 36 := h2
        have c : privy.lpWritten = [32, 33, 34, 35] := rfl
        rw [c]; simp; omega) (by decide))
  · exact runs_of (q1 (withOp (storing 0x2000)) _ (word 4) _ none (next_of rfl rfl) rfl rfl rfl rfl (by decide) rfl (by decide) (by decide) (by decide))
  · exact runs_of (q2 (withOp (storing (2 ^ 37))) _ { word 4 with loc := 2 ^ 37 } _ (next_of rfl rfl) rfl rfl rfl rfl (by decide) (by decide) (by decide)
      (by decide) (by decide))
  · exact runs (q3 (withOp (storing (peerPlace 33 0x2000))) (storing (peerPlace 33 0x2000)) { word 4 with loc := peerPlace 33 0x2000 } _ 33 rfl rfl rfl rfl (by decide) (by decide) (by decide))
  · exact runs_of (q4 (withOp { storing 0x2000 with origin := some asked }) _ (word 4) _ asked (next_of rfl rfl) rfl rfl rfl rfl (by decide) (by decide))

/-- The window of the core scratchpad is 4,096 bytes: an access at 4,092 fits, at 4,096 it does not. -/
theorem witness_ScratchAccessChecks (h : Obligations.AccessChecks) :
    plain.scratchAccess thread 2 4 2 = .error (.fault { code := 0x0505, addr := 2 }) ∧
      plain.scratchAccess thread 2 4 4096 = .error (.fault { code := 0x0506, addr := 4096 }) ∧
      plain.scratchAccess thread 2 4 (-4) = .error (.fault { code := 0x0506, addr := 0xFFFFFFFFFFFFFFFC }) ∧
      ∃ a, plain.scratchAccess thread 2 4 4092 = .ok a :=
  ⟨(h.1 plain thread 2 4 2 (by decide)).1 (by decide), (h.1 plain thread 2 4 4096 (by decide)).2.1 (by decide) (by decide),
    (h.1 plain thread 2 4 (-4) (by decide)).2.1 (by decide) (by decide),
    ⟨_, (h.1 plain thread 2 4 4092 (by decide)).2.2 4092 (by decide) (by decide) (by decide)⟩⟩

/-- A translation to a page of a class, writable or not. -/
def page (cls : Nat) (w : Bool) : Trans := { mapping with cls := cls, w := w }

/-- A module that holds it. -/
def paged (x : Trans) : State := { atMemory with cores := [(0, { l1tlb := [x] })] }

/-- A translation to a page at module 33. -/
def foreign : Trans := { mapping with peer := some 33 }

/-- The thread whose walk, number 7, of the page at 0x2000 found nothing, and a module that has no translation of it. -/
def failed : Thread := { addressed with begun := some 7 }

def unmapped (ks : List Walk) : State := { atMemory with cores := [(0, {})], walks := ks }

theorem witness_GlobalAccessChecks (h : Obligations.AccessChecks) :
    (∃ f, atMemory.globalAccess addressed 0x1000000000000000 4 0 none needStore = (atMemory, .error (.fault f))) ∧
      (∃ f, atMemory.globalAccess addressed 2 4 0 none needStore = (atMemory, .error (.fault f))) ∧
      (∃ f, ((paged (page 2 true)).globalAccess addressed 0x2000 4 0 none needStore).2 = .error (.fault f)) ∧
      (∃ f, ((paged (page 0 false)).globalAccess addressed 0x2000 4 0 none needStore).2 = .error (.fault f)) ∧
      (∃ x, (atMemory.globalAccess addressed 0x2000 4 0 none needStore).2 = .ok x) ∧
      (∃ x, (({ unmapped [] with dies := [(0, { l2tlb := [mapping] })] } : State).globalAccess addressed 0x2000 4 0 none needStore).2 = .ok x) ∧
      (∃ f, ((paged foreign).globalAccess addressed 0x2000 4 0 none needStore).2 = .error (.fault f)) ∧
      (∃ f, (({ paged foreign with slots := [(0, { v := true, ctagV := true, objs := [launch] })] } : State).globalAccess addressed 0x2000 4 0 none
        needStore).2 = .error (.fault f)) ∧
      (∃ x, (({ paged foreign with slots := [(0, { v := true, ctagV := true, objs := [launch] })], routes := [{ dev := 33, state := .held, minimal := [], nonMinimal := [], escape := none, hops := 1 }] } : State).globalAccess addressed 0x2000 4 0 none
        needStore).2 = .ok x) ∧
      (∃ f, ((unmapped [{ wid := 7, die := 0, slot := 0, cid := 0, vpage := 2, failed := some 3 }]).globalAccess failed 0x2000 4 0 none needStore).2 =
        .error (.fault f)) ∧
      (((unmapped [{ wid := 7, die := 0, slot := 0, cid := 0, vpage := 2 }]).globalAccess addressed 0x2000 4 0 none needStore).2 = .error (.leave (.walk 7))) ∧
      ((unmapped []).globalAccess addressed 0x2000 4 0 none needStore).2 = .error (.leave (.walk 4)) := by
  have g := fun s t ea => h.2 s t ea 4 0 needStore (by decide)
  have hit := fun s t x q hq => ((g s t 0x2000).2.2 (by decide) (by decide)).1 x q hq
  have miss := fun s t h1 h2 => ((g s t 0x2000).2.2 (by decide) (by decide)).2 h1 h2
  refine ⟨⟨_, (g atMemory addressed 0x1000000000000000).1 (by decide)⟩, ⟨_, (g atMemory addressed 2).2.1 (by decide) (by decide)⟩,
    ⟨_, congrArg Prod.snd ((hit (paged (page 2 true)) addressed (page 2 true) _ (.inl ⟨by decide, rfl⟩)).1 0x0502 0 rfl)⟩,
    ⟨_, congrArg Prod.snd ((hit (paged (page 0 false)) addressed (page 0 false) _ (.inl ⟨by decide, rfl⟩)).2.1 rfl rfl rfl)⟩,
    ⟨_, congrArg Prod.snd ((hit atMemory addressed mapping _ (.inl ⟨by decide, rfl⟩)).2.2 rfl (fun _ => rfl) |>.1 rfl)⟩,
    ⟨_, congrArg Prod.snd ((hit { unmapped [] with dies := [(0, { l2tlb := [mapping] })] } addressed mapping _ (.inr ⟨by decide, by decide, rfl⟩)).2.2 rfl
      (fun _ => rfl) |>.1 rfl)⟩,
    ⟨_, congrArg Prod.snd (((hit (paged foreign) addressed foreign _ (.inl ⟨by decide, rfl⟩)).2.2 rfl (fun _ => rfl) |>.2 33 rfl).1 (by decide))⟩,
    ⟨_, congrArg Prod.snd (((hit { paged foreign with slots := [(0, { v := true, ctagV := true, objs := [launch] })] } addressed foreign _
      (.inl ⟨by decide, rfl⟩)).2.2 rfl (fun _ => rfl) |>.2 33 rfl).2.1 (by decide) (by decide +kernel))⟩,
    ⟨_, congrArg Prod.snd (((hit { paged foreign with slots := [(0, { v := true, ctagV := true, objs := [launch] })], routes := [{ dev := 33, state := .held, minimal := [], nonMinimal := [], escape := none, hops := 1 }] } addressed foreign _
      (.inl ⟨by decide, rfl⟩)).2.2 rfl (fun _ => rfl) |>.2 33 rfl).2.2 (by decide) (by decide) (by decide +kernel))⟩,
    ⟨_, congrArg Prod.snd ((miss (unmapped [{ wid := 7, die := 0, slot := 0, cid := 0, vpage := 2, failed := some 3 }]) failed (by decide) (by decide)).1 3
      (by decide))⟩,
    congrArg Prod.snd (((miss (unmapped [{ wid := 7, die := 0, slot := 0, cid := 0, vpage := 2 }]) addressed (by decide) (by decide)).2 (by decide)).1
      { wid := 7, die := 0, slot := 0, cid := 0, vpage := 2 } (by decide)),
    congrArg Prod.snd (((miss (unmapped []) addressed (by decide) (by decide)).2 (by decide)).2 (by decide))⟩

theorem witness_AtomicsGoInFlight (h : Obligations.AtomicsGoInFlight) :
    Runs (.atomAdd 10 4 8) atMemory ∧ Runs (.atomnAdd64 4 8) atMemory ∧ Runs (.cas 10 4 8) (mapped addressed hinted) ∧
      Runs (.cas64 10 4 8) (mapped addressed hinted) := by
  have a := alone_atMemory
  have b : Alone (mapped addressed hinted) hinted addressed := alone_mapped rfl rfl rfl rfl ⟨rfl, rfl⟩
  have m : strand.more := more_of rfl
  have n : hinted.more := more_of rfl
  obtain ⟨g1, _, _, _, _, _, _, _, _, _, _, _, _, _, _, _, _, _, _, _, _, _, _, _, _, _, _, _, g2, _, g3, g4⟩ := h 10 4 8
  exact ⟨runs_of (g1 _ _ _ _ _ a m (ready_of (by decide)) ⟨rfl, by decide, word 4, by decide +kernel, rfl⟩),
    runs_of (g2 _ _ _ _ _ a m (ready_of (by decide)) ⟨rfl, by decide, word 8, by decide +kernel, rfl⟩),
    runs_of (g3 _ _ _ _ _ b n rfl (by decide) (ready_of (by decide)) rfl (by decide) ⟨word 4, by decide +kernel, rfl⟩),
    runs_of (g4 _ _ _ _ _ b n rfl (by decide) (ready_of (by decide)) rfl (by decide) ⟨word 8, by decide +kernel, rfl⟩)⟩

/-- An atomic add at its home, for a word that no other die holds. -/
def adding : Op := flying .ld (.atomic (word 4) .add 7 0 .home false)

theorem witness_AtomicsUpdateTheirWord (h : Obligations.AtomicsUpdateTheirWord) :
    Runs (.atomicBatchArrival 9 false) (withOp adding) ∧ atomValue .incw 5 5 0 = 0 := by
  constructor
  · exact runs_of (h.2 (withOp adding) adding (word 4) .add 7 0 false rfl rfl rfl rfl rfl (by decide) (by decide +kernel) rfl (by decide) (by decide))
  · exact (h.1 5 5 0 0 0).2.2.2.2.2.2.2.2.2.2.1

/-- A scratch load, a scratch store, an atomic that was served, and a fence, each alone in flight. -/
theorem witness_OperationsComplete (h : Obligations.OperationsComplete) :
    Runs (.loadComplete 9 false) (withOp (flying .ld (.load (scratch 4) false none))) ∧
      Runs (.loadComplete 9 false) (withOp (flying .ld (.load { scratch 4 with sp := 1 } false none))) ∧
      Runs (.loadComplete 9 false) (withOp (flying .ld (.load (word 4) false none))) ∧
      Runs (.storeComplete 9) (withOp (flying .st (.store (scratch 4) [1, 2, 3, 4] none))) ∧
      Runs (.atomicComplete 9) (withOp { adding with served := true }) ∧
      Runs (.fenceComplete 9) (withOp (flying .none (.fence (some 0) none))) := by
  have g := fun (o : Op) (h1 : o.id = 9) (ha : o.arrived = false) (ht : o.tid = 2) (hr : o.origin = none) (hf : o.fault = none) =>
    h (withOp o) o addressed (next_of h1 ha) (by rw [ht]; rfl) (by decide) hr hf (by simp [withOp, atMemory, mapped, module])
  exact ⟨runs_of ((g (flying .ld (.load (scratch 4) false none)) rfl rfl rfl rfl rfl).1 _ _ rfl (by decide) (by decide)),
    runs_of ((g (flying .ld (.load { scratch 4 with sp := 1 } false none)) rfl rfl rfl rfl rfl).2.1 _ _ rfl (by decide) (by decide)),
    runs_of ((g (flying .ld (.load (word 4) false none)) rfl rfl rfl rfl rfl).2.2.1 _ _ rfl (by decide) (by decide) (by decide) (by decide) (by decide +kernel)),
    runs_of ((g (flying .st (.store (scratch 4) [1, 2, 3, 4] none)) rfl rfl rfl rfl rfl).2.2.2.1 _ _ rfl (by decide) (by decide) (by decide)),
    runs_of ((g { adding with served := true } rfl rfl rfl rfl rfl).2.2.2.2.1 _ _ _ _ _ _ rfl (by decide) rfl),
    runs_of ((g (flying .none (.fence (some 0) none)) rfl rfl rfl rfl rfl).2.2.2.2.2 _ _ rfl)⟩

/-- A unit of two threads whose barrier 5 awaits a second arrival. -/
def opened (np na : Nat) : State :=
  { module (holding [(4, 2, .int)]) strand with units := [{ unit with nthreads := 2, barriers := [(5, { opened := true, np := np, na := na })] }] }

theorem witness_BarriersCountArrivals (h : Obligations.BarriersCountArrivals) :
    Runs (.barArrive 4 6) (opened 2 1) ∧ Runs (.bar 4 6) (opened 2 1) ∧ Runs (.barArrive 4 5) (opened 2 1) ∧ Runs (.bar 4 5) (opened 2 1) ∧
      Runs (.barWait 6) (opened 2 1) ∧ Runs (.barWait 5) (opened 2 1) ∧
      Runs (.bar 4 5) { opened 2 1 with ops := [flying .ld (.load (scratch 4) false none)] } ∧
      Runs (.barArrive 4 5) { opened 2 1 with units := [unit] } ∧ Runs (.bar 4 5) (opened 1 0) ∧
      ((opened 2 1).arrived (holding [(4, 2, .int)]) 4 5).holds thread (.barrier 5 0) = true := by
  have a : Alone (opened 2 1) strand (holding [(4, 2, .int)]) := alone_of rfl rfl rfl rfl rfl rfl ⟨rfl, rfl⟩
  have b : Alone { opened 2 1 with ops := [flying .ld (.load (scratch 4) false none)] } strand (holding [(4, 2, .int)]) :=
    alone_of rfl rfl rfl rfl rfl rfl ⟨rfl, rfl⟩
  have c : Alone { opened 2 1 with units := [unit] } strand (holding [(4, 2, .int)]) := alone_of rfl rfl rfl rfl rfl rfl ⟨rfl, rfl⟩
  have d : Alone (opened 1 0) strand (holding [(4, 2, .int)]) := alone_of rfl rfl rfl rfl rfl rfl ⟨rfl, rfl⟩
  have f := h.2.2.2.2.2.1 4 5
  have m : strand.more := more_of rfl
  have r6 : ((opened 2 1).atWord strand).barrierReady (holding [(4, 2, .int)]) 4 6 :=
    ⟨ready_of (by decide), by decide, by decide, by decide, by decide⟩
  have r5 : ((opened 2 1).atWord strand).barrierReady (holding [(4, 2, .int)]) 4 5 :=
    ⟨ready_of (by decide), by decide, by decide, by decide, by decide⟩
  exact ⟨runs (h.1 4 6 _ _ _ a m r6), runs (h.2.2.1 4 6 _ _ _ a r6 (by unfold State.lastToArrive; decide)), runs (h.1 4 5 _ _ _ a m r5),
    runs (h.2.1 4 5 _ _ _ a r5 (by unfold State.lastToArrive; decide) m), runs (h.2.2.2.1 6 _ _ _ a m (by decide)),
    runs (h.2.2.2.2.1 5 _ _ _ a (by decide)), runs ((f _ (.head _)).1 _ _ _ b (ready_of (by decide)) (by decide)),
    runs ((f _ (.tail _ (.head _))).2.1 _ _ _ c (ready_of (by decide)) (by decide)),
    runs ((f _ (.head _)).2.2 _ _ _ d (ready_of (by decide)) (by decide)),
    h.2.2.2.2.2.2 (opened 2 1) (holding [(4, 2, .int)]) thread 4 5 rfl rfl (by unfold State.lastToArrive; decide)⟩

/-- A release and an acquire at core scope with nothing in flight, and one at device scope behind a load. -/
theorem witness_FencesAndPrefetch (h : Obligations.FencesAndPrefetch) :
    Runs (.fenceRel 0) plain ∧ Runs (.fenceAr 0) plain ∧ Runs (.fenceAcq 3) (withOp (flying .ld (.load (scratch 4) false none))) ∧ Runs (.pf 4 0 0) plain := by
  have a : Alone plain strand thread := alone_of rfl rfl rfl rfl rfl rfl ⟨rfl, rfl⟩
  have b : Alone (withOp (flying .ld (.load (scratch 4) false none))) strand addressed := alone_of rfl rfl rfl rfl rfl rfl ⟨rfl, rfl⟩
  have m : strand.more := more_of rfl
  exact ⟨runs ((h.1 0 _ _ _ a m).2.1.1 (by decide) (by decide) rfl), runs ((h.1 0 _ _ _ a m).2.2.2 (by decide)),
    runs ((h.1 3 _ _ _ b m).1.2 (by decide)), runs_of (h.2 4 0 0 _ _ _ a m (by decide) (by decide) (by decide) (by decide))⟩

/-- `$cyc.lo` (17), the pair `$seed` (16) and the budget (20). -/
theorem witness_SpecialRegisterReads (h : Obligations.SpecialRegisterReads) :
    Runs (.movs 1 17) plain ∧ Runs (.movs 2 16) plain ∧ Runs (.movs 1 20) plain ∧ plain.special thread 20 = 128 := by
  have a : Alone plain strand thread := alone_of rfl rfl rfl rfl rfl rfl ⟨rfl, rfl⟩
  have m : strand.more := more_of rfl
  exact ⟨runs (h.1 1 17 _ _ _ a m (ready_of (by decide)) trivial), runs (h.1 2 16 _ _ _ a m (ready_of (by decide)) trivial),
    runs (h.1 1 20 _ _ _ a m (ready_of (by decide)) trivial), (h.2 plain thread unit rfl (by decide)).2.2.2.2.2.2.2.2.2.2.1⟩

/-! ### Conserved fields -/

/-- A page of 4 KiB that maps to itself. -/
def small (base cls : Nat) : Trans := { mapping with vbase := base, pbase := base, size := 0x1000, cls := cls }

/-- A field of two ordinary cells at 0x3000, fraction 16, initial total 7. -/
def field : FieldSt := { words := [0x3000, 0, 1, 16, 7] ++ List.replicate 11 0, usable := true, gen := 1, pages := [small 0x3000 1] }

/-- The thread with field 3 selected, cell numbers 0 and 1 in v2 and v3, 2 in v4, at a level. -/
def fielder (l : Level) : Thread := { holding [(2, 0, .int), (3, 1, .int), (4, 2, .cq), (5, 256, .int), (6, 0x2000, .raw)] with field := 3, level := l }

/-- The module with the field installed, cells 5 and 2; its descriptor stands at 0x2000. -/
def fielded (l : Level) (fs : Sparse FieldSt) : State :=
  { module (fielder l) strand with
    cores := [(0, { l1tlb := [small 0x2000 0, small 0x3000 1] })]
    slots := [(0, { v := true, objs := [launch], fields := fs })]
    mem := [(0x2001, 0x30), (0x2008, 1), (0x200C, 16), (0x2010, 7), (0x3000, 5), (0x3004, 2)] }

theorem alone_fielded (l : Level) (fs : Sparse FieldSt) : Alone (fielded l fs) strand (fielder l) := alone_of rfl rfl rfl rfl rfl rfl ⟨rfl, rfl⟩

theorem witness_FieldSelectionAndDescription (h : Obligations.FieldSelectionAndDescription) :
    let s := fielded .user [(3, field)]
    Runs (.fsel 3) { s with slots := [(0, { v := true, objs := [launch], fields := [(1, field), (3, field)] })] } ∧ Runs (.fsel 5) s ∧
      Runs (.finfo 8 0 0) s ∧ Runs (.finfo 8 0 1) s ∧ Runs (.finfo 8 0 2) s ∧ Runs (.finfo 8 3 3) s ∧ Runs (.finfo 8 0 4) s ∧
      Runs (.cvtF32Cq 8 4) s ∧ Runs (.cvtCqF32 8 9) s ∧ plain.currentField thread = .error (.fault { code := 0x0603 }) := by
  have a := alone_fielded .user [(3, field)]
  have m : strand.more := more_of rfl
  have g := h 8 0
  have c : ((fielded .user [(3, field)]).atWord strand).currentField (fielder .user) = .ok field := by decide +kernel
  refine ⟨runs ((h 8 3).1 _ strand (fielder .user) (alone_of rfl rfl rfl rfl rfl rfl ⟨rfl, rfl⟩) m (ready_of (by decide)) ⟨by decide, by decide⟩),
    runs ((h 8 5).1 _ _ _ a m (ready_of (by decide)) ⟨by decide, by decide⟩), runs ((g.2.1 field).1 _ _ _ a m (ready_of (by decide)) c),
    runs ((g.2.1 field).2.1 _ _ _ a m (ready_of (by decide)) c), runs ((g.2.1 field).2.2.1 _ _ _ a m (ready_of (by decide)) c),
    runs (((h 8 3).2.1 field).2.2.2.1 _ _ _ a m (ready_of (by decide)) c), runs ((g.2.1 field).2.2.2.2 _ _ _ a m (ready_of (by decide)) c),
    runs (((h 8 4).2.2.1 16).1 _ _ _ a m (ready_of (by decide)) (by decide)),
    runs (((h 8 9).2.2.1 16).2 _ _ _ a m (ready_of (by decide)) (by decide)), g.2.2.2 plain thread (by decide)⟩

theorem witness_FieldOperationsGoInFlight (h : Obligations.FieldOperationsGoInFlight) :
    let s := fielded .user [(3, field)]
    Runs (.xfer 4 2 3) s ∧ Runs (.fld 8 2) s ∧ Runs (.ftot 8 0 0) s ∧ Runs (.ftot 124 0 5) s ∧ Runs (.fchk 8 2) s ∧
      Runs (.fdecl 3 8) (fielded .supervisor [(3, field)]) := by
  have a := alone_fielded .user [(3, field)]
  have m : strand.more := more_of rfl
  have c : ((fielded .user [(3, field)]).atWord strand).currentField (fielder .user) = .ok field := by decide +kernel
  exact ⟨runs_of ((h 4 2 3 0 0).1 _ _ _ _ _ a m (ready_of (by decide)) ⟨rfl, by decide, field, some 0x3000, some 0x3004,
      (((fielded .user [(3, field)]).atWord strand).cellAccess (fielder .user) field 0 true).1, c, by decide, by decide, by decide,
      by decide, by decide, rfl, by decide +kernel, by decide +kernel, rfl⟩),
    runs_of ((h 8 2 0 0 0).2.1 _ _ _ _ _ a m (ready_of (by decide)) ⟨rfl, by decide, field, some 0x3000, c, by decide, by decide,
      by decide +kernel, rfl⟩),
    runs_of ((h 8 0 0 0 0).2.2.1 _ _ _ _ _ a m (ready_of (by decide)) ⟨rfl, by decide, field, c, by decide, by decide, rfl⟩),
    runs ((h 124 0 0 0 0).2.2.2.1 _ _ _ a (ready_of (by decide)) (by decide)),
    runs_of ((h 8 2 0 0 0).2.2.2.2.1 _ _ _ _ _ a m (ready_of (by decide)) ⟨rfl, by decide, field, c, by decide, rfl⟩),
    runs_of ((h 0 3 8 0 0).2.2.2.2.2 _ _ _ _ _ (alone_fielded .supervisor [(3, field)]) m (ready_of (by decide))
      ⟨rfl, by decide, by decide, by decide, by decide, rfl⟩)⟩

/-- A computation that ends well. -/
theorem ok_of {α β ε : Type} {r : α × Except ε β} (h : (match r.2 with | .ok _ => true | .error _ => false) = true) :
    ∃ x y, r = (x, .ok y) := by
  obtain ⟨a, e | b⟩ := r
  · cases h
  · exact ⟨a, b, rfl⟩

/-- The module of a field operation in flight, with the field's cells and a descriptor in a state of use. -/
def fieldOp (usable : Bool) (k : OpKind) : State :=
  { fielded .user [(3, { field with usable := usable })] with ops := [flying .st k] }

/-- The words of the descriptor at 0x2000. -/
def descriptor : List Word := [0x3000, 0, 1, 16, 7] ++ List.replicate 11 0

/-- The thread at Supervisor level, to which those words have come. -/
def informed : Thread := { fielder .supervisor with descr := descriptor }

/-- The module before its `fdecl`. -/
def declaring (t : Thread) : State := { fielded .supervisor [] with threads := [t] }

theorem issuing_declaring (t : Thread) (h1 : t.tid = 2) (h2 : t.held = []) (h3 : t.owes = none) : Issuing (declaring t) strand where
  found := rfl
  named := by simp [declaring, fielded, module]
  threads := by simp [State.threadsNamed, declaring]
  some' := by decide
  distinct := by decide
  present := by
    intro m hm
    have : m = 2 := by simpa [strand] using hm
    exact ⟨t, by simp [State.thread?, declaring, h1, this], h2, h3⟩

/-- The module of a descriptor's read in flight. -/
def descrRead : Op := flying .none (.descr (mkAccess (small 0x2000 0) 0x2000 64 0))

theorem witness_FieldsAreInstalledAndRemoved (h : Obligations.FieldsAreInstalledAndRemoved) :
    Runs (.fdecl 3 6) (declaring (fielder .supervisor)) ∧ Runs (.loadComplete 9 false) { fielded .supervisor [] with ops := [descrRead] } ∧
      Runs (.fdecl 3 6) (declaring informed) ∧ Runs (.fdeclHomeComplete 9) (fieldOp true (.fdecl 3 0)) ∧
      Runs (.fdeclHomeComplete 9) (fieldOp false (.fdecl 3 0x2000)) ∧
      Runs (.fdeclHomeComplete 9) { fieldOp false (.fdecl 3 0x2000) with mem := [] } := by
  have m : strand.more := more_of rfl
  obtain ⟨h1, h2, h3, h4, h5⟩ := h
  have o : ∀ k, (fieldOp true k).op? 9 = some (flying .st k) := fun _ => rfl
  refine ⟨?_, ?_, ?_, runs ((h5 (fieldOp true (.fdecl 3 0)) (flying .st (.fdecl 3 0)) 3 0 rfl rfl rfl (by decide)).1 rfl (by decide)),
    runs (((h5 (fieldOp false (.fdecl 3 0x2000)) (flying .st (.fdecl 3 0x2000)) 3 0x2000 rfl rfl rfl (by decide)).2
      { field with usable := false } (by decide) rfl (by decide) (by decide) (by decide +kernel) (by decide +kernel)).1
      ⟨by decide +kernel, by decide +kernel⟩ (by decide +kernel)),
    runs (((h5 { fieldOp false (.fdecl 3 0x2000) with mem := [] } (flying .st (.fdecl 3 0x2000)) 3 0x2000 rfl rfl rfl
      (by decide)).2 { field with usable := false } (by decide) rfl (by decide) (by decide) (by decide +kernel) (by decide +kernel)).2 (by decide +kernel))⟩
  · have q := runs_of (h3 { fielded .supervisor [] with ops := [descrRead] } descrRead (fielder .supervisor) (mkAccess (small 0x2000 0) 0x2000 64 0)
      ⟨rfl, by decide, by decide, by decide⟩ rfl rfl rfl rfl rfl (by decide +kernel) rfl (by decide) (by unfold State.threadsNamed; decide))
    let s := (((declaring (fielder .supervisor)).atWord strand).releasePush 0 2).codeOut (fielder .supervisor) 3
    exact runs (h1 3 6 _ strand (fielder .supervisor) (s.globalAccess (fielder .supervisor) 0x2000 64 0 none (needLoad false)).1
      (mkAccess (small 0x2000 0) 0x2000 64 0) (issuing_declaring _ rfl rfl rfl) rfl rfl (ready_of (by decide)) (by decide) (by decide)
      (by decide) (by decide) (by decide) (by decide) (by decide +kernel) rfl rfl)
  · exact runs (h2 { fielded .supervisor [] with ops := [descrRead] } descrRead (mkAccess (small 0x2000 0) 0x2000 64 0) rfl rfl rfl rfl)
  · let s := (((declaring informed).atWord strand).releasePush 0 2).codeOut informed 3
    let s1 := (s.globalAccess informed 0x2000 64 0 none (needLoad false)).1
    obtain ⟨s2, ps, e⟩ := ok_of (r := s1.cellPages informed (declared s1 informed) 0 ((declared s1 informed).n - 0) []) (by decide +kernel)
    exact runs (h4 3 6 _ strand informed s1 (mkAccess (small 0x2000 0) 0x2000 64 0) s2 ps (issuing_declaring _ rfl rfl rfl) rfl rfl m
      (ready_of (by decide)) (by decide) (by decide) (by decide) (by decide) (by decide) (by decide) (by decide +kernel) (by decide)
      (by decide +kernel) e)

/-- Without a half-sector whose code disagrees every check passes. -/
theorem homeGood {s : State} (h : s.codes = []) (loc n : Nat) : s.homeBad loc n = false := by
  simp [State.homeBad, codesBad, h, Sparse.get, Sparse.find]

/-- A transfer of m from cell 0 to cell 1 at a step, with locks held. -/
def moving (m : Word) (x : XferStep) (ls : List Lock) : State :=
  { fieldOp true (.xfer 3 0 1 m (some 0x3000) (some 0x3004) x) with locks := ls }

/-- Its lock on a cell. -/
def lockAt (cell : Nat) (first : Bool) : Lock := { cell := cell, op := 9, first := first }

theorem witness_TransferSteps (h : Obligations.TransferSteps) :
    Runs (.xferCoordinatorRequest 9) (moving 2 .sent []) ∧ Runs (.xferCoordinatorRequest 9) (moving 2 .sent [{ lockAt 0x3000 true with op := 8 }]) ∧
      Runs (.lockEntryGrant 9) { moving 2 .waitFirst [] with lockWait := [lockAt 0x3000 true] } ∧
      Runs (.xferSecondLock 9) (moving 2 .first [lockAt 0x3000 true]) ∧ Runs (.xferSecondLock 9) (moving 6 .first [lockAt 0x3000 true]) ∧
      Runs (.xferSecondLock 9) { moving 2 .first [lockAt 0x3000 true] with mem := [(0x3000, 5), (0x3004, 0xFE), (0x3005, 0xFF), (0x3006, 0xFF), (0x3007, 0xFF)] } ∧
      Runs (.xferCommit 9) (moving 2 .commit [lockAt 0x3000 true, lockAt 0x3004 false]) ∧
      Runs (.xferUnlock 9) (moving 6 .unlock [lockAt 0x3000 true, lockAt 0x3004 false]) ∧
      Runs (.xferAcknowledge 9) (moving 2 .acked [lockAt 0x3000 true]) ∧ Runs (.xferComplete 9) (moving 2 .applied []) := by
  have g := fun (s : State) (m : Word) (x : XferStep) (hs : s.op? 9 = some (flying .st (.xfer 3 0 1 m (some 0x3000) (some 0x3004) x)))
      (hc : s.codes = []) =>
    h s (flying .st (.xfer 3 0 1 m (some 0x3000) (some 0x3004) x)) 3 0 1 m 0x3000 0x3004 x hs rfl rfl (by decide) (by decide) (by decide) (homeGood hc _ _) (homeGood hc _ _)
  exact ⟨runs (((g (moving 2 .sent []) 2 .sent rfl rfl).1 rfl (by decide) (by decide) (by decide)).1 (by decide) (by decide)),
    runs (((g (moving 2 .sent [{ lockAt 0x3000 true with op := 8 }]) 2 .sent rfl rfl).1 rfl (by decide) (by decide) (by decide)).2
      (by decide)),
    runs ((g { moving 2 .waitFirst [] with lockWait := [lockAt 0x3000 true] } 2 .waitFirst rfl rfl).2.1 rfl rfl (by decide)),
    runs (((g (moving 2 .first [lockAt 0x3000 true]) 2 .first rfl rfl).2.2.1 rfl (by decide) (by decide) rfl).1 (by decide) (by decide)),
    runs (((g (moving 6 .first [lockAt 0x3000 true]) 6 .first rfl rfl).2.2.1 rfl (by decide) (by decide) rfl).2.1 (by decide)),
    runs (((g { moving 2 .first [lockAt 0x3000 true] with mem := [(0x3000, 5), (0x3004, 0xFE), (0x3005, 0xFF), (0x3006, 0xFF), (0x3007, 0xFF)] }
      2 .first rfl rfl).2.2.1 rfl (by decide) (by decide) rfl).2.2 (by decide) (by decide)),
    runs ((g (moving 2 .commit [lockAt 0x3000 true, lockAt 0x3004 false]) 2 .commit rfl rfl).2.2.2.1 rfl),
    runs ((g (moving 6 .unlock [lockAt 0x3000 true, lockAt 0x3004 false]) 6 .unlock rfl rfl).2.2.2.2.1 rfl),
    runs ((g (moving 2 .acked [lockAt 0x3000 true]) 2 .acked rfl rfl).2.2.2.2.2.1 rfl rfl (by decide)),
    runs ((g (moving 2 .applied []) 2 .applied rfl rfl).2.2.2.2.2.2 (.inl rfl) rfl rfl (by decide) (by decide))⟩

/-- Cells 5 and 2: their sum is 7 before and after a transfer of 9. -/
theorem witness_TransferConservesTheTotal (h : Obligations.TransferConservesTheTotal) :
    let s := moving 9 .commit []
    let o := flying .st (.xfer 3 0 1 9 (some 0x3000) (some 0x3004) .commit)
    let t := (s.changeCell o s.dev 3 9 (some 0x3000) (some 0x3004) 0x3004).changeCell o s.dev 3 9 (some 0x3000) (some 0x3004) 0x3000
    t.trueAt 0x3000 + t.trueAt 0x3004 = s.trueAt 0x3000 + s.trueAt 0x3004 :=
  (h (moving 9 .commit []) (flying .st (.xfer 3 0 1 9 (some 0x3000) (some 0x3004) .commit)) 3 9 0x3000 0x3004 (by decide) (by decide)
    (by decide) (by decide)).2.2

/-- A change of the interior on its way to the device's set. -/
def change : CounterUpd :=
  { uid := 7, op := 9, cell := 0x3000, slot := 0, fid := 3, key := 8, dInterior := -2, dEmitted := 0, dAbsorbed := 0, dRange := 0 }

theorem witness_CounterSetsAndCellReads (h : Obligations.CounterSetsAndCellReads) :
    Runs (.counterSetUpdate 7) { plain with updates := [change] } ∧
      Runs (.counterSetAcknowledgement 7) { plain with updates := [{ change with applied := true }] } ∧
      Runs (.cellReadServed 9) (fieldOp true (.cellRead 3 0 (some 0x3000) false)) ∧
      Runs (.ftotHoldTimeout 9) { fieldOp true (.totals 3 9 0) with dies := [(0, { cyc := 3000 })] } := by
  refine ⟨runs_of (h.1 _ change rfl rfl), runs (h.2.1 { plain with updates := [{ change with applied := true }] } { change with applied := true }
    rfl rfl (by decide)), ?_, runs (h.2.2.2 { fieldOp true (.totals 3 9 0) with dies := [(0, { cyc := 3000 })] } (flying .st (.totals 3 9 0)) 3 0 rfl rfl rfl (by decide)
      (by decide))⟩
  exact runs_of (h.2.2.1 _ (flying .st (.cellRead 3 0 (some 0x3000) false)) (fielder .user) 3 0 0x3000
    ⟨rfl, by decide, by decide, by decide⟩ rfl (by decide) rfl rfl (by decide) (by decide) (by decide) rfl (by decide) (by unfold State.threadsNamed; decide))

/-! ### The Weaver, walks, the system -/

/-- A ready thread at 0x1004 inside the block. -/
def ready : Thread := { thread with pc := 0x1004, state := .ready 0 }

/-- An entry for that resume point. -/
def entry : Entry := { num := 6, resume := true, cid := 0, launchNo := 0, pc := 0x1004, blk := block }

/-- A module whose core 0 holds the entry, with no strand. -/
def waiting : State :=
  { mapped ready strand with strands := [], cores := [(0, { l1tlb := [mapping], table := [(0, entry)] })] }

/-- The same at the block's head, 0x1000, where a block of two words stands. -/
def heading : State :=
  { mapped { ready with pc := 0x1000 } strand with
    strands := [], cores := [(0, { l1tlb := [mapping], table := [(0, { entry with resume := false, pc := 0x1000 })] })],
    mem := [(0x1000, 2), (0x1003, 0xF8)] }

/-- A thread in the overflow queue. -/
def queued : Thread := { thread with tid := 8, slot := 64, index := 0, pc := 0x1000, state := .queued .none }

/-- A module whose context holds one entry, its quota, with a blocked waiter, while the queue's thread is ready. -/
def starving : State :=
  { mapped { ready with state := .blocked (.op 99) } strand with
    threads := [{ ready with state := .blocked (.op 99) }, queued]
    strands := []
    ops := [{ flying .ld (.load (scratch 4) false none) with id := 99 }]
    cores := [(0, { l1tlb := [mapping], table := [(0, entry)], queue := [8] })]
    slots := [(0, { v := true, objs := [launch], qBt := 1 })] }

theorem witness_WeaverMovesThreads (h : Obligations.WeaverMovesThreads) :
    Runs (.formStrand 0 0) { waiting with cores := [(0, { formedAt1 := some 0 })] } ∧ Runs (.formStrand 0 0) waiting ∧ Runs (.formStrand 0 0) heading ∧
      Runs (.overflowQueueMove 0) { plain with threads := [queued], cores := [(0, { queue := [8] })] } ∧
      Runs (.overflowQueueMove 0) { plain with cores := [(0, { queue := [8], movedAt := some 0 })] } ∧ Runs (.spillEntry 0) starving ∧
      Runs (.bankReadRetry 3) plain :=
  ⟨runs (h.1 { waiting with cores := [(0, { formedAt1 := some 0 })] } 0 0 (by decide) (by decide)),
    runs_of (h.2.1 waiting 0 0 0 entry ready [] block [0, 0] (by decide) (by decide) (by decide +kernel) (by decide +kernel) (by decide)
      (by unfold State.threadsNamed; decide) (.inl ⟨rfl, by decide, rfl, by decide +kernel⟩)),
    runs_of (h.2.1 heading 0 0 0 { entry with resume := false, pc := 0x1000 } { ready with pc := 0x1000 } [] { block with gath := false } [0, 0]
      (by decide) (by decide) (by decide +kernel) (by decide +kernel) (by decide) (by unfold State.threadsNamed; decide)
      (.inr ⟨rfl, 0xF8000002, by decide +kernel, by decide +kernel, by decide +kernel⟩)),
    runs (h.2.2.1 { plain with threads := [queued], cores := [(0, { queue := [8] })] } 0 8 queued (by decide) (by decide) rfl rfl
      (by decide) (by decide +kernel)),
    runs (h.2.2.2.1 { plain with cores := [(0, { queue := [8], movedAt := some 0 })] } 0 (by decide) rfl),
    runs (h.2.2.2.2.1 starving 0 queued (0, entry) { ready with state := .blocked (.op 99) } (by decide) (by decide) (by decide +kernel)
      (by decide +kernel) (by decide +kernel)),
    runs (h.2.2.2.2.2 plain 3)⟩

/-- A walk for the page 0x2000 of context slot 0, with its root as it stood when it started. -/
def walk (stale valid : Bool) : Walk :=
  { wid := 5, die := 0, slot := 0, cid := 0, vpage := 2, running := true, root := 0x10000, rootValid := valid, stale := stale }

/-- The module of a walk, whose thread waits for it: the root names a table of level 3 whose first entry is a leaf of 8 GiB. -/
def walked (w : Walk) : State :=
  { module { thread with begun := some 5, state := .blocked (.walk 5) } strand with
    strands := [], walks := [w], mem := [(0x10000, 1), (0x10001, 0x10), (0x10002, 1), (0x11000, 0xF)] }

/-- A remote line of die 1 with a delta, and one with a dirty byte. -/
def remote (l : RemoteLine) : State := { plain with dies := [(1, { remote := [(64, l)] })] }

/-- A release behind a store to the unreachable peer 7. -/
def releasing : State :=
  let st : Op := { flying .st (.store { word 4 with loc := 8 * 2 ^ 46 + 0x2000 } [1, 2, 3, 4] none) with id := 8 }
  let p : Packet :=
    { dst := 7, src := 0, vc := 0, typ := 2, ctag := 0, txn := 0, len := 3, op := 0, hops := 0, gh := false, addr := 0x2000, low := 0, rsvd := 0,
      data := [1, 2, 3, 4] }
  { plain with
    ops := [st, flying .none (.fence none (some 3))], reqs := [{ op := 8, tid := 2, slot := 0, pkt := p }], now := 1200000,
    dies := [(0, { cyc := 1200000 })] }

theorem witness_WalksAndWriteHomes (h : Obligations.WalksAndWriteHomes) :
    Runs (.pageWalkStart 0) (walked { walk false false with running := false }) ∧ Runs (.pageWalkComplete 5) (walked (walk true true)) ∧
      Runs (.pageWalkComplete 5) (walked (walk false true)) ∧ Runs (.pageWalkComplete 5) (walked (walk false false)) ∧
      Runs (.deltaWriteHome 1 64) (remote { deltas := [(4, { wide := false, val := 3 })] }) ∧
      Runs (.remoteEviction 1 64) (remote { copy := [(5, 7)], dirty := [5] }) ∧ Runs (.peerReleaseTimeout 9) releasing := by
  obtain ⟨g1, g2, g3, g4, g5⟩ := h
  exact ⟨runs (g1 (walked { walk false false with running := false }) 0 { walk false false with running := false } (by decide) rfl rfl rfl rfl
      (by decide)),
    runs ((g2 (walked (walk true true)) (walk true true) rfl rfl rfl).1 rfl),
    runs ((g2 (walked (walk false true)) (walk false true) rfl rfl rfl).2.1
      { cid := 0, glob := false, vbase := 0, size := 2 ^ 33, pbase := 0, cls := 0, w := true, x := true, peer := none, pc := false } _ rfl
      (Prod.ext (by decide +kernel) rfl)),
    runs ((g2 (walked (walk false false)) (walk false false) rfl rfl rfl).2.2 7 _ rfl (Prod.ext (by decide +kernel) rfl)
      (by decide)),
    runs_of (g3 (remote { deltas := [(4, { wide := false, val := 3 })] }) 1 64 4 3 (by decide) (by decide) rfl),
    runs_of (g4 (remote { copy := [(5, 7)], dirty := [5] }) 1 64 5 (by decide) (by decide) rfl rfl),
    runs (g5 releasing (flying .none (.fence none (some 3)))
      { flying .st (.store { word 4 with loc := 8 * 2 ^ 46 + 0x2000 } [1, 2, 3, 4] none) with id := 8 } _ _ _ rfl rfl rfl
      (by decide +kernel) rfl)⟩

/-- A parked thread in slot 1. -/
def parked : Thread := { thread with tid := 8, slot := 1, index := 1, state := .parked }

/-- A module of a thread at a level, with the parked thread beside it; v2 holds that thread's locator and v3 its own. -/
def lord (l : Level) : Thread := { holding [(2, 1, .int), (3, 0, .int), (4, 0x2000, .raw), (6, 0x1000, .raw), (10, 5, .int)] with level := l }

/-- That module. -/
def court (l : Level) : State := { module (lord l) strand with threads := [lord l, parked] }

theorem alone_court (l : Level) : Alone (court l) strand (lord l) where
  found := rfl
  named := by simp [court, module]
  threads := by unfold State.threadsNamed; cases l <;> decide
  some' := by decide
  distinct := by decide
  present := by
    intro m hm
    simp only [strand, List.mem_singleton] at hm
    subst hm
    exact ⟨lord l, rfl, rfl, rfl⟩
  only := rfl
  thread := rfl
  fresh := ⟨⟨rfl, rfl⟩, rfl, rfl⟩

theorem witness_SystemInstructions (h : Obligations.SystemInstructions) :
    Runs (.rfe 1) (module { thread with emul := true, iePc := 0x1004 } strand) ∧ Runs (.rfe 1) (module { thread with handler := true } strand) ∧
      Runs (.rfe 0) plain ∧ Runs (.frec 1 7) plain ∧ Runs (.unpark 1 2 0) (court .hypervisor) ∧ Runs (.unpark 1 3 0) (court .hypervisor) ∧
      Runs (.sysget 1 3 17) (court .hypervisor) ∧ Runs (.sysset 1 3 0) (court .hypervisor) ∧ Runs (.brk 3) plain ∧
      Runs (.brk 3) { plain with dbg := .observe } ∧ Runs (.brk 3) { plain with dbg := .halt } := by
  have a : Alone plain strand thread := alone_of rfl rfl rfl rfl rfl rfl ⟨rfl, rfl⟩
  have b := alone_court .hypervisor
  have m : strand.more := more_of rfl
  exact ⟨runs (((h 1 2 1).1 (module { thread with emul := true, iePc := 0x1004 } strand) _ { thread with emul := true, iePc := 0x1004 }
      (alone_of rfl rfl rfl rfl rfl rfl ⟨rfl, rfl⟩)).1 rfl),
    runs (((h 1 2 1).1 (module { thread with handler := true } strand) _ { thread with handler := true }
      (alone_of rfl rfl rfl rfl rfl rfl ⟨rfl, rfl⟩)).2.1 rfl rfl),
    runs (((h 1 2 0).1 _ _ _ a).2.2 rfl rfl), runs ((h 1 2 7).2.1 _ _ _ a m (ready_of (by decide)) trivial),
    runs ((h 1 2 0).2.2.1 parked _ _ _ b m (ready_of (by decide)) ⟨rfl, by decide, rfl⟩),
    runs ((h 1 3 0).2.2.2.1 _ _ _ b m (ready_of (by decide)) ⟨rfl, by decide⟩),
    runs ((h 1 3 17).2.2.2.2.1 _ _ _ b m (ready_of (by decide)) (.inl rfl)),
    runs ((h 1 3 0).2.2.2.2.2.1 _ _ _ b (ready_of (by decide)) rfl (by decide)),
    runs ((h 1 2 3).2.2.2.2.2.2.1 _ _ _ a m (ready_of (by decide)) (.inr rfl)),
    runs ((h 1 2 3).2.2.2.2.2.2.2.1 { plain with dbg := .observe } _ thread (alone_of rfl rfl rfl rfl rfl rfl ⟨rfl, rfl⟩) m (ready_of (by decide))
      ⟨by decide, rfl⟩),
    runs ((h 1 2 3).2.2.2.2.2.2.2.2 { plain with dbg := .halt } _ thread (alone_of rfl rfl rfl rfl rfl rfl ⟨rfl, rfl⟩) (by decide) rfl)⟩

theorem witness_InvalidationsAndWriteBack (h : Obligations.InvalidationsAndWriteBack) :
    Runs (.tlbinv 3 4 6) (court .hypervisor) ∧ Runs (.tlbinv 3 4 8) (court .hypervisor) ∧
      Runs (.tlbinva 9) (module { holding [(9, 0xFFFFFFFF, .int)] with level := .hypervisor } strand) ∧ Runs (.tlbinva 3) (court .hypervisor) ∧
      Runs (.tlbinva 10) (court .hypervisor) ∧ Runs (.l2wbRemotePush 2) (court .hypervisor) ∧
      Runs (.l2wbComplete 9) (withOp (flying .st (.writeBack true true))) ∧
      Runs (.tlbInvalidateComplete 9) (withOp { flying .none (.inval [0] false 0 4096) with mark := some 9, slots := [0] }) := by
  have b := alone_court .hypervisor
  have m : strand.more := more_of rfl
  have r := fun (d a b : Reg) => h.1 d a b _ _ _ (alone_court .hypervisor) (more_of rfl) rfl
  exact ⟨runs (((r 3 4 6).1 (ready_of (by decide))).1 (by decide) (by decide) (by decide)),
    runs (((r 3 4 8).1 (ready_of (by decide))).2 (by decide)),
    runs (((h.1 0 9 0 (module { holding [(9, 0xFFFFFFFF, .int)] with level := .hypervisor } strand) strand
      { holding [(9, 0xFFFFFFFF, .int)] with level := .hypervisor } (alone_of rfl rfl rfl rfl rfl rfl ⟨rfl, rfl⟩) m rfl).2 (ready_of (by decide))).1
      (by decide)),
    runs (((r 0 3 0).2 (ready_of (by decide))).2.1 (by decide) (by decide)),
    runs (((r 0 10 0).2 (ready_of (by decide))).2.2 (by decide) (by decide)),
    runs_of (h.2.1 2 _ (.head _) _ _ _ _ _ b m (ready_of (by decide)) ⟨rfl, by decide, by decide, rfl⟩),
    runs (h.2.2.1 (withOp (flying .st (.writeBack true true))) (flying .st (.writeBack true true)) true true rfl rfl),
    runs (h.2.2.2 (withOp { flying .none (.inval [0] false 0 4096) with mark := some 9, slots := [0] })
      { flying .none (.inval [0] false 0 4096) with mark := some 9, slots := [0] } [0] false 0 4096 9 rfl rfl rfl (by decide +kernel))⟩

/-- `wv.fair` of core 319, and the bounds 32 of F and 96 of the walkers of all slots. -/
theorem witness_SystemRegisterWrites (h : Obligations.SystemRegisterWrites) :
    Runs (.wvFairWrite 9) (withOp (flying .none (.sysWrite 0 0 64))) ∧ Runs (.registerWrite 9) (withOp (flying .none (.sysWrite 15 0 64))) ∧
      plain.sysWrite 0 0x13F00 31 = plain ∧ plain.sysWrite 4 1 91 = plain ∧ ({ plain with sec := .tenant } : State).sysWrite 2 0 1 =
        { plain with sec := .tenant } ∧ plain.sysWrite 0 0x14000 64 = plain := by
  refine ⟨runs ((h.1 (withOp (flying .none (.sysWrite 0 0 64))) (flying .none (.sysWrite 0 0 64)) 0 0 64 rfl rfl).1 rfl),
    runs ((h.1 (withOp (flying .none (.sysWrite 15 0 64))) (flying .none (.sysWrite 15 0 64)) 15 0 64 rfl rfl).2.2.2.2.2.2.2.2.2.2.2.2.2.2.2
      (by decide)), ?_, ?_, (h.2.1 { plain with sec := .tenant } 0 1).2.1 2 (by decide) rfl, ((h.2.1 plain 0x14000 64).1 0 (by decide)).1⟩
  · exact ((h.2.1 plain 0x13F00 31).2.2.1 (by decide)).trans (by decide +kernel)
  · exact ((h.2.1 plain 1 91).2.2.2.2.1 (by decide) (by decide)).trans (by decide +kernel)

/-- A window that ends with the scratchpad and one that passes it, a scope without members, a hamper past its die, an export window that
ends at 2^40, and a quota above its range; the scopes of 09 R196 with one core and with the cores of a die. -/
theorem witness_ContextRegisterRules (h : Obligations.SystemRegisterWrites) :
    (plain.sysWrite 1 0x101 (0x00010000 + 511) ≠ plain) ∧ plain.sysWrite 1 0x101 (0x00020000 + 511) = plain ∧
      plain.sysWrite 5 0x401 0x80000000 = plain ∧ plain.sysWrite 10 0x100 4097 = plain ∧
      plain.sysWrite 12 1 0x80000000 ≠ plain ∧ plain.sysWrite 13 1 (257 * 2 ^ 23 + 0x00061008) = plain ∧
      plain.sysWrite 7 1 64 ≠ plain ∧ (∃ c : Slot, plain.sysWrite 2 1 9 = plain.mapSlot 1 (fun _ => c) ∧ c.cid = 1) ∧ plain.sysWrite 11 1 0x80000001 ≠ plain ∧
      plain.sysWrite 14 1 1 ≠ plain ∧ (scopeOf true (1 <<< 97)).lvl ≤ 1 := by
  have g := h.2.2.1
  refine ⟨?_, ?_, ?_, ?_, ?_, ?_, ?_, ?_, ?_, ?_, ?_⟩
  · exact fun e => absurd (((g plain 0x101 (0x00010000 + 511)).1 (by decide)).2 (by decide +kernel) (by decide +kernel) |>.symm.trans e) (by decide +kernel)
  · exact ((g plain 0x101 (0x00020000 + 511)).1 (by decide)).1 (.inl (.inl (by decide +kernel)))
  · exact ((g plain 0x401 0x80000000).2.1 5 true 0 (.inl ⟨rfl, by decide +kernel, by decide +kernel⟩) (by decide)).trans (by decide +kernel)
  · exact (((g plain 0x100 4097).2.2.2 (by decide)).2.1 10 _ _ (.inr ⟨rfl, rfl, rfl⟩) (by decide)).trans (by decide +kernel)
  · exact fun e => absurd ((((g plain 1 0x80000000).2.2.2 (by decide)).2.2.2.1 (by decide)).symm.trans e) (by decide +kernel)
  · exact (((g plain 1 (257 * 2 ^ 23 + 0x00061008)).2.2.2 (by decide)).2.2.2.2.1 (by decide)).1 (.inl (.inl (.inr (by decide +kernel))))
  · exact fun e => absurd (((g plain 1 64).2.2.1 (by decide)).symm.trans e) (by decide +kernel)
  · obtain ⟨c, hc, -, hi, -⟩ := (((g plain 1 9).2.2.2 (by decide)).1 (by decide)).2 (by decide +kernel)
    exact ⟨c, hc, hi⟩
  · exact fun e => absurd (((((g plain 1 0x80000001).2.2.2 (by decide)).2.2.1 (by decide)).2 (by decide +kernel)).symm.trans e) (by decide +kernel)
  · exact fun e => absurd ((((g plain 1 1).2.2.2 (by decide)).2.2.2.2.2 (by decide)).symm.trans e) (by decide +kernel)
  · exact (h.2.2.2 true (1 <<< 97) (by decide)).2.2.2.1.2 (by decide +kernel)

/-! ### Copies, signals, creels -/

/-- The thread of a copy: destination 0x2000 in v2, source 0x3000 in v4, 8 bytes, rows and strides in v8 to v10, a signal word at 0 in v12. -/
def copier : Thread :=
  holding [(2, 0x2000, .raw), (4, 0x3000, .raw), (6, 8, .int), (8, 2, .int), (9, 16, .int), (10, 32, .int), (14, 3, .int)]

/-- The strand behind an `hx` hint that names v12, with modifier 4. -/
def bulky : Strand := { strand with hints := { hx := some (4, 12) }, runLen := 1 }

theorem witness_CopiesGoInFlight (h : Obligations.CopiesAreCheckedAndMoveBytes) :
    Runs (.cpy 2 4 6) (module copier strand) ∧ Runs (.cpyz 2 6) (module copier strand) ∧ Runs (.cpy2d 2 4 6) (module copier hinted) ∧
      Runs (.nput 2 4 6) (mapped copier bulky) ∧ Runs (.nget 2 4 6) (mapped copier bulky) ∧ Runs (.nred 2 4 6) (mapped copier bulky) := by
  have a : Alone (module copier strand) strand copier := alone_of rfl rfl rfl rfl rfl rfl ⟨rfl, rfl⟩
  have b : Alone (module copier hinted) hinted copier := alone_of rfl rfl rfl rfl rfl rfl ⟨rfl, rfl⟩
  have c : Alone (mapped copier bulky) bulky copier := alone_of rfl rfl rfl rfl rfl rfl ⟨rfl, rfl⟩
  have m : strand.more := more_of rfl
  have n : hinted.more := more_of rfl
  have k : bulky.more := more_of rfl
  obtain ⟨g1, g2, g3, g4, g5, g6⟩ := h.1 2 4 6
  exact ⟨runs_of (g1 _ _ _ _ _ a m (ready_of (by decide)) ⟨rfl, _, rfl, by decide +kernel, rfl⟩),
    runs_of (g2 _ _ _ _ _ a m (ready_of (by decide)) ⟨rfl, _, rfl, by decide +kernel, rfl⟩),
    runs_of (g3 _ _ _ _ _ b n (ready_of (by decide)) ⟨rfl, rfl, by decide, _, rfl, by decide +kernel, rfl⟩),
    runs_of (g4 _ _ _ _ _ c k (ready_of (by decide)) ⟨rfl, rfl, by decide, _, rfl, by decide +kernel, rfl⟩),
    runs_of (g5 _ _ _ _ _ c k (ready_of (by decide)) ⟨rfl, rfl, by decide, _, rfl, by decide +kernel, rfl⟩),
    runs_of (g6 _ _ _ _ _ c k (ready_of (by decide)) ⟨by decide, rfl, rfl, by decide, _, rfl, by decide +kernel, rfl⟩)⟩

/-- Room on cp at 62 and none at 63; a size of 2^32; a destination at the end of the 4,096 bytes of the core scratchpad. -/
theorem witness_CopyChecksInOrder (h : Obligations.CopiesAreCheckedAndMoveBytes) :
    plain.copyChecks { thread with cp := 63 } { dst := 0x2000, src := 0x3000, len := 8 } = .error (.leave (.room .cp)) ∧
      plain.copyChecks { thread with cp := 62 } { dst := 0x2000, src := 0x3000, len := 8 } = .ok { dst := 0x2000, src := 0x3000, len := 8 } ∧
      (∃ f, plain.copyChecks thread { dst := 0x8500000000000000, src := 0, len := 8 } = .error (.fault f)) ∧
      (∃ f, plain.copyChecks thread { dst := 0, src := 0x8500000000000000, len := 8 } = .error (.fault f)) ∧
      (∃ f, plain.copyChecks thread { dst := 0, src := 0, len := 65536, rows := 65536 } = .error (.fault f)) ∧
      ∃ f, plain.copyChecks thread { dst := 0x8200000000000FF9, src := 0, len := 8 } = .error (.fault f) := by
  have g := fun t c => h.2.1 plain t c
  exact ⟨(g { thread with cp := 63 } { dst := 0x2000, src := 0x3000, len := 8 }).1 (by decide),
    (((g { thread with cp := 62 } { dst := 0x2000, src := 0x3000, len := 8 }).2 (by decide)).2.2 (by decide) (.inr (by decide))).2.1 (by decide)
      (by decide) (.inr (by decide)),
    ⟨_, ((g thread { dst := 0x8500000000000000, src := 0, len := 8 }).2 (by decide)).1 (by decide)⟩,
    ⟨_, ((g thread { dst := 0, src := 0x8500000000000000, len := 8 }).2 (by decide)).2.1 (by decide) rfl (by decide)⟩,
    ⟨_, (((g thread { dst := 0, src := 0, len := 65536, rows := 65536 }).2 (by decide)).2.2 (by decide) (.inr (by decide))).1 (by decide)⟩,
    ⟨_, (((g thread { dst := 0x8200000000000FF9, src := 0, len := 8 }).2 (by decide)).2.2 (by decide) (.inr (by decide))).2.2 2 0xFF9 rfl
      (by decide) (by decide) (by decide) (by decide)⟩⟩

/-- A fill of one byte at 0x2000 in flight. -/
def filling : Op := flying .cp (.copy { dst := 0x2000, src := 0, len := 1, zero := true })

theorem witness_CopyMovesItsBytes (h : Obligations.CopiesAreCheckedAndMoveBytes) : Runs (.copyComplete 9 1) (withOp filling) :=
  runs_of (h.2.2 (withOp filling) ((withOp filling).copyEnd filling 0x2000 true).1 filling
    { dst := 0x2000, src := 0, len := 1, zero := true } (word 1) 0
    ⟨rfl, by decide, by decide, by decide⟩ rfl rfl rfl rfl rfl rfl rfl rfl (by decide) (by decide) rfl (by decide +kernel) rfl (by decide)
      (by decide))

theorem witness_SignalsAndFabricStatus (h : Obligations.SignalsAndFabricStatus) :
    Runs (.nsig 4 8) atMemory ∧ Runs (.nstat 1 8 0) atMemory ∧ Runs (.nstat 1 8 1) atMemory ∧ Runs (.nstat 1 8 2) atMemory := by
  have a := alone_atMemory
  have m : strand.more := more_of rfl
  exact ⟨runs ((h 0 4 8).1 _ _ _ a m (ready_of (by decide)) ⟨by decide, by decide, by decide,
      ((atMemory.atWord strand).globalAccess addressed 0x2000 8 0 none needStore).1, word 8, by decide +kernel⟩),
    runs ((h 1 8 0).2.1 _ _ _ a m (ready_of (by decide)) trivial), runs ((h 1 8 0).2.2.1 _ _ _ a m (ready_of (by decide)) trivial),
    runs ((h 1 8 0).2.2.2 _ _ _ a m (ready_of (by decide)) trivial)⟩

/-- A creel of two slots of 64 bytes at 0, with its claim queue and slots. -/
def creel (q : List Nat) (slots : Sparse CreelSlot) : Creel := { v := true, size := 64, n := 2, queue := q, slots := slots }

/-- A module whose unit has that creel as number 1; v2 holds a slot index, v4 an address and v6 the operand of `crinit` for 256 slots of
64 bytes, which take more than the 4,096 bytes of the unit, v8 the one for 2 slots. -/
def creeled (c : Creel) : State :=
  { mapped (holding [(2, 0, .int), (4, 0x2000, .raw), (8, 0x01000000, .int)]) strand with
    units := [{ unit with creels := [(1, c)] }] }

theorem alone_creeled (c : Creel) : Alone (creeled c) strand (holding [(2, 0, .int), (4, 0x2000, .raw), (8, 0x01000000, .int)]) :=
  alone_of rfl rfl rfl rfl rfl rfl ⟨rfl, rfl⟩

theorem witness_CreelsMoveSlots (h : Obligations.CreelsMoveSlotsAndOverflow) :
    Runs (.crinit 8 1) (creeled {}) ∧ Runs (.crclaim 1 1) (creeled (creel [] [])) ∧ Runs (.crpost 2 1) (creeled (creel [0] [(0, .claimedPost)])) ∧
      Runs (.crtake 1 1) (creeled (creel [0] [(0, .filled)])) ∧ Runs (.crgive 2 1) (creeled (creel [] [(0, .taken)])) ∧
      Runs (.crtest 1 1) (creeled (creel [] [])) ∧ Runs (.crstat 1 1) (creeled (creel [] [])) ∧ Runs (.craddr 10 2 1) (creeled (creel [] [])) ∧
      Runs (.cpyc 1 4 1) (creeled (creel [] [])) ∧ Runs (.crclaim 1 1) (creeled {}) ∧ Runs (.crpost 2 1) (creeled {}) := by
  have m : strand.more := more_of rfl
  have z := alone_creeled {}
  have e := alone_creeled (creel [] [])
  obtain ⟨_, g2, _, _, _, g6, g7, _, _, g10, _⟩ := h.1 1 2 1
  exact ⟨runs ((h.1 0 8 1).1 _ _ _ z m (ready_of (by decide)) ⟨{ unit with creels := [(1, {})] }, rfl, by decide, by decide, by decide, by decide⟩),
    runs (g2 _ _ _ e m (ready_of (by decide)) ⟨rfl, rfl, by decide, by decide, rfl⟩),
    runs ((h.1 0 2 1).2.2.1 _ _ _ (alone_creeled (creel [0] [(0, .claimedPost)])) m (ready_of (by decide)) ⟨rfl, by decide, by decide, by decide⟩),
    runs ((h.1 1 0 1).2.2.2.1 0 [] _ _ _ (alone_creeled (creel [0] [(0, .filled)])) m (ready_of (by decide)) ⟨rfl, rfl, rfl, by decide⟩),
    runs ((h.1 0 2 1).2.2.2.2.1 _ _ _ (alone_creeled (creel [] [(0, .taken)])) m (ready_of (by decide)) ⟨rfl, by decide, rfl, by decide, by decide⟩),
    runs (g6 _ _ _ e m (ready_of (by decide)) ⟨rfl, rfl⟩), runs (g7 _ _ _ e m (ready_of (by decide)) trivial),
    runs ((h.1 10 2 1).2.2.2.2.2.2.2.1 _ _ _ e m (ready_of (by decide)) ⟨rfl, by decide⟩),
    runs ((h.1 1 4 1).2.2.2.2.2.2.2.2.1 _ _ _ e m (ready_of (by decide)) ⟨by decide, by decide, rfl, rfl, by decide, by decide, rfl⟩),
    runs (g10 (.crclaim 1 1) (.head _) _ _ _ z (ready_of (by decide)) rfl),
    runs ((h.1 0 2 1).2.2.2.2.2.2.2.2.2.2 (.crpost 2 1) (.head _) _ _ _ z (ready_of (by decide)) rfl)⟩

/-- A thread whose `cpyc` on creel 1 stands for want of a slot since cycle 0. -/
def stuck : Thread := { thread with state := .blocked (.creel 1 0 2 0) }

/-- Its module at a cycle, with an overflow area of 16 slots of 64 bytes for each creel. -/
def overflowing (now : Nat) : State :=
  { module stuck strand with
    strands := [], dies := [(0, { cyc := now })]
    units := [{ unit with creels := [(1, { creel [] [(0, .filled), (1, .filled)] with starved := [(2, 0)] })], stallSince := some 0 }]
    slots := [(0, { v := true, objs := [launch], ovEn := true, ovStr := 6, ovM := 16 })] }

/-- At 2^20 cycles the creel enters overflow mode; at 2^24 the unit sends its stall record, and at 2^24 - 1 it does not. -/
theorem witness_OverflowModeAndStallRecords (h : Obligations.CreelsMoveSlotsAndOverflow) :
    Runs (.creelOverflowEnter 1 1) (overflowing (2 ^ 20)) ∧ Runs (.stallRecord 1) (overflowing (2 ^ 24)) ∧
      Runs (.stallRecord 1) (overflowing (2 ^ 24 - 1)) := by
  let u := { unit with creels := [(1, { creel [] [(0, .filled), (1, .filled)] with starved := [(2, 0)] })], stallSince := some 0 }
  exact ⟨runs (h.2.1 (overflowing (2 ^ 20)) u 1 2 0 rfl rfl rfl (by decide) (by decide +kernel) rfl (by decide +kernel) (by decide)),
    runs ((h.2.2 (overflowing (2 ^ 24)) u 0 rfl rfl rfl (by decide +kernel)).1 (by decide)),
    runs ((h.2.2 (overflowing (2 ^ 24 - 1)) u 0 rfl rfl rfl (by decide +kernel)).2 (by decide))⟩

/-! ### Append-seal pages -/

/-- The thread with the page's address in v4 and values in v8 to v11, at a level. -/
def scribe (l : Level) : Thread := { holding [(4, 0x2000, .raw), (8, 7, .int), (9, 8, .int), (10, 9, .int), (11, 10, .int), (12, 1, .int)] with level := l }

/-- Its module, with an append-seal page of 2 MiB at 0. -/
def archive (l : Level) : State := { module (scribe l) strand with cores := [(0, { l1tlb := [page 2 true] })] }

theorem witness_AppendPageOperationsGoInFlight (h : Obligations.AppendPageOperationsGoInFlight) :
    Runs (.app 1 4 8) (archive .user) ∧ Runs (.app64 1 4 8) (archive .user) ∧ Runs (.appq 1 4 8) (archive .user) ∧ Runs (.free 4) (archive .user) ∧
      Runs (.aopen 4 12) (archive .supervisor) ∧ Runs (.atail 1 4) (archive .user) ∧ Runs (.astate 1 4) (archive .user) ∧
      Runs (.seal 4) (archive .user) := by
  have a : ∀ l, Alone (archive l) strand (scribe l) := fun _ => alone_of rfl rfl rfl rfl rfl rfl ⟨rfl, rfl⟩
  have m : strand.more := more_of rfl
  let acc (z : Nat) : Access := mkAccess (page 2 true) 0x2000 z 0
  obtain ⟨g1, g2, g3, g4, _, g6, g7, g8⟩ := h 1 4 8
  exact ⟨runs_of (g1 _ _ _ _ _ (a .user) m (ready_of (by decide)) ⟨rfl, by decide, by decide, acc 4, by decide +kernel, rfl⟩),
    runs_of (g2 _ _ _ _ _ (a .user) m (ready_of (by decide)) ⟨rfl, by decide, by decide, acc 4, by decide +kernel, rfl⟩),
    runs_of (g3 _ _ _ _ _ (a .user) m (ready_of (by decide)) ⟨rfl, by decide, by decide, acc 4, by decide +kernel, rfl⟩),
    runs_of (g4 _ _ _ _ _ (a .user) m (ready_of (by decide)) ⟨rfl, by decide, by decide, acc 4, by decide +kernel, rfl⟩),
    runs_of ((h 1 4 12).2.2.2.2.1 _ _ _ _ _ (a .supervisor) m (ready_of (by decide))
      ⟨by decide, rfl, by decide, by decide, acc 4, by decide +kernel, rfl⟩),
    runs_of (g6 _ _ _ _ _ (a .user) m (ready_of (by decide)) ⟨rfl, by decide, by decide, acc 4, by decide +kernel, rfl⟩),
    runs_of (g7 _ _ _ _ _ (a .user) m (ready_of (by decide)) ⟨rfl, by decide, by decide, acc 4, by decide +kernel, rfl⟩),
    runs (g8 _ _ _ (a .user) m (ready_of (by decide)) ⟨by decide, by decide, acc 4, by decide +kernel⟩)⟩

/-- The access of an operation on the page of 2 MiB at 0, at an offset. -/
def inPage (off z : Nat) : Access := mkAccess (page 2 true) (BitVec.ofNat 64 off) z 0

/-- A page record of 2 MiB. -/
def record (st : PageState) (tail : Nat) : PageRec := { state := st, size := 0x200000, tail := tail }

/-- A module with the record and one operation in flight. -/
def paging (r : PageRec) (o : Op) : State := { withOp o with pages := [(0, r)] }

/-- An append of two words; the tail at the page's end less 8 leaves just room, less 4 none. -/
def appending (off : Option Nat) : Op := flying .ld (.append (inPage 0x2000 4) [7, 8] off)

theorem witness_AppendsReserveThenWrite (h : Obligations.AppendsReserveThenWrite) :
    Runs (.appendBatchServe 9) (paging (record .opened 0x1FFFF8) (appending none)) ∧
      Runs (.appendBatchServe 9) (paging (record .opened 0x1FFFFC) (appending none)) ∧
      Runs (.appendBatchServe 9) (paging (record .sealed 0) (appending none)) ∧
      Runs (.appendDataWrite 9) (paging { record .opened 16 with reserved := [(8, 8)] } (appending (some 8))) := by
  have g := fun r => h.1 (paging r (appending none)) (appending none) (inPage 0x2000 4) [7, 8] r rfl rfl rfl rfl
  exact ⟨runs ((g (record .opened 0x1FFFF8) (by decide) rfl rfl rfl (by decide)).1 rfl (by decide)),
    runs ((g (record .opened 0x1FFFFC) (by decide) rfl rfl rfl (by decide)).2.1 rfl (by decide)),
    runs ((g (record .sealed 0) (by decide) rfl rfl rfl (by decide)).2.2 (by decide)),
    runs_of (h.2 (paging { record .opened 16 with reserved := [(8, 8)] } (appending (some 8))) (appending (some 8)) addressed (inPage 0x2000 4)
      [7, 8] 8 ⟨rfl, by decide, by decide, by decide⟩ rfl rfl rfl rfl (by decide) (by unfold State.threadsNamed; decide) (by decide))⟩

theorem witness_PagesAreSealedFreedAndOpened (h : Obligations.PagesChangeTheirStates) :
    let op := fun k => flying .st k
    let a := inPage 0x2000 4
    Runs (.sealServe 9) (paging (record .opened 8) (op (.seal a))) ∧ Runs (.sealServe 9) (paging (record .sealed 8) (op (.seal a))) ∧
      Runs (.sealComplete 9) (paging (record .sealed 8) { op (.seal a) with served := true }) ∧
      Runs (.freeServe 9) (paging (record .sealed 8) (op (.free a))) ∧ Runs (.freeServe 9) (paging (record .opened 8) (op (.free a))) ∧
      Runs (.aopenServe 9) (paging (record .sealed 8) (op (.aopen a 3))) ∧ Runs (.aopenServe 9) (withOp (op (.aopen a 1))) ∧
      Runs (.aopenServe 9) (paging (record .sealed 8) (op (.aopen a 0))) ∧ Runs (.aopenServe 9) (paging (record .opened 8) (op (.aopen a 2))) ∧
      Runs (.aopenServe 9) (paging (record .freeing 8) (op (.aopen a 1))) := by
  have g := fun r k => h.1 (paging r (flying .st k)) (flying .st k) (inPage 0x2000 4) rfl rfl rfl
  exact ⟨runs (((g (record .opened 8) (.seal (inPage 0x2000 4))).1 rfl (by decide) _ rfl rfl).1 rfl),
    runs (((g (record .sealed 8) (.seal (inPage 0x2000 4))).1 rfl (by decide) _ rfl rfl).2 (by decide)),
    runs ((h.1 (paging (record .sealed 8) { flying .st (.seal (inPage 0x2000 4)) with served := true })
      { flying .st (.seal (inPage 0x2000 4)) with served := true } (inPage 0x2000 4) rfl rfl rfl).2.1 rfl rfl rfl rfl _ rfl rfl),
    runs (((g (record .sealed 8) (.free (inPage 0x2000 4))).2.2.1 rfl (by decide) _ rfl rfl).1 rfl),
    runs (((g (record .opened 8) (.free (inPage 0x2000 4))).2.2.1 rfl (by decide) _ rfl rfl).2 (by decide)),
    runs (((g (record .sealed 8) (.aopen (inPage 0x2000 4) 3)).2.2.2 3 rfl (by decide)).1 (by decide)),
    runs (((h.1 (withOp (flying .st (.aopen (inPage 0x2000 4) 1))) (flying .st (.aopen (inPage 0x2000 4) 1)) (inPage 0x2000 4) rfl rfl rfl).2.2.2
      1 rfl (by decide)).2.1 rfl (by decide)),
    runs ((((g (record .sealed 8) (.aopen (inPage 0x2000 4) 0)).2.2.2 0 rfl (by decide)).2.2 _ rfl).1 rfl),
    runs ((((g (record .opened 8) (.aopen (inPage 0x2000 4) 2)).2.2.2 2 rfl (by decide)).2.2 _ rfl).2.2 (.inr rfl) (by decide)),
    runs ((((g (record .freeing 8) (.aopen (inPage 0x2000 4) 1)).2.2.2 1 rfl (by decide)).2.2 _ rfl).2.1 (.inl rfl) rfl)⟩

/-- A freeing in progress by operation 9, with a replica in die 7. -/
def freeing : PageRec := { record .freeing 8 with freeOp := some 9, repDies := [7] }

/-- Its operation, whose removal of translations has its mark or not. -/
def releaser (mark : Option Nat) : Op := { flying .st (.free (inPage 0x2000 4)) with served := true, mark := mark }

theorem witness_FreeingStepByStep (h : Obligations.PagesChangeTheirStates) :
    Runs (.freeReclaim 9) (paging freeing (releaser none)) ∧
      Runs (.freeShootdown 9) (paging { freeing with reclaiming := true } (releaser none)) ∧
      Runs (.freeReopen 9) (paging { freeing with reclaiming := true } (releaser (some 9))) ∧
      Runs (.freeReopen 9) (paging { freeing with reclaiming := true, removing := true } (releaser (some 9))) ∧
      Runs (.replicaReclaim 0 7) (paging { freeing with reclaiming := true, acks := [7] } (releaser none)) ∧
      Runs (.reclaimAck 0 7) (paging { freeing with reclaiming := true, acks := [7] } (releaser none)) := by
  have g := fun r m => h.2.1 (paging r (releaser m)) (releaser m) (inPage 0x2000 4) r
  exact ⟨runs ((g freeing none (by decide)).1 rfl rfl rfl rfl (by decide +kernel)),
    runs ((g { freeing with reclaiming := true } none (by decide)).2.1 rfl rfl rfl rfl),
    runs (((g { freeing with reclaiming := true } (some 9) (by decide)).2.2 9 rfl rfl (by decide +kernel) (by decide +kernel)).1 (inPage 0x2000 4) rfl rfl),
    runs (((g { freeing with reclaiming := true, removing := true } (some 9) (by decide)).2.2 9 rfl rfl (by decide +kernel) (by decide +kernel)).2 rfl),
    runs ((h.2.2 (paging { freeing with reclaiming := true, acks := [7] } (releaser none)) 0 7 _ (by decide) rfl).1 (by decide)),
    runs ((h.2.2 (paging { freeing with reclaiming := true, acks := [7] } (releaser none)) 0 7 _ (by decide) rfl).2 rfl)⟩

/-- A load of a word from the page, at an offset. -/
def reading (off : Nat) : Op := flying .ld (.load (inPage off 4) false none)

/-- A replica of the page with its line 64, that of offset 0x2000. -/
def copied : Replica := { page := 0, size := 0x200000, tail := 0x2008, lines := [64] }

/-- A read at the tail's edge passes, one word further faults; a line of a sealed page is served from the replica or fills it. -/
theorem witness_TailSliceServesReads (h : Obligations.TailSliceServesReads) :
    Runs (.tailReadServe 9) (paging (record .opened 8) (flying .ld (.status (inPage 0x2000 4) true))) ∧
      Runs (.tailReadServe 9) (paging (record .opened 0x2000) (reading 0x2000)) ∧ Runs (.tailReadServe 9) (paging (record .opened 0x2004) (reading 0x2000)) ∧
      Runs (.tailReadServe 9) (paging { record .opened 0x2004 with reserved := [(0x2000, 4)] } (reading 0x2000)) ∧
      Runs (.replicaFill 9) (paging (record .sealed 0x2004) (reading 0x2000)) ∧
      Runs (.replicaFill 9) { paging (record .sealed 0x2008) (reading 0x2000) with dies := [(0, { replicas := [copied] })] } ∧
      Runs (.replicaPageDrop 0) { plain with dies := [(0, { replicas := [copied] })] } := by
  have g := fun r => h.2.1 (paging r (reading 0x2000)) (reading 0x2000) (inPage 0x2000 4) false none r rfl rfl rfl rfl rfl rfl rfl
  have c : ∀ t, (paging (record .opened t) (reading 0x2000)).sealedCopy (reading 0x2000) (inPage 0x2000 4) = none := fun _ => rfl
  exact ⟨runs (h.1 (paging (record .opened 8) (flying .ld (.status (inPage 0x2000 4) true))) (flying .ld (.status (inPage 0x2000 4) true))
      (inPage 0x2000 4) true _ rfl rfl (by decide) rfl rfl rfl rfl),
    runs ((g (record .opened 0x2000) (c _) rfl rfl rfl rfl (by decide +kernel)).1 (by decide) (by decide)),
    runs ((g (record .opened 0x2004) (c _) rfl rfl rfl rfl (by decide +kernel)).2.1 rfl (by decide) rfl),
    runs ((g { record .opened 0x2004 with reserved := [(0x2000, 4)] } rfl rfl rfl rfl rfl (by decide +kernel)).2.2.1 (by decide) (by decide) (by decide)),
    runs ((g (record .sealed 0x2004) rfl rfl rfl rfl rfl (by decide +kernel)).2.2.2 rfl (by decide) rfl rfl),
    runs (h.2.2.1 { paging (record .sealed 0x2008) (reading 0x2000) with dies := [(0, { replicas := [copied] })] } (reading 0x2000)
      (inPage 0x2000 4) false none
      ((({ paging (record .sealed 0x2008) (reading 0x2000) with dies := [(0, { replicas := [copied] })] } : State).sealedCopy (reading 0x2000)
        (inPage 0x2000 4)).get (by decide +kernel)) rfl rfl rfl rfl (by decide) (by decide) rfl rfl (Option.some_get _).symm (by decide +kernel)),
    runs (h.2.2.2 { plain with dies := [(0, { replicas := [copied] })] } 0 copied [] (by decide) rfl)⟩

/-! ### The tile engine -/

/-- The thread of a command: stride 512 in v2, base 0x2000 in v4, the control word of id 255 in v6, a pair of addresses in v8. -/
def weaver : Thread := holding [(2, 512, .int), (4, 0x2000, .raw), (6, 255, .int), (8, 0x2000, .raw), (10, 0x14, .int), (11, 0xC, .int)]

theorem witness_TileCommandsEnterTheSequencer (h : Obligations.TileCommandsEnterTheSequencer) :
    Runs (.tlda 2 4 6) (mapped weaver strand) ∧ Runs (.tldaGather 6) (mapped weaver hinted) ∧ Runs (.tldb 2 4 6) (mapped weaver strand) ∧
      Runs (.tldbGather 6) (mapped weaver hinted) ∧ Runs (.tmma 2 6) (mapped weaver strand) ∧ Runs (.tzero 6) (mapped weaver strand) ∧
      Runs (.tdrain 2 4 6) (mapped weaver strand) ∧ Runs (.tstacc 2 4 6) (mapped weaver strand) ∧ Runs (.tstaccGather 6) (mapped weaver hinted) ∧
      Runs (.tcfg 11) (mapped weaver strand) := by
  have a : Alone (mapped weaver strand) strand weaver := alone_mapped rfl rfl rfl rfl ⟨rfl, rfl⟩
  have b : Alone (mapped weaver hinted) hinted weaver := alone_mapped rfl rfl rfl rfl ⟨rfl, rfl⟩
  have m : strand.more := more_of rfl
  have n : hinted.more := more_of rfl
  obtain ⟨g1, g2, g3, g4, _, g6, g7, g8, g9, _⟩ := h 2 4 6
  exact ⟨runs_of2 (g1 _ _ _ a m rfl (by decide) (by decide) (ready_of (by decide)) (by decide) (by decide) (by decide +kernel)),
    runs_of2 (g2 _ _ _ b n rfl (by decide) (by decide) (ready_of (by decide)) (by decide) (by decide) (by decide +kernel)),
    runs_of2 (g3 _ _ _ a m rfl (by decide) (by decide) (ready_of (by decide)) (by decide) (by decide) (by decide +kernel)),
    runs_of2 (g4 _ _ _ b n rfl (by decide) (by decide) (ready_of (by decide)) (by decide) (by decide) (by decide +kernel)),
    runs_of2 ((h 0 2 6).2.2.2.2.1 _ _ _ a m rfl (by decide) (by decide) (ready_of (by decide)) (by decide) (by decide) (by decide +kernel)),
    runs_of2 (g6 _ _ _ a m rfl (by decide) (by decide) (ready_of (by decide)) (by decide) (by decide) (by decide +kernel)),
    runs_of2 (g7 _ _ _ a m rfl (by decide) (by decide) (ready_of (by decide)) (by decide) (by decide) (by decide +kernel)),
    runs_of2 (g8 _ _ _ a m rfl (by decide) (by decide) (ready_of (by decide)) (by decide) (by decide) (by decide +kernel)),
    runs_of2 (g9 _ _ _ b n rfl (by decide) (by decide) (ready_of (by decide)) (by decide) (by decide) (by decide +kernel)),
    runs ((h 0 11 0).2.2.2.2.2.2.2.2.2 _ _ _ 0xC a m rfl (ready_of (by decide)) (by decide) (by decide) (by decide) (by decide))⟩

/-- A command in the sequencer of core 0. -/
def command (f : CmdFn) (st : CmdState) (next : Nat) : Cmd :=
  { uid := 9, unit := 1, uix := 0, core := 0, slot := 0, launch := 1, group := 0, lane0 := 0, width := 8, leader := 2, tids := [(2, 0)],
    fn := f, id := 5, x := 0, ab := 0, bb := 0, cfg := 0, addrs := [(0, 0x2000)], rowsOn := [0], kappa := 1, pc := 0x1004, word := 0,
    state := st, next := next }

/-- A module that runs it. -/
def tiling (c : Cmd) : State := { mapped thread strand with cmds := [c] }

/-- The unit whose buffer A 0 holds bf16 records. -/
def otherFormat : State := { tiling (command .tmma .waiting 0) with units := [{ unit with bufA := [(0, { fmt := .bf16 })] }] }

theorem witness_TilePipesStartAndRetire (h : Obligations.TilePipesRunTheirCommands) :
    Runs (.tileCommandStart 0 (CmdFn.tmma).pipe) (tiling (command .tmma .waiting 0)) ∧
      Runs (.tileCommandStart 0 (CmdFn.tmma).pipe) otherFormat ∧ Runs (.tileCommandRetire 9) (tiling (command .tlda .running 2)) ∧
      Runs (.tileCommandRetire 9) (tiling (command .tzero .running 0)) ∧ Runs (.tileCommandRetire 9) (tiling (command .tmma .running 1)) ∧
      Runs (.tileCommandRetire 9) (tiling (command .tdrain .running 2)) := by
  have g := fun c => h.1.2 (tiling c) c unit
  exact ⟨runs ((h.1.1 (tiling (command .tmma .waiting 0)) 0 (CmdFn.tmma).pipe _ (by decide) (by decide) rfl).1 (.inr (by decide))),
    runs ((h.1.1 otherFormat 0 (CmdFn.tmma).pipe _ (by decide) (by decide) rfl).2 rfl rfl (by decide)),
    runs ((g (command .tlda .running 2) rfl rfl rfl rfl rfl).1 (.inl rfl) (by decide)),
    runs ((g (command .tzero .running 0) rfl rfl rfl rfl rfl).2.1 rfl),
    runs ((g (command .tmma .running 1) rfl rfl rfl rfl rfl).2.2.1 rfl (by decide)),
    runs ((g (command .tdrain .running 2) rfl rfl rfl rfl rfl).2.2.2 (.inl rfl) (by decide) rfl)⟩

theorem witness_TileCommandsProgress (h : Obligations.TilePipesRunTheirCommands) :
    Runs (.tileBlockArrival 9) (tiling (command .tlda .running 1)) ∧ Runs (.tileBlockArrival 9) (tiling (command .tmma .running 0)) ∧
      Runs (.tileBlockArrival 9) (tiling (command .tmma .running 1)) ∧
      Runs (.drainLineArrival 9) (tiling (command .tstacc .running 1)) ∧ Runs (.drainLineArrival 9) (tiling (command .tdrain .running 1)) := by
  have g := fun c => h.2.1 (tiling c) c
  have e : ∀ c : Cmd, c = command .tstacc .running 1 ∨ c = command .tdrain .running 1 ∨ c = command .tlda .running 1 →
      (tiling c).copyEnd (c.asOp 2 0) (0x2000 + BitVec.ofNat 64 (128 * 1)) (c.fn != .tlda) =
        (((tiling c).copyEnd (c.asOp 2 0) (0x2000 + BitVec.ofNat 64 (128 * 1)) (c.fn != .tlda)).1, .here (mkAccess mapping 0x2080 1 0)) := by
    rintro c (rfl | rfl | rfl) <;> decide +kernel
  exact ⟨runs ((g (command .tlda .running 1) rfl rfl rfl).1 _ 0 0x2000 (mkAccess mapping 0x2080 1 0) (.inl rfl) (by decide) (by decide) rfl
      (by decide) (by decide) (e _ (.inr (.inr rfl))) (by decide) (by decide +kernel)),
    runs ((g (command .tmma .running 0) rfl rfl rfl).2.1 unit rfl (by decide) rfl rfl),
    runs ((g (command .tmma .running 1) rfl rfl rfl).2.2.1 unit rfl (by decide) rfl rfl),
    runs (((g (command .tstacc .running 1) rfl rfl rfl).2.2.2 _ unit 0 0x2000 (mkAccess mapping 0x2080 1 0) (.inr rfl) (by decide) (by decide) rfl rfl
      (by decide) (by decide) (e _ (.inl rfl))).1 rfl),
    runs (((g (command .tdrain .running 1) rfl rfl rfl).2.2.2 _ unit 0 0x2000 (mkAccess mapping 0x2080 1 0) (.inl rfl) (by decide) (by decide) rfl rfl
      (by decide) (by decide) (e _ (.inr (.inl rfl)))).2 rfl rfl (by decide +kernel))⟩

/-- A unit whose two buffers 0 start with bytes, and a command with a configuration word. -/
def buffers (a b : List Byte) : UnitSt :=
  { unit with bufA := [(0, { cells := Memory.writeBytes [] 0 a })], bufB := [(0, { cells := Memory.writeBytes [] 0 b })] }

def ofFormat (code : Word) : Cmd := { command .tmma .running 0 with cfg := code }

/-- 1.0 times 2.0 in bf16, in f16 and in LNS6: codes 16 and 20. -/
theorem witness_TileFormats (h : Obligations.TilePipesRunTheirCommands) :
    (buffers [0x80, 0x3F] [0, 0x40]).mmaAt (ofFormat 1) [] 0 0 0 = [(0, 0x40000000)] ∧
      (buffers [0, 0x3C] [0, 0x40]).mmaAt (ofFormat 2) [] 0 0 0 = [(0, 0x40000000)] ∧
      (buffers [0, 0, 0, 0, 16] [0, 0, 0, 0, 20]).mmaAt (ofFormat 4) [] 0 0 0 = [(0, 0x40000000)] := by
  obtain ⟨_, _, _, _, _, h1, h2, h3⟩ := h
  refine ⟨?_, ?_, ?_⟩
  · rw [h1 _ _ _ _ _ _ rfl]; decide +kernel
  · rw [h2 _ _ _ _ _ _ rfl]; decide +kernel
  · rw [h3 _ _ _ _ _ _ rfl]; decide +kernel

/-- A strict line at 0x2000: chunk k of n, for a launch. -/
def strict (k n : Nat) (l : Word) : HeldLine :=
  { loc := 0x2000, slot := 0, launch := l, k := k, n := n, cmd := 9, line := 0, det := false, wide := false, vals := [0x3F800000] }

/-- A record of four chunks that has served two. -/
def merging : State := { plain with merges := [{ loc := 0x2000, slot := 0, launch := 1, n := 4, q := 2 }] }

/-- A chunk that no record expects yet, one that completes a record of four with the held one after it, and one behind an earlier line. -/
theorem witness_StrictMergesApplyInOrder (h : Obligations.StrictMergesApplyInOrder) :
    (plain.strictLine (strict 0 1 1) true).2 = .applied ∧ (plain.strictLine (strict 0 4 1) true).2 = .applied ∧
      (plain.strictLine (strict 1 4 1) true).2 = .held ∧
      (merging.strictLine (strict 2 4 2) true).2 = .held ∧ (merging.strictLine (strict 2 5 1) true).2 = .fault 7 ∧
      (merging.strictLine (strict 1 4 1) true).2 = .fault 8 ∧ (merging.strictLine (strict 2 4 1) true).2 = .applied ∧
      (merging.strictLine (strict 3 4 1) true).2 = .held ∧
      (({ plain with mergeWait := [strict 0 1 1] } : State).strictLine (strict 1 4 1) true).1.mergeWait = [strict 0 1 1, strict 1 4 1] ∧
      ({ plain with merges := [{ loc := 0x2000, slot := 0, launch := 1, n := 4, q := 4 }] } : State).cascade 0x2000 false 1 =
        ({ plain with merges := [{ loc := 0x2000, slot := 0, launch := 1, n := 4, q := 4 }] } : State).closeMerge 0x2000 0 1 false ∧
      Runs (.mergeBufferEntryGrant (sliceOf 0x2000)) { plain with mergeWait := [strict 0 1 1] } := by
  have g := fun (s : State) l hd (hc : s.codes = []) => h.1 s l true hd (homeGood hc _ _)
  have r := fun (l : HeldLine) (hl : l.det = false) => (g merging l hl rfl).2.2.2 { loc := 0x2000, slot := 0, launch := 1, n := 4, q := 2 }
  have open' : ∀ l : HeldLine, l.loc = 0x2000 → ¬(merging.mergeRoom l.loc = false ∨
      (true = true ∧ ∃ x ∈ merging.mergeWait, sliceOf x.loc = sliceOf l.loc ∧ merging.mayEnter x = true)) := by
    intro l hl; rw [hl]; decide
  have apart : ∀ k, ¬(k < 2 ∨ ∃ x ∈ ([] : List HeldLine) ++ merging.mergeWait, x.loc = 0x2000 ∧ x.slot = 0 ∧ x.launch = 1 ∧ x.k = k) ∨ k < 2 := by
    intro k
    by_cases hk : k < 2
    · exact .inr hk
    · exact .inl (by rintro (e | ⟨x, hx, -⟩); exacts [hk e, by cases hx])
  refine ⟨?_, ?_, ?_, ?_, ?_, ?_, ?_, ?_, ?_, ?_, runs (h.2.2 { plain with mergeWait := [strict 0 1 1] } (strict 0 1 1) rfl (by decide))⟩
  · rw [(g plain (strict 0 1 1) rfl rfl).1 rfl rfl rfl]
  · rw [(g plain (strict 0 4 1) rfl rfl).2.1 rfl rfl (by decide)]
  · rw [((g plain (strict 1 4 1) rfl rfl).2.2.1 rfl (by decide)).1 (by decide)]
  · rw [(r (strict 2 4 2) rfl rfl).1 (.inr (by decide))]
  · rw [((r (strict 2 5 1) rfl rfl).2 rfl rfl).1 (by decide)]
  · rw [((r (strict 1 4 1) rfl rfl).2 rfl rfl).2.1 rfl (.inl (by decide))]
  · rw [(((r (strict 2 4 1) rfl rfl).2 rfl rfl).2.2 rfl ((apart 2).resolve_right (by decide))).1 rfl]
  · rw [((((r (strict 3 4 1) rfl rfl).2 rfl rfl).2.2 rfl ((apart 3).resolve_right (by decide))).2 (by decide)).1 (open' _ rfl)]
  · rw [((g { plain with mergeWait := [strict 0 1 1] } (strict 1 4 1) rfl rfl).2.2.1 rfl (by decide)).2
      (.inr ⟨rfl, _, .head _, rfl, by decide⟩)]
    rfl
  · exact (h.2.1 { plain with merges := [{ loc := 0x2000, slot := 0, launch := 1, n := 4, q := 4 }] } 0x2000 false 0 _ rfl).1 (by decide)

/-! ### The fabric -/

/-- A packet from module 7 to this one. -/
def packet (typ op : Nat) : Packet :=
  { dst := 0, src := 7, vc := 0, typ := typ, ctag := 5, txn := 3, len := 3, op := op, hops := 0, gh := false, addr := 0x200000, low := 3,
    rsvd := 0, data := [1, 2, 3, 4] }

/-- A module whose slot 0 has tag 5 and exports the 2 MiB at 0x200000. -/
def exporting : State :=
  { plain with slots := [(0, { v := true, objs := [launch], ctagV := true, ctag := 5, expWe := true, expV := true, expSize := 1, expBase := 1 })] }

theorem witness_PeerRequestsAreAcceptedOrRefused (h : Obligations.PeerRequestsAndResponses) :
    Runs (.peerRequestReceive (packet 2 0)) { exporting with responses := [{ packet 0x11 0 with dst := 7, src := 0 }] } ∧
      Runs (.peerRequestReceive (packet 2 0)) { exporting with ops := [{ flying .none (.fence none none) with origin := some (packet 2 0) }] } ∧
      Runs (.peerRequestReceive (packet 2 0)) plain ∧ Runs (.peerRequestReceive (packet 2 0)) exporting ∧
      (exporting.slot 0).accepts (packet 2 0) = true := by
  have g := fun s => h.1.2 s (packet 2 0)
  have idle : ∀ s : State, s.ops = [] → (s.pruneResponses (packet 2 0)).gathering = [] →
      ¬((∃ o ∈ s.ops, ∃ r, o.origin = some r ∧ r.src = (packet 2 0).src ∧ r.txn = (packet 2 0).txn) ∨
        ∃ g ∈ (s.pruneResponses (packet 2 0)).gathering, g.1.src = (packet 2 0).src ∧ g.1.txn = (packet 2 0).txn) := by
    intro s h1 h2
    simp [h1, h2]
  have e := fun s h1 h2 hr => ((g s hr (by decide) (by decide)).2 · |>.2 · (idle s h1 h2) (by decide) (by decide))
  exact ⟨runs ((g { exporting with responses := [{ packet 0x11 0 with dst := 7, src := 0 }] } rfl (by decide) (by decide)).1 _ rfl),
    runs (((g { exporting with ops := [{ flying .none (.fence none none) with origin := some (packet 2 0) }] } rfl (by decide) (by decide)).2
      rfl).1 (.inr (.inl ⟨_, .head _, packet 2 0, rfl, rfl, rfl⟩))),
    runs ((e plain rfl rfl rfl rfl (by decide)).1 (by decide)), runs_of2 ((e exporting rfl rfl rfl rfl (by decide)).2 0 (by decide) rfl),
    (h.1.1 (exporting.slot 0) (packet 2 0) rfl).2 (by decide)⟩

/-- A request of a store to module 7, sent some times, the last of them 3 ms ago. -/
def request (sends : Nat) : Req := { op := 9, tid := 2, slot := 0, pkt := { packet 2 0 with dst := 7, src := 0 }, sends := sends, waited := 1800000 }

/-- The module of that request and its store. -/
def asking (sends : Nat) : State :=
  { plain with
    ops := [flying .st (.store { word 4 with loc := 8 * 2 ^ 46 + 0x2000 } [1, 2, 3, 4] none)]
    reqs := [request sends]
    routes := [{ dev := 7, minimal := [31], nonMinimal := [], escape := none, state := .reachable, hops := 1 }]
    links := [(31, { state := .up, peer := 7 })] }

theorem witness_PeerResponsesEndRequests (h : Obligations.PeerRequestsAndResponses) :
    Runs (.peerResponseReceive (packet 0x12 2)) (asking 1) ∧ Runs (.peerResponseReceive (packet 0x11 0)) (asking 1) ∧
      Runs (.requestResendTimeout 9) (asking 2) ∧ Runs (.requestResendTimeout 9) (asking 3) :=
  ⟨runs ((h.2.1 (asking 1) (packet 0x12 2) _ rfl rfl).1 rfl), runs ((h.2.1 (asking 1) (packet 0x11 0) _ rfl rfl).2 _ _ _ _ rfl rfl rfl),
    runs ((h.2.2 (asking 2) 9 (request 2) (by decide)).1 (by decide)), runs ((h.2.2 (asking 3) 9 (request 3) (by decide)).2 (by decide) rfl)⟩

/-- A module with one link in a state, the last or the first global one. -/
def linked (n : Nat) (l : Link) : State := { plain with links := [(n, l)] }

/-- A link that is UP, and has sent the flits 4 and 5. -/
def up : Link := { state := .up, peer := 7, replay := [(4, mkFlit 4 0), (5, mkFlit 5 0)], pools := [(11, { sent := 9, freed := 4 })] }

/-- The header flit of a store of 64 bytes. -/
def header : Flit := mkFlit 0 (pktHeader { packet 2 0 with len := 63, data := [] })

/-- One whose reserved bits are not zero. -/
def reserved : Flit := mkFlit 0 (pktHeader { packet 2 0 with len := 63, data := [], rsvd := 1 })

/-- A link that has received the header of that store and the first of a packet's two payload flits. -/
def begun (left : Nat) : Link := { up with rxSeq := 1, partialPkt := some ({ packet 2 0 with len := 127, data := [] }, left) }

/-- The header flit of a waymark echo, which needs no payload. -/
def echo : Flit := mkFlit 0 (pktHeader { packet 0x21 11 with len := 0, data := [] })

theorem witness_FlitsAndAllowances (h : Obligations.LinksCarryFlitsAndTrain) :
    Runs (.flitReceive 46 header) plain ∧ Runs (.flitReceive 46 { header with code0 := ~~~header.code0 }) (linked 46 up) ∧
      Runs (.flitReceive 46 header) (linked 46 { up with rxSeq := 1 }) ∧ Runs (.flitReceive 46 reserved) (linked 46 up) ∧
      Runs (.flitReceive 46 header) (linked 46 up) ∧ Runs (.flitReceive 46 echo) (linked 46 up) ∧
      Runs (.flitReceive 46 (mkFlit 1 0)) (linked 46 (begun 128)) ∧ Runs (.flitReceive 46 (mkFlit 1 0)) (linked 46 (begun 64)) ∧
      (begun 64).holds 0 = true ∧ (up.holds 2048 = true ∧ up.holds 2047 = false) ∧
      Runs (.flitAcknowledgement 46 4) (linked 46 up) ∧ Runs (.flitAcknowledgement 46 6) (linked 46 up) ∧
      Runs (.allowanceReturn 46 11 9 true) (linked 46 up) ∧
      Runs (.allowanceReturn 46 11 9 false) (linked 46 up) ∧ Runs (.resyncBeatSend 46) plain ∧ Runs (.resyncBeatSend 46) (linked 46 up) ∧
      Runs (.resyncBeatReceive 46 7 3 []) plain ∧ Runs (.resyncBeatReceive 46 7 3 []) (linked 46 up) := by
  have g := fun s => h.1 s 46 (by decide)
  have f := fun l fl => (g (linked 46 l)).1 fl
  have hold := fun l => (g (linked 46 l)).2.1
  exact ⟨runs (((g plain).1 header).1 (by decide)),
    runs ((f up { header with code0 := ~~~header.code0 }).2.1 rfl (by decide +kernel)),
    runs ((f { up with rxSeq := 1 } header).2.2.1 rfl (by decide +kernel) (by decide)),
    runs (((f up reserved).2.2.2 rfl (by decide +kernel) (by decide +kernel)).1 rfl |>.1 (.inr (by decide +kernel))),
    runs ((((f up header).2.2.2 rfl (by decide +kernel) (by decide)).1 rfl).2.1 (by decide +kernel) (by decide +kernel) (by decide +kernel)),
    runs ((((f up echo).2.2.2 rfl (by decide +kernel) (by decide)).1 rfl).2.2 (by decide +kernel) (by decide +kernel) (by decide +kernel)),
    runs ((((f (begun 128) (mkFlit 1 0)).2.2.2 rfl (by decide +kernel) (by decide)).2 _ 128 rfl).1 (by decide)),
    runs ((((f (begun 64) (mkFlit 1 0)).2.2.2 rfl (by decide +kernel) (by decide)).2 _ 64 rfl).2 (by decide)),
    (hold (begun 64) 0 (by decide)).2 ⟨0, by decide, by decide⟩,
    ⟨(hold up 2048 (by decide)).2 ⟨2047, by decide, by decide⟩, by decide⟩,
    runs (((g (linked 46 up)).2.2.1 4).1 (by decide)), runs (((g (linked 46 up)).2.2.1 6).2 (by decide)),
    runs (((g (linked 46 up)).2.2.2.1 11 9).1 (by decide)), runs ((g (linked 46 up)).2.2.2.1 11 9).2,
    runs ((g plain).2.2.2.2.1 (by decide)), runs ((g (linked 46 up)).2.2.2.2.2.1 rfl),
    runs (((g plain).2.2.2.2.2.2 7 3 []).1 (by decide)), runs (((g (linked 46 up)).2.2.2.2.2.2 7 3 []).2 rfl)⟩

/-- A module with a packet that has waited in a buffer for 128 cycles, or for none, and a clock at which every link in training has waited. -/
def queueing (since : Nat) : State := { plain with transit := [{ pkt := packet 2 0, since := since }], now := 1200128 }

theorem witness_LinksTrainAndRoute (h : Obligations.LinksCarryFlitsAndTrain) :
    Runs (.linkRetrain 46) (linked 46 up) ∧ Runs (.linkLock 46 7 33) (linked 46 { state := .training }) ∧
      Runs (.linkLock 0 2 0) (linked 0 { state := .training }) ∧ Runs (.linkTrainingTimeout 46) (linked 46 { state := .training }) ∧
      Runs (.linkTrainingTimeout 46) { linked 46 { state := .training } with now := 1200000 } ∧ Runs .linkTrainingRetry plain ∧
      Runs .linkTrainingRetry { plain with trainedAt := some 0, now := 599999999 } ∧
      Runs (.escapeTimeout 3) (queueing 1200128) ∧ Runs (.escapeTimeout 3) (queueing 1200000) ∧ Runs (.routingTableRewrite []) plain ∧
      plain.farEnd 0 1 0 = true := by
  obtain ⟨g1, _, _, _, _, _, _, _, _⟩ := h.2.1 (linked 46 up)
  obtain ⟨_, g2, _, g3, _, _, _, _, _⟩ := h.2.1 (linked 46 { state := .training })
  obtain ⟨_, k2, _, _, _, _, _, _, _⟩ := h.2.1 (linked 0 { state := .training })
  obtain ⟨_, _, _, k3, _, _, _, _, _⟩ := h.2.1 { linked 46 { state := .training } with now := 1200000 }
  obtain ⟨_, _, g7, _, _, g4, _, _, g6⟩ := h.2.1 plain
  obtain ⟨_, _, _, _, g8, _, _, _, _⟩ := h.2.1 { plain with trainedAt := some 0, now := 599999999 }
  obtain ⟨_, _, _, _, _, _, g5, _, _⟩ := h.2.1 (queueing 1200128)
  obtain ⟨_, _, _, _, _, _, _, k5, _⟩ := h.2.1 (queueing 1200000)
  exact ⟨runs (g1 46 (by decide) rfl), runs ((g2 46 7 33 (by decide) rfl).2 (by decide)), runs ((k2 0 2 0 (by decide) rfl).1 (by decide)),
    runs ((g3 46 (by decide) rfl).1 (by decide)), runs ((k3 46 (by decide) rfl).2 (by decide)), runs_of (g4 (by intro c hc; cases hc)),
    runs (g8 0 rfl (by decide)), runs (g5 3 (by decide)), runs (k5 3 _ rfl), runs (g6 [] rfl), (g7 0 1 0 (by decide)).2 (by decide)⟩

/-- A link of a reconfiguration that waits for its last echo, with the pools echoed to the far end. -/
def draining (echoed : List Nat) : Link := { up with reconf := true, waymarks := [11], echoed := echoed, replay := [] }

theorem witness_ReconfigurationDrainsLinks (h : Obligations.LinksCarryFlitsAndTrain) :
    Runs (.opticalReconfiguration [31] [31]) plain ∧ Runs (.opticalReconfiguration [46] []) (linked 46 up) ∧
      Runs (.opticalReconfiguration [46] []) (linked 46 { up with state := .training }) ∧ Runs (.waymark 46 11) (linked 46 up) ∧
      Runs (.waymark 46 11) { linked 46 up with transit := [{ pkt := packet 2 0, since := 0, source := some (46, 11) }] } ∧
      Runs (.waymark 46 11) plain ∧
      Runs (.waymarkEcho 46 11) (linked 46 (draining (List.range 12))) ∧ Runs (.waymarkEcho 46 11) (linked 46 (draining (List.range 11))) ∧
      Runs .switchSettled (linked 46 { state := .dark, reconf := true }) ∧
      Runs (.routingTableRewrite []) { linked 46 { state := .up, reconf := true, settled := true } with reconf := [46] } := by
  have alone : ∀ x ∈ (linked 46 up).links, x.2.echoes = [] := by decide
  have none' : ∀ k, ((linked 46 up).link k).drained = false := by
    intro k
    by_cases hk : 46 = k
    · subst hk; decide
    · simp [State.link, linked, Sparse.get, Sparse.find, hk, Link.drained]
  exact ⟨runs ((h.2.2 plain).1 31 [31] (by decide) (by decide) (.inl (by decide))),
    runs_of2 ((h.2.2 (linked 46 up)).2.1 46 [] (by decide) (by decide) (.inl rfl)),
    runs_of2 ((h.2.2 (linked 46 { up with state := .training })).2.1 46 [] (by decide) (by decide) (.inr rfl)),
    runs_of2 (((h.2.2 (linked 46 up)).2.2.1 46 11 (by decide) rfl alone none').1 rfl),
    runs (((h.2.2 { linked 46 up with transit := [{ pkt := packet 2 0, since := 0, source := some (46, 11) }] }).2.2.1 46 11 (by decide) rfl
      alone none').2 rfl),
    runs ((h.2.2 plain).2.2.2.1 46 11 (by decide) (by decide)),
    runs_of (((h.2.2 (linked 46 (draining (List.range 12)))).2.2.2.2.1 46 11 (by decide) rfl rfl rfl rfl).1 (by decide) rfl),
    runs (((h.2.2 (linked 46 (draining (List.range 11)))).2.2.2.2.1 46 11 (by decide) rfl rfl rfl rfl).2 (.inl ⟨11, by decide, by decide⟩)),
    runs_of (h.2.2 (linked 46 { state := .dark, reconf := true })).2.2.2.2.2.1,
    runs ((h.2.2 { linked 46 { state := .up, reconf := true, settled := true } with reconf := [46] }).2.2.2.2.2.2 46 [] rfl rfl (by decide))⟩

/-! ### Launches, units, pre-emption, images -/

/-- A launch of two units of one thread, flushable, with 100 expected cycles and 64 bytes of scratchpad. -/
def order : Obj :=
  { handle := 1, parent := 0x40000001,
    desc := [0x1000, 0, 0, 0, 0, 0, 2 ^ 27 + 15 * 2 ^ 10, 0, 0, 1, 0, 0, 1, 0, 0, 0, 100] ++ List.replicate 15 0 }

/-- A launch in its graph, phase and job, with a placement queue. -/
def tenancy (o : Obj) (q : List (Word × Nat × Nat)) : Slot :=
  { v := true, queue := q,
    objs := [{ handle := 0xC0000001, parent := 0 }, { handle := 0x80000001, parent := 0xC0000001 },
      { handle := 0x40000001, parent := 0x80000001 }, o] }

/-- The thread of such a launch: its handle in v2, an address in v4, the counts 0 in v6 and 5 in v8, another slot's handle in v10, core 0's
first row in v12 and no core in v14. -/
def tenant (l : Level) : Thread :=
  { holding [(2, 1, .int), (4, 0x2000, .raw), (8, 5, .int), (10, 99, .int), (12, 1, .int), (14, 0xFFFFFFFF, .int)] with level := l }

/-- Its module. -/
def hosting (l : Level) : State := { mapped (tenant l) strand with slots := [(0, tenancy order [])] }

theorem alone_hosting (l : Level) : Alone (hosting l) strand (tenant l) := alone_of rfl rfl rfl rfl rfl rfl ⟨rfl, rfl⟩

theorem witness_LaunchInstructions (h : Obligations.LaunchInstructions) :
    Runs (.lch 20 4) (hosting .user) ∧ Runs (.lcnt 20 2 0) (hosting .user) ∧ Runs (.lcnt 21 2 1) (hosting .user) ∧
      Runs (.lcancel 2) (hosting .user) ∧ Runs (.lwaitc 10 6) (hosting .user) ∧ Runs (.lwaitc 2 6) (hosting .user) ∧
      Runs (.lwaitc 2 8) (hosting .user) ∧ Runs (.pmreq 2 8) (hosting .supervisor) ∧ Runs (.pmreq 10 8) (hosting .supervisor) := by
  have a := alone_hosting .user
  have b := alone_hosting .supervisor
  have m : strand.more := more_of rfl
  have n : ((hosting .supervisor).atWord strand).named (tenant .supervisor)
    (((hosting .supervisor).atWord strand).operand (tenant .supervisor) .int 10) = none := by decide +kernel
  have nn : ∀ (x : Word) (o : Obj), ((hosting .supervisor).atWord strand).named (tenant .supervisor)
      (((hosting .supervisor).atWord strand).operand (tenant .supervisor) .int 10) = some x →
      ((hosting .supervisor).atWord strand).obj? (((hosting .supervisor).atWord strand).slotOf (tenant .supervisor)) x = some o →
      o.ended = true := fun x o e => by rw [n] at e; cases e
  have w := fun x y => (h 0 x y 0).2.2.2.1 _ _ _ a m
  exact ⟨runs_of ((h 20 4 0 0).1 _ _ _ _ _ a m (ready_of (by decide)) ⟨rfl, by decide, word 128, by decide +kernel, rfl⟩),
    runs_of ((h 20 2 0 0).2.1 _ _ _ _ _ a m (ready_of (by decide)) ⟨rfl, by decide, by decide, rfl⟩),
    runs_of ((h 21 2 0 1).2.1 _ _ _ _ _ a m (ready_of (by decide)) ⟨rfl, by decide, by decide, rfl⟩),
    runs ((h 0 2 0 0).2.2.1 _ _ _ a m (ready_of (by decide)) trivial),
    runs ((w 10 6 (ready_of (by decide))).1 (by decide +kernel)),
    runs (((w 2 6 (ready_of (by decide))).2 1 order (by decide +kernel) (by decide +kernel)).1 (.inr (by decide)) (by decide)),
    runs (((w 2 8 (ready_of (by decide))).2 1 order (by decide +kernel) (by decide +kernel)).2.2 rfl (by decide)),
    runs ((h 0 2 8 0).2.2.2.2.1 1 order _ _ _ b m (ready_of (by decide)) ⟨by decide, by decide, by decide +kernel, by decide +kernel, rfl⟩),
    runs ((h 0 10 8 0).2.2.2.2.2 _ _ _ b m (ready_of (by decide)) ⟨by decide, by decide, nn, by decide +kernel⟩)⟩

/-- A module with a unit of the launch queued and none resident, and one whose unit has ended. -/
def placing : State := { plain with units := [], threads := [], strands := [], slots := [(0, tenancy order [(1, 0, 2)])] }

theorem witness_UnitsArePlacedAndEnd (h : Obligations.UnitsArePlacedAndEnd) :
    Runs (.placeUnit 0) placing ∧ Runs (.unitEnd 1) { hosting .user with threads := [{ thread with state := .exited }], strands := [] } := by
  have hs : (placing.nextPlace 0 [] (placing.slot 0).queue).isSome = true := by decide +kernel
  obtain ⟨⟨o, u, c, r, q⟩, e⟩ := Option.isSome_iff_exists.1 hs
  exact ⟨runs_of2 (h.1 placing 0 o u c r q (by decide) rfl rfl rfl e (by decide) (by decide)),
    runs_of2 (h.2 { hosting .user with threads := [{ thread with state := .exited }], strands := [] } unit order rfl (by decide)
      (by decide +kernel) rfl (by decide))⟩

/-- The launch without its flush bit. -/
def unflushable : Obj := { order with desc := order.desc.set 6 (15 * 2 ^ 10) }

/-- A unit marked for pre-emption with a bound, placed at cycle 0, at a cycle. -/
def marked (bound now : Nat) : State := { hosting .user with units := [{ unit with wants := [bound] }], dies := [(0, { cyc := now })] }

/-- A unit that is stopped for a save, its thread parked. -/
def stopping : State :=
  { hosting .user with
    units := [{ unit with pre := some .save, stopped := true, scrLen := 64 }], threads := [{ thread with state := .parked }], strands := [] }

/-- A saved unit. -/
def stored (img : Option (List Byte)) : Saved :=
  { id := 6, unit := unit, threads := [thread], cmds := [], scratch := [], cluster := [], lp := [], image := img }

/-- A save costs 41 lines; at cycle 0 a drain costs 100 and a flush 0, at cycle 60 a drain costs 40 and a flush 60, and at cycle 1,000,000 a
drain is unbounded (15 R351). -/
theorem witness_PreemptionChoosesAndActs (h : Obligations.PreemptionChoosesAndActs) :
    chooseWay order 0 0 false = .flush ∧ chooseWay order 60 0 false = .drain ∧ chooseWay unflushable 0 0 false = .save ∧
      chooseWay order 60 0 true = .save ∧ chooseWay unflushable 0 5000 true = .save ∧
      Runs (.preemptUnit 1 0) (marked 0 60) ∧ Runs (.preemptUnit 1 0) (marked 0 0) ∧ Runs (.preemptUnit 1 0) (marked 5000 1000000) ∧
      Runs (.preemptUnit 1 60) (hosting .user) ∧
      Runs (.saveUnitComplete 1) stopping ∧ Runs (.restoreUnit 6) { placing with saved := [stored none] } := by
  refine ⟨?_, ?_, ?_, ?_, ?_, ?_, ?_, ?_, runs (h.2.1 (hosting .user) unit 60 rfl rfl rfl (by decide +kernel)), ?_, ?_⟩
  · rw [(h.1 order 0 0).2.1 (by decide) rfl]
    decide +kernel
  · rw [(h.1 order 60 0).2.1 (by decide) rfl]
    decide +kernel
  · rw [(h.1 unflushable 0 0).1 (by decide) rfl]
    decide +kernel
  · rw [(h.1 order 60 0).2.2.2.2.2.2 (by decide) rfl]
    decide +kernel
  · exact (h.1 unflushable 0 5000).2.2.2.2.2.1 (by decide)
  · exact runs ((h.2.2.1 (marked 0 60) { unit with wants := [0] } 0 0 order rfl rfl (.inl rfl) (by decide +kernel)).1 (by decide))
  · exact runs_of ((h.2.2.1 (marked 0 0) { unit with wants := [0] } 0 0 order rfl rfl (.inl rfl) (by decide +kernel)).2.2 (by decide))
  · exact runs ((h.2.2.1 (marked 5000 1000000) { unit with wants := [5000] } 0 5000 order rfl rfl (.inl rfl) (by decide +kernel)).2.1 (by decide))
  · exact runs_of2 (h.2.2.2.1 stopping { unit with pre := some .save, stopped := true, scrLen := 64 } rfl rfl rfl (by decide))
  · exact runs (h.2.2.2.2 { placing with saved := [stored none] } (stored none) order 0 0 rfl (by decide +kernel) rfl rfl rfl rfl
      (by decide +kernel))

/-- A module with a second unit of the launch, on core 0 from slot row 1. -/
def neighbours (l : Level) : State := { hosting l with units := [unit, { unit with uid := 7, index := 1, row0 := 1 }] }

theorem alone_neighbours (l : Level) : Alone (neighbours l) strand (tenant l) := alone_of rfl rfl rfl rfl rfl rfl ⟨rfl, rfl⟩

theorem witness_ImagesAreSavedAndLoaded (h : Obligations.ImagesAreSavedAndLoaded) :
    Runs (.ctxsave 20 4 12) (neighbours .supervisor) ∧ Runs (.ctxsave 20 4 14) (neighbours .supervisor) ∧
      Runs (.ctxload 20 4 14) (neighbours .supervisor) ∧
      Runs (.ctxsave 20 16 12) (module { holding [(12, 1, .int), (17, 0x01000000, .raw)] with level := .supervisor } strand) ∧
      Runs (.ctxload 20 16 12) (module { holding [(12, 1, .int), (16, 0x800, .raw)] with level := .supervisor } strand) := by
  have a := alone_neighbours .supervisor
  have m : strand.more := more_of rfl
  obtain ⟨g1, _⟩ := h 20 4 12
  obtain ⟨_, g2, g3, _⟩ := h 20 4 14
  exact ⟨runs (g1 { unit with uid := 7, index := 1, row0 := 1 } _ _ _ a m (ready_of (by decide))
      ⟨⟨by decide, by decide, by decide, by decide⟩, by decide +kernel⟩),
    runs (g2 _ _ _ a m (ready_of (by decide)) ⟨⟨by decide, by decide, by decide, by decide⟩, by decide +kernel, by decide +kernel⟩),
    runs (g3 _ _ _ a m (ready_of (by decide)) ⟨⟨by decide, by decide, by decide, by decide⟩, by decide +kernel⟩),
    runs (((h 20 16 12).2.2.2.1 _ (.head _)).1 _ _ _
      (alone_of rfl rfl rfl rfl rfl rfl ⟨rfl, rfl⟩ : Alone (module { holding [(12, 1, .int), (17, 0x01000000, .raw)] with level := .supervisor } strand) strand
        { holding [(12, 1, .int), (17, 0x01000000, .raw)] with level := .supervisor }) (ready_of (by decide)) ⟨by decide, by decide, by decide⟩),
    runs (((h 20 16 12).2.2.2.1 _ (.tail _ (.head _))).2 _ _ _
      (alone_of rfl rfl rfl rfl rfl rfl ⟨rfl, rfl⟩ : Alone (module { holding [(12, 1, .int), (16, 0x800, .raw)] with level := .supervisor } strand) strand
        { holding [(12, 1, .int), (16, 0x800, .raw)] with level := .supervisor }) (ready_of (by decide))
      ⟨by decide, by decide, by decide, by decide⟩)⟩

/-- A `ctxload` at 0x2000 that has read 8 KiB: the words of a header up to its digest, the 8 words of the digest, and zeros. -/
def loader (len : Nat) (digest : List Word) : Op :=
  { flying .st (.loadUnit 0x2000 0xFFFFFFFF) with tid := 99, data := [BitVec.ofNat 32 len, 0, 1, 0] ++ (digest ++ List.replicate 2036 0) }

/-- Its module, with a saved unit of launch 1 whose image holds zeros behind its header. -/
def reloading (o : Op) : State :=
  { hosting .supervisor with saved := [stored (some (padTo 8192 []))], images := [stored (some (padTo 8192 []))], ops := [o] }

theorem read_done {o : Op} (hi : o.id = 9) (ho : o.data.length = 2048) (len n : Nat) (h : len ≤ 8192) :
    (reloading o).imageRead 9 0x2000 len (n + 1) = (reloading o, .done) := by
  have e : (reloading o).op? 9 = some o := by simp [State.op?, reloading, hi]
  rw [State.imageRead, e]
  simp only [ho]
  rw [if_pos (by omega)]

/-- An image whose length is wrong gives 0: the saved unit is not taken up. -/
theorem witness_ImageIsRefused (h : Obligations.ImagesAreSavedAndLoaded) :
    ((reloading (loader 0 (List.replicate 8 0))).loadFrom 9 0x2000 0xFFFFFFFF).saved.map (fun v => v.loadOp) = [none] := by
  have l : (loader 0 (List.replicate 8 0)).data.length = 2048 := by decide +kernel
  have e := ((h 0 0 0).2.2.2.2.2 (reloading (loader 0 (List.replicate 8 0))) 9 0x2000 0xFFFFFFFF (reloading (loader 0 (List.replicate 8 0)))
    (loader 0 (List.replicate 8 0)) order (reloading (loader 0 (List.replicate 8 0))) (loader 0 (List.replicate 8 0))
    (read_done rfl l 4096 19 (by decide)) rfl (by decide +kernel)
    (read_done rfl l (imageLen order) (imageLen order / 256 + 19) (by decide +kernel)) rfl).1 (fun g => absurd g.2.1 (by decide +kernel))
  rw [e]
  decide +kernel

theorem leBytes_word (a b c d : Byte) : leBytes 4 (BitVec.ofNat 32 (leNat [a, b, c, d])).toNat = [a, b, c, d] := by
  have := a.isLt; have := b.isLt; have := c.isLt; have := d.isLt
  simp only [leBytes, leNat, BitVec.toNat_ofNat, List.cons.injEq, and_true]
  refine ⟨?_, ?_, ?_, ?_⟩ <;> (apply BitVec.eq_of_toNat_eq; rw [BitVec.toNat_ofNat]; omega)

/-- The words of bytes, four by four. -/
def wordsOfBytes (bs : List Byte) : List Word :=
  match bs with
  | a :: b :: c :: d :: r => BitVec.ofNat 32 (leNat [a, b, c, d]) :: wordsOfBytes r
  | _ => []

theorem wordBytes_wordsOfBytes (k : Nat) (bs : List Byte) (h : bs.length = 4 * k) :
    wordBytes (wordsOfBytes bs) = bs ∧ (wordsOfBytes bs).length = k := by
  induction k generalizing bs with
  | zero => obtain rfl := List.length_eq_zero_iff.1 (by omega : bs.length = 0); exact ⟨rfl, rfl⟩
  | succ k ih =>
    match bs, h with
    | a :: b :: c :: d :: r, h =>
      obtain ⟨h1, h2⟩ := ih r (by simp at h; omega)
      refine ⟨?_, by simp [wordsOfBytes, h2]⟩
      show leBytes 4 (BitVec.ofNat 32 (leNat [a, b, c, d])).toNat ++ wordBytes (wordsOfBytes r) = _
      rw [leBytes_word, h1]; rfl

/-- The digest of an image of zeros, as words. -/
def seal8 : List Word := wordsOfBytes (digestBytes (sha256 (List.replicate (imageLen order - 48) 0)))

/-- The `ctxload` of that image. -/
def good : Op := loader (imageLen order) seal8

theorem wordBytes_append (a b : List Word) : wordBytes (a ++ b) = wordBytes a ++ wordBytes b := List.flatMap_append

theorem wordBytes_zeros (n : Nat) : wordBytes (List.replicate n 0) = List.replicate (4 * n) 0 := by
  induction n with
  | zero => rfl
  | succ n ih =>
    rw [List.replicate_succ, show 4 * (n + 1) = (4 * n + 1 + 1 + 1) + 1 by omega]
    simp only [List.replicate_succ]
    show leBytes 4 _ ++ wordBytes (List.replicate n 0) = _
    rw [ih]; rfl

theorem digest_length (d : BitVec 256) : (digestBytes d).length = 32 := by
  unfold digestBytes
  rw [List.length_reverse]
  generalize d.toNat = n
  rfl

theorem good_bytes : good.imageSoFar = wordBytes [BitVec.ofNat 32 (imageLen order), 0, 1, 0] ++
    (digestBytes (sha256 (List.replicate (imageLen order - 48) 0)) ++ List.replicate 8144 0) := by
  show wordBytes ([BitVec.ofNat 32 (imageLen order), 0, 1, 0] ++ (seal8 ++ List.replicate 2036 0)) = _
  rw [wordBytes_append, wordBytes_append, wordBytes_zeros, seal8, (wordBytes_wordsOfBytes 8 _ (digest_length _)).1]

theorem good_length : good.data.length = 2048 := by
  show ([BitVec.ofNat 32 (imageLen order), 0, 1, 0] ++ (seal8 ++ List.replicate 2036 0)).length = _
  rw [List.length_append, List.length_append, seal8, (wordBytes_wordsOfBytes 8 _ (digest_length _)).2, List.length_replicate]; rfl

/-- A header of 16 bytes, a digest and zeros: what stands where, up to any length behind the digest. -/
theorem parts (H D : List Byte) (hH : H.length = 16) (hD : D.length = 32) (n m : Nat) (hn : 48 ≤ n) (hm : n ≤ 48 + m) :
    ((H ++ (D ++ List.replicate m 0)).take n).drop 48 = List.replicate (n - 48) 0 ∧
      (((H ++ (D ++ List.replicate m 0)).take n).drop 16).take 32 = D ∧
      ((H ++ (D ++ List.replicate m 0)).take n).take 16 = H := by
  have e : (H ++ (D ++ List.replicate m 0)).take n = H ++ (D ++ List.replicate (n - 48) 0) := by
    rw [List.take_append, List.take_append, List.take_of_length_le (by omega), List.take_of_length_le (by omega), List.take_replicate]
    congr 3
    omega
  rw [e]
  refine ⟨?_, ?_, ?_⟩
  · rw [← List.append_assoc, List.drop_left' (by simp [hH, hD])]
  · rw [List.drop_left' hH, List.take_left' hD]
  · rw [List.take_left' hH]

/-- A good image is taken up: its unit waits for its placement with a loader. -/
theorem witness_ImageIsTaken (h : Obligations.ImagesAreSavedAndLoaded) :
    ((reloading good).loadFrom 9 0x2000 0xFFFFFFFF).saved.map (fun v => v.loadOp) = [some 9] := by
  have len : imageLen order = 5312 := by decide +kernel
  have H : (wordBytes [BitVec.ofNat 32 (imageLen order), 0, 1, 0]).length = 16 := rfl
  have p := fun n h1 h2 => parts _ _ H (digest_length (sha256 (List.replicate (imageLen order - 48) 0))) n 8144 h1 h2
  have head : good.imageSoFar.take 4096 = wordBytes [BitVec.ofNat 32 (imageLen order), 0, 1, 0] ++ (good.imageSoFar.take 4096).drop 16 := by
    rw [good_bytes]
    conv_lhs => rw [← List.take_append_drop 16 (List.take 4096 _), (p 4096 (by decide) (by decide)).2.2]
  have e := (h 0 0 0).2.2.2.2.2 (reloading good) 9 0x2000 0xFFFFFFFF (reloading good) good order
    (reloading good) good (read_done rfl good_length 4096 19 (by decide)) rfl (by rw [head]; decide +kernel)
    (read_done rfl good_length (imageLen order) (imageLen order / 256 + 19) (by decide +kernel)) rfl
  rw [e.2 ⟨rfl, by rw [head]; decide +kernel, by rw [head]; rfl, ?_, rfl⟩, if_pos (by decide +kernel)]
  · decide +kernel
  · rw [good_bytes, (p 4096 (by decide) (by decide)).2.1, (p (imageLen order) (by rw [len]; decide) (by rw [len]; decide)).1]

/-! ### The host -/

/-- A header of the first message of the host. -/
def msg (typ : Nat) : MsgHead := { typ := typ, hyp := true, vf := 0, rsvd := 0, len := 32, seq := 0, ack := 0, epoch := 0 }

/-- The module of a launch in the Open state, with a page table whose one leaf maps the lowest 8 GiB. -/
def hosted : State :=
  { hosting .user with
    sec := .opened, mem := [(0x100C, 1), (0x100E, 0x10), (0x100F, 0xF9), (0x10000, 1), (0x10001, 0x10), (0x10002, 1), (0x11000, 0xF)]
    slots := [(0, { tenancy order [] with root := 0x10000 })] }

/-- The first message is in order in a module that has met none. -/
theorem first_of {s : State} {typ : Nat} (h : s.clehild.epoch = 0 ∧ s.clehild.nextIn = 0 ∧ s.clehild.waiting = [] ∧ s.serves typ = true) :
    InOrder s (msg typ) typ :=
  ⟨h.1.symm, h.2.1.symm, by rw [h.2.1]; decide, h.2.2.1, ⟨rfl, rfl, Nat.zero_lt_succ _, fun _ => rfl⟩, h.2.2.2⟩

/-- A module that expects a message with a number. -/
def expecting (n : Nat) : State := { hosted with clehild := { nextIn := n } }

theorem witness_HostMessagesAreDeliveredInOrder (h : Obligations.HostMessagesAreDeliveredInOrder) :
    Runs (.cancelMessage (msg 0x13) 1) hosted ∧ Runs (.cancelMessage { msg 0x13 with rsvd := 1 } 1) hosted ∧
      Runs (.cancelMessage (msg 0x13) 1) (expecting 5) ∧ Runs (.cancelMessage { msg 0x13 with seq := 7 } 1) (expecting 5) ∧
      Runs (.cancelMessage { msg 0x13 with epoch := 3 } 1) hosted := by
  have e : ∀ x : MsgHead, HostEvent (.cancelMessage x 1) x 0x13 (.cancel x 1) := fun x => .inr (.inr (.inr (.inl ⟨1, rfl, rfl, rfl⟩)))
  exact ⟨runs ((h _ _ _ _ (e _) hosted).1 (first_of (by decide)) (by decide +kernel)),
    runs ((h _ _ _ _ (e _) hosted).2.1 rfl rfl (by decide) rfl (.inl (by decide))),
    runs ((h _ _ _ _ (e _) (expecting 5)).2.2.1 rfl (by decide)),
    runs ((h _ _ _ _ (e _) (expecting 5)).2.2.2.1 rfl (by decide) (by decide) (by decide) (by simp [expecting])),
    runs ((h _ _ _ _ (e _) hosted).2.2.2.2 (by decide))⟩

/-- A descriptor of eight threads that join the graph. -/
def orderWords : List Word :=
  [0x100C, 0, 0, 0, 0, 0, 15 * 2 ^ 10, 7, 0, 0, 0, 0, 0, 0, 0, 0, 100, 0, 0x40000001] ++ List.replicate 13 0

/-- What the launch of its words gives. -/
def judged (ws : List Word) : State × Word × Nat := (hosted.passed (msg 0x12)).launchFrom (msg 0x12) ws

theorem judged_eq (ws : List Word) (n : Nat) (h : (judged ws).2.2 = n) :
    (hosted.passed (msg 0x12)).launchFrom (msg 0x12) ws = ((judged ws).1, (judged ws).2.1, n) := by
  rw [← h]
  rfl

/-- The module in another state. -/
def within (sec : Sec) (dbg : Dbg) (c : Clehild) : State := { hosted with sec := sec, dbg := dbg, clehild := c }

theorem witness_HostObjects (h : Obligations.HostMessagesHaveTheirEffects) :
    Runs (.createObject (msg 0x10) 3 0) hosted ∧ Runs (.createObject (msg 0x10) 1 0x80000001) hosted ∧
      Runs (.closeObject (msg 0x11) 0x40000001) hosted ∧ Runs (.launchMessage (msg 0x12) orderWords) hosted ∧
      Runs (.launchMessage (msg 0x12) []) hosted ∧ Runs (.cancelMessage (msg 0x13) 1) hosted ∧
      Runs (.preemptMessage (msg 0x14) 1 9) hosted ∧ Runs (.countReadMessage (msg 0x15) 1) hosted ∧
      Runs (.systemRegisterMessage (msg 0x20) false 3 0 0) hosted ∧ Runs (.systemRegisterMessage (msg 0x20) true 3 0 0xFF) hosted := by
  have f : ∀ n, hosted.serves n = true → InOrder hosted (msg n) n := fun n hn => first_of ⟨rfl, rfl, rfl, hn⟩
  exact ⟨runs ((h _).1 3 0 0xC0000002 hosted (f _ (by decide)) (by decide +kernel)),
    runs ((h _).1 1 0x80000001 0x40000002 hosted (f _ (by decide)) (by decide +kernel)),
    runs ((h _).2.1 0x40000001 hosted (f _ (by decide)) (by decide +kernel)),
    runs ((h _).2.2.1 orderWords _ _ hosted (f _ (by decide)) ⟨by decide +kernel, judged_eq orderWords 0 (by decide +kernel), by decide +kernel,
      by decide +kernel⟩),
    runs ((h _).2.2.2.1 [] _ _ 1 hosted (f _ (by decide)) ⟨by decide +kernel, judged_eq [] 1 (by decide +kernel), by decide, by decide +kernel⟩),
    runs ((h _).2.2.2.2.1 1 hosted (f _ (by decide)) (by decide +kernel)),
    runs ((h _).2.2.2.2.2.1 1 9 order hosted (f _ (by decide)) (by decide +kernel)),
    runs ((h _).2.2.2.2.2.2.1 1 order hosted (f _ (by decide)) (by decide +kernel)),
    runs (((h _).2.2.2.2.2.2.2.1 3 0 0 (by decide)).1 hosted (f _ (by decide)) trivial),
    runs (((h _).2.2.2.2.2.2.2.1 3 0 0xFF (by decide)).2 hosted (f _ (by decide)) (by decide +kernel))⟩

theorem witness_HostStates (h : Obligations.HostMessagesHaveTheirEffects) :
    Runs (.stateRequest (msg 0x21) 0x40000000) (within .boot .off { measurement := some 5 }) ∧
      Runs (.stateRequest (msg 0x21) 0x80000000) (within .opened .off { quoted := true }) ∧
      Runs (.stateRequest (msg 0x21) 0x80000000) (within .opened .off {}) ∧
      Runs (.stateRequest (msg 0x21) 0x60000000) (within .opened .off {}) ∧
      Runs (.stateRequest (msg 0x21) 0xA0000000) (within .tenant .off {}) ∧
      Runs (.attestationRequest (msg 0x22) (List.replicate 32 0) 0) hosted ∧
      Runs (.firmwareImage (msg 0x23) [] 0 [] 0 0) (within .boot .off {}) ∧ Runs (.checkpoint (msg 0x24) false (0, [])) hosted ∧
      Runs (.checkpoint (msg 0x24) true (0, [(7, 1)])) { within .opened .off {} with units := [], threads := [], strands := [] } ∧
      Runs (.debugRequest (msg 0x30) .state) (within .opened .observe {}) ∧ Runs (.debugRequest (msg 0x30) .state) hosted := by
  have f : ∀ n x y c, (within x y c).serves n = true → c.epoch = 0 → c.nextIn = 0 → c.waiting = [] → InOrder (within x y c) (msg n) n :=
    fun n x y c hn h1 h2 h3 => first_of ⟨h1, h2, h3, hn⟩
  have g : ∀ n, hosted.serves n = true → InOrder hosted (msg n) n := fun n hn => first_of ⟨rfl, rfl, rfl, hn⟩
  obtain ⟨_, _, _, _, _, _, _, _, q, _⟩ := h (msg 0x21)
  exact ⟨runs ((q 0x40000000 .opened .off (by decide) (by decide)).1 _ (f _ _ _ _ (by decide) rfl rfl rfl) (by decide)),
    runs ((q 0x80000000 .tenant .off (by decide) (by decide)).2.1 _ (f _ _ _ _ (by decide) rfl rfl rfl) (by decide)),
    runs ((q 0x80000000 .tenant .off (by decide) (by decide)).2.2.1 _ (f _ _ _ _ (by decide) rfl rfl rfl) (by decide)),
    runs ((q 0x60000000 .opened .halt (by decide) (by decide)).2.2.2.1 _ (f _ _ _ _ (by decide) rfl rfl rfl) (by decide)),
    runs ((q 0xA0000000 .tenant .halt (by decide) (by decide)).2.2.2.2 _ (f _ _ _ _ (by decide) rfl rfl rfl) (by decide)),
    runs ((h _).2.2.2.2.2.2.2.2.2.1 (List.replicate 32 0) 0 (by decide) (by decide) hosted (g _ (by decide)) rfl),
    runs ((h _).2.2.2.2.2.2.2.2.2.2.1 [] 0 [] 0 0 _ (f _ _ _ _ (by decide) rfl rfl rfl) rfl),
    runs ((h _).2.2.2.2.2.2.2.2.2.2.2.1 (0, []) hosted (g _ (by decide)) rfl),
    runs ((h _).2.2.2.2.2.2.2.2.2.2.2.2.1 (0, [(7, 1)]) { within .opened .off {} with units := [], threads := [], strands := [] }
      (first_of ⟨rfl, rfl, rfl, by decide⟩) rfl),
    runs ((h _).2.2.2.2.2.2.2.2.2.2.2.2.2.1 .state _ _ (f _ _ _ _ (by decide) rfl rfl rfl) ⟨by decide, by decide, by decide, rfl⟩),
    runs ((h _).2.2.2.2.2.2.2.2.2.2.2.2.2.2 .state hosted (g _ (by decide)) (by decide))⟩

/-- A module that sent a message at cycle 0, at a cycle. -/
def unacknowledged (now : Nat) : State :=
  { hosted with now := now, clehild := { log := [{ typ := 3, slot := 0, seq := 0, ack := 0, epoch := 0, payload := [], sentAt := 0 }] } }

/-- A module whose die 0 has counted some cycles. -/
def powered (n : Nat) : State := { plain with dies := [(0, { cyc := n })] }

/-- A module that holds line 0 in the L1 of core 319 and in its die's remote partition. -/
def cached : State := { plain with cores := [(319, { l1 := [(0, {})] })], dies := [(7, { remote := [(0, {})] })] }

theorem witness_ChannelResetErrorsAndStops (h : Obligations.ChannelResetErrorsAndStops) :
    Runs (.hostQuery (msg 1)) hosted ∧ Runs (.queryReply (msg 2) 0) hosted ∧ Runs (.acknowledgement (msg 3)) hosted ∧
      Runs .messageResendTimeout (unacknowledged 600000) ∧ Runs .clehildRestart plain ∧ Runs .moduleReset hosted ∧
      Runs (.powerGrant 0 2751 true) (powered 2400) ∧ Runs (.powerGrant 0 1000 true) (powered 2399) ∧
      Runs (.powerGrant 0 1000 false) (powered 2400) ∧ Runs (.powerGrantTimeout 0) (powered 2399) ∧
      Runs (.powerGrantTimeout 0) (powered 7200) ∧ Runs (.softErrorCorrected 7) plain ∧
      Runs (.uncorrectableStateError 319 (.l1Tlb 0)) plain ∧ Runs (.uncorrectableStateError 319 (.l2Tlb 0)) plain ∧
      Runs (.uncorrectableStateError 319 (.walkCache 0)) plain ∧ Runs (.uncorrectableStateError 319 (.data 0)) plain ∧
      Runs (.uncorrectableStateError 319 (.remoteData 0)) cached ∧ Runs (.uncorrectableStateError 319 (.l1Data 0)) cached ∧
      Runs (.uncorrectableStateError 0 .core) plain ∧
      exec (.formStrand 320 0) plain = .fault (.noSuchCore 320) ∧ exec (.softErrorCorrected 8) plain = .fault (.noSuchDie 8) ∧
      exec (.linkRetrain 47) plain = .fault (.noSuchLink 47) := by
  have f : ∀ n, hosted.serves n = true → InOrder hosted (msg n) n := fun n hn => first_of ⟨rfl, rfl, rfl, hn⟩
  obtain ⟨g1, g2, g3, _⟩ := h.1 hosted
  obtain ⟨_, _, _, _, p5, _, _, _, p9, p10, p11⟩ := h.1 plain
  have g := fun n => (h.1 (powered n)).2.2.2.2.2.2.1
  have k := fun n => (h.1 (powered n)).2.2.2.2.2.2.2.1 0 (by decide)
  exact ⟨runs (g1 _ (f _ (by decide))), runs (g2 _ _ (f _ (by decide))), runs (g3 _ (f _ (by decide))),
    runs ((h.1 (unacknowledged 600000)).2.2.2.1 _ rfl (by decide)), runs p5, runs_of (h.1 hosted).2.2.2.2.2.1,
    runs ((g 2400 0 2751 true (by decide)).1 (by decide)), runs ((g 2399 0 1000 true (by decide)).2.1 (by decide) (by decide)),
    runs ((g 2400 0 1000 false (by decide)).2.2 (by decide) (by decide)), runs ((k 2399).1 (by decide)), runs ((k 7200).2 (by decide)),
    runs (p9 7 (by decide)), runs (p10 319 0 (by decide)).1, runs (p10 319 0 (by decide)).2.1, runs (p10 319 0 (by decide)).2.2.1,
    runs (p10 319 0 (by decide)).2.2.2.1,
    runs (((h.1 cached).2.2.2.2.2.2.2.2.2.1 319 0 (by decide)).2.2.2.2.1 {} rfl),
    runs (((h.1 cached).2.2.2.2.2.2.2.2.2.1 319 0 (by decide)).2.2.2.2.2 {} rfl), runs_of (p11 0 (by decide)),
    ((h.2 plain 320).1 (by decide)).1, ((h.2 plain 8).2.1 (by decide)).2, ((h.2 plain 47).2.2 (by decide)).1⟩

/-! ### Checks, faults, memory, encodings, steps -/

/-- A thread with a budget of 16 registers. -/
def budgeted : Thread := { thread with budget := 16 }

/-- A thread with an `x64` value in v2. -/
def mistagged : Thread := holding [(2, 1, .x64)]

theorem alone_module (t : Thread) (h4 : t.tid = 2) (h5 : t.held = []) (h6 : t.owes = none) (h7 : t.begun = none ∧ t.descr = [])
    (h8 : t.checked = 0 ∧ t.pages = [] := by exact ⟨rfl, rfl⟩) : Alone (module t strand) strand t :=
  alone_of rfl rfl rfl (by rw [h4]; rfl) h5 h6 h7 h8

theorem witness_OperandChecksComeInOrder (h : Obligations.OperandChecksComeInOrder) :
    Runs (.add 16 2 3) (module budgeted strand) ∧ Runs (.add 2 16 3) (module budgeted strand) ∧ Runs (.add 15 2 16) (module budgeted strand) ∧
      Runs (.add 4 2 3) { plain with ops := [{ flying .ld (.fence none none) with dsts := [2] }] } ∧
      Runs (.add 4 2 3) (module mistagged strand) ∧ Runs (.sysget 2 4 0) plain ∧
      (holding [(2, 0x7FC00000, .f32)]).rd 0 .int 2 = 0 ∧ (holding [(2, 0x41200000, .raw)]).rd 0 .int 2 = 0x41200000 ∧
      (holding [(2, 0x41200000, .raw)]).rd 0 .f32 2 = 0x41200000 ∧
      (holding [(2, 10, .int)]).rd 0 .f32 2 = 0x41200000 ∧ (holding [(2, 40, .cq)]).rd 2 .f32 2 = 0x41200000 ∧
      (holding [(2, 0xC0700000, .f32)]).rd 0 .int 2 = 0xFFFFFFFD ∧ (holding [(2, 0x7F800000, .f32)]).rd 0 .int 2 = 0x7FFFFFFF := by
  have a : Alone (module budgeted strand) strand budgeted := alone_module _ rfl rfl rfl ⟨rfl, rfl⟩
  have b : Alone (module mistagged strand) strand mistagged := alone_module _ rfl rfl rfl ⟨rfl, rfl⟩
  have p : Alone plain strand thread := alone_module _ rfl rfl rfl ⟨rfl, rfl⟩
  have q : Alone { plain with ops := [{ flying .ld (.fence none none) with dsts := [2] }] } strand thread := alone_of rfl rfl rfl rfl rfl rfl ⟨rfl, rfl⟩
  refine ⟨runs ((h.2 16 2 3 0 _ _ _ a).1 (by decide)), runs ((h.2 2 16 3 0 _ _ _ a).2.1 (by decide) (by decide)),
    runs ((h.2 15 2 16 0 _ _ _ a).2.2.1 (by decide) (by decide) (by decide)),
    runs (((h.2 4 2 3 0 _ _ _ q).2.2.2.1 (by decide) (by decide) (by decide)).1 _ rfl rfl (by decide)),
    runs (((h.2 4 2 3 0 _ _ _ b).2.2.2.1 (by decide) (by decide) (by decide)).2 (by simp [module, State.reset]) (.inl (by decide))),
    runs ((h.2 2 4 0 0 _ _ _ p).2.2.2.2 rfl _ (.head _)),
    (h.1 (holding [(2, 0x7FC00000, .f32)]) 2 0).2.2.2.2.2.1 (by decide) (by decide),
    (h.1 (holding [(2, 0x41200000, .raw)]) 2 0).2.2.2.2.1 (by decide),
    (h.1 (holding [(2, 0x41200000, .raw)]) 2 0).2.2.2.2.2.2.2.1 (by decide) (by decide), ?_, ?_, ?_, ?_⟩
  · rw [(h.1 (holding [(2, 10, .int)]) 2 0).2.2.2.2.2.2.2.2.1 (by decide)]
    decide
  · rw [(h.1 (holding [(2, 40, .cq)]) 2 2).2.2.2.2.2.2.2.2.2 (by decide)]
    decide
  · rw [(h.1 (holding [(2, 0xC0700000, .f32)]) 2 0).2.2.2.2.2.2.1 (by decide) (by decide)]
    decide
  · rw [(h.1 (holding [(2, 0x7F800000, .f32)]) 2 0).2.2.2.2.2.2.1 (by decide) (by decide)]
    decide +kernel

/-- A launch with a fault handler and an emulation block. -/
def guarded : Obj := { launch with desc := [0x1000, 0, 0x3000, 0, 0x4000, 0] }

/-- A module with the thread of a launch. -/
def ofLaunch (o : Obj) (t : Thread) : State := { module t strand with slots := [(0, { v := true, objs := [o] })] }

/-- Where a fault is raised. -/
def site : Site := { runPc := 0x1004, wordPc := 0x1008, word := 7, after := 0x100C, blk := block }

theorem witness_FaultsParkOrEnterTheirHandlers (h : Obligations.FaultsParkOrEnterTheirHandlers) :
    (∃ u, ((ofLaunch guarded thread).takeFault 2 { code := 0x0101 } site).thread? 2 = some u ∧ u.pc = 0x4000 ∧ u.emul = true) ∧
      (∃ u, ((ofLaunch guarded thread).takeFault 2 { code := 0x0301 } site).thread? 2 = some u ∧ u.pc = 0x3000 ∧ u.handler = true) ∧
      (∃ u, ((ofLaunch launch thread).takeFault 2 { code := 0x0301 } site).thread? 2 = some u ∧ u.state = .parked) ∧
      { thread with everFaulted := true, record := { ({} : Record) with code := 0x301, pc := 4 } }.recordWords = [0x301, 4, 0, 0, 0, 0, 0, 0] ∧
      (ofLaunch launch { thread with state := .exited }).takeLate 2 { code := 0x0401 } 0x1004 7 = ofLaunch launch { thread with state := .exited } ∧
      (∃ r, (ofLaunch launch thread).takeLate 2 { code := 0x0401 } 0x1004 7 = (ofLaunch launch thread).setThread { thread with held := [r] }) ∧
      (∃ m, ((ofLaunch launch { thread with state := .parked }).takeLate 2 { code := 0x0401 } 0x1004 7).outbox = [m] ∧ m.typ = 0x40) ∧
      ∃ u, ((ofLaunch launch { thread with state := .blocked (.op 9) }).takeLate 2 { code := 0x0401 } 0x1004 7).thread? 2 = some u ∧
        u.state = .parked := by
  have n : ∀ o t, (ofLaunch o t).threadsNamed := fun o t => by simp [ofLaunch, module, State.threadsNamed]
  obtain ⟨u, a1, a2, a3, _⟩ := (h.1 (ofLaunch guarded thread) thread { code := 0x0101 } site guarded (n _ _) rfl rfl).1 rfl rfl (by decide)
  obtain ⟨v, b1, b2, b3, _⟩ := ((h.1 (ofLaunch guarded thread) thread { code := 0x0301 } site guarded (n _ _) rfl rfl).2 (.inl (by decide))).1
    (by decide) rfl (by decide) (by decide)
  obtain ⟨w, _, _, c1, c2, _⟩ := ((h.1 (ofLaunch launch thread) thread { code := 0x0301 } site launch (n _ _) rfl rfl).2 (.inl (by decide))).2
    (.inl (by decide))
  obtain ⟨x, d1, d2, _⟩ := (h.2.2 (ofLaunch launch { thread with state := .blocked (.op 9) }) { thread with state := .blocked (.op 9) }
    { code := 0x0401 } 0x1004 7 (n _ _) rfl).2.2.2 (.op 9) (.inl rfl) rfl (by decide +kernel)
  obtain ⟨_, m, _, _, e1, e2⟩ := (h.2.2 (ofLaunch launch { thread with state := .parked }) { thread with state := .parked }
    { code := 0x0401 } 0x1004 7 (n _ _) rfl).2.2.1 rfl
  exact ⟨⟨u, a1, a2, a3⟩, ⟨v, b1, b2, b3⟩, ⟨w, c1, c2⟩, h.2.1 _ rfl rfl,
    (h.2.2 (ofLaunch launch { thread with state := .exited }) { thread with state := .exited } { code := 0x0401 } 0x1004 7 (n _ _) rfl).1 rfl,
    ⟨_, (h.2.2 (ofLaunch launch thread) thread { code := 0x0401 } 0x1004 7 (n _ _) rfl).2.1 rfl⟩, ⟨m, e1, e2⟩, ⟨x, d1, d2⟩⟩

/-- A turn of the strand, or of an event, in the cycle that runs or in the next one. -/
def turn (tick : Bool) (who : Actor) : Turn := { tick := tick, who := who }

/-- A state whose next turn is an event in a new cycle. -/
def eventNext : State := { plain with strands := [], agenda := [turn true (.event .clehildRestart)] }

/-- A state whose next turn is the strand, at a word. -/
def wordNext (w : Word) : State := { module thread { strand with words := [w, 0] } with agenda := [turn false (.strand 3)] }

/-- A core that owes a thread its formation: it has stood ready for 256 cycles, the reset value of `wv.fair`. -/
def owing : State :=
  { waiting with dies := [(0, { cyc := 256 })], agenda := [turn true (.event .clehildRestart)] }

theorem witness_StepRunsTheDecodedWord (h : Obligations.StepRunsTheDecodedWord) :
    let at' := fun (w : Word) => ((wordNext w).begin (turn false (.strand 3))).noteTurn (.strand 3)
    Machine.step (wordNext 0x281840A1) = finishOut (exec (.sel 3 4 5) (at' 0x281840A1)) ∧
      Machine.step (wordNext 0xF8000000) = finishOut (exec .headWordInBody (at' 0xF8000000)) ∧
      Machine.step (wordNext 0) = finishOut (exec .illegalEncoding (at' 0)) ∧
      Machine.step eventNext = finishOut (exec .clehildRestart (eventNext.begin (turn true (.event .clehildRestart)))) ∧
      (eventNext.begin (turn true (.event .clehildRestart))).now = 1 ∧
      Machine.step owing = finishOut (exec (.formStrand 0 0) { owing with issuing := 0 }) := by
  have g := fun w => ((h (wordNext w) (turn false (.strand 3)) [] rfl).1 (.inl rfl)).1 3 _ rfl rfl
  have e := h eventNext (turn true (.event .clehildRestart)) [] rfl
  exact ⟨((g 0x281840A1).1 (by decide +kernel)).1 _ rfl, ((g 0xF8000000).1 (by decide +kernel)).2.1 rfl,
    ((g 0).1 (by decide +kernel)).2.2 .major rfl (by decide), (e.1 (.inr (by decide +kernel))).2 _ rfl, (e.2.2.2.2 rfl).1,
    (h owing (turn true (.event .clehildRestart)) [] rfl).2.1 _ rfl (by decide +kernel)⟩

theorem witness_MemoryStaysCanonical (h : Obligations.MemoryStaysCanonical) (r : Obligations.StepRunsTheDecodedWord) :
    ∃ s, Machine.step eventNext = .next s ∧ Memory.wf s.mem = true := by
  have e := ((r eventNext (turn true (.event .clehildRestart)) [] rfl).1 (.inr (by decide +kernel))).2 _ rfl
  exact ⟨_, e, h eventNext _ rfl e⟩

theorem witness_EncodingRoundTrip (h : Obligations.EncodingRoundTrip) :
    decode false 0x281840A1 = .ok (.sel 3 4 5) ∧ (encode (.sel 3 4 5)).isSome = true :=
  ⟨h.1 (.sel 3 4 5) 0x281840A1 rfl rfl, h.2 (.sel 3 4 5) rfl rfl (fun _ => by simp)⟩

theorem witness_DecodingIsExact (h : Obligations.DecodingIsExact) : (Instr.sel 3 4 5).wf = true ∧ encode (.sel 3 4 5) = some 0x281840A1 :=
  h false 0x281840A1 (.sel 3 4 5) rfl

end Sys2Proof.Tests
end

/-!
# The words of instructions (03 R62 to R76)

The fields of a word and the formats undo each other. The round trip is then one step per row of the encoding tables, and exactness one step
per row of the decoder.
-/
namespace Sys2Proof

/-! ### Slices of a concatenation -/

section
variable {t u v w x y : Nat}

theorem slices_append3 (a : BitVec t) (b : BitVec u) (c : BitVec v) :
    (a ++ b ++ c).extractLsb' (u + v) t = a ∧ (a ++ b ++ c).extractLsb' v u = b ∧ (a ++ b ++ c).extractLsb' 0 v = c := by
  refine ⟨?_, ?_, ?_⟩ <;> simp [BitVec.extractLsb'_append_eq_of_le, BitVec.extractLsb'_append_eq_of_add_le]

theorem slices_append4 (a : BitVec t) (b : BitVec u) (c : BitVec v) (d : BitVec w) :
    (a ++ b ++ c ++ d).extractLsb' (u + v + w) t = a ∧ (a ++ b ++ c ++ d).extractLsb' (v + w) u = b ∧
      (a ++ b ++ c ++ d).extractLsb' w v = c ∧ (a ++ b ++ c ++ d).extractLsb' 0 w = d := by
  refine ⟨?_, ?_, ?_, ?_⟩ <;> simp [BitVec.extractLsb'_append_eq_of_le, BitVec.extractLsb'_append_eq_of_add_le]

theorem slices_append5 (a : BitVec t) (b : BitVec u) (c : BitVec v) (d : BitVec w) (e : BitVec x) :
    (a ++ b ++ c ++ d ++ e).extractLsb' (u + v + w + x) t = a ∧ (a ++ b ++ c ++ d ++ e).extractLsb' (v + w + x) u = b ∧
      (a ++ b ++ c ++ d ++ e).extractLsb' (w + x) v = c ∧ (a ++ b ++ c ++ d ++ e).extractLsb' x w = d ∧
      (a ++ b ++ c ++ d ++ e).extractLsb' 0 x = e := by
  refine ⟨?_, ?_, ?_, ?_, ?_⟩ <;> simp [BitVec.extractLsb'_append_eq_of_le, BitVec.extractLsb'_append_eq_of_add_le]

theorem slices_append6 (a : BitVec t) (b : BitVec u) (c : BitVec v) (d : BitVec w) (e : BitVec x) (f : BitVec y) :
    (a ++ b ++ c ++ d ++ e ++ f).extractLsb' (u + v + w + x + y) t = a ∧
      (a ++ b ++ c ++ d ++ e ++ f).extractLsb' (v + w + x + y) u = b ∧ (a ++ b ++ c ++ d ++ e ++ f).extractLsb' (w + x + y) v = c ∧
      (a ++ b ++ c ++ d ++ e ++ f).extractLsb' (x + y) w = d ∧ (a ++ b ++ c ++ d ++ e ++ f).extractLsb' y x = e ∧
      (a ++ b ++ c ++ d ++ e ++ f).extractLsb' 0 y = f := by
  refine ⟨?_, ?_, ?_, ?_, ?_, ?_⟩ <;> simp [BitVec.extractLsb'_append_eq_of_le, BitVec.extractLsb'_append_eq_of_add_le]

end

/-! ### The fields of each format -/

theorem fields_encXA (op : BitVec 6) (d a b : Reg) (fn : BitVec 5) :
    fOp (encXA op d a b fn) = op ∧ fD (encXA op d a b fn) = d ∧ fA (encXA op d a b fn) = a ∧ fB (encXA op d a b fn) = b ∧
      fFn (encXA op d a b fn) = fn := by
  unfold fOp fD fA fB fFn encXA
  exact slices_append5 op d a b fn

theorem fields_encXI (op : BitVec 6) (d a : Reg) (imm : BitVec 12) :
    fOp (encXI op d a imm) = op ∧ fD (encXI op d a imm) = d ∧ fA (encXI op d a imm) = a ∧ fImm12 (encXI op d a imm) = imm := by
  unfold fOp fD fA fImm12 encXI
  exact slices_append4 op d a imm

theorem fields_encXL (op : BitVec 6) (d : Reg) (imm : BitVec 19) :
    fOp (encXL op d imm) = op ∧ fD (encXL op d imm) = d ∧ fImm19 (encXL op d imm) = imm := by
  unfold fOp fD fImm19 encXL
  exact slices_append3 op d imm

theorem fields_encXB (op : BitVec 6) (a : Reg) (cc : BitVec 3) (off : BitVec 16) :
    fOp (encXB op a cc off) = op ∧ fD (encXB op a cc off) = a ∧ fCc (encXB op a cc off) = cc ∧ fOff16 (encXB op a cc off) = off := by
  unfold fOp fD fCc fOff16 encXB
  exact slices_append4 op a cc off

theorem fields_encXM (op : BitVec 6) (d a : Reg) (sp w : BitVec 3) (off : BitVec 6) :
    fOp (encXM op d a sp w off) = op ∧ fD (encXM op d a sp w off) = d ∧ fA (encXM op d a sp w off) = a ∧
      fSp (encXM op d a sp w off) = sp ∧ fWidth (encXM op d a sp w off) = w ∧ fOff6 (encXM op d a sp w off) = off := by
  unfold fOp fD fA fSp fWidth fOff6 encXM
  exact slices_append6 op d a sp w off

theorem fields_encXH (kind : BitVec 2) (pay : BitVec 24) :
    fOp (encXH kind pay) = 0x01 ∧ fKind (encXH kind pay) = kind ∧ fPay (encXH kind pay) = pay := by
  unfold fOp fKind fPay encXH
  exact slices_append3 0x01#6 kind pay

/-! ### A word is the concatenation of its fields -/

theorem encXA_fields (w : Word) : encXA (fOp w) (fD w) (fA w) (fB w) (fFn w) = w := by
  unfold encXA fOp fD fA fB fFn
  iterate 4 rw [BitVec.extractLsb'_append_extractLsb'_eq_extractLsb' (by decide)]
  exact BitVec.extractLsb'_eq_self

theorem encXI_fields (w : Word) : encXI (fOp w) (fD w) (fA w) (fImm12 w) = w := by
  unfold encXI fOp fD fA fImm12
  iterate 3 rw [BitVec.extractLsb'_append_extractLsb'_eq_extractLsb' (by decide)]
  exact BitVec.extractLsb'_eq_self

theorem encXL_fields (w : Word) : encXL (fOp w) (fD w) (fImm19 w) = w := by
  unfold encXL fOp fD fImm19
  iterate 2 rw [BitVec.extractLsb'_append_extractLsb'_eq_extractLsb' (by decide)]
  exact BitVec.extractLsb'_eq_self

theorem encXB_fields (w : Word) : encXB (fOp w) (fD w) (fCc w) (fOff16 w) = w := by
  unfold encXB fOp fD fCc fOff16
  iterate 3 rw [BitVec.extractLsb'_append_extractLsb'_eq_extractLsb' (by decide)]
  exact BitVec.extractLsb'_eq_self

theorem encXM_fields (w : Word) : encXM (fOp w) (fD w) (fA w) (fSp w) (fWidth w) (fOff6 w) = w := by
  unfold encXM fOp fD fA fSp fWidth fOff6
  iterate 5 rw [BitVec.extractLsb'_append_extractLsb'_eq_extractLsb' (by decide)]
  exact BitVec.extractLsb'_eq_self

theorem encXH_fields {w : Word} (h : fOp w = 0x01) : encXH (fKind w) (fPay w) = w := by
  rw [encXH, ← h, fOp, fKind, fPay]
  iterate 2 rw [BitVec.extractLsb'_append_extractLsb'_eq_extractLsb' (by decide)]
  exact BitVec.extractLsb'_eq_self

/-! ### What the decoder does with each major opcode (03 R74) -/

section
variable {hx : Bool} {w : Word}

theorem decodeMajor_flow (h : fOp w = 0x04) : decodeMajor hx w = decodeFlow (fD w) (fA w) (fB w) (fFn w) := by
  rw [decodeMajor, h]; rfl

theorem decodeMajor_move (h : fOp w = 0x0A) : decodeMajor hx w = decodeMove (fD w) (fA w) (fB w) (fFn w) := by
  rw [decodeMajor, h]; rfl

theorem decodeMajor_lane (h : fOp w = 0x0B) : decodeMajor hx w = decodeLane (fD w) (fA w) (fB w) (fFn w) := by
  rw [decodeMajor, h]; rfl

theorem decodeMajor_integer (h : fOp w = 0x0C) : decodeMajor hx w = decodeInteger (fD w) (fA w) (fB w) (fFn w) := by
  rw [decodeMajor, h]; rfl

theorem decodeMajor_logic (h : fOp w = 0x0D) : decodeMajor hx w = decodeLogic (fD w) (fA w) (fB w) (fFn w) := by
  rw [decodeMajor, h]; rfl

theorem decodeMajor_compare (h : fOp w = 0x0E) : decodeMajor hx w = decodeCompare (fD w) (fA w) (fB w) (fFn w) := by
  rw [decodeMajor, h]; rfl

theorem decodeMajor_lea (h : fOp w = 0x0F) : decodeMajor hx w = decodeLea (fD w) (fA w) (fB w) (fFn w) := by
  rw [decodeMajor, h]; rfl

theorem decodeMajor_float (h : fOp w = 0x18) : decodeMajor hx w = decodeFloat (fD w) (fA w) (fB w) (fFn w) := by
  rw [decodeMajor, h]; rfl

theorem decodeMajor_double (h : fOp w = 0x19) : decodeMajor hx w = decodeDouble (fD w) (fA w) (fB w) (fFn w) := by
  rw [decodeMajor, h]; rfl

theorem decodeMajor_packed (h : fOp w = 0x1A) : decodeMajor hx w = decodePacked (fD w) (fA w) (fB w) (fFn w) := by
  rw [decodeMajor, h]; rfl

theorem decodeMajor_convert (h : fOp w = 0x1B) : decodeMajor hx w = decodeConvert (fD w) (fA w) (fB w) (fFn w) := by
  rw [decodeMajor, h]; rfl

theorem decodeMajor_lns (h : fOp w = 0x1C) : decodeMajor hx w = decodeLns (fD w) (fA w) (fB w) (fFn w) := by
  rw [decodeMajor, h]; rfl

theorem decodeMajor_atom (h : fOp w = 0x29) : decodeMajor hx w = decodeAtom (fD w) (fA w) (fB w) (fFn w) := by
  rw [decodeMajor, h]; rfl

theorem decodeMajor_atomn (h : fOp w = 0x2A) : decodeMajor hx w = decodeAtomn (fD w) (fA w) (fB w) (fFn w) := by
  rw [decodeMajor, h]; rfl

theorem decodeMajor_cas (h : fOp w = 0x2B) : decodeMajor hx w = decodeCas (fD w) (fA w) (fB w) (fFn w) := by
  rw [decodeMajor, h]; rfl

theorem decodeMajor_cas64 (h : fOp w = 0x2C) : decodeMajor hx w = decodeCas64 (fD w) (fA w) (fB w) (fFn w) := by
  rw [decodeMajor, h]; rfl

theorem decodeMajor_copy (h : fOp w = 0x2D) : decodeMajor hx w = decodeCopy (fD w) (fA w) (fB w) (fFn w) := by
  rw [decodeMajor, h]; rfl

theorem decodeMajor_creel (h : fOp w = 0x2E) : decodeMajor hx w = decodeCreel (fD w) (fA w) (fB w) (fFn w) := by
  rw [decodeMajor, h]; rfl

theorem decodeMajor_field (h : fOp w = 0x30) : decodeMajor hx w = decodeField (fD w) (fA w) (fB w) (fFn w) := by
  rw [decodeMajor, h]; rfl

theorem decodeMajor_append (h : fOp w = 0x31) : decodeMajor hx w = decodeAppend (fD w) (fA w) (fB w) (fFn w) := by
  rw [decodeMajor, h]; rfl

theorem decodeMajor_tile (h : fOp w = 0x32) : decodeMajor hx w = decodeTile hx (fD w) (fA w) (fB w) (fFn w) := by
  rw [decodeMajor, h]; rfl

theorem decodeMajor_fabric (h : fOp w = 0x33) : decodeMajor hx w = decodeFabric (fD w) (fA w) (fB w) (fFn w) := by
  rw [decodeMajor, h]; rfl

theorem decodeMajor_system (h : fOp w = 0x38) : decodeMajor hx w = decodeSystem (fD w) (fA w) (fB w) (fFn w) := by
  rw [decodeMajor, h]; rfl

theorem decodeMajor_launch (h : fOp w = 0x39) : decodeMajor hx w = decodeLaunch (fD w) (fA w) (fB w) (fFn w) := by
  rw [decodeMajor, h]; rfl

theorem decodeMajor_bar (h : fOp w = 0x06) : decodeMajor hx w = decodeBar (fD w) (fA w) (fImm12 w) := by
  rw [decodeMajor, h]; rfl

theorem decodeMajor_shi (h : fOp w = 0x14) : decodeMajor hx w = decodeShi (fD w) (fA w) (fImm12 w) := by
  rw [decodeMajor, h]; rfl

theorem decodeMajor_cmpi (h : fOp w = 0x15) : decodeMajor hx w = decodeCmpi (fD w) (fA w) (fImm12 w) := by
  rw [decodeMajor, h]; rfl

theorem decodeMajor_fence (h : fOp w = 0x28) : decodeMajor hx w = decodeFence (fD w) (fA w) (fImm12 w) := by
  rw [decodeMajor, h]; rfl

theorem decodeMajor_hint (h : fOp w = 0x01) : decodeMajor hx w = decodeHint (fKind w) (fPay w) := by
  rw [decodeMajor, h]; rfl

theorem decodeMajor_branch (h : fOp w = 0x02) : decodeMajor hx w = decodeBranch (fD w) (fCc w) (fOff16 w) := by
  rw [decodeMajor, h]; rfl

end

/-! ### The decoder reads an encoded instruction back -/

section
variable {hx : Bool} {op : BitVec 6} {d a b : Reg} {w : Word} {i : Instr}

/-- A word of format XA is decoded by its major's function. -/
theorem decodeMajor_of_encXA {fn : BitVec 5} {f : Reg → Reg → Reg → BitVec 5 → Except Reject Instr}
    (hf : ∀ {w}, fOp w = op → decodeMajor hx w = f (fD w) (fA w) (fB w) (fFn w))
    (hw : some (encXA op d a b fn) = some w) (hi : f d a b fn = .ok i) : decodeMajor hx w = .ok i := by
  obtain rfl := Option.some.inj hw
  obtain ⟨hop, hd, ha, hb, hfn⟩ := fields_encXA op d a b fn
  rw [hf hop, hd, ha, hb, hfn, hi]

/-- A word of format XI is decoded by its major's function. -/
theorem decodeMajor_of_encXI {imm : BitVec 12} {f : Reg → Reg → BitVec 12 → Except Reject Instr}
    (hf : ∀ {w}, fOp w = op → decodeMajor hx w = f (fD w) (fA w) (fImm12 w))
    (hw : some (encXI op d a imm) = some w) (hi : f d a imm = .ok i) : decodeMajor hx w = .ok i := by
  obtain rfl := Option.some.inj hw
  obtain ⟨hop, hd, ha, himm⟩ := fields_encXI op d a imm
  rw [hf hop, hd, ha, himm, hi]

/-- A word of format XB is decoded by its major's function. -/
theorem decodeMajor_of_encXB {cc : BitVec 3} {off : BitVec 16} {f : Reg → BitVec 3 → BitVec 16 → Except Reject Instr}
    (hf : ∀ {w}, fOp w = op → decodeMajor hx w = f (fD w) (fCc w) (fOff16 w))
    (hw : some (encXB op a cc off) = some w) (hi : f a cc off = .ok i) : decodeMajor hx w = .ok i := by
  obtain rfl := Option.some.inj hw
  obtain ⟨hop, ha, hcc, hoff⟩ := fields_encXB op a cc off
  rw [hf hop, ha, hcc, hoff, hi]

/-- A hint word is decoded by its kind. -/
theorem decodeMajor_of_encXH {kind : BitVec 2} {pay : BitVec 24} (hw : some (encXH kind pay) = some w)
    (hi : decodeHint kind pay = .ok i) : decodeMajor hx w = .ok i := by
  obtain rfl := Option.some.inj hw
  obtain ⟨hop, hkind, hpay⟩ := fields_encXH kind pay
  rw [decodeMajor_hint hop, hkind, hpay, hi]

end

/-! ### Immediates and payloads that are concatenations -/

theorem slices_hx (m : BitVec 17) (c : Reg) :
    (m ++ c : BitVec 24).extractLsb' 7 17 = m ∧ (m ++ c : BitVec 24).extractLsb' 0 7 = c :=
  ⟨BitVec.extractLsb'_append_eq_left, BitVec.extractLsb'_append_eq_right⟩

theorem slices_hs (z : BitVec 17) (p : BitVec 3) (n : BitVec 4) :
    (z ++ p ++ n : BitVec 24).extractLsb' 7 17 = z ∧ (z ++ p ++ n : BitVec 24).extractLsb' 4 3 = p ∧
      (z ++ p ++ n : BitVec 24).extractLsb' 0 4 = n := slices_append3 z p n

theorem slices_hq (z : BitVec 15) (e : BitVec 1) (t : BitVec 4) (x : BitVec 1) (r : BitVec 3) :
    (z ++ e ++ t ++ x ++ r : BitVec 24).extractLsb' 9 15 = z ∧ (z ++ e ++ t ++ x ++ r : BitVec 24).extractLsb' 8 1 = e ∧
      (z ++ e ++ t ++ x ++ r : BitVec 24).extractLsb' 4 4 = t ∧ (z ++ e ++ t ++ x ++ r : BitVec 24).extractLsb' 3 1 = x ∧
      (z ++ e ++ t ++ x ++ r : BitVec 24).extractLsb' 0 3 = r := slices_append5 z e t x r

theorem slices_wait (z : BitVec 3) (l s c t : BitVec 4) :
    (z ++ l ++ s ++ c ++ t : BitVec 19).extractLsb' 16 3 = z ∧ (z ++ l ++ s ++ c ++ t : BitVec 19).extractLsb' 12 4 = l ∧
      (z ++ l ++ s ++ c ++ t : BitVec 19).extractLsb' 8 4 = s ∧ (z ++ l ++ s ++ c ++ t : BitVec 19).extractLsb' 4 4 = c ∧
      (z ++ l ++ s ++ c ++ t : BitVec 19).extractLsb' 0 4 = t := slices_append5 z l s c t

theorem slices_bar (z : BitVec 4) (k : BitVec 2) (n : BitVec 6) :
    (z ++ k ++ n : BitVec 12).extractLsb' 8 4 = z ∧ (z ++ k ++ n : BitVec 12).extractLsb' 6 2 = k ∧
      (z ++ k ++ n : BitVec 12).extractLsb' 0 6 = n := slices_append3 z k n

theorem slices_lea (z k : BitVec 1) (s : BitVec 3) :
    (z ++ k ++ s : BitVec 5).extractLsb' 4 1 = z ∧ (z ++ k ++ s : BitVec 5).extractLsb' 3 1 = k ∧
      (z ++ k ++ s : BitVec 5).extractLsb' 0 3 = s := slices_append3 z k s

theorem slices_shi (k : BitVec 2) (z n : BitVec 5) :
    (k ++ z ++ n : BitVec 12).extractLsb' 10 2 = k ∧ (k ++ z ++ n : BitVec 12).extractLsb' 5 5 = z ∧
      (k ++ z ++ n : BitVec 12).extractLsb' 0 5 = n := slices_append3 k z n

theorem slices_cmpi (k : BitVec 3) (v : BitVec 9) :
    (k ++ v : BitVec 12).extractLsb' 9 3 = k ∧ (k ++ v : BitVec 12).extractLsb' 0 9 = v :=
  ⟨BitVec.extractLsb'_append_eq_left, BitVec.extractLsb'_append_eq_right⟩

theorem slices_fence (z : BitVec 6) (k : BitVec 2) (s : BitVec 4) :
    (z ++ k ++ s : BitVec 12).extractLsb' 6 6 = z ∧ (z ++ k ++ s : BitVec 12).extractLsb' 4 2 = k ∧
      (z ++ k ++ s : BitVec 12).extractLsb' 0 4 = s := slices_append3 z k s

theorem slices_ftot (z s : BitVec 2) (k : BitVec 3) :
    (z ++ s ++ k : Reg).extractLsb' 5 2 = z ∧ (z ++ s ++ k : Reg).extractLsb' 3 2 = s ∧ (z ++ s ++ k : Reg).extractLsb' 0 3 = k :=
  slices_append3 z s k

/-- The word of an instruction is read back, before the operand checks, where the hint that a gather form needs stands before it. -/
theorem decodeMajor_encode {i : Instr} {w : Word} (h : encode i = some w) : decodeMajor i.isGather w = .ok i := by
  cases i
  case hk => exact decodeMajor_of_encXH h rfl
  case hx => exact decodeMajor_of_encXH h (by simp [decodeHint, slices_hx])
  case hs => exact decodeMajor_of_encXH h (by simp [decodeHint, fields, slices_hs])
  case hq => exact decodeMajor_of_encXH h (by simp [decodeHint, fields, slices_hq])
  case br | brZ | brNz | brNeg | brNn => exact decodeMajor_of_encXB decodeMajor_branch h rfl
  case bar | barArrive | barWait =>
    exact decodeMajor_of_encXI decodeMajor_bar h (by simp [decodeBar, fields, slices_bar, -BitVec.reduceAppend])
  case shiShl | shiShr | shiSha | shiRotl =>
    exact decodeMajor_of_encXI decodeMajor_shi h (by simp [decodeShi, slices_shi, -BitVec.reduceAppend])
  case cmpiEq | cmpiNe | cmpiLtI | cmpiLeI | cmpiLtN | cmpiLeN =>
    exact decodeMajor_of_encXI decodeMajor_cmpi h (by simp [decodeCmpi, slices_cmpi])
  case fenceAcq | fenceRel | fenceAr =>
    exact decodeMajor_of_encXI decodeMajor_fence h (by simp [decodeFence, slices_fence, -BitVec.reduceAppend])
  case bx | callx | ret | exit | yield | nop | trap => exact decodeMajor_of_encXA decodeMajor_flow h rfl
  case mov | sel | movs | movsw | tagget | tagset | tagchk => exact decodeMajor_of_encXA decodeMajor_move h rfl
  case bcast | shfl | shfx | shfup | shfdn | voteAny | voteAll | voteMask | gredAdd | gredMin | gredMax | gredFadd | gscanAdd
      | gscanFadd | gfirst =>
    exact decodeMajor_of_encXA decodeMajor_lane h rfl
  case add | sub | mul | mulhI | mulhN | divI | divN | remI | remN | minI | maxI | minN | maxN | abs | neg | add64 | sub64 | mulwI
      | mulwN | mad | addsI | subsI =>
    exact decodeMajor_of_encXA decodeMajor_integer h rfl
  case and | or | xor | andn | not | shl | shr | sha | rotl | rotr | bfeN | bfeI | bfi | popc | clz | ctz | brev | dshl | dshr
      | dsha =>
    exact decodeMajor_of_encXA decodeMajor_logic h rfl
  case eq | ne | ltI | leI | ltN | leN | eq64 | ne64 | lt64I | lt64N => exact decodeMajor_of_encXA decodeMajor_compare h rfl
  case lea | leaN => exact decodeMajor_of_encXA decodeMajor_lea h (by simp [decodeLea, slices_lea, -BitVec.reduceAppend])
  case fadd | fsub | fmul | fma | fmin | fmax | fabs | fneg | fcmpEq | fcmpLt | fcmpLe | fcmpUn | fclass | frnd | frcp | frsq
      | fsqrt | fexp2 | flog2 | fdiv =>
    exact decodeMajor_of_encXA decodeMajor_float h rfl
  case dadd | dsub | dmul | dfma | dmin | dmax | dcmpEq | dcmpLt | dcmpLe | ddiv | dsqrt =>
    exact decodeMajor_of_encXA decodeMajor_double h rfl
  case hadd | hmul | hfma | hmin | hmax | badd | bmul | bfma | bmin | bmax | hdot | bdot =>
    exact decodeMajor_of_encXA decodeMajor_packed h rfl
  case cvtF32I32 | cvtF32N32 | cvtI32F32 | cvtN32F32 | cvtF64F32 | cvtF32F64 | cvtH2F32 | cvtB2F32 | cvtF32H2lo | cvtF32H2hi
      | cvtF32B2lo | cvtF32B2hi | cvtF64I32 | cvtI32F64 | cvtF32Cq | cvtCqF32 =>
    exact decodeMajor_of_encXA decodeMajor_convert h rfl
  case qnt | dqnt | lpack | lunpk | lscale | ldot | lmul => exact decodeMajor_of_encXA decodeMajor_lns h rfl
  case atomAdd | atomSub | atomAnd | atomOr | atomXor | atomMinI | atomMaxI | atomMinN | atomMaxN | atomXchg | atomIncw | atomDecw
      | atomFadd | atomAdd64 | atomXchg64 =>
    exact decodeMajor_of_encXA decodeMajor_atom h rfl
  case atomnAdd | atomnSub | atomnAnd | atomnOr | atomnXor | atomnMinI | atomnMaxI | atomnMinN | atomnMaxN | atomnXchg | atomnIncw
      | atomnDecw | atomnFadd | atomnAdd64 | atomnXchg64 =>
    exact decodeMajor_of_encXA decodeMajor_atomn h rfl
  case cas => exact decodeMajor_of_encXA decodeMajor_cas h rfl
  case cas64 => exact decodeMajor_of_encXA decodeMajor_cas64 h rfl
  case cpy | cpy2d | cpyc | cpyz => exact decodeMajor_of_encXA decodeMajor_copy h rfl
  case crinit | crtake | crgive | crclaim | crpost | crtest | crstat | craddr => exact decodeMajor_of_encXA decodeMajor_creel h rfl
  case fsel | xfer | fld | fdecl | fchk | finfo => exact decodeMajor_of_encXA decodeMajor_field h rfl
  case ftot => exact decodeMajor_of_encXA decodeMajor_field h (by simp [decodeField, fields, slices_ftot])
  case app | app64 | appq | free | aopen | atail | astate => exact decodeMajor_of_encXA decodeMajor_append h rfl
  case tcfg | tlda | tldaGather | tldb | tldbGather | tmma | tzero | tdrain | tstacc | tstaccGather =>
    exact decodeMajor_of_encXA decodeMajor_tile h rfl
  case nput | nget | nred | nstat | nsig => exact decodeMajor_of_encXA decodeMajor_fabric h rfl
  case rfe | frec | unpark | sysget | sysset | tlbinv | tlbinva | l2wbRemotePush | ctxsave | ctxload | brk =>
    exact decodeMajor_of_encXA decodeMajor_system h rfl
  case lch | lcancel | lcnt | lwaitc | pmreq => exact decodeMajor_of_encXA decodeMajor_launch h rfl
  case call =>
    obtain rfl := Option.some.inj h
    simp [decodeMajor, fields_encXB, fields]
  case wait =>
    obtain rfl := Option.some.inj h
    simp [decodeMajor, fields_encXL, fields, slices_wait]
  case movu =>
    obtain rfl := Option.some.inj h
    simp [decodeMajor, fields_encXL]
  case movi | addi | andi | ori | xori | muli | leai =>
    obtain rfl := Option.some.inj h
    simp [decodeMajor, fields_encXI, fields]
  case ld | st | ldq | stq | pf | ldacq | strel =>
    obtain rfl := Option.some.inj h
    simp [decodeMajor, fields_encXM, fields]
  case illegalEncoding | headWordInBody => cases h
  -- The seal row comes first of those left: its name is a keyword of Lean, which no case can be tagged with.
  · exact decodeMajor_of_encXA decodeMajor_append h rfl
  all_goals cases h

/-- An instruction that passes the operand checks and has a word is read back from it (03 R62, R63, R75). -/
theorem decode_encode {i : Instr} {w : Word} (hwf : i.wf = true) (h : encode i = some w) : decode i.isGather w = .ok i := by
  rw [decode, decodeMajor_encode h, checked, if_pos hwf]

/-- The same where no gather form is meant, the word standing without a hint. -/
theorem decode_of_encode {hx : Bool} {i : Instr} {w : Word} (hg : i.isGather = hx) (hwf : i.wf = true) (h : encode i = some w) :
    decode hx w = .ok i := hg ▸ decode_encode hwf h

/-- A word stands for exactly what a strand issues, the second row of `l2wb` aside. -/
theorem isSome_encode {i : Instr} (h : ∀ a, i ≠ .l2wbHomeWriteback a) : (encode i).isSome = Machine.issuedByStrand i := by
  cases i
  case l2wbHomeWriteback a => exact absurd rfl (h a)
  all_goals rfl

/-- Settles O57: the decoder's function for the major opcode cuts the fields of an encoded word out again, row by row of the encoding
tables, and exactly the instructions that a strand issues have a word, but for the second row of `l2wb`. -/
theorem encodingRoundTrip : Obligations.EncodingRoundTrip :=
  ⟨fun _ _ hwf h => decode_encode hwf h, fun _ _ hs hne => (isSome_encode hne).trans hs⟩

/-! ### A decoded word is the word of its instruction -/

/-- Every instruction that a decoder's answer names has the word. -/
def Writes (r : Except Reject Instr) (w : Word) : Prop := ∀ i, r = .ok i → encode i = some w

@[simp] theorem writes_ok {i : Instr} {w : Word} : Writes (.ok i) w ↔ encode i = some w := by simp [Writes]

@[simp] theorem writes_error {e : Reject} {w : Word} : Writes (.error e) w := by simp [Writes]

@[simp] theorem writes_fields {ok : Bool} {i : Instr} {w : Word} : Writes (fields ok i) w ↔ (ok = true → encode i = some w) := by
  cases ok <;> simp [fields, Writes]

theorem writes_ite_error {p : Prop} [Decidable p] {r : Except Reject Instr} {e : Reject} {w : Word} :
    Writes (if p then r else .error e) w ↔ (p → Writes r w) := by
  by_cases hp : p <;> simp [hp]

/-- The majors whose rows are told apart by fn alone: a row fixes fn, its zero fields are zero, and the word is the encoder's. -/
theorem writes_rows (d a b : Reg) (fn : BitVec 5) :
    Writes (decodeFlow d a b fn) (encXA 0x04 d a b fn) ∧ Writes (decodeMove d a b fn) (encXA 0x0A d a b fn) ∧
      Writes (decodeLane d a b fn) (encXA 0x0B d a b fn) ∧ Writes (decodeInteger d a b fn) (encXA 0x0C d a b fn) ∧
      Writes (decodeLogic d a b fn) (encXA 0x0D d a b fn) ∧ Writes (decodeCompare d a b fn) (encXA 0x0E d a b fn) ∧
      Writes (decodeFloat d a b fn) (encXA 0x18 d a b fn) ∧ Writes (decodeDouble d a b fn) (encXA 0x19 d a b fn) ∧
      Writes (decodePacked d a b fn) (encXA 0x1A d a b fn) ∧ Writes (decodeConvert d a b fn) (encXA 0x1B d a b fn) ∧
      Writes (decodeLns d a b fn) (encXA 0x1C d a b fn) ∧ Writes (decodeAtom d a b fn) (encXA 0x29 d a b fn) ∧
      Writes (decodeAtomn d a b fn) (encXA 0x2A d a b fn) ∧ Writes (decodeCas d a b fn) (encXA 0x2B d a b fn) ∧
      Writes (decodeCas64 d a b fn) (encXA 0x2C d a b fn) ∧ Writes (decodeCopy d a b fn) (encXA 0x2D d a b fn) ∧
      Writes (decodeCreel d a b fn) (encXA 0x2E d a b fn) ∧ Writes (decodeAppend d a b fn) (encXA 0x31 d a b fn) ∧
      Writes (decodeFabric d a b fn) (encXA 0x33 d a b fn) ∧ Writes (decodeSystem d a b fn) (encXA 0x38 d a b fn) ∧
      Writes (decodeLaunch d a b fn) (encXA 0x39 d a b fn) := by
  unfold decodeFlow decodeMove decodeLane decodeInteger decodeLogic decodeCompare decodeFloat decodeDouble decodePacked decodeConvert decodeLns
  unfold decodeAtom decodeAtomn decodeCas decodeCas64 decodeCopy decodeCreel decodeAppend decodeFabric decodeSystem decodeLaunch
  and_intros
  all_goals
    split <;> rename_i hfn
    all_goals simp [BitVec.toNat_eq_nat] at hfn ⊢
    all_goals
      intros
      subst_vars
      rfl

/-- The tile rows, in each reading: behind an hx hint, and without one (13 R297). -/
theorem writes_tile (hx : Bool) (d a b : Reg) (fn : BitVec 5) : Writes (decodeTile hx d a b fn) (encXA 0x32 d a b fn) := by
  unfold decodeTile
  cases hx <;> split <;> rename_i hfn
  all_goals simp [BitVec.toNat_eq_nat] at hfn ⊢
  all_goals
    intros
    subst_vars
    rfl

theorem writes_branch (a : Reg) (cc : BitVec 3) (off : BitVec 16) : Writes (decodeBranch a cc off) (encXB 0x02 a cc off) := by
  unfold decodeBranch
  split <;> rename_i hcc
  all_goals simp [BitVec.toNat_eq_nat] at hcc ⊢
  all_goals
    intros
    subst_vars
    rfl

/-! ### The majors with a field inside the immediate, the payload or fn -/

theorem exists_append2 {u v : Nat} (x : BitVec (u + v)) : ∃ (a : BitVec u) (b : BitVec v), x = a ++ b :=
  ⟨_, _, BitVec.extractLsb'_append_extractLsb'.symm⟩

theorem exists_append3 {u v w : Nat} (x : BitVec (u + v + w)) : ∃ (a : BitVec u) (b : BitVec v) (c : BitVec w), x = a ++ b ++ c := by
  obtain ⟨y, c, rfl⟩ := exists_append2 x
  obtain ⟨a, b, rfl⟩ := exists_append2 y
  exact ⟨a, b, c, rfl⟩

theorem exists_append5 {t u v w x : Nat} (y : BitVec (t + u + v + w + x)) :
    ∃ (a : BitVec t) (b : BitVec u) (c : BitVec v) (d : BitVec w) (e : BitVec x), y = a ++ b ++ c ++ d ++ e := by
  obtain ⟨z, d, e, rfl⟩ := exists_append3 y
  obtain ⟨a, b, c, rfl⟩ := exists_append3 z
  exact ⟨a, b, c, d, e, rfl⟩

theorem writes_field (d a b : Reg) (fn : BitVec 5) : Writes (decodeField d a b fn) (encXA 0x30 d a b fn) := by
  unfold decodeField
  split <;> rename_i hfn
  all_goals simp [BitVec.toNat_eq_nat] at hfn ⊢
  all_goals
    intros
    subst_vars
  case h_4 hz =>
    obtain ⟨z, s, k, rfl⟩ := exists_append3 (u := 2) (v := 2) (w := 3) b
    obtain ⟨h1, h2, h3⟩ := slices_ftot z s k
    rw [h1] at hz
    rw [h2, h3, hz]
    rfl
  all_goals rfl

/-- The last of the rows that a field of two bits tells apart. -/
theorem eq_three {k : BitVec 2} (h0 : k.toNat ≠ 0) (h1 : k.toNat ≠ 1) (h2 : k.toNat ≠ 2) : k = 3 := by bv_omega

theorem writes_lea (d a b : Reg) (fn : BitVec 5) : Writes (decodeLea d a b fn) (encXA 0x0F d a b fn) := by
  obtain ⟨z, k, s, rfl⟩ := exists_append3 (u := 1) (v := 1) (w := 3) fn
  simp only [decodeLea, slices_lea, writes_ite_error, beq_iff_eq]
  rintro rfl
  split <;> rename_i hk
  · obtain rfl := hk
    exact writes_ok.mpr rfl
  · obtain rfl : k = 1 := by bv_omega
    exact writes_ok.mpr rfl

theorem writes_cmpi (d a : Reg) (imm : BitVec 12) : Writes (decodeCmpi d a imm) (encXI 0x15 d a imm) := by
  obtain ⟨k, v, rfl⟩ := exists_append2 (u := 3) (v := 9) imm
  simp only [decodeCmpi, slices_cmpi]
  split <;> rename_i hk
  all_goals simp [BitVec.toNat_eq_nat] at hk ⊢
  all_goals
    subst_vars
    rfl

theorem writes_shi (d a : Reg) (imm : BitVec 12) : Writes (decodeShi d a imm) (encXI 0x14 d a imm) := by
  obtain ⟨k, z, n, rfl⟩ := exists_append3 (u := 2) (v := 5) (w := 5) imm
  simp only [decodeShi, slices_shi, writes_ite_error, beq_iff_eq]
  rintro rfl
  split
  case h_4 h0 h1 h2 =>
    obtain rfl := eq_three h0 h1 h2
    exact writes_ok.mpr rfl
  all_goals
    rename_i hk
    simp [BitVec.toNat_eq_nat] at hk ⊢
    subst_vars
    rfl

theorem writes_bar (d a : Reg) (imm : BitVec 12) : Writes (decodeBar d a imm) (encXI 0x06 d a imm) := by
  obtain ⟨z, k, n, rfl⟩ := exists_append3 (u := 4) (v := 2) (w := 6) imm
  simp only [decodeBar, slices_bar, writes_ite_error, Bool.and_eq_true, beq_iff_eq]
  rintro ⟨rfl, rfl⟩
  split <;> rename_i hk
  all_goals simp [BitVec.toNat_eq_nat] at hk ⊢
  all_goals
    intros
    subst_vars
    rfl

theorem writes_fence (d a : Reg) (imm : BitVec 12) : Writes (decodeFence d a imm) (encXI 0x28 d a imm) := by
  obtain ⟨z, k, n, rfl⟩ := exists_append3 (u := 6) (v := 2) (w := 4) imm
  simp only [decodeFence, slices_fence, writes_ite_error, Bool.and_eq_true, beq_iff_eq]
  rintro ⟨⟨rfl, rfl⟩, rfl⟩
  split <;> rename_i hk
  all_goals simp [BitVec.toNat_eq_nat] at hk ⊢
  all_goals
    subst_vars
    rfl

theorem writes_hint (kind : BitVec 2) (pay : BitVec 24) : Writes (decodeHint kind pay) (encXH kind pay) := by
  unfold decodeHint
  split
  next h =>
    obtain rfl : kind = 0 := by bv_omega
    exact writes_ok.mpr rfl
  next h =>
    obtain rfl : kind = 1 := by bv_omega
    obtain ⟨m, c, rfl⟩ := exists_append2 (u := 17) (v := 7) pay
    rw [(slices_hx m c).1, (slices_hx m c).2]
    exact writes_ok.mpr rfl
  next h =>
    obtain rfl : kind = 2 := by bv_omega
    obtain ⟨z, p, n, rfl⟩ := exists_append3 (u := 17) (v := 3) (w := 4) pay
    simp only [slices_hs, writes_fields, beq_iff_eq]
    rintro rfl
    rfl
  next h0 h1 h2 =>
    obtain rfl := eq_three h0 h1 h2
    obtain ⟨z, e, t, x, r, rfl⟩ := exists_append5 (t := 15) (u := 1) (v := 4) (w := 1) (x := 3) pay
    simp only [slices_hq, writes_fields, beq_iff_eq]
    rintro rfl
    rfl

/-! ### Every major -/

section
variable {w : Word} {r : Except Reject Instr} {n : Nat} (h : (fOp w).toNat = n)
include h

theorem fOp_eq_ofNat : fOp w = BitVec.ofNat 6 n := (BitVec.toNat_eq_nat.mp h).2

theorem writes_of_encXA (hr : Writes r (encXA (BitVec.ofNat 6 n) (fD w) (fA w) (fB w) (fFn w))) : Writes r w := by
  rwa [← fOp_eq_ofNat h, encXA_fields] at hr

theorem writes_of_encXI (hr : Writes r (encXI (BitVec.ofNat 6 n) (fD w) (fA w) (fImm12 w))) : Writes r w := by
  rwa [← fOp_eq_ofNat h, encXI_fields] at hr

theorem writes_of_encXL (hr : Writes r (encXL (BitVec.ofNat 6 n) (fD w) (fImm19 w))) : Writes r w := by
  rwa [← fOp_eq_ofNat h, encXL_fields] at hr

theorem writes_of_encXB (hr : Writes r (encXB (BitVec.ofNat 6 n) (fD w) (fCc w) (fOff16 w))) : Writes r w := by
  rwa [← fOp_eq_ofNat h, encXB_fields] at hr

theorem writes_of_encXM (hr : Writes r (encXM (BitVec.ofNat 6 n) (fD w) (fA w) (fSp w) (fWidth w) (fOff6 w))) : Writes r w := by
  rwa [← fOp_eq_ofNat h, encXM_fields] at hr

end

theorem writes_wait (d : Reg) (imm : BitVec 19) :
    Writes (fields (d == 0 && imm.extractLsb' 16 3 == 0)
      (.wait (imm.extractLsb' 12 4) (imm.extractLsb' 8 4) (imm.extractLsb' 4 4) (imm.extractLsb' 0 4))) (encXL 0x05 d imm) := by
  obtain ⟨z, l, s, c, t, rfl⟩ := exists_append5 (t := 3) (u := 4) (v := 4) (w := 4) (x := 4) imm
  simp only [slices_wait, writes_fields, Bool.and_eq_true, beq_iff_eq]
  rintro ⟨rfl, rfl⟩
  rfl

/-- The majors of one row whose zero or fixed fields are whole fields of the format. -/
theorem writes_single_rows (d a : Reg) (cc sp wd : BitVec 3) (off6 : BitVec 6) (imm : BitVec 12) (off16 : BitVec 16) :
    Writes (fields (d == 0 && cc == 0) (.call off16)) (encXB 0x03 d cc off16) ∧
      Writes (fields (a == 0) (.movi d imm)) (encXI 0x08 d a imm) ∧
      Writes (fields (wd == 4) (.ldq d a sp off6)) (encXM 0x22 d a sp wd off6) ∧
      Writes (fields (wd == 4) (.stq d a sp off6)) (encXM 0x23 d a sp wd off6) ∧
      Writes (fields (d == 0 && sp == 0) (.pf a wd off6)) (encXM 0x24 d a sp wd off6) := by
  simp only [writes_fields, Bool.and_eq_true, beq_iff_eq, and_imp]
  and_intros
  all_goals
    intros
    subst_vars
    rfl

/-- What the decoder makes of a word, before the operand checks, has that word. -/
theorem writes_decodeMajor (hx : Bool) (w : Word) : Writes (decodeMajor hx w) w := by
  obtain ⟨hflow, hmove, hlane, hinteger, hlogic, hcompare, hfloat, hdouble, hpacked, hconvert, hlns, hatom, hatomn, hcas, hcas64, hcopy,
    hcreel, happend, hfabric, hsystem, hlaunch⟩ := writes_rows (fD w) (fA w) (fB w) (fFn w)
  obtain ⟨hcall, hmovi, hldq, hstq, hpf⟩ := writes_single_rows (fD w) (fA w) (fCc w) (fSp w) (fWidth w) (fOff6 w) (fImm12 w) (fOff16 w)
  unfold decodeMajor
  split
  next h => simpa only [encXH_fields (fOp_eq_ofNat h)] using writes_hint (fKind w) (fPay w)
  next h => exact writes_of_encXB h (writes_branch _ _ _)
  next h => exact writes_of_encXB h hcall
  next h => exact writes_of_encXL h (writes_wait _ _)
  next h => exact writes_of_encXI h (writes_bar _ _ _)
  next h => exact writes_of_encXI h hmovi
  next h => exact writes_of_encXL h (writes_ok.mpr rfl)
  next h => exact writes_of_encXA h (writes_lea _ _ _ _)
  next h => exact writes_of_encXI h (writes_ok.mpr rfl)
  next h => exact writes_of_encXI h (writes_ok.mpr rfl)
  next h => exact writes_of_encXI h (writes_ok.mpr rfl)
  next h => exact writes_of_encXI h (writes_ok.mpr rfl)
  next h => exact writes_of_encXI h (writes_shi _ _ _)
  next h => exact writes_of_encXI h (writes_cmpi _ _ _)
  next h => exact writes_of_encXI h (writes_ok.mpr rfl)
  next h => exact writes_of_encXI h (writes_ok.mpr rfl)
  next h => exact writes_of_encXM h (writes_ok.mpr rfl)
  next h => exact writes_of_encXM h (writes_ok.mpr rfl)
  next h => exact writes_of_encXM h hldq
  next h => exact writes_of_encXM h hstq
  next h => exact writes_of_encXM h hpf
  next h => exact writes_of_encXM h (writes_ok.mpr rfl)
  next h => exact writes_of_encXM h (writes_ok.mpr rfl)
  next h => exact writes_of_encXI h (writes_fence _ _ _)
  next => exact writes_error
  next h => exact writes_of_encXA h hflow
  next h => exact writes_of_encXA h hmove
  next h => exact writes_of_encXA h hlane
  next h => exact writes_of_encXA h hinteger
  next h => exact writes_of_encXA h hlogic
  next h => exact writes_of_encXA h hcompare
  next h => exact writes_of_encXA h hfloat
  next h => exact writes_of_encXA h hdouble
  next h => exact writes_of_encXA h hpacked
  next h => exact writes_of_encXA h hconvert
  next h => exact writes_of_encXA h hlns
  next h => exact writes_of_encXA h hatom
  next h => exact writes_of_encXA h hatomn
  next h => exact writes_of_encXA h hcas
  next h => exact writes_of_encXA h hcas64
  next h => exact writes_of_encXA h hcopy
  next h => exact writes_of_encXA h hcreel
  next h => exact writes_of_encXA h (writes_field _ _ _ _)
  next h => exact writes_of_encXA h happend
  next h => exact writes_of_encXA h (writes_tile _ _ _ _ _)
  next h => exact writes_of_encXA h hfabric
  next h => exact writes_of_encXA h hsystem
  next h => exact writes_of_encXA h hlaunch
  next => exact writes_error

/-- A word that decodes passes the operand checks on what its major's function makes of it. -/
theorem decode_eq_ok {hx : Bool} {w : Word} {i : Instr} (h : decode hx w = .ok i) : i.wf = true ∧ decodeMajor hx w = .ok i := by
  unfold decode checked at h
  split at h
  next j hj =>
    split at h
    next hwf =>
      obtain rfl := Except.ok.inj h
      exact ⟨hwf, hj⟩
    next => cases h
  next => cases h

/-- Settles O58: each major's rows put every bit of the word in a field of the instruction, in fn, or in a zero field that is checked. -/
theorem decodingIsExact : Obligations.DecodingIsExact := by
  intro hx w i h
  obtain ⟨hwf, hmajor⟩ := decode_eq_ok h
  exact ⟨hwf, writes_decodeMajor hx w i hmajor⟩

end Sys2Proof

/-!
# Words of each family, hints, and steps
-/
namespace Sys2Proof.Machine

/-- Settles O56: each word of an instruction is the one that the encoder gives it, and is read back as O57 says; the others run through the
decoder's checks. -/
theorem wordsDecodeToTheirInstructions : Obligations.WordsDecodeToTheirInstructions := by
  unfold Obligations.WordsDecodeToTheirInstructions
  and_intros
  any_goals exact decode_of_encode rfl rfl rfl
  all_goals exact rfl

/-! ### Hints (03 R68 to R71) -/

theorem hintFault_eq_none {st : Strand} {k : HintKind} {repeated : Bool} {alone : Hints} {j : Nat} {w : Word} (hr : repeated = false)
    (ht : runTarget st.words st.pos = some (j, w)) (ha : hintAccepts k w = true) (hf : hintFits alone w = true) :
    hintFault st k repeated alone = none := by
  simp [hintFault, hr, ht, ha, hf]

/-- A strand that has members stands in the place of the one of its name. -/
theorem State.setStrand_of_members {s : State} {st : Strand} (h : st.members ≠ []) :
    s.setStrand st = { s with strands := s.strands.map (fun x => if x.sid = st.sid then st else x) } := by
  rw [State.setStrand, if_neg (by simpa using h)]

/-- A hint without a fault only joins its run: no member leaves its strand before it, and the strand goes on to the next word. -/
theorem Issuing.issueHint {s : State} {st : Strand} (hs : Issuing s st) {k : HintKind} {alone : Hints} {repeated : Hints → Bool}
    {add : Hints → Hints} (hf : hintFault st k (repeated st.hints) alone = none) :
    Machine.issueHint s k alone repeated add = { s.noteIssue st with strands := s.strands.map (fun x =>
      if x.sid = st.sid then { st with pos := st.pos + 1, hints := add st.hints, runLen := st.runLen + 1, lost := 0 } else x) } := by
  simp only [Machine.issueHint, hs.found, hs.beforeRun, hs.setStrand_self, hf]
  exact State.setStrand_of_members hs.some'

theorem holds_of_issueHint {i : Instr} {k : HintKind} {first repeated : Hints → Bool} {alone : Hints} {add : Hints → Hints}
    (hi : ∀ s, exec i s = .next (issueHint s k alone repeated add)) (hr : ∀ h, first h = true → repeated h = false) :
    Holds i k first alone add := by
  intro s st j w hs hfirst ht ha hf
  rw [hi, hs.issueHint (hintFault_eq_none (hr _ hfirst) ht ha hf)]

/-- Settles O11: each of the four hints issues as `issueHint` does, and is the first of its kind where the run's hints hold none. -/
theorem hintsAreHeldForTheirTarget : Obligations.HintsAreHeldForTheirTarget := by
  intro p m c q n e k x r
  exact ⟨holds_of_issueHint (fun _ => rfl) (by simp), holds_of_issueHint (fun _ => rfl) (by simp),
    holds_of_issueHint (fun _ => rfl) (by simp), holds_of_issueHint (fun _ => rfl) (by simp)⟩

/-! ### The cycle that passes before a turn (01 R32) -/

/-- The clock edge of one die. -/
def State.tickDie (still : List Nat) (s : State) (d : Nat) : State :=
  if still.contains d then s else s.mapDie d (fun x => { x with cyc := x.cyc + 1 })

theorem State.tickDie_eq (still : List Nat) (s : State) (d : Nat) :
    s.tickDie still d = { s with dies := (s.tickDie still d).dies } := by
  unfold State.tickDie; split <;> rfl

theorem State.tickDies_eq (still l : List Nat) (s : State) :
    l.foldl (State.tickDie still) s = { s with dies := (l.foldl (State.tickDie still) s).dies } := by
  induction l generalizing s with
  | nil => rfl
  | cons d l ih => rw [List.foldl_cons, ih, State.tickDie_eq]

theorem State.clock_tickDie (still : List Nat) (s : State) (d e : Nat) :
    (s.tickDie still d).clock e = if d = e ∧ e ∉ still then s.clock e + 1 else s.clock e := by
  unfold State.tickDie
  by_cases hs : d ∈ still
  · rw [if_pos (by simpa using hs), if_neg (by rintro ⟨rfl, h⟩; exact h hs)]
  · rw [if_neg (by simpa using hs), State.clock, State.die_mapDie]
    by_cases hd : d = e
    · subst hd; simp [hs, State.clock]
    · simp [hd, State.clock]

theorem State.clock_tickDies (still l : List Nat) (hl : l.Nodup) (s : State) (e : Nat) :
    (l.foldl (State.tickDie still) s).clock e = if e ∈ l ∧ e ∉ still then s.clock e + 1 else s.clock e := by
  induction l generalizing s with
  | nil => simp
  | cons d l ih =>
    obtain ⟨hd, hl⟩ := List.nodup_cons.mp hl
    rw [List.foldl_cons, ih hl, State.clock_tickDie]
    by_cases hde : d = e
    · subst hde; simp [hd]
    · simp [hde, Ne.symm hde]

/-- A cycle changes the dies' counters and nothing else. -/
theorem State.countCycle_eq (s : State) (still : List Nat) : s.countCycle still = { s with dies := (s.countCycle still).dies } := by
  unfold State.countCycle
  split
  · exact State.tickDies_eq still _ s
  · rfl

theorem State.clock_countCycle (s : State) (still : List Nat) {d : Nat} (hd : d < 8) :
    (s.countCycle still).clock d = if (s.pwr = .run ∨ s.pwr = .idle) ∧ d ∉ still then s.clock d + 1 else s.clock d := by
  have hmem : d ∈ List.range Config.dies := List.mem_range.mpr hd
  unfold State.countCycle
  by_cases hp : s.pwr = .run ∨ s.pwr = .idle
  · rw [if_pos (by simpa using hp)]
    exact (State.clock_tickDies still _ List.nodup_range s d).trans (by simp [hp, hmem])
  · rw [if_neg (by simpa using hp)]
    simp [hp]

/-- The control beat that one link owes a cycle. -/
def State.controlBeat (s : State) (x : Nat × Link) : State :=
  if x.2.state != .up then s
  else (if x.2.sending then s else s.sendSide x.1 none).mapLink x.1 (fun l => { l with sending := false })

theorem State.controlBeat_eq (s : State) (x : Nat × Link) :
    s.controlBeat x = { s with links := (s.controlBeat x).links, sentSides := (s.controlBeat x).sentSides } := by
  unfold State.controlBeat
  split
  · rfl
  · split <;> rfl

/-- The beats of the links change the links and what they have sent, and nothing else. -/
theorem State.controlBeats_eq (s : State) :
    s.controlBeats = { s with links := s.controlBeats.links, sentSides := s.controlBeats.sentSides } := by
  have key : ∀ (l : List (Nat × Link)) (s : State), l.foldl State.controlBeat s =
      { s with links := (l.foldl State.controlBeat s).links, sentSides := (l.foldl State.controlBeat s).sentSides } := by
    intro l
    induction l with
    | nil => exact fun _ => rfl
    | cons x l ih => intro s; rw [List.foldl_cons, ih, State.controlBeat_eq]
  exact key s.links s

/-- The module once a cycle has passed, before threads become ready in it. -/
def State.afterCycle (s : State) (still : List Nat) : State :=
  (({ s with now := s.now + 1 } : State).countCycle still).countWaits.controlBeats

theorem State.afterCycle_eq (s : State) (still : List Nat) :
    s.afterCycle still = { s with
      now := s.now + 1, dies := (s.afterCycle still).dies, reqs := (s.afterCycle still).reqs, links := (s.afterCycle still).links,
      sentSides := (s.afterCycle still).sentSides } := by
  unfold State.afterCycle
  rw [State.controlBeats_eq, State.countWaits, State.countCycle_eq]

theorem State.clock_afterCycle (s : State) (still : List Nat) {d : Nat} (hd : d < 8) :
    (s.afterCycle still).clock d = if (s.pwr = .run ∨ s.pwr = .idle) ∧ d ∉ still then s.clock d + 1 else s.clock d := by
  have hdies : (s.afterCycle still).dies = (({ s with now := s.now + 1 } : State).countCycle still).dies := by
    rw [State.afterCycle, State.controlBeats_eq, State.countWaits]
  rw [State.clock, State.die, hdies]
  exact State.clock_countCycle { s with now := s.now + 1 } still hd

/-- The strand that a turn names; 0 for an event. -/
def Actor.issuer (a : Actor) : Nat :=
  match a with
  | .strand sid => sid
  | .event _ => 0

theorem State.begin_of_tick (s : State) {t : Turn} (h : t.tick = true) :
    s.begin t = { (s.afterCycle t.still).wakeAll with agenda := s.agenda.tail, issuing := t.who.issuer } := by
  rw [State.begin, h]; rfl

theorem State.begin_of_not_tick (s : State) {t : Turn} (h : t.tick = false) :
    s.begin t = { s with agenda := s.agenda.tail, issuing := t.who.issuer } := by
  rw [State.begin, h]; rfl

/-- Who acts next decides nothing of whether a wait is over. -/
theorem State.wakeOne_schedule (s : State) (l : List Turn) (n : Nat) :
    State.wakeOne { s with agenda := l, issuing := n } = s.wakeOne := rfl

theorem State.begin_strands (s : State) (t : Turn) : (s.begin t).strands = s.strands := by
  cases h : t.tick
  · rw [State.begin_of_not_tick s h]
  · rw [State.begin_of_tick s h, State.afterCycle_eq]; rfl

theorem State.begin_strand? (s : State) (t : Turn) (sid : Nat) : (s.begin t).strand? sid = s.strand? sid := by
  rw [State.strand?, State.begin_strands, State.strand?]

theorem State.begin_cycle {s : State} {t : Turn} (h : t.tick = true) :
    (s.begin t).now = s.now + 1 ∧ (s.begin t).agenda = s.agenda.tail ∧ (s.begin t).strands = s.strands ∧ (s.begin t).mem = s.mem ∧
      (s.begin t).threads = s.threads.map (State.wakeOne { s.begin t with threads := s.threads }) ∧
      ∀ d, d < 8 → (s.begin t).clock d = if (s.pwr = .run ∨ s.pwr = .idle) ∧ d ∉ t.still then s.clock d + 1 else s.clock d := by
  have hclock := fun d (hd : d < 8) => State.clock_afterCycle s t.still hd
  rw [State.begin_of_tick s h]
  rw [State.afterCycle_eq] at hclock ⊢
  exact ⟨rfl, rfl, rfl, rfl, congrArg s.threads.map (State.wakeOne_schedule _ _ _).symm, hclock⟩

/-! ### A step is its turn (04 R93) -/

theorem State.turn_of_agenda {s : State} {t : Turn} {rest : List Turn} (h : s.agenda = t :: rest) : s.turn = t := by
  rw [State.turn, h]

theorem step_of_turn {s : State} {t : Turn} {rest : List Turn} (h : s.agenda = t :: rest) (ht : t.tick = false ∨ s.due = none) :
    Machine.step s = s.take t := by
  rw [Machine.step, State.turn_of_agenda h]
  rcases ht with ht | ht <;> simp [ht]

theorem step_of_due {s : State} {t : Turn} {rest : List Turn} {e : Instr} (h : s.agenda = t :: rest) (ht : t.tick = true)
    (he : s.due = some e) : Machine.step s = finishOut (exec e { s with issuing := 0 }) := by
  simp [Machine.step, State.turn_of_agenda h, ht, he]

theorem State.take_event {s : State} {t : Turn} {e : Instr} (h : t.who = .event e) :
    s.take t = finishOut (exec e (s.begin t)) := by
  simp [State.take, State.held, State.instrOf, State.noteTurn, h]

theorem State.take_of_mayIssue {s : State} {t : Turn} {sid : Nat} {st : Strand} (h : t.who = .strand sid) (hst : s.strand? sid = some st)
    (hi : (s.begin t).mayIssue st = true) :
    s.take t = finishOut (exec st.instr ((s.begin t).noteTurn (.strand sid))) := by
  simp [State.take, State.held, State.instrOf, State.begin_strand?, h, hst, hi]

theorem State.take_of_not_mayIssue {s : State} {t : Turn} {sid : Nat} {st : Strand} (h : t.who = .strand sid)
    (hst : s.strand? sid = some st) (hi : (s.begin t).mayIssue st = false) : s.take t = .next (s.begin t).finish := by
  simp [State.take, State.held, State.begin_strand?, h, hst, hi]

theorem Strand.instr_of_ok {st : Strand} {i : Instr} (h : decode st.hints.hx.isSome st.word = .ok i) : st.instr = i := by
  rw [Strand.instr, ← Strand.word, h]

theorem Strand.instr_of_blockHead {st : Strand} (h : decode st.hints.hx.isSome st.word = .error .blockHead) :
    st.instr = .headWordInBody := by
  rw [Strand.instr, ← Strand.word, h]

theorem Strand.instr_of_error {st : Strand} {e : Reject} (h : decode st.hints.hx.isSome st.word = .error e) (he : e ≠ .blockHead) :
    st.instr = .illegalEncoding := by
  rw [Strand.instr, ← Strand.word, h]
  cases e with
  | blockHead => exact absurd rfl he
  | major | function | field | operand => rfl

/-- Settles O59: the agenda's first turn is the step's, or what a core still owes is; a cycle that passes changes what `afterCycle` says. -/
theorem stepRunsTheDecodedWord : Obligations.StepRunsTheDecodedWord := by
  intro s t rest h
  have htail : s.agenda.tail = rest := by rw [h]; rfl
  refine ⟨fun ht => ⟨fun sid st hwho hst => ⟨fun hi => ?_, fun hi => ?_⟩, fun e hwho => ?_⟩, fun e => step_of_due h,
    fun sid ht hwho => ?_, fun e ht hwho => ?_, fun ht => ?_⟩
  · rw [step_of_turn h ht, State.take_of_mayIssue hwho hst hi]
    exact ⟨fun i hd => by rw [Strand.instr_of_ok hd], fun hd => by rw [Strand.instr_of_blockHead hd],
      fun e hd he => by rw [Strand.instr_of_error hd he]⟩
  · rw [step_of_turn h ht, State.take_of_not_mayIssue hwho hst hi]
  · rw [step_of_turn h ht, State.take_event hwho]
  · rw [State.begin_of_not_tick s ht, hwho, htail, Actor.issuer]
  · rw [State.begin_of_not_tick s ht, hwho, htail, Actor.issuer]
  · rw [← htail]; exact State.begin_cycle ht

end Sys2Proof.Machine

/-!
# Words that leave their strand, waits and faults
-/
namespace Sys2Proof.Machine

/-! ### Words that take their thread out of its strand (04 R93) -/

/-- A thread that has begun nothing is left as it is where its word acts. -/
theorem Thread.acted_eq_self {t : Thread} (h : (t.begun = none ∧ t.descr = []) ∧ t.checked = 0 ∧ t.pages = []) : t.acted = t := by
  obtain ⟨⟨hbegun, hdescr⟩, hchecked, hpages⟩ := h
  rw [Thread.acted, ← hbegun, ← hdescr, ← hchecked, ← hpages]

theorem OperandsReady.empty (s : State) (t : Thread) : OperandsReady s t [] [] :=
  ⟨by simp, by simp, by simp, by simp⟩

theorem Level.allows_user (l : Level) : l.allows .user = true := by cases l <;> rfl

/-- A strand that is written back without members is dropped. -/
theorem State.setStrand_of_noMembers {s : State} {st : Strand} (h : st.members = []) : s.setStrand st = s.endStrand st := by
  rw [State.setStrand, h]; rfl

/-- A word on which no thread acts and one leaves. -/
theorem State.finishWord_leaves (s s3 : State) (st : Strand) (x : Nat × Exit) :
    s3.finishWord (s.ctx st) [] [x] = (s3.endStrand st).leaveOne x := by
  have hdrawn : s3.drawnOut (s.ctx st) [] = [] := by unfold State.drawnOut; split <;> rfl
  simp only [State.finishWord, hdrawn, List.filter_nil, List.map_nil, List.filterMap_nil, List.append_nil, State.fallAll]
  split <;> rw [State.setStrand_of_noMembers rfl] <;> rfl

theorem State.leaveAll_one (s : State) (x : Nat × Exit) : s.leaveAll [x] = s.leaveOne x := rfl

theorem State.leaveOne_fault (s : State) (n : Nat) {f : FaultInfo} (site : Site) (hf : f.code ≠ 0x0901) :
    s.leaveOne (n, .fault f site) = (s.mapThread n Thread.acted).takeFault n f site := if_neg hf

theorem State.leaveOne_place (s : State) (n : Nat) (pc : Pair) (b : Block) {w : Wait} (hw : w.walkId = none) :
    s.leaveOne (n, .place pc b w) = s.enterAt n pc b w := by
  rw [State.leaveOne]; simp only [hw]

section
variable {α : Type} {s s2 s3 : State} {st : Strand} {t : Thread} {m : Meaning α} {F : State → Ctx → Thread → α → State × After} {x : α}

/-- A word whose thread acts and leaves: the strand ends and the thread goes where its exit says. -/
theorem Alone.issue_leaves {a : After} {e : Exit} (h : Alone s st t) (hmis : m.misplaced (s.ctx st) = false)
    (hlev : (m.shape st.hints).level = .user) (hpa : (m.shape st.hints).past = none)
    (hr : OperandsReady s t (m.shape st.hints).named (m.shape st.hints).reads)
    (hpre : m.pre (s.atWord st) (s.ctx st) t = (s2, .ok x)) (hth : s2.threads = s.threads)
    (hgrp : m.group s2 (s.ctx st) [t] = (s2, none)) (hact : m.act = eachThread F)
    (hF : F s2 (s.ctx st) t x = (s3, a)) (ha : s3.exitOf (s.ctx st) (t.tid, a) = some (t.tid, e))
    (hrel : s3.released (t.tid, a) = (t.tid, a)) :
    issue m s = (s3.endStrand st).leaveOne (t.tid, e) := by
  have hn : s2.threadsNamed := by unfold State.threadsNamed; rw [hth]; exact h.threads
  have ht : s2.thread? t.tid = some t := by unfold State.thread?; rw [hth]; exact h.thread
  rw [h.issue_ok hmis (by rw [hlev]; exact Level.allows_user _) hpa hr hpre hgrp hn ht hact, hF]
  exact finish_leave a e ha hrel

/-- The issue of a word by a strand of one thread is the one party's. -/
theorem Alone.issue_of_party {as : List (Nat × After)} {es : List (Nat × Exit)} (h : Alone s st t)
    (hparty : m.party (s.atWord st) (s.ctx st) [t] = (s2, as, es)) : issue m s = s2.finishWord (s.ctx st) as es := by
  have hb : (s.noteIssue st).bump = s.atWord st := rfl
  have ht : (s.atWord st).thread? t.tid = some t := h.thread
  rw [h.toIssuing.issue_eq]
  simp only [h.parties (s.ctx st), Meaning.parties, List.filterMap_cons, List.filterMap_nil, hb, ht, State.ctx_eq, hparty,
    List.append_nil]

/-- A word whose thread waits before it acts: the strand ends and the thread will issue the run again (04 R97). -/
theorem Alone.issue_waits {w : Wait} (h : Alone s st t) (hcheck : m.check (s.atWord st) (s.ctx st) t = (s2, .error (.leave w)))
    (hw : w.walkId = none) : issue m s = (s2.endStrand st).enterAt t.tid st.runPc st.blk w := by
  have hparty : m.party (s.atWord st) (s.ctx st) [t] = (s2, [], [(t.tid, .place st.runPc st.blk w)]) := by
    simp [Meaning.party, Meaning.checkAll, hcheck, stops, State.ctx_runPc, State.ctx_st]
  rw [h.issue_of_party hparty, State.finishWord_leaves, State.leaveOne_place _ _ _ _ hw]

/-- The checks of a word that names no register are its own. -/
theorem Meaning.check_of_bare {c : Ctx} {t : Thread} (hsh : m.shape c.hints = {}) (hmis : m.misplaced c = false) :
    m.check s c t = m.pre s c t := by
  simp only [Meaning.check, hmis, hsh, commonStop_none (sh := {}) rfl rfl (OperandsReady.empty s t)]

end

/-! ### `nop`, `wait` and `yield` (04 R101 to R107) -/

/-- Every counter that a `wait` names is at or below its threshold; 15 names none (04 R107). -/
def Thread.within (t : Thread) (l x c k : BitVec 4) : Prop :=
  (l = 15 ∨ t.ld ≤ l.toNat) ∧ (x = 15 ∨ t.st ≤ x.toNat) ∧ (c = 15 ∨ t.cp ≤ c.toNat) ∧ (k = 15 ∨ t.tl ≤ k.toNat)

theorem State.holds_counter (s : State) (t : Thread) (l x c k : BitVec 4) :
    s.holds t (.counter l.toNat x.toNat c.toNat k.toNat) = true ↔ t.within l x c k := by
  have h15 : ∀ b : BitVec 4, b.toNat = 15 ↔ b = 15 := fun b => (BitVec.toNat_inj (x := b) (y := 15))
  simp [State.holds, Thread.within, h15, and_assoc]

theorem nop_acts : Acts .nop (fun _ => []) (fun _ => []) (fun _ _ _ => True) (fun _ s _ => s) :=
  Acts.of_issue (fun _ => rfl) rfl (fun _ => rfl) fun s st _ h _ _ _ =>
    ⟨(), s.atWord st, rfl, Level.allows_user _, rfl, rfl, rfl, rfl, rfl, rfl, Option.isSome_of_eq_some h.thread⟩

section
variable (l x c k : BitVec 4)

theorem wait_acts : Acts (.wait l x c k) (fun _ => []) (fun _ => []) (fun _ _ t => t.within l x c k) (fun _ s _ => s) :=
  Acts.of_issue (fun _ => rfl) rfl (fun _ => rfl) fun s st t h _ _ hok =>
    ⟨(), s.atWord st, rfl, Level.allows_user _, rfl, rfl, if_pos ((State.holds_counter _ t l x c k).mpr hok), rfl, rfl, rfl,
      Option.isSome_of_eq_some h.thread⟩

theorem wait_leaves {s : State} {st : Strand} {t : Thread} (h : Alone s st t) (hno : ¬ t.within l x c k) :
    exec (.wait l x c k) s = .next (((s.atWord st).endStrand st).enterAt t.tid st.runPc st.blk
      (.counter l.toNat x.toNat c.toNat k.toNat)) := by
  have hholds : ¬ (s.atWord st).holds t (.counter l.toNat x.toNat c.toNat k.toNat) = true := fun hh =>
    hno ((State.holds_counter _ t l x c k).mp hh)
  refine congrArg Host.Outcome.next (h.issue_waits ?_ rfl)
  rw [Meaning.check_of_bare rfl rfl]
  exact if_neg hholds

end

theorem yield_leaves {s : State} {st : Strand} {t : Thread} (h : Alone s st t) :
    exec .yield s = .next (((s.atWord st).endStrand st).enterAt t.tid (st.pc + 4) ((s.atWord st).landing t.tid (st.pc + 4) st.blk)
      (.yield (if t.modeD = true ∨ t.modeP = false then [] else (s.atWord st).yieldSet t (st.pc + 4)) (s.coreClock t.core))) := by
  have hset : (if t.modeD = true ∨ t.modeP = false then [] else (s.atWord st).yieldSet t (st.pc + 4)) =
      if t.modeD || !t.modeP then [] else (s.atWord st).yieldSet t (s.ctx st).next := by
    simp [State.ctx_next]
  rw [hset]
  refine congrArg Host.Outcome.next (Eq.trans (h.issue_leaves (s2 := s.atWord st) rfl rfl rfl (OperandsReady.empty s t)
    rfl rfl rfl rfl rfl rfl rfl) ?_)
  exact State.leaveOne_place _ _ _ _ rfl

theorem nopWaitAndYield : Claims.NopWaitAndYield :=
  ⟨nop_acts, fun l x c k => ⟨wait_acts l x c k, fun _ _ _ h => wait_leaves l x c k h⟩, fun _ _ _ h => yield_leaves h⟩

/-! ### Words that fault (03 R66, R76, 04 R109) -/

/-- The meaning of a word that faults for every thread of its strand. -/
def faultMeaning (f : FaultInfo) : Meaning Unit :=
  { pre := fun s _ _ => (s, .error (.fault f)), act := eachThread (fun s _ _ _ => (s, .go)) }

theorem Alone.issue_faultMeaning {s : State} {st : Strand} {t : Thread} (h : Alone s st t) {f : FaultInfo} (hf : f.code ≠ 0x0901) :
    issue (faultMeaning f) s = s.faults st t f :=
  h.issue_fault hf (Meaning.check_of_bare rfl rfl) rfl (fun _ _ => rfl)

theorem trap_raises (b : Reg) :
    Raises (.trap b) (fun _ => []) (fun _ => []) (fun _ _ _ => True) (fun _ _ _ => { code := 0x0205, aux := b.setWidth 32 }) :=
  fun _ _ _ h _ _ => congrArg Host.Outcome.next
    (h.issue_faultMeaning (f := { code := 0x0205, aux := b.setWidth 32 }) (show (0x0205 : Nat) ≠ 0x0901 by decide))

theorem headWordInBody_raises :
    Raises .headWordInBody (fun _ => []) (fun _ => []) (fun _ _ _ => True) (fun _ _ _ => { code := 0x0103 }) :=
  fun _ _ _ h _ _ => congrArg _ (h.issue_faultMeaning (by decide))

theorem execIllegalEncoding_of_strand {s : State} {st : Strand} (h : s.strand? s.issuing = some st) :
    exec .illegalEncoding s = if st.word.toNat / 2 ^ 26 = 1 then .next (issueHint s .hk {} (fun _ => true) id)
      else .next (faultWord 0x0101 s) := by
  have hexec : exec .illegalEncoding s = execIllegalEncoding s := rfl
  have hword : (ctxOf s st).word = st.word := rfl
  simp only [hexec, execIllegalEncoding, h, hword, beq_iff_eq]

theorem illegalEncoding_raises :
    Raises .illegalEncoding (fun _ => []) (fun _ => []) (fun c _ _ => c.word.toNat / 2 ^ 26 ≠ 1) (fun _ _ _ => { code := 0x0101 }) := by
  intro s st t h _ hword
  rw [State.ctx_word] at hword
  rw [execIllegalEncoding_of_strand h.found, if_neg hword]
  exact congrArg _ (h.issue_faultMeaning (by decide))

/-- A hint that faults takes every member of its strand with it, with the record of a hint (03 R71, R72). -/
theorem Issuing.issueHint_fault {s : State} {st : Strand} (h : Issuing s st) {k : HintKind} {alone : Hints}
    {repeated : Hints → Bool} {add : Hints → Hints} {code : Nat} (hf : hintFault st k (repeated st.hints) alone = some code) :
    Machine.issueHint s k alone repeated add =
      ((s.noteIssue st).endStrand st).leaveAll (st.members.map (fun m => (m, Exit.fault { code := code } (hintSite (ctxOf s st))))) := by
  have hend : (s.noteIssue st).setStrand { st with members := [] } = (s.noteIssue st).endStrand st := State.setStrand_of_noMembers rfl
  unfold Machine.issueHint
  rw [h.found]
  simp only [h.beforeRun, h.setStrand_self, hf, hend]
  rfl

theorem Alone.issueHint_fault {s : State} {st : Strand} {t : Thread} (h : Alone s st t) {k : HintKind} {alone : Hints}
    {repeated : Hints → Bool} {add : Hints → Hints} {code : Nat} (hf : hintFault st k (repeated st.hints) alone = some code)
    (hcode : code ≠ 0x0901) :
    issueHint s k alone repeated add =
      ((s.noteIssue st).endStrand st).takeFault t.tid { code := code } (hintSite (ctxOf s st)) := by
  have hacted : ((s.noteIssue st).endStrand st).mapThread t.tid Thread.acted = (s.noteIssue st).endStrand st :=
    State.mapThread_eq_self (s := (s.noteIssue st).endStrand st) h.threads h.thread (Thread.acted_eq_self h.fresh)
  rw [h.toIssuing.issueHint_fault hf, h.only, List.map_singleton, State.leaveAll_one,
    State.leaveOne_fault (f := { code := code }) _ _ _ hcode, hacted]

theorem illegalHint_raises {s : State} {st : Strand} {t : Thread} (h : Alone s st t) (hword : st.word.toNat / 2 ^ 26 = 1) :
    exec .illegalEncoding s = .next (((s.noteIssue st).endStrand st).takeFault t.tid { code := 0x0101 } (hintSite (ctxOf s st))) := by
  rw [execIllegalEncoding_of_strand h.found, if_pos hword, h.issueHint_fault (code := 0x0101) rfl (by decide)]

theorem trapAndIllegalWordsFault : Claims.TrapAndIllegalWordsFault :=
  ⟨trap_raises, illegalEncoding_raises, fun _ _ _ => illegalHint_raises, headWordInBody_raises⟩

/-- Settles O10: each word's meaning is put to the rules for a strand of one thread that goes on, leaves, waits or faults. -/
theorem waitsTrapsAndIllegalWords : Obligations.WaitsTrapsAndIllegalWords := ⟨nopWaitAndYield, trapAndIllegalWordsFault⟩

end Sys2Proof.Machine

/-!
# Transfers of control
-/
namespace Sys2Proof.Machine

/-! ### The machine as a word of a strand sees it -/

/-- What the units say of a thread, as the checks of a word see them, where a stall's mark does not count. -/
theorem State.map_unitOf_atWord {α : Type} (s : State) (st : Strand) (t : Thread) {p : UnitSt → α}
    (hp : ∀ u : UnitSt, p { u with stallSent := false, stallSince := none } = p u) :
    ((s.atWord st).unitOf t).map p = (s.unitOf t).map p := by
  have key : ∀ (l : List UnitSt) (g : UnitSt → UnitSt), (∀ u, (g u).uid = u.uid ∧ p (g u) = p u) →
      ((l.map g).find? (fun u => u.uid == t.unit)).map p = (l.find? (fun u => u.uid == t.unit)).map p := by
    intro l g hg
    induction l with
    | nil => rfl
    | cons u r ih =>
      rw [List.map_cons, List.find?_cons, List.find?_cons, (hg u).1]
      split
      · exact congrArg some (hg u).2
      · exact ih
  refine key s.units _ fun u => ?_
  split <;> simp [hp]

theorem State.slotOf_eq_getD (s : State) (t : Thread) : s.slotOf t = ((s.unitOf t).map (fun u => u.slot)).getD 0 := by
  unfold State.slotOf; cases s.unitOf t <;> rfl

theorem State.windowOf_eq_getD (s : State) (t : Thread) : s.windowOf t = ((s.unitOf t).map (fun u => u.lpLen)).getD 0 := by
  unfold State.windowOf; cases s.unitOf t <;> rfl

theorem State.slotOf_atWord (s : State) (st : Strand) (t : Thread) : (s.atWord st).slotOf t = s.slotOf t := by
  rw [State.slotOf_eq_getD, State.map_unitOf_atWord s st t (fun _ => rfl), State.slotOf_eq_getD]

theorem State.windowOf_atWord (s : State) (st : Strand) (t : Thread) : (s.atWord st).windowOf t = s.windowOf t := by
  rw [State.windowOf_eq_getD, State.map_unitOf_atWord s st t (fun _ => rfl), State.windowOf_eq_getD]

theorem State.topFrame_atWord (s : State) (st : Strand) (t : Thread) : (s.atWord st).topFrame t = s.topFrame t := by
  rw [State.topFrame, State.windowOf_atWord]; rfl

/-- The word that a core fetches depends on memory, what the die and the core hold of it, and the stores not yet taken in as code (03 R81). -/
theorem State.fetchWord_congr {s s' : State} (n loc : Nat) (hm : s'.mem = s.mem) (hd : s'.dies = s.dies) (hc : s'.codes = s.codes)
    (hw : s'.codeWrites = s.codeWrites) (hf : s'.fresh = s.fresh) (hl : (s'.core n).l1 = (s.core n).l1) :
    s'.fetchWord n loc = s.fetchWord n loc := by
  have hbyte : ∀ l, s'.fetchByte n l = s.fetchByte n l := by
    intro l
    have hline : s'.remoteLine (dieOf n) (lineOf l) = s.remoteLine (dieOf n) (lineOf l) := by
      rw [State.remoteLine, State.die, hd]; rfl
    rw [State.fetchByte, State.fetchByte, State.l1Line?, State.l1Line?, hl, State.l2View_congr hm hd hc, hline, hf]
  have hraw : s'.rawWord n loc = s.rawWord n loc := by rw [State.rawWord, State.rawWord, funext hbyte]
  rw [State.fetchWord, State.fetchWord, hraw, hw, hf]

theorem Reaches.atWord {s : State} {t : Thread} {a : Pair} {x : Trans} {w : Word} (h : Reaches s t a x w) (st : Strand) :
    Reaches (s.atWord st) t a x w :=
  ⟨h.canon, h.aligned, by rw [State.slotOf_atWord]; exact h.hit, h.exec,
    h.word ▸ State.fetchWord_congr (s := s) _ _ rfl rfl rfl rfl rfl rfl, h.head⟩

/-! ### Transfers of control (04 R108 to R110) -/

section
variable {s : State} {st : Strand} {t : Thread} {a : Pair} {x : Trans} {w : Word}

theorem Reaches.goTo (h : Reaches s t a x w) : Machine.goTo s t a = (s.fillL1Tlb t.core x, .ok (some (a, blockOf a w))) := by
  simp only [Machine.goTo, h.goChecks]

theorem Reaches.callTo (h : Reaches s t a x w) (hE : w.getLsbD 24 = true) (hbudget : headBudget w ≤ t.budget)
    (hroom : 8 * (t.depth + 1) ≤ s.windowOf t) :
    Machine.callTo s t a = (s.fillL1Tlb t.core x, .ok (some (a, blockOf a w))) := by
  have hroom' : ¬ (s.fillL1Tlb t.core x).windowOf t < 8 * (t.depth + 1) := Nat.not_lt.mpr hroom
  have hE' : headE w = true := hE
  simp only [Machine.callTo, h.goChecks, hE', Bool.not_true, Bool.false_eq_true, if_false, Nat.not_lt.mpr hbudget, hroom']

/-- A word in the last place of its block is a terminator at its place. -/
theorem Strand.last.misplaced {α : Type} {m : Meaning α} (h : st.last) (hhx : m.hx = false) (hill : m.illegal st.hints = false)
    (hlane : m.lane = false) : m.misplaced (s.ctx st) = false := by
  have hl : (s.ctx st).last = true := by rw [State.ctx_last, beq_iff_eq]; exact h
  simp [Meaning.misplaced, State.ctx_hints, hhx, hill, hlane, hl]

/-- A terminator after which its thread stands at a checked target. -/
theorem Alone.issue_jumps {α : Type} {s2 s3 : State} {m : Meaning α} {F : State → Ctx → Thread → α → State × After} {y : α} {b : Block}
    (h : Alone s st t) (hmis : m.misplaced (s.ctx st) = false) (hlev : (m.shape st.hints).level = .user)
    (hpa : (m.shape st.hints).past = none) (hr : OperandsReady s t (m.shape st.hints).named (m.shape st.hints).reads)
    (hpre : m.pre (s.atWord st) (s.ctx st) t = (s2, .ok y)) (hth : s2.threads = s.threads)
    (hgrp : m.group s2 (s.ctx st) [t] = (s2, none)) (hact : m.act = eachThread F) (hF : F s2 (s.ctx st) t y = (s3, .jump a b)) :
    issue m s = (s3.endStrand st).enterAt t.tid a b .none := by
  rw [h.issue_leaves hmis hlev hpa hr hpre hth hgrp hact hF rfl rfl, State.leaveOne_place _ _ _ _ rfl]

theorem OperandsReady.pairNames {r : Reg} (h : OperandsReady s t (pairRegs r) []) : OperandsReady s t (Machine.pairNames r) [] := by
  have hmem : ∀ q, q ∈ Machine.pairNames r ↔ q ∈ pairRegs r := by
    simp [Machine.pairNames, pairRegs, or_comm]
  exact ⟨fun q hq => h.budget q ((hmem q).mp hq), fun o ho htid q hq hc => h.free o ho htid q hq ((hmem q).mp hc), h.tags, h.field⟩

/-- What a branch of any form does to its strand's thread. -/
def branchMeaning (rs : List Reg) (pre : State → Ctx → Thread → State × Except Stop (Option (Pair × Block))) :
    Meaning (Option (Pair × Block)) :=
  { shape := fun _ => { named := rs }, term := true, pre := pre, act := eachThread goAct }

theorem Alone.branch_arrives {rs : List Reg} {pre : State → Ctx → Thread → State × Except Stop (Option (Pair × Block))}
    (h : Alone s st t) (hlast : st.last) (hr : OperandsReady s t rs [])
    (hpre : pre (s.atWord st) (s.ctx st) t = goTo (s.atWord st) t a) (hreach : Reaches s t a x w) :
    issue (branchMeaning rs pre) s = s.arrivesAt st t a x w :=
  h.issue_jumps (hlast.misplaced rfl rfl rfl) rfl rfl hr (hpre.trans (hreach.atWord st).goTo) rfl rfl rfl rfl

/-- A branch that is not taken falls through to the block after its own (03 R66, 04 R94). -/
theorem Alone.branch_falls {rs : List Reg} {pre : State → Ctx → Thread → State × Except Stop (Option (Pair × Block))}
    (h : Alone s st t) (hlast : st.last) (hr : OperandsReady s t rs [])
    (hpre : pre (s.atWord st) (s.ctx st) t = (s.atWord st, .ok none)) (hreach : Reaches s t (st.pc + 4) x w) :
    issue (branchMeaning rs pre) s = s.arrivesAt st t (st.pc + 4) x w := by
  have hfall : (s.atWord st).fallThrough t (st.pc + 4) st.blk =
      ((s.atWord st).fillL1Tlb t.core x, .place (st.pc + 4) (blockOf (st.pc + 4) w) .none) := by
    simp only [State.fallThrough, (hreach.atWord st).goChecks]
  have hacts := h.issue_ok (m := branchMeaning rs pre) (hlast.misplaced rfl rfl rfl) (Level.allows_user _) rfl hr hpre rfl
    h.threads h.thread rfl
  rw [hacts, goAct, finish_fall (s3 := s.atWord st) hlast h.thread hfall, State.leaveOne_place _ _ _ _ rfl, State.arrivesAt]

/-- A branch by a register test goes where its test sends it. -/
theorem branchesIf_of_branchIf {i : Instr} {r : Reg} {o : BitVec 16} {test : Word → Bool}
    (hi : ∀ s, exec i s = .next (branchIf [r] (fun t => test (t.val r)) o s)) : BranchesIf i r o test := by
  intro s st t x w h hlast hr
  refine ⟨fun htest hreach => ?_, fun htest hreach => ?_⟩
  · rw [hi]
    exact congrArg _ (h.branch_arrives hlast hr (if_pos htest) hreach)
  · rw [hi]
    exact congrArg _ (h.branch_falls hlast hr (if_neg (by simp [htest])) hreach)

theorem branchesReachTheirTargets : Claims.BranchesReachTheirTargets := fun _ _ =>
  ⟨fun _ _ t _ _ h hlast hreach => congrArg Host.Outcome.next (h.branch_arrives hlast (OperandsReady.empty _ t) rfl hreach),
    fun _ _ _ _ _ h hlast hr hreach => congrArg Host.Outcome.next (h.branch_arrives hlast hr.pairNames rfl hreach),
    branchesIf_of_branchIf fun _ => rfl, branchesIf_of_branchIf fun _ => rfl, branchesIf_of_branchIf fun _ => rfl,
    branchesIf_of_branchIf fun _ => rfl⟩

/-- What a call of any form does to its strand's thread. -/
def callMeaning (rs : List Reg) (pre : State → Ctx → Thread → State × Except Stop (Option (Pair × Block))) :
    Meaning (Option (Pair × Block)) :=
  { shape := fun _ => { named := rs }, term := true, pre := pre, act := eachThread callAct }

/-- A change of the thread of a name is made on that thread alone. -/
theorem State.mapThread_congr {s : State} (h : s.threadsNamed) {t : Thread} (ht : s.thread? t.tid = some t) {f g : Thread → Thread}
    (hfg : f t = g t) : s.mapThread t.tid f = s.mapThread t.tid g := by
  unfold State.mapThread
  congr 1
  refine List.map_congr_left fun u hu => ?_
  split
  · next hn => rw [State.eq_of_threadsNamed h ht hu hn, hfg]
  · rfl

/-- A call leaves its return address in the frame above the ones that stand, and its thread at the function (04 R108). -/
theorem Alone.callsTo {rs : List Reg} {pre : State → Ctx → Thread → State × Except Stop (Option (Pair × Block))} {i : Instr}
    (h : Alone s st t) (hlast : st.last) (hr : OperandsReady s t rs []) (hi : exec i s = .next (issue (callMeaning rs pre) s))
    (hpre : pre (s.atWord st) (s.ctx st) t = callTo (s.atWord st) t a) : CallsTo s st t a i := by
  intro x w hreach hE hbudget hroom
  have hcall := (hreach.atWord st).callTo hE hbudget (by rw [State.windowOf_atWord]; exact hroom)
  have hdepth : ((s.atWord st).fillL1Tlb t.core x).mapThread t.tid (fun u => { u with depth := u.depth + 1 }) =
      ((s.atWord st).fillL1Tlb t.core x).mapThread t.tid (fun u => { u with depth := t.depth + 1 }) :=
    State.mapThread_congr (s := (s.atWord st).fillL1Tlb t.core x) h.threads h.thread rfl
  rw [hi, h.issue_jumps (m := callMeaning rs pre) (hlast.misplaced rfl rfl rfl) rfl rfl hr (hpre.trans hcall) rfl rfl rfl rfl, hdepth,
    ← State.windowOf_atWord s st]
  rfl

/-- What `ret` does to its strand's thread. -/
def retMeaning : Meaning (Option (Pair × Block)) :=
  { term := true, pre := fun s _ t => if t.depth = 0 then (s, .ok none) else goTo s t (s.topFrame t), act := eachThread retAct }

theorem exec_ret (s : State) : exec .ret s = .next (issue retMeaning s) := rfl

theorem ret_leavesTopFrame (h : Alone s st t) (hlast : st.last) (hdepth : t.depth ≠ 0) (hreach : Reaches s t (s.topFrame t) x w) :
    exec .ret s = .next (((((s.atWord st).fillL1Tlb t.core x).mapThread t.tid (fun t => { t with depth := t.depth - 1 })).endStrand
      st).enterAt t.tid (s.topFrame t) (blockOf (s.topFrame t) w) .none) := by
  have hpre : retMeaning.pre (s.atWord st) (s.ctx st) t =
      ((s.atWord st).fillL1Tlb t.core x, .ok (some (s.topFrame t, blockOf (s.topFrame t) w))) := by
    rw [← (hreach.atWord st).goTo, ← State.topFrame_atWord s st]
    exact if_neg hdepth
  rw [exec_ret, h.issue_jumps (hlast.misplaced rfl rfl rfl) rfl rfl (OperandsReady.empty s t) hpre rfl rfl rfl rfl]

/-- A terminator after which its thread ends (04 R110). -/
theorem Alone.issue_exits {α : Type} {m : Meaning α} {F : State → Ctx → Thread → α → State × After} {y : α}
    (h : Alone s st t) (hmis : m.misplaced (s.ctx st) = false) (hsh : m.shape st.hints = {})
    (hpre : m.pre (s.atWord st) (s.ctx st) t = (s.atWord st, .ok y))
    (hgrp : m.group (s.atWord st) (s.ctx st) [t] = (s.atWord st, none)) (hact : m.act = eachThread F)
    (hF : F (s.atWord st) (s.ctx st) t y = (s.atWord st, .exit)) :
    issue m s = ((s.atWord st).endStrand st).exitThread t.tid :=
  h.issue_leaves hmis (by rw [hsh]) (by rw [hsh]) (by rw [hsh]; exact OperandsReady.empty s t) hpre rfl hgrp hact hF rfl rfl

theorem ret_exits_of_emptyStack (h : Alone s st t) (hlast : st.last) (hdepth : t.depth = 0) :
    exec .ret s = .next (((s.atWord st).endStrand st).exitThread t.tid) := by
  rw [exec_ret, h.issue_exits (hlast.misplaced rfl rfl rfl) rfl (if_pos hdepth) rfl rfl rfl]

theorem exit_exits (h : Alone s st t) (hlast : st.last) : exec .exit s = .next (((s.atWord st).endStrand st).exitThread t.tid) :=
  congrArg Host.Outcome.next (h.issue_exits (hlast.misplaced rfl rfl rfl) rfl rfl rfl rfl rfl)

end

theorem callReturnAndExit : Claims.CallReturnAndExit := fun _ _ s _ t h hlast =>
  ⟨h.callsTo hlast (OperandsReady.empty s t) (hi := rfl) rfl, fun hr => h.callsTo hlast hr.pairNames (hi := rfl) rfl,
    fun _ _ hdepth hreach => ret_leavesTopFrame h hlast hdepth hreach, ret_exits_of_emptyStack h hlast, exit_exits h hlast⟩

/-- Settles O9: a branch, a call and `ret` jump where the checks of R109 reach; a branch not taken falls through; `exit` and `ret` of an
empty stack end the thread. -/
theorem controlTransfers : Obligations.ControlTransfers := ⟨branchesReachTheirTargets, callReturnAndExit⟩

end Sys2Proof.Machine

/-!
# Fetches that other threads do not touch
-/
namespace Sys2Proof.Machine

/-! ### Fetches that other threads and the Block Table do not touch (03 R81, 08 R186) -/

/-- Two states in which every fetch and translation goes alike: they differ at most in their threads, in what the cores' Weavers hold, and in
what a fetch does not read. -/
structure SameFetch (s s' : State) : Prop where
  mem : s'.mem = s.mem
  dies : s'.dies = s.dies
  codes : s'.codes = s.codes
  writes : s'.codeWrites = s.codeWrites
  fresh : s'.fresh = s.fresh
  slots : s'.slots = s.slots
  units : s'.units = s.units
  l1 : ∀ n, (s'.core n).l1 = (s.core n).l1
  tlb : ∀ n, (s'.core n).l1tlb = (s.core n).l1tlb

/-- What lookups that hit and fetches leave: only caches change, no name is used and no cycle passes. -/
structure OnlyFetches (s s' : State) : Prop extends OnlyCaches s s' where
  nextId : s'.nextId = s.nextId
  cyc : ∀ n, (s'.die n).cyc = (s.die n).cyc

theorem OnlyFetches.refl (s : State) : OnlyFetches s s := ⟨OnlyCaches.refl s, rfl, fun _ => rfl⟩

theorem OnlyFetches.trans {a b c : State} (h : OnlyFetches a b) (g : OnlyFetches b c) : OnlyFetches a c :=
  ⟨h.toOnlyCaches.trans g.toOnlyCaches, g.nextId.trans h.nextId, fun n => (g.cyc n).trans (h.cyc n)⟩

theorem OnlyFetches.coreClock {s s' : State} (h : OnlyFetches s s') (n : Nat) : s'.coreClock n = s.coreClock n := h.cyc _

theorem OnlyFetches.thread? {s s' : State} (h : OnlyFetches s s') (n : Nat) : s'.thread? n = s.thread? n := by
  rw [State.thread?, h.threads, State.thread?]

theorem OnlyFetches.slotOf {s s' : State} (h : OnlyFetches s s') (t : Thread) : s'.slotOf t = s.slotOf t := by
  unfold State.slotOf State.unitOf State.unit?; rw [h.units]

theorem State.fillL1Tlb_onlyFetches (s : State) (n : Nat) (x : Trans) : OnlyFetches s (s.fillL1Tlb n x) :=
  ⟨⟨rfl, rfl, rfl, rfl, rfl, State.fillL1Tlb_leaves s n x⟩, rfl, fun _ => rfl⟩

theorem State.fillL2Tlb_onlyFetches (s : State) (n : Nat) (x : Trans) : OnlyFetches s (s.fillL2Tlb n x) := by
  refine ⟨⟨rfl, rfl, rfl, rfl, rfl, State.fillL2Tlb_leaves s n x⟩, rfl, fun m => ?_⟩
  rw [State.fillL2Tlb, State.die_mapDie]
  split
  · next h => rw [h]
  · rfl

theorem State.tlbLookup_onlyFetches {s q : State} {core slot va : Nat} {x : Trans} (h : s.tlbLookup core slot va = some (x, q)) :
    OnlyFetches s q := by
  unfold State.tlbLookup at h
  split at h
  · cases h; exact State.fillL1Tlb_onlyFetches _ _ _
  · split at h
    · cases h; exact (State.fillL2Tlb_onlyFetches _ _ _).trans (State.fillL1Tlb_onlyFetches _ _ _)
    · cases h

theorem State.fetchWords_onlyFetches (s : State) (core slot : Nat) (a : Pair) (n : Nat) :
    OnlyFetches s (s.fetchWords core slot a n).1 := by
  induction n generalizing s a with
  | zero => exact OnlyFetches.refl s
  | succ n ih =>
    unfold State.fetchWords
    split
    · exact OnlyFetches.refl s
    · split
      · exact OnlyFetches.refl s
      · next x q hq =>
        have hq' := State.tlbLookup_onlyFetches hq
        split
        · exact hq'
        · have := ih q (a + 4)
          split <;> next he => rw [he] at this; exact hq'.trans this

namespace SameFetch

variable {s s' : State}

theorem fetchWord (h : SameFetch s s') (n loc : Nat) : s'.fetchWord n loc = s.fetchWord n loc :=
  State.fetchWord_congr n loc h.mem h.dies h.codes h.writes h.fresh (h.l1 n)

theorem slot (h : SameFetch s s') (n : Nat) : s'.slot n = s.slot n := by rw [State.slot, h.slots]; rfl

theorem die (h : SameFetch s s') (n : Nat) : s'.die n = s.die n := by rw [State.die, h.dies]; rfl

theorem slotOf (h : SameFetch s s') (t : Thread) : s'.slotOf t = s.slotOf t := by
  unfold State.slotOf State.unitOf State.unit?; rw [h.units]

theorem fillL1Tlb (h : SameFetch s s') (n : Nat) (x : Trans) : SameFetch (s.fillL1Tlb n x) (s'.fillL1Tlb n x) where
  __ := h
  l1 m := by
    simp only [State.fillL1Tlb, State.core_mapCore]
    split <;> exact h.l1 _
  tlb m := by
    simp only [State.fillL1Tlb, State.core_mapCore, h.tlb]
    split
    · rfl
    · exact h.tlb m

theorem fillL2Tlb (h : SameFetch s s') (n : Nat) (x : Trans) : SameFetch (s.fillL2Tlb n x) (s'.fillL2Tlb n x) where
  __ := h
  dies := by simp only [State.fillL2Tlb, State.mapDie, h.die, h.dies]

/-- A lookup finds the same in both states, and leaves them alike. -/
theorem tlbLookup (h : SameFetch s s') (core slot va : Nat) :
    (s.tlbLookup core slot va = none ∧ s'.tlbLookup core slot va = none) ∨
      ∃ x q q', s.tlbLookup core slot va = some (x, q) ∧ s'.tlbLookup core slot va = some (x, q') ∧ SameFetch q q' := by
  unfold State.tlbLookup
  rw [h.tlb, h.slot, h.die]
  split
  · exact .inr ⟨_, _, _, rfl, rfl, h.fillL1Tlb _ _⟩
  · split
    · exact .inr ⟨_, _, _, rfl, rfl, (h.fillL2Tlb _ _).fillL1Tlb _ _⟩
    · exact .inl ⟨rfl, rfl⟩

/-- The words of a block are fetched alike. -/
theorem fetchWords (h : SameFetch s s') (core slot : Nat) (a : Pair) (n : Nat) :
    (s'.fetchWords core slot a n).2 = (s.fetchWords core slot a n).2 ∧
      SameFetch (s.fetchWords core slot a n).1 (s'.fetchWords core slot a n).1 := by
  induction n generalizing s s' a with
  | zero => exact ⟨rfl, h⟩
  | succ n ih =>
    unfold State.fetchWords
    split
    · exact ⟨rfl, h⟩
    · rcases h.tlbLookup core slot (va57 a) with ⟨hl, hl'⟩ | ⟨x, q, q', hl, hl', hq⟩
      · simp only [hl, hl', true_and]
        exact h
      · simp only [hl, hl']
        split
        · exact ⟨rfl, hq⟩
        · obtain ⟨hres, hst⟩ := ih hq (a + 4)
          cases hr : q.fetchWords core slot (a + 4) n with
          | mk p r =>
            cases hr' : q'.fetchWords core slot (a + 4) n with
            | mk p' r' =>
              rw [hr, hr'] at hres hst
              obtain rfl : r' = r := hres
              cases r' with
              | error b => exact ⟨rfl, hst⟩
              | ok ws => exact ⟨congrArg (fun w => Except.ok (w :: ws)) (hst.fetchWord core _), hst⟩

end SameFetch

theorem State.translate_eq_hit {s q : State} {t : Thread} {a : Pair} {x : Trans} :
    s.translate t a = (q, .hit x) ↔ s.tlbLookup t.core (s.slotOf t) (va57 a) = some (x, q) := by
  unfold State.translate
  cases hl : s.tlbLookup t.core (s.slotOf t) (va57 a) with
  | some r => simp [hl, Prod.ext_iff, and_comm]
  | none => simp only [hl]; split <;> simp

/-- The checks of a transfer that find a head: the address and its page pass, and the head stands there (04 R109). -/
theorem State.goChecks_eq_head {s q : State} {t : Thread} {a : Pair} {w : Word} :
    s.goChecks t a = (q, .head w) ↔ canonical a = true ∧ a.toNat % 4 = 0 ∧
      ∃ x, s.tlbLookup t.core (s.slotOf t) (va57 a) = some (x, q) ∧ x.x = true ∧ q.fetchWord t.core (x.place (va57 a)) = w ∧
        validHead w = true := by
  simp only [← State.translate_eq_hit]
  constructor
  · intro h
    unfold State.goChecks at h
    split at h
    · cases h
    · next hcanon =>
      split at h
      · cases h
      · next hal =>
        split at h
        · cases h
        · cases h
        · next p x hx =>
          split at h
          · cases h
          · next hexec =>
            dsimp only at h
            split at h
            · next hhead => cases h; exact ⟨by simpa using hcanon, by simpa using hal, x, hx, by simpa using hexec, rfl, hhead⟩
            · cases h
  · rintro ⟨hcanon, hal, x, hx, hexec, rfl, hhead⟩
    simp [State.goChecks, hcanon, hal, hx, hexec, hhead]

theorem SameFetch.goChecks_head {s s' q : State} (h : SameFetch s s') {t : Thread} {a : Pair} {w : Word}
    (hs : s.goChecks t a = (q, .head w)) : ∃ q', s'.goChecks t a = (q', .head w) ∧ SameFetch q q' ∧ OnlyFetches s' q' := by
  obtain ⟨hcanon, hal, x, hl, hx, hw, hhead⟩ := State.goChecks_eq_head.mp hs
  rcases h.tlbLookup t.core (s.slotOf t) (va57 a) with ⟨hn, -⟩ | ⟨y, p, q', hy, hl', hq⟩
  · rw [hl] at hn; cases hn
  · rw [hl] at hy; cases hy
    exact ⟨q', State.goChecks_eq_head.mpr ⟨hcanon, hal, x, by rw [h.slotOf]; exact hl', hx, (hq.fetchWord _ _).trans hw, hhead⟩, hq,
      State.tlbLookup_onlyFetches hl'⟩

end Sys2Proof.Machine

/-!
# The Weaver moves threads
-/
namespace Sys2Proof.Machine

/-! ### A decoder forms a strand (04 R90 to R104) -/

/-- The machine once a decoder has taken threads from an entry, before the block's words are fetched. -/
def State.taken (s : State) (core dec idx : Nat) (e : Entry) (ts : List Thread) : State :=
  ((s.takeThreads ts).noteFormed core dec idx e (ts.map (fun t => t.lane))).freeEntries core

theorem coreOk_of_lt {core : Nat} (h : core < 320) : ¬ (!coreOk core) = true := by
  simp [coreOk, Config.cores, h]

theorem exec_formStrand (s : State) {core dec : Nat} (hcore : core < 320) :
    exec (.formStrand core dec) s = .next (s.formStrand core (dec % 2)) := if_neg (coreOk_of_lt hcore)

theorem State.formStrand_of_mayNot {s : State} {core dec : Nat} (h : s.mayForm core dec = false) : s.formStrand core dec = s := by
  rw [State.formStrand, h]; rfl

theorem State.formStrand_of_choose {s : State} {core dec i : Nat} {e : Entry} (hmay : s.mayForm core dec = true)
    (hchoose : s.choose core dec (s.closedLanes core dec) = some (i, e)) :
    s.formStrand core dec =
      (s.taken core dec i e (s.offers core e (s.closedLanes core dec))).startStrand core dec (s.offers core e (s.closedLanes core dec)) e := by
  simp only [State.formStrand, hmay, hchoose, Bool.not_true, Bool.false_eq_true, if_false]
  rfl

/-- A core whose Weaver alone changes, caches its translations and lines as before. -/
theorem SameFetch.mapCore {s s' : State} (h : SameFetch s s') (n : Nat) {f : Core → Core} (hl1 : ∀ c, (f c).l1 = c.l1)
    (htlb : ∀ c, (f c).l1tlb = c.l1tlb) : SameFetch s (s'.mapCore n f) where
  __ := h
  l1 m := by
    rw [State.core_mapCore]
    split
    · next hm => rw [hl1, h.l1, hm]
    · exact h.l1 m
  tlb m := by
    rw [State.core_mapCore]
    split
    · next hm => rw [htlb, h.tlb, hm]
    · exact h.tlb m

section
variable (s : State) (core dec i : Nat) (e : Entry) (ts : List Thread)

theorem State.takeThreads_sameFetch : SameFetch s (s.takeThreads ts) :=
  ⟨rfl, rfl, rfl, rfl, rfl, rfl, rfl, fun _ => rfl, fun _ => rfl⟩

theorem State.taken_sameFetch : SameFetch s (s.taken core dec i e ts) := by
  have hform : SameFetch s ((s.takeThreads ts).noteFormed core dec i e (ts.map (fun t => t.lane))) := by
    refine (s.takeThreads_sameFetch ts).mapCore core (fun c => ?_) (fun c => ?_) <;> dsimp only <;> split <;> rfl
  exact hform.mapCore core (f := fun c => { c with table := _ }) (fun _ => rfl) (fun _ => rfl)

end

/-- A strand that starts from an entry for a thread reads the block as `b` and its words as `ws`, and leaves the state as `r`. -/
def State.ReadsBlock (s : State) (core : Nat) (t : Thread) (e : Entry) (b : Block) (ws : List Word) (r : State) : Prop :=
  ∃ q, s.blockAt t e = (q, .ok b) ∧ q.fetchWords core (q.slotOf t) (b.head + 4) b.len = (r, .ok ws) ∧ OnlyFetches s r

section
variable {s s' : State} {core : Nat} {t : Thread} {e : Entry} {ws : List Word}

/-- Words found in a state are found in one that fetches alike. -/
theorem SameFetch.fetchWords_ok (h : SameFetch s s') {slot : Nat} {a : Pair} {n : Nat} (hw : (s.fetchWords core slot a n).2 = .ok ws) :
    s'.fetchWords core slot a n = ((s'.fetchWords core slot a n).1, .ok ws) :=
  Prod.ext rfl ((h.fetchWords core slot a n).1.trans hw)

/-- A strand from a resume point keeps the block of its entry (assumption 6). -/
theorem SameFetch.readsBlock_of_resume (h : SameFetch s s') (hres : e.resume = true)
    (hw : (s.fetchWords core (s.slotOf t) (e.blk.head + 4) e.blk.len).2 = .ok ws) : ∃ r, s'.ReadsBlock core t e e.blk ws r := by
  rw [← h.slotOf] at hw
  exact ⟨_, s', if_pos hres, h.fetchWords_ok hw, State.fetchWords_onlyFetches _ _ _ _ _⟩

/-- A strand from a block head reads the head again (03 R81). -/
theorem SameFetch.readsBlock_of_head (h : SameFetch s s') (hres : e.resume = false) {w : Word}
    (hhead : (s.goChecks t e.pc).2 = .head w)
    (hw : ((s.goChecks t e.pc).1.fetchWords core (s.slotOf t) (e.pc + 4) (headLen w)).2 = .ok ws) :
    ∃ r, s'.ReadsBlock core t e (blockOf e.pc w) ws r := by
  obtain ⟨q, hgo, hq, honly⟩ := h.goChecks_head (Prod.ext rfl hhead)
  have hblock : s'.blockAt t e = (q, .ok (blockOf e.pc w)) := by simp [State.blockAt, hres, hgo]
  rw [← h.slotOf, ← honly.slotOf] at hw
  exact ⟨_, q, hblock, hq.fetchWords_ok hw, honly.trans (State.fetchWords_onlyFetches _ _ _ _ _)⟩

end

/-- The strand that a decoder forms at a place of a block for threads. -/
def State.newStrand (s : State) (core dec : Nat) (e : Entry) (ts : List Thread) (b : Block) (ws : List Word) : Strand :=
  { sid := s.nextId, core := core, dec := dec, blk := b, words := ws,
    pos := if e.resume = true then (e.pc - b.head).toNat / 4 - 1 else 0, members := ts.map (fun u => u.tid), formedAt := s.coreClock core }

/-- Threads of a strand that starts stand in its block. -/
def State.placeIn (s : State) (ts : List Thread) (b : Block) : State :=
  { s with threads := s.threads.map (fun t => if ts.any (fun u => u.tid == t.tid) then { t with blk := b } else t) }

/-- A strand that finds its block starts, and nothing else happens. -/
theorem State.startStrand_of_readsBlock {s r : State} {core dec : Nat} {t : Thread} {ts : List Thread} {e : Entry} {b : Block} {ws : List Word}
    (hlen : e.blk.len ≠ 0) (hend : e.resume = true → pastEnd e.blk e.pc = false) (h : s.ReadsBlock core t e b ws r) :
    s.startStrand core dec (t :: ts) e =
      ({ r.placeIn (t :: ts) b with strands := r.strands ++ [r.newStrand core dec e (t :: ts) b ws], fresh := r.fresh + 1 } : State).bump := by
  obtain ⟨q, hblock, hwords, -⟩ := h
  have hfall : ((pastEnd e.blk e.pc && e.resume) || e.blk.len == 0) = false := by
    cases hres : e.resume <;> simp [hlen, hend, hres]
  simp only [State.startStrand, hfall, Bool.false_eq_true, if_false, hblock, hwords]
  rfl

/-- The thread of a name in a list, where the threads whose names stand in the list are changed. -/
theorem State.find?_map_listed {s : State} {ts : List Thread} {u v : Thread} {g : Thread → Thread} (hg : ∀ t, (g t).tid = t.tid)
    (hu : u ∈ ts) (h : s.thread? u.tid = some v) :
    (s.threads.map (fun t => if ts.any (fun x => x.tid == t.tid) then g t else t)).find? (fun t => t.tid == u.tid) = some (g v) := by
  have hany : ts.any (fun x => x.tid == v.tid) = true :=
    List.any_eq_true.mpr ⟨u, hu, by rw [State.thread?_tid h]; exact beq_self_eq_true _⟩
  rw [State.thread?] at h
  rw [find?_map_tid _ _ (fun t => by split <;> simp [hg]), h, Option.map_some, if_pos hany]

theorem State.thread?_takeThreads {s : State} {ts : List Thread} {u v : Thread} (hu : u ∈ ts) (h : s.thread? u.tid = some v) :
    (s.takeThreads ts).thread? u.tid = some { v with state := .issued } :=
  State.find?_map_listed (g := fun t => { t with state := .issued }) (fun _ => rfl) hu h

theorem State.thread?_placeIn {s : State} {ts : List Thread} {u v : Thread} {b : Block} (hu : u ∈ ts) (h : s.thread? u.tid = some v) :
    (s.placeIn ts b).thread? u.tid = some { v with blk := b } :=
  State.find?_map_listed (g := fun t => { t with blk := b }) (fun _ => rfl) hu h

/-- What a strand that a decoder forms leaves: the strand, its threads in it, and memory as before. -/
theorem exec_formStrand_of_readsBlock {s : State} {core dec i : Nat} {e : Entry} {t : Thread} {ts : List Thread} {b : Block} {ws : List Word}
    {r : State} (hcore : core < 320) (hmay : s.mayForm core (dec % 2) = true)
    (hchoose : s.choose core (dec % 2) (s.closedLanes core (dec % 2)) = some (i, e))
    (hoffers : s.offers core e (s.closedLanes core (dec % 2)) = t :: ts) (hlen : e.blk.len ≠ 0)
    (hend : e.resume = true → pastEnd e.blk e.pc = false)
    (hread : (s.taken core (dec % 2) i e (t :: ts)).ReadsBlock core t e b ws r) :
    ∃ s', exec (.formStrand core dec) s = .next s' ∧ s'.mem = s.mem ∧
      s'.strands = s.strands ++ [s.newStrand core (dec % 2) e (t :: ts) b ws] ∧
      ∀ u ∈ t :: ts, s.thread? u.tid = some u → s'.thread? u.tid = some { u with state := .issued, blk := b } := by
  have honly : OnlyFetches (s.taken core (dec % 2) i e (t :: ts)) r := hread.choose_spec.2.2
  have hstrand : r.newStrand core (dec % 2) e (t :: ts) b ws = s.newStrand core (dec % 2) e (t :: ts) b ws := by
    have hclock : r.coreClock core = s.coreClock core := honly.coreClock core
    have hid : r.nextId = s.nextId := honly.nextId
    rw [State.newStrand, hclock, hid, State.newStrand]
  rw [exec_formStrand s hcore, State.formStrand_of_choose hmay hchoose, hoffers, State.startStrand_of_readsBlock hlen hend hread]
  refine ⟨_, rfl, honly.data.mem, ?_, fun u hu h => ?_⟩
  · rw [← hstrand]
    exact congrArg (fun l : List Strand => l ++ [r.newStrand core (dec % 2) e (t :: ts) b ws]) honly.strands
  · exact State.thread?_placeIn hu ((honly.thread? _).trans (State.thread?_takeThreads hu h))

/-! ### The overflow queue and spills (04 R88, R89) -/

theorem exec_overflowQueueMove (s : State) {core : Nat} (hcore : core < 320) :
    exec (.overflowQueueMove core) s = .next (s.moveUp core) := if_neg (coreOk_of_lt hcore)

theorem exec_spillEntry (s : State) {core : Nat} (hcore : core < 320) : exec (.spillEntry core) s = .next (s.spill core) :=
  if_neg (coreOk_of_lt hcore)

/-- The queue's one thread, ready, takes the entry that it can have. -/
theorem State.moveQueue_one {s : State} {core n k : Nat} {t : Thread} (ht : s.thread? n = some t) (hready : s.queueReady t = true)
    (henter : s.canEnter t = true) :
    s.moveQueue core (k + 1) [n] = (s.mapCore core (fun c => { c with queue := c.queue.filter (fun x => x != n) })).enter n .none := by
  rw [State.moveQueue, ht]
  simp only [hready, henter, Bool.not_true, Bool.false_eq_true, if_false]
  cases k <;> rfl

theorem State.mapCore_congr {s : State} {n : Nat} {f g : Core → Core} (h : f (s.core n) = g (s.core n)) : s.mapCore n f = s.mapCore n g := by
  rw [State.mapCore, h, State.mapCore]

theorem State.moveUp_one {s : State} {core n : Nat} {t : Thread} (hfirst : (s.core core).movedAt ≠ some (s.coreClock core))
    (hqueue : (s.core core).queue = [n]) (ht : s.thread? n = some t) (hready : s.queueReady t = true) (henter : s.canEnter t = true) :
    s.moveUp core = ((s.mapCore core (fun c => { c with queue := [] })).enter n .none).mapCore core (fun c =>
      { c with movedAt := some (s.coreClock core) }) := by
  have hempty : s.mapCore core (fun c => { c with queue := c.queue.filter (fun x => x != n) }) =
      s.mapCore core (fun c => { c with queue := [] }) := State.mapCore_congr (by simp [hqueue])
  rw [State.moveUp, if_neg (by simpa using hfirst), hqueue, State.moveQueue_one ht hready henter, hempty]

theorem State.moveUp_done {s : State} {core : Nat} (h : (s.core core).movedAt = some (s.coreClock core)) : s.moveUp core = s :=
  if_pos (beq_iff_eq.mpr h)

/-- An entry with one waiting thread is spilled: the thread moves to the queue's tail. -/
theorem State.spill_one {s : State} {core : Nat} {t w : Thread} {p : Nat × Entry} (hfirst : (s.core core).spilledAt ≠ some (s.coreClock core))
    (hstarved : s.starvedThread core = some t)
    (hentry : (s.core core).table.find? (fun p => p.2.cid == s.cidOf t && !s.issuable core p.2) = some p)
    (hwaiters : s.waiters core p.2 = [w]) :
    s.spill core = ((s.spillThread w).freeEntries core).mapCore core (fun c => { c with spilledAt := some (s.coreClock core) }) := by
  rw [State.spill, if_neg (by simpa using hfirst)]
  simp only [hstarved, hentry, hwaiters, List.foldl_cons, List.foldl_nil, insertSlot]

theorem exec_bankReadRetry (s : State) (n : Nat) : exec (.bankReadRetry n) s =
    .next { s with strands := s.strands.map (fun x => if x.sid = n ∧ x.lost < 7 ∧ x.lostAt ≠ some (s.coreClock x.core)
      then { x with lost := x.lost + 1, lostAt := some (s.coreClock x.core) } else x) } := by
  have hexec : exec (.bankReadRetry n) s = execBankReadRetry n s := rfl
  simp only [hexec, execBankReadRetry, Bool.and_eq_true, decide_eq_true_eq, bne_iff_ne, and_assoc]

/-- Settles O27: a decoder forms the strand whose block it reads, from a resume point or from a head; the moves, the spill and the retries are
made once in a cycle. -/
theorem weaverMovesThreads : Obligations.WeaverMovesThreads := by
  refine ⟨fun s core dec hcore hmay => ?_, fun s core dec i e t ts b ws hcore hmay hchoose hoffers hlen _ hblock => ?_,
    fun s core n t hcore hfirst hqueue ht hready henter => ?_, fun s core hcore hdone => ?_,
    fun s core t p w hcore hfirst hstarved hentry hwaiters => ?_, exec_bankReadRetry⟩
  · rw [exec_formStrand s hcore, State.formStrand_of_mayNot hmay]
  · have hfetch := s.taken_sameFetch core (dec % 2) i e (t :: ts)
    rcases hblock with ⟨hres, hend, rfl, hwords⟩ | ⟨hres, h, hhead, rfl, hwords⟩
    · obtain ⟨r, hread⟩ := hfetch.readsBlock_of_resume hres hwords
      exact exec_formStrand_of_readsBlock hcore hmay hchoose hoffers hlen (fun _ => hend) hread
    · obtain ⟨r, hread⟩ := hfetch.readsBlock_of_head hres hhead hwords
      exact exec_formStrand_of_readsBlock hcore hmay hchoose hoffers hlen (fun hc => absurd hc (by simp [hres])) hread
  · rw [exec_overflowQueueMove s hcore, State.moveUp_one hfirst hqueue ht hready henter]
  · rw [exec_overflowQueueMove s hcore, State.moveUp_done hdone]
  · rw [exec_spillEntry s hcore, State.spill_one hfirst hstarved hentry hwaiters]

end Sys2Proof.Machine

/-!
# What the integer, logic, shift, count and bit-field functions compute
-/
namespace Sys2Proof.Machine

/-! ### Halves of a product, division and saturation (05 R125) -/

theorem hiWord_ofInt (n : Int) : hiWord (BitVec.ofInt 64 n) = BitVec.ofInt 32 (n / 2 ^ 32) := by
  apply BitVec.eq_of_toInt_eq
  simp only [hiWord, BitVec.toInt_setWidth, BitVec.toNat_ushiftRight, BitVec.toNat_ofInt, BitVec.toInt_ofInt, Nat.shiftRight_eq_div_pow]
  push_cast
  rw [Int.toNat_of_nonneg (Int.emod_nonneg n (by decide))]
  simp only [Int.bmod]
  omega

theorem signExtend_mul_signExtend (x y : Word) : x.signExtend 64 * y.signExtend 64 = BitVec.ofInt 64 (x.toInt * y.toInt) := by
  rw [BitVec.signExtend, BitVec.signExtend, ← BitVec.ofInt_mul]

theorem setWidth_mul_setWidth (x y : Word) : x.setWidth 64 * y.setWidth 64 = BitVec.ofNat 64 (x.toNat * y.toNat) := by
  apply BitVec.eq_of_toNat_eq
  simp

theorem mulhI_eq (x y : Word) : BitVec.ofInt 32 (x.toInt * y.toInt / 2 ^ 32) = hiWord (x.signExtend 64 * y.signExtend 64) := by
  rw [signExtend_mul_signExtend, hiWord_ofInt]

theorem mulhN_eq (x y : Word) : BitVec.ofNat 32 (x.toNat * y.toNat / 2 ^ 32) = hiWord (x.setWidth 64 * y.setWidth 64) := by
  rw [setWidth_mul_setWidth, ← BitVec.ofInt_natCast 64, hiWord_ofInt, ← BitVec.ofInt_natCast 32]
  rfl

theorem ofInt_tdiv (x y : Word) : BitVec.ofInt 32 (x.toInt.tdiv y.toInt) = x.sdiv y := by
  apply BitVec.eq_of_toInt_eq
  rw [BitVec.toInt_ofInt, BitVec.toInt_sdiv]

theorem ofInt_tmod (x y : Word) : BitVec.ofInt 32 (x.toInt.tmod y.toInt) = x.srem y := by
  rw [← BitVec.toInt_srem, BitVec.ofInt_toInt]

theorem divI_eq (x y : Word) : divI x y =
    if y = 0 then 0xFFFFFFFF else if x = 0x80000000 ∧ y = 0xFFFFFFFF then 0x80000000 else x.sdiv y := by
  rw [divI, ofInt_tdiv]
  split
  · rfl
  · split
    · next h => obtain ⟨rfl, rfl⟩ := h; decide
    · rfl

theorem remI_eq (x y : Word) : remI x y = if y = 0 then x else if x = 0x80000000 ∧ y = 0xFFFFFFFF then 0 else x.srem y := by
  rw [remI, ofInt_tmod]
  split
  · rfl
  · split
    · next h => obtain ⟨rfl, rfl⟩ := h; decide
    · rfl

theorem divN_eq (x y : Word) : divN x y = if y = 0 then 0xFFFFFFFF else x / y := by
  rw [divN, BitVec.udiv_def]

theorem remN_eq (x y : Word) : remN x y = if y = 0 then x else x % y := by
  rw [remN, BitVec.umod_def]

/-- Of two words with equal keys either is the least and the greatest. -/
theorem ite_le_eq_ite_lt {α : Type} [LinearOrder α] {key : Word → α} (hkey : Function.Injective key) (x y : Word) :
    (if key x ≤ key y then x else y) = (if key x < key y then x else y) ∧
      (if key x ≤ key y then y else x) = (if key x < key y then y else x) := by
  rcases lt_trichotomy (key x) (key y) with h | h | h
  · simp [h, h.le]
  · rw [hkey h]; simp
  · simp [h.not_ge, h.not_gt]

theorem minI_eq (x y : Word) : minI x y = if x.slt y then x else y := by
  simpa only [minI, BitVec.slt_iff_toInt_lt] using (ite_le_eq_ite_lt (fun _ _ => BitVec.eq_of_toInt_eq) x y).1

theorem maxI_eq (x y : Word) : maxI x y = if x.slt y then y else x := by
  simpa only [maxI, BitVec.slt_iff_toInt_lt] using (ite_le_eq_ite_lt (fun _ _ => BitVec.eq_of_toInt_eq) x y).2

theorem minN_eq (x y : Word) : minN x y = if x < y then x else y := (ite_le_eq_ite_lt (fun _ _ => BitVec.eq_of_toNat_eq) x y).1

theorem maxN_eq (x y : Word) : maxN x y = if x < y then y else x := (ite_le_eq_ite_lt (fun _ _ => BitVec.eq_of_toNat_eq) x y).2

theorem satI_eq (r : Int) : satI r = BitVec.ofInt 32 (min (max r (-2147483648)) 2147483647) := by
  rw [satI]
  congr 1
  omega

/-! ### Shifts, rotations and counts (05 R126) -/

theorem shlN_eq (x y : Word) : shlN x y = if 32 ≤ y then 0 else x <<< y := rfl

theorem shrN_eq (x y : Word) : shrN x y = if 32 ≤ y then 0 else x >>> y := rfl

/-- A vector shifted right by its width less 1 or more holds its sign in every bit. -/
theorem getLsbD_sshiftRight_of_le {w n i : Nat} (x : BitVec w) (hn : w ≤ n + 1) (hi : i < w) : (x.sshiftRight n).getLsbD i = x.msb := by
  rw [BitVec.getLsbD_sshiftRight, decide_eq_false (Nat.not_le.mpr hi), Bool.not_false, Bool.true_and, ite_eq_right_iff]
  intro h
  rw [BitVec.msb_eq_getLsbD_last, show n + i = w - 1 by omega]

theorem sshiftRight_31 (x : Word) : x.sshiftRight 31 = if x.msb then 0xFFFFFFFF else 0 := by
  apply BitVec.eq_of_getLsbD_eq
  intro i hi
  rw [getLsbD_sshiftRight_of_le x (by omega) hi]
  cases x.msb
  · simp
  · exact (BitVec.getLsbD_allOnes.trans (decide_eq_true hi)).symm

theorem shaN_eq (x y : Word) : shaN x y = if 32 ≤ y then (if x.msb then 0xFFFFFFFF else 0) else x.sshiftRight' y := by
  rw [shaN, sshiftRight_31]; rfl

theorem rotation_amounts (y : Word) : (y % 32).toNat = y.toNat % 32 ∧ ((32 - y % 32) % 32).toNat = (32 - y.toNat % 32) % 32 := by
  have h : (y % 32).toNat = y.toNat % 32 := by simp
  refine ⟨h, ?_⟩
  rw [BitVec.toNat_umod, BitVec.toNat_sub, h, show (32 : Word).toNat = 32 from rfl]
  omega

theorem rotlN_eq (x y : Word) : rotlN x y = (x <<< (y % 32)) ||| (x >>> ((32 - y % 32) % 32)) := by
  obtain ⟨h1, h2⟩ := rotation_amounts y
  rw [BitVec.shiftLeft_eq', BitVec.ushiftRight_eq', h1, h2, rotlN, BitVec.rotateLeft_def, Nat.mod_mod]
  rcases Nat.eq_zero_or_pos (y.toNat % 32) with h | h
  · simp [h, BitVec.ushiftRight_eq_zero]
  · rw [Nat.mod_eq_of_lt (a := 32 - _) (by omega)]

theorem rotrN_eq (x y : Word) : rotrN x y = (x >>> (y % 32)) ||| (x <<< ((32 - y % 32) % 32)) := by
  obtain ⟨h1, h2⟩ := rotation_amounts y
  rw [BitVec.shiftLeft_eq', BitVec.ushiftRight_eq', h1, h2, rotrN, BitVec.rotateRight_def, Nat.mod_mod]
  rcases Nat.eq_zero_or_pos (y.toNat % 32) with h | h
  · simp [h]
  · rw [Nat.mod_eq_of_lt (a := 32 - _) (by omega)]

theorem popcv_eq (x : Word) : popcv x = BitVec.ofNat 32 ((List.range 32).countP (fun i => x.getLsbD i)) := by
  rw [popcv, bitList, ← List.countP_eq_length_filter, List.countP_map]
  rfl

theorem clzAuxRec_eq_takeWhile (x : Word) (n : Nat) (hn : n < 32) :
    x.clzAuxRec n = BitVec.ofNat 32 (31 - n + (((List.range (n + 1)).map (fun i => x.getLsbD i)).reverse.takeWhile (fun b => !b)).length) := by
  induction n with
  | zero => cases h : x[0] <;> simp [BitVec.clzAuxRec, h, List.range_succ]
  | succ n ih =>
    rw [List.range_succ, List.map_append, List.reverse_append, BitVec.clzAuxRec, ih (by omega)]
    cases h : x.getLsbD (n + 1)
    · simp [h]
      congr 1
      omega
    · simp [h]

theorem clzv_eq (x : Word) : clzv x = x.clz := by
  rw [BitVec.clz, clzAuxRec_eq_takeWhile x 31 (by omega), clzv, bitList]
  simp

theorem bitList_reverse (x : Word) : bitList x.reverse = (bitList x).reverse := by
  apply List.ext_getElem
  · simp [bitList]
  · intro i h _
    have hi : i < 32 := by simpa [bitList] using h
    simp [bitList, BitVec.getLsbD_reverse, BitVec.getMsbD, hi]

theorem ctzv_eq (x : Word) : ctzv x = x.reverse.clz := by
  rw [← clzv_eq, clzv, bitList_reverse, List.reverse_reverse, ctzv]

/-! ### Double shifts (05 R126) -/

theorem dshlv_eq (x y z : Word) : dshlv x y z = hiWord ((x ++ y) <<< z) := by
  rw [dshlv, BitVec.shiftLeft_eq']
  split
  · next h => rw [BitVec.shiftLeft_eq_zero h]; rfl
  · rfl

theorem dshrv_eq (x y z : Word) : dshrv x y z = loWord ((x ++ y) >>> z) := by
  rw [dshrv, BitVec.ushiftRight_eq']
  split
  · next h => rw [BitVec.ushiftRight_eq_zero h]; rfl
  · rfl

theorem dshav_eq (x y z : Word) : dshav x y z = loWord ((x ++ y).sshiftRight' z) := by
  rw [dshav, BitVec.sshiftRight_eq', loWord]
  split
  · next h =>
    apply BitVec.eq_of_getLsbD_eq
    intro i hi
    rw [BitVec.getLsbD_setWidth, getLsbD_sshiftRight_of_le x (by omega) hi, getLsbD_sshiftRight_of_le (x ++ y) (by omega) (by omega),
      BitVec.msb_append, decide_eq_true hi]
    rfl
  · rfl

/-! ### Bit fields (05 R127) -/

/-- A field beyond the word and a field of no length are empty, as their formula says. -/
theorem fieldBits_eq (x q : Word) : fieldBits x q = x.toNat / 2 ^ fieldPos q % 2 ^ fieldLen q := by
  rw [fieldBits]
  split
  · next h =>
    rcases Bool.or_eq_true .. ▸ h with h | h
    · rw [of_decide_eq_true h, Nat.pow_zero, Nat.mod_one]
    · have hx : x.toNat < 2 ^ fieldPos q := lt_of_lt_of_le x.isLt (Nat.pow_le_pow_right (by decide) (of_decide_eq_true h))
      rw [Nat.div_eq_of_lt hx, Nat.zero_mod]
  · rfl

theorem bfeNv_eq (x q : Word) :
    bfeNv x q = BitVec.ofNat 32 (x.toNat / 2 ^ (q.toNat % 256) % 2 ^ min (q.toNat / 256 % 256) 32) := by
  rw [bfeNv, fieldBits_eq]; rfl

theorem bfeIv_eq (x q : Word) :
    bfeIv x q = BitVec.signExtend 32 (BitVec.ofNat (min (q.toNat / 256 % 256) 32) (x.toNat / 2 ^ (q.toNat % 256))) := by
  show _ = BitVec.signExtend 32 (BitVec.ofNat (fieldLen q) (x.toNat / 2 ^ fieldPos q))
  rw [bfeIv, fieldBits_eq]
  generalize x.toNat / 2 ^ fieldPos q = n
  cases hm : fieldLen q with
  | zero => rw [BitVec.eq_nil (BitVec.ofNat 0 n)]; rfl
  | succ m =>
    have hpow : 2 ^ (m + 1) = 2 * 2 ^ m := Nat.pow_succ'
    simp only [Nat.succ_ne_zero, if_false, Nat.add_sub_cancel, BitVec.signExtend, BitVec.toInt_eq_toNat_cond, BitVec.toNat_ofNat]
    split
    · rw [if_neg (by omega)]; push_cast; rfl
    · rw [if_pos (by omega)]; exact (BitVec.ofInt_natCast 32 _).symm

/-- The bits that the mask of a bit field selects. -/
theorem getLsbD_fieldMask (q : Word) {i : Nat} (hi : i < 32) :
    (loWord (BitVec.ofNat 64 ((2 ^ fieldLen q - 1) * 2 ^ fieldPos q))).getLsbD i = decide (fieldPos q ≤ i ∧ i < fieldPos q + fieldLen q) := by
  rw [loWord, BitVec.getLsbD_setWidth, BitVec.getLsbD_ofNat, Nat.testBit_mul_two_pow, Nat.testBit_two_pow_sub_one]
  simp only [hi, decide_true, Bool.true_and, show i < 64 by omega]
  rw [Bool.eq_iff_iff]
  simp
  omega

theorem bfiv_eq (x y q : Word) :
    bfiv x y q = BitVec.ofFnLE (fun i : Fin 32 => if q.toNat % 256 ≤ i.val ∧ i.val < q.toNat % 256 + min (q.toNat / 256 % 256) 32
      then y.getLsbD (i.val - q.toNat % 256) else x.getLsbD i.val) := by
  apply BitVec.eq_of_getLsbD_eq
  intro i hi
  show _ = (BitVec.ofFnLE (fun i : Fin 32 => if fieldPos q ≤ i.val ∧ i.val < fieldPos q + fieldLen q
      then y.getLsbD (i.val - fieldPos q) else x.getLsbD i.val)).getLsbD i
  rw [BitVec.getLsbD_ofFnLE, dif_pos hi, bfiv, BitVec.getLsbD_or, BitVec.getLsbD_and, BitVec.getLsbD_and, BitVec.getLsbD_not,
    getLsbD_fieldMask q hi, BitVec.getLsbD_ofNat, Nat.testBit_mul_two_pow]
  by_cases h : fieldPos q ≤ i ∧ i < fieldPos q + fieldLen q
  · simp [h, hi, BitVec.getLsbD]
  · simp [h, hi]

end Sys2Proof.Machine

/-!
# Words that write their registers: constants, moves, arithmetic, logic, compares and immediate forms
-/
namespace Sys2Proof.Machine

/-! ### Completion by the shape of a word (05 R120) -/

/-- A thread whose registers pass the checks passes them for any of those registers. -/
theorem OperandsReady.of_subset {s : State} {t : Thread} {named named' : List Reg} {reads : List (Cls × Reg)}
    (h : OperandsReady s t named reads) (hsub : ∀ q ∈ named', q ∈ named) : OperandsReady s t named' reads :=
  ⟨fun q hq => h.budget q (hsub q hq), fun o ho htid q hq hc => h.free o ho htid q hq (hsub q hc), h.tags, h.field⟩

/-- A pair is named in either order. -/
@[simp] theorem mem_pairNames {q r : Reg} : q ∈ pairNames r ↔ q ∈ pairRegs r := by
  simp [pairNames, pairRegs, or_comm]

section
variable {i : Instr} {named : Hints → List Reg} {reads : Hints → List (Cls × Reg)} {f : State → Hints → Thread → Thread}

theorem Completes.of_subset {named' : Hints → List Reg} (h : Completes i named' reads f) (hsub : ∀ x, ∀ q ∈ named' x, q ∈ named x) :
    Completes i named reads f :=
  fun s st hs hmore hready => h s st hs hmore fun m hm t ht => (hready m hm t ht).of_subset (hsub _)

/-- A word that acts on registers by a function of its hints, its field's fraction width and its thread. -/
theorem Completes.of_act {g : Hints → Nat → Thread → Thread}
    (hi : ∀ s, exec i s = .next (regWord (fun h => { named := named h, reads := reads h }) (fun _ => false) false g s))
    (hk : KeepsPlace g) (hf : ∀ s h t, g h ((s.fieldFrac t).getD 0) t = f s h t) : Completes i named reads f :=
  .of_regWord hi hk (fun _ => rfl) (fun _ => rfl) (fun _ => rfl) (fun _ => rfl) (fun _ => rfl) hf

theorem CompletesHx.of_act {g : Hints → Nat → Thread → Thread}
    (hi : ∀ s, exec i s = .next (regWord (fun h => { named := named h, reads := reads h }) (fun _ => false) true g s))
    (hk : KeepsPlace g) (hf : ∀ s h t, g h ((s.fieldFrac t).getD 0) t = f s h t) : CompletesHx i named reads f :=
  .of_regWord hi hk (fun _ => rfl) (fun _ => rfl) (fun _ => rfl) (fun _ => rfl) (fun _ => rfl) hf

end

section
variable {i : Instr} {d a b : Reg}

theorem sets2_of_int2 {v w : Word → Word → Word} (hi : ∀ s, exec i s = .next (int2 d a b v s)) (hv : ∀ x y, v x y = w x y) :
    Sets2 i d a b .int .int w :=
  .of_act hi (fun _ _ _ => rfl) fun _ _ _ => congrArg (Thread.setReg _ d · .int) (hv _ _)

theorem sets1_of_int1 {v w : Word → Word} (hi : ∀ s, exec i s = .next (int1 d a v s)) (hv : ∀ x, v x = w x) :
    Sets1 i d a .int .int w :=
  .of_act hi (fun _ _ _ => rfl) fun _ _ _ => congrArg (Thread.setReg _ d · .int) (hv _)

theorem setsBits2_of_bits2 {v w : Word → Word → Word} (hi : ∀ s, exec i s = .next (bits2 d a b v s)) (hv : ∀ x y, v x y = w x y) :
    SetsBits2 i d a b w :=
  .of_act hi (fun _ _ _ => rfl) fun _ _ _ => congrArg (Thread.setReg _ d · .int) (hv _ _)

theorem setsBits1_of_bits1 {v w : Word → Word} (hi : ∀ s, exec i s = .next (bits1 d a v s)) (hv : ∀ x, v x = w x) :
    SetsBits1 i d a w :=
  .of_act hi (fun _ _ _ => rfl) fun _ _ _ => congrArg (Thread.setReg _ d · .int) (hv _)

theorem setsBits3_of_bits3 {v w : Word → Word → Word → Word} (hi : ∀ s, exec i s = .next (bits3 d a b v s))
    (hv : ∀ x y z, v x y z = w x y z) : SetsBits3 i d a b w :=
  .of_act hi (fun _ _ _ => rfl) fun _ _ _ => congrArg (Thread.setReg _ d · .int) (hv _ _ _)

theorem sets1_of_immOp {c : Cls} {imm : Word} {v : Word → Word → Word} {w : Word → Word}
    (hi : ∀ s, exec i s = .next (immOp c d a (fun _ => imm) v s)) (hv : ∀ x, v x imm = w x) : Sets1 i d a c .int w :=
  .of_act hi (fun _ _ _ => rfl) fun _ _ _ => congrArg (Thread.setReg _ d · .int) (hv _)

theorem setsPair2_of_int64op {v : Pair → Pair → Pair} (hi : ∀ s, exec i s = .next (int64op d a b v s)) :
    SetsPair2 i d a b .int64 (fun _ => .x64) (fun _ => v) :=
  (Completes.of_act (named := fun _ => pairNames d ++ pairNames a ++ pairNames b) hi (fun _ _ _ => rfl) fun _ _ _ => rfl).of_subset
    fun _ _ => by simp

theorem tests2_of_cmp64 {c : Cls} {v w : Pair → Pair → Bool} (hi : ∀ s, exec i s = .next (cmp64 d a b c v s))
    (hv : ∀ x y, v x y = w x y) : Tests2 i d a b c (fun _ => .int) w :=
  (Completes.of_act (named := fun _ => [d] ++ pairNames a ++ pairNames b) hi (fun _ _ _ => rfl) fun _ _ _ =>
    congrArg (fun p => Thread.setReg _ d (flag p) .int) (hv _ _)).of_subset fun _ _ => by simp

theorem mulw_completes {v w : Word → Word → Pair} (hi : ∀ s, exec i s = .next (mulwOp d a b v s)) (hv : ∀ x y, v x y = w x y) :
    Completes i (fun _ => pairRegs d ++ [a, b]) (fun _ => [(.int, a), (.int, b)])
      (fun s _ t => t.setPair d (w (s.operand t .int a) (s.operand t .int b)) .x64) :=
  (Completes.of_act (named := fun _ => pairNames d ++ [a, b]) hi (fun _ _ _ => rfl) fun _ _ _ =>
    congrArg (Thread.setPair _ d · .x64) (hv _ _)).of_subset fun _ _ => by simp

theorem lea_completes {sh : BitVec 3} {ext : Word → Pair} (hi : ∀ s, exec i s = .next (leaOp d a b sh ext s)) :
    Completes i (fun _ => pairRegs d ++ pairRegs a ++ [b]) (fun _ => [(.int64, a), (.int, b)])
      (fun s _ t => t.setPair d (t.pair a + (ext (s.operand t .int b) <<< sh.toNat)) .x64) :=
  (Completes.of_act (named := fun _ => pairNames d ++ pairNames a ++ [b]) hi (fun _ _ _ => rfl) fun _ _ _ => rfl).of_subset
    fun _ _ => by simp

theorem imm_completes {c : Cls} {imm imm' : Hints → Word} {v : Word → Word → Word}
    (hi : ∀ s, exec i s = .next (immOp c d a imm v s)) (himm : ∀ h, imm h = imm' h) :
    Completes i (fun _ => [d, a]) (fun _ => [(c, a)]) (fun s h t => t.setReg d (v (s.operand t c a) (imm' h)) .int) :=
  .of_act hi (fun _ _ _ => rfl) fun _ _ _ => congrArg (fun x => Thread.setReg _ d (v _ x) .int) (himm _)

end

/-! ### Integer arithmetic and logic (05 R125, R126) -/

theorem absolute_eq (x : Word) : (if x.toInt < 0 then -x else x) = if x.msb then -x else x := by
  simp only [BitVec.msb_eq_toInt, decide_eq_true_eq]

theorem integerArithmeticResults : Claims.IntegerArithmeticResults := fun _ _ _ =>
  ⟨sets2_of_int2 (fun _ => rfl) fun _ _ => rfl, sets2_of_int2 (fun _ => rfl) fun _ _ => rfl, sets2_of_int2 (fun _ => rfl) fun _ _ => rfl,
    sets2_of_int2 (fun _ => rfl) mulhI_eq, sets2_of_int2 (fun _ => rfl) mulhN_eq, sets2_of_int2 (fun _ => rfl) divI_eq,
    sets2_of_int2 (fun _ => rfl) divN_eq, sets2_of_int2 (fun _ => rfl) remI_eq, sets2_of_int2 (fun _ => rfl) remN_eq,
    sets2_of_int2 (fun _ => rfl) minI_eq, sets2_of_int2 (fun _ => rfl) maxI_eq, sets2_of_int2 (fun _ => rfl) minN_eq,
    sets2_of_int2 (fun _ => rfl) maxN_eq, sets1_of_int1 (fun _ => rfl) absolute_eq, sets1_of_int1 (fun _ => rfl) BitVec.zero_sub,
    sets2_of_int2 (fun _ => rfl) fun _ _ => satI_eq _, sets2_of_int2 (fun _ => rfl) fun _ _ => satI_eq _,
    setsPair2_of_int64op fun _ => rfl, setsPair2_of_int64op fun _ => rfl,
    mulw_completes (w := fun x y => x.signExtend 64 * y.signExtend 64) (fun _ => rfl) fun x y => (signExtend_mul_signExtend x y).symm,
    mulw_completes (w := fun x y => x.setWidth 64 * y.setWidth 64) (fun _ => rfl) fun x y => (setWidth_mul_setWidth x y).symm,
    .of_act (fun _ => rfl) (fun _ _ _ => rfl) fun _ _ _ => rfl⟩

theorem logicAndShiftResults : Claims.LogicAndShiftResults := fun _ _ _ =>
  ⟨setsBits2_of_bits2 (fun _ => rfl) fun _ _ => rfl, setsBits2_of_bits2 (fun _ => rfl) fun _ _ => rfl,
    setsBits2_of_bits2 (fun _ => rfl) fun _ _ => rfl, setsBits2_of_bits2 (fun _ => rfl) fun _ _ => rfl,
    setsBits1_of_bits1 (fun _ => rfl) fun _ => rfl, setsBits2_of_bits2 (fun _ => rfl) shlN_eq, setsBits2_of_bits2 (fun _ => rfl) shrN_eq,
    setsBits2_of_bits2 (fun _ => rfl) shaN_eq, setsBits2_of_bits2 (fun _ => rfl) rotlN_eq, setsBits2_of_bits2 (fun _ => rfl) rotrN_eq,
    setsBits1_of_bits1 (fun _ => rfl) popcv_eq, setsBits1_of_bits1 (fun _ => rfl) clzv_eq, setsBits1_of_bits1 (fun _ => rfl) ctzv_eq,
    setsBits1_of_bits1 (fun _ => rfl) fun _ => rfl, setsBits3_of_bits3 (fun _ => rfl) dshlv_eq, setsBits3_of_bits3 (fun _ => rfl) dshrv_eq,
    setsBits3_of_bits3 (fun _ => rfl) dshav_eq⟩

/-- Settles O1: each instruction's meaning is one of the shapes above, and its function of words computes what R125 and R126 say. -/
theorem integerAndLogicResults : Obligations.IntegerAndLogicResults := ⟨integerArithmeticResults, logicAndShiftResults⟩

/-- Settles O2: a field past the word's end or of no length is 0, and the mask of an insertion selects the field's bits. -/
theorem bitFieldResults : Obligations.BitFieldResults := fun _ _ _ =>
  ⟨setsBits2_of_bits2 (fun _ => rfl) bfeNv_eq, setsBits2_of_bits2 (fun _ => rfl) bfeIv_eq, setsBits3_of_bits3 (fun _ => rfl) bfiv_eq⟩

/-! ### Compares (05 R128, R131) -/

section
variable (x y : Word)

theorem flag_beq : flag (x == y) = if x = y then 1 else 0 := by simp [flag]

theorem flag_bne : flag (x != y) = if x = y then 0 else 1 := by by_cases h : x = y <;> simp [flag, h]

theorem flag_toInt_lt : flag (decide (x.toInt < y.toInt)) = if x.slt y then 1 else 0 := rfl

theorem flag_toInt_le : flag (decide (x.toInt ≤ y.toInt)) = if x.sle y then 1 else 0 := rfl

theorem flag_toNat_lt : flag (decide (x.toNat < y.toNat)) = if x.ult y then 1 else 0 := rfl

theorem flag_toNat_le : flag (decide (x.toNat ≤ y.toNat)) = if x.ule y then 1 else 0 := rfl

end

/-- Settles O3: a compare's flag is 1 exactly where its relation on bits, on i32 or on n32 holds. -/
theorem compareResults : Obligations.CompareResults := fun _ _ _ =>
  ⟨setsBits2_of_bits2 (fun _ => rfl) flag_beq, setsBits2_of_bits2 (fun _ => rfl) flag_bne, sets2_of_int2 (fun _ => rfl) flag_toInt_lt,
    sets2_of_int2 (fun _ => rfl) flag_toInt_le, sets2_of_int2 (fun _ => rfl) flag_toNat_lt, sets2_of_int2 (fun _ => rfl) flag_toNat_le,
    tests2_of_cmp64 (fun _ => rfl) fun _ _ => rfl, tests2_of_cmp64 (fun _ => rfl) fun _ _ => rfl, tests2_of_cmp64 (fun _ => rfl) fun _ _ => rfl,
    tests2_of_cmp64 (fun _ => rfl) fun _ _ => rfl⟩

/-! ### Addresses and immediate forms (05 R129 to R131) -/

theorem Hints.immS_eq (j : BitVec 12) (h : Hints) : h.immS j = signedImm h j := by
  unfold Hints.immS signedImm
  cases h.hk with
  | none => rfl
  | some p => exact congrArg (· ++ j) (BitVec.setWidth_eq_extractLsb' (by decide))

theorem Hints.immZ_eq (j : BitVec 12) (h : Hints) : h.immZ j = unsignedImm h j := by
  unfold Hints.immZ unsignedImm
  cases h.hk with
  | none => rfl
  | some p => exact congrArg (· ++ j) (BitVec.setWidth_eq_extractLsb' (by decide))

theorem leai_completes (d a : Reg) (j : BitVec 12) :
    Completes (.leai d a j) (fun _ => pairRegs d ++ pairRegs a) (fun _ => [(.int64, a)])
      (fun _ h t => t.setPair d (t.pair a + (signedImm h j).signExtend 64) .x64) :=
  .of_subset (named' := fun _ => pairNames d ++ pairNames a)
    (.of_act (fun _ => rfl) (fun _ _ _ => rfl) fun _ h t => by rw [Hints.immS_eq]) fun _ _ => by simp

theorem addressAndImmediateResults : Claims.AddressAndImmediateResults := fun d a _ _ j =>
  ⟨lea_completes fun _ => rfl, lea_completes fun _ => rfl, leai_completes d a j, imm_completes (fun _ => rfl) (Hints.immS_eq j),
    imm_completes (fun _ => rfl) (Hints.immS_eq j), imm_completes (fun _ => rfl) (Hints.immZ_eq j),
    imm_completes (fun _ => rfl) (Hints.immZ_eq j), imm_completes (fun _ => rfl) (Hints.immZ_eq j)⟩

theorem not_le_setWidth (n : BitVec 5) : ¬ 32 ≤ (n.setWidth 32).toNat := by
  have := n.isLt
  rw [BitVec.toNat_setWidth]
  omega

theorem toNat_setWidth_amount (n : BitVec 5) : (n.setWidth 32).toNat = n.toNat := by
  rw [BitVec.toNat_setWidth_of_le (by decide)]

theorem shiftAndCompareImmediateResults : Claims.ShiftAndCompareImmediateResults := fun d a n v =>
  ⟨sets1_of_immOp (fun _ => rfl) fun x => by rw [shlN, if_neg (not_le_setWidth n), toNat_setWidth_amount],
    sets1_of_immOp (fun _ => rfl) fun x => by rw [shrN, if_neg (not_le_setWidth n), toNat_setWidth_amount],
    sets1_of_immOp (fun _ => rfl) fun x => by rw [shaN, if_neg (not_le_setWidth n), toNat_setWidth_amount],
    sets1_of_immOp (fun _ => rfl) fun x => by rw [rotlN, toNat_setWidth_amount, Nat.mod_eq_of_lt n.isLt],
    sets1_of_immOp (fun _ => rfl) fun x => flag_beq x _, sets1_of_immOp (fun _ => rfl) fun x => flag_bne x _,
    sets1_of_immOp (fun _ => rfl) fun x => flag_toInt_lt x _, sets1_of_immOp (fun _ => rfl) fun x => flag_toInt_le x _,
    sets1_of_immOp (fun _ => rfl) fun x => flag_toNat_lt x _, sets1_of_immOp (fun _ => rfl) fun x => flag_toNat_le x _⟩

/-- Settles O4: an immediate form is its register form on the immediate of its field or of the `hk` hint. -/
theorem immediateResults : Obligations.ImmediateResults := ⟨addressAndImmediateResults, shiftAndCompareImmediateResults⟩

/-! ### Constants, moves, tags and `$mode` (05 R121, R122, R124) -/

theorem sel_completes (d a b : Reg) :
    CompletesHx (.sel d a b) (fun h => [d, a, b, h.c]) (fun _ => []) (fun _ h t =>
      if t.val h.c = 0 then t.setReg d (t.val b) (t.reg b).tag else t.setReg d (t.val a) (t.reg a).tag) :=
  .of_act (fun _ => rfl) (fun _ _ _ => by split <;> rfl) fun _ _ _ => ite_not ..

theorem Tag.ofCode_code (g : Tag) : Tag.ofCode g.code = g := by cases g <;> rfl

theorem tagset_completes (d a : Reg) {k : BitVec 7} {g : Tag} (hk : k.toNat = g.code) :
    Completes (.tagset d a k) (fun _ => [d, a]) (fun _ => []) (fun _ _ t => t.setReg d (t.val a) g) :=
  .of_act (fun _ => rfl) (fun _ _ _ => rfl) fun _ _ t => by rw [hk, Tag.ofCode_code]

theorem tagchk_completes (d a : Reg) {k : BitVec 7} {g : Tag} (hk : k.toNat = g.code) :
    Completes (.tagchk d a k) (fun _ => [d, a]) (fun _ => []) (fun _ _ t => t.setReg d (if (t.reg a).tag = g then 1 else 0) .int) := by
  have hcode : Function.Injective Tag.code := Function.LeftInverse.injective Tag.ofCode_code
  refine .of_act (fun _ => rfl) (fun _ _ _ => rfl) fun _ _ t => ?_
  simp only [flag, hk, beq_iff_eq, hcode.eq_iff]

theorem moveAndTagResults : Claims.MoveAndTagResults := fun d a b j _ _ =>
  ⟨.of_act (fun _ => rfl) (fun _ _ _ => rfl) fun _ h t => by rw [Hints.immS_eq], .of_act (fun _ => rfl) (fun _ _ _ => rfl) fun _ _ _ => rfl,
    .of_act (fun _ => rfl) (fun _ _ _ => rfl) fun _ _ _ => rfl, sel_completes d a b,
    .of_act (fun _ => rfl) (fun _ _ _ => rfl) fun _ _ _ => rfl, fun _ hk => ⟨tagset_completes d a hk, tagchk_completes d a hk⟩⟩

theorem modeWriteTouchesOnlyT : Claims.ModeWriteTouchesOnlyT := fun a =>
  ⟨.of_act (fun _ => rfl) (fun _ _ _ => rfl) fun _ _ _ => rfl, fun x hx =>
    have hx' : ¬ x.toNat = 21 := fun h => hx (BitVec.eq_of_toNat_eq h)
    .of_act (fun _ => rfl) (fun _ _ t => by rw [if_neg hx']) fun _ _ _ => if_neg hx'⟩

/-- Settles O5: each word writes one register, with the tag that R121 and R122 give, or the T bit of `$mode`. -/
theorem movesTagsAndMode : Obligations.MovesTagsAndMode := ⟨moveAndTagResults, modeWriteTouchesOnlyT⟩

end Sys2Proof.Machine

/-!
# Special registers
-/
namespace Sys2Proof.Machine

/-! ### `movs` and the special registers (05 R122, R123; 01 R32) -/

theorem Acts.of_subset {i : Instr} {named named' : Hints → List Reg} {reads : Hints → List (Cls × Reg)}
    {ok : Ctx → State → Thread → Prop} {f : Ctx → State → Thread → State} (h : Acts i named' reads ok f)
    (hsub : ∀ x, ∀ q ∈ named' x, q ∈ named x) : Acts i named reads ok f :=
  fun s st t ha hmore hready => h s st t ha hmore (hready.of_subset (hsub _))

theorem specialWide_iff (x : BitVec 7) : specialWide x.toNat = true ↔ x = 16 ∨ x = 39 := by
  simp [specialWide, ← BitVec.toNat_inj]

/-- What `movs` makes of its thread: `$cyc.lo` loads the latch with the upper half of the counter that it reads. -/
def State.movsThread (s : State) (d : Reg) (x : BitVec 7) (t : Thread) : Thread :=
  if x = 16 ∨ x = 39 then t.setPair d (s.special t x.toNat) .x64
  else if x = 17 then
    ({ t with cycLatch := hiWord (s.cyc (dieOf t.core)), cycLoaded := true } : Thread).setReg d (loWord (s.cyc (dieOf t.core))) .int
  else t.setReg d (loWord (s.special t x.toNat)) .int

theorem loWord_setWidth (w : Word) : loWord (w.setWidth 64) = w := BitVec.setWidth_setWidth_of_le w (by decide)

theorem movsAct_eq (s : State) (c : Ctx) (d : Reg) (x : BitVec 7) (t : Thread) :
    movsAct d x.toNat s c t () = (s.setThread (s.movsThread d x t), .go) := by
  have h17 : x.toNat = 17 ↔ x = 17 := BitVec.toNat_inj (y := 17)
  by_cases hwide : x = 16 ∨ x = 39
  · have hx : x ≠ 17 := by rcases hwide with rfl | rfl <;> decide
    simp only [movsAct, State.movsThread, (specialWide_iff x).mpr hwide, h17, hx, hwide, if_true, if_false]
  · have hnarrow : specialWide x.toNat = false := Bool.eq_false_iff.mpr (mt (specialWide_iff x).mp hwide)
    by_cases hx : x = 17
    · subst hx
      have hlo : loWord (s.special t 17) = loWord (s.cyc (dieOf t.core)) := loWord_setWidth _
      rw [State.movsThread, if_neg hwide, if_pos rfl, ← hlo]
      rfl
    · simp only [movsAct, State.movsThread, hnarrow, h17, hx, hwide, if_false, Bool.false_eq_true]

theorem State.thread?_setThread (s : State) (u : Thread) (n : Nat) :
    (s.setThread u).thread? n = (s.thread? n).map (fun x => if x.tid = u.tid then u else x) :=
  find?_map_tid _ _ (fun x => by split <;> simp [*]) n

theorem movs_acts (d : Reg) (x : BitVec 7) :
    Acts (.movs d x) (fun _ => if x = 16 ∨ x = 39 then pairRegs d else [d]) (fun _ => []) (fun _ _ _ => True)
      (fun _ s t => s.setThread (s.movsThread d x t)) := by
  refine Acts.of_subset (named' := fun _ => if specialWide x.toNat then pairNames d else [d]) ?_ fun _ _ => by
    simp only [specialWide_iff]; split <;> simp
  refine Acts.of_issue (fun _ => rfl) rfl (fun _ => rfl) fun s st t h _ _ _ =>
    ⟨(), s.atWord st, rfl, Level.allows_user _, rfl, rfl, rfl, rfl, rfl, movsAct_eq _ _ d x t, ?_⟩
  rw [State.thread?_setThread, Option.isSome_map, State.atWord_thread?, h.thread]
  rfl

/-- Settles O20: `movs` writes what `State.special` reads, and that is the field of the state that R123 names. -/
theorem specialRegisterReads : Obligations.SpecialRegisterReads := by
  refine ⟨movs_acts, fun s t u hu _ => ?_⟩
  simp +contextual [State.special, State.groupOf, State.handleOf, hu, Thread.lane, Thread.row, clusterOf, dieOf]

end Sys2Proof.Machine

/-!
# The checks of a word before it acts
-/
namespace Sys2Proof.Machine

/-! ### The order of the checks (03 R77, 04 R98, 05 R118, 07 R169, 16 R356) -/

section
variable {s : State} {sh : Shape} {t : Thread}

theorem commonStop_of_level (h : t.level.allows sh.level = false) : commonStop s false sh t = some (.fault { code := 0x0B01 }) := by
  simp [commonStop, h]

theorem commonStop_of_beyond {r : Reg} (hlevel : t.level.allows sh.level = true) (h : beyond t sh.named = some r) :
    commonStop s false sh t = some (.fault { code := 0x0203, aux := r.setWidth 32 }) := by
  simp [commonStop, hlevel, h]

theorem commonStop_of_pending {id : Nat} (hlevel : t.level.allows sh.level = true) (hpast : sh.past = none)
    (hbudget : beyond t sh.named = none) (h : s.pendingOn t.tid sh.named = some id) :
    commonStop s false sh t = some (.leave (.op id)) := by
  simp [commonStop, hlevel, hbudget, hpast, h]

theorem commonStop_of_tag (hlevel : t.level.allows sh.level = true) (hpast : sh.past = none) (hbudget : beyond t sh.named = none)
    (hfree : s.pendingOn t.tid sh.named = none) (h : sh.reads.all t.operandOk = false) :
    commonStop s false sh t = some (.fault { code := 0x0301 }) := by
  simp [commonStop, hlevel, hbudget, hpast, hfree, h]

end

section
variable {α : Type} {s : State} {st : Strand} {t : Thread} {m : Meaning α} {F : State → Ctx → Thread → α → State × After}

theorem Meaning.check_of_stop {c : Ctx} {x : Stop} (hmis : m.misplaced c = false) (h : commonStop s false (m.shape c.hints) t = some x) :
    m.check s c t = (s, .error x) := by
  simp only [Meaning.check, hmis, h]

/-- A word whose common checks find a fault does no more than raise it. -/
theorem Alone.issue_stopFault {f : FaultInfo} (h : Alone s st t) (hmis : m.misplaced (s.ctx st) = false) (hact : m.act = eachThread F)
    (hgrp : ∀ s c, m.group s c [] = (s, none)) (hcode : f.code ≠ 0x0901)
    (hstop : commonStop (s.atWord st) false (m.shape st.hints) t = some (.fault f)) : issue m s = s.faults st t f :=
  h.issue_fault hcode (Meaning.check_of_stop hmis hstop) (by rw [hact]; rfl) hgrp

/-- A privileged instruction faults at User level before any other of its checks (16 R356). -/
theorem Alone.privileged_faults {i : Instr} (h : Alone s st t) (hlevel : t.level = .user) (hi : ∀ s, exec i s = .next (issue m s))
    (hmis : ∀ c, m.misplaced c = false) (hpriv : ∀ h, Level.user.allows (m.shape h).level = false) (hact : m.act = eachThread F)
    (hgrp : ∀ s c, m.group s c [] = (s, none)) : exec i s = .next (s.faults st t { code := 0x0B01 }) := by
  rw [hi, h.issue_stopFault (f := { code := 0x0B01 }) (hmis _) hact hgrp (by decide) (commonStop_of_level (by rw [hlevel]; exact hpriv _))]

end

theorem user_allows_sysLevel (n : Nat) : Level.user.allows (sysLevel n) = false := by
  unfold sysLevel; split <;> rfl

/-! ### The checks as an `add` meets them -/

/-- What `add` does to its strand's threads. -/
def addMeaning (d a b : Reg) : Meaning Unit :=
  regMeaning (fun _ => { named := [d, a, b], reads := [(.int, a), (.int, b)] }) (fun _ => false) false
    (fun _ k t => t.setReg d (t.rd k .int a + t.rd k .int b) .int)

section
variable {s : State} {st : Strand} {t : Thread} {d a b : Reg}

theorem exec_add (s : State) (d a b : Reg) : exec (.add d a b) s = .next (issue (addMeaning d a b) s) := rfl

theorem add_beyond (h : Alone s st t) {r : Reg} (hr : beyond t [d, a, b] = some r) :
    exec (.add d a b) s = .next (s.faults st t { code := 0x0203, aux := r.setWidth 32 }) := by
  rw [exec_add, h.issue_stopFault (f := { code := 0x0203, aux := r.setWidth 32 }) rfl rfl (fun _ _ => rfl) (show (0x0203 : Nat) ≠ 0x0901 by decide)
    (commonStop_of_beyond (sh := (addMeaning d a b).shape st.hints) (Level.allows_user _) hr)]

theorem beyond_eq_none {l : List Reg} (h : ∀ r ∈ l, r.toNat < t.budget) : beyond t l = none := by
  rw [beyond, List.find?_eq_none]
  intro r hr
  simpa using h r hr

theorem add_pending (h : Alone s st t) (hbudget : beyond t [d, a, b] = none) {id : Nat} (hpend : s.pendingOn t.tid [d, a, b] = some id) :
    exec (.add d a b) s = .next (((s.atWord st).endStrand st).enterAt t.tid st.runPc st.blk (.op id)) := by
  have hstop : commonStop (s.atWord st) false ((addMeaning d a b).shape st.hints) t = some (.leave (.op id)) :=
    commonStop_of_pending (Level.allows_user _) rfl hbudget hpend
  rw [exec_add, h.issue_waits (m := addMeaning d a b) (Meaning.check_of_stop rfl hstop) rfl]

theorem add_mistagged (h : Alone s st t) (hbudget : beyond t [d, a, b] = none) (hfree : s.pendingOn t.tid [d, a, b] = none)
    (htag : t.operandOk (.int, a) = false ∨ t.operandOk (.int, b) = false) :
    exec (.add d a b) s = .next (s.faults st t { code := 0x0301 }) := by
  have htags : ([(.int, a), (.int, b)] : List (Cls × Reg)).all t.operandOk = false := by
    rcases htag with ha | hb <;> simp [*]
  rw [exec_add, h.issue_stopFault (f := { code := 0x0301 }) rfl rfl (fun _ _ => rfl) (by decide)
    (commonStop_of_tag (sh := (addMeaning d a b).shape st.hints) (Level.allows_user _) rfl hbudget hfree htags)]

end

theorem State.pendingOn_single {s : State} {o : Op} {n : Nat} {l : List Reg} (hops : s.ops = [o]) (htid : o.tid = n)
    (hdst : ∃ r ∈ o.dsts, r ∈ l) : s.pendingOn n l = some o.id := by
  simpa [State.pendingOn, hops, htid] using hdst

theorem State.pendingOn_eq_none {s : State} {n : Nat} {l : List Reg} (h : ∀ o ∈ s.ops, o.tid = n → ∀ r ∈ l, r ∉ o.dsts) :
    s.pendingOn n l = none := by
  rw [State.pendingOn, Option.map_eq_none_iff, List.find?_eq_none]
  intro o ho
  simp only [Bool.and_eq_true, beq_iff_eq, List.any_eq_true, List.contains_iff_mem, not_and, not_exists]
  exact fun htid r hr hl => h o ho htid r hl hr

theorem checksComeInOrder : Claims.ChecksComeInOrder := by
  intro d a b n s st t h
  refine ⟨fun hd => add_beyond h ?_, fun hd ha => add_beyond h ?_, fun hd ha hb => add_beyond h ?_, fun hd ha hb => ?_, fun hlevel => ?_⟩
  · simp [beyond, hd]
  · simp [beyond, hd.not_ge, ha]
  · simp [beyond, hd.not_ge, ha.not_ge, hb]
  · have hbudget : beyond t [d, a, b] = none := beyond_eq_none (by simp [hd, ha, hb])
    refine ⟨fun o hops htid hdst => add_pending h hbudget (State.pendingOn_single hops htid ?_), fun hfree htag =>
      add_mistagged h hbudget (State.pendingOn_eq_none ?_) htag⟩
    · rcases hdst with hdst | hdst | hdst <;> exact ⟨_, hdst, by simp⟩
    · intro o ho htid
      simpa using hfree o ho htid
  · simp only [List.forall_mem_cons, List.not_mem_nil, false_imp_iff, implies_true, and_true]
    refine ⟨?_, h.privileged_faults hlevel (fun _ => rfl) (fun _ => rfl) (fun _ => user_allows_sysLevel _) rfl (fun _ _ => rfl),
      ?_, ?_, ?_, ?_, ?_, ?_, ?_, ?_, ?_, ?_⟩
    all_goals exact h.privileged_faults hlevel (fun _ => rfl) (fun _ => rfl) (fun _ => rfl) rfl (fun _ _ => rfl)

end Sys2Proof.Machine

/-!
# Operand classes and their conversions
-/
namespace Sys2Proof.Machine

/-! ### An f32 read as an i32 (05 R119) -/

/-- n × 2^e without the bits below the point. -/
def truncated (n : Nat) (e : Int) : Nat := if 0 ≤ e then n * 2 ^ e.toNat else n / 2 ^ (-e).toNat

/-- The whole part of the magnitude of an f32 pattern, by its exponent field; an infinity counts as its bits say, beyond every i32. -/
def wholePart (n : Nat) : Nat :=
  let e := n / 2 ^ 23 % 256
  let sig := 2 ^ 23 + n % 2 ^ 23
  if e = 0 then 0 else if 150 ≤ e then sig * 2 ^ (e - 150) else sig / 2 ^ (150 - e)

theorem wholePart_subnormal {n : Nat} (h : n / 2 ^ 23 % 256 = 0) : truncated (n % 2 ^ 23) (-149) = wholePart n := by
  rw [wholePart, if_pos h]
  exact Nat.div_eq_of_lt (lt_trans (Nat.mod_lt _ (by decide)) (by decide))

theorem wholePart_normal {n : Nat} (h : n / 2 ^ 23 % 256 ≠ 0) :
    truncated (2 ^ 23 + n % 2 ^ 23) ((n / 2 ^ 23 % 256 : Nat) - 150) = wholePart n := by
  rw [wholePart, if_neg h, truncated]
  generalize n / 2 ^ 23 % 256 = e
  rcases Nat.lt_or_ge e 150 with he | he
  · rw [if_neg (by omega), if_neg he.not_ge, show (-((e : Int) - 150)).toNat = 150 - e by omega]
  · rw [if_pos (by omega), if_pos he, show ((e : Int) - 150).toNat = e - 150 by omega]

theorem wholePart_infinity {n : Nat} (h : n / 2 ^ 23 % 256 = 255) : 2 ^ 31 ≤ wholePart n := by
  rw [wholePart, h]
  exact le_trans (show 2 ^ 31 ≤ 2 ^ 23 * 2 ^ 105 by decide) (Nat.mul_le_mul_right _ (Nat.le_add_right _ _))

/-- A magnitude with a sign, saturated to an i32. -/
def saturated (s : Bool) (n : Nat) : Int := max (-(2 ^ 31)) (min (2 ^ 31 - 1) (if s then -(n : Int) else n))

theorem f32_toInt_of_fin {n : Nat} {s : Bool} {m : Nat} {e : Int} (h : f32.val n = .fin s m e) :
    f32.toInt 1 0 (-(2 ^ 31)) (2 ^ 31 - 1) n = saturated s (truncated m e) := by
  have hint : intOf 1 s m e = if s then -(truncated m e : Int) else truncated m e := by
    simp [intOf, roundAt, roundUp, truncated]
  simp only [Fmt.toInt, h, Int.add_zero, hint, saturated]
  generalize (if s then -(truncated m e : Int) else truncated m e) = v
  omega

theorem f32_toInt_of_inf {n : Nat} {s : Bool} (h : f32.val n = .inf s) {m : Nat} (hm : 2 ^ 31 ≤ m) :
    f32.toInt 1 0 (-(2 ^ 31)) (2 ^ 31 - 1) n = saturated s m := by
  simp only [Fmt.toInt, h, saturated]
  cases s <;> simp <;> omega

section
variable (x : Word)

theorem f32_neg?_toNat : f32.neg? x.toNat = x.msb := by
  have := x.isLt
  rw [Fmt.neg?, show f32.signBit = 2 ^ 31 from rfl, BitVec.msb_eq_decide, beq_eq_decide]
  exact decide_eq_decide.mpr (by omega)

/-- The value of a pattern that is no NaN, by its exponent field: zero and subnormals, infinities, normal numbers (06 R140). -/
theorem f32_val_toNat (h : f32.isNan x.toNat = false) : f32.val x.toNat =
    if x.toNat / 2 ^ 23 % 256 = 0 then .fin x.msb (x.toNat % 2 ^ 23) (-149)
    else if x.toNat / 2 ^ 23 % 256 = 255 then .inf x.msb
    else .fin x.msb (2 ^ 23 + x.toNat % 2 ^ 23) ((x.toNat / 2 ^ 23 % 256 : Nat) - 150) := by
  have hinf : f32.infBits = 255 * 2 ^ 23 := rfl
  have hmag : f32.mag x.toNat = x.toNat % 2 ^ 31 := rfl
  have hq : f32.qmin = -149 := rfl
  have hnan : ¬ 255 * 2 ^ 23 < x.toNat % 2 ^ 31 := by simpa [Fmt.isNan, hinf, hmag] using h
  have hexp : x.toNat % 2 ^ 31 / 2 ^ 23 = x.toNat / 2 ^ 23 % 256 := by omega
  have hfrac : x.toNat % 2 ^ 31 % 2 ^ 23 = x.toNat % 2 ^ 23 := by omega
  simp only [Fmt.val, f32_neg?_toNat, hinf, hmag, hq, if_neg hnan, show f32.fbits = 23 from rfl, hexp, hfrac]
  by_cases h0 : x.toNat / 2 ^ 23 % 256 = 0
  · rw [if_neg (by omega), if_pos h0, if_pos h0]
  · rw [if_neg h0, if_neg h0]
    by_cases h255 : x.toNat / 2 ^ 23 % 256 = 255
    · rw [if_pos (by omega), if_pos h255]
    · have hpow : ∀ k : Nat, (-149 + k - 1 : Int) = k - 150 := by omega
      rw [if_neg (by omega), if_neg h255, hpow, Nat.add_comm]

theorem f32ToInt_of_nan (h : f32.isNan x.toNat = true) : f32ToInt x = 0 := by
  have hval : f32.val x.toNat = .nan := if_pos (of_decide_eq_true h)
  rw [f32ToInt, Fmt.toInt, hval]
  rfl

theorem f32ToInt_of_not_nan (h : f32.isNan x.toNat = false) : f32ToInt x = BitVec.ofInt 32 (saturated x.msb (wholePart x.toNat)) := by
  refine congrArg (BitVec.ofInt 32) ?_
  have hval := f32_val_toNat x h
  by_cases h0 : x.toNat / 2 ^ 23 % 256 = 0
  · rw [if_pos h0] at hval
    rw [f32_toInt_of_fin hval, wholePart_subnormal h0]
  · rw [if_neg h0] at hval
    by_cases h255 : x.toNat / 2 ^ 23 % 256 = 255
    · rw [if_pos h255] at hval
      exact f32_toInt_of_inf hval (wholePart_infinity h255)
    · rw [if_neg h255] at hval
      rw [f32_toInt_of_fin hval, wholePart_normal h0]

end

/-! ### The classes of operands (05 R118, R119) -/

theorem Thread.rd_int (t : Thread) (frac : Nat) (r : Reg) :
    t.rd frac .int r = if (t.reg r).tag = .f32 then f32ToInt (t.val r) else t.val r := rfl

theorem Thread.rd_f32 (t : Thread) (frac : Nat) (r : Reg) : t.rd frac .f32 r =
    if (t.reg r).tag = .int then intToF32 (t.val r) else if (t.reg r).tag = .cq then cqToF32 frac (t.val r) else t.val r := rfl

theorem classesAcceptAndConvertTags : Claims.ClassesAcceptAndConvertTags := by
  intro t r frac
  refine ⟨rfl, ?_, ?_, ?_, fun h => ?_, fun h hnan => ?_, fun h hnan => ?_, fun hint hcq => ?_, fun h => ?_, fun h => ?_⟩
  · simp [Thread.operandOk, Thread.tagOk, Cls.accepts, Cls.converts, Cls.wide, or_assoc]
  · simp [Thread.operandOk, Thread.tagOk, Cls.accepts, Cls.converts, Cls.wide, or_assoc]
  · simp [Thread.operandOk, Thread.tagOk, Cls.accepts, Cls.converts, Cls.wide, or_assoc]
  · rw [Thread.rd_int, if_neg h]
  · rw [Thread.rd_int, if_pos h, f32ToInt_of_nan _ hnan]
  · rw [Thread.rd_int, if_pos h, f32ToInt_of_not_nan _ hnan]; rfl
  · rw [Thread.rd_f32, if_neg hint, if_neg hcq]
  · rw [Thread.rd_f32, if_pos h]; rfl
  · rw [Thread.rd_f32, if_neg (by rw [h]; decide), if_pos h]; rfl

/-- Settles O51: the classes are told tag by tag, and each check of an `add` is the first that finds a stop. -/
theorem operandChecksComeInOrder : Obligations.OperandChecksComeInOrder := ⟨classesAcceptAndConvertTags, checksComeInOrder⟩

end Sys2Proof.Machine

/-!
# Lane words
-/
namespace Sys2Proof.Machine

/-! ### The issue of a lane word by one group (04 R97, 05 R132) -/

/-- What a lane word does to the threads of a group, from its width, the fraction widths of their fields, its active lanes and a thread. -/
abbrev LaneFn : Type := Nat → (Thread → Nat) → List Thread → Thread → Thread

/-- The meaning of a lane word. -/
def laneMeaning (named : List Reg) (reads : List (Cls × Reg)) (F : LaneFn) : Meaning Unit :=
  { shape := fun _ => { named := named, reads := reads }, lane := true, pre := noCheck,
    act := fun s _ l =>
      let ts := l.filterMap (fun p => s.thread? p.1)
      let w := match ts with
        | [] => 1
        | t :: _ => (s.spanOf t).2
      (writeAll s ts (F w (fun t => (s.fieldFrac t).getD 0) ts), l.map (fun p => (p.1, .go))) }

theorem laneWord_eq (named : List Reg) (reads : List (Cls × Reg)) (F : LaneFn) (s : State) :
    laneWord named reads F s = issue (laneMeaning named reads F) s := rfl

theorem writeAll_eq_mapIn {s : State} {f : Thread → Thread} {ts : List Thread} (hn : s.threadsNamed) (hf : ∀ t, (f t).tid = t.tid)
    (hts : ∀ t ∈ ts, s.thread? t.tid = some t) (hd : (ts.map (fun t => t.tid)).Nodup) :
    writeAll s ts f = s.mapIn (ts.map (fun t => t.tid)) f := by
  induction ts generalizing s with
  | nil => exact (s.mapIn_nil f).symm
  | cons t r ih =>
    obtain ⟨hnot, hd'⟩ := List.nodup_cons.mp hd
    have hset : s.setThread (f t) = s.mapIn [t.tid] f := State.setThread_eq_mapIn hn (hts t (by simp)) f (hf t)
    have hrest : ∀ u ∈ r, (s.mapIn [t.tid] f).thread? u.tid = some u := by
      intro u hu
      have hne : u.tid ≠ t.tid := fun h => hnot (List.mem_map.mpr ⟨u, hu, h⟩)
      rw [State.thread?_mapIn _ _ _ hf, hts u (by simp [hu])]
      simp [hne]
    have htail := ih (State.threadsNamed_mapIn hn _ _ hf) hrest hd'
    rw [writeAll, List.foldl_cons, hset, ← writeAll, htail, State.mapIn_mapIn _ _ _ _ hf]
    · rfl
    · rintro n hn' h
      rw [List.mem_singleton.mp h] at hn'
      exact hnot hn'

/-- Threads of one group make one party. -/
theorem State.groupsOf_same {s : State} {g : List Thread} (hne : g ≠ []) (hsame : ∀ t ∈ g, ∀ u ∈ g, s.sameGroup t u = true) :
    s.groupsOf g = [g] := by
  induction g with
  | nil => exact absurd rfl hne
  | cons t r ih =>
    cases r with
    | nil => rfl
    | cons u r =>
      have hr := ih (by simp) fun x hx y hy => hsame x (by simp [hx]) y (by simp [hy])
      rw [State.groupsOf, hr]
      exact if_pos (hsame t (by simp) u (by simp))

theorem State.groupOf_atWord (s : State) (st : Strand) (t : Thread) : (s.atWord st).groupOf t = s.groupOf t := by
  have h : ∀ s : State, s.groupOf t = ((s.unitOf t).map (fun u => t.index / u.gw)).getD 0 := fun s => by
    rw [State.groupOf]; cases s.unitOf t <;> rfl
  rw [h, h, State.map_unitOf_atWord s st t fun _ => rfl]

theorem State.sameGroup_atWord (s : State) (st : Strand) (t u : Thread) : (s.atWord st).sameGroup t u = s.sameGroup t u := by
  rw [State.sameGroup, State.groupOf_atWord, State.groupOf_atWord, State.sameGroup]

theorem State.fieldFrac_atWord (s : State) (st : Strand) (t : Thread) : (s.atWord st).fieldFrac t = s.fieldFrac t :=
  State.fieldFrac_congr rfl (State.noteIssue_units s st) rfl rfl

theorem State.width_atWord {s : State} (st : Strand) {t : Thread} {w : Nat} (h : ∃ u, s.unitOf t = some u ∧ u.gw = w) :
    ((s.atWord st).spanOf t).2 = w := by
  have hspan : ∀ s : State, (s.spanOf t).2 = ((s.unitOf t).map (fun u => u.gw)).getD 1 := fun s => by
    rw [State.spanOf]; cases s.unitOf t <;> rfl
  obtain ⟨u, hu, hw⟩ := h
  rw [hspan, State.map_unitOf_atWord s st t fun _ => rfl, hu]
  exact hw

/-- The action of a lane word on a group whose threads stand in the machine. -/
theorem laneMeaning_act {named : List Reg} {reads : List (Cls × Reg)} {F : LaneFn} (hF : ∀ w k ts t, (F w k ts t).tid = t.tid)
    {q : State} {c : Ctx} {w : Nat} {g : List Thread} (hn : q.threadsNamed) (hne : g ≠ [])
    (hg : ∀ t ∈ g, q.thread? t.tid = some t) (hd : (g.map (fun t => t.tid)).Nodup) (hw : ∀ t ∈ g, (q.spanOf t).2 = w) :
    (laneMeaning named reads F).act q c (g.map (fun t => (t.tid, ()))) =
      (q.mapIn (g.map (fun t => t.tid)) (F w (fun t => (q.fieldFrac t).getD 0) g), g.map (fun t => (t.tid, After.go))) := by
  have hts : (g.map (fun t => (t.tid, ()))).filterMap (fun p => q.thread? p.1) = g := by
    rw [List.filterMap_map]
    exact (List.filterMap_congr hg).trans List.filterMap_some
  obtain ⟨t, r, rfl⟩ := List.exists_cons_of_ne_nil hne
  simp only [laneMeaning, hts, hw t (by simp), List.map_map]
  rw [writeAll_eq_mapIn hn (hF _ _ _) hg hd]
  rfl

section
variable {s : State} {st : Strand} {w : Nat} {g : List Thread} {named : List Reg} {reads : List (Cls × Reg)} {F : LaneFn}

/-- The lanes of a group are the threads of its strand's members. -/
theorem OneGroup.members (hgroup : OneGroup s st w g) (h : Issuing s st) :
    g.map (fun t => t.tid) = st.members ∧ ∀ t ∈ g, s.thread? t.tid = some t := by
  have := filterMap_thread? (s := s) (l := st.members) fun m hm => by
    obtain ⟨t, ht, -⟩ := h.present m hm
    exact ⟨t, ht⟩
  rwa [hgroup.lanes] at this

theorem OneGroup.ne_nil (hgroup : OneGroup s st w g) (h : Issuing s st) : g ≠ [] := by
  rintro rfl
  exact h.some' (hgroup.members h).1.symm

theorem OneGroup.parties (hgroup : OneGroup s st w g) (h : Issuing s st) :
    (s.noteIssue st).parties (s.wordCtx st) (st.members.filterMap s.thread?) = [g] := by
  have hgath : (s.wordCtx st).st.blk.gath = true := hgroup.gathered
  rw [State.parties, if_pos hgath, hgroup.lanes]
  exact State.groupsOf_same (hgroup.ne_nil h) fun t ht u hu => (State.sameGroup_atWord s st t u).trans (hgroup.same t ht u hu)

/-- What a lane word does to the threads of a group, with the state in which the word starts. -/
def State.laneOn (s : State) (F : LaneFn) (w : Nat) (g : List Thread) (t : Thread) : Thread :=
  F w (fun t => (s.fieldFrac t).getD 0) (g.map Thread.acted) t

/-- A group whose lanes all pass their checks acts whole. -/
theorem OneGroup.party (hgroup : OneGroup s st w g) (h : Issuing s st) (hr : AllReady s st named reads)
    (hF : ∀ w k ts t, (F w k ts t).tid = t.tid) :
    (laneMeaning named reads F).party (s.atWord st) (s.wordCtx st) g =
      ((s.atWord st).mapIn st.members (fun t => s.laneOn F w g t.acted), st.members.map (fun n => (n, After.go)), []) := by
  obtain ⟨hids, hself⟩ := hgroup.members h
  have htid : ∀ t : Thread, t.acted.tid = t.tid := fun _ => rfl
  have hmis : (laneMeaning named reads F).misplaced (s.wordCtx st) = false := by
    have hgath : (s.wordCtx st).st.blk.gath = true := hgroup.gathered
    simp [Meaning.misplaced, laneMeaning, hgath]
  have hmem : ∀ t ∈ g, t.tid ∈ st.members := fun t ht => hids ▸ List.mem_map.mpr ⟨t, ht, rfl⟩
  have hcheck : (laneMeaning named reads F).checkAll (s.atWord st) (s.wordCtx st) g = (s.atWord st, g.map (fun t => (t.tid, .ok ()))) :=
    checkAll_ok rfl g fun t ht => by
      rw [hmis]; exact commonStop_none rfl rfl (hr t.tid (hmem t ht) t (hself t ht)).atWord
  have hact := laneMeaning_act (named := named) (reads := reads) hF (q := (s.atWord st).mapIn st.members Thread.acted) (c := s.wordCtx st)
    (w := w) (g := g.map Thread.acted) (State.threadsNamed_mapIn (s := s.atWord st) h.threads _ _ htid)
    (by simpa using hgroup.ne_nil h)
    (by
      simp only [List.forall_mem_map, State.thread?_mapIn _ _ _ htid]
      intro t ht
      rw [htid, State.atWord_thread?, hself t ht, Option.map_some, if_pos (List.contains_iff_mem.mpr (hmem t ht))])
    (by rw [List.map_map]; exact hids ▸ h.distinct)
    (by
      simp only [List.forall_mem_map]
      exact fun t ht => State.width_atWord st (hgroup.width t ht))
  have hacted : (laneMeaning named reads F).act ((s.atWord st).mapIn st.members Thread.acted) (s.wordCtx st) (g.map (fun t => (t.tid, ()))) =
      ((s.atWord st).mapIn st.members (fun t => s.laneOn F w g t.acted), st.members.map (fun n => (n, After.go))) := by
    have hfrac : ∀ t : Thread, ((s.atWord st).mapIn st.members Thread.acted).fieldFrac t = s.fieldFrac t := fun t =>
      (State.fieldFrac_eq rfl rfl rfl rfl).trans (State.fieldFrac_atWord s st t)
    simp only [List.map_map, hfrac] at hact
    refine hact.trans (Prod.ext ?_ ?_)
    · exact hids ▸ State.mapIn_comp _ _ _ _ htid
    · rw [← hids, List.map_map]; rfl
  have hids' : (g.map (fun t => (t.tid, ()))).map (fun p => p.1) = st.members := by rw [← hids, List.map_map]; rfl
  have hnone : ∀ x y z, (laneMeaning named reads F).group x y z = (x, none) := fun _ _ _ => rfl
  simp only [Meaning.party, hcheck, stops_ok, passed_ok, faults_ok, List.isEmpty_nil, if_true, Bool.not_true, Bool.false_eq_true, if_false,
    List.map_nil, hnone, hids', State.endBegun_eq, hacted]

/-- EVERYTHING THAT A LANE WORD DOES, where a group in a gathered block issues it with every lane's checks passed. -/
theorem OneGroup.laneWord_next (hgroup : OneGroup s st w g) (h : Issuing s st) (hmore : st.more) (hr : AllReady s st named reads)
    (hF : ∀ w k ts t, (F w k ts t).tid = t.tid) : laneWord named reads F s = s.wordDone st (s.laneOn F w g) := by
  obtain ⟨hids, hself⟩ := hgroup.members h
  have hnow : g.filterMap (fun t => (s.atWord st).thread? t.tid) = g := (List.filterMap_congr hself).trans List.filterMap_some
  have hbump : (s.noteIssue st).bump = s.atWord st := rfl
  have hlast : (s.wordCtx st).last = false := by rw [State.ctx_eq, State.ctx_last, beq_eq_false_iff_ne]; exact hmore
  rw [laneWord_eq, h.issue_eq]
  simp only [hgroup.parties h, Meaning.parties, hnow, hbump, hgroup.party h hr hF, List.append_nil]
  rw [finishWord_go st.members h.some' hlast ?_ rfl]
  · rfl
  · intro n hn
    obtain ⟨t, ht, -⟩ := h.present n hn
    have htid : ∀ t : Thread, (s.laneOn F w g t.acted).tid = t.tid := fun t => hF _ _ _ t.acted
    rw [State.thread?_mapIn _ _ _ htid, State.atWord_thread?, ht]
    rfl

end

/-- A lane instruction completes where its meaning is a lane word that does to a group's lanes what `f` says. -/
theorem LaneCompletes.of_laneWord {i : Instr} {named named' : List Reg} {reads : List (Cls × Reg)}
    {f : State → Nat → List Thread → Thread → Thread} {F : LaneFn} (hi : ∀ s, exec i s = .next (laneWord named' reads F s))
    (hF : ∀ w k ts t, (F w k ts t).tid = t.tid) (hf : ∀ s w g t, 0 < w → g ≠ [] → s.laneOn F w g t = f s w g t)
    (hsub : ∀ q ∈ named', q ∈ named) : LaneCompletes i named reads f := by
  intro s st w g h hmore hgroup hr
  have hr' : AllReady s st named' reads := fun m hm t ht => (hr m hm t ht).of_subset hsub
  rw [hi, hgroup.laneWord_next h hmore hr' hF]
  exact congrArg (fun f => Host.Outcome.next (s.wordDone st f)) (funext fun t => hf s w g t hgroup.positive (hgroup.ne_nil h))

end Sys2Proof.Machine

/-!
# Exchanges, votes, reductions and scans
-/
namespace Sys2Proof.Machine

/-- A thread whose word acts holds what it held. -/
@[simp] theorem Thread.acted_val (t : Thread) (r : Reg) : t.acted.val r = t.val r := rfl

/-! ### The exchange of registers (05 R134) -/

/-- A lane reads the lane that an index names, or itself where the index is outside the group or names no active lane. -/
theorem setReg_fromLane {w : Nat} (hw : 0 < w) (d a : Reg) (g : List Thread) (t : Thread) (j : Int) :
    t.setReg d (fromLane w (g.map Thread.acted) t a j).val (fromLane w (g.map Thread.acted) t a j).tag = takeLane d a w g t j := by
  have hfind : (g.map Thread.acted).find? (fun u => (relLane w u : Int) == j) =
      (g.find? (fun u => ((u.lane % w : Nat) : Int) == j)).map Thread.acted := List.find?_map ..
  rw [fromLane, takeLane, hfind]
  split
  · next hout =>
    have hnone : g.find? (fun u => ((u.lane % w : Nat) : Int) == j) = none := by
      rw [List.find?_eq_none]
      intro u _
      have := Nat.mod_lt u.lane hw
      simp only [Bool.or_eq_true, decide_eq_true_eq] at hout
      simp only [beq_iff_eq]
      omega
    rw [hnone]; rfl
  · cases g.find? (fun u => ((u.lane % w : Nat) : Int) == j) <;> rfl

theorem shuffle_completes {i : Instr} {named : List Reg} {reads : List (Cls × Reg)} {d a : Reg} {j : Nat → Nat → Thread → Int}
    {j' : State → Nat → Thread → Int} (hi : ∀ s, exec i s = .next (shuffle named reads d a j s))
    (hj : ∀ s w t, j w ((s.fieldFrac t).getD 0) t = j' s w t) :
    LaneCompletes i named reads (fun s w g t => takeLane d a w g t (j' s w t)) :=
  .of_laneWord hi (fun _ _ _ _ => rfl) (fun s w g t hw _ => hj s w t ▸ setReg_fromLane hw d a g t _) fun _ hq => hq

theorem laneShuffleResults : Claims.LaneShuffleResults := fun _ _ _ =>
  ⟨shuffle_completes (fun _ => rfl) fun _ _ _ => rfl, shuffle_completes (fun _ => rfl) fun _ _ _ => rfl,
    shuffle_completes (fun _ => rfl) fun _ _ _ => rfl, shuffle_completes (fun _ => rfl) fun _ _ _ => rfl,
    shuffle_completes (fun _ => rfl) fun _ _ _ => rfl⟩

/-! ### Reductions of the values of lanes (05 R134, R135) -/

section
variable (l : List Thread) (s : State) (a : Reg)

theorem foldl_add_eq (v : Thread → Word) (m : Word) :
    l.foldl (fun m u => m + v u) m = m + BitVec.ofNat 32 (l.map (fun u => (v u).toNat)).sum := by
  induction l generalizing m with
  | nil => simp
  | cons u r ih =>
    rw [List.foldl_cons, ih, List.map_cons, List.sum_cons, BitVec.ofNat_add, BitVec.ofNat_toNat, BitVec.setWidth_eq, BitVec.add_assoc]

theorem laneSum_acted : laneSum (fun u => (s.fieldFrac u).getD 0) a (l.map Thread.acted) =
    BitVec.ofNat 32 (l.map (fun u => (s.operand u .int a).toNat)).sum := by
  rw [laneSum, List.foldl_map]
  exact (foldl_add_eq l (fun u => s.operand u .int a) 0).trans (BitVec.zero_add _)

theorem upTo_acted (t : Thread) : upTo (l.map Thread.acted) t = (l.filter (fun u => u.lane ≤ t.lane)).map Thread.acted := List.filter_map ..

theorem laneFsum_acted : laneFsum (fun u => (s.fieldFrac u).getD 0) a (l.map Thread.acted) =
    floatSum (l.map (fun u => s.operand u .f32 a)) := by
  cases l with
  | nil => rfl
  | cons u r =>
    simp only [laneFsum, floatSum, List.map_cons, List.foldl_map]
    rfl

theorem voteMask_acted (w : Nat) : voteMask w a (l.map Thread.acted) =
    (l.map (fun u => if u.val a = 0 then 0 else 2 ^ (u.lane % w))).sum := by
  have hfold : ∀ m, l.foldl (fun m u => if u.val a != 0 then m + 2 ^ relLane w u else m) m =
      m + (l.map (fun u => if u.val a = 0 then 0 else 2 ^ (u.lane % w))).sum := by
    induction l with
    | nil => exact fun m => rfl
    | cons u r ih =>
      intro m
      rw [List.foldl_cons, ih, List.map_cons, List.sum_cons, ← Nat.add_assoc]
      by_cases h : u.val a = 0#32 <;> simp [h, relLane]
  rw [voteMask, List.foldl_map]
  exact (hfold 0).trans (Nat.zero_add _)

end

/-- Folding an associative choice over values from the first on is folding it from the end, where the start is neutral. -/
theorem foldl_eq_foldr_of_neutral {α : Type} {op : α → α → α} {e : α} (hassoc : ∀ x y z, op (op x y) z = op x (op y z))
    (hneutral : ∀ x, op x e = x) (x : α) (l : List α) : l.foldl op x = (x :: l).foldr op e := by
  induction l generalizing x with
  | nil => exact (hneutral x).symm
  | cons y r ih => rw [List.foldl_cons, ih, List.foldr_cons, hassoc]; rfl

theorem laneBest_acted {l : List Thread} (hne : l ≠ []) (s : State) (a : Reg) {pick pick' : Word → Word → Word} {e : Word}
    (hassoc : ∀ x y z, pick (pick x y) z = pick x (pick y z)) (hneutral : ∀ x, pick x e = x) (hpick : ∀ x y, pick x y = pick' x y) :
    laneBest (fun u => (s.fieldFrac u).getD 0) a pick (l.map Thread.acted) = l.foldr (fun u m => pick' (s.operand u .int a) m) e := by
  obtain rfl : pick = pick' := funext₂ hpick
  obtain ⟨u, r, rfl⟩ := List.exists_cons_of_ne_nil hne
  have h : (r.map (fun u => s.operand u .int a)).foldl pick (s.operand u .int a) = ((u :: r).map (fun u => s.operand u .int a)).foldr pick e :=
    foldl_eq_foldr_of_neutral hassoc hneutral _ _
  rw [List.foldl_map, List.foldr_map] at h
  rw [← h, List.map_cons, laneBest, List.foldl_map]
  rfl

theorem toInt_minI (x y : Word) : (minI x y).toInt = min x.toInt y.toInt := by
  rw [minI, apply_ite BitVec.toInt, min_def]

theorem toInt_maxI (x y : Word) : (maxI x y).toInt = max x.toInt y.toInt := by
  rw [maxI, apply_ite BitVec.toInt, max_def]

theorem minI_assoc (x y z : Word) : minI (minI x y) z = minI x (minI y z) :=
  BitVec.eq_of_toInt_eq (by simp only [toInt_minI, min_assoc])

theorem maxI_assoc (x y z : Word) : maxI (maxI x y) z = maxI x (maxI y z) :=
  BitVec.eq_of_toInt_eq (by simp only [toInt_maxI, max_assoc])

theorem minI_greatest (x : Word) : minI x 0x7FFFFFFF = x :=
  BitVec.eq_of_toInt_eq (by rw [toInt_minI]; exact min_eq_left (Int.le_of_lt_add_one x.toInt_lt))

theorem maxI_least (x : Word) : maxI x 0x80000000 = x :=
  BitVec.eq_of_toInt_eq (by rw [toInt_maxI]; exact max_eq_left x.le_toInt)

theorem maxI_eq_of_slt (x y : Word) : maxI x y = if y.slt x then x else y := by
  simp only [maxI, BitVec.slt_iff_toInt_lt, ← not_lt, ite_not]

/-! ### The lane instructions (05 R134, R135) -/

theorem voteMask_completes (d a : Reg) :
    LaneCompletes (.voteMask d a) (pairRegs d ++ [a]) [(.any, a)]
      (fun _ w g t => t.setPair d (BitVec.ofNat 64 (g.map (fun u => if u.val a = 0 then 0 else 2 ^ (u.lane % w))).sum) .x64) :=
  .of_laneWord (fun _ => rfl) (fun _ _ _ _ => rfl) (fun s w g t _ _ => by rw [State.laneOn, voteMask_acted]) fun _ => by simp

theorem gfirst_acted (w : Nat) (a : Reg) (g : List Thread) :
    (match (g.map Thread.acted).find? (fun u => u.val a != 0) with
      | some u => BitVec.ofNat 32 (relLane w u)
      | none => 0xFFFFFFFF) =
    match g.find? (fun u => u.val a != 0) with
      | some u => BitVec.ofNat 32 (u.lane % w)
      | none => 0xFFFFFFFF := by
  have hfind : (g.map Thread.acted).find? (fun u => u.val a != 0) = (g.find? (fun u => u.val a != 0)).map Thread.acted := List.find?_map ..
  rw [hfind]
  cases g.find? (fun u => u.val a != 0) <;> rfl

/-- A reduction writes the register d of every lane of its group. -/
theorem LaneCompletes.of_reduction {i : Instr} {d : Reg} {named : List Reg} {reads : List (Cls × Reg)} {k : Tag}
    {V : Nat → (Thread → Nat) → List Thread → Thread → Word} {v : State → Nat → List Thread → Thread → Word}
    (hi : ∀ s, exec i s = .next (laneWord named reads (fun w n ts t => t.setReg d (V w n ts t) k) s))
    (hv : ∀ s w g t, g ≠ [] → V w (fun u => (s.fieldFrac u).getD 0) (g.map Thread.acted) t = v s w g t) :
    LaneCompletes i named reads (fun s w g t => t.setReg d (v s w g t) k) :=
  .of_laneWord hi (fun _ _ _ _ => rfl) (fun s w g t _ hne => congrArg (t.setReg d · k) (hv s w g t hne)) fun _ hq => hq

theorem laneReductionResults : Claims.LaneReductionResults := fun d a =>
  ⟨.of_reduction (fun _ => rfl) fun _ _ g _ _ => by simp [flag],
    .of_reduction (fun _ => rfl) fun _ _ g _ _ => by simp [flag],
    voteMask_completes d a,
    .of_reduction (fun _ => rfl) fun s _ g _ _ => laneSum_acted g s a,
    .of_reduction (fun _ => rfl) fun s _ g t _ => by rw [upTo_acted, laneSum_acted],
    .of_reduction (fun _ => rfl) fun s _ g _ hne => laneBest_acted hne s a minI_assoc minI_greatest minI_eq,
    .of_reduction (fun _ => rfl) fun s _ g _ hne => laneBest_acted hne s a maxI_assoc maxI_least maxI_eq_of_slt,
    .of_reduction (fun _ => rfl) fun s _ g _ _ => laneFsum_acted g s a,
    .of_reduction (fun _ => rfl) fun s _ g t _ => by rw [upTo_acted, laneFsum_acted],
    .of_reduction (fun _ => rfl) fun _ w g _ _ => gfirst_acted w a g⟩

/-- Settles O8: one group issues a lane word as one party, and what each lane gets depends on registers that the word's issue leaves. -/
theorem laneResults : Obligations.LaneResults := ⟨laneShuffleResults, laneReductionResults⟩

end Sys2Proof.Machine

/-!
# Floating-point words, conversions and LNS6

Each word of majors 0x18 to 0x1C acts on registers by one of the shapes below. What remains is what its function of bit patterns computes.
-/
namespace Sys2Proof.Machine

/-! ### Parts of a word as numbers (06 R148, R151) -/

theorem toNat_append_eq_add {m n : Nat} (x : BitVec m) (y : BitVec n) : (x ++ y).toNat = x.toNat * 2 ^ n + y.toNat := by
  rw [BitVec.toNat_append, ← Nat.shiftLeft_add_eq_or_of_lt y.isLt, Nat.shiftLeft_eq]

theorem toNat_extractLsb'_eq_mod {w : Nat} (x : BitVec w) (start len : Nat) :
    (x.extractLsb' start len).toNat = x.toNat / 2 ^ start % 2 ^ len := by
  rw [BitVec.extractLsb'_toNat, Nat.shiftRight_eq_div_pow]

theorem elem_eq_half (x : Word) (i : Nat) : elem x i = half x i := (toNat_extractLsb'_eq_mod x (16 * i) 16).symm

theorem elem_zero (x : Word) : elem x 0 = x.toNat % 2 ^ 16 := by
  rw [elem]
  omega

theorem elem_one (x : Word) : elem x 1 = x.toNat / 2 ^ 16 := by
  have := x.isLt
  rw [elem]
  omega

theorem packElems_eq_twoHalves (lo hi : Nat) : packElems lo hi = twoHalves lo hi := by
  refine BitVec.eq_of_toNat_eq ?_
  rw [packElems, w32, BitVec.toNat_ofNat, twoHalves, toNat_append_eq_add, BitVec.toNat_ofNat, BitVec.toNat_ofNat]
  omega

theorem w32_lcode (x : Word) (i : Nat) : w32 (lcode x i) = (x.extractLsb' (6 * i) 6).setWidth 32 := by
  rw [← BitVec.ofNat_toNat, toNat_extractLsb'_eq_mod]
  rfl

/-- `lpack` drops code 0 of the first word and puts code 0 of the second above its other four codes (06 R157). -/
theorem lpack_eq_append (x y : Word) :
    w32 (x.toNat / 64 % 2 ^ 24 + y.toNat % 64 * 2 ^ 24) = (0#2 ++ y.extractLsb' 0 6) ++ x.extractLsb' 6 24 := by
  refine BitVec.eq_of_toNat_eq ?_
  simp only [w32, BitVec.toNat_ofNat, toNat_append_eq_add, toNat_extractLsb'_eq_mod]
  omega

/-! ### Functions of f32 patterns (06 R144, R150) -/

/-- Negation turns the sign bit over, which adds 2^31 to the pattern. -/
theorem f32_negate_toNat (x : Word) :
    f32.negate x.toNat = if f32.isNan x.toNat then 0x7FC00000 else (x.toNat + 2 ^ 31) % 2 ^ 32 := by
  have hnan : f32.nan = 0x7FC00000 := rfl
  have hsign : f32.signBit = 2 ^ 31 := rfl
  have hlt := x.isLt
  rw [Fmt.negate, hnan, f32_neg?_toNat, Fmt.signed, Fmt.mag, hsign]
  refine if_congr Iff.rfl rfl ?_
  by_cases hneg : 2 ^ 31 ≤ x.toNat
  · simp only [BitVec.msb_eq_decide, hneg, decide_true, Bool.not_true, Bool.false_eq_true, if_false]
    omega
  · simp only [BitVec.msb_eq_decide, hneg, decide_false, Bool.not_false, if_true]
    omega

/-- A count that is no negative number is rounded as an integer with a positive sign. -/
theorem round_natCast (f : Fmt) (rnd : Nat) (sat : Bool) (n : Nat) : f.round rnd sat false n 0 false = f.roundInt rnd sat false n 0 := by
  by_cases h : n = 0
  · simp [Fmt.roundInt, Fmt.round, h]
  · rw [Fmt.roundInt, if_neg (Int.natCast_ne_zero.mpr h), decide_eq_false (Int.not_lt.mpr (Int.natCast_nonneg n)), Int.natAbs_natCast]

theorem flag_eq_w32 (p : Bool) : flag p = w32 (if p then 1 else 0) := by cases p <;> rfl

/-! ### Completion by the shape of a word (06 R143) -/

section
variable {i : Instr} {d a b : Reg} {c : Cls} {k : Tag}

theorem setsFloat2_of_fl2 {v : Nat → Bool → Nat → Nat → Nat} (hi : ∀ s, exec i s = .next (fl2 d a b v s)) : SetsFloat2 i d a b .f32 v :=
  .of_act hi (.of_setReg fun _ _ _ => rfl) fun _ _ _ => rfl

theorem setsFloat1_of_fl1 {v w : Nat → Bool → Nat → Nat} (hi : ∀ s, exec i s = .next (fl1 d a k v s))
    (hv : ∀ rnd sat (x : Word), v rnd sat x.toNat = w rnd sat x.toNat) : SetsFloat1 i d a k w :=
  .of_act hi (.of_setReg fun _ _ _ => rfl) fun _ h _ => congrArg (fun n => Thread.setReg _ d (w32 n) (h.tag k)) (hv _ _ _)

theorem setsFloat2_of_flCmp {v : Nat → Nat → Bool} (hi : ∀ s, exec i s = .next (flCmp d a b v s)) :
    SetsFloat2 i d a b .int (fun _ _ x y => if v x y then 1 else 0) :=
  .of_act hi (.of_setReg fun _ _ _ => rfl) fun _ h _ => congrArg (Thread.setReg _ d · (h.tag .int)) (flag_eq_w32 _)

theorem setsDouble2_of_db2 {v : Nat → Bool → Nat → Nat → Nat} (hi : ∀ s, exec i s = .next (db2 d a b v s)) : SetsDouble2 i d a b v :=
  Completes.of_subset (named := fun _ => pairRegs d ++ pairRegs a ++ pairRegs b) (named' := fun _ => pairNames d ++ pairNames a ++ pairNames b)
    (.of_act hi (.of_setPair fun _ _ _ => rfl) fun _ _ _ => rfl) fun _ _ => by simp

theorem tests2_of_dbCmp {v : Nat → Nat → Bool} (hi : ∀ s, exec i s = .next (dbCmp d a b v s)) :
    Tests2 i d a b .f64 (fun h => h.tag .int) (fun x y => v x.toNat y.toNat) :=
  (Completes.of_act (named := fun _ => [d] ++ pairNames a ++ pairNames b) hi (.of_setReg fun _ _ _ => rfl) fun _ _ _ => rfl).of_subset
    fun _ _ => by simp

theorem setsPacked_of_packed2 {v : Nat → Bool → Nat → Nat → Nat} (hi : ∀ s, exec i s = .next (packed2 c k d a b v s)) :
    SetsPacked i d a b c k v :=
  .of_act hi (.of_setReg fun _ _ _ => rfl) fun _ _ _ => by simp only [packElems_eq_twoHalves, elem_eq_half]

theorem setsPackedFma_of_packedFma {f : Fmt} (hi : ∀ s, exec i s = .next (packedFma f c k d a b s)) : SetsPackedFma i d a b c k f :=
  .of_act hi (.of_setReg fun _ _ _ => rfl) fun _ _ _ => by simp only [packElems_eq_twoHalves, elem_eq_half]

theorem setsDot_of_packedDot {f : Fmt} (hi : ∀ s, exec i s = .next (packedDot f c d a b s)) : SetsDot i d a b c f :=
  .of_act hi (.of_setReg fun _ _ _ => rfl) fun _ _ _ => by simp only [elem_eq_half]; rfl

theorem setsConv_of_conv1 {v : Hints → Nat → Word → Word} {w : Hints → Word → Word} (hi : ∀ s, exec i s = .next (conv1 c d a k v s))
    (hv : ∀ h n x, v h n x = w h x) : SetsConv i d a c k w :=
  .of_act hi (.of_setReg fun _ _ _ => rfl) fun _ h _ => congrArg (Thread.setReg _ d · (h.tag k)) (hv _ _ _)

theorem setsConv_of_elem {f : Fmt} {j : Nat} {part : Word → Nat}
    (hi : ∀ s, exec i s = .next (conv1 c d a k (fun _ _ x => w32 (f32.ofVal 0 false (f.val (elem x j)))) s))
    (hpart : ∀ x, elem x j = part x) : SetsConv i d a c k (fun _ x => w32 (f32.ofVal 0 false (f.val (part x)))) :=
  setsConv_of_conv1 hi fun _ _ x => congrArg (fun n => w32 (f32.ofVal 0 false (f.val n))) (hpart x)

theorem convWide_completes {v : Word → Pair} (hi : ∀ s, exec i s = .next (convWide c d a v s)) :
    Completes i (fun _ => pairRegs d ++ [a]) (fun _ => [(c, a)]) (fun s h t => t.setPair d (v (s.operand t c a)) (h.tag .d64)) :=
  (Completes.of_act (named := fun _ => pairNames d ++ [a]) hi (.of_setPair fun _ _ _ => rfl) fun _ _ _ => rfl).of_subset fun _ _ => by simp

theorem convNarrow_completes {v : Hints → Pair → Word} (hi : ∀ s, exec i s = .next (convNarrow d a k v s)) :
    Completes i (fun _ => [d] ++ pairRegs a) (fun _ => [(.f64, a)]) (fun _ h t => t.setReg d (v h (t.pair a)) (h.tag k)) :=
  (Completes.of_act (named := fun _ => [d] ++ pairNames a) hi (.of_setReg fun _ _ _ => rfl) fun _ _ _ => rfl).of_subset fun _ _ => by simp

theorem setsPack_of_convPack {f : Fmt} (hi : ∀ s, exec i s = .next (convPack f k d a b s)) : SetsPack i d a b k f :=
  .of_act hi (.of_setReg fun _ _ _ => rfl) fun _ _ _ => by simp only [packElems_eq_twoHalves]; rfl

end

/-! ### f32, f64 and packed arithmetic (06 R144 to R149) -/

theorem singleFloatResults : Claims.SingleFloatResults := fun _ _ _ =>
  ⟨setsFloat2_of_fl2 fun _ => rfl, setsFloat2_of_fl2 fun _ => rfl, setsFloat2_of_fl2 fun _ => rfl, setsFloat2_of_fl2 fun _ => rfl,
    setsFloat2_of_fl2 fun _ => rfl, setsFloat2_of_fl2 fun _ => rfl, setsFloat2_of_flCmp fun _ => rfl, setsFloat2_of_flCmp fun _ => rfl,
    setsFloat2_of_flCmp fun _ => rfl, setsFloat2_of_flCmp fun _ => rfl, setsFloat1_of_fl1 (fun _ => rfl) fun _ _ _ => rfl,
    setsFloat1_of_fl1 (fun _ => rfl) fun _ _ => f32_negate_toNat, setsFloat1_of_fl1 (fun _ => rfl) fun _ _ _ => rfl,
    setsFloat1_of_fl1 (fun _ => rfl) fun _ _ _ => rfl, setsFloat1_of_fl1 (fun _ => rfl) fun _ _ _ => rfl,
    setsFloat1_of_fl1 (fun _ => rfl) fun _ _ _ => rfl, setsFloat1_of_fl1 (fun _ => rfl) fun _ _ _ => rfl,
    setsFloat1_of_fl1 (fun _ => rfl) fun _ _ _ => rfl, setsFloat1_of_fl1 (fun _ => rfl) fun _ _ _ => rfl,
    .of_act (fun _ => rfl) (.of_setReg fun _ _ _ => rfl) fun _ _ _ => rfl⟩

theorem dsqrt_completes (d a : Reg) :
    Completes (.dsqrt d a) (fun _ => pairRegs d ++ pairRegs a) (fun _ => [(.f64, a)])
      (fun _ h t => t.setPair d (w64 (f64.sqrt h.rnd h.sat (t.pair a).toNat)) (h.tag .d64)) :=
  .of_subset (named' := fun _ => pairNames d ++ pairNames a) (.of_act (fun _ => rfl) (.of_setPair fun _ _ _ => rfl) fun _ _ _ => rfl)
    fun _ _ => by simp

theorem dfma_completes (d a b : Reg) :
    Completes (.dfma d a b) (fun _ => pairRegs d ++ pairRegs a ++ pairRegs b) (fun _ => [(.f64, d), (.f64, a), (.f64, b)])
      (fun _ h t => t.setPair d (w64 (f64.fma h.rnd h.sat (t.pair a).toNat (t.pair b).toNat (t.pair d).toNat)) (h.tag .d64)) :=
  .of_subset (named' := fun _ => pairNames d ++ pairNames a ++ pairNames b)
    (.of_act (fun _ => rfl) (.of_setPair fun _ _ _ => rfl) fun _ _ _ => rfl) fun _ _ => by simp

theorem doubleFloatResults : Claims.DoubleFloatResults := fun d a b =>
  ⟨setsDouble2_of_db2 fun _ => rfl, setsDouble2_of_db2 fun _ => rfl, setsDouble2_of_db2 fun _ => rfl, setsDouble2_of_db2 fun _ => rfl,
    setsDouble2_of_db2 fun _ => rfl, setsDouble2_of_db2 fun _ => rfl, tests2_of_dbCmp fun _ => rfl, tests2_of_dbCmp fun _ => rfl,
    tests2_of_dbCmp fun _ => rfl, dsqrt_completes d a, dfma_completes d a b⟩

theorem packedFloatResults : Claims.PackedFloatResults := fun _ _ _ =>
  ⟨setsPacked_of_packed2 fun _ => rfl, setsPacked_of_packed2 fun _ => rfl, setsPacked_of_packed2 fun _ => rfl,
    setsPacked_of_packed2 fun _ => rfl, setsPacked_of_packed2 fun _ => rfl, setsPacked_of_packed2 fun _ => rfl,
    setsPacked_of_packed2 fun _ => rfl, setsPacked_of_packed2 fun _ => rfl, setsPackedFma_of_packedFma fun _ => rfl,
    setsPackedFma_of_packedFma fun _ => rfl, setsDot_of_packedDot fun _ => rfl, setsDot_of_packedDot fun _ => rfl⟩

/-- Settles O6: each word has one of the shapes above; `fneg` adds the sign bit, and packed words are their two halves. -/
theorem floatResults : Obligations.FloatResults := ⟨singleFloatResults, doubleFloatResults, packedFloatResults⟩

/-! ### Conversions (06 R150) -/

theorem conversionResults : Claims.ConversionResults := fun _ _ _ =>
  ⟨setsConv_of_conv1 (fun _ => rfl) fun _ _ _ => rfl, setsConv_of_conv1 (fun _ => rfl) fun _ _ _ => congrArg w32 (round_natCast ..),
    setsConv_of_conv1 (fun _ => rfl) fun _ _ _ => rfl, setsConv_of_conv1 (fun _ => rfl) fun _ _ _ => rfl,
    setsConv_of_elem (fun _ => rfl) elem_zero, setsConv_of_elem (fun _ => rfl) elem_one, setsConv_of_elem (fun _ => rfl) elem_zero,
    setsConv_of_elem (fun _ => rfl) elem_one,
    convWide_completes (v := fun x => w64 (f64.ofVal 0 false (f32.val x.toNat))) fun _ => rfl,
    convWide_completes (v := fun x => w64 (f64.roundInt 0 false false x.toInt 0)) fun _ => rfl,
    convNarrow_completes (v := fun h x => w32 (f32.ofVal h.rnd h.sat (f64.val x.toNat))) fun _ => rfl,
    convNarrow_completes (v := fun h x => BitVec.ofInt 32 (f64.toInt h.rnd 0 (-(2 ^ 31)) (2 ^ 31 - 1) x.toNat)) fun _ => rfl,
    setsPack_of_convPack fun _ => rfl, setsPack_of_convPack fun _ => rfl⟩

/-! ### LNS6 (06 R154 to R159) -/

/-- What `ldot` names and reads: three registers, and with an `hx` hint the pair of scales at c too (06 R159). -/
def ldotShape (d a b : Reg) (h : Hints) : Shape :=
  match h.hx with
  | none => { named := [d, a, b], reads := [(.f32, d), (.l5, a), (.l5, b)] }
  | some (_, c) => { named := [d, a, b] ++ pairNames c, reads := [(.f32, d), (.l5, a), (.l5, b), (.sc, c), (.sc, c + 1)] }

section
variable {s : State} {st : Strand} {d a b : Reg}

/-- `ldot` completes where its scales, if it has any, are at an even register and its operands pass the checks. -/
theorem ldot_next (hs : Issuing s st) (hmore : st.more) (heven : (st.hints.hx.isSome && st.hints.c.toNat % 2 == 1) = false)
    (hr : AllReady s st (ldotShape d a b st.hints).named (ldotShape d a b st.hints).reads) :
    exec (.ldot d a b) s = .next (s.wordDone st (fun t => t.setReg d (w32 (ldotV st.hints.rnd st.hints.sat
      (s.operand t .f32 d).toNat (t.val a) (t.val b) (ldotScale st.hints t 0) (ldotScale st.hints t 1))) (st.hints.tag .f32))) := by
  have hlevel : (ldotShape d a b st.hints).level = .user := by rw [ldotShape]; split <;> rfl
  have hpast : (ldotShape d a b st.hints).past = none := by rw [ldotShape]; split <;> rfl
  exact congrArg Host.Outcome.next (regWord_next hs (.of_setReg fun _ _ _ => rfl) hmore heven nofun hlevel hpast hr)

/-- Without an `hx` hint both scales are 127. -/
theorem ldot_next_without_scales (hs : Issuing s st) (hmore : st.more) (hhx : st.hints.hx = none)
    (hr : AllReady s st [d, a, b] [(.f32, d), (.l5, a), (.l5, b)]) :
    exec (.ldot d a b) s = .next (s.wordDone st (fun t => t.setReg d
      (w32 (ldotV st.hints.rnd st.hints.sat (s.operand t .f32 d).toNat (t.val a) (t.val b) 127 127)) (st.hints.tag .f32))) := by
  have hscale : ∀ t k, ldotScale st.hints t k = 127 := fun t k => by simp only [ldotScale, hhx]
  rw [ldot_next hs hmore (by rw [hhx]; rfl) (by simpa only [ldotShape, hhx] using hr)]
  simp only [hscale]

/-- With an `hx` hint the scales stand in its even register and the one after it. -/
theorem ldot_next_with_scales {m : BitVec 17} {c : Reg} (hs : Issuing s st) (hmore : st.more) (hhx : st.hints.hx = some (m, c))
    (heven : c.toNat % 2 = 0) (hr : AllReady s st ([d, a, b] ++ pairRegs c) [(.f32, d), (.l5, a), (.l5, b), (.sc, c), (.sc, c + 1)]) :
    exec (.ldot d a b) s = .next (s.wordDone st (fun t => t.setReg d
      (w32 (ldotV st.hints.rnd st.hints.sat (s.operand t .f32 d).toNat (t.val a) (t.val b) ((t.val c).toNat % 256)
        ((t.val (c + 1)).toNat % 256))) (st.hints.tag .f32))) := by
  have hr' : AllReady s st ([d, a, b] ++ pairNames c) [(.f32, d), (.l5, a), (.l5, b), (.sc, c), (.sc, c + 1)] := fun n hn t ht =>
    (hr n hn t ht).of_subset fun _ => by simp
  have hscales : ∀ t : Thread, ldotScale st.hints t 0 = (t.val c).toNat % 256 ∧ ldotScale st.hints t 1 = (t.val (c + 1)).toNat % 256 :=
    fun t => by simp only [ldotScale, hhx, BitVec.ofNat_eq_ofNat, BitVec.add_zero, and_self]
  rw [ldot_next hs hmore (by simp [Hints.c, hhx, heven]) (by simpa only [ldotShape, hhx] using hr')]
  simp only [hscales]

end

theorem logFormatResults : Claims.LogFormatResults := fun _ _ _ j =>
  ⟨.of_act (fun _ => rfl) (.of_setReg fun _ _ _ => rfl) fun _ _ _ => rfl, .of_act (fun _ => rfl) (fun _ _ _ => rfl) fun _ _ _ => rfl,
    .of_act (fun _ => rfl) (.of_setReg fun _ _ _ => rfl) fun _ _ t => by rw [lpack_eq_append],
    fun _ => .of_act (fun _ => rfl) (.of_setReg fun _ _ _ => rfl) fun _ _ t => by rw [w32_lcode],
    .of_act (fun _ => rfl) (.of_setReg fun _ _ _ => rfl) fun _ _ _ => rfl,
    .of_act (fun _ => rfl) (.of_setReg fun _ _ _ => rfl) fun _ _ _ => rfl,
    fun _ _ hs hmore hhx hr => ldot_next_without_scales hs hmore hhx hr,
    fun _ _ _ _ hs hmore hhx heven hr => ldot_next_with_scales hs hmore hhx heven hr⟩

/-- Settles O7: a natural number is rounded as an integer, halves and codes are slices of their words, and an `hx` hint gives `ldot` its
scales. -/
theorem conversionAndLogResults : Obligations.ConversionAndLogResults := ⟨conversionResults, logFormatResults⟩

end Sys2Proof.Machine

/-!
# The checks of a memory access
-/
namespace Sys2Proof.Machine

/-! ### Accesses to scratch spaces (07 R165) -/

theorem scratchAccessChecks : Claims.ScratchAccessChecks := by
  intro s t sp z o _
  refine ⟨fun hmis => if_pos hmis, fun hal hout => ?_, fun n ho hal hin => ?_⟩
  · simp [State.scratchAccess, hal, hout]
  · subst ho
    have hal' : (n : Int) % z = 0 := by exact_mod_cast hal
    have hin' : ¬ (s.region t sp).1 < n + z := by omega
    have hin'' : ¬ ((s.region t sp).1 : Int) < n + z := by exact_mod_cast hin'
    simp [State.scratchAccess, hal', hin'']

/-! ### Accesses to memory, once translated (07 R167, 14 R317) -/

section
variable {s q : State} {t : Thread} {x : Trans} {ea : Pair} {z pol : Nat} {n : Need}

theorem State.globalAccess_of_bad {aux : Word} (hcanon : canonical ea = true) (hal : ea.toNat % z = 0)
    (h : s.translate t ea = (q, .bad aux)) :
    s.globalAccess t ea z pol none n = (q, .error (.fault { code := 0x0501, addr := ea, aux := aux })) := by
  simp [State.globalAccess, hcanon, hal, h]

theorem State.globalAccess_of_wait {wid : Nat} (hcanon : canonical ea = true) (hal : ea.toNat % z = 0)
    (h : s.translate t ea = (q, .wait wid)) : s.globalAccess t ea z pol none n = (q, .error (.leave (.walk wid))) := by
  simp [State.globalAccess, hcanon, hal, h]

theorem State.globalAccess_of_pageFault {f : FaultInfo} (hcanon : canonical ea = true) (hal : ea.toNat % z = 0)
    (h : s.translate t ea = (q, .hit x)) (hf : q.pageChecks t x ea n = some f) :
    s.globalAccess t ea z pol none n = (q, .error (.fault f)) := by
  simp [State.globalAccess, hcanon, hal, h, hf]

theorem State.globalAccess_of_pagePasses (hcanon : canonical ea = true) (hal : ea.toNat % z = 0)
    (h : s.translate t ea = (q, .hit x)) (hf : q.pageChecks t x ea n = none) :
    s.globalAccess t ea z pol none n = (q, .ok (mkAccess x ea z pol)) := by
  simp [State.globalAccess, hcanon, hal, h, hf]

theorem State.pageChecks_of_class {code : Nat} {aux : Word} (h : n.ofClass x.cls = some (code, aux)) :
    s.pageChecks t x ea n = some { code := code, addr := ea, aux := aux } := by
  simp [State.pageChecks, h]

theorem State.pageChecks_of_unwritable (hcls : n.ofClass x.cls = none) (hwrite : n.write = true) (hw : x.w = false) :
    s.pageChecks t x ea n = some { code := 0x0504, addr := ea } := by
  simp [State.pageChecks, hcls, hwrite, hw]

theorem State.pageChecks_of_local (hcls : n.ofClass x.cls = none) (hw : n.write = true → x.w = true) (hpeer : x.peer = none) :
    s.pageChecks t x ea n = none := by
  have hwritable : (n.write && !x.w) = false := by simpa using hw
  simp [State.pageChecks, hcls, hwritable, hpeer]

theorem State.pageChecks_of_peer {dev : Nat} (hcls : n.ofClass x.cls = none) (hw : n.write = true → x.w = true) (hpeer : x.peer = some dev) :
    s.pageChecks t x ea n = (s.peerCheck (s.slotOf t) dev).map (fun cause => { code := 0x0901, addr := ea, aux := cause }) := by
  have hwritable : (n.write && !x.w) = false := by simpa using hw
  simp [State.pageChecks, hcls, hwritable, hpeer]

/-! ### Translation at issue (07 R166, 08 R186, R187) -/

/-- An L1 TLB entry serves, otherwise one of the L2 TLB, which fills the L1 TLB. -/
theorem State.translate_of_hit
    (h : ((s.core t.core).l1tlb.find? (fun y => y.hits (s.slot (s.slotOf t)) (va57 ea)) = some x ∧ q = s.fillL1Tlb t.core x) ∨
      ((s.core t.core).l1tlb.find? (fun y => y.hits (s.slot (s.slotOf t)) (va57 ea)) = none ∧
        (s.die (dieOf t.core)).l2tlb.find? (fun y => y.hits (s.slot (s.slotOf t)) (va57 ea)) = some x ∧
        q = (s.fillL2Tlb (dieOf t.core) x).fillL1Tlb t.core x)) :
    s.translate t ea = (q, .hit x) ∧ ∀ dev, q.peerCheck (q.slotOf t) dev = s.peerCheck (s.slotOf t) dev := by
  rw [State.translate_eq_hit, State.tlbLookup]
  rcases h with ⟨h1, rfl⟩ | ⟨h1, h2, rfl⟩
  · exact ⟨by simp only [h1], fun _ => rfl⟩
  · exact ⟨by simp only [h1, h2], fun _ => rfl⟩

theorem State.tlbLookup_eq_none {core slot va : Nat} (h1 : (s.core core).l1tlb.find? (fun y => y.hits (s.slot slot) va) = none)
    (h2 : (s.die (dieOf core)).l2tlb.find? (fun y => y.hits (s.slot slot) va) = none) : s.tlbLookup core slot va = none := by
  simp only [State.tlbLookup, h1, h2]

theorem State.translate_of_failedWalk {aux : Word} (hmiss : s.tlbLookup t.core (s.slotOf t) (va57 ea) = none)
    (h : s.failedWalk t (va57 ea / 4096) = some aux) : s.translate t ea = (s, .bad aux) := by
  simp only [State.translate, hmiss, h]

theorem State.translate_of_joinedWalk {k : Walk} (hmiss : s.tlbLookup t.core (s.slotOf t) (va57 ea) = none)
    (h : s.failedWalk t (va57 ea / 4096) = none) (hk : s.walkOf (dieOf t.core) (s.slotOf t) (va57 ea / 4096) = some k) :
    s.translate t ea = (s, .wait k.wid) := by
  simp only [State.translate, hmiss, h, State.requestWalk, hk]

/-- The machine in which a walk for a page of a thread's context has been queued on the thread's die. -/
def State.queueWalk (s : State) (t : Thread) (vpage : Nat) : State :=
  { s with nextId := s.nextId + 1, walks := s.walks ++
      [{ wid := s.nextId, die := dieOf t.core, slot := s.slotOf t, cid := (s.slot (s.slotOf t)).cid, vpage := vpage }] }

theorem State.translate_of_queuedWalk (hmiss : s.tlbLookup t.core (s.slotOf t) (va57 ea) = none)
    (h : s.failedWalk t (va57 ea / 4096) = none) (hk : s.walkOf (dieOf t.core) (s.slotOf t) (va57 ea / 4096) = none) :
    s.translate t ea = (s.queueWalk t (va57 ea / 4096), .wait s.nextId) := by
  simp only [State.translate, hmiss, h, State.requestWalk, hk]
  rfl

end

/-! ### The check of a peer (14 R317) -/

section
variable {s : State} {slot dev : Nat}

theorem State.peerCheck_of_noTag (h : (s.slot slot).ctagV = false) : s.peerCheck slot dev = some 1 := by
  simp [State.peerCheck, h]

theorem State.peerCheck_of_unreachable (htag : (s.slot slot).ctagV = true) (h : 512 < dev / 32 ∨ s.peerView dev = 2) :
    s.peerCheck slot dev = some 0 := by
  simp [State.peerCheck, htag, h]

theorem State.peerCheck_of_passes (htag : (s.slot slot).ctagV = true) (hgroup : dev / 32 ≤ 512) (hview : s.peerView dev ≠ 2) :
    s.peerCheck slot dev = none := by
  simp [State.peerCheck, htag, hview, Nat.not_lt.mpr hgroup]

end

theorem globalAccessChecks : Claims.GlobalAccessChecks := by
  intro s t ea z pol n _
  refine ⟨fun h => by simp [State.globalAccess, h], fun hcanon hmis => by simp [State.globalAccess, hcanon, hmis], ?_⟩
  intro slot inL1 inL2 hcanon hal
  refine ⟨fun x q hq => ?_, fun h1 h2 => ?_⟩
  · obtain ⟨hhit, hcheck⟩ := State.translate_of_hit hq
    refine ⟨fun code aux h => ?_, fun hcls hwrite hw => ?_, fun hcls hw => ⟨fun hpeer => ?_, fun dev hpeer => ?_⟩⟩
    · exact State.globalAccess_of_pageFault hcanon hal hhit (State.pageChecks_of_class h)
    · exact State.globalAccess_of_pageFault hcanon hal hhit (State.pageChecks_of_unwritable hcls hwrite hw)
    · exact State.globalAccess_of_pagePasses hcanon hal hhit (State.pageChecks_of_local hcls hw hpeer)
    · have hpage := State.pageChecks_of_peer (s := q) (t := t) (ea := ea) hcls hw hpeer
      rw [hcheck] at hpage
      refine ⟨fun htag => ?_, fun htag hbad => ?_, fun htag hgroup hview => ?_⟩
      · rw [State.peerCheck_of_noTag htag] at hpage
        exact State.globalAccess_of_pageFault hcanon hal hhit hpage
      · rw [State.peerCheck_of_unreachable htag hbad] at hpage
        exact State.globalAccess_of_pageFault hcanon hal hhit hpage
      · rw [State.peerCheck_of_passes htag hgroup hview] at hpage
        exact State.globalAccess_of_pagePasses hcanon hal hhit hpage
  · have hmiss := State.tlbLookup_eq_none h1 h2
    refine ⟨fun aux h => State.globalAccess_of_bad hcanon hal (State.translate_of_failedWalk hmiss h), fun h => ?_⟩
    exact ⟨fun k hk => State.globalAccess_of_wait hcanon hal (State.translate_of_joinedWalk hmiss h hk),
      fun hk => State.globalAccess_of_wait hcanon hal (State.translate_of_queuedWalk hmiss h hk)⟩

/-- Settles O14: a scratch access is checked in place; a global one stops at the first check that fails, and what its translation gives decides
the rest. -/
theorem accessChecks : Obligations.AccessChecks := ⟨scratchAccessChecks, globalAccessChecks⟩

end Sys2Proof.Machine

/-!
# Operations that complete
-/
namespace Sys2Proof.Machine

/-! ### The first operation that is done (04 R106) -/

theorem firstDone_eq_none {l : List Op} (h : ∀ p ∈ l, p.arrived = false) (seen : List (Nat × Ctr)) : firstDone l seen = none := by
  induction l generalizing seen with
  | nil => rfl
  | cons p r ih =>
    obtain ⟨hp, hr⟩ := List.forall_mem_cons.mp h
    simp [firstDone, hp, ih hr]

/-- An operation that has arrived is the first that is done where those before it have not arrived and are of other threads. -/
theorem firstDone_append {pre post : List Op} {o : Op} (hpre : ∀ p ∈ pre, p.arrived = false ∧ p.tid ≠ o.tid) (ho : o.arrived = true)
    {seen : List (Nat × Ctr)} (hseen : (o.tid, o.cls) ∉ seen) : firstDone (pre ++ o :: post) seen = some o := by
  induction pre generalizing seen with
  | nil => simp [firstDone, ho, hseen]
  | cons p r ih =>
    obtain ⟨⟨hp, htid⟩, hr⟩ := List.forall_mem_cons.mp hpre
    have hseen' : (o.tid, o.cls) ∉ seen ++ [(p.tid, p.cls)] := by simp [hseen, Ne.symm htid]
    simp [firstDone, hp, ih hr hseen']

section
variable {s s' : State} {o : Op}

/-- The place of an operation whose turn it is: those before it are of other threads, and none has arrived. -/
theorem State.nextToRetire.place (h : s.nextToRetire o) : ∃ pre post, s.ops = pre ++ o :: post ∧
    (∀ p ∈ pre, p.id ≠ o.id ∧ p.arrived = false ∧ p.tid ≠ o.tid) ∧ ∀ p ∈ post, p.id ≠ o.id ∧ p.arrived = false := by
  obtain ⟨hfind, harr, hnodup, hfirst⟩ := h
  obtain ⟨-, pre, post, hops, hpre⟩ := List.find?_eq_some_iff_append.mp hfind
  have hpre' : ∀ p ∈ pre, (p.id != o.id) = true := by simpa using hpre
  rw [hops] at harr hnodup hfirst
  rw [List.takeWhile_append_of_pos hpre', List.takeWhile_cons_of_neg (by simp), List.append_nil, List.all_eq_true] at hfirst
  rw [List.map_append, List.map_cons] at hnodup
  have hpost := (List.nodup_cons.mp (List.nodup_append.mp hnodup).2.1).1
  refine ⟨pre, post, hops, fun p hp => ⟨by simpa using hpre' p hp, harr p (by simp [hp]), by simpa using hfirst p hp⟩, fun p hp =>
    ⟨fun hid => hpost (List.mem_map.mpr ⟨p, hp, hid⟩), harr p (by simp [hp])⟩⟩

theorem State.nextToRetire.of_ops (h : s.nextToRetire o) (hops : s'.ops = s.ops) : s'.nextToRetire o := by
  simpa only [State.nextToRetire, State.op?, hops] using h

theorem State.nextToRetire.op (h : s.nextToRetire o) : s.op? o.id = some o := h.1

theorem State.nextToRetire.arrived (h : s.nextToRetire o) : o.arrived = false := h.2.1 o (List.mem_of_find?_eq_some h.1)

theorem State.nextToRetire.earlier (h : s.nextToRetire o) : s.earlier o = [] := by
  rw [State.earlier, List.filter_eq_nil_iff]
  intro p hp
  have htid : p.tid ≠ o.tid := by simpa using List.all_eq_true.mp h.2.2.2 p hp
  simp [htid]

/-- A load whose turn it is takes no bytes from its thread's stores: none is in flight before it (07 R172). -/
theorem State.nextToRetire.overlay (h : s.nextToRetire o) (loc : Nat) (bs : List Byte) : s.overlay o loc bs = bs := by
  rw [State.overlay, h.earlier]; rfl

theorem State.nextToRetire.quietBefore (h : s.nextToRetire o) : s.quietBefore o = true := by
  rw [State.quietBefore, h.earlier]; rfl

theorem State.nextToRetire.readsBefore (h : s.nextToRetire o) : s.readsBefore o = true := by
  rw [State.readsBefore, h.earlier]; rfl

end

/-! ### The completion of one operation (04 R106, 07 R168) -/

/-- The operation completes by its values alone: it is of this module, has not faulted, acquires nothing and shows no seal. -/
structure Op.Plain (o : Op) : Prop where
  origin : o.origin = none
  fault : o.fault = none
  kind : (∃ a sg, o.kind = .load a sg none ∧ (a.sp == 0 && a.cls == 2) = false) ∨ (∃ a bs rel, o.kind = .store a bs rel) ∨
    (∃ a f x e pl ord, o.kind = .atomic a f x e pl ord) ∨ ∃ acq rel, o.kind = .fence acq rel

/-- The machine in which an operation has completed with its values. -/
def State.completed (s : State) (o : Op) : State :=
  (({ s with ops := s.ops.filter (fun p => p.id != o.id) } : State).mapThread o.tid (fun t => t.lower o.cls)).mapThread o.tid
    (fun t => if t.state == .exited then t else t.deliver o.dsts o.data o.tag)

theorem Op.Plain.retireOp {o : Op} (h : o.Plain) (s : State) : s.retireOp o = s.completed o := by
  obtain ⟨ho, hf, ⟨a, sg, hk, hseal⟩ | ⟨a, bs, rel, hk⟩ | ⟨a, f, x, e, pl, ord, hk⟩ | ⟨acq, rel, hk⟩⟩ := h
  · simp only [State.retireOp, State.settleSlot, Op.seesSeal, hk, ho, hf, hseal]; rfl
  all_goals simp only [State.retireOp, State.settleSlot, Op.seesSeal, hk, ho, hf]; rfl

theorem Thread.lower_tid (t : Thread) (c : Ctr) : (t.lower c).tid = t.tid := by cases c <;> rfl

theorem Thread.lower_state (t : Thread) (c : Ctr) : (t.lower c).state = t.state := by cases c <;> rfl

theorem Thread.deliver_tid (t : Thread) (ds : List Reg) (vs : List Word) (k : Tag) : (t.deliver ds vs k).tid = t.tid := by
  induction ds generalizing t vs with
  | nil => rfl
  | cons d ds ih =>
    cases vs with
    | nil => rfl
    | cons v vs => rw [Thread.deliver, ih, Thread.setReg_tid]

/-- The machine in which an operation has arrived with a change of it, and has completed. -/
def State.afterArrival (s : State) (o : Op) (f : Op → Op) : State :=
  (s.mapOp o.id (fun p => { f p with arrived := true })).completed { f o with arrived := true }

section
variable {s : State} {o : Op} {f : Op → Op}

theorem State.op?_afterArrival (hid : (f o).id = o.id) : (s.afterArrival o f).op? o.id = none := by
  simp [State.afterArrival, State.completed, State.op?, hid]

theorem State.thread?_completed {t : Thread} (h : s.thread? o.tid = some t) (hstate : t.state ≠ .exited) :
    (s.completed o).thread? o.tid = some ((t.lower o.cls).deliver o.dsts o.data o.tag) := by
  rw [State.completed, State.thread?_mapThread _ _ _ _ (fun t => by split <;> simp [Thread.deliver_tid]),
    State.thread?_mapThread _ _ _ _ (fun t => t.lower_tid _)]
  have hs : ({ s with ops := s.ops.filter (fun p => p.id != o.id) } : State).thread? o.tid = some t := h
  simp [hs, State.thread?_tid h, Thread.lower_tid, Thread.lower_state, hstate]

theorem State.afterArrival_leaves (s : State) (o : Op) (f : Op → Op) : LeavesData s (s.afterArrival o f) := .of_eq rfl rfl rfl rfl

theorem State.retireAll_of_none {n : Nat} (h : firstDone s.ops [] = none) : s.retireAll n = s := by
  cases n with
  | zero => rfl
  | succ n => rw [State.retireAll, h]

/-- An operation whose turn it is, and which completes by its values alone, completes as it arrives; no other does. -/
theorem State.nextToRetire.arrive (h : s.nextToRetire o) (hid : (f o).id = o.id) (htid : (f o).tid = o.tid)
    (hplain : ({ f o with arrived := true } : Op).Plain) : s.arrive o.id f = s.afterArrival o f := by
  obtain ⟨pre, post, hops, hpre, hpost⟩ := h.place
  have hkeep : ∀ l : List Op, (∀ p ∈ l, p.id ≠ o.id) → l.map (fun p => if p.id = o.id then { f p with arrived := true } else p) = l :=
    fun l hl => (List.map_congr_left fun p hp => if_neg (hl p hp)).trans (List.map_id' l)
  have hmap : (s.mapOp o.id (fun p => { f p with arrived := true })).ops = pre ++ { f o with arrived := true } :: post := by
    rw [State.mapOp_ops, hops, List.map_append, List.map_cons, hkeep pre fun p hp => (hpre p hp).1, hkeep post fun p hp => (hpost p hp).1,
      if_pos rfl]
  have hfirst : firstDone (s.mapOp o.id (fun p => { f p with arrived := true })).ops [] = some { f o with arrived := true } := by
    rw [hmap]
    exact firstDone_append (fun p hp => ⟨(hpre p hp).2.1, by simpa [htid] using (hpre p hp).2.2⟩) rfl (by simp)
  have hrest : firstDone (s.afterArrival o f).ops [] = none := by
    refine firstDone_eq_none (fun p hp => ?_) []
    have hp' : p ∈ (s.mapOp o.id (fun p => { f p with arrived := true })).ops ∧ p.id ≠ o.id := by
      simpa [State.afterArrival, State.completed, hid] using hp
    rw [hmap, List.mem_append, List.mem_cons] at hp'
    obtain ⟨hp | rfl | hp, hne⟩ := hp'
    · exact (hpre p hp).2.1
    · exact absurd hid hne
    · exact (hpost p hp).2
  rw [State.arrive, State.retireAll, hfirst]
  simp only [hplain.retireOp]
  exact State.retireAll_of_none hrest

theorem Op.Plain.arrived (h : o.Plain) (ws : List Word) : ({ o with data := ws, arrived := true } : Op).Plain :=
  ⟨h.origin, h.fault, h.kind⟩

/-- The completion as a program sees it: the operation is in flight no longer, the counter of its thread has fallen and its values stand in its
destinations, and data are as before. -/
theorem State.nextToRetire.completes {t : Thread} {ws : List Word} (h : s.nextToRetire o) (hplain : o.Plain)
    (hf : f o = { o with data := ws }) (ht : s.thread? o.tid = some t) (hstate : t.state ≠ .exited) :
    (s.arrive o.id f).op? o.id = none ∧
      (s.arrive o.id f).thread? o.tid = some ((t.lower o.cls).deliver o.dsts ws o.tag) ∧ s.arrive o.id f = s.afterArrival o f := by
  have harrive : s.arrive o.id f = s.afterArrival o f := h.arrive (by rw [hf]) (by rw [hf]) (by rw [hf]; exact hplain.arrived ws)
  refine ⟨?_, ?_, harrive⟩
  · rw [harrive, State.op?_afterArrival (by rw [hf])]
  · rw [harrive, State.afterArrival, hf]
    exact State.thread?_completed (s := s.mapOp o.id (fun p => { f p with arrived := true })) (o := { o with data := ws, arrived := true })
      ht hstate

end

/-! ### Reads through the caches leave data alone (07 R173, 09 R197) -/

theorem State.stir_leaves (s : State) : LeavesData s s.stir := .of_eq rfl rfl rfl rfl

section
variable (s : State) (core die loc n pol : Nat)

theorem State.setRemote_onlyCaches (line : Nat) (l : RemoteLine) : OnlyCaches s (s.setRemote die line l) :=
  ⟨rfl, rfl, rfl, rfl, rfl, .mapDie rfl⟩

theorem State.remoteFetch_onlyCaches (line : Nat) : OnlyCaches s (s.remoteFetch die line) := by
  rw [State.remoteFetch]
  split
  · exact .refl s
  · exact s.setRemote_onlyCaches _ _ _

theorem State.l2Read_onlyCaches : OnlyCaches s (s.l2Read die loc n).1 := by
  rw [State.l2Read]
  split
  · exact .refl s
  · exact s.remoteFetch_onlyCaches _ _

theorem State.l2ReadBy_onlyCaches : OnlyCaches s (s.l2ReadBy die loc n pol).1 := by
  rw [State.l2ReadBy]
  split
  · exact .refl s
  · exact s.l2Read_onlyCaches _ _ _

theorem State.l1Fill_onlyCaches (bytes : List Byte) (mark : Option (Nat × Nat)) (upTo : Nat) (peer : Bool) :
    OnlyCaches s (s.l1Fill core loc bytes mark upTo peer) := by
  refine ⟨rfl, rfl, rfl, rfl, rfl, ?_⟩
  unfold State.l1Fill
  exact (LeavesData.mapCore ⟨rfl, rfl⟩).trans (State.stir_leaves _)

theorem State.cachedRead_onlyCaches : OnlyCaches s (s.cachedRead core loc n pol).1 := by
  rw [State.cachedRead]
  split
  · exact .refl s
  · dsimp only
    split
    · exact ((s.l2ReadBy_onlyCaches _ _ _ _).trans (State.l2Read_onlyCaches _ _ _ _)).trans (State.l1Fill_onlyCaches _ _ _ _ _ _ _)
    · exact s.l2ReadBy_onlyCaches _ _ _ _

theorem State.l2ReadBy_bytes : (s.l2ReadBy die loc n pol).2 = s.l2View die loc n := by
  rw [State.l2ReadBy]
  split <;> rfl

theorem State.cachedRead_hit {l : L1Line} (h : s.l1Line? core loc = some l) :
    (s.cachedRead core loc n pol).2 = Memory.readBytes l.copy (loc % 128) n := by
  simp only [State.cachedRead, h]

theorem State.cachedRead_miss (h : s.l1Line? core loc = none) : (s.cachedRead core loc n pol).2 = s.l2View (dieOf core) loc n := by
  simp only [State.cachedRead, h]
  split <;> exact s.l2ReadBy_bytes _ _ _ _

end

/-! ### Writes of a shared scratch space (07 R162) -/

/-- The array of a scratch space that a core reaches. -/
def State.scratchArray (s : State) (core sp : Nat) : List Host.Cell :=
  match sp with
  | 2 => (s.core core).scratch
  | 3 => Sparse.get [] s.clusters (clusterOf core)
  | 4 => (s.die (dieOf core)).scratch
  | _ => (s.core core).lp

section
variable (s : State) (core sp off : Nat) (bs : List Byte)

theorem State.scratchWrite_mem : (s.scratchWrite core sp off bs).mem = s.mem := by
  unfold State.scratchWrite; split <;> rfl

theorem State.scratchWrite_ops : (s.scratchWrite core sp off bs).ops = s.ops := by
  unfold State.scratchWrite; split <;> rfl

theorem State.scratchWrite_threads : (s.scratchWrite core sp off bs).threads = s.threads := by
  unfold State.scratchWrite; split <;> rfl

variable {sp}

/-- The numbers of the shared scratch spaces. -/
theorem shared_cases (h2 : 2 ≤ sp) (h4 : sp ≤ 4) : sp = 2 ∨ sp = 3 ∨ sp = 4 := by omega

theorem State.scratchRead_one (h2 : 2 ≤ sp) (h4 : sp ≤ 4) (j : Nat) :
    s.scratchRead core sp j 1 = [Memory.read (s.scratchArray core sp) j] := by
  obtain rfl | rfl | rfl := shared_cases h2 h4 <;> rfl

theorem State.scratchWrite_lp (h2 : 2 ≤ sp) (h4 : sp ≤ 4) (n : Nat) : ((s.scratchWrite core sp off bs).core n).lp = (s.core n).lp := by
  obtain rfl | rfl | rfl := shared_cases h2 h4
  · rw [State.scratchWrite, State.core_mapCore]
    split
    · next h => rw [h]
    · rfl
  · rfl
  · rfl

/-- The array that a write reaches takes its bytes. -/
theorem State.scratchArray_of_shared (h2 : 2 ≤ sp) (h4 : sp ≤ 4) {c : Nat} (hc : sameScratch sp c core) :
    (s.scratchWrite core sp off bs).scratchArray c sp = Memory.writeBytes (s.scratchArray c sp) off bs := by
  obtain rfl | rfl | rfl := shared_cases h2 h4
  · have hc : c = core := hc
    rw [hc, State.scratchArray, State.scratchWrite, State.core_mapCore, if_pos rfl, State.scratchArray]
  · have hc : clusterOf c = clusterOf core := hc
    simp only [State.scratchArray, State.scratchWrite, hc, Sparse.get_set_self]
  · have hc : dieOf c = dieOf core := hc
    rw [State.scratchArray, State.scratchWrite, hc, State.die_mapDie, if_pos rfl, State.scratchArray, hc]

/-- Every other shared array is as before. -/
theorem State.scratchArray_of_other (h2 : 2 ≤ sp) (h4 : sp ≤ 4) {c k : Nat} (hk2 : 2 ≤ k) (hk4 : k ≤ 4)
    (hc : ¬ (k = sp ∧ sameScratch k c core)) : (s.scratchWrite core sp off bs).scratchArray c k = s.scratchArray c k := by
  by_cases hk : k = sp
  · subst hk
    have hne : ¬ sameScratch k c core := fun h => hc ⟨rfl, h⟩
    obtain rfl | rfl | rfl := shared_cases h2 h4
    · rw [State.scratchArray, State.scratchWrite, State.core_mapCore, if_neg (Ne.symm hne), State.scratchArray]
    · simp only [State.scratchArray, State.scratchWrite, Sparse.get_set]
      exact if_neg (Ne.symm hne)
    · rw [State.scratchArray, State.scratchWrite, State.die_mapDie, if_neg (Ne.symm hne), State.scratchArray]
  · obtain rfl | rfl | rfl := shared_cases h2 h4
    · obtain rfl | rfl : k = 3 ∨ k = 4 := by omega
      all_goals rfl
    · obtain rfl | rfl : k = 2 ∨ k = 4 := by omega
      all_goals rfl
    · obtain rfl | rfl : k = 2 ∨ k = 3 := by omega
      all_goals rfl

end

/-! ### Writes to homes (09 R198, R206) -/

/-- A write to homes changes memory, its check codes, the newest lines at the home slices, and the dies, and nothing else. -/
def OnlyHomes (s s' : State) : Prop :=
  s' = { s with mem := s'.mem, codes := s'.codes, homeDirty := s'.homeDirty, dies := s'.dies }

theorem OnlyHomes.refl (s : State) : OnlyHomes s s := rfl

theorem OnlyHomes.trans {a b c : State} (h : OnlyHomes a b) (g : OnlyHomes b c) : OnlyHomes a c :=
  Eq.trans (show c = _ from g)
    (congrArg (fun x : State => { x with mem := c.mem, codes := c.codes, homeDirty := c.homeDirty, dies := c.dies }) (show b = _ from h))

theorem OnlyHomes.foldl {α : Type} {f : State → α → State} (h : ∀ s x, OnlyHomes s (f s x)) (l : List α) (s : State) :
    OnlyHomes s (l.foldl f s) := by
  induction l generalizing s with
  | nil => rfl
  | cons x l ih => exact (h s x).trans (ih _)

theorem OnlyHomes.ops {s s' : State} (h : OnlyHomes s s') : s'.ops = s.ops := by
  rw [OnlyHomes] at h; rw [h]

section
variable (s : State)

theorem State.setRemote_onlyHomes (die line : Nat) (l : RemoteLine) : OnlyHomes s (s.setRemote die line l) := rfl

theorem State.mergeCode_onlyHomes (loc n half : Nat) : OnlyHomes s (State.mergeCode loc n s half) := by
  unfold State.mergeCode
  dsimp only
  split
  · rfl
  · split <;> rfl

theorem State.homeWrite_onlyHomes (loc : Nat) (bs : List Byte) : OnlyHomes s (s.homeWrite loc bs) :=
  (OnlyHomes.foldl (fun s => State.mergeCode_onlyHomes s loc bs.length) _ s).trans rfl

theorem State.homeAdd_onlyHomes (loc : Nat) (d : Delta) : OnlyHomes s (s.homeAdd loc d) := by
  unfold State.homeAdd
  split <;> exact s.homeWrite_onlyHomes _ _

theorem State.homeDirtyCode_onlyHomes (line : Nat) (l : RemoteLine) (half : Nat) : OnlyHomes s (State.homeDirtyCode line l s half) := by
  unfold State.homeDirtyCode
  split
  · rfl
  · split
    · rfl
    · split <;> rfl

theorem State.homeDirtyBytes_onlyHomes (line : Nat) (l : RemoteLine) : OnlyHomes s (s.homeDirtyBytes line l) :=
  have hcodes : OnlyHomes s { s with codes := s.codes.filter (fun p => p.1 / 4 != line || !l.halfDirty (p.1 % 4)) } := rfl
  (hcodes.trans (.foldl (fun s _ => s.homeWrite_onlyHomes _ _) _ _)).trans (.foldl (fun s => s.homeDirtyCode_onlyHomes line l) _ _)

theorem State.homeDeltas_onlyHomes (line : Nat) (l : RemoteLine) : OnlyHomes s (s.homeDeltas line l) :=
  .foldl (fun s _ => s.homeAdd_onlyHomes _ _) _ s

theorem State.pushLine_onlyHomes (die line : Nat) : OnlyHomes s (s.pushLine die line) := by
  have hhome := (s.homeDirtyBytes_onlyHomes line (s.remoteLine die line)).trans (State.homeDeltas_onlyHomes _ line (s.remoteLine die line))
  unfold State.pushLine
  dsimp only
  split <;> exact hhome.trans (State.setRemote_onlyHomes _ _ _ _)

theorem State.pushDie_onlyHomes (die : Nat) : OnlyHomes s (s.pushDie die) := .foldl (fun s _ => s.pushLine_onlyHomes _ _) _ s

theorem State.releasePush_onlyHomes (core level : Nat) : OnlyHomes s (s.releasePush core level) := by
  unfold State.releasePush
  split
  · exact s.pushDie_onlyHomes _
  · rfl

end

/-! ### Fences change no operation but what loads in flight bring (09 R199) -/

/-- The operations in flight are the same ones, of the same threads; only what the loads among them bring may have changed. -/
def RewritesLoads (s s' : State) : Prop :=
  ∃ g : Op → Op, s'.ops = s.ops.map g ∧
    ∀ p, (g p).id = p.id ∧ (g p).tid = p.tid ∧ (g p).arrived = p.arrived ∧ (p.isLoad = false → g p = p)

theorem RewritesLoads.of_ops {s s' : State} (h : s'.ops = s.ops) : RewritesLoads s s' :=
  ⟨id, by rw [h, List.map_id], fun _ => ⟨rfl, rfl, rfl, fun _ => rfl⟩⟩

theorem RewritesLoads.trans {a b c : State} (h : RewritesLoads a b) (k : RewritesLoads b c) : RewritesLoads a c := by
  obtain ⟨f, hf, hf'⟩ := h
  obtain ⟨g, hg, hg'⟩ := k
  refine ⟨g ∘ f, by rw [hg, hf, List.map_map], fun p => ?_⟩
  obtain ⟨fid, ftid, farr, fsame⟩ := hf' p
  obtain ⟨gid, gtid, garr, gsame⟩ := hg' (f p)
  refine ⟨gid.trans fid, gtid.trans ftid, garr.trans farr, fun hp => ?_⟩
  have hfp := fsame hp
  rw [hfp] at gsame
  exact (congrArg g hfp).trans (gsame hp)

theorem State.mapFills_rewritesLoads (s : State) (pick : Op → Bool) (f : Access → Access) : RewritesLoads s (s.mapFills pick f) := by
  refine ⟨_, rfl, fun p => ?_⟩
  split
  · next hk => exact ⟨by split <;> rfl, by split <;> rfl, by split <;> rfl, fun hp => by simp [Op.isLoad, hk] at hp⟩
  · exact ⟨rfl, rfl, rfl, fun _ => rfl⟩

theorem State.l1Flush_rewritesLoads (s : State) (core : Nat) : RewritesLoads s (s.l1Flush core) := s.mapFills_rewritesLoads _ _

theorem State.dropRemotes_rewritesLoads (s : State) (die : Nat) : RewritesLoads s (s.dropRemotes die) :=
  (s.mapFills_rewritesLoads _ _).trans (.of_ops (State.pushDie_onlyHomes _ die).ops)

theorem State.acquireDiscard_rewritesLoads (s : State) (core level : Nat) : RewritesLoads s (s.acquireDiscard core level) := by
  unfold State.acquireDiscard
  dsimp only
  split
  · exact (s.l1Flush_rewritesLoads core).trans (.of_ops (State.pushDie_onlyHomes _ _).ops)
  · split
    · exact (s.l1Flush_rewritesLoads core).trans (State.dropRemotes_rewritesLoads _ _)
    · exact s.l1Flush_rewritesLoads core

theorem State.fenceEffect_rewritesLoads (s : State) (core : Nat) (acq rel : Option Nat) : RewritesLoads s (s.fenceEffect core acq rel) := by
  have hrel : ∀ l, RewritesLoads s (s.releasePush core l) := fun l => .of_ops (s.releasePush_onlyHomes core l).ops
  cases acq with
  | none =>
    cases rel with
    | none => exact .of_ops rfl
    | some l => exact hrel l
  | some k =>
    cases rel with
    | none => exact s.acquireDiscard_rewritesLoads core k
    | some l => exact (hrel l).trans (State.acquireDiscard_rewritesLoads _ core k)

theorem State.fenceCode_ops (s : State) (o : Op) (acq rel : Option Nat) : (s.fenceCode o acq rel).ops = s.ops := by
  cases acq <;> cases rel <;> rfl

section
variable {s s' : State} {o : Op}

/-- An operation other than a load stays the next to complete. -/
theorem State.nextToRetire.of_rewritesLoads (h : s.nextToRetire o) (hs : RewritesLoads s s') (hload : o.isLoad = false) :
    s'.nextToRetire o := by
  obtain ⟨hfind, harr, hnodup, hfirst⟩ := h
  obtain ⟨g, hops, hg⟩ := hs
  have hids : ∀ l : List Op, (l.map g).map (fun p => p.id) = l.map (fun p => p.id) := fun l => by
    rw [List.map_map]; exact List.map_congr_left fun p _ => (hg p).1
  refine ⟨?_, ?_, ?_, ?_⟩
  · have hsame : (fun p : Op => p.id == o.id) ∘ g = fun p => p.id == o.id := funext fun p => by rw [Function.comp, (hg p).1]
    rw [State.op?] at hfind
    rw [State.op?, hops, List.find?_map, hsame, hfind, Option.map_some, (hg o).2.2.2 hload]
  · rw [hops, List.forall_mem_map]
    exact fun p hp => (hg p).2.2.1.trans (harr p hp)
  · rw [hops, hids]; exact hnodup
  · have hsame : (fun p : Op => p.id != o.id) ∘ g = fun p => p.id != o.id := funext fun p => by rw [Function.comp, (hg p).1]
    have htid : (fun p : Op => p.tid != o.tid) ∘ g = fun p => p.tid != o.tid := funext fun p => by rw [Function.comp, (hg p).2.1]
    rw [hops, List.takeWhile_map, List.all_map, hsame, htid]
    exact hfirst

/-! ### The events that complete operations (07 R168, 09 R202, 10 R213) -/

theorem execLoadComplete_of_load {a : Access} {sg : Bool} {acq : Option Nat} (h : s.nextToRetire o) (hk : o.kind = .load a sg acq) :
    exec (.loadComplete o.id false) s = .next (s.performLoad o) := by
  have hexec : exec (.loadComplete o.id false) s = execLoadComplete o.id false s := rfl
  simp [hexec, execLoadComplete, h.op, h.arrived, hk]

theorem execStoreComplete_of_op (h : s.op? o.id = some o) : exec (.storeComplete o.id) s = .next (s.performStore o) := by
  have hexec : exec (.storeComplete o.id) s = execStoreComplete o.id s := rfl
  simp [hexec, execStoreComplete, h]

theorem execAtomicComplete_of_served {a : Access} {f : AtomFn} {x e : Pair} {pl : Place} {ord : Bool} (h : s.nextToRetire o)
    (hk : o.kind = .atomic a f x e pl ord) (hpl : pl ≠ .l1) (hserved : o.served = true) :
    exec (.atomicComplete o.id) s = .next (s.arrive o.id id) := by
  have hexec : exec (.atomicComplete o.id) s = execAtomicComplete o.id s := rfl
  cases pl with
  | l1 => exact absurd rfl hpl
  | slice | home | peer => simp [hexec, execAtomicComplete, h.op, h.arrived, hk, hserved]

theorem execFenceComplete_of_fence {acq rel : Option Nat} (h : s.nextToRetire o) (hk : o.kind = .fence acq rel) :
    exec (.fenceComplete o.id) s = .next (((s.fenceEffect o.core acq rel).fenceCode o acq rel).arrive o.id id) := by
  have hexec : exec (.fenceComplete o.id) s = execFenceComplete o.id s := rfl
  simp [hexec, execFenceComplete, h.op, hk, h.quietBefore, h.readsBefore]

/-! ### What a load and a scratch store do as they are performed (07 R162, R168, R173) -/

section
variable {a : Access} {sg : Bool}

theorem State.performLoad_scratch (hk : o.kind = .load a sg none) (hsp : 2 ≤ a.sp) (hfree : s.freeToAct o = true) :
    s.performLoad o = s.giveBytes o a sg (s.scratchRead o.core a.sp a.loc a.z) := by
  have h0 : a.sp ≠ 0 := by omega
  have h1 : a.sp ≠ 1 := by omega
  simp [State.performLoad, State.loadBad, hk, hfree, h0, h1]

theorem State.performLoad_window (hk : o.kind = .load a sg none) (hsp : a.sp = 1) (hfree : s.freeToAct o = true) :
    s.performLoad o = s.arrive o.id id := by
  simp [State.performLoad, State.loadBad, hk, hfree, hsp]

theorem State.performLoad_memory (hk : o.kind = .load a sg none) (hsp : a.sp = 0) (hcls : a.cls = 0) (hpeer : peerOf a.loc = none)
    (horigin : o.origin = none) (hfree : s.freeToAct o = true) (hgood : s.loadBad o a = false) :
    s.performLoad o = (s.cachedRead o.core a.loc a.z a.pol).1.giveBytes o a sg (s.cachedRead o.core a.loc a.z a.pol).2 := by
  simp [State.performLoad, hk, hfree, hgood, hsp, hcls, horigin, Access.peer, hpeer]

theorem State.performStore_scratch {bs : List Byte} (hk : o.kind = .store a bs none) (hsp : 2 ≤ a.sp) (hfree : s.freeToAct o = true)
    (hlives : s.regionLives o a.sp = true) : s.performStore o = (s.scratchWrite o.core a.sp a.loc bs).arrive o.id id := by
  have h0 : a.sp ≠ 0 := by omega
  have h1 : a.sp ≠ 1 := by omega
  simp [State.performStore, hk, hfree, h0, h1, hlives]

end
end

section
variable {s : State} {o : Op} {t : Thread} {a : Access} {sg : Bool}

theorem Op.plain_of_load (ho : o.origin = none) (hf : o.fault = none) (hk : o.kind = .load a sg none)
    (hseal : (a.sp == 0 && a.cls == 2) = false) : o.Plain := ⟨ho, hf, .inl ⟨a, sg, hk, hseal⟩⟩

/-- A load completes with the bytes that it is given. -/
theorem State.nextToRetire.giveBytes (h : s.nextToRetire o) (hplain : o.Plain) (ht : s.thread? o.tid = some t) (hstate : t.state ≠ .exited)
    (bs : List Byte) : (s.giveBytes o a sg bs).op? o.id = none ∧
      (s.giveBytes o a sg bs).thread? o.tid = some ((t.lower o.cls).deliver o.dsts (loadWords sg bs) o.tag) ∧
      LeavesData s (s.giveBytes o a sg bs) := by
  have hgive : s.giveBytes o a sg bs = s.arrive o.id (fun p => { p with data := loadWords sg bs }) := by
    rw [State.giveBytes, h.overlay]
  obtain ⟨hop, hthread, harrive⟩ := h.completes (f := fun p => { p with data := loadWords sg bs }) hplain rfl ht hstate
  rw [hgive]
  exact ⟨hop, hthread, harrive ▸ s.afterArrival_leaves _ _⟩

/-- An operation that arrives with the values that it holds completes with them. -/
theorem State.nextToRetire.arrive_id (h : s.nextToRetire o) (hplain : o.Plain) (ht : s.thread? o.tid = some t) (hstate : t.state ≠ .exited) :
    (s.arrive o.id id).op? o.id = none ∧
      (s.arrive o.id id).thread? o.tid = some ((t.lower o.cls).deliver o.dsts o.data o.tag) ∧ LeavesData s (s.arrive o.id id) := by
  obtain ⟨hop, hthread, harrive⟩ := h.completes (f := id) (ws := o.data) hplain rfl ht hstate
  exact ⟨hop, hthread, harrive ▸ s.afterArrival_leaves _ _⟩

/-- A read of a shared space after an operation has completed finds what was there before. -/
theorem State.scratchRead_of_leaves {s' : State} (h : LeavesData s s') (core sp off n : Nat) :
    s'.scratchRead core sp off n = s.scratchRead core sp off n := by
  unfold State.scratchRead
  rw [(h.cores core).1, (h.cores core).2, h.clusters, h.dies]

/-- What a write of a shared space leaves to be read. -/
theorem State.scratchRead_scratchWrite (s : State) (core off : Nat) (bs : List Byte) {sp k c j : Nat} (h2 : 2 ≤ sp) (h4 : sp ≤ 4)
    (hk2 : 2 ≤ k) (hk4 : k ≤ 4) :
    (k = sp → sameScratch k c core → off ≤ j → j < off + bs.length →
      (s.scratchWrite core sp off bs).scratchRead c k j 1 = [bs.getD (j - off) 0]) ∧
    (¬(k = sp ∧ sameScratch k c core ∧ off ≤ j ∧ j < off + bs.length) →
      (s.scratchWrite core sp off bs).scratchRead c k j 1 = s.scratchRead c k j 1) := by
  rw [State.scratchRead_one _ _ hk2 hk4, State.scratchRead_one _ _ hk2 hk4]
  by_cases hc : k = sp ∧ sameScratch k c core
  · obtain ⟨rfl, hsame⟩ := hc
    rw [State.scratchArray_of_shared _ _ _ _ h2 h4 hsame, Memory.read_writeBytes]
    exact ⟨fun _ _ hlo hhi => by rw [if_pos ⟨hlo, hhi⟩], fun hno => by rw [if_neg fun hin => hno ⟨rfl, hsame, hin⟩]⟩
  · rw [State.scratchArray_of_other _ _ _ _ h2 h4 hk2 hk4 hc]
    exact ⟨fun hk hsame => absurd ⟨hk, hsame⟩ hc, fun _ => rfl⟩

end

/-- Settles O17: each event brings its operation to arrive, with the values of its place; an operation whose turn it is then completes, and no
other with it. -/
theorem operationsComplete : Obligations.OperationsComplete := by
  intro s o t h ht hstate ho hf _
  refine ⟨fun a sg hk hsp hfree => ?_, fun a sg hk hsp hfree => ?_, fun a sg hk hsp hcls hpeer hfree hgood => ?_,
    fun a bs hk hsp hfree hlives => ?_, fun a f x e pl ord hk hpl hserved => ?_, fun acq rel hk => ?_⟩
  · have hplain : o.Plain := Op.plain_of_load ho hf hk (by simp; omega)
    rw [execLoadComplete_of_load h hk, State.performLoad_scratch hk hsp hfree]
    exact ⟨_, rfl, h.giveBytes hplain ht hstate _⟩
  · have hplain : o.Plain := Op.plain_of_load ho hf hk (by simp [hsp])
    rw [execLoadComplete_of_load h hk, State.performLoad_window hk hsp hfree]
    exact ⟨_, rfl, h.arrive_id hplain ht hstate⟩
  · have hplain : o.Plain := Op.plain_of_load ho hf hk (by simp [hcls])
    have hread := s.cachedRead_onlyCaches o.core a.loc a.z a.pol
    have ht' : (s.cachedRead o.core a.loc a.z a.pol).1.thread? o.tid = some t := by rw [State.thread?, hread.threads]; exact ht
    obtain ⟨hop, hthread, hdata⟩ := (h.of_ops hread.ops).giveBytes (a := a) (sg := sg) hplain ht' hstate
      (s.cachedRead o.core a.loc a.z a.pol).2
    rw [execLoadComplete_of_load h hk, State.performLoad_memory hk hsp hcls hpeer ho hfree hgood]
    refine ⟨_, rfl, hop, ?_, hread.data.trans hdata⟩
    cases hl : s.l1Line? o.core a.loc with
    | some l => rw [hthread, State.cachedRead_hit _ _ _ _ _ hl]
    | none => rw [hthread, State.cachedRead_miss _ _ _ _ _ hl]
  · have hplain : o.Plain := ⟨ho, hf, .inr (.inl ⟨a, bs, none, hk⟩)⟩
    have ht' : (s.scratchWrite o.core a.sp a.loc bs).thread? o.tid = some t := by
      rw [State.thread?, State.scratchWrite_threads]; exact ht
    obtain ⟨hop, hthread, hdata⟩ := (h.of_ops (s.scratchWrite_ops o.core a.sp a.loc bs)).arrive_id hplain ht' hstate
    rw [execStoreComplete_of_op h.op, State.performStore_scratch hk hsp hfree hlives]
    refine ⟨_, rfl, hop, hthread, hdata.mem.trans (s.scratchWrite_mem _ _ _ _), fun h4 => ⟨fun n => ?_, fun core sp j h2' h4' => ?_⟩⟩
    · exact (hdata.cores n).2.trans (s.scratchWrite_lp _ _ _ hsp h4 n)
    · rw [State.scratchRead_of_leaves hdata]
      exact s.scratchRead_scratchWrite o.core a.loc bs hsp h4 h2' h4'
  · have hplain : o.Plain := ⟨ho, hf, .inr (.inr (.inl ⟨a, f, x, e, pl, ord, hk⟩))⟩
    rw [execAtomicComplete_of_served h hk hpl hserved]
    exact ⟨_, rfl, h.arrive_id hplain ht hstate⟩
  · have hplain : o.Plain := ⟨ho, hf, .inr (.inr (.inr ⟨acq, rel, hk⟩))⟩
    have hnext : ((s.fenceEffect o.core acq rel).fenceCode o acq rel).nextToRetire o :=
      (h.of_rewritesLoads (s.fenceEffect_rewritesLoads o.core acq rel) (by simp [Op.isLoad, hk])).of_ops (State.fenceCode_ops _ _ _ _)
    rw [execFenceComplete_of_fence h hk, hnext.arrive (f := id) rfl rfl (hplain.arrived o.data)]
    exact ⟨_, rfl, State.op?_afterArrival rfl⟩

end Sys2Proof.Machine

/-!
# Stores that the statements about them do not describe

`LoadsAndStoresGoInFlight` and `StoresWriteTheirBytes` each quantify over a case that no program reaches and that the model treats otherwise: a
name of an operation that is given twice, and width codes that no word has.
-/
namespace Sys2Proof.Machine

/-! ### A module of one thread -/

/-- A block of two words. -/
def loneBlock : Block := { head := 0x1000, len := 2 }

/-- A thread of which every register is 0. -/
def loneThread : Thread := { tid := 2, core := 0, slot := 0, unit := 1, index := 0, pc := 0x1000, blk := loneBlock, budget := 128, state := .issued }

/-- Its strand, before the first word of the block. -/
def loneStrand : Strand := { sid := 3, core := 0, dec := 0, blk := loneBlock, words := [0, 0], pos := 0, members := [2] }

/-- A translation of the first 2 MiB to ordinary memory of this module, writable. -/
def loneMapping : Trans :=
  { cid := 0, glob := false, vbase := 0, size := 0x200000, pbase := 0, cls := 0, w := true, x := true, peer := none, pc := false }

/-- The module, with operations in flight and with what stands in the lanes' memory of its core. -/
def loneModule (ops : List Op) (lp : List Host.Cell) : State :=
  { State.reset with
    units := [{ uid := 1, slot := 0, launch := 1, index := 0, core := 0, row0 := 0, rows := 1, nthreads := 1, gw := 8 }]
    threads := [loneThread], strands := [loneStrand], issuing := 3, nextId := 4, slots := [(0, { v := true })]
    cores := [(0, { l1tlb := [loneMapping], lp := lp })], ops := ops }

theorem alone_loneModule (ops : List Op) (lp : List Host.Cell) : Alone (loneModule ops lp) loneStrand loneThread where
  found := rfl
  named := by simp [loneModule]
  threads := by simp [State.threadsNamed, loneModule]
  some' := by simp [loneStrand]
  distinct := by simp [loneStrand]
  present := by simp [loneStrand, loneModule, State.thread?, loneThread]
  only := rfl
  thread := rfl
  fresh := ⟨⟨rfl, rfl⟩, rfl, rfl⟩

theorem more_loneStrand : loneStrand.more := by simp [Strand.more, loneStrand]

/-- The thread is ready for a word where no operation in flight is its own. -/
theorem ready_loneModule {ops : List Op} (lp : List Host.Cell) {named : List Reg} {reads : List (Cls × Reg)} (hops : ∀ o ∈ ops, o.tid ≠ 2)
    (hreads : ∀ p ∈ reads, loneThread.operandOk p = true ∧ loneThread.needsField p = false) :
    OperandsReady (loneModule ops lp) loneThread named reads where
  budget r _ := r.isLt
  free o ho htid := absurd htid (hops o ho)
  tags p hp := (hreads p hp).1
  field := fun ⟨p, hp, hneeds⟩ => by rw [(hreads p hp).2] at hneeds; cases hneeds

/-- The state that an outcome goes on in. -/
def stateAfter (r : Out) : State :=
  match r with
  | .next s => s
  | _ => State.reset

/-! ### The name of a store in flight (O12) -/

/-- An operation of another thread in flight under the name that the next operation of the module gets. -/
def namesake : Op :=
  { id := 5, tid := 9, slot := 0, launch := 1, unit := 1, uix := 0, group := 0, core := 0, tslot := 1, cls := .none, pc := 0x1000, word := 0,
    kind := .fence none none }

/-- The L1 takes the bytes of a store as it issues and the store is marked so, by its name: another operation of that name is marked with it. -/
theorem served_after_st : (stateAfter (exec (.st 8 4 0 4 0) (loneModule [namesake] []))).ops.map (fun o => o.served) = [true, true] := by
  decide +kernel

/-- Refutes O12: the statement ranges over machines in which an operation in flight already bears the name of the next one. The store then
changes that operation, so what stood in flight does not stand there as before. (Names rise and are given once, SPEC.md assumption 5, so no such
machine is meant to be reached from reset.) -/
theorem not_loadsAndStoresGoInFlight : ¬ Obligations.LoadsAndStoresGoInFlight := by
  intro h
  obtain ⟨-, -, -, hst, -⟩ := h 8 4 0 4 0
  obtain ⟨s', hexec, hflight⟩ := hst (loneModule [namesake] []) loneStrand loneThread _ _ (alone_loneModule _ _) more_loneStrand
    (ready_loneModule _ (by decide) (by decide)) ⟨rfl, by decide, mkAccess loneMapping 0 4 0, ⟨by decide +kernel, rfl⟩, rfl⟩
  obtain ⟨o, hops, -⟩ := hflight.op
  have hserved := served_after_st
  rw [hexec, stateAfter, hops, loneModule] at hserved
  simp [namesake] at hserved

/-! ### The bytes of a store of width code 6 (O13) -/

/-- The byte behind the register of a store of width code 6 stays as it was. -/
theorem byte_after_st : Memory.read ((stateAfter (exec (.st 8 4 1 6 0) (loneModule [] [(4, 7)]))).core 0).lp 4 = 7 := by
  decide +kernel

/-- Refutes O13: the statement ranges over every width code, and gives the codes 6 and 7, which no word has (07 R164), 8 bytes of one
register. The model then writes the 4 bytes of that register, and the statement asks for 4 zero bytes behind them. -/
theorem not_storesWriteTheirBytes : ¬ Obligations.StoresWriteTheirBytes := by
  rintro ⟨⟨hstore, -⟩, -⟩
  obtain ⟨s', hexec, -, hread⟩ := hstore 8 4 6 0 _ (List.mem_cons_self ..) (loneModule [] [(4, 7)]) loneStrand loneThread
    { sp := 1, va := 0, loc := 0, z := 8 } (alone_loneModule _ _) more_loneStrand (ready_loneModule _ (by decide) (by decide))
    ⟨by decide +kernel, rfl⟩ (by decide)
  have hbyte := byte_after_st
  rw [hexec, stateAfter] at hbyte
  have hzero : Memory.read (s'.core 0).lp 4 = 0 := hread 4
  rw [hzero] at hbyte
  exact absurd hbyte (by decide)

end Sys2Proof.Machine

/-!
# Walks, and what comes home from a remote partition
-/
namespace Sys2Proof.Machine

/-! ### Walks (08 R187, R188) -/

theorem dieOk_of_lt {die : Nat} (h : die < 8) : ¬ (!dieOk die) = true := by
  rw [dieOk, show Config.dies = 8 from rfl]
  simpa using h

section
variable {s : State} {k : Walk}

/-- A walk that waits alone for its die starts where its context may have a walker at all. -/
theorem execPageWalkStart_alone (hdie : k.die < 8) (hw : s.walks = [k]) (hrun : k.running = false) (hfail : k.failed = none)
    (hquota : 0 < (s.slot k.slot).walk) :
    exec (.pageWalkStart k.die) s = .next { s with
      walks := [{ k with running := true, cid := (s.slot k.slot).cid, root := (s.slot k.slot).root, ga := (s.slot k.slot).ga,
                         rootValid := (s.slot k.slot).v }] } := by
  have hexec : exec (.pageWalkStart k.die) s = execPageWalkStart k.die s := rfl
  have hnone : s.runningWalks k.die k.slot = 0 ∧ s.walkersBusy k.die = 0 := by simp [State.runningWalks, State.walkersBusy, hw, hrun]
  have hfree : 0 < Config.walkers := by decide
  rw [hexec, execPageWalkStart, if_neg (dieOk_of_lt hdie)]
  simp [hw, hrun, hfail, hnone, hquota, hfree]

/-- A walk that found nothing stays while a thread waits on it. -/
theorem State.tidyWalks_of_awaited (hw : s.walks = [k]) (h : s.awaited k.wid = true) : s.tidyWalks = s := by
  have hkeep : s.walks.filter (fun k => k.failed.isNone || s.awaited k.wid || !k.engines.isEmpty) = s.walks :=
    List.filter_eq_self.mpr (by simp [hw, h])
  rw [State.tidyWalks, hkeep]

variable (hw : s.walks = [k]) (hrun : k.running = true) (hfail : k.failed = none)
include hw hrun hfail

/-- A stale walk ends and installs nothing. -/
theorem execPageWalkComplete_stale (hstale : k.stale = true) : exec (.pageWalkComplete k.wid) s = .next { s with walks := [] } := by
  have hexec : exec (.pageWalkComplete k.wid) s = execPageWalkComplete k.wid s := rfl
  simp [hexec, execPageWalkComplete, hw, hrun, hfail, hstale]

variable {ps : List Pointer} (hstale : k.stale = false)
include hstale

/-- A walk that finds a translation installs it in the L2 TLB of its die and in the L1 TLBs of the cores that wait. -/
theorem execPageWalkComplete_found {x : Trans}
    (hwalk : walkRoot s (s.die k.die).pointers k.cid k.root k.rootValid k.ga (k.vpage * 4096) = (.found x, ps)) :
    exec (.pageWalkComplete k.wid) s = .next ((s.waitingCores k.wid).foldl (fun s c => s.fillL1Tlb c x)
      ((({ s with walks := [] } : State).keepPointers k.die ps).fillL2Tlb k.die x)) := by
  have hexec : exec (.pageWalkComplete k.wid) s = execPageWalkComplete k.wid s := rfl
  simp [hexec, execPageWalkComplete, hw, hrun, hfail, hstale, hwalk]

/-- A walk that finds nothing keeps its cause for the threads that wait on it. -/
theorem execPageWalkComplete_failed {aux : Word}
    (hwalk : walkRoot s (s.die k.die).pointers k.cid k.root k.rootValid k.ga (k.vpage * 4096) = (.failed aux, ps))
    (hwait : s.awaited k.wid = true) :
    exec (.pageWalkComplete k.wid) s = .next { s with walks := [{ k with failed := some aux }] } := by
  have hexec : exec (.pageWalkComplete k.wid) s = execPageWalkComplete k.wid s := rfl
  have htidy : ({ s with walks := [{ k with failed := some aux }] } : State).tidyWalks = { s with walks := [{ k with failed := some aux }] } :=
    State.tidyWalks_of_awaited (k := { k with failed := some aux }) rfl hwait
  rw [← htidy]
  simp [hexec, execPageWalkComplete, hw, hrun, hfail, hstale, hwalk]

end

/-! ### Bytes at their home (09 R197, R206) -/

/-- A delta of one word comes home as the sum of it and the word that stands there. -/
theorem State.homeAdd_mem_word (s : State) (loc : Nat) {d : Delta} (hd : d.wide = false) :
    (s.homeAdd loc d).mem = Memory.writeBytes s.mem loc (leBytes 4 (s.homeNat loc 4 + d.val.toNat)) := by
  simp [State.homeAdd, hd]

theorem State.homeDirtyBytes_clean_mem (s : State) (line : Nat) {l : RemoteLine} (h : l.dirty = []) :
    (s.homeDirtyBytes line l).mem = s.mem := by
  rw [State.homeDirtyBytes, State.homeDirtyCodes_mem, h]; rfl

theorem State.homeDirtyBytes_one_mem (s : State) (line : Nat) {l : RemoteLine} {off : Nat} (h : l.dirty = [off]) :
    (s.homeDirtyBytes line l).mem = Memory.writeBytes s.mem (line * 128 + off) [Memory.read l.copy off] := by
  rw [State.homeDirtyBytes, State.homeDirtyCodes_mem, h]
  exact State.homeWrite_mem _ _ _

theorem State.homeDeltas_none (s : State) (line : Nat) {l : RemoteLine} (h : l.deltas = []) : s.homeDeltas line l = s := by
  rw [State.homeDeltas, h]; rfl

theorem State.homeDeltas_one (s : State) (line : Nat) {l : RemoteLine} {p : Nat × Delta} (h : l.deltas = [p]) :
    s.homeDeltas line l = s.homeAdd (line * 128 + p.1) p.2 := by
  rw [State.homeDeltas, h]; rfl

/-- What a line brings home as it is pushed: its dirty bytes, then its deltas. -/
theorem State.pushLine_mem (s : State) (die line : Nat) : (s.pushLine die line).mem =
    ((s.homeDirtyBytes line (s.remoteLine die line)).homeDeltas line (s.remoteLine die line)).mem := by
  rw [State.pushLine]; split <;> rfl

/-- The arrival of a line's one word delta at its home. -/
theorem execDeltaWriteHome_word {s : State} {die line off : Nat} {d : Delta} (hdie : die < 8) (hd : d.wide = false)
    (h : (s.remoteLine die line).deltas = [(off, d)]) :
    ∃ s', exec (.deltaWriteHome die line) s = .next s' ∧ s'.mem =
      Memory.writeBytes s.mem (line * 128 + off) (leBytes 4 (s.homeNat (line * 128 + off) 4 + d.val.toNat)) := by
  have hexec : exec (.deltaWriteHome die line) s = execDeltaWriteHome die line s := rfl
  rw [hexec, execDeltaWriteHome, if_neg (dieOk_of_lt hdie)]
  dsimp only
  rw [if_neg (by simp [h])]
  refine ⟨_, rfl, ?_⟩
  rw [← State.homeAdd_mem_word s (line * 128 + off) hd, State.homeDeltas_one s line h]
  rfl

/-- The eviction of a line of one dirty byte. -/
theorem execRemoteEviction_one {s : State} {die line off : Nat} (hdie : die < 8) (hclean : (s.remoteLine die line).deltas = [])
    (hdirty : (s.remoteLine die line).dirty = [off]) :
    ∃ s', exec (.remoteEviction die line) s = .next s' ∧
      s'.mem = Memory.writeBytes s.mem (line * 128 + off) [Memory.read (s.remoteLine die line).copy off] := by
  have hexec : exec (.remoteEviction die line) s = .next (s.dropRemote die line) := if_neg (dieOk_of_lt hdie)
  refine ⟨_, hexec, Eq.trans ?_ (s.homeDirtyBytes_one_mem line hdirty)⟩
  rw [State.dropRemote, ← State.homeDeltas_none (s.homeDirtyBytes _ _) line hclean]
  exact s.pushLine_mem die line

/-! ### A release that waits too long (09 R203) -/

/-- A release whose first store behind unreachable links has waited 2 ms ends the context of that store. -/
theorem execPeerReleaseTimeout_store {s : State} {o p : Op} {a : Access} {bs : List Byte} {rel : Option Nat} (ho : s.op? o.id = some o)
    (hrel : o.releases = true) (harr : o.arrived = false)
    (hp : (s.earlier o).find? (fun p =>
      s.reqs.any (fun r => r.op == p.id && s.cutOff r.pkt.dst && s.waitedLong o.core o.since r.pkt.dst)) = some p)
    (hkind : p.kind = .store a bs rel) :
    exec (.peerReleaseTimeout o.id) s = .next (s.remoteError p.slot p.core p.tslot p.launch a.va 0) := by
  have hexec : exec (.peerReleaseTimeout o.id) s = execPeerReleaseTimeout o.id s := rfl
  simp only [hexec, execPeerReleaseTimeout, ho, hrel, harr, hp, hkind]
  rfl

/-- Settles O28: a walk that is alone decides by its own fields, and one delta or one dirty byte reaches memory as one write at its home. -/
theorem walksAndWriteHomes : Obligations.WalksAndWriteHomes := by
  refine ⟨?start, ?complete, ?delta, ?dirty, fun s o p a bs rel ho hrel harr hp hkind => execPeerReleaseTimeout_store ho hrel harr hp hkind⟩
  case start =>
    rintro s die k hdie hw rfl hrun hfail hquota
    exact execPageWalkStart_alone hdie hw hrun hfail hquota
  case complete =>
    exact fun s k hw hrun hfail => ⟨execPageWalkComplete_stale hw hrun hfail,
      fun x ps hstale hwalk => execPageWalkComplete_found hw hrun hfail hstale hwalk,
      fun aux ps hstale hwalk hwait => execPageWalkComplete_failed hw hrun hfail hstale hwalk hwait⟩
  case delta =>
    intro s die line off v hdie _ h
    obtain ⟨s', hexec, hmem⟩ := execDeltaWriteHome_word hdie rfl h
    exact ⟨s', hexec, fun j => by rw [hmem, Memory.read_writeBytes, leBytes_length]⟩
  case dirty =>
    intro s die line off hdie _ hclean hdirty
    obtain ⟨s', hexec, hmem⟩ := execRemoteEviction_one hdie hclean hdirty
    refine ⟨s', hexec, fun j => ?_⟩
    rw [hmem]
    exact (Memory.read_write ..).trans (if_congr eq_comm rfl rfl)

end Sys2Proof.Machine

/-!
# Invalidations and `l2wb`
-/
namespace Sys2Proof.Machine

/-! ### Levels (16 R356, R365) -/

theorem Level.allows_of_hypervisor {l : Level} (h : l = .hypervisor) (need : Level) : l.allows need = true := by
  subst h; rfl

theorem Level.allows_supervisor {l : Level} (h : l ≠ .user) : l.allows .supervisor = true := by
  cases l with
  | user => exact absurd rfl h
  | supervisor => rfl
  | hypervisor => rfl

/-- A hypervisor names any context (16 R365). -/
theorem State.not_foreignCid {s : State} {t : Thread} (h : t.level = .hypervisor) {cid : Word} : ¬ s.foreignCid t cid = true := by
  simp [State.foreignCid, h]

/-- The context ids that a hypervisor may give to `tlbinva`: all of them. -/
theorem State.tlbinva_allowed {s : State} {t : Thread} (h : t.level = .hypervisor) {cid : Word} :
    ¬ ((decide (cid = 0xFFFFFFFF) && t.level != .hypervisor) || s.foreignCid t cid) = true := by
  simp [h, State.not_foreignCid h]

theorem State.intOf_eq_operand (s : State) (t : Thread) (r : Reg) : s.intOf t r = s.operand t .int r := rfl

/-- The registers that `tlbinv` names, each of a pair as the other order lists them. -/
theorem mem_tlbinvNames {d a b : Reg} : ∀ q ∈ [d] ++ pairNames a ++ pairNames b, q ∈ [d] ++ pairRegs a ++ pairRegs b := by
  simp

/-! ### The issue of an invalidation (08 R188 to R190) -/

/-- The module in which an invalidation of a thread has started: its removals are made, its operation is in flight, and the thread waits for
it at the word after, out of its strand. -/
def State.invalidating (s : State) (st : Strand) (t : Thread) (cids : List Nat) (all : Bool) (lo hi : Nat) : State :=
  let r := ((s.atWord st).startInval (s.ctx st) t cids all lo hi).1
  (r.endStrand st).enterAt t.tid (st.pc + 4) (r.landing t.tid (st.pc + 4) st.blk) (.op (s.atWord st).nextId)

/-- A thread that acts and then waits for an operation at the word after: the strand ends. -/
theorem finish_splitOp (s s3 : State) (st : Strand) (t : Thread) (id : Nat) :
    s3.finishWord (s.ctx st) [(t.tid, .split (.op id))] [] =
      (s3.endStrand st).enterAt t.tid (st.pc + 4) (s3.landing t.tid (st.pc + 4) st.blk) (.op id) :=
  (finish_leave (.split (.op id)) _ rfl rfl).trans (State.leaveOne_place _ _ _ _ rfl)

section
variable {α : Type} {s : State} {st : Strand} {t : Thread} {m : Meaning α} {F : State → Ctx → Thread → α → State × After} {x : α}
variable (h : Alone s st t) (hmis : m.misplaced (s.ctx st) = false) (hlev : t.level = .hypervisor)
  (hpa : (m.shape st.hints).past = none) (hr : OperandsReady s t (m.shape st.hints).named (m.shape st.hints).reads)
  (hpre : m.pre (s.atWord st) (s.ctx st) t = (s.atWord st, .ok x)) (hgrp : m.group (s.atWord st) (s.ctx st) [t] = (s.atWord st, none))
  (hact : m.act = eachThread F)
include h hmis hlev hpa hr hpre hgrp hact

/-- A word by which a hypervisor's thread starts an invalidation. -/
theorem Alone.issue_invalidates {cids : List Nat} {all : Bool} {lo hi : Nat}
    (hF : F (s.atWord st) (s.ctx st) t x = (s.atWord st).startInval (s.ctx st) t cids all lo hi) :
    issue m s = s.invalidating st t cids all lo hi := by
  rw [h.issue_ok hmis (Level.allows_of_hypervisor hlev _) hpa hr hpre hgrp h.threads h.thread hact, hF]
  exact finish_splitOp s _ st t _

/-- A word by which a hypervisor's thread does nothing. -/
theorem Alone.issue_passes (hmore : st.more) (hF : F (s.atWord st) (s.ctx st) t x = (s.atWord st, .go)) :
    issue m s = (s.atWord st).goesOn st := by
  rw [h.issue_ok hmis (Level.allows_of_hypervisor hlev _) hpa hr hpre hgrp h.threads h.thread hact, hF]
  exact h.finish_go hmore (Option.isSome_of_eq_some h.thread)

end

section
variable {s : State} {st : Strand} {t : Thread} {d a b : Reg} (h : Alone s st t) (hlev : t.level = .hypervisor)
include h hlev

section
variable (hr : OperandsReady s t ([d] ++ pairRegs a ++ pairRegs b) [(.int, d), (.int64, a), (.int64, b)])
include hr

/-- A range of a context that a slot holds. -/
theorem tlbinv_invalidates (hheld : (s.atWord st).cidHeld ((s.atWord st).operand t .int d) = true) (hlen : t.pair b ≠ 0)
    (hrange : rangeOk (pageRange (t.pair a).toNat (t.pair b).toNat) = true) :
    let r := pageRange (t.pair a).toNat (t.pair b).toNat
    exec (.tlbinv d a b) s = .next (s.invalidating st t [((s.atWord st).operand t .int d).toNat] false (r.1 % 2 ^ 57)
      (r.1 % 2 ^ 57 + (r.2 - r.1))) :=
  congrArg Host.Outcome.next (h.issue_invalidates rfl hlev rfl (hr.of_subset mem_tlbinvNames)
    ((if_neg (State.not_foreignCid hlev)).trans (if_neg (by simp [hrange]))) rfl rfl
    (if_neg (by simpa [State.intOf_eq_operand, hheld] using hlen)))

/-- An empty range, or a context that no slot holds. -/
theorem tlbinv_passes (hmore : st.more)
    (hnone : (s.atWord st).cidHeld ((s.atWord st).operand t .int d) = false ∨ t.pair b = 0) :
    exec (.tlbinv d a b) s = .next ((s.atWord st).goesOn st) := by
  have hskip : ¬ ((s.atWord st).cidHeld ((s.atWord st).operand t .int d) && t.pair b != 0 &&
      !rangeOk (pageRange (t.pair a).toNat (t.pair b).toNat)) = true := by
    rcases hnone with hfree | hempty
    · simp [hfree]
    · simp [hempty]
  exact congrArg Host.Outcome.next (h.issue_passes rfl hlev rfl (hr.of_subset mem_tlbinvNames)
    ((if_neg (State.not_foreignCid hlev)).trans (if_neg hskip)) rfl rfl hmore (if_pos (by simpa [State.intOf_eq_operand] using hnone)))

end

section
variable (hr : OperandsReady s t [a] [(.int, a)])
include hr

/-- Every context. -/
theorem tlbinva_invalidates_all (hall : (s.atWord st).operand t .int a = 0xFFFFFFFF) :
    exec (.tlbinva a) s = .next (s.invalidating st t [] true 0 (2 ^ 57)) :=
  congrArg Host.Outcome.next (h.issue_invalidates rfl hlev rfl hr (if_neg (State.tlbinva_allowed hlev)) rfl rfl
    (if_pos hall))

variable (hone : (s.atWord st).operand t .int a ≠ 0xFFFFFFFF)
include hone

/-- The context that a slot holds. -/
theorem tlbinva_invalidates_one (hheld : (s.atWord st).cidHeld ((s.atWord st).operand t .int a) = true) :
    exec (.tlbinva a) s = .next (s.invalidating st t [((s.atWord st).operand t .int a).toNat] false 0 (2 ^ 57)) :=
  congrArg Host.Outcome.next (h.issue_invalidates rfl hlev rfl hr (if_neg (State.tlbinva_allowed hlev)) rfl rfl
    ((if_neg hone).trans (if_neg (by simpa [State.intOf_eq_operand] using hheld))))

/-- A context that no slot holds. -/
theorem tlbinva_passes (hmore : st.more) (hfree : (s.atWord st).cidHeld ((s.atWord st).operand t .int a) = false) :
    exec (.tlbinva a) s = .next ((s.atWord st).goesOn st) :=
  congrArg Host.Outcome.next (h.issue_passes rfl hlev rfl hr (if_neg (State.tlbinva_allowed hlev)) rfl rfl
    hmore ((if_neg hone).trans (if_pos (by simpa [State.intOf_eq_operand] using hfree))))

end

end

/-! ### The issue and the completion of `l2wb` (16 R366) -/

/-- Both rows of `l2wb` are one word, which puts its operation in flight. -/
theorem l2wb_launches {i : Instr} {a : Reg} (hi : ∀ s, exec i s = .next (l2wbOp a s)) :
    Launches i (fun _ => [a]) (fun _ => [(.int, a)]) .st (fun _ s t kind ds => ds = [] ∧ t.level ≠ .user ∧ t.full .st = false ∧
      kind = .writeBack ((s.operand t .int a).getLsbD 0) ((s.operand t .int a).getLsbD 1)) := by
  refine Launches.of_issue hi rfl (fun _ => rfl) ?_
  rintro s st t kind ds h hmore hr ⟨rfl, hlev, hroom, rfl⟩
  have hpre : (s.atWord st, roomFor t .st) = (s.atWord st, .ok ()) := congrArg (Prod.mk _) (if_neg (by simp [hroom]))
  exact ⟨(), s.atWord st, _, _, rfl, Level.allows_supervisor hlev, rfl, rfl, hpre, rfl, rfl, rfl, rfl,
    LeavesData.of_eq rfl rfl rfl rfl, rfl, rfl, rfl, rfl, LeavesData.of_eq rfl rfl rfl rfl, rfl, rfl, rfl, rfl, rfl, rfl⟩

section
variable {s : State} {o : Op} (ho : s.op? o.id = some o)
include ho

theorem execL2wbComplete_of_writeBack {push home : Bool} (hk : o.kind = .writeBack push home) :
    exec (.l2wbComplete o.id) s = .next ((s.writeBack push home).arrive o.id id) := by
  have hexec : exec (.l2wbComplete o.id) s = execL2wbComplete o.id s := rfl
  simp only [hexec, execL2wbComplete, ho, hk]

theorem execTlbInvalidateComplete_of_quiet {cids : List Nat} {all : Bool} {lo hi m : Nat} (hk : o.kind = .inval cids all lo hi)
    (hm : o.mark = some m) (hquiet : ∀ n ∈ o.slots, s.writesOf n m = false) :
    exec (.tlbInvalidateComplete o.id) s = .next (s.pushAll.arrive o.id id) := by
  have hexec : exec (.tlbInvalidateComplete o.id) s = execTlbInvalidateComplete o.id s := rfl
  have hnone : ¬ o.slots.any (fun n => s.writesOf n m) = true := by simpa using hquiet
  simp only [hexec, execTlbInvalidateComplete, ho, hk, hm, if_neg hnone]

end

/-- Settles O30: the checks that a hypervisor's word makes decide whether its thread starts an invalidation or goes on; each completion is
the event's one case. -/
theorem invalidationsAndWriteBack : Obligations.InvalidationsAndWriteBack := by
  refine ⟨fun d a b s st t h hmore hlev => ⟨fun hr => ⟨?_, ?_⟩, fun hr => ⟨?_, ?_, ?_⟩⟩, ?_, ?_, ?_⟩
  · exact fun hheld hlen hrange => tlbinv_invalidates h hlev hr hheld hlen hrange
  · exact fun hnone => tlbinv_passes h hlev hr hmore hnone
  · exact fun hall => tlbinva_invalidates_all h hlev hr hall
  · exact fun hone hheld => tlbinva_invalidates_one h hlev hr hone hheld
  · exact fun hone hfree => tlbinva_passes h hlev hr hone hmore hfree
  · intro a i hi
    simp only [List.mem_cons, List.not_mem_nil, or_false] at hi
    obtain rfl | rfl := hi
    · exact l2wb_launches fun _ => rfl
    · exact l2wb_launches fun _ => rfl
  · exact fun s o push home ho hk => execL2wbComplete_of_writeBack ho hk
  · exact fun s o cids all lo hi m ho hk hm hquiet => execTlbInvalidateComplete_of_quiet ho hk hm hquiet

end Sys2Proof.Machine

/-!
# Reset

The state after reset lists nothing but the dies, so that each register is read off a default slot, core or link.
-/
namespace Sys2Proof.Machine

/-! ### What the state after reset holds (16 R392)

The parentheses keep these lemmas from being used by definitional unfolding, in which the kernel would compare large numbers in unary. -/

@[simp] theorem State.slot_reset (n : Nat) : State.reset.slot n = {} := (rfl)

@[simp] theorem State.core_reset (n : Nat) : State.reset.core n = {} := (rfl)

@[simp] theorem State.link_reset (n : Nat) : State.reset.link n = {} := (rfl)

@[simp] theorem State.stateWord_reset : State.reset.stateWord = 0 := (rfl)

@[simp] theorem Sparse.get_nil {α : Type} (d : α) (k : Nat) : Sparse.get d [] k = d := (rfl)

/-- Dies differ after reset in their hampers alone (12 R278). -/
theorem State.die_reset {e : Nat} (h : e < 8) : State.reset.die e = { hpBase := hpReset e } := by
  interval_cases e <;> rfl

/-- The value of a system register depends on the slots, the cores, the dies and the module's own state alone. -/
theorem State.sysValue_congr {s s' : State} (hslots : s'.slots = s.slots) (hcores : s'.cores = s.cores) (hdies : s'.dies = s.dies)
    (hstate : (s'.sec, s'.dbg, s'.pwr) = (s.sec, s.dbg, s.pwr)) (n slot unit : Nat) : s'.sysValue n slot unit = s.sysValue n slot unit := by
  obtain ⟨hsec, hdbg, hpwr⟩ : s'.sec = s.sec ∧ s'.dbg = s.dbg ∧ s'.pwr = s.pwr := by simpa using hstate
  simp only [State.sysValue, State.slot, State.core, State.die, State.stateWord, hslots, hcores, hdies, hsec, hdbg, hpwr]

/-- The registers that are one per slot, one per core or one for the module. -/
theorem State.sysValue_reset (slot unit : Nat) :
    State.reset.sysValue 0 slot unit = 256 ∧ State.reset.sysValue 1 slot unit = 0 ∧ State.reset.sysValue 2 slot unit = 0 ∧
      State.reset.sysValue 3 slot unit = 65535 ∧ State.reset.sysValue 4 slot unit = 6 ∧ State.reset.sysValue 5 slot unit = 0 ∧
      State.reset.sysValue 6 slot unit = 0 ∧ State.reset.sysValue 7 slot unit = 0 ∧ State.reset.sysValue 8 slot unit = 16 * 2 ^ 16 ∧
      State.reset.sysValue 11 slot unit = 0 ∧ State.reset.sysValue 12 slot unit = 0 ∧
      State.reset.sysValue 13 slot unit = 16 * 2 ^ 23 + 3 * 2 ^ 17 + 16 * 2 ^ 8 + 8 ∧ State.reset.sysValue 15 slot unit = 0 := by
  simp [State.sysValue, bit]

theorem State.sysValue_cores_reset (slot unit : Nat) : State.reset.sysValue 14 slot unit = 2 ^ 320 - 1 := by
  have hcores : State.reset.sysValue 14 slot unit = (BitVec.allOnes 320).toNat := rfl
  exact hcores.trans BitVec.toNat_allOnes

/-- The registers that are one per die. -/
theorem State.sysValue_die_reset {e : Nat} (h : e < 8) :
    State.reset.sysValue 9 0 e = (e * 65536 + 61440) * 2 ^ 21 ∧ State.reset.sysValue 10 0 e = 4096 ∧ State.reset.sysValue 16 0 e = 0 ∧
      State.reset.sysValue 17 0 e = 2750 ∧ State.reset.cyc e = 0 := by
  simp [State.sysValue, State.cyc, State.clock, State.die_reset h, hpReset]

/-- A module reset starts from the state after reset in all that a system register shows. -/
theorem State.sysValue_moduleReset (s : State) (n slot unit : Nat) :
    s.moduleReset.sysValue n slot unit = State.reset.sysValue n slot unit := by
  apply State.sysValue_congr <;> rfl

/-- Settles O53: every slot, core and link is the default one, and a die differs from the default one in its hamper's base alone. -/
theorem resetLeavesTheStatedValues : Obligations.ResetLeavesTheStatedValues := by
  refine ⟨fun slot unit => ?_, fun e he => State.sysValue_die_reset he, fun n => ⟨rfl, rfl⟩, rfl, rfl, rfl, rfl, rfl, fun n => ⟨rfl, rfl⟩,
    rfl, rfl, fun s => ⟨s.moduleReset, rfl, s.sysValue_moduleReset⟩⟩
  obtain ⟨h0, h1, h2, h3, h4, h5, h6, h7, h8, h11, h12, h13, h15⟩ := State.sysValue_reset slot unit
  exact ⟨h0, h1, h2, h3, h4, h5, h6, h7, h8, h11, h12, h13, State.sysValue_cores_reset slot unit, h15⟩

end Sys2Proof.Machine

/-!
# Fences and prefetches
-/
namespace Sys2Proof.Machine

/-! ### Fences (09 R198 to R202) -/

/-- The operation that a fence of a thread at a scope becomes. -/
def State.fenceOf (s : State) (c : Ctx) (t : Thread) (n : Nat) (al rl : Option Nat) : Op :=
  { s.newOp c t .none (.fence al rl) with reach := (s.reach (s.slotOf t) t.core n).1 }

/-- What a fence does for its thread. -/
def fenceAct (n : BitVec 4) (acq rel : Bool) (s : State) (c : Ctx) (t : Thread) (_ : Unit) : State × After :=
  let level := (s.reach (s.slotOf t) t.core n.toNat).2
  let al := if acq then some level else none
  let rl := if rel then some level else none
  let o := s.fenceOf c t n.toNat al rl
  if s.fenceReady t al rl && level ≤ 1 && !acq then ((s.fenceEffect t.core al rl).fenceCode o al rl, .go)
  else (s.addOp o, .split (.op s.nextId))

theorem OnlyHomes.threads {s s' : State} (h : OnlyHomes s s') : s'.threads = s.threads := by
  rw [OnlyHomes] at h; rw [h]

theorem State.fenceCode_threads (s : State) (o : Op) (acq rel : Option Nat) : (s.fenceCode o acq rel).threads = s.threads := by
  cases acq <;> cases rel <;> rfl

/-- A fence that discards nothing leaves the threads as they are. -/
theorem State.releaseFence_threads (s : State) (core : Nat) (o : Op) (rl : Option Nat) :
    ((s.fenceEffect core none rl).fenceCode o none rl).threads = s.threads := by
  rw [State.fenceCode_threads]
  cases rl with
  | none => rfl
  | some l => exact (s.releasePush_onlyHomes core l).threads

section
variable {s : State} {st : Strand} {t : Thread} {n : BitVec 4} {acq rel : Bool}

theorem Alone.fenceOp_acts (h : Alone s st t) :
    fenceOp n acq rel s = (fenceAct n acq rel (s.atWord st) (s.ctx st) t ()).1.finishWord (s.ctx st)
      [(t.tid, (fenceAct n acq rel (s.atWord st) (s.ctx st) t ()).2)] [] :=
  h.issue_ok (m := { pre := noCheck, act := eachThread (fenceAct n acq rel) }) rfl (Level.allows_user _) rfl (OperandsReady.empty s t)
    rfl rfl h.threads h.thread rfl

theorem fenceForm_of_fenceOp {i : Instr} (h : Alone s st t) (hmore : st.more) (hi : exec i s = .next (fenceOp n acq rel s)) :
    FenceForm i s st t n.toNat acq rel := by
  refine ⟨fun hready hlevel hacq => ?_, fun hno => ?_⟩
  · subst hacq
    rw [hi, h.fenceOp_acts, fenceAct, if_pos (by simpa using ⟨hready, hlevel⟩)]
    refine congrArg Host.Outcome.next (h.finish_go hmore ?_)
    exact (congrArg (fun l => (List.find? _ l).isSome) ((s.atWord st).releaseFence_threads t.core _ _)).trans
      (Option.isSome_of_eq_some h.thread)
  · rw [hi, h.fenceOp_acts, fenceAct, if_neg (by simpa [and_assoc] using hno)]
    exact congrArg Host.Outcome.next (finish_splitOp s _ st t _)

end

/-- The part on fences, by what `fenceAct` does where its waits are over and where they are not. -/
theorem fencesOrderAtTheirScope : Claims.FencesOrderAtTheirScope := fun _ _ _ _ h hmore =>
  ⟨fenceForm_of_fenceOp h hmore rfl, fenceForm_of_fenceOp h hmore rfl, fenceForm_of_fenceOp h hmore rfl⟩

/-! ### A prefetch whose operation has the name of another (07 R177) -/

/-- A translation of the first 2 MiB to peer-cacheable memory of module 7. -/
def peerMapping : Trans := { loneMapping with peer := some 7, pc := true }

/-- The module of one thread with an operation of another thread in flight under the name that the operation of a `pf` gets. The L1 of its core
holds the first line of module 7, which is Held. -/
def peerModule : State :=
  { loneModule [namesake] [] with
    slots := [(0, { v := true, ctagV := true })]
    routes := [{ dev := 7, minimal := [], nonMinimal := [], escape := none, state := .held, hops := 1 }]
    cores := [(0, { l1tlb := [peerMapping], l1 := [(lineOf (peerPlace 7 0), { peer := true })] })] }

theorem alone_peerModule : Alone peerModule loneStrand loneThread where
  __ := alone_loneModule [namesake] []

/-- The line comes from the L1, so the operation of the `pf` arrives at once, and the other one of its name with it; both complete. -/
theorem ops_after_pf : (stateAfter (exec (.pf 4 0 0) peerModule)).ops = [] := by
  decide +kernel

/-- Refutes O19 in its part on `pf`; the one on fences holds (`fencesOrderAtTheirScope`). The statement ranges over machines in which an operation
in flight already bears the name of the next one. A `pf` whose line the L1 holds then completes that operation of another thread, which the
statement says stays in flight. (Names come from one rising counter, SPEC.md assumption 5, so no such machine is meant to be reached from reset.) -/
theorem not_fencesAndPrefetch : ¬ Obligations.FencesAndPrefetch := by
  rintro ⟨-, hpf⟩
  obtain ⟨s', hexec, -, -, hops, -⟩ := hpf 4 0 0 peerModule loneStrand loneThread alone_peerModule more_loneStrand
    (by decide) (by decide) (by decide) (by decide)
  have hnone := ops_after_pf
  rw [hexec, stateAfter] at hnone
  obtain hops | ⟨p, hops, -⟩ := hops <;> simp [hnone, peerModule, loneModule] at hops

end Sys2Proof.Machine

/-!
# Words that a strand of one thread issues: their registers, their own checks, and the unit that they change
-/
namespace Sys2Proof.Machine

/-! ### The registers that a word names (05 R120) -/

/-- An operation goes in flight where the registers that its word names are some of those that are ready. -/
theorem Launches.of_subset {i : Instr} {named named' : Hints → List Reg} {reads : Hints → List (Cls × Reg)} {cls : Ctr}
    {ok : Ctx → State → Thread → OpKind → List Reg → Prop} (h : Launches i named' reads cls ok)
    (hsub : ∀ x, ∀ q ∈ named' x, q ∈ named x) : Launches i named reads cls ok :=
  fun s st t kind ds ha hmore hready hok => h s st t kind ds ha hmore (hready.of_subset (hsub _)) hok

/-- A list of registers is the same set in the order of the budget check (05 R120). -/
@[simp] theorem mem_namesOf {q : Reg} {l : List Reg} : q ∈ namesOf l ↔ q ∈ l := by
  unfold namesOf
  split
  · simp [or_comm]
  · rfl

theorem OnlyCaches.slotOf {s s' : State} (h : OnlyCaches s s') (t : Thread) : s'.slotOf t = s.slotOf t := by
  rw [State.slotOf, State.unitOf, State.unit?, h.units]; rfl

theorem OnlyCaches.fieldFrac {s s' : State} (h : OnlyCaches s s') (t : Thread) : s'.fieldFrac t = s.fieldFrac t :=
  State.fieldFrac_eq h.slots h.units rfl rfl

theorem OnlyCaches.scopeLevel {s s' : State} (h : OnlyCaches s s') (slot core n : Nat) :
    s'.scopeLevel slot core n = s.scopeLevel slot core n := by
  have hslot : s'.slot slot = s.slot slot := by rw [State.slot, h.slots]; rfl
  unfold State.scopeLevel
  rw [hslot]

/-! ### Words whose own checks change nothing (03 R77) -/

theorem State.isSome_thread?_setThread (s : State) (u : Thread) (n : Nat) : ((s.setThread u).thread? n).isSome = (s.thread? n).isSome := by
  rw [State.thread?_setThread, Option.isSome_map]

theorem State.isSome_thread?_addOp (s : State) (o : Op) (n : Nat) : ((s.addOp o).thread? n).isSome = (s.thread? n).isSome := by
  rw [State.addOp, State.thread?_mapThread _ _ _ _ fun t => Raise.tid t o.cls, Option.isSome_map]
  rfl

/-- A word of any level that a thread issues, whose checks leave the state as it is and whose action keeps every thread. -/
theorem Acts.of_checks {α : Type} {i : Instr} {named : Hints → List Reg} {reads : Hints → List (Cls × Reg)} {ok : Ctx → State → Thread → Prop}
    {f : Ctx → State → Thread → State} {m : Meaning α} {F : State → Ctx → Thread → α → State × After}
    (hi : ∀ s, exec i s = .next (issue m s)) (hact : m.act = eachThread F)
    (hshape : ∀ h, m.shape h = { named := (m.shape h).named, reads := reads h }) (hnamed : ∀ h, ∀ q ∈ (m.shape h).named, q ∈ named h)
    (hmis : ∀ c, m.misplaced c = false)
    (h : ∀ c s t, ok c s t → ∃ x, m.pre s c t = (s, .ok x) ∧ m.group s c [t] = (s, none) ∧ F s c t x = (f c s t, .go) ∧
      ∀ n, ((f c s t).thread? n).isSome = (s.thread? n).isSome) :
    Acts i named reads ok f := by
  refine Acts.of_subset (named' := fun h => (m.shape h).named) (Acts.of_issue hi hact (fun x => by rw [hshape x]) ?_) hnamed
  intro s st t ha _ _ hok
  obtain ⟨x, hpre, hgroup, hF, hkeeps⟩ := h _ _ _ hok
  exact ⟨x, s.atWord st, hmis _, by rw [hshape]; exact Level.allows_user _, rfl, by rw [hshape], hpre, hgroup, rfl, hF,
    (hkeeps _).trans (Option.isSome_of_eq_some ha.thread)⟩

/-- Operands that are ready as the word is checked were ready before. -/
theorem OperandsReady.of_atWord {s : State} {st : Strand} {t : Thread} {n : List Reg} {r : List (Cls × Reg)}
    (h : OperandsReady (s.atWord st) t n r) : OperandsReady s t n r :=
  h.congr rfl (State.fieldFrac_atWord s st t).symm rfl rfl rfl rfl

/-- Where the common checks pass, a word's checks are its own. -/
theorem Meaning.check_of_ready {α : Type} {m : Meaning α} {s : State} {c : Ctx} {t : Thread} (hmis : m.misplaced c = false)
    (hlevel : (m.shape c.hints).level = .user) (hpast : (m.shape c.hints).past = none)
    (hready : OperandsReady s t (m.shape c.hints).named (m.shape c.hints).reads) : m.check s c t = m.pre s c t := by
  simp only [Meaning.check, hmis, commonStop_none hlevel hpast hready]

/-- A word of any level whose own checks find a fault raises it. -/
theorem Raises.of_pre {α : Type} {i : Instr} {named : List Reg} {reads : List (Cls × Reg)} {ok : Ctx → State → Thread → Prop}
    {f : Ctx → State → Thread → FaultInfo} {m : Meaning α} {F : State → Ctx → Thread → α → State × After}
    (hi : ∀ s, exec i s = .next (issue m s)) (hact : m.act = eachThread F) (hgrp : ∀ s c, m.group s c [] = (s, none))
    (hshape : ∀ h, m.shape h = { named := named, reads := reads }) (hmis : ∀ c, m.misplaced c = false)
    (hcode : ∀ c s t, (f c s t).code ≠ 0x0901) (hpre : ∀ c s t, ok c s t → m.pre s c t = (s, .error (.fault (f c s t)))) :
    Raises i (fun _ => named) (fun _ => reads) ok f := by
  intro s st t h hready hok
  rw [hi, h.issue_fault (hcode _ _ _) _ (by rw [hact]; rfl) hgrp]
  rw [Meaning.check_of_ready (hmis _) (by rw [hshape]) (by rw [hshape]) (by rw [hshape]; exact hready.atWord), hpre _ _ _ hok]

/-! ### The unit of a name after a change -/

theorem State.unit?_mapUnit (s : State) (n : Nat) {f : UnitSt → UnitSt} (hf : ∀ u, (f u).uid = u.uid) (m : Nat) :
    (s.mapUnit n f).unit? m = (s.unit? m).map (fun u => if u.uid = n then f u else u) := by
  have hid : ∀ u : UnitSt, (if u.uid = n then f u else u).uid = u.uid := fun u => by split <;> simp [hf]
  rw [State.unit?, State.mapUnit, List.find?_map]
  simp only [Function.comp_def, hid]
  rfl

theorem State.unit?_uid {s : State} {n : Nat} {u : UnitSt} (h : s.unit? n = some u) : u.uid = n := by
  have := List.find?_some h; simpa using this

end Sys2Proof.Machine

/-!
# Atomics: their issue, and the update of a word at its home
-/
namespace Sys2Proof.Machine

/-! ### The issue of an atomic (10 R213 to R217) -/

/-- The compare and swaps, whose new value stands in the register of an `hx` hint (10 R216). -/
def AtomFn.swaps (f : AtomFn) : Bool := f == .cas || f == .cas64

/-- The kind of the operation of an atomic that a thread issues on an access. -/
def State.atomKind (s : State) (c : Ctx) (t : Thread) (ret : Bool) (f : AtomFn) (b : Reg) (acc : Access) : OpKind :=
  let y := t.operand ((s.fieldFrac t).getD 0) f b
  .atomic acc f (if f.swaps then t.operand 0 f c.hints.c else y) (if f.swaps then y else 0)
    (atomPlace t.modeD (s.scopeLevel (s.slotOf t) t.core c.hints.scope) acc) (orderedAtomic ret f)

theorem OnlyCaches.atomKind {s s' : State} (h : OnlyCaches s s') (c : Ctx) (t : Thread) (ret : Bool) (f : AtomFn) (b : Reg) (acc : Access) :
    s'.atomKind c t ret f b acc = s.atomKind c t ret f b acc := by
  simp only [State.atomKind, h.fieldFrac, h.slotOf, h.scopeLevel]

/-- The access of an atomic that a thread issues: the forms that deterministic mode refuses fault here (10 R215, R217). -/
def State.atomAccess (s : State) (c : Ctx) (t : Thread) (ret : Bool) (f : AtomFn) (a : Reg) : State × Except Stop Access :=
  s.globalAccess t (t.pair a) f.size c.hints.pol
    (if t.modeD && (f == .fadd || (orderedAtomic ret f && !c.st.blk.gath))
      then some { code := 0x0A01, addr := t.pair a, aux := 0xFFFFFFFF } else none) needStore

/-- The word of an atomic puts its operation in flight where its counter has room and its access passes the checks. -/
theorem launches_of_atomOp {i : Instr} {ret : Bool} {f : AtomFn} {d a b : Reg} (hi : ∀ s, exec i s = .next (atomOp ret f d a b s)) :
    Launches i (fun h => (if ret then f.regs d else []) ++ pairRegs a ++ f.regs b ++ (if f.swaps then f.regs h.c else []))
      (fun _ => [(.int64, a), (f.cls, b)]) (if ret then .ld else .st)
      (fun c s t kind ds => (f.swaps = true → c.hints.hx.isSome = true) ∧ (f = .cas64 → c.hints.c.toNat % 2 = 0) ∧
        ds = (if ret then f.regs d else []) ∧ t.full (if ret then .ld else .st) = false ∧
        ∃ acc, (s.atomAccess c t ret f a).2 = .ok acc ∧ kind = s.atomKind c t ret f b acc) := by
  refine Launches.of_subset (named' := fun h => (if ret then namesOf (f.regs d) else []) ++ pairNames a ++ namesOf (f.regs b) ++
      (if f.swaps then namesOf (f.regs h.c) else [])) (Launches.of_issue hi rfl (fun _ => rfl) ?_) fun h q => by
    split <;> split <;> simp
  rintro s st t kind ds h hmore hr ⟨hhx, heven, rfl, hroom, acc, hacc, rfl⟩
  have hpre : (s.atWord st).atomAccess (s.ctx st) t ret f a = (((s.atWord st).atomAccess (s.ctx st) t ret f a).1, .ok acc) :=
    Prod.ext rfl hacc
  have hcaches := State.globalAccess_ok hpre
  have hdata : LeavesData s ((s.atWord st).atomAccess (s.ctx st) t ret f a).1 :=
    LeavesData.trans (b := s.atWord st) (.of_eq rfl rfl rfl rfl) hcaches.data
  have hx : (f.swaps && st.hints.hx.isNone) = false := by
    rw [Bool.and_eq_false_imp, Option.isNone_eq_false_iff]
    exact hhx
  have hodd : (f == .cas64 && st.hints.c.toNat % 2 == 1) = false := by
    rw [Bool.and_eq_false_imp, beq_iff_eq, beq_eq_false_iff_ne]
    exact fun hf => by rw [show st.hints.c.toNat % 2 = 0 from heven hf]; exact Nat.zero_ne_one
  have hplaced : ((f.swaps && st.hints.hx.isNone) || (f == .cas64 && st.hints.c.toNat % 2 == 1) || false || false) = false := by
    rw [hx, hodd]; rfl
  exact ⟨acc, _, _, _, hplaced, Level.allows_user _, rfl, rfl, (if_neg (Bool.eq_false_iff.mp hroom)).trans hpre, rfl, hcaches.threads,
    hcaches.ops, hcaches.strands, hdata, rfl, rfl, rfl, rfl, .of_eq rfl rfl rfl rfl, rfl, rfl, hcaches.atomKind .., rfl, rfl, rfl⟩

/-- An atomic that is no compare and swap. -/
theorem atomicOn_of_atomOp {i : Instr} {ret : Bool} {f : AtomFn} {d a b : Reg} (hi : ∀ s, exec i s = .next (atomOp ret f d a b s))
    (hf : f.swaps = false) : AtomicOn i ret f d a b := by
  intro s st t kind ds h hmore hr ⟨hds, hroom, acc, hacc, hkind⟩
  have h64 : f ≠ .cas64 := by rintro rfl; cases hf
  refine launches_of_atomOp hi s st t kind ds h hmore (by simpa [hf] using hr)
    ⟨by simp [hf], fun h => absurd h h64, hds, hroom, acc, hacc, ?_⟩
  simpa [State.atomKind, hf] using hkind

/-- A compare and swap. -/
theorem swapsOn_of_atomOp {i : Instr} {f : AtomFn} {d a b : Reg} (hi : ∀ s, exec i s = .next (atomOp true f d a b s))
    (hf : f.swaps = true) : SwapsOn i f d a b := by
  rintro s st t kind ds h hmore hhx heven hr hds hroom ⟨acc, hacc, hkind⟩
  refine launches_of_atomOp hi s st t kind ds h hmore (by simpa [hf] using hr) ⟨fun _ => hhx, heven, hds, hroom, acc, ?_, ?_⟩
  · have hfadd : (f == .fadd) = false := by
      obtain rfl | rfl : f = .cas ∨ f = .cas64 := by simpa [AtomFn.swaps] using hf
      · rfl
      · rfl
    simpa [State.atomAccess, orderedAtomic, hfadd, State.ctx_hints, State.ctx_st] using hacc
  · simpa [State.atomKind, hf, orderedAtomic, State.ctx_hints] using hkind

/-- Settles O15: every atomic is `atomOp` with its function, which issues one operation on the access that passes the checks. -/
theorem atomicsGoInFlight : Obligations.AtomicsGoInFlight := by
  intro d a b
  have on : ∀ {i ret f d}, (∀ s, exec i s = .next (atomOp ret f d a b s)) → f.swaps = false → AtomicOn i ret f d a b :=
    atomicOn_of_atomOp
  exact ⟨on (fun _ => rfl) rfl, on (fun _ => rfl) rfl, on (fun _ => rfl) rfl, on (fun _ => rfl) rfl, on (fun _ => rfl) rfl,
    on (fun _ => rfl) rfl, on (fun _ => rfl) rfl, on (fun _ => rfl) rfl, on (fun _ => rfl) rfl, on (fun _ => rfl) rfl,
    on (fun _ => rfl) rfl, on (fun _ => rfl) rfl, on (fun _ => rfl) rfl, on (fun _ => rfl) rfl, on (fun _ => rfl) rfl,
    on (fun _ => rfl) rfl, on (fun _ => rfl) rfl, on (fun _ => rfl) rfl, on (fun _ => rfl) rfl, on (fun _ => rfl) rfl,
    on (fun _ => rfl) rfl, on (fun _ => rfl) rfl, on (fun _ => rfl) rfl, on (fun _ => rfl) rfl, on (fun _ => rfl) rfl,
    on (fun _ => rfl) rfl, on (fun _ => rfl) rfl, on (fun _ => rfl) rfl, on (fun _ => rfl) rfl, on (fun _ => rfl) rfl,
    swapsOn_of_atomOp (fun _ => rfl) rfl, swapsOn_of_atomOp (fun _ => rfl) rfl⟩

/-! ### The functions of the atomics (10 R214, R216) -/

theorem atomicFunctions : Claims.AtomicFunctions := by
  intro x y p q e
  simp only [atomValue, loWord_setWidth, minI_eq, maxI_eq, minN_eq, maxN_eq, BitVec.lt_def, BitVec.ule, BitVec.ult, decide_eq_true_eq, true_and, and_true,
    implies_true]
  -- what is left are the two that wrap, `incw` and `decw`
  constructor
  · split
    · rfl
    · rfl
  · split
    · rfl
    · rfl

/-! ### An atomic at its home (10 R212, 09 R204) -/

theorem State.op?_mapOp (s : State) (id : Nat) {f : Op → Op} (hf : ∀ o, (f o).id = o.id) (n : Nat) :
    (s.mapOp id f).op? n = (s.op? n).map (fun o => if o.id = id then f o else o) := by
  have hid : ∀ o : Op, (if o.id = id then f o else o).id = o.id := fun o => by split <;> simp [hf]
  rw [State.op?, State.mapOp, List.find?_map]
  simp only [Function.comp_def, hid]
  rfl

/-- A line of which a die holds nothing brings nothing home. -/
theorem State.dropRemote_mem_of_absent {s : State} {die line : Nat} (h : s.remoteLine die line = {}) :
    (s.dropRemote die line).mem = s.mem := by
  have hpush : (s.pushLine die line).mem = s.mem := by
    rw [State.pushLine_mem, State.homeDeltas_none _ _ (by rw [h]), State.homeDirtyBytes_clean_mem _ _ (by rw [h])]
  exact hpush

theorem State.dropRemote_ops (s : State) (die line : Nat) : (s.dropRemote die line).ops = s.ops :=
  (s.pushLine_onlyHomes die line).ops

theorem State.l1Give_of_nothingDue {s : State} {core loc : Nat} (h : s.throughs core (lineOf loc) = []) :
    s.l1Give core loc = s.l1Drop core loc := by
  rw [State.l1Give, h]; rfl

section
variable {s : State} {o : Op} {a : Access} {f : AtomFn} {x e : Pair} {ord : Bool}

/-- Where the issuing core and die give up the line of an atomic, nothing of it comes home: memory and the operations are as before. -/
theorem State.giveUp_of_nothingDue (hremote : s.remoteLine (dieOf o.core) (lineOf a.loc) = {})
    (hthroughs : s.throughs o.core (lineOf a.loc) = []) :
    ((s.l1Give o.core a.loc).dropRemote (dieOf o.core) (lineOf a.loc)).mem = s.mem ∧
      ((s.l1Give o.core a.loc).dropRemote (dieOf o.core) (lineOf a.loc)).ops = s.ops := by
  rw [State.l1Give_of_nothingDue hthroughs]
  exact ⟨State.dropRemote_mem_of_absent (s := s.l1Drop o.core a.loc) hremote, State.dropRemote_ops ..⟩

/-- The operation of an atomic that was applied at its place keeps the old value for the destination. -/
def Op.servedWith (o : Op) (size : Nat) (old : Pair) : Op := { o with served := true, data := valueWords size old }

/-- The application of an atomic at its home, outside deterministic mode: memory takes the value that it leaves, and the operation keeps the old
one. -/
theorem State.applyAtomic_home (n : Nat) (hk : o.kind = .atomic a f x e .home ord) (hclaims : o.claims = false)
    (hremote : s.remoteLine (dieOf o.core) (lineOf a.loc) = {}) (hthroughs : s.throughs o.core (lineOf a.loc) = []) :
    let old : Pair := BitVec.ofNat 64 (s.homeNat a.loc f.size)
    ∃ q : State, q.ops = s.ops ∧ q.mem = Memory.writeBytes s.mem a.loc (leBytes f.size (atomValue f old x e).toNat) ∧
      State.applyAtomic n s o = q.mapOp o.id (fun p => p.servedWith f.size old) := by
  obtain ⟨hmem, hops⟩ := State.giveUp_of_nothingDue (o := o) hremote hthroughs
  generalize hq : (s.l1Give o.core a.loc).dropRemote (dieOf o.core) (lineOf a.loc) = q at hmem hops
  have hold : q.homeNat a.loc f.size = s.homeNat a.loc f.size := by rw [State.homeNat, State.homeRead, hmem]; rfl
  have hwrite (bs : List Byte) : (q.homeWrite a.loc bs).ops = s.ops ∧ (q.homeWrite a.loc bs).mem = Memory.writeBytes s.mem a.loc bs := by
    rw [(q.homeWrite_onlyHomes a.loc bs).ops, State.homeWrite_mem, hops, hmem]
    exact ⟨rfl, rfl⟩
  simp only [State.applyAtomic, hk, hclaims, Bool.false_eq_true, if_false, State.atomHome, hq, hold]
  refine ⟨_, ?_, ?_, rfl⟩
  · split
    · exact (hwrite _).1
    · exact (hwrite _).1
  · split
    · exact (hwrite _).2
    · exact (hwrite _).2

/-- A batch of one operation whose data is good is applied as that operation is. -/
theorem State.applyBatch_one {ord : Bool} (hk : o.kind = .atomic a f x e .home ord) (hbatch : s.batchOf o = [o]) (hfree : s.batchFree o = true)
    (hgood : s.homeBad a.loc f.size = false) : s.applyBatch o false = State.applyAtomic 1 s o := by
  have hkey : o.placeKey.isNone = false := by rw [Op.placeKey, hk]; rfl
  have hbad : s.atomBad o = false := by rw [State.atomBad, hk]; exact hgood
  simp [State.applyBatch, hkey, hfree, hbatch, hbad]

end

theorem homeAtomicUpdatesItsWord : Claims.HomeAtomicUpdatesItsWord := by
  intro s o a f x e ord ho hk _ hdet hbatch hfree hgood hremote hthroughs _
  have hexec : exec (.atomicBatchArrival o.id false) s = execAtomicBatchArrival o.id false s := rfl
  obtain ⟨q, hops, hmem, happly⟩ := State.applyAtomic_home 1 hk (by rw [Op.claims, hdet]; rfl) hremote hthroughs
  have hop : q.op? o.id = some o := by rw [State.op?, hops]; exact ho
  refine ⟨State.applyAtomic 1 s o, ?_, ⟨o.servedWith _ _, ?_, rfl, rfl⟩, fun j => ?_⟩
  · simp only [hexec, execAtomicBatchArrival, ho, hk, State.applyBatch_one hk hbatch hfree hgood]
  · rw [happly, State.op?_mapOp q o.id (f := fun p => p.servedWith f.size _) fun _ => rfl, hop, Option.map_some, if_pos rfl]
  · rw [happly]
    exact (congrArg (fun m => Memory.read m j) hmem).trans (by rw [Memory.read_writeBytes, leBytes_length])

/-- Settles O16: each function by its own case, and a batch of one as one write at the home of its word. -/
theorem atomicsUpdateTheirWord : Obligations.AtomicsUpdateTheirWord := ⟨atomicFunctions, homeAtomicUpdatesItsWord⟩

end Sys2Proof.Machine

/-!
# Named barriers
-/
namespace Sys2Proof.Machine

/-! ### What an arrival does (10 R219, R220) -/

section
variable {s : State} {t : Thread} {a : Reg} {i : BitVec 6}

theorem State.barrier_setBarrier {u : UnitSt} {uid k : Nat} (hu : s.unit? uid = some u) (b : Barrier) :
    (s.setBarrier uid k b).barrier uid k = b := by
  have hset : (s.setBarrier uid k b).unit? uid = some { u with barriers := Sparse.set {} u.barriers k b } := by
    refine (State.unit?_mapUnit s uid ?_ uid).trans ?_
    · exact fun _ => rfl
    · rw [hu, Option.map_some, if_pos (State.unit?_uid hu)]
  rw [State.barrier, hset]
  exact Sparse.get_set_self _ _ _ _

/-- A wait at a barrier is over once the barrier has passed the number that it waits for. -/
theorem State.holds_barrier {u : Thread} (hunit : (s.unit? u.unit).isSome = true) (k inst : Nat) :
    s.holds u (.barrier k inst) = ((s.barrier u.unit k).inst != inst) := by
  obtain ⟨v, hv⟩ := Option.isSome_iff_exists.mp hunit
  simp only [State.holds, State.unitOf, State.barrier, hv]

/-- The number of a barrier after an arrival: it goes up with the last one. -/
theorem State.barrier_arrived (hunit : (s.unit? t.unit).isSome = true) : ((s.arrived t a i).barrier t.unit i.toNat).inst =
    (s.barrier t.unit i.toNat).inst + if s.came t i = (s.operand t .int a).toNat then 1 else 0 := by
  obtain ⟨v, hv⟩ := Option.isSome_iff_exists.mp hunit
  rw [State.arrived, State.barrier_setBarrier (s := s.codeOut t 0) hv]
  split <;> rfl

theorem State.unit?_arrived (hunit : (s.unit? t.unit).isSome = true) : ((s.arrived t a i).unit? t.unit).isSome = true := by
  refine (congrArg Option.isSome (State.unit?_mapUnit (s.codeOut t 0) t.unit ?_ t.unit)).trans ?_
  · exact fun _ => rfl
  · rw [Option.isSome_map]; exact hunit

theorem State.barrierReady.unit (h : s.barrierReady t a i) : (s.unit? t.unit).isSome = true := by
  obtain ⟨-, -, hpos, hle, -⟩ := h
  rw [State.ntid, State.unitOf] at hle
  split at hle
  · next u hu => rw [hu]; rfl
  · omega

/-- A count of 1 to the unit's threads passes. -/
theorem State.count_passes (hpos : 1 ≤ (s.operand t .int a).toNat) (hle : (s.operand t .int a).toNat ≤ s.ntid t) :
    ¬ (decide (s.operand t .int a = 0) || decide (s.ntid t < (s.operand t .int a).toNat)) = true := by
  have h0 : s.operand t .int a ≠ 0 := by rintro h; rw [h] at hpos; exact absurd hpos (by decide)
  simpa [hle] using h0

/-- An arrival that passes its checks is counted. -/
theorem State.arriveAt_of_ready (h : s.barrierReady t a i) (wait : Bool) : s.arriveAt t i.toNat (s.operand t .int a) wait =
    if s.came t i = (s.operand t .int a).toNat then
      (if wait then ((s.arrived t a i).acquireDiscard t.core 0).codeIn ((s.arrived t a i).slotOf t) t.core 0 else s.arrived t a i, .go)
    else if wait then (s.arrived t a i).awaitBarrier t i.toNat (s.barrier t.unit i.toNat).inst else (s.arrived t a i, .go) := by
  obtain ⟨-, -, hpos, hle, hopen⟩ := h
  have hsame : ¬ ((s.barrier t.unit i.toNat).opened && decide ((s.barrier t.unit i.toNat).np ≠ (s.operand t .int a).toNat)) = true := by
    simpa using hopen
  rw [State.arriveAt, if_neg (State.count_passes hpos hle)]
  dsimp only
  rw [if_neg hsame]
  unfold State.arrived
  by_cases hlast : s.came t i = (s.operand t .int a).toNat
  · simp only [if_pos hlast]
    exact if_pos hlast
  · simp only [if_neg hlast]
    exact if_neg hlast

theorem State.arriveAt_of_badCount {wait : Bool} (h : s.operand t .int a = 0 ∨ s.ntid t < (s.operand t .int a).toNat) :
    s.arriveAt t i.toNat (s.operand t .int a) wait = (s, .fault { code := 0x0204, aux := s.operand t .int a }) :=
  if_pos (by simpa using h)

theorem State.arriveAt_of_otherCount {wait : Bool} (hpos : 1 ≤ (s.operand t .int a).toNat) (hle : (s.operand t .int a).toNat ≤ s.ntid t)
    (hopen : (s.barrier t.unit i.toNat).opened = true) (hother : (s.barrier t.unit i.toNat).np ≠ (s.operand t .int a).toNat) :
    s.arriveAt t i.toNat (s.operand t .int a) wait =
      (s, .fault { code := 0x0204, aux := BitVec.ofNat 32 (s.barrier t.unit i.toNat).np }) := by
  rw [State.arriveAt, if_neg (State.count_passes hpos hle)]
  exact if_pos (by simpa [hopen] using hother)

/-- A barrier of a unit that is gone is closed. -/
theorem State.unit?_of_opened {k : Nat} (h : (s.barrier t.unit k).opened = true) : (s.unit? t.unit).isSome = true := by
  cases hu : s.unit? t.unit with
  | none => rw [State.barrier, hu] at h; cases h
  | some u => rfl

theorem State.slotOf_arrived : (s.arrived t a i).slotOf t = s.slotOf t := by
  have hset : (s.arrived t a i).unitOf t = (s.unitOf t).map (fun u => if u.uid = t.unit then _ else u) :=
    State.unit?_mapUnit (s.codeOut t 0) t.unit (by exact fun _ => rfl) t.unit
  rw [State.slotOf_eq_getD, State.slotOf_eq_getD, hset, Option.map_map]
  congr 2
  funext u
  simp only [Function.comp]
  split <;> rfl

end

/-- A thread that owes the acquire at core scope with which its wait ends (10 R220). -/
def Thread.owingAcquire (t : Thread) : Thread := { t with owes := some 0 }

theorem State.awaitBarrier_eq (q : State) (t : Thread) (i inst : Nat) :
    q.awaitBarrier t i inst = (q.mapThread t.tid Thread.owingAcquire, .split (.barrier i inst)) := rfl

/-! ### Where the thread of a barrier word goes (04 R97, R116) -/

section
variable {s : State} {st : Strand} {t : Thread} {a : Reg} {i : BitVec 6} (h : Alone s st t)

/-- A thread that waits for the last arrival at an open barrier is not released. -/
theorem State.released_awaiting {q : State} (ht : q.thread? t.tid = some t) (hunit : (q.unit? t.unit).isSome = true) :
    (q.mapThread t.tid Thread.owingAcquire).released (t.tid, .split (.barrier i.toNat (q.barrier t.unit i.toNat).inst)) =
      (t.tid, .split (.barrier i.toNat (q.barrier t.unit i.toNat).inst)) := by
  have hthread : (q.mapThread t.tid Thread.owingAcquire).thread? t.tid = some t.owingAcquire := by
    rw [State.thread?_mapThread _ _ _ Thread.owingAcquire fun _ => rfl, ht, Option.map_some, if_pos rfl]
  have hwaits : (q.mapThread t.tid Thread.owingAcquire).holds t.owingAcquire (.barrier i.toNat (q.barrier t.unit i.toNat).inst) = false :=
    (State.holds_barrier (s := q.mapThread t.tid Thread.owingAcquire) (u := t.owingAcquire) hunit _ _).trans (bne_self_eq_false _)
  simp only [State.released, hthread, hwaits, Bool.false_eq_true, if_false]

/-- A thread that waits for the last arrival at an open barrier leaves its strand. -/
theorem State.finish_awaitBarrier {q : State} (ht : q.thread? t.tid = some t) (hunit : (q.unit? t.unit).isSome = true) :
    (q.mapThread t.tid Thread.owingAcquire).finishWord (s.ctx st)
      [(t.tid, .split (.barrier i.toNat (q.barrier t.unit i.toNat).inst))] [] = q.waitsAtBarrier st t i :=
  (finish_leave (.split (.barrier i.toNat (q.barrier t.unit i.toNat).inst)) _ rfl (State.released_awaiting ht hunit)).trans
    (State.leaveOne_place _ _ _ _ rfl)

include h

/-- A thread whose word acts by a fault takes it, and its strand ends. -/
theorem Alone.finish_fault {f : FaultInfo} (hf : f.code ≠ 0x0901) :
    (s.atWord st).finishWord (s.ctx st) [(t.tid, .fault f)] [] = s.faults st t f := by
  rw [finish_leave (.fault f) (.fault f st.site) rfl rfl, State.leaveOne_fault _ _ _ hf, State.faults,
    State.mapThread_eq_self (s := (s.atWord st).endStrand st) h.threads h.thread (Thread.acted_eq_self h.fresh)]

/-- An arrival whose thread's earlier operations have completed acts. -/
theorem Alone.barOp_acts (hready : OperandsReady s t [a] [(.int, a)]) (hquiet : (s.atWord st).holds t .quiet = true) (wait : Bool) :
    let r := (s.atWord st).arriveAt t i.toNat ((s.atWord st).operand t .int a) wait
    barOp a i wait s = r.1.finishWord (s.ctx st) [(t.tid, r.2)] [] :=
  h.issue_ok (F := fun s _ t _ => s.arriveAt t i.toNat (t.rd ((s.fieldFrac t).getD 0) .int a) wait) rfl (Level.allows_user _) rfl hready
    (if_pos hquiet) rfl h.threads h.thread rfl

theorem Alone.barOp_waits (hready : OperandsReady s t [a] [(.int, a)]) (hbusy : (s.atWord st).holds t .quiet = false) (wait : Bool) :
    barOp a i wait s = ((s.atWord st).endStrand st).enterAt t.tid st.runPc st.blk .quiet := by
  refine h.issue_waits ?_ rfl
  rw [Meaning.check_of_ready rfl rfl rfl hready.atWord]
  exact if_neg (Bool.eq_false_iff.mp hbusy)

theorem Alone.barOp_faults {wait : Bool} {f : FaultInfo} (hready : OperandsReady s t [a] [(.int, a)]) (hquiet : (s.atWord st).holds t .quiet = true)
    (hf : f.code ≠ 0x0901) (hfault : (s.atWord st).arriveAt t i.toNat ((s.atWord st).operand t .int a) wait = (s.atWord st, .fault f)) :
    barOp a i wait s = s.faults st t f := by
  rw [h.barOp_acts hready hquiet, hfault]
  exact h.finish_fault hf

end

/-! ### `bar`, `bar.arrive` and `bar.wait` (10 R220) -/

/-- What `bar.wait` does for its thread. -/
def barWaitAct (i : BitVec 6) (s : State) (_ : Ctx) (t : Thread) (_ : Unit) : State × After :=
  if (s.barrier t.unit i.toNat).opened then s.awaitBarrier t i.toNat (s.barrier t.unit i.toNat).inst else (s, .go)

section
variable {s : State} {st : Strand} {t : Thread} {a : Reg} {i : BitVec 6} (h : Alone s st t)
include h

section
variable (hready : (s.atWord st).barrierReady t a i)
include hready

theorem Alone.barrier_acts (wait : Bool) :
    barOp a i wait s = ((s.atWord st).arriveAt t i.toNat ((s.atWord st).operand t .int a) wait).1.finishWord (s.ctx st)
      [(t.tid, ((s.atWord st).arriveAt t i.toNat ((s.atWord st).operand t .int a) wait).2)] [] := by
  obtain ⟨hops, hquiet, -, -, -⟩ := hready
  exact h.barOp_acts hops.of_atWord hquiet wait

theorem barArrive_arrives (hmore : st.more) : exec (.barArrive a i) s = .next (((s.atWord st).arrived t a i).goesOn st) := by
  refine congrArg Host.Outcome.next ((h.barrier_acts hready false).trans ?_)
  rw [State.arriveAt_of_ready hready]
  simp only [Bool.false_eq_true, if_false, ite_self]
  exact h.finish_go hmore (Option.isSome_of_eq_some h.thread)

theorem bar_completes (hlast : (s.atWord st).lastToArrive t a i) (hmore : st.more) : exec (.bar a i) s =
    .next (((((s.atWord st).arrived t a i).acquireDiscard t.core 0).codeIn (s.slotOf t) t.core 0).goesOn st) := by
  rw [State.lastToArrive] at hlast
  refine congrArg Host.Outcome.next ((h.barrier_acts hready true).trans ?_)
  rw [State.arriveAt_of_ready hready, if_pos hlast]
  simp only [if_true]
  rw [State.slotOf_arrived, State.slotOf_atWord]
  exact h.finish_go hmore (Option.isSome_of_eq_some h.thread)

theorem bar_waits (hnot : ¬ (s.atWord st).lastToArrive t a i) :
    exec (.bar a i) s = .next (((s.atWord st).arrived t a i).waitsAtBarrier st t i) := by
  rw [State.lastToArrive] at hnot
  have hinst : (((s.atWord st).arrived t a i).barrier t.unit i.toNat).inst = ((s.atWord st).barrier t.unit i.toNat).inst := by
    rw [State.barrier_arrived hready.unit, if_neg hnot, Nat.add_zero]
  refine congrArg Host.Outcome.next ((h.barrier_acts hready true).trans ?_)
  rw [State.arriveAt_of_ready hready, if_neg hnot, ← hinst]
  exact State.finish_awaitBarrier h.thread (State.unit?_arrived hready.unit)

end

theorem Alone.barWait_acts : exec (.barWait i) s = .next ((barWaitAct i (s.atWord st) (s.ctx st) t ()).1.finishWord (s.ctx st)
    [(t.tid, (barWaitAct i (s.atWord st) (s.ctx st) t ()).2)] []) :=
  congrArg Host.Outcome.next (h.issue_ok (m := { pre := noCheck, act := eachThread (barWaitAct i) }) rfl (Level.allows_user _) rfl
    (OperandsReady.empty s t) rfl rfl h.threads h.thread rfl)

theorem barWait_passes (hmore : st.more) (hclosed : ((s.atWord st).barrier t.unit i.toNat).opened = false) :
    exec (.barWait i) s = .next ((s.atWord st).goesOn st) := by
  rw [h.barWait_acts, barWaitAct, hclosed]
  exact congrArg Host.Outcome.next (h.finish_go hmore (Option.isSome_of_eq_some h.thread))

theorem barWait_waits (hopen : ((s.atWord st).barrier t.unit i.toNat).opened = true) :
    exec (.barWait i) s = .next ((s.atWord st).waitsAtBarrier st t i) := by
  rw [h.barWait_acts, barWaitAct, hopen]
  exact congrArg Host.Outcome.next (State.finish_awaitBarrier h.thread (State.unit?_of_opened hopen))

end

/-- An arrival waits first, and faults on its count, as any of the two words does. -/
theorem arrivals_check {x : Instr} {wait : Bool} {a : Reg} {i : BitVec 6} (hx : ∀ s, exec x s = .next (barOp a i wait s)) :
    (∀ s st t, Alone s st t → OperandsReady s t [a] [(.int, a)] → (s.atWord st).holds t .quiet = false →
      exec x s = .next (((s.atWord st).endStrand st).enterAt t.tid st.runPc st.blk .quiet)) ∧
    Raises x (fun _ => [a]) (fun _ => [(.int, a)])
      (fun _ s t => s.holds t .quiet = true ∧ (s.operand t .int a = 0 ∨ s.ntid t < (s.operand t .int a).toNat))
      (fun _ s t => { code := 0x0204, aux := s.operand t .int a }) ∧
    Raises x (fun _ => [a]) (fun _ => [(.int, a)])
      (fun _ s t => s.holds t .quiet = true ∧ 1 ≤ (s.operand t .int a).toNat ∧ (s.operand t .int a).toNat ≤ s.ntid t ∧
        (s.barrier t.unit i.toNat).opened = true ∧ (s.barrier t.unit i.toNat).np ≠ (s.operand t .int a).toNat)
      (fun _ s t => { code := 0x0204, aux := BitVec.ofNat 32 (s.barrier t.unit i.toNat).np }) := by
  have hcode : (0x0204 : Nat) ≠ 0x0901 := by decide
  refine ⟨fun s st t h hready hbusy => ?_, ?_, ?_⟩
  · rw [hx, h.barOp_waits hready hbusy]
  · rintro s st t h hready ⟨hquiet, hcount⟩
    rw [hx, h.barOp_faults hready hquiet hcode (State.arriveAt_of_badCount hcount)]
  · rintro s st t h hready ⟨hquiet, hpos, hle, hopen, hother⟩
    rw [hx, h.barOp_faults hready hquiet hcode (State.arriveAt_of_otherCount hpos hle hopen hother)]

/-- The last arrival ends every wait for it. -/
theorem State.holds_of_completed {s : State} {t u : Thread} {a : Reg} {i : BitVec 6} (hunit : (s.unit? t.unit).isSome = true)
    (hu : u.unit = t.unit) (hlast : s.lastToArrive t a i) :
    (s.arrived t a i).holds u (.barrier i.toNat (s.barrier t.unit i.toNat).inst) = true := by
  rw [State.lastToArrive] at hlast
  rw [State.holds_barrier (by rw [hu]; exact State.unit?_arrived hunit), hu, State.barrier_arrived hunit, if_pos hlast]
  simp

/-- Settles O18: each arrival by what `arriveAt` does where its checks pass and where one fails. -/
theorem barriersCountArrivals : Obligations.BarriersCountArrivals := by
  refine ⟨fun a i s st t h hmore hready => barArrive_arrives h hready hmore,
    fun a i s st t h hready hlast hmore => bar_completes h hready hlast hmore, fun a i s st t h hready hnot => bar_waits h hready hnot,
    fun i s st t h hmore hclosed => barWait_passes h hmore hclosed, fun i s st t h hopen => barWait_waits h hopen, fun a i => ?_,
    fun s t u a i hunit hu hlast => State.holds_of_completed hunit hu hlast⟩
  simp only [List.forall_mem_cons, List.not_mem_nil, false_implies, implies_true, and_true]
  exact ⟨arrivals_check (fun _ => rfl), arrivals_check (fun _ => rfl)⟩

end Sys2Proof.Machine

/-!
# Creels and stall records
-/
namespace Sys2Proof.Machine

/-! ### The claim of a slot (10 R226, R229) -/

/-- The head of a creel of which it is FREE counts. -/
theorem Creel.freeCount_pos {c : Creel} (hh : c.h < c.n) (hfree : c.slotAt c.h = .free) : 0 < c.freeCount := by
  have hn : c.n ≠ 0 := by omega
  obtain ⟨m, hm⟩ := Nat.exists_eq_succ_of_ne_zero hn
  rw [Creel.freeCount, if_neg hn]
  conv_rhs => rw [hm]
  rw [Creel.freeRun, Nat.mod_eq_of_lt hh, if_pos hfree]
  omega

/-- A creel whose head slot a thread has claimed. -/
def Creel.afterClaim (c : Creel) (k : CreelSlot) (tid : Nat) : Creel :=
  { (c.put c.h k) with
    h := (c.h + 1) % c.n, queue := c.queue ++ [c.h], starved := c.starved.filter (fun p => p.1 != tid) }

section
variable {s : State} {t : Thread} {k : BitVec 7} {copy : Bool}

/-- What a claim finds in ring order outside overflow mode: the head slot. -/
theorem Creel.claim_head {c : Creel} (ho : c.o = false) (hh : c.h < c.n) (hfree : c.slotAt c.h = .free) :
    c.claim copy = some (c.h, { (c.put c.h (if copy then .claimedCopy else .claimedPost)) with
      h := (c.h + 1) % c.n, queue := c.queue ++ [c.h] }) := by
  simp [Creel.claim, ho, Creel.freeCount_pos hh hfree]

variable (ho : (s.creel t.unit k.toNat).o = false) (hh : (s.creel t.unit k.toNat).h < (s.creel t.unit k.toNat).n)
  (hfree : (s.creel t.unit k.toNat).slotAt (s.creel t.unit k.toNat).h = .free)
include ho hh hfree

theorem claimGroup_of_free (c : Ctx) : claimGroup copy k s c [t] = (s, none) := by
  refine if_pos ?_
  show (s.creel t.unit k.toNat).claims copy 1 = true
  rw [Creel.claims, Creel.claim_head ho hh hfree]
  rfl

theorem State.takeClaim_of_free : s.takeClaim t k.toNat copy =
    (s.setCreel t.unit k.toNat ((s.creel t.unit k.toNat).afterClaim (if copy then .claimedCopy else .claimedPost) t.tid),
      (s.creel t.unit k.toNat).h) := by
  rw [State.takeClaim]
  simp only [Creel.claim_head ho hh hfree]
  rfl

end

/-! ### The checks of a creel instruction (10 R232) -/

theorem creelReady_of_valid {s : State} {t : Thread} {k : BitVec 7} (c : Ctx) (hv : (s.creel t.unit k.toNat).v = true) :
    creelReady k s c t = (s, .ok ()) := if_pos hv

theorem creelReady_of_invalid {s : State} {t : Thread} {k : BitVec 7} (c : Ctx) (hv : (s.creel t.unit k.toNat).v = false) :
    creelReady k s c t = (s, .error (.fault { code := 0x0506, aux := k.setWidth 32 })) := if_neg (Bool.eq_false_iff.mp hv)

/-! ### The creel instructions (10 R227 to R231) -/

section
variable (d a : Reg) (k : BitVec 7)

/-- The creel that a configuration word asks for (10 R227). -/
def UnitSt.configured (u : UnitSt) (k cfg : Nat) (starved : List (Nat × Nat)) : Creel :=
  { v := true, base := 64 * (cfg % 2 ^ 13), size := 64 * (cfg / 2 ^ 14 % 2 ^ 10 + 1), n := cfg / 2 ^ 24 + 1,
    x := (u.core * 32 + u.row0) * 8 + k, starved := starved }

/-- A configuration word of at least two slots whose bit 13 is 0 and whose slots lie within the unit's scratchpad is taken. -/
theorem State.initCreel_of_fits {s : State} {u : UnitSt} {k : Nat} {cfg : Word} (hn : 2 ^ 24 ≤ cfg.toNat) (hbit : cfg.toNat / 2 ^ 13 % 2 = 0)
    (hfits : 64 * (cfg.toNat % 2 ^ 13) + (cfg.toNat / 2 ^ 24 + 1) * (64 * (cfg.toNat / 2 ^ 14 % 2 ^ 10 + 1)) ≤ u.scrLen) :
    s.initCreel u k cfg =
      some ((s.orphanCopies u.uid k).setCreel u.uid k (u.configured k cfg.toNat (s.creel u.uid k).starved)) := by
  have hslots : decide (cfg.toNat / 2 ^ 24 = 0) = false := decide_eq_false (by omega)
  have hbit' : cfg.getLsbD 13 = false := by rw [BitVec.getLsbD, Nat.testBit_eq_decide_div_mod_eq, hbit]; rfl
  rw [State.initCreel]
  refine if_neg ?_
  rw [hslots, hbit', Bool.false_or, Bool.false_or, decide_eq_true_eq]
  exact Nat.not_lt.mpr hfits

theorem crinit_acts : Acts (.crinit a k) (fun _ => [a]) (fun _ => [(.int, a)])
    (fun _ s t => ∃ u, s.unitOf t = some u ∧ k.toNat < u.ncr ∧ 2 ^ 24 ≤ (s.operand t .int a).toNat ∧
      (s.operand t .int a).toNat / 2 ^ 13 % 2 = 0 ∧ 64 * ((s.operand t .int a).toNat % 2 ^ 13) +
        ((s.operand t .int a).toNat / 2 ^ 24 + 1) * (64 * ((s.operand t .int a).toNat / 2 ^ 14 % 2 ^ 10 + 1)) ≤ u.scrLen)
    (fun _ s t =>
      let u := (s.unitOf t).getD { uid := 0, slot := 0, launch := 0, index := 0, core := 0, row0 := 0, rows := 0, nthreads := 0, gw := 0 }
      (s.orphanCopies u.uid k.toNat).setCreel u.uid k.toNat
        (u.configured k.toNat (s.operand t .int a).toNat (s.creel u.uid k.toNat).starved)) := by
  refine Acts.of_checks (fun _ => rfl) rfl (fun _ => rfl) (fun _ _ => id) (fun _ => rfl) ?_
  rintro c s t ⟨u, hu, hk, hn, hbit, hfits⟩
  have hinit : s.initCreel u k.toNat (t.rd ((s.fieldFrac t).getD 0) .int a) = some _ := State.initCreel_of_fits hn hbit hfits
  refine ⟨(), rfl, rfl, ?_, fun _ => rfl⟩
  simp only [hu, Option.getD_some, if_neg (Nat.not_le.mpr hk), hinit]
  rfl

theorem crclaim_acts : Acts (.crclaim d k) (fun _ => [d]) (fun _ => [])
    (fun _ s t => (s.creel t.unit k.toNat).v = true ∧ (s.creel t.unit k.toNat).o = false ∧ 0 < (s.creel t.unit k.toNat).n ∧
      (s.creel t.unit k.toNat).h < (s.creel t.unit k.toNat).n ∧ (s.creel t.unit k.toNat).slotAt (s.creel t.unit k.toNat).h = .free)
    (fun _ s t => (s.setCreel t.unit k.toNat ((s.creel t.unit k.toNat).afterClaim .claimedPost t.tid)).setThread
      (t.setReg d (BitVec.ofNat 32 (s.creel t.unit k.toNat).h) .int)) := by
  refine Acts.of_checks (fun _ => rfl) rfl (fun _ => rfl) (fun _ _ => id) (fun _ => rfl) ?_
  rintro c s t ⟨hv, ho, -, hh, hfree⟩
  refine ⟨(), creelReady_of_valid c hv, claimGroup_of_free ho hh hfree c, ?_, State.isSome_thread?_setThread _ _⟩
  simp only [State.takeClaim_of_free ho hh hfree]
  rfl

/-- The check of a slot that stands in the scratchpad and is in the state that the word asks for passes. -/
theorem Creel.slotCheck_passes {c : Creel} {i above : Nat} {x : CreelSlot} (hin : i < c.n) (hslot : c.slotAt i = x) :
    ¬ (decide (c.n + above ≤ i) || c.slotAt i != x) = true := by
  simp only [hslot, bne_self_eq_false, Bool.or_false, decide_eq_true_eq]
  omega

theorem crpost_acts : Acts (.crpost a k) (fun _ => [a]) (fun _ => [(.int, a)])
    (fun _ s t => (s.creel t.unit k.toNat).v = true ∧ s.holds t .quiet = true ∧
      (s.operand t .int a).toNat < (s.creel t.unit k.toNat).n ∧
      (s.creel t.unit k.toNat).slotAt (s.operand t .int a).toNat = .claimedPost)
    (fun _ s t => (s.codeOut t 0).setCreel t.unit k.toNat ((s.creel t.unit k.toNat).put (s.operand t .int a).toNat .filled)) := by
  refine Acts.of_checks (fun _ => rfl) rfl (fun _ => rfl) (fun _ _ => id) (fun _ => rfl) ?_
  rintro c s t ⟨hv, hquiet, hin, hslot⟩
  refine ⟨(), ?_, rfl, if_neg (Creel.slotCheck_passes hin hslot), fun _ => rfl⟩
  simp only [creelReady_of_valid c hv, hquiet, if_true]

theorem crtake_acts (i : Nat) (rest : List Nat) : Acts (.crtake d k) (fun _ => [d]) (fun _ => [])
    (fun _ s t => (s.creel t.unit k.toNat).v = true ∧ (s.creel t.unit k.toNat).queue = i :: rest ∧
      (s.creel t.unit k.toNat).slotAt i = .filled ∧ i < (s.creel t.unit k.toNat).n)
    (fun _ s t => (s.setCreel t.unit k.toNat { ((s.creel t.unit k.toNat).put i .taken) with queue := rest }).setThread
      (t.setReg d (BitVec.ofNat 32 i) .int)) := by
  refine Acts.of_checks (fun _ => rfl) rfl (fun _ => rfl) (fun _ _ => id) (fun _ => rfl) ?_
  rintro c s t ⟨hv, hqueue, hfilled, hin⟩
  have hcount : ¬ (s.creel t.unit k.toNat).filledCount < [t].length := by simp [Creel.filledCount, hqueue, hfilled]
  refine ⟨(), creelReady_of_valid c hv, if_neg hcount, ?_, State.isSome_thread?_setThread _ _⟩
  simp only [hqueue, if_neg (Nat.not_le.mpr hin)]

theorem crgive_acts : Acts (.crgive a k) (fun _ => [a]) (fun _ => [(.int, a)])
    (fun _ s t => (s.creel t.unit k.toNat).v = true ∧ s.holds t .reads = true ∧ (s.creel t.unit k.toNat).o = false ∧
      (s.operand t .int a).toNat < (s.creel t.unit k.toNat).n ∧ (s.creel t.unit k.toNat).slotAt (s.operand t .int a).toNat = .taken)
    (fun _ s t => s.setCreel t.unit k.toNat ((s.creel t.unit k.toNat).put (s.operand t .int a).toNat .free)) := by
  refine Acts.of_checks (fun _ => rfl) rfl (fun _ => rfl) (fun _ _ => id) (fun _ => rfl) ?_
  rintro c s t ⟨hv, hreads, ho, hin, hslot⟩
  have hstays : ((s.creel t.unit k.toNat).put (s.operand t .int a).toNat .free).leaveOver =
      (s.creel t.unit k.toNat).put (s.operand t .int a).toNat .free := if_neg (by simp [Creel.put, ho])
  refine ⟨(), ?_, rfl, (if_neg (Creel.slotCheck_passes hin hslot)).trans (by rw [← hstays]; rfl), fun _ => rfl⟩
  simp only [creelReady_of_valid c hv, hreads, if_true]

theorem crtest_acts : Acts (.crtest d k) (fun _ => [d]) (fun _ => []) (fun _ s t => (s.creel t.unit k.toNat).v = true ∧ t.modeD = false)
    (fun _ s t => s.setThread (t.setReg d (if (s.creel t.unit k.toNat).filledCount = 0 then 0 else 1) .int)) := by
  refine Acts.of_checks (fun _ => rfl) rfl (fun _ => rfl) (fun _ _ => id) (fun _ => rfl) ?_
  rintro c s t ⟨hv, hdet⟩
  have hflag : flag (0 < (s.creel t.unit k.toNat).filledCount) = if (s.creel t.unit k.toNat).filledCount = 0 then 0 else 1 := by
    by_cases h : (s.creel t.unit k.toNat).filledCount = 0 <;> simp [flag, h, Nat.pos_iff_ne_zero]
  refine ⟨(), creelReady_of_valid c hv, if_neg (by simp [hdet]), ?_, State.isSome_thread?_setThread _ _⟩
  rw [← hflag]

theorem crstat_acts : Acts (.crstat d k) (fun _ => [d]) (fun _ => []) (fun _ _ _ => True)
    (fun _ s t => s.setThread (t.setReg d (s.creel t.unit k.toNat).word .int)) :=
  Acts.of_checks (fun _ => rfl) rfl (fun _ => rfl) (fun _ _ => id) (fun _ => rfl) fun _ _ _ _ =>
    ⟨(), rfl, rfl, rfl, State.isSome_thread?_setThread _ _⟩

theorem State.slotAddress_of_scratch (s : State) (uid : Nat) {c : Creel} {i : Nat} (h : i < c.n) :
    s.slotAddress uid c i = BitVec.ofNat 64 (0x82 * 2 ^ 56 + c.base + i * c.size) := if_pos h

theorem craddr_acts : Acts (.craddr d a k) (fun _ => pairRegs d ++ [a]) (fun _ => [(.int, a)])
    (fun _ s t => (s.creel t.unit k.toNat).v = true ∧ (s.operand t .int a).toNat < (s.creel t.unit k.toNat).n)
    (fun _ s t => s.setThread (t.setPair d (BitVec.ofNat 64 (0x82 * 2 ^ 56 + (s.creel t.unit k.toNat).base +
      (s.operand t .int a).toNat * (s.creel t.unit k.toNat).size)) .x64)) := by
  refine Acts.of_checks (fun _ => rfl) rfl (fun _ => rfl) (fun _ _ => by simp) (fun _ => rfl) ?_
  rintro c s t ⟨hv, hin⟩
  refine ⟨s.operand t .int a, ?_, rfl, ?_, State.isSome_thread?_setThread _ _⟩
  · simp only [creelReady_of_valid c hv]
    exact if_neg (by rw [State.operand] at hin; omega)
  · rw [State.slotAddress_of_scratch s t.unit hin]

/-- The operation of a `cpyc` that has claimed the head slot of a creel. -/
def CopyArgs.intoSlot (k : BitVec 7) (q : Creel) (src : Pair) (pol : Nat) : CopyArgs :=
  { dst := BitVec.ofNat 64 (0x82 * 2 ^ 56 + q.base + q.h * q.size), src := src, len := q.size, creel := some (k.toNat, q.h), pol := pol }

theorem State.creel_setCreel {s : State} {uid k : Nat} (hv : (s.creel uid k).v = true) (c : Creel) : (s.setCreel uid k c).creel uid k = c := by
  cases hu : s.unit? uid with
  | none =>
    rw [State.creel, hu] at hv
    cases hv
  | some u =>
    have hset : (s.setCreel uid k c).unit? uid = some { u with creels := Sparse.set {} u.creels k c } := by
      refine (State.unit?_mapUnit s uid ?_ uid).trans ?_
      · exact fun _ => rfl
      · rw [hu, Option.map_some, if_pos (State.unit?_uid hu)]
    rw [State.creel, hset]
    exact Sparse.get_set_self _ _ _ _

theorem State.rangeFits_of_global (s : State) (t : Thread) {p : Pair} (d : Int) (len : Nat) (h : copyAddr p = .global) :
    s.rangeFits t p d len = true := by
  simp only [State.rangeFits, h]

theorem cpyc_acts : Acts (.cpyc d a k) (fun _ => d :: pairRegs a) (fun _ => [(.int64, a)])
    (fun _ s t => t.full .cp = false ∧ copyAddr (t.pair a) = .global ∧ (s.creel t.unit k.toNat).v = true ∧
      (s.creel t.unit k.toNat).o = false ∧ 0 < (s.creel t.unit k.toNat).n ∧ (s.creel t.unit k.toNat).h < (s.creel t.unit k.toNat).n ∧
      (s.creel t.unit k.toNat).slotAt (s.creel t.unit k.toNat).h = .free)
    (fun c s t =>
      let s1 := (s.setCreel t.unit k.toNat ((s.creel t.unit k.toNat).afterClaim .claimedCopy t.tid)).setThread
        (t.setReg d (BitVec.ofNat 32 (s.creel t.unit k.toNat).h) .int)
      s1.addOp (s1.newOp c t .cp (.copy (.intoSlot k (s.creel t.unit k.toNat) (t.pair a) c.hints.pol)))) := by
  refine Acts.of_checks (fun _ => rfl) rfl (fun _ => rfl) (fun _ _ => by simp) (fun _ => rfl) ?_
  rintro c s t ⟨hroom, hsrc, hv, ho, -, hh, hfree⟩
  refine ⟨c.hints.pol, ?_, claimGroup_of_free ho hh hfree c, ?_, fun n => ?_⟩
  · simp [hroom, hsrc, hv, State.rangeFits_of_global s t 0 _ hsrc]
  · simp only [State.takeClaim_of_free ho hh hfree, State.creel_setCreel hv, State.startCopy, if_true]
    rw [State.slotAddress_of_scratch _ _ (c := (s.creel t.unit k.toNat).afterClaim .claimedCopy t.tid) hh]
    rfl
  · exact (State.isSome_thread?_addOp _ _ n).trans (State.isSome_thread?_setThread _ _ n)

/-- A creel instruction of a creel that is not initialised faults. -/
theorem creel_raises {i : Instr} {named : List Reg} {reads : List (Cls × Reg)} {m : Meaning Unit} {F : State → Ctx → Thread → Unit → State × After}
    (hi : ∀ s, exec i s = .next (issue m s)) (hact : m.act = eachThread F) (hgrp : ∀ s c, m.group s c [] = (s, none))
    (hshape : ∀ h, m.shape h = { named := named, reads := reads }) (hmis : ∀ c, m.misplaced c = false)
    (hpre : ∀ c s t x, creelReady k s c t = (s, .error x) → m.pre s c t = (s, .error x)) :
    Raises i (fun _ => named) (fun _ => reads) (fun _ s t => (s.creel t.unit k.toNat).v = false)
      (fun _ _ _ => { code := 0x0506, aux := k.setWidth 32 }) :=
  Raises.of_pre hi hact hgrp hshape hmis (fun _ _ _ => by show (0x0506 : Nat) ≠ 0x0901; decide) fun c _ _ hv =>
    hpre _ _ _ _ (creelReady_of_invalid c hv)

theorem creelRaises : (∀ i ∈ [Instr.crclaim d k, .crtake d k, .crtest d k], Raises i (fun _ => [d]) (fun _ => [])
      (fun _ s t => (s.creel t.unit k.toNat).v = false) (fun _ _ _ => { code := 0x0506, aux := k.setWidth 32 })) ∧
    (∀ i ∈ [Instr.crpost a k, .crgive a k], Raises i (fun _ => [a]) (fun _ => [(.int, a)])
      (fun _ s t => (s.creel t.unit k.toNat).v = false) (fun _ _ _ => { code := 0x0506, aux := k.setWidth 32 })) := by
  simp only [List.forall_mem_cons, List.not_mem_nil, false_implies, implies_true, and_true]
  refine ⟨⟨?_, ?_, ?_⟩, ?_, ?_⟩
  · exact creel_raises k (fun _ => rfl) rfl (fun _ _ => rfl) (fun _ => rfl) (fun _ => rfl) (fun _ _ _ _ h => h)
  · exact creel_raises k (fun _ => rfl) rfl (fun _ _ => rfl) (fun _ => rfl) (fun _ => rfl) (fun _ _ _ _ h => h)
  · exact creel_raises k (fun _ => rfl) rfl (fun _ _ => rfl) (fun _ => rfl) (fun _ => rfl) (fun _ _ _ _ h => h)
  · exact creel_raises k (fun _ => rfl) rfl (fun _ _ => rfl) (fun _ => rfl) (fun _ => rfl) (fun _ _ _ _ h => by simp only [h])
  · exact creel_raises k (fun _ => rfl) rfl (fun _ _ => rfl) (fun _ => rfl) (fun _ => rfl) (fun _ _ _ _ h => by simp only [h])

end

theorem creelsMoveSlots : Claims.CreelsMoveSlots := fun d a k =>
  ⟨crinit_acts a k, crclaim_acts d k, crpost_acts a k, crtake_acts d k, crgive_acts a k, crtest_acts d k, crstat_acts d k, craddr_acts d a k,
    cpyc_acts d a k, creelRaises d a k⟩

/-! ### Overflow and stall records (10 R233 to R235) -/

/-- A creel in which one `cpyc` has stood for 2^20 cycles enters overflow mode where the context's registers allow it. -/
theorem execCreelOverflowEnter_of_starved {s : State} {u : UnitSt} {k tid since : Nat} (hu : s.unit? u.uid = some u)
    (hv : (s.creel u.uid k).v = true) (ho : (s.creel u.uid k).o = false) (hdet : ∀ t ∈ s.threads, t.unit = u.uid → t.modeD = false)
    (hfits : (s.slot u.slot).overflowFits (s.creel u.uid k) = true) (hstarved : (s.creel u.uid k).starved = [(tid, since)])
    (hstands : s.standsFor tid k = true) (hlong : since + 2 ^ 20 ≤ s.coreClock u.core) :
    exec (.creelOverflowEnter u.uid k) s = .next (s.setCreel u.uid k { s.creel u.uid k with
      o := true, j := 0, captured := some ((s.slot u.slot).ovBase.toNat, (s.slot u.slot).ovM, (s.slot u.slot).ovStr) }) := by
  have hexec : exec (.creelOverflowEnter u.uid k) s = execCreelOverflowEnter u.uid k s := rfl
  have hnone : s.threads.any (fun t => t.unit == u.uid && t.modeD) = false := by simpa [List.any_eq_false] using hdet
  have hstood : (s.creel u.uid k).starved.any (fun p => s.standsFor p.1 k && decide (p.2 + 2 ^ 20 ≤ s.coreClock u.core)) = true := by
    rw [hstarved, List.any_cons, hstands, decide_eq_true hlong]; rfl
  simp only [hexec, execCreelOverflowEnter, hu]
  exact if_pos (by rw [hv, ho, hnone, hfits, hstood]; rfl)

section
variable {s : State} {u : UnitSt} {since : Nat} (hu : s.unit? u.uid = some u) (hsince : u.stallSince = some since)
include hu hsince

theorem execStallRecord_of_long (hsent : u.stallSent = false) (hstalled : s.stalled u = true) (hlong : since + 2 ^ 24 ≤ s.coreClock u.core) :
    exec (.stallRecord u.uid) s = .next ((s.send 0x41 u.slot (s.stallWords u)).mapUnit u.uid (fun u => { u with stallSent := true })) := by
  have hexec : exec (.stallRecord u.uid) s = execStallRecord u.uid s := rfl
  simp only [hexec, execStallRecord, hu, hsince]
  exact if_neg (by rw [hsent, hstalled, decide_eq_false (Nat.not_lt.mpr hlong)]; decide)

theorem execStallRecord_of_short (hshort : s.coreClock u.core < since + 2 ^ 24) : exec (.stallRecord u.uid) s = .next s := by
  have hexec : exec (.stallRecord u.uid) s = execStallRecord u.uid s := rfl
  simp only [hexec, execStallRecord, hu, hsince]
  exact if_pos (by rw [decide_eq_true hshort, Bool.or_true, Bool.true_or])

end

theorem overflowModeAndStallRecords : Claims.OverflowModeAndStallRecords :=
  ⟨fun _ _ _ _ _ hu hv ho hdet hfits hstarved hstands hlong =>
      execCreelOverflowEnter_of_starved hu hv ho hdet hfits hstarved hstands hlong,
    fun _ _ _ hu hsince hsent hstalled =>
      ⟨execStallRecord_of_long hu hsince hsent hstalled, execStallRecord_of_short hu hsince⟩⟩

/-- Settles O34: the creel instructions by what their checks allow, and the two events by their conditions. -/
theorem creelsMoveSlotsAndOverflow : Obligations.CreelsMoveSlotsAndOverflow := ⟨creelsMoveSlots, overflowModeAndStallRecords⟩

end Sys2Proof.Machine

/-!
# Copies and bulk operations
-/
namespace Sys2Proof.Machine

/-! ### The issue of copies and bulk operations (10 R223, 14 R329) -/

/-- A check that finds no fault goes on to the next. -/
theorem of_ite_error {α β ε : Type} {p : Prop} [Decidable p] {a b : α} {e : ε} {x : β} {r : α × Except ε β}
    (h : (if p then (a, .error e) else r) = (b, .ok x)) : r = (b, .ok x) := by
  split at h
  · cases h
  · exact h

section
variable {s s' : State} {t : Thread} {c : CopyArgs}

theorem State.translate_bad {a : Pair} {aux : Word} (h : s.translate t a = (s', .bad aux)) : s' = s := by
  rw [State.translate] at h
  cases hl : s.tlbLookup t.core (s.slotOf t) (va57 a) with
  | some p => simp [hl] at h
  | none =>
    cases hf : s.failedWalk t (va57 a / 4096) with
    | some x => simp [hl, hf] at h; exact h.1.symm
    | none => simp [hl, hf] at h

/-- The checks of peers that pass fill TLBs only. -/
theorem State.bulkPeers_ok {ps : List Pair} {k : Nat} (h : s.bulkPeers t k ps = (s', .ok ())) : OnlyCaches s s' := by
  induction ps generalizing s k with
  | nil =>
    cases h
    exact .refl _
  | cons p ps ih =>
    rw [State.bulkPeers] at h
    split at h
    · exact ih h
    · split at h
      · cases h
      · next q aux hbad =>
        rw [State.translate_bad hbad] at h
        exact ih h
      · next q x hhit =>
        split at h
        · cases h
        · exact (State.translate_hit hhit).trans (ih h)

theorem State.bulkChecks_ok {far : Pair} {x : CopyArgs} (h : s.bulkChecks t c far = (s', .ok x)) : OnlyCaches s s' := by
  rw [State.bulkChecks] at h
  dsimp only at h
  iterate 10 replace h := of_ite_error h
  split at h
  · cases h
  · next q _ hpeers =>
    cases h
    exact State.bulkPeers_ok hpeers

end

/-- A word that starts a copy for its thread puts it in flight where its own checks pass. -/
theorem launches_of_copy {i : Instr} {named : Hints → List Reg} {reads : Hints → List (Cls × Reg)}
    {ok : Ctx → State → Thread → OpKind → List Reg → Prop} {m : Meaning CopyArgs}
    (hi : ∀ s, exec i s = .next (issue m s)) (hact : m.act = eachThread (fun s c t x => (s.startCopy c t x, .go)))
    (hgroup : ∀ s c ts, m.group s c ts = (s, none)) (hshape : ∀ h, m.shape h = { named := (m.shape h).named, reads := reads h })
    (hnamed : ∀ h, ∀ q ∈ (m.shape h).named, q ∈ named h)
    (h : ∀ c s t kind ds, ok c s t kind ds → ds = [] ∧ m.misplaced c = false ∧
      ∃ x s', kind = .copy x ∧ m.pre s c t = (s', .ok x) ∧ OnlyCaches s s') : Launches i named reads .cp ok := by
  refine Launches.of_subset (named' := fun x => (m.shape x).named) (Launches.of_issue hi hact (fun x => by rw [hshape]) ?_) hnamed
  intro s st t kind ds _ _ _ hok
  obtain ⟨rfl, hmis, x, s', rfl, hpre, hcaches⟩ := h _ _ _ _ _ hok
  have hdata : LeavesData s s' := LeavesData.trans (b := s.atWord st) (.of_eq rfl rfl rfl rfl) hcaches.data
  exact ⟨x, s', _, _, hmis, by rw [hshape]; exact Level.allows_user _, rfl, by rw [hshape], hpre, hgroup _ _ _, hcaches.threads, hcaches.ops,
    hcaches.strands, hdata, rfl, rfl, rfl, rfl, .of_eq rfl rfl rfl rfl, rfl, rfl, rfl, rfl, rfl, rfl⟩

/-- A bulk form, to a peer or from one. -/
theorem launches_of_bulkOp {i : Instr} {d a b : Reg} {toPeer : Bool} {red : Hints → Option AtomFn} {illegal : Hints → Bool}
    (hi : ∀ s, exec i s = .next (bulkOp d a b toPeer red illegal s)) :
    Launches i (fun h => pairRegs d ++ pairRegs a ++ [b] ++ pairRegs h.c) (fun h => [(.int64, d), (.int64, a), (.int, b), (.int64, h.c)]) .cp
      (fun c s t kind ds => illegal c.hints = false ∧ ds = [] ∧ c.hints.hx.isSome = true ∧ c.hints.c.toNat % 2 = 0 ∧ ∃ x : CopyArgs,
        x = { dst := t.pair d, src := t.pair a, len := (s.operand t .int b).toNat, bulk := true, get := !toPeer, red := red c.hints,
              signal := t.pair c.hints.c } ∧
        (s.bulkChecks t x (if toPeer then t.pair d else t.pair a)).2 = .ok x ∧ kind = .copy x) := by
  refine launches_of_copy hi rfl (fun _ _ _ => rfl) (fun _ => rfl) (fun _ _ => by simp) ?_
  rintro c s t kind ds ⟨hlegal, rfl, hhx, heven, x, rfl, hchecks, rfl⟩
  refine ⟨rfl, ?_, _, _, rfl, Prod.ext rfl hchecks, State.bulkChecks_ok (Prod.ext rfl hchecks)⟩
  simp [Meaning.misplaced, hlegal, Option.isNone_eq_false_iff.mpr hhx, heven]

theorem copiesGoInFlight : Claims.CopiesGoInFlight := by
  intro d a b
  refine ⟨?cpy, ?cpyz, ?cpy2d, ?nput, ?nget, ?nred⟩
  case cpy =>
    refine launches_of_copy (fun _ => rfl) rfl (fun _ _ _ => rfl) (fun _ => rfl) (fun _ _ => by simp) ?_
    rintro c s t kind ds ⟨rfl, x, rfl, hchecks, rfl⟩
    exact ⟨rfl, rfl, _, s, rfl, congrArg (Prod.mk s) hchecks, .refl s⟩
  case cpyz =>
    refine launches_of_copy (fun _ => rfl) rfl (fun _ _ _ => rfl) (fun _ => rfl) (fun _ _ => by simp) ?_
    rintro c s t kind ds ⟨rfl, x, rfl, hchecks, rfl⟩
    exact ⟨rfl, rfl, _, s, rfl, congrArg (Prod.mk s) hchecks, .refl s⟩
  case cpy2d =>
    refine launches_of_copy (fun _ => rfl) rfl (fun _ _ _ => rfl) (fun _ => rfl) (fun _ _ => by simp) ?_
    rintro c s t kind ds ⟨rfl, hhx, hquad, x, rfl, hchecks, rfl⟩
    refine ⟨rfl, ?_, _, s, rfl, congrArg (Prod.mk s) hchecks, .refl s⟩
    simp [Meaning.misplaced, Option.isNone_eq_false_iff.mpr hhx, hquad]
  case nput => exact fun s st t kind ds h hmore hr hok => launches_of_bulkOp (fun _ => rfl) s st t kind ds h hmore hr ⟨rfl, hok⟩
  case nget => exact fun s st t kind ds h hmore hr hok => launches_of_bulkOp (fun _ => rfl) s st t kind ds h hmore hr ⟨rfl, hok⟩
  case nred =>
    rintro s st t kind ds h hmore hr ⟨hfn, hok⟩
    exact launches_of_bulkOp (fun _ => rfl) s st t kind ds h hmore hr ⟨Option.isNone_eq_false_iff.mpr hfn, hok⟩

/-! ### The checks of a copy in their order (10 R223, R224) -/

theorem State.rowsFit_of_global (s : State) (t : Thread) {p : Pair} (stride : Int) (rows len : Nat) (h : copyAddr p = .global) :
    s.rowsFit t p stride rows len = true := by
  simp [State.rowsFit, State.rangeFits_of_global s t _ len h]

/-- A run of bytes that leaves the region of its scratch space does not fit. -/
theorem State.rowsFit_of_beyond {s : State} {t : Thread} {p : Pair} {sp off len : Nat} (stride : Int) (h : copyAddr p = .scratch sp off)
    (hpos : 0 < len) (hout : (s.region t sp).1 < off + len) : s.rowsFit t p stride 1 len = false := by
  have hfirst : s.rangeFits t p 0 len = false := by
    have hlen : (len == 0) = false := beq_eq_false_iff_ne.mpr (by omega)
    have hend : ¬ ((off : Int) + 0 + len ≤ (s.region t sp).1) := by omega
    simp only [State.rangeFits, h, hlen, decide_eq_false hend, Bool.and_false, Bool.or_self]
  rw [State.rowsFit, hfirst]
  rfl

/-- The first bad address of a copy: the destination, then the source where it has one. -/
theorem badAddr_ends (c : CopyArgs) : badAddr (if c.zero then [c.dst] else [c.dst, c.src]) =
    if copyAddr c.dst = .bad then some c.dst else if c.zero = false ∧ copyAddr c.src = .bad then some c.src else none := by
  by_cases hdst : copyAddr c.dst = .bad <;> by_cases hsrc : copyAddr c.src = .bad <;> cases hz : c.zero <;> simp [badAddr, hdst, hsrc]

theorem copyChecksInOrder : Claims.CopyChecksInOrder := by
  intro s t c
  have hfull : t.full .cp = decide (63 ≤ t.cp) := rfl
  refine ⟨fun h => if_pos (by simpa [hfull] using h), fun hroom => ?_⟩
  have hcp : ¬ t.full .cp = true := by simpa [hfull] using hroom
  rw [State.copyChecks, if_neg hcp, badAddr_ends]
  refine ⟨fun hdst => ?_, fun hdst hz hsrc => ?_, fun hdst hsrc => ?_⟩
  · rw [if_pos hdst]
  · rw [if_neg hdst, if_pos ⟨hz, hsrc⟩]
  · have hgood : ¬ (c.zero = false ∧ copyAddr c.src = .bad) := by
      rintro ⟨hz, hbad⟩
      exact hsrc.elim (by simp [hz]) fun h => h hbad
    rw [if_neg hdst, if_neg hgood]
    refine ⟨fun hlong => if_pos hlong, fun hlen hdst hsrc => ?_, fun sp off hrows hpos hlen hdst hout => ?_⟩
    · have hfits : (!c.zero && !s.rowsFit t c.src c.sStride c.rows c.len) = false := by
        obtain hz | hsrc := hsrc
        · rw [hz]; rfl
        · rw [State.rowsFit_of_global s t _ _ _ hsrc, Bool.not_true, Bool.and_false]
      simp only [CopyArgs.total, if_neg (Nat.not_le.mpr hlen), State.rowsFit_of_global s t _ _ _ hdst, hfits, Bool.not_true,
        Bool.false_eq_true, if_false]
    · have hshort : ¬ 2 ^ 32 ≤ c.rows * c.len := by rw [hrows]; omega
      have hbeyond : s.rowsFit t c.dst c.dStride c.rows c.len = false := by
        rw [hrows]; exact State.rowsFit_of_beyond c.dStride hdst hpos hout
      simp only [CopyArgs.total, if_neg hshort, hbeyond, Bool.not_false, if_true]

/-! ### The last byte of a copy that has read an append-seal page (10 R225, 12 R277) -/

/-- A translation of the 2 MiB behind those of `loneMapping`. -/
def secondMapping : Trans := { loneMapping with vbase := 0x200000, pbase := 0x200000 }

/-- A copy of two bytes, the first from an append-seal page of 2 MiB and the second from the ordinary page behind it; the first stands at its
place. -/
def sealedCopy : CopyArgs := { dst := 0x200010, src := 0x1FFFFF, len := 2, moved := 1, sealed := true }

/-- Its operation. -/
def sealedCopyOp : Op :=
  { id := 9, tid := 2, slot := 0, launch := 1, unit := 1, uix := 0, group := 0, core := 0, tslot := 0, cls := .cp, pc := 0x1000, word := 0,
    kind := .copy sealedCopy }

/-- The module with that copy in flight. The remote partition of its die holds a dirty byte of the first line of die 1. -/
def sealedCopyModule : State :=
  { loneModule [sealedCopyOp] [] with
    cores := [(0, { l1tlb := [secondMapping, { loneMapping with cls := 2 }] })]
    dies := [(0, { remote := [(lineOf (2 ^ 37), { copy := [(0, 7)], dirty := [0] })] })] }

/-- The copy reads a byte of memory that nothing has written and completes; the die then gives up its remote lines, and the dirty byte comes
home. -/
theorem byte_after_sealedCopy : Memory.read (stateAfter (exec (.copyComplete 9 1) sealedCopyModule)).mem (2 ^ 37) = 7 := by
  decide +kernel

theorem nextToRetire_sealedCopy : sealedCopyModule.nextToRetire sealedCopyOp := ⟨rfl, by decide, by decide, by decide⟩

/-- Refutes O32: a copy that has read a byte of an append-seal page shows its thread a seal when it completes, and the die then gives up its
remote lines (12 R277, assumption 115). In `sealedCopyModule` the die holds a dirty byte of another die's line, which comes home when the copy of
two bytes completes: a byte of memory besides the destination changes from 0 to 7. The statement lacks the premise `c.sealed = false`. Its other
two parts hold: `copiesGoInFlight` and `copyChecksInOrder`. -/
theorem not_copiesAreCheckedAndMoveBytes : ¬ Obligations.CopiesAreCheckedAndMoveBytes := by
  rintro ⟨-, -, hmoves⟩
  obtain ⟨s', hexec, -, hread⟩ := hmoves sealedCopyModule sealedCopyModule sealedCopyOp sealedCopy (mkAccess secondMapping 0x200011 1 0) 0
    nextToRetire_sealedCopy rfl rfl rfl rfl rfl rfl rfl rfl rfl (by decide) (by rfl) (by rfl) (by decide) (by decide) (by decide)
  have hbyte := byte_after_sealedCopy
  rw [show (9 : Nat) = sealedCopyOp.id from rfl, hexec, stateAfter, hread] at hbyte
  exact absurd hbyte (by decide)

end Sys2Proof.Machine

/-!
# Words on conserved fields
-/
namespace Sys2Proof.Machine

/-! ### The current field (11 R243, R244, R252; 06 R150) -/

section
variable {d a : Reg}

theorem fsel_acts : Acts (.fsel a) (fun _ => [a]) (fun _ => [(.int, a)])
    (fun _ s t => (s.operand t .int a).toNat ≤ 256 ∧
      ((s.operand t .int a).toNat < 256 → (s.field? (s.slotOf t) (s.operand t .int a).toNat).isSome = true))
    (fun _ s t => s.setThread { t with field := (s.operand t .int a).toNat }) := by
  refine Acts.of_checks (fun _ => rfl) rfl (fun _ => rfl) (fun _ _ hq => hq) (fun _ => rfl) ?_
  rintro c s t ⟨hle, hinstalled⟩
  have hmissing : ¬ (decide ((s.operand t .int a).toNat < 256) &&
      (s.field? (s.slotOf t) (s.operand t .int a).toNat).isNone) = true := by
    simpa [Option.isSome_iff_ne_none] using hinstalled
  exact ⟨_, (if_neg hle.not_gt).trans (if_neg hmissing), rfl, rfl, State.isSome_thread?_setThread _ _⟩

/-- What `finfo` writes into its thread's registers (11 R252). -/
def State.finfoThread (s : State) (d a : Reg) (q : BitVec 7) (f : FieldSt) (t : Thread) : Thread :=
  match q.toNat with
  | 0 => t.setReg d (BitVec.ofNat 32 (f.word 3)) .int
  | 1 => t.setReg d (BitVec.ofNat 32 (f.word 2)) .int
  | 2 => t.setPair d (BitVec.ofNat 64 f.base) .x64
  | 3 => t.setReg d (BitVec.ofNat 32 (f.role (s.operand t .int a).toNat)) .int
  | _ => t.setPair d (BitVec.ofNat 64 f.init) .x64

theorem finfo_acts {q : BitVec 7} {f : FieldSt} {named : List Reg} {g : State → Thread → Thread}
    (hnamed : ∀ r ∈ (if q = 2 ∨ q = 4 then pairNames d else [d]) ++ (if q = 3 then [a] else []), r ∈ named)
    (hg : ∀ s t, State.finfoThread s d a q f t = g s t) :
    Acts (.finfo d a q) (fun _ => named) (fun _ => if q = 3 then [(.int, a)] else []) (fun _ s t => s.currentField t = .ok f)
      (fun _ s t => s.setThread (g s t)) := by
  refine Acts.of_checks (fun _ => rfl) rfl (fun _ => rfl) (fun _ => by simpa using hnamed) (fun _ => rfl) ?_
  intro c s t hf
  exact ⟨f, by simp only [hf], rfl, by rw [← hg]; rfl, State.isSome_thread?_setThread _ _⟩

/-- A conversion through the fraction width of the current field. -/
theorem convField_acts {i : Instr} {cls : Cls} {out : Tag} {v : Hints → Nat → Word → Word} {k : Nat}
    (hi : ∀ s, exec i s = .next (convField cls d a out v s)) :
    Acts i (fun _ => [d, a]) (fun _ => [(cls, a)]) (fun _ s t => s.fieldFrac t = some k)
      (fun c s t => s.setThread (t.setReg d (v c.hints k (s.operand t cls a)) (c.hints.tag out))) := by
  refine Acts.of_checks hi rfl (fun _ => rfl) (fun _ _ hq => hq) (fun _ => rfl) ?_
  intro c s t hk
  exact ⟨k, by simp only [hk], rfl, by rw [State.operand, hk]; rfl, State.isSome_thread?_setThread _ _⟩

end

theorem State.currentField_of_noField (s : State) {t : Thread} (h : 256 ≤ t.field) : s.currentField t = .error (.fault { code := 0x0603 }) :=
  if_pos h

/-- Settles O21: the words that act on the current field by their own checks, each on its registers or on the selection. -/
theorem fieldSelectionAndDescription : Obligations.FieldSelectionAndDescription := fun _ _ =>
  ⟨fsel_acts, fun _ => ⟨finfo_acts (q := 0) (by simp) fun _ _ => rfl, finfo_acts (q := 1) (by simp) fun _ _ => rfl,
      finfo_acts (q := 2) (by simp) fun _ _ => rfl, finfo_acts (q := 3) (by simp) fun _ _ => rfl, finfo_acts (q := 4) (by simp) fun _ _ => rfl⟩,
    fun _ => ⟨convField_acts (v := fun h k x => w32 (f32.round h.rnd h.sat false x.toNat (-(k : Int)) false)) fun _ => rfl,
      convField_acts (v := fun h k x => BitVec.ofInt 32 (f32.toInt h.rnd k 0 (2 ^ 32 - 1) x.toNat)) fun _ => rfl⟩,
    fun s _ h => s.currentField_of_noField h⟩

/-! ### The issue of operations on fields (11 R245, R248 to R251) -/

theorem commonStop_of_past {s : State} {sh : Shape} {t : Thread} {r : Nat} (hlevel : t.level.allows sh.level = true)
    (hbudget : beyond t sh.named = none) (h : sh.past = some r) :
    commonStop s false sh t = some (.fault { code := 0x0203, aux := BitVec.ofNat 32 r }) := by
  simp [commonStop, hlevel, hbudget, h]

/-- A word has put an operation in flight for its thread and changed nothing else, the reads of totals that hold transfers apart. -/
def State.Adds (s q : State) (o : Op) : Prop := q = { s.addOp o with slots := q.slots }

/-- A word of any level that puts an operation in flight where its own checks pass, filling TLBs only. -/
theorem Launches.of_checks {α : Type} {i : Instr} {named : List Reg} {reads : List (Cls × Reg)} {cls : Ctr}
    {ok : Ctx → State → Thread → OpKind → List Reg → Prop} {m : Meaning α} {F : State → Ctx → Thread → α → State × After}
    (hi : ∀ s, exec i s = .next (issue m s)) (hact : m.act = eachThread F) (hmis : ∀ c, m.misplaced c = false)
    (hgroup : ∀ s c ts, m.group s c ts = (s, none)) (hpast : ∀ h, (m.shape h).past = none) (hreads : ∀ h, (m.shape h).reads = reads)
    (hnamed : ∀ h, ∀ q ∈ (m.shape h).named, q ∈ named)
    (h : ∀ c s t kind ds, ok c s t kind ds → (∀ h, t.level.allows (m.shape h).level = true) ∧ ∃ x s' q g, m.pre s c t = (s', .ok x) ∧
      OnlyCaches s s' ∧ F s' c t x = (q, .go) ∧ s'.Adds q { s'.newOp c t cls kind with dsts := ds, tag := g }) :
    Launches i (fun _ => named) (fun _ => reads) cls ok := by
  refine Launches.of_subset (named' := fun x => (m.shape x).named) (Launches.of_issue hi hact hpast ?_) hnamed
  intro s st t kind ds _ _ _ hok
  obtain ⟨hlevel, x, s', q, g, hpre, hcaches, hF, hadds⟩ := h _ _ _ _ _ hok
  have hdata : LeavesData s s' := LeavesData.trans (b := s.atWord st) (.of_eq rfl rfl rfl rfl) hcaches.data
  rw [State.Adds] at hadds
  refine ⟨x, s', q, { s'.newOp (s.ctx st) t cls kind with dsts := ds, tag := g }, hmis _, hlevel _, rfl, hreads _, hpre, hgroup _ _ _,
    hcaches.threads, hcaches.ops, hcaches.strands, hdata, hF, ?_, ?_, ?_, ?_, rfl, rfl, rfl, rfl, rfl, rfl⟩
  · rw [hadds]; rfl
  · rw [hadds]; rfl
  · rw [hadds]; rfl
  · rw [hadds]; exact .of_eq rfl rfl rfl rfl

section
variable {s s1 : State} {t : Thread} {d a b : Reg} {f : FieldSt} {pa pb : Option Nat}

theorem xferChecks_ok (c : Ctx) (hroom : t.full .st = false) (hfield : s.currentField t = .ok f)
    (hi : (s.operand t .int a).toNat < f.n) (hj : (s.operand t .int b).toNat < f.n) (hcredit : f.role (s.operand t .int b).toNat ≠ 1)
    (hdebit : f.role (s.operand t .int a).toNat ≠ 2) (hset : t.modeD = true → s.inTransferSet t t.field f = true) (hfrozen : f.frozen = false)
    (hpa : s.cellAccess t f (s.operand t .int a).toNat true = (s1, .ok pa))
    (hpb : (s1.cellAccess t f (s.operand t .int b).toNat true).2 = .ok pb) :
    xferChecks d a b s c t = ((s1.cellAccess t f (s.operand t .int b).toNat true).1,
      .ok (t.field, (s.operand t .int a).toNat, (s.operand t .int b).toNat, s.operand t .cq d, pa, pb)) := by
  have hpb' : s1.cellAccess t f (s.operand t .int b).toNat true = ((s1.cellAccess t f (s.operand t .int b).toNat true).1, .ok pb) :=
    Prod.ext rfl hpb
  have hmode : (t.modeD && !s.inTransferSet t t.field f) = false := by simpa using hset
  simp only [State.operand] at hi hj hcredit hdebit hpa hpb' ⊢
  rw [xferChecks]
  simp only [hroom, hfield, hi.not_ge, hj.not_ge, hcredit, hdebit, hmode, hfrozen, hpa, Bool.false_eq_true, if_false]
  rw [hpb']

end

theorem xfer_launches (d a b : Reg) : Launches (.xfer d a b) (fun _ => [d, a, b]) (fun _ => [(.cq, d), (.int, a), (.int, b)]) .st
      (fun _ s t kind ds => ds = [] ∧ t.full .st = false ∧ ∃ f pa pb s1,
        let i := (s.operand t .int a).toNat
        let j := (s.operand t .int b).toNat
        s.currentField t = .ok f ∧ i < f.n ∧ j < f.n ∧ f.role j ≠ 1 ∧ f.role i ≠ 2 ∧
        (t.modeD = true → s.inTransferSet t t.field f = true) ∧ f.frozen = false ∧
        s.cellAccess t f i true = (s1, .ok pa) ∧ (s1.cellAccess t f j true).2 = .ok pb ∧
        kind = .xfer t.field i j (s.operand t .cq d) pa pb .sent) := by
  refine Launches.of_checks (fun _ => rfl) rfl (fun _ => rfl) (fun _ _ _ => rfl) (fun _ => rfl) (fun _ => rfl) (fun _ _ hq => hq) ?_
  rintro c s t kind ds ⟨rfl, hroom, f, pa, pb, s1, hfield, hi, hj, hcredit, hdebit, hset, hfrozen, hpa, hpb, rfl⟩
  exact ⟨fun _ => Level.allows_user _, _, _, _, _, xferChecks_ok c hroom hfield hi hj hcredit hdebit hset hfrozen hpa hpb,
    (State.cellAccess_ok hpa).trans (State.cellAccess_ok (Prod.ext rfl hpb)), rfl, rfl⟩

theorem fld_launches (d a : Reg) : Launches (.fld d a) (fun _ => [d, a]) (fun _ => [(.int, a)]) .ld
      (fun _ s t kind ds => ds = [d] ∧ t.full .ld = false ∧ ∃ f p,
        let i := (s.operand t .int a).toNat
        s.currentField t = .ok f ∧ i < f.n ∧ (t.modeD = true → s.inTransferSet t t.field f = false) ∧
        (s.cellAccess t f i false).2 = .ok p ∧ kind = .cellRead t.field i p false) := by
  refine Launches.of_checks (fun _ => rfl) rfl (fun _ => rfl) (fun _ _ _ => rfl) (fun _ => rfl) (fun _ => rfl) (fun _ _ hq => hq) ?_
  rintro c s t kind ds ⟨rfl, hroom, f, p, hfield, hi, hset, hp, rfl⟩
  have hp' : s.cellAccess t f (s.operand t .int a).toNat false = ((s.cellAccess t f (s.operand t .int a).toNat false).1, .ok p) :=
    Prod.ext rfl hp
  have hmode : ¬ (t.modeD && s.inTransferSet t t.field f) = true := by simpa using hset
  refine ⟨fun _ => Level.allows_user _, (t.field, (s.operand t .int a).toNat, p), _, _, _, ?_, State.cellAccess_ok hp', rfl, rfl⟩
  simp only [State.operand] at hi hp'
  simp only [hroom, hfield, hi.not_ge, hmode, Bool.false_eq_true, if_false]
  rw [hp']
  rfl

/-- The registers that `ftot` names are some of those that it writes. -/
theorem mem_totalRegs_of_named {d : Reg} {k : Nat} (r : Reg)
    (hr : r ∈ namesOf ((totalRegs d k).filter (fun r => d.toNat ≤ r.toNat))) :
    r ∈ totalRegs d k := by
  rw [mem_namesOf] at hr
  exact (List.mem_filter.mp hr).1

/-- The key of the set that `ftot` reads: that of the thread's die, of the module, or the global one (11 R249). -/
def totalsKey (x : BitVec 2) (core : Nat) : Nat := if x = 0 then core / 40 else if x = 1 then 8 else 9

/-- What an `ftot` does: a read of the global set holds the transfers of its context from now on (11 R242). -/
def State.startTotals (s : State) (o : Op) (key : Nat) : State :=
  if key = 9 then (s.addOp o).mapSlot o.slot (fun c => { c with holds := c.holds ++ [(o.id, (s.addOp o).coreClock o.core)] }) else s.addOp o

theorem State.adds_startTotals (s : State) (o : Op) (key : Nat) : s.Adds (s.startTotals o key) o := by
  unfold State.startTotals
  split
  · rfl
  · rfl

theorem ftot_launches (d : Reg) (x : BitVec 2) (k : BitVec 3) : Launches (.ftot d x k) (fun _ => totalRegs d k.toNat) (fun _ => []) .ld
      (fun _ s t kind ds => ds = totalRegs d k.toNat ∧ t.full .ld = false ∧ ∃ f, s.currentField t = .ok f ∧
        (t.modeD = true → k ≠ 3 → s.inTransferSet t t.field f = false) ∧ (k = 5 → d.toNat ≤ 122) ∧
        kind = .totals t.field (if x = 0 then t.core / 40 else if x = 1 then 8 else 9) k.toNat) := by
  by_cases hpast : k = 5 ∧ 122 < d.toNat
  · rintro s st t kind ds - - - ⟨-, -, f, -, -, hfits, -⟩
    exact absurd (hfits hpast.1) hpast.2.not_ge
  refine Launches.of_checks (fun _ => rfl) rfl (fun _ => rfl) (fun _ _ _ => rfl) (fun _ => if_neg (by simpa using hpast)) (fun _ => rfl)
    (fun _ => mem_totalRegs_of_named) ?_
  rintro c s t kind ds ⟨rfl, hroom, f, hfield, hset, -, rfl⟩
  have hmode : ¬ (t.modeD && decide (k ≠ 3) && s.inTransferSet t t.field f) = true := by simpa using hset
  have hx : x = 0 ∨ x = 1 ∨ x = 2 ∨ x = 3 := by
    revert x
    decide
  refine ⟨fun _ => Level.allows_user _, t.field, s, _, .x64, ?_, .refl s, ?_, s.adds_startTotals _ (totalsKey x t.core)⟩
  · simp only [hroom, hfield, hmode, Bool.false_eq_true, if_false]
  · obtain rfl | rfl | rfl | rfl := hx
    all_goals rfl

theorem ftot_raises (d : Reg) (x : BitVec 2) : Raises (.ftot d x 5) (fun _ => (totalRegs d 5).filter (fun r => d.toNat ≤ r.toNat)) (fun _ => [])
    (fun _ _ _ => 122 < d.toNat) (fun _ _ _ => { code := 0x0203, aux := 128 }) := by
  intro s st t h hready hpast
  refine congrArg Host.Outcome.next (h.issue_stopFault (f := { code := 0x0203, aux := 128 }) rfl rfl (fun _ _ => rfl) (by decide) ?_)
  refine commonStop_of_past (Level.allows_user _) (beyond_eq_none fun r hr => hready.budget r (mem_namesOf.mp hr)) (if_pos ?_)
  simpa using hpast

theorem fchk_launches (d a : Reg) : Launches (.fchk d a) (fun _ => pairRegs d ++ [a]) (fun _ => [(.int, a)]) .ld
      (fun _ s t kind ds => ds = pairRegs d ∧ t.full .ld = false ∧ ∃ f, s.currentField t = .ok f ∧
        (t.modeD = true → s.inTransferSet t t.field f = false) ∧ kind = .cellRead t.field (s.operand t .int a).toNat none true) := by
  refine Launches.of_checks (fun _ => rfl) rfl (fun _ => rfl) (fun _ _ _ => rfl) (fun _ => rfl) (fun _ => rfl) (fun _ _ => by simp) ?_
  rintro c s t kind ds ⟨rfl, hroom, f, hfield, hset, rfl⟩
  have hmode : ¬ (t.modeD && s.inTransferSet t t.field f) = true := by simpa using hset
  refine ⟨fun _ => Level.allows_user _, (t.field, (s.operand t .int a).toNat), s, _, _, ?_, .refl s, rfl, rfl⟩
  simp only [hroom, hfield, hmode, Bool.false_eq_true, if_false]
  rfl

theorem fdecl_launches_removal (a b : Reg) : Launches (.fdecl a b) (fun _ => [a] ++ pairRegs b) (fun _ => [(.int, a), (.int64, b)]) .st
      (fun _ s t kind ds => ds = [] ∧ t.level ≠ .user ∧ t.full .st = false ∧ (s.operand t .int a).toNat < 256 ∧ t.pair b = 0 ∧
        kind = .fdecl (s.operand t .int a).toNat 0) := by
  refine Launches.of_checks (fun _ => rfl) rfl (fun _ => rfl) (fun _ _ _ => rfl) (fun _ => rfl) (fun _ => rfl) (fun _ _ => by simp) ?_
  rintro c s t kind ds ⟨rfl, hlevel, hroom, hid, haddr, rfl⟩
  have hchecks : fdeclChecks a b s c t = (s, .ok (.remove (s.operand t .int a).toNat)) := by
    simp only [State.operand] at hid ⊢
    simp [fdeclChecks, hroom, hid.not_ge, haddr]
  exact ⟨fun _ => Level.allows_supervisor hlevel, _, s, _, _, hchecks, .refl s, rfl, rfl⟩

/-- Settles O22: each word issues one operation where its own checks pass, which fill TLBs only. -/
theorem fieldOperationsGoInFlight : Obligations.FieldOperationsGoInFlight := fun d a b x k =>
  ⟨xfer_launches d a b, fld_launches d a, ftot_launches d x k, ftot_raises d x, fchk_launches d a, fdecl_launches_removal a b⟩

end Sys2Proof.Machine

/-!
# Cells and the transfers between them
-/
namespace Sys2Proof.Machine

/-! ### The content of a cell after a change of one (11 R239, R247) -/

/-- A run of bytes that a write does not reach reads as before. -/
theorem Memory.readBytes_writeBytes_of_apart {m : List Host.Cell} {a b n : Nat} {bs : List Byte} (h : a + n ≤ b ∨ b + bs.length ≤ a) :
    Memory.readBytes (Memory.writeBytes m b bs) a n = Memory.readBytes m a n := by
  induction n generalizing a with
  | zero => rfl
  | succ n ih => rw [Memory.readBytes, Memory.readBytes, Memory.read_writeBytes, if_neg (by omega), ih (by omega)]

/-- Two places whose cells have no byte in common. -/
def cellsApart (l k : Nat) : Prop := l + 4 ≤ k ∨ k + 4 ≤ l

section
variable (s : State) {loc l : Nat} (v : Int)

theorem State.homeNat_homeWrite_same (x : Nat) : (s.homeWrite loc (leBytes 4 x)).homeNat loc 4 = x % 2 ^ 32 := by
  have hread := Memory.readBytes_writeBytes s.mem loc (leBytes 4 x)
  rw [leBytes_length] at hread
  rw [State.homeNat, State.homeRead, State.homeWrite_mem, hread, leNat_leBytes]
  rfl

theorem State.homeNat_homeWrite_apart (h : cellsApart l loc) (x : Nat) : (s.homeWrite loc (leBytes 4 x)).homeNat l 4 = s.homeNat l 4 := by
  rw [State.homeNat, State.homeRead, State.homeWrite_mem,
    Memory.readBytes_writeBytes_of_apart (by rw [leBytes_length]; exact h), State.homeNat, State.homeRead]

theorem OnlyHomes.omega {s s' : State} (h : OnlyHomes s s') : s'.omega = s.omega := by
  rw [OnlyHomes] at h; rw [h]

theorem State.setTrue_omega : (s.setTrue loc v).omega = Sparse.set 0 s.omega loc (v / 2 ^ 32) := by
  rw [← (s.homeWrite_onlyHomes loc (leBytes 4 (v % 2 ^ 32).toNat)).omega]; rfl

/-- A cell holds the content that it was given, whatever its sign and size. -/
theorem State.trueAt_setTrue_same : (s.setTrue loc v).trueAt loc = v := by
  have hnat : (s.setTrue loc v).homeNat loc 4 = (v % 2 ^ 32).toNat % 2 ^ 32 := s.homeNat_homeWrite_same _
  rw [State.trueAt, State.setTrue_omega, Sparse.get_set_self, hnat]
  omega

theorem State.trueAt_setTrue_apart (h : cellsApart l loc) : (s.setTrue loc v).trueAt l = s.trueAt l := by
  have hnat : (s.setTrue loc v).homeNat l 4 = s.homeNat l 4 := s.homeNat_homeWrite_apart h _
  have hne : loc ≠ l := by unfold cellsApart at h; omega
  rw [State.trueAt, State.setTrue_omega, Sparse.get_set, if_neg hne, hnat, State.trueAt]

theorem State.sendUpdates_trueAt (o : Op) (cell fid : Nat) (us : List (Nat × Int × Int × Int × Int)) :
    (s.sendUpdates o cell fid us).trueAt l = s.trueAt l := by
  unfold State.sendUpdates
  induction us generalizing s with
  | nil => rfl
  | cons u us ih =>
    rw [List.foldl_cons, ih]
    dsimp only
    split
    · rfl
    · rfl

theorem State.releaseCell_trueAt (op cell : Nat) : (s.releaseCell op cell).trueAt l = s.trueAt l := by
  unfold State.releaseCell
  split
  · rfl
  · rfl

variable (o : Op) (issuer : Nat) {fid : Nat} (m : Word) (pa pb : Option Nat) (hfid : fid < 256)
include hfid

/-- The updates and the locks of a transfer of this module's contexts are no part of a content. -/
theorem State.changeCell_trueAt : (s.changeCell o issuer fid m pa pb loc).trueAt l =
    (s.setTrue loc (s.trueAt loc + cellDelta m pa loc)).trueAt l := by
  simp only [State.changeCell, hfid.not_ge, if_false, State.releaseCell_trueAt, State.sendUpdates_trueAt]

/-- The changes of two cells with no byte in common add up to one change of each. -/
theorem State.changeCell_changeCell_trueAt {hi lo : Nat} (h : cellsApart hi lo) :
    let both := (s.changeCell o issuer fid m pa pb hi).changeCell o issuer fid m pa pb lo
    both.trueAt hi = s.trueAt hi + cellDelta m pa hi ∧ both.trueAt lo = s.trueAt lo + cellDelta m pa lo := by
  intro both
  constructor
  · rw [State.changeCell_trueAt _ _ _ _ _ _ hfid, State.trueAt_setTrue_apart _ _ h, State.changeCell_trueAt _ _ _ _ _ _ hfid,
      State.trueAt_setTrue_same]
  · rw [State.changeCell_trueAt _ _ _ _ _ _ hfid, State.trueAt_setTrue_same, State.changeCell_trueAt _ _ _ _ _ _ hfid,
      State.trueAt_setTrue_apart _ _ (Or.symm h)]

end

/-- Settles O25: each of the two changes is of one cell alone, and their amounts are opposite. -/
theorem transferConservesTheTotal : Obligations.TransferConservesTheTotal := by
  intro s o fid m pa pb hfid happart _ _ once both
  have hsides : both.trueAt pa = s.trueAt pa + cellDelta m (some pa) pa ∧ both.trueAt pb = s.trueAt pb + cellDelta m (some pa) pb := by
    rcases happart with hlt | hlt
    · have hmax : Nat.max pa pb = pb := Nat.max_eq_right (by omega)
      have hmin : Nat.min pa pb = pa := Nat.min_eq_left (by omega)
      simp only [both, once, hmax, hmin]
      exact (s.changeCell_changeCell_trueAt o s.dev m (some pa) (some pb) hfid (.inr hlt)).symm
    · have hmax : Nat.max pa pb = pa := Nat.max_eq_left (by omega)
      have hmin : Nat.min pa pb = pb := Nat.min_eq_right (by omega)
      simp only [both, once, hmax, hmin]
      exact s.changeCell_changeCell_trueAt o s.dev m (some pa) (some pb) hfid (.inr hlt)
  have hdebit : cellDelta m (some pa) pa = -(m.toNat : Int) := if_pos rfl
  have hcredit : cellDelta m (some pa) pb = m.toNat := if_neg (by simp; omega)
  obtain ⟨ha, hb⟩ := hsides
  rw [ha, hb, hdebit, hcredit]
  omega

/-! ### Transfers between two cells of this module (11 R246, R247, R253 to R255) -/

theorem peerOf_of_local {l : Nat} (h : l < Config.placeSpan) : peerOf l = none := if_pos h

/-- The step of an operation of a transfer. -/
def Op.atStep (o : Op) (x : XferStep) : Op :=
  match o.kind with
  | .xfer fid ia ib m pa pb _ => { o with kind := .xfer fid ia ib m pa pb x }
  | _ => o

theorem State.setStep_eq (s : State) (op : Nat) (x : XferStep) : s.setStep op x = s.mapOp op (fun o => o.atStep x) := rfl

theorem Op.atStep_id (o : Op) (x : XferStep) : (o.atStep x).id = o.id := by
  unfold Op.atStep
  split
  · rfl
  · rfl

theorem Op.atStep_of_xfer {o : Op} {fid ia ib : Nat} {m : Word} {pa pb : Option Nat} {x : XferStep} (h : o.kind = .xfer fid ia ib m pa pb x)
    (y : XferStep) : o.atStep y = { o with kind := .xfer fid ia ib m pa pb y } := by
  simp only [Op.atStep, h]

theorem Op.atStep_atStep (o : Op) (x y : XferStep) : (o.atStep x).atStep y = o.atStep y := by
  by_cases h : ∃ fid ia ib m pa pb z, o.kind = .xfer fid ia ib m pa pb z
  · obtain ⟨fid, ia, ib, m, pa, pb, z, hk⟩ := h
    rw [Op.atStep_of_xfer hk x, Op.atStep_of_xfer hk y]; rfl
  · have hsame : o.atStep x = o := by
      unfold Op.atStep
      split
      · next hk => exact absurd ⟨_, _, _, _, _, _, _, hk⟩ h
      · rfl
    rw [hsame]

/-- A step that another follows leaves no trace. -/
theorem State.setStep_setStep (s : State) (op : Nat) (x y : XferStep) : (s.setStep op x).setStep op y = s.setStep op y := by
  simp only [State.setStep_eq, State.mapOp, List.map_map]
  congr 1
  refine List.map_congr_left fun o _ => ?_
  by_cases h : o.id = op
  · simp [Function.comp, h, Op.atStep_id, Op.atStep_atStep]
  · simp [Function.comp, h]

/-- The fault of a transfer between two ordinary cells outside deterministic mode: the debited cell is judged first (11 R246). -/
theorem xferFault_of_cells (m : Word) (a b : Int) : xferFault false m (some a) (some b) =
    if a < m.toNat then some 0x0601 else if 2 ^ 32 ≤ b + m.toNat then some 0x0602 else none := by
  have hdebit : a - m.toNat < 0 ↔ a < m.toNat := by omega
  have hcredit : 2 ^ 32 - 1 < b + (m.toNat : Int) ↔ 2 ^ 32 ≤ b + m.toNat := by omega
  simp only [xferFault, Bool.false_eq_true, if_false, if_true, decide_eq_true_eq, hdebit, hcredit]

/-- A lock request that may take its entry takes it; another waits behind those that wait (11 R254). -/
theorem State.askLock_takes {s : State} {l : Lock} (hfree : s.lockFree l s.lockWait = true) (hnone : s.lockWait.any (s.eligible l) = false) :
    s.askLock l = ({ s with locks := s.locks ++ [l] }, true) := by
  simp [State.askLock, hfree, hnone]

theorem State.askLock_waits {s : State} {l : Lock} (h : s.lockFree l s.lockWait = false ∨ s.lockWait.any (s.eligible l) = true) :
    s.askLock l = ({ s with lockWait := s.lockWait ++ [l] }, false) := by
  rw [State.askLock, if_neg (by rcases h with h | h <;> simp [h])]

/-- A transfer of this module is in flight at a step, between two of its ordinary cells whose check codes are good. -/
structure State.Moves (s : State) (o : Op) (fid ia ib : Nat) (m : Word) (pa pb : Nat) (x : XferStep) : Prop where
  op : s.op? o.id = some o
  kind : o.kind = .xfer fid ia ib m (some pa) (some pb) x
  origin : o.origin = none
  localA : pa < Config.placeSpan
  localB : pb < Config.placeSpan
  goodA : s.homeBad pa 4 = false
  goodB : s.homeBad pb 4 = false

/-- A lock of the operation on a cell. -/
abbrev Op.lockOn (o : Op) (cell : Nat) (first : Bool) : Lock := { cell := cell, op := o.id, first := first }

section
variable {s : State} {o : Op} {fid ia ib : Nat} {m : Word} {pa pb : Nat} {x : XferStep} (h : s.Moves o fid ia ib m pa pb x)
include h

theorem State.Moves.lockOrder (s' : State) : s'.lockOrder (some pa) (some pb) = [Nat.min pa pb, Nat.max pa pb] := by
  simp only [State.lockOrder, State.cellKey, peerOf_of_local h.localA, peerOf_of_local h.localB, Nat.add_le_add_iff_left]
  split
  · next hle => simp [hle]
  · next hgt => simp [Nat.le_of_not_le hgt]

theorem State.Moves.lower : peerOf (Nat.min pa pb) = none ∧ s.homeBad (Nat.min pa pb) 4 = false := by
  obtain hmin | hmin : Nat.min pa pb = pa ∨ Nat.min pa pb = pb := min_choice pa pb
  · rw [hmin]; exact ⟨peerOf_of_local h.localA, h.goodA⟩
  · rw [hmin]; exact ⟨peerOf_of_local h.localB, h.goodB⟩

theorem State.Moves.higher : peerOf (Nat.max pa pb) = none ∧ s.homeBad (Nat.max pa pb) 4 = false := by
  obtain hmax | hmax : Nat.max pa pb = pa ∨ Nat.max pa pb = pb := max_choice pa pb
  · rw [hmax]; exact ⟨peerOf_of_local h.localA, h.goodA⟩
  · rw [hmax]; exact ⟨peerOf_of_local h.localB, h.goodB⟩

theorem State.Moves.issuer : s.issuerOf o = s.dev := by rw [State.issuerOf, h.origin]

theorem State.Moves.second : o.second = false := by rw [Op.second, h.origin]

theorem State.Moves.congr {s' : State} (hops : s'.ops = s.ops) (hcodes : s'.codes = s.codes) : s'.Moves o fid ia ib m pa pb x where
  __ := h
  op := by rw [State.op?, hops]; exact h.op
  goodA := by rw [State.homeBad, hcodes]; exact h.goodA
  goodB := by rw [State.homeBad, hcodes]; exact h.goodB

theorem State.Moves.setStep (y : XferStep) :
    (s.setStep o.id y).Moves { o with kind := .xfer fid ia ib m (some pa) (some pb) y } fid ia ib m pa pb y where
  __ := h
  op := by
    rw [State.setStep_eq, State.op?_mapOp _ _ (fun p => p.atStep_id y), h.op, Option.map_some, if_pos rfl, Op.atStep_of_xfer h.kind]
  kind := rfl

/-- The coordinator has the first lock, and goes on to the second. -/
theorem State.Moves.lockHeld_first : s.lockHeld (o.lockOn (Nat.min pa pb) true) = s.setStep o.id .first := by
  simp [State.lockHeld, State.firstHeld, h.op, h.lower.2, h.kind, h.lockOrder]

/-- With the second lock the coordinator judges the contents of the cells (11 R246, R253). -/
theorem State.Moves.lockHeld_second : s.lockHeld (o.lockOn (Nat.max pa pb) false) = s.coordinate o none := by
  simp [State.lockHeld, h.op, h.higher.2, h.origin]

theorem State.Moves.coordinate_commits (hdet : o.detM = false)
    (hfault : xferFault false m (some (s.trueAt pa)) (some (s.trueAt pb)) = none) : s.coordinate o none = s.setStep o.id .commit := by
  simp only [State.coordinate, h.kind, h.lockOrder, Option.map_some, peerOf_of_local h.localA, peerOf_of_local h.localB, Option.isSome_none,
    Bool.false_eq_true, if_false, hdet, hfault]

theorem State.Moves.coordinate_fails (hdet : o.detM = false) {code : Nat}
    (hfault : xferFault false m (some (s.trueAt pa)) (some (s.trueAt pb)) = some code) :
    s.coordinate o none = ((s.xferFails o code fid ia ib).unlockOne o.id (Nat.min pa pb)).setStep o.id .unlock := by
  simp only [State.coordinate, h.kind, h.lockOrder, Option.map_some, peerOf_of_local h.localA, peerOf_of_local h.localB, Option.isSome_none,
    Bool.false_eq_true, if_false, hdet, hfault]

theorem State.Moves.request (hx : x = .sent) (hne : ia ≠ ib) (hheld : s.fieldHeld o = false) (htotals : s.heldByTotals o = false) :
    exec (.xferCoordinatorRequest o.id) s = .next (
      let r := s.askLock (o.lockOn (Nat.min pa pb) true)
      if r.2 then r.1.lockHeld (o.lockOn (Nat.min pa pb) true) else r.1.setStep o.id .waitFirst) := by
  subst hx
  have hexec : exec (.xferCoordinatorRequest o.id) s = execXferCoordinatorRequest o.id s := rfl
  simp only [hexec, execXferCoordinatorRequest, h.op, h.kind, hheld, htotals, hne, h.lockOrder, h.lower.1, Bool.or_self, Bool.false_eq_true,
    if_false, decide_false, Bool.false_and, apply_ite Host.Outcome.next]

theorem State.Moves.grant (hwait : s.lockWait = [o.lockOn (Nat.min pa pb) true])
    (hfree : s.lockFree (o.lockOn (Nat.min pa pb) true) [] = true) :
    exec (.lockEntryGrant o.id) s =
      .next (({ s with lockWait := [], locks := s.locks ++ [o.lockOn (Nat.min pa pb) true] } : State).setStep o.id .first) := by
  have hexec : exec (.lockEntryGrant o.id) s = execLockEntryGrant o.id s := rfl
  have hxfer : o.isXfer = true := by rw [Op.isXfer, h.kind]
  have hheld := (h.congr (s' := { s with lockWait := [], locks := s.locks ++ [o.lockOn (Nat.min pa pb) true] }) rfl rfl).lockHeld_first
  simp [hexec, execLockEntryGrant, hwait, h.op, hxfer, hfree, hheld]

theorem State.Moves.commit (hx : x = .commit) :
    exec (.xferCommit o.id) s = .next ((s.changeCell o s.dev fid m (some pa) (some pb) (Nat.max pa pb)).setStep o.id .acked) := by
  subst hx
  have hexec : exec (.xferCommit o.id) s = execXferCommit o.id s := rfl
  simp only [hexec, execXferCommit, h.op, h.kind, h.second, h.lockOrder, h.higher.1, h.issuer, Bool.false_eq_true, if_false]

theorem State.Moves.unlock (hx : x = .unlock) :
    exec (.xferUnlock o.id) s = .next ((s.unlockOne o.id (Nat.max pa pb)).setStep o.id .done) := by
  subst hx
  have hexec : exec (.xferUnlock o.id) s = execXferUnlock o.id s := rfl
  simp only [hexec, execXferUnlock, h.op, h.kind, h.lockOrder, h.higher.1]

theorem State.Moves.acknowledge (hx : x = .acked) (hanswered : s.awaits o.id = false)
    (hreleased : ∀ l ∈ s.locks, l.op = o.id → l.cell ≠ Nat.max pa pb) :
    exec (.xferAcknowledge o.id) s = .next ((s.changeCell o s.dev fid m (some pa) (some pb) (Nat.min pa pb)).setStep o.id .applied) := by
  subst hx
  have hexec : exec (.xferAcknowledge o.id) s = execXferAcknowledge o.id s := rfl
  have hnone : ¬ (s.locks.any (fun l => l.op == o.id && l.cell == Nat.max pa pb) || s.awaits o.id) = true := by
    simpa [hanswered] using hreleased
  simp only [hexec, execXferAcknowledge, h.op, h.kind, h.lockOrder, h.issuer, if_neg hnone]

theorem State.Moves.complete (hx : x = .applied ∨ x = .done) (harrived : o.arrived = false) (hanswered : s.awaits o.id = false)
    (hreleased : ∀ l ∈ s.locks, l.op ≠ o.id) (hcounted : ∀ u ∈ s.updates, u.op ≠ o.id) :
    exec (.xferComplete o.id) s = .next (s.arrive o.id id) := by
  have hexec : exec (.xferComplete o.id) s = execXferComplete o.id s := rfl
  have hlocks : s.locks.any (fun l => l.op == o.id) = false := by simpa using hreleased
  have hupdates : s.updates.any (fun u => u.op == o.id) = false := by simpa using hcounted
  have hstep : (x != .applied && x != .done) = false := by
    obtain rfl | rfl := hx
    · rfl
    · rfl
  simp [hexec, execXferComplete, h.op, h.kind, hstep, harrived, hanswered, hlocks, hupdates]

/-- The higher cell's home locks it, and the coordinator judges both contents (11 R246, R253). -/
theorem State.Moves.secondLock (hx : x = .first) (hdet : o.detM = false) (hfree : s.lockFree (o.lockOn (Nat.max pa pb) false) s.lockWait = true)
    (hnone : s.lockWait.any (s.eligible (o.lockOn (Nat.max pa pb) false)) = false) :
    let both : State := { s with locks := s.locks ++ [o.lockOn (Nat.max pa pb) false] }
    (xferFault false m (some (s.trueAt pa)) (some (s.trueAt pb)) = none →
      exec (.xferSecondLock o.id) s = .next (both.setStep o.id .commit)) ∧
    ∀ code, xferFault false m (some (s.trueAt pa)) (some (s.trueAt pb)) = some code →
      exec (.xferSecondLock o.id) s = .next ((((both.setStep o.id .waitSecond).xferFails o code fid ia ib).unlockOne o.id
        (Nat.min pa pb)).setStep o.id .unlock) := by
  subst hx
  intro both
  have hexec : exec (.xferSecondLock o.id) s = execXferSecondLock o.id s := rfl
  have hboth := (h.congr (s' := both) rfl rfl).setStep .waitSecond
  have hjudges : execXferSecondLock o.id s = .next ((both.setStep o.id .waitSecond).coordinate
      { o with kind := .xfer fid ia ib m (some pa) (some pb) .waitSecond } none) := by
    rw [← hboth.lockHeld_second]
    simp only [execXferSecondLock, h.op, h.kind, h.origin, h.lockOrder, h.higher.1, State.askLock_takes hfree hnone, if_true]
    rfl
  rw [hexec, hjudges]
  constructor
  · intro hfault
    rw [hboth.coordinate_commits hdet hfault, State.setStep_setStep]
  · intro code hfault
    rw [hboth.coordinate_fails hdet hfault]
    rfl

end

/-- Settles O24: each step by its event, which finds the lower cell's lock first and the contents as they stand under both locks. -/
theorem transferSteps : Obligations.TransferSteps := by
  intro s o fid ia ib m pa pb x hop hkind horigin hlocalA hlocalB _ hgoodA hgoodB lo hi lockLo lockHi both
  have h : s.Moves o fid ia ib m pa pb x := ⟨hop, hkind, horigin, hlocalA, hlocalB, hgoodA, hgoodB⟩
  refine ⟨fun hx hne hheld htotals => ⟨fun hfree hnone => ?_, fun hbusy => ?_⟩, fun _ hwait hfree => h.grant hwait hfree,
    fun hx hfree hnone hdet => ⟨fun hdebit hcredit => ?_, fun hdebit => ?_, fun hdebit hcredit => ?_⟩, h.commit, h.unlock, h.acknowledge,
    h.complete⟩
  · rw [h.request hx hne hheld htotals, State.askLock_takes hfree hnone]
    exact congrArg Host.Outcome.next (h.congr (s' := { s with locks := s.locks ++ [lockLo] }) rfl rfl).lockHeld_first
  · rw [h.request hx hne hheld htotals, State.askLock_waits hbusy]
    rfl
  · refine (h.secondLock hx hdet hfree hnone).1 ?_
    rw [xferFault_of_cells, if_neg hdebit.not_gt, if_neg (not_le.mpr hcredit)]
  · refine (h.secondLock hx hdet hfree hnone).2 _ ?_
    rw [xferFault_of_cells, if_pos hdebit]
  · refine (h.secondLock hx hdet hfree hnone).2 _ ?_
    rw [xferFault_of_cells, if_neg hdebit.not_gt, if_pos hcredit]

end Sys2Proof.Machine

/-!
# Counter sets and reads of cells
-/
namespace Sys2Proof.Machine

/-! ### Completions with what they hand to their thread (04 R106) -/

section
variable {s q : State} {o : Op} {f : Op → Op} (h : s.nextToRetire o)
include h

/-- The operations as one whose turn it is has arrived: those before it are of other threads, and no other has arrived. -/
theorem State.nextToRetire.ops_arrived (f : Op → Op) : ∃ pre post, (s.mapOp o.id (fun p => { f p with arrived := true })).ops =
    pre ++ { f o with arrived := true } :: post ∧ (∀ p ∈ pre, p.arrived = false ∧ p.tid ≠ o.tid) ∧ ∀ p ∈ post, p.arrived = false := by
  obtain ⟨pre, post, hops, hpre, hpost⟩ := h.place
  have hkeep : ∀ l : List Op, (∀ p ∈ l, p.id ≠ o.id) → l.map (fun p => if p.id = o.id then { f p with arrived := true } else p) = l :=
    fun l hl => (List.map_congr_left fun p hp => if_neg (hl p hp)).trans (List.map_id' l)
  refine ⟨pre, post, ?_, fun p hp => (hpre p hp).2, fun p hp => (hpost p hp).2⟩
  rw [State.mapOp_ops, hops, List.map_append, List.map_cons, hkeep pre fun p hp => (hpre p hp).1, hkeep post fun p hp => (hpost p hp).1,
    if_pos rfl]

/-- An operation whose turn it is completes as it arrives, and no other with it. -/
theorem State.nextToRetire.arrive_of_retireOp (hid : (f o).id = o.id) (htid : (f o).tid = o.tid)
    (hq : (s.mapOp o.id (fun p => { f p with arrived := true })).retireOp { f o with arrived := true } = q)
    (hops : q.ops = (s.mapOp o.id (fun p => { f p with arrived := true })).ops.filter (fun p => p.id != o.id)) : s.arrive o.id f = q := by
  obtain ⟨pre, post, hmap, hpre, hpost⟩ := h.ops_arrived f
  have hfirst : firstDone (s.mapOp o.id (fun p => { f p with arrived := true })).ops [] = some { f o with arrived := true } := by
    rw [hmap]
    exact firstDone_append (fun p hp => by simpa [htid] using hpre p hp) rfl (by simp)
  have hrest : firstDone q.ops [] = none := by
    refine firstDone_eq_none (fun p hp => ?_) []
    rw [hops, hmap, List.mem_filter, List.mem_append, List.mem_cons] at hp
    obtain ⟨hp | rfl | hp, hne⟩ := hp
    · exact (hpre p hp).1
    · simp [hid] at hne
    · exact hpost p hp
  rw [State.arrive, State.retireAll, hfirst]
  simp only [hq]
  exact State.retireAll_of_none hrest

end

/-! ### Counter sets and reads of cells (11 R240, R242, R248, R249, R255) -/

section
variable {s : State} {u : CounterUpd}

theorem execCounterSetUpdate_of_one (hone : s.updates = [u]) (hnew : u.applied = false) : exec (.counterSetUpdate u.uid) s = .next { s with
    sets := s.sets.map (fun c => if c.slot = u.slot ∧ c.fid = u.fid ∧ c.key = u.key then c.add u else c)
    updates := [{ u with applied := true }] } := by
  have hexec : exec (.counterSetUpdate u.uid) s = execCounterSetUpdate u.uid s := rfl
  simp [hexec, execCounterSetUpdate, hone, hnew]

/-- The last acknowledgement of a cell's updates releases the cell. -/
theorem execCounterSetAcknowledgement_of_one (hone : s.updates = [u]) (happlied : u.applied = true)
    (hreqs : ∀ r ∈ s.reqs, ¬(r.op = u.op ∧ r.pkt.typ = 8 ∧ r.pkt.op = 4 ∧ r.pos = u.cell)) :
    exec (.counterSetAcknowledgement u.uid) s = .next { s with
      updates := [], locks := s.locks.filter (fun l => !(l.op == u.op && l.cell == u.cell)) } := by
  have hexec : exec (.counterSetAcknowledgement u.uid) s = execCounterSetAcknowledgement u.uid s := rfl
  have hnone : s.reqs.any (fun r => r.op == u.op && r.pkt.typ == 8 && r.pkt.op == 4 && r.pos == u.cell) = false := by
    simpa [and_assoc] using hreqs
  simp [hexec, execCounterSetAcknowledgement, hone, happlied, State.releaseCell, hnone]

end

section
variable {s : State} {o : Op} {fid i loc : Nat}

/-- A read of a cell of this module that nothing holds is served with the cell's content (11 R248, R255). -/
theorem execCellReadServed_of_free (hop : s.op? o.id = some o) (hnew : o.arrived = false) (hk : o.kind = .cellRead fid i (some loc) false)
    (hlocal : loc < Config.placeSpan) (hheld : s.fieldHeld o = false) (hbusy : s.cellBusy o.id loc = false) (hgood : s.homeBad loc 4 = false) :
    exec (.cellReadServed o.id) s = .next ((s.leaveRead o.id).arrive o.id (fun p => { p with data := [clampCell (s.trueAt loc)] })) := by
  have hexec : exec (.cellReadServed o.id) s = execCellReadServed o.id s := rfl
  have hpeer : peerOf loc = none := if_pos hlocal
  simp [hexec, execCellReadServed, hop, State.serveCell, hnew, hheld, hk, hpeer, State.readCell, hbusy, hgood]

theorem State.retireOp_cellRead {check : Bool} (s : State) (hk : o.kind = .cellRead fid i (some loc) check) (horigin : o.origin = none)
    (hfault : o.fault = none) : s.retireOp o = s.completed o := by
  simp only [State.retireOp, State.settleSlot, Op.seesSeal, hk, horigin, hfault]
  rfl

/-- A read of the global set that has waited for 3,000 cycles waits no longer (11 R242). -/
theorem execFtotHoldTimeout_of_late {k : Nat} (hop : s.op? o.id = some o) (hk : o.kind = .totals fid 9 k) (hnew : o.arrived = false)
    (hheld : s.totalsHeld o fid = false) (hlate : o.since + 3000 ≤ s.coreClock o.core) :
    exec (.ftotHoldTimeout o.id) s = .next (s.readTotals o fid 9 k) := by
  have hexec : exec (.ftotHoldTimeout o.id) s = execFtotHoldTimeout o.id s := rfl
  simp [hexec, execFtotHoldTimeout, hop, hk, hnew, hheld, hlate]

end

/-- Settles O26: a change and its acknowledgement by their events, a read by its completion with the content of its cell. -/
theorem counterSetsAndCellReads : Obligations.CounterSetsAndCellReads := by
  refine ⟨fun s u hone hnew => ⟨_, execCounterSetUpdate_of_one hone hnew, rfl, rfl, rfl⟩,
    fun s u => execCounterSetAcknowledgement_of_one, fun s o t fid i loc h hk hlocal horigin hfault hheld hbusy hgood ht hstate _ => ?_,
    fun s o fid k => execFtotHoldTimeout_of_late⟩
  have harrive : (s.leaveRead o.id).arrive o.id (fun p => { p with data := [clampCell (s.trueAt loc)] }) =
      (s.leaveRead o.id).afterArrival o (fun p => { p with data := [clampCell (s.trueAt loc)] }) :=
    (h.of_ops (s' := s.leaveRead o.id) rfl).arrive_of_retireOp rfl rfl (State.retireOp_cellRead _ hk horigin hfault) rfl
  rw [execCellReadServed_of_free h.op h.arrived hk hlocal hheld hbusy hgood, harrive]
  refine ⟨_, rfl, State.op?_afterArrival rfl, rfl, ?_⟩
  exact State.thread?_completed (s := (s.leaveRead o.id).mapOp o.id _) (o := { o with data := [clampCell (s.trueAt loc)], arrived := true })
    ht hstate

end Sys2Proof.Machine

/-!
# The installation and the removal of a field
-/
namespace Sys2Proof.Machine

/-! ### A strand of one thread that has begun something (04 R93, R97) -/

/-- The common checks of a word of any level. -/
theorem commonStop_of_ready {s : State} {sh : Shape} {t : Thread} (hlevel : t.level.allows sh.level = true) (hpast : sh.past = none)
    (hready : OperandsReady s t sh.named sh.reads) : commonStop s false sh t = none := by
  have huser := commonStop_none (sh := { sh with level := .user }) rfl hpast hready
  unfold commonStop at huser ⊢
  simpa [hlevel, Level.allows_user] using huser

/-- Where the common checks pass, a word's checks are its own, at any level. -/
theorem Meaning.check_of_allowed {α : Type} {m : Meaning α} {s : State} {c : Ctx} {t : Thread} (hmis : m.misplaced c = false)
    (hlevel : t.level.allows (m.shape c.hints).level = true) (hpast : (m.shape c.hints).past = none)
    (hready : OperandsReady s t (m.shape c.hints).named (m.shape c.hints).reads) : m.check s c t = m.pre s c t := by
  simp only [Meaning.check, hmis, commonStop_of_ready hlevel hpast hready]

section
variable {α : Type} {s s2 q : State} {st : Strand} {t : Thread} {m : Meaning α} (h : Issuing s st) (honly : st.members = [t.tid])
  (ht : s.thread? t.tid = some t)
include h honly ht

theorem Issuing.issue_of_party {as : List (Nat × After)} {es : List (Nat × Exit)}
    (hparty : m.party (s.atWord st) (s.ctx st) [t] = (s2, as, es)) : issue m s = s2.finishWord (s.ctx st) as es := by
  have hb : (s.noteIssue st).bump = s.atWord st := rfl
  have hthread : (s.atWord st).thread? t.tid = some t := ht
  have hparties : (s.noteIssue st).parties (s.ctx st) (st.members.filterMap s.thread?) = [[t]] := by
    simp only [honly, List.filterMap_cons, ht, List.filterMap_nil, State.parties]
    split
    · rfl
    · rfl
  rw [h.issue_eq]
  simp only [hparties, Meaning.parties, List.filterMap_cons, List.filterMap_nil, hb, hthread, State.ctx_eq, hparty, List.append_nil]

/-- A word whose thread waits before it acts keeps what it has begun. -/
theorem Issuing.issue_waits {w : Wait} (hcheck : m.check (s.atWord st) (s.ctx st) t = (s2, .error (.leave w))) (hw : w.walkId = none) :
    issue m s = (s2.endStrand st).enterAt t.tid st.runPc st.blk w := by
  have hparty : m.party (s.atWord st) (s.ctx st) [t] = (s2, [], [(t.tid, .place st.runPc st.blk w)]) := by
    simp [Meaning.party, Meaning.checkAll, hcheck, stops, State.ctx_runPc, State.ctx_st]
  rw [h.issue_of_party honly ht hparty, State.finishWord_leaves, State.leaveOne_place _ _ _ _ hw]

/-- A word whose thread acts has done what it had begun. -/
theorem Issuing.issue_goes {F : State → Ctx → Thread → α → State × After} {x : α} (hmore : st.more)
    (hcheck : m.check (s.atWord st) (s.ctx st) t = (s2, .ok x)) (hgroup : m.group s2 (s.ctx st) [t] = (s2, none))
    (hact : m.act = eachThread F) (hthreads : s2.threads = s.threads)
    (hF : F (s2.mapThread t.tid Thread.acted) (s.ctx st) t.acted x = (q, .go)) (hq : (q.thread? t.tid).isSome = true) :
    issue m s = q.goesOn st := by
  have hend : s2.endBegun [t.tid] = s2.mapThread t.tid Thread.acted := by
    simp [State.endBegun, State.mapThread]
  have hthread : (s2.mapThread t.tid Thread.acted).thread? t.tid = some t.acted := by
    rw [State.thread?_mapThread _ _ _ Thread.acted fun _ => rfl, State.thread?, hthreads]
    exact (congrArg _ ht).trans (by simp)
  have hparty : m.party (s.atWord st) (s.ctx st) [t] = (q, [(t.tid, .go)], []) := by
    simp [Meaning.party, Meaning.checkAll, hcheck, stops, passed, faults, hgroup, hact, hend, eachThread, hthread, hF]
  have hlast : (s.ctx st).last = false := by
    rw [State.ctx_last, beq_eq_false_iff_ne]
    exact hmore
  rw [h.issue_of_party honly ht hparty]
  exact finishWord_go [t.tid] (by simp) hlast (by simpa using hq) honly

end

/-! ### The issue of an install (11 R250) -/

theorem State.cellPages_ok {s s' : State} {t : Thread} {f : FieldSt} {i n : Nat} {ps qs : List Trans}
    (h : s.cellPages t f i n ps = (s', .ok qs)) : OnlyCaches s s' := by
  induction n generalizing s i ps with
  | zero =>
    cases h
    exact .refl _
  | succ n ih =>
    rw [State.cellPages] at h
    split at h
    · cases h
    · next q aux hbad =>
      split at h
      · rw [State.translate_bad hbad] at h
        exact ih h
      · cases h
    · next q x hhit =>
      split at h
      · exact (State.translate_hit hhit).trans (ih h)
      · split at h
        · cases h
        · exact (State.translate_hit hhit).trans (ih h)

theorem OnlyHomes.slots {s s' : State} (h : OnlyHomes s s') : s'.slots = s.slots := by
  rw [OnlyHomes] at h; rw [h]

theorem OnlyHomes.units {s s' : State} (h : OnlyHomes s s') : s'.units = s.units := by
  rw [OnlyHomes] at h; rw [h]

section
variable {a b : Reg} {s s1 : State} {t : Thread} {acc : Access} {c : Ctx}

/-- What the checks of an install come to before its descriptor. -/
structure Installs (a b : Reg) (s : State) (t : Thread) (s1 : State) (acc : Access) : Prop where
  room : t.full .st = false
  id : (s.operand t .int a).toNat < 256
  address : t.pair b ≠ 0
  free : Sparse.find (s.slot (s.slotOf t)).fields (s.operand t .int a).toNat = none
  quiet : s.holds t .quiet = true
  access : ((s.releasePush t.core 2).codeOut t 3).globalAccess t (t.pair b) 64 0 none (needLoad false) = (s1, .ok acc)

theorem Installs.asks (h : Installs a b s t s1 acc) (hlocal : acc.peer = none) (hdescr : t.descr = []) :
    fdeclChecks a b s c t = (s1.addOp (s1.newOp c t .none (.descr acc)), .error (.leave (.op s1.nextId))) := by
  obtain ⟨hroom, hid, haddr, hfree, hquiet, hacc⟩ := h
  simp only [State.operand] at hid hfree
  simp only [fdeclChecks, hroom, hid.not_ge, haddr, hfree, hquiet, hacc, hdescr, State.askDescriptor, hlocal, Option.isSome_none,
    Bool.false_eq_true, if_false, Bool.not_true, List.isEmpty_nil, if_true]
  rfl

theorem Installs.installs (h : Installs a b s t s1 acc) (hdescr : t.descr ≠ []) (hvalid : (declared s1 t).valid = true) {s2 : State}
    {ps : List Trans} (hpages : s1.cellPages t (declared s1 t) t.checked ((declared s1 t).n - t.checked) t.pages = (s2, .ok ps)) :
    fdeclChecks a b s c t = (s2, .ok (.install (s.operand t .int a).toNat { declared s1 t with pages := ps })) := by
  obtain ⟨hroom, hid, haddr, hfree, hquiet, hacc⟩ := h
  simp only [State.operand] at hid hfree ⊢
  simp only [declared] at hvalid hpages ⊢
  simp only [fdeclChecks, hroom, hid.not_ge, haddr, hfree, hquiet, hacc, List.isEmpty_eq_false_iff.mpr hdescr, hvalid, hpages,
    Option.isSome_none, Bool.false_eq_true, if_false, Bool.not_true]

/-- The release of an install writes homes and its access fills TLBs: threads, units and slots are as before. -/
theorem Installs.leaves (h : Installs a b s t s1 acc) : s1.threads = s.threads ∧ s1.units = s.units ∧ s1.slots = s.slots := by
  have hcaches := State.globalAccess_ok h.access
  have hhomes := s.releasePush_onlyHomes t.core 2
  exact ⟨hcaches.threads.trans hhomes.threads, hcaches.units.trans hhomes.units, hcaches.slots.trans hhomes.slots⟩

end

section
variable {a b : Reg} {s s1 : State} {st : Strand} {t : Thread} {acc : Access} (h : Issuing s st) (honly : st.members = [t.tid])
  (ht : s.thread? t.tid = some t) (hready : OperandsReady s t ([a] ++ pairRegs b) [(.int, a), (.int64, b)]) (hlevel : t.level ≠ .user)

include h honly ht hready hlevel

/-- An `fdecl` asks for its descriptor, and its thread waits for it at the run of the word (11 R250 step 2). -/
theorem fdecl_asks (hinst : Installs a b (s.atWord st) t s1 acc) (hlocal : acc.peer = none) (hdescr : t.descr = []) :
    exec (.fdecl a b) s = .next (((s1.addOp (s1.newOp (s.ctx st) t .none (.descr acc))).endStrand st).enterAt t.tid st.runPc st.blk
      (.op s1.nextId)) := by
  exact congrArg Host.Outcome.next (h.issue_waits honly ht ((Meaning.check_of_allowed rfl (Level.allows_supervisor hlevel) rfl
    (hready.of_subset (by simp)).atWord).trans (hinst.asks hlocal hdescr)) rfl)

/-- With its descriptor an `fdecl` enters the field, not yet usable, and puts its operation in flight (11 R250 steps 3 to 5). -/
theorem fdecl_installs (hmore : st.more) (hinst : Installs a b (s.atWord st) t s1 acc) (hdescr : t.descr ≠ [])
    (hvalid : (declared s1 t).valid = true) {s2 : State} {ps : List Trans}
    (hpages : s1.cellPages t (declared s1 t) t.checked ((declared s1 t).n - t.checked) t.pages = (s2, .ok ps)) :
    let id := ((s.atWord st).operand t .int a).toNat
    let q := s2.mapThread t.tid Thread.acted
    exec (.fdecl a b) s = .next (((q.addOp (q.newOp (s.ctx st) t .st (.fdecl id (t.pair b)))).mapSlot (q.slotOf t) (fun x => { x with
      fields := Sparse.put x.fields id { declared s1 t with pages := ps } })).goesOn st) := by
  intro id q
  obtain ⟨hthreads, hunits, hslots⟩ := hinst.leaves
  have hcaches := State.cellPages_ok hpages
  have hthreads2 : s2.threads = s.threads := hcaches.threads.trans hthreads
  have hslot : q.slotOf t = (s.atWord st).slotOf t := by
    show s2.slotOf t = _
    rw [hcaches.slotOf, State.slotOf, State.unitOf, State.unit?, hunits]
    rfl
  have hfree : (Sparse.find (q.slot (q.slotOf t)).fields id).isSome = false := by
    have hslots2 : q.slots = (s.atWord st).slots := hcaches.slots.trans hslots
    rw [hslot, State.slot, hslots2]
    exact Option.isSome_eq_false_iff.mpr (Option.isNone_iff_eq_none.mpr hinst.free)
  have hthere : (s2.thread? t.tid).isSome = true := by
    rw [State.thread?, hthreads2]
    exact Option.isSome_of_eq_some ht
  refine congrArg Host.Outcome.next (h.issue_goes honly ht hmore ((Meaning.check_of_allowed rfl (Level.allows_supervisor hlevel) rfl
    (hready.of_subset (by simp)).atWord).trans (hinst.installs hdescr hvalid hpages)) rfl rfl hthreads2
    ((if_neg (Bool.eq_false_iff.mp hfree)).trans rfl) ?_)
  refine (State.isSome_thread?_addOp q _ _).trans ?_
  rw [State.thread?_mapThread _ _ _ Thread.acted fun _ => rfl, Option.isSome_map, hthere]

end

/-! ### The descriptor (11 R250, 01 R33) -/

section
variable {s : State} {o : Op} {acc : Access}

theorem execLoadComplete_of_descr (hop : s.op? o.id = some o) (hk : o.kind = .descr acc) (hnew : o.arrived = false) (hlocal : acc.peer = none) :
    exec (.loadComplete o.id false) s = .next (if s.homeBad acc.loc 64 then s.opError o acc.loc acc.va
      else s.arrive o.id (fun q => { q with data := s.descriptorAt acc.loc })) := by
  have hexec : exec (.loadComplete o.id false) s = execLoadComplete o.id false s := rfl
  simp [hexec, execLoadComplete, hop, hnew, hk, State.readDescriptor, hlocal]

/-- The thread to which the words of its descriptor have come. -/
def Thread.told (t : Thread) (ws : List Word) : Thread := { t with descr := ws }

/-- The machine in which the read of a descriptor has completed: its words have come to its thread. -/
def State.described (s : State) (o : Op) : State := (s.completed o).mapThread o.tid (fun t => t.told o.data)

theorem State.op?_described (s : State) (o : Op) : (s.described o).op? o.id = none := by
  simp [State.described, State.completed, State.op?]

theorem State.thread?_described {t : Thread} (hdsts : o.dsts = []) (ht : s.thread? o.tid = some t) (hstate : t.state ≠ .exited) :
    (s.described o).thread? o.tid = some ((t.lower o.cls).told o.data) := by
  have hdone : (s.completed o).thread? o.tid = some (t.lower o.cls) := by
    rw [State.thread?_completed ht hstate, hdsts]
    rfl
  rw [State.described, State.thread?_mapThread _ _ _ (fun t => t.told o.data) fun _ => rfl, hdone, Option.map_some, if_pos]
  rw [Thread.lower_tid, State.thread?_tid ht]

theorem State.retireOp_descr (s : State) (hk : o.kind = .descr acc) (horigin : o.origin = none) (hfault : o.fault = none) :
    s.retireOp o = s.described o := by
  simp only [State.retireOp, State.settleSlot, Op.seesSeal, hk, horigin, hfault]
  rfl

end

/-! ### The completion of an install and of a removal (11 R250) -/

section
variable {s : State} {o : Op} {fid : Nat} {addr : Pair} (hop : s.op? o.id = some o) (hk : o.kind = .fdecl fid addr) (hnew : o.arrived = false)
  (hheld : s.fieldHeld o = false)
include hop hk hnew hheld

theorem execFdeclHomeComplete_of_removal (haddr : addr = 0) (hquiet : ∀ p ∈ s.ops, p.onField o.id o.slot fid = false) :
    exec (.fdeclHomeComplete o.id) s = .next (({ s.mapSlot o.slot (fun c => { c with fields := Sparse.erase c.fields fid }) with
      sets := s.sets.filter (fun c => !(c.slot == o.slot && c.fid == fid)) } : State).arrive o.id id) := by
  have hexec : exec (.fdeclHomeComplete o.id) s = execFdeclHomeComplete o.id s := rfl
  have hnone : s.ops.any (fun p => p.onField o.id o.slot fid) = false := by simpa using hquiet
  simp only [hexec, execFdeclHomeComplete, hop, hk, hnew, hheld, haddr, hnone, Bool.or_self, Bool.false_eq_true, if_false, if_true]

theorem execFdeclHomeComplete_of_install {f : FieldSt} (haddr : addr ≠ 0) (hf : Sparse.find (s.slot o.slot).fields fid = some f) :
    exec (.fdeclHomeComplete o.id) s = .next (s.installField o fid f) := by
  have hexec : exec (.fdeclHomeComplete o.id) s = execFdeclHomeComplete o.id s := rfl
  simp only [hexec, execFdeclHomeComplete, hop, hk, hnew, hheld, haddr, hf, Bool.or_self, Bool.false_eq_true, if_false]

end

theorem State.cellsAgree_iff (s : State) (o : Op) (f : FieldSt) : s.cellsAgree o f = true ↔
    (∀ l ∈ f.rolePlaces, s.cellWord (o.peerWords f) l = 0) ∧ s.cellSum (o.peerWords f) (f.cellPlaces 0 f.n) = f.init := by
  simp [State.cellsAgree]

/-- No local cell among `places` is found with a bad check code. -/
theorem find?_badCell_eq_none {s : State} {places : List Nat} (hgood : ∀ l ∈ places, peerOf l = none → s.homeBad l 4 = false) :
    places.find? (fun l => (peerOf l).isNone && s.homeBad l 4) = none := by
  simpa using hgood

section
variable {s : State} {o : Op} {fid : Nat} {f : FieldSt} (hanswered : s.awaits o.id = false) (hfresh : s.setsOf o.slot fid = [])
  (hread : f.peerCells.length ≤ o.data.length)
  (hgood : ∀ l ∈ f.cellPlaces 0 f.n ++ f.rolePlaces, peerOf l = none → s.homeBad l 4 = false)
include hanswered hfresh hread hgood

/-- Cells that do not agree take the field away, as they are. -/
theorem State.installField_refuses (hbad : s.cellsAgree o f = false) : s.installField o fid f =
    (s.mapSlot o.slot (fun c => { c with fields := Sparse.erase c.fields fid })).arriveFault o.id 0x0603 0 4 := by
  simp [State.installField, hanswered, hfresh, List.getElem?_eq_none hread, find?_badCell_eq_none hgood, hbad, -List.find?_append]

/-- Cells that agree, those on peers cleared of their ω, start the field's counter sets and make it usable. -/
theorem State.installField_starts (hagree : s.cellsAgree o f = true) (hcleared : f.peerCells.length + f.peerOrdinary.length ≤ o.data.length) :
    s.installField o fid f =
      ((s.startSets o fid f).mapSlot o.slot (fun c => { c with fields := Sparse.put c.fields fid { f with usable := true } })).arrive o.id id := by
  have hzeros : f.peerOrdinary[o.data.length - f.peerCells.length]? = none := List.getElem?_eq_none (by omega)
  simp [State.installField, hanswered, hfresh, List.getElem?_eq_none hread, find?_badCell_eq_none hgood, hagree, hzeros, -List.find?_append]

end

/-- Settles O23: the issue of an `fdecl` before and with its descriptor, the read of the descriptor, and the completion of a removal and of an
install, which judges the cells. -/
theorem fieldsAreInstalledAndRemoved : Obligations.FieldsAreInstalledAndRemoved := by
  refine ⟨fun a b s st t s1 acc h honly ht hready hlevel hroom hid haddr hfree hquiet hacc hlocal hdescr =>
      fdecl_asks h honly ht hready hlevel ⟨hroom, hid, haddr, hfree, hquiet, hacc⟩ hlocal hdescr,
    fun s o acc hop hk hnew hlocal => execLoadComplete_of_descr hop hk hnew hlocal,
    fun s o t acc h hk hlocal horigin hfault hdsts hgood ht hstate _ => ?_,
    fun a b s st t s1 acc s2 ps h honly ht hmore hready hlevel hroom hid haddr hfree hquiet hacc hdescr hvalid hpages =>
      fdecl_installs h honly ht hready hlevel hmore ⟨hroom, hid, haddr, hfree, hquiet, hacc⟩ hdescr hvalid hpages,
    fun s o fid addr hop hk hnew hheld => ⟨execFdeclHomeComplete_of_removal hop hk hnew hheld, ?_⟩⟩
  · rw [execLoadComplete_of_descr h.op hk h.arrived hlocal, if_neg (Bool.eq_false_iff.mp hgood),
      h.arrive_of_retireOp rfl rfl (State.retireOp_descr _ hk horigin hfault) rfl]
    exact ⟨_, rfl, State.op?_described _ { o with data := s.descriptorAt acc.loc, arrived := true }, rfl,
      State.thread?_described (s := s.mapOp o.id _) (o := { o with data := s.descriptorAt acc.loc, arrived := true }) hdsts ht hstate⟩
  · intro f haddr hf places ws good reads hanswered hfresh hread hgood
    rw [execFdeclHomeComplete_of_install hop hk hnew hheld haddr hf]
    refine ⟨fun hagree hcleared => ?_, fun hbad => ?_⟩
    · rw [State.installField_starts hanswered hfresh hread hgood ((s.cellsAgree_iff o f).mpr hagree) hcleared]
      rfl
    · rw [State.installField_refuses hanswered hfresh hread hgood (Bool.eq_false_iff.mpr (mt (s.cellsAgree_iff o f).mp hbad))]

end Sys2Proof.Machine

/-!
# The issue of the instructions of append-seal pages
-/
namespace Sys2Proof.Machine

/-! ### The checks of a page at issue (12 R266) -/

section
variable {s s' : State} {t : Thread} {a : Reg} {write det gath : Bool} {acc : Access}

/-- The checks that pass fill TLBs only. -/
theorem State.asealAccess_ok (h : s.asealAccess t a write det gath = (s', .ok acc)) : OnlyCaches s s' := by
  rw [State.asealAccess] at h
  replace h := of_ite_error h
  split at h
  · cases h
  · cases h
  · next q x hhit =>
    iterate 3 replace h := of_ite_error h
    split at h
    · cases h
    · cases h
      exact State.translate_hit hhit

theorem State.asealAccess_passes (h : (s.asealAccess t a write det gath).2 = .ok acc) :
    ∃ s', s.asealAccess t a write det gath = (s', .ok acc) ∧ OnlyCaches s s' :=
  have hpair : s.asealAccess t a write det gath = ((s.asealAccess t a write det gath).1, .ok acc) := Prod.ext rfl h
  ⟨_, hpair, State.asealAccess_ok hpair⟩

/-- Whether a thread is quiet depends on the operations in flight alone. -/
theorem OnlyCaches.holds_quiet (h : OnlyCaches s s') (t : Thread) : s'.holds t .quiet = s.holds t .quiet := by
  simp only [State.holds, h.ops]

end

/-! ### The operations that they put in flight (12 R265 to R267, R274 to R276, R283, R285) -/

/-- The own checks of an instruction of a page pass and allow an operation. -/
def AsealPasses (ctr : Ctr) (a : Reg) (write det quiet : Bool) (dst : List Reg) (kind : State → Thread → Access → OpKind) (c : Ctx)
    (s : State) (t : Thread) (k : OpKind) (ds : List Reg) : Prop :=
  ds = dst ∧ t.full ctr = false ∧ (quiet = true → s.holds t .quiet = true) ∧
    ∃ acc, (s.asealAccess t a write det c.st.blk.gath).2 = .ok acc ∧ k = kind s t acc

section
variable {i : Instr} {ctr : Ctr} {sh : Shape} {a : Reg} {write det quiet : Bool} {dst named : List Reg}
  {reads : List (Cls × Reg)} {kind : State → Thread → Access → OpKind}

/-- An instruction of a page that releases nothing puts its operation in flight where its own checks pass. -/
theorem launches_of_asealOp (hi : ∀ s, exec i s = .next (asealOp ctr sh a write det quiet false dst kind s)) (hpast : sh.past = none)
    (hreads : sh.reads = reads) (hnamed : ∀ q ∈ sh.named, q ∈ named)
    (hkind : ∀ {s s' : State} t acc, OnlyCaches s s' → kind s' t acc = kind s t acc) :
    Launches i (fun _ => named) (fun _ => reads) ctr (fun c s t k ds =>
      t.level.allows sh.level = true ∧ AsealPasses ctr a write det quiet dst kind c s t k ds) := by
  refine Launches.of_checks hi rfl (fun _ => rfl) (fun _ _ _ => rfl) (fun _ => hpast) (fun _ => hreads) (fun _ => hnamed) ?_
  rintro c s t k ds ⟨hlevel, rfl, hroom, hquiet, acc, hacc, rfl⟩
  obtain ⟨s', hpair, hcaches⟩ := State.asealAccess_passes hacc
  have hwait : (quiet && !s'.holds t .quiet) = false := by simpa [hcaches.holds_quiet] using hquiet
  refine ⟨fun _ => hlevel, acc, s', _, .int, ?_, hcaches, rfl, by rw [← hkind t acc hcaches]; rfl⟩
  simp only [hroom, hpair, hwait, Bool.false_eq_true, if_false]

/-- The same for an instruction that every level may issue. -/
theorem launches_of_userAsealOp (hi : ∀ s, exec i s = .next (asealOp ctr sh a write det quiet false dst kind s)) 
    (hshape : sh = { named := sh.named, reads := reads }) (hnamed : ∀ q ∈ sh.named, q ∈ named)
    (hkind : ∀ {s s' : State} t acc, OnlyCaches s s' → kind s' t acc = kind s t acc) :
    Launches i (fun _ => named) (fun _ => reads) ctr (AsealPasses ctr a write det quiet dst kind) :=
  fun s st t k ds h hmore hready hok => launches_of_asealOp hi (by rw [hshape]) (by rw [hshape]) hnamed hkind s st t k ds h hmore hready
    ⟨by rw [hshape]; exact Level.allows_user _, hok⟩

end

/-- A `seal` releases at scope 11 and puts its operation in flight (12 R276). -/
theorem seal_acts (a : Reg) : Acts (.seal a) (fun _ => pairRegs a) (fun _ => [(.int64, a)])
    (fun c s t => t.full .st = false ∧ s.holds t .quiet = true ∧ ∃ acc, (s.asealAccess t a true true c.st.blk.gath).2 = .ok acc)
    (fun c s t =>
      let r := s.asealAccess t a true true c.st.blk.gath
      match r.2 with
      | .ok acc =>
        let q := (r.1.releasePush t.core 3).codeOut t 11
        q.addOp { q.newOp c t .st (.seal acc) with tag := .int }
      | .error _ => s) := by
  refine Acts.of_subset (named' := fun _ => pairNames a) (Acts.of_issue (fun _ => rfl) rfl (fun _ => rfl) ?_) fun _ _ => by simp
  rintro s st t h - - ⟨hroom, hquiet, acc, hacc⟩
  obtain ⟨s', hpair, hcaches⟩ := State.asealAccess_passes hacc
  have hwait : (true && !s'.holds t .quiet) = false := by simpa [hcaches.holds_quiet] using hquiet
  have hthreads : (s'.releasePush t.core 3).threads = s.threads := (s'.releasePush_onlyHomes t.core 3).threads.trans hcaches.threads
  refine ⟨acc, s', rfl, Level.allows_user _, rfl, rfl, ?_, rfl, hcaches.threads, ?_, ?_⟩
  · simp only [hroom, hpair, hwait, Bool.false_eq_true, if_false]
  · simp only [hpair]
    rfl
  · simp only [hpair, State.isSome_thread?_addOp]
    exact Option.isSome_of_eq_some ((congrArg (List.find? _) hthreads).trans h.thread)

/-- Settles O35: the instructions of pages differ in their registers and in the operation; `seal` alone releases first. -/
theorem appendPageOperationsGoInFlight : Obligations.AppendPageOperationsGoInFlight := by
  intro d a b page
  have hpage : page = fun ctr => AsealPasses ctr a := rfl
  clear_value page
  subst hpage
  refine ⟨?app, ?app64, ?appq, ?free, ?aopen, ?atail, ?astate, seal_acts a⟩
  case app | app64 | appq | free | atail | astate =>
    refine launches_of_userAsealOp (fun _ => rfl) ?_ ?_ ?_
    · rfl
    · simp [quadRegs]
    · exact fun _ _ _ => rfl
  case aopen =>
    rintro s st t k ds h hmore hready ⟨hlevel, hok⟩
    refine launches_of_asealOp (fun _ => rfl) rfl rfl ?_ ?_ s st t k ds h hmore hready ⟨Level.allows_supervisor hlevel, hok⟩
    · simp
    · exact fun t acc hcaches => by rw [State.operand, State.operand, hcaches.fieldFrac]

end Sys2Proof.Machine

/-!
# Appends: the reservation of their bytes, and the write of them
-/
namespace Sys2Proof.Machine

/-! ### Page records (12 R261, R287) -/

theorem State.mapPage_of_page {s : State} {p : Nat} {r : PageRec} (h : s.page? p = some r) (f : PageRec → PageRec) :
    s.mapPage p f = s.setPage p (f r) := by
  simp only [State.mapPage, h]

section
variable (s : State) (p : Nat) (f : PageRec → PageRec)

@[simp] theorem State.mapPage_mem : (s.mapPage p f).mem = s.mem := by
  unfold State.mapPage; split <;> rfl

@[simp] theorem State.mapPage_ops : (s.mapPage p f).ops = s.ops := by
  unfold State.mapPage; split <;> rfl

@[simp] theorem State.mapPage_threads : (s.mapPage p f).threads = s.threads := by
  unfold State.mapPage; split <;> rfl

end

theorem OnlyHomes.page? {s s' : State} (h : OnlyHomes s s') (p : Nat) : s'.page? p = s.page? p := by
  rw [OnlyHomes] at h; rw [h]; rfl

/-- An operation outside deterministic mode makes and breaks no claim. -/
theorem State.pageClaim_of_free {o : Op} (h : o.detM = false) (s : State) (p : Nat) (r : PageRec) : s.pageClaim p r o = (s, none) := by
  simp [State.pageClaim, Op.claims, h]

/-! ### The reservation (12 R261, R267) -/

/-- The offset that an append of z bytes takes in a page: the next multiple of z at or above the tail. -/
def PageRec.slotFor (r : PageRec) (z : Nat) : Nat := (r.tail + z - 1) / z * z

/-- The bytes of an append are reserved there, and the gap below them is filled with zeros. -/
def State.reserve (s : State) (o : Op) (a : Access) (ws : List Word) (r : PageRec) : State :=
  let z := 4 * ws.length
  let off := r.slotFor z
  ((s.homeWrite (a.pageLoc + r.tail) (List.replicate (off - r.tail) 0)).setPage a.pageLoc { r with
    tail := off + z, reserved := r.reserved ++ [(off, z)] }).mapOp o.id (fun q => { q with served := true, kind := .append a ws (some off) })

section
variable {s : State} {o : Op} {a : Access} {ws : List Word} {r : PageRec} (hk : o.kind = .append a ws none)
include hk

/-- An append on a page of its size is judged by the page's state, then by the room that is left. -/
theorem State.serveAppend_of_page (hr : s.page? a.pageLoc = some r) (hdet : o.detM = false) (hsize : r.size = a.pageSize) :
    s.serveAppend o =
      if r.state ≠ .opened then s.arriveFault o.id 0x0701 a.va r.tailAux
      else if r.size < r.slotFor (4 * ws.length) + 4 * ws.length then s.arriveFault o.id 0x0703 a.va (BitVec.ofNat 32 r.tail)
      else s.reserve o a ws r := by
  have hpage : ∀ loc bs, (s.homeWrite loc bs).page? a.pageLoc = some r := fun loc bs => ((s.homeWrite_onlyHomes loc bs).page? _).trans hr
  simp only [State.serveAppend, hk, hr, ← hsize, ne_eq, not_true_eq_false, if_false, State.pageClaim_of_free hdet,
    State.mapPage_of_page (hpage _ _)]
  rfl

/-- A batch of one append that nothing holds is served on a page of this module. -/
theorem execAppendBatchServe_of_one (hop : s.op? o.id = some o) (hlocal : a.peer = none) (hone : s.appendBatch o = [o])
    (hserve : s.mayServe o false = true) : exec (.appendBatchServe o.id) s = .next (s.serveAppend o) := by
  have hexec : exec (.appendBatchServe o.id) s = execAppendBatchServe o.id s := rfl
  simp [hexec, execAppendBatchServe, hop, hk, hone, hserve, hlocal]

end

/-! ### The write of the data (12 R267, R268) -/

theorem length_wordBytes (ws : List Word) : (wordBytes ws).length = 4 * ws.length := by
  induction ws with
  | nil => rfl
  | cons w ws ih =>
    rw [wordBytes, List.flatMap_cons, List.length_append, leBytes_length, ← wordBytes, ih, List.length_cons]
    omega

/-- The data of a reserved append stands at its home, and its bytes are reserved no longer. -/
def State.appended (s : State) (a : Access) (ws : List Word) (off : Nat) : State :=
  (s.homeWrite (a.pageLoc + off) (wordBytes ws)).mapPage a.pageLoc (fun r =>
    { r with reserved := r.reserved.filter (fun x => x != (off, 4 * ws.length)) })

section
variable {s : State} {o : Op} {a : Access} {ws : List Word} {off : Nat}

theorem State.appended_ops : (s.appended a ws off).ops = s.ops :=
  (State.mapPage_ops _ _ _).trans (s.homeWrite_onlyHomes _ _).ops

theorem State.appended_threads : (s.appended a ws off).threads = s.threads :=
  (State.mapPage_threads _ _ _).trans (s.homeWrite_onlyHomes _ _).threads

theorem State.read_appended (j : Nat) : Memory.read (s.appended a ws off).mem j =
    if a.pageLoc + off ≤ j ∧ j < a.pageLoc + off + 4 * ws.length then (wordBytes ws).getD (j - (a.pageLoc + off)) 0
    else Memory.read s.mem j := by
  rw [State.appended, State.mapPage_mem, State.homeWrite_mem, Memory.read_writeBytes, length_wordBytes]

theorem State.retireOp_append {x : Option Nat} (s : State) (hk : o.kind = .append a ws x) (horigin : o.origin = none) (hfault : o.fault = none) :
    s.retireOp o = s.completed o := by
  simp only [State.retireOp, State.settleSlot, Op.seesSeal, hk, horigin, hfault]
  rfl

theorem execAppendDataWrite_of_reserved (h : s.nextToRetire o) (hk : o.kind = .append a ws (some off)) (horigin : o.origin = none)
    (hfault : o.fault = none) : exec (.appendDataWrite o.id) s =
      .next ((s.appended a ws off).afterArrival o (fun p => { p with data := [BitVec.ofNat 32 off] })) := by
  have hexec : exec (.appendDataWrite o.id) s = .next ((s.appended a ws off).arrive o.id (fun p => { p with data := [BitVec.ofNat 32 off] })) := by
    have hdef : exec (.appendDataWrite o.id) s = execAppendDataWrite o.id s := rfl
    simp only [hdef, execAppendDataWrite, h.op, hk, h.arrived, Bool.false_eq_true, if_false]
    rfl
  rw [hexec, (h.of_ops State.appended_ops).arrive_of_retireOp (o := o) rfl rfl (State.retireOp_append _ hk horigin hfault) rfl]
  rfl

end

/-- Settles O36: an append that is served is judged by the state of its page and the room there; one that is reserved completes with the write of
its data. -/
theorem appendsReserveThenWrite : Obligations.AppendsReserveThenWrite := by
  refine ⟨fun s o a ws r hop hk hlocal hone hserve hr hdet hsize _ => ?_, fun s o t a ws off h hk hfault horigin ht hstate _ _ => ?_⟩
  · rw [execAppendBatchServe_of_one hk hop hlocal hone hserve, State.serveAppend_of_page hk hr hdet hsize]
    refine ⟨fun hopen hroom => ?_, fun hopen hfull => ?_, fun hclosed => ?_⟩
    · exact congrArg Host.Outcome.next ((if_neg (not_not.mpr hopen)).trans (if_neg (not_lt.mpr hroom)))
    · exact congrArg Host.Outcome.next ((if_neg (not_not.mpr hopen)).trans (if_pos hfull))
    · exact congrArg Host.Outcome.next (if_pos hclosed)
  · rw [execAppendDataWrite_of_reserved h hk horigin hfault]
    refine ⟨_, rfl, State.op?_afterArrival rfl, ?_, State.read_appended⟩
    exact State.thread?_completed (s := (s.appended a ws off).mapOp o.id _) (o := { o with data := [BitVec.ofNat 32 off], arrived := true })
      ((congrArg (List.find? _) State.appended_threads).trans ht) hstate

end Sys2Proof.Machine

/-!
# The states of a page: seals, frees and openings, and the steps of a freeing
-/
namespace Sys2Proof.Machine

/-! ### Seals, frees and openings at the tail slice (12 R264, R276, R283, R285) -/

/-- The page as it becomes FREEING for an operation. -/
def PageRec.freedBy (r : PageRec) (op : Nat) (remove : Bool) : PageRec :=
  { r with state := .freeing, freeOp := some op, reclaiming := false, acks := [], removing := remove }

theorem State.beginFree_of_page {s : State} {p : Nat} {r : PageRec} (h : s.page? p = some r) (op : Nat) (remove : Bool) :
    s.beginFree op p remove = (s.setPage p (r.freedBy op remove)).mapOp op (fun q => { q with served := true }) := by
  rw [State.beginFree, State.mapPage_of_page h]
  rfl

section
variable {s : State} {o : Op} {a : Access} {r : PageRec} (hop : s.op? o.id = some o)
include hop

section
variable (hlocal : a.peer = none) (hserve : s.mayServe o true = true)
include hlocal hserve

section
variable (hdet : o.detM = false) (hr : s.page? a.pageLoc = some r) (hsize : r.size = a.pageSize)
include hdet hr hsize

theorem execSealServe_of_page (hk : o.kind = .seal a) : exec (.sealServe o.id) s = .next (
    if r.state ≠ .opened then s.arriveFault o.id 0x0704 a.va (stateAux false false (some r))
    else (s.setPage a.pageLoc { r with state := .sealed }).mapOp o.id (fun p => { p with served := true })) := by
  have hexec : exec (.sealServe o.id) s = execSealServe o.id s := rfl
  simp only [hexec, execSealServe, hop, hk, hserve, hlocal, hr, ← hsize, State.pageClaim_of_free hdet, State.mapPage_of_page hr,
    Bool.not_true, Bool.false_eq_true, ne_eq, not_true_eq_false, if_false, apply_ite Host.Outcome.next]

theorem execFreeServe_of_page (hk : o.kind = .free a) : exec (.freeServe o.id) s = .next (
    if r.state ≠ .sealed then s.arriveFault o.id 0x0704 a.va (stateAux false false (some r))
    else (s.setPage a.pageLoc (r.freedBy o.id false)).mapOp o.id (fun p => { p with served := true })) := by
  have hexec : exec (.freeServe o.id) s = execFreeServe o.id s := rfl
  simp only [hexec, execFreeServe, hop, hk, hserve, hlocal, hr, ← hsize, State.pageClaim_of_free hdet, State.beginFree_of_page hr,
    Bool.not_true, Bool.false_eq_true, ne_eq, not_true_eq_false, if_false, apply_ite Host.Outcome.next]

end

section
variable {ctl : Word} (hk : o.kind = .aopen a ctl)
include hk

theorem execAopenServe_of_badCtl (hctl : 3 ≤ ctl.toNat) :
    exec (.aopenServe o.id) s = .next (s.arriveFault o.id 0x0704 a.va (stateAux true false (s.page? a.pageLoc))) := by
  have hexec : exec (.aopenServe o.id) s = execAopenServe o.id s := rfl
  simp only [hexec, execAopenServe, hop, hk, hserve, hlocal, hctl, Bool.not_true, Bool.false_eq_true, if_false, if_true]

theorem execAopenServe_of_noPage (hr : s.page? a.pageLoc = none) (hctl : ctl.toNat < 2) :
    exec (.aopenServe o.id) s = .next ((s.setPage a.pageLoc { state := .opened, size := a.pageSize }).arrive o.id id) := by
  have hexec : exec (.aopenServe o.id) s = execAopenServe o.id s := rfl
  obtain hzero | hone : ctl.toNat = 0 ∨ ctl.toNat = 1 := by omega
  · simp [hexec, execAopenServe, hop, hk, hserve, hlocal, hr, hzero]
  · simp [hexec, execAopenServe, hop, hk, hserve, hlocal, hr, hone]

theorem execAopenServe_of_exists (hr : s.page? a.pageLoc = some r) (hctl : ctl = 0) :
    exec (.aopenServe o.id) s = .next (s.arriveFault o.id 0x0704 a.va (stateAux false false (some r))) := by
  have hexec : exec (.aopenServe o.id) s = execAopenServe o.id s := rfl
  subst hctl
  simp only [hexec, execAopenServe, hop, hk, hserve, hlocal, hr, Bool.not_true, Bool.false_eq_true, if_false]
  rfl

/-- An `aopen` with CTL 1 or 2 waits on a page that is FREEING, and frees another. -/
theorem execAopenServe_of_replaced (hr : s.page? a.pageLoc = some r) (hctl : ctl = 1 ∨ ctl = 2) : exec (.aopenServe o.id) s = .next (
    if r.state = .freeing then s.mapOp o.id (fun p => { p with served := true })
    else (s.setPage a.pageLoc (r.freedBy o.id (ctl == 2))).mapOp o.id (fun p => { p with served := true })) := by
  have hexec : exec (.aopenServe o.id) s = execAopenServe o.id s := rfl
  obtain rfl | rfl := hctl
  all_goals
    simp only [hexec, execAopenServe, hop, hk, hserve, hlocal, hr, State.beginFree_of_page hr, Bool.not_true, Bool.false_eq_true, if_false]
    exact (apply_ite Host.Outcome.next _ _ _).symm

end

end

/-- A seal that is served completes once no data of its page is outstanding (12 R276). -/
theorem execSealComplete_of_written (hk : o.kind = .seal a) (hserved : o.served = true) (hnew : o.arrived = false)
    (hanswered : s.awaits o.id = false) (hr : s.page? a.pageLoc = some r) (hwritten : r.reserved = []) :
    exec (.sealComplete o.id) s = .next (s.arrive o.id id) := by
  have hexec : exec (.sealComplete o.id) s = execSealComplete o.id s := rfl
  simp [hexec, execSealComplete, hop, hk, hserved, hnew, hanswered, hr, PageRec.pw, hwritten]

end

theorem pagesAreSealedFreedAndOpened : Claims.PagesAreSealedFreedAndOpened := by
  intro s o a hop hdet hlocal
  refine ⟨fun hk hserve r hr hsize => ?seals, fun hk hserved hnew hanswered r hr hwritten =>
      execSealComplete_of_written hop hk hserved hnew hanswered hr hwritten, fun hk hserve r hr hsize => ?marks, fun ctl hk hserve =>
      ⟨execAopenServe_of_badCtl hop hlocal hserve hk, execAopenServe_of_noPage hop hlocal hserve hk, fun r hr =>
        ⟨execAopenServe_of_exists hop hlocal hserve hk hr, fun hctl hfreeing => ?waits, fun hctl hother => ?frees⟩⟩⟩
  case seals =>
    rw [execSealServe_of_page hop hlocal hserve hdet hr hsize hk]
    exact ⟨fun hopen => by rw [if_neg (not_not.mpr hopen)], fun hclosed => by rw [if_pos hclosed]⟩
  case marks =>
    rw [execFreeServe_of_page hop hlocal hserve hdet hr hsize hk]
    exact ⟨fun hsealed => by rw [if_neg (not_not.mpr hsealed)]; rfl, fun hother => by rw [if_pos hother]⟩
  case waits => rw [execAopenServe_of_replaced hop hlocal hserve hk hr hctl, if_pos hfreeing]
  case frees =>
    rw [execAopenServe_of_replaced hop hlocal hserve hk hr hctl, if_neg hother]
    rfl

/-! ### The steps of a freeing (12 R280 to R283) -/

theorem State.page?_of_freesPage {s : State} {op : Nat} {o : Op} {a : Access} {r : PageRec} (h : s.freesPage op = some (o, a, r)) :
    s.page? a.pageLoc = some r := by
  rw [State.freesPage] at h
  split at h
  · cases h
  · split at h
    · cases h
    · split at h
      · cases h
      · next hr =>
        split at h
        · cases h
          exact hr
        · cases h

section
variable {s : State} {o : Op} {a : Access} {r : PageRec} (h : s.freesPage o.id = some (o, a, r))
include h

/-- Where dies alone hold replicas, the home asks them and sends nothing (12 R283 step 2). -/
theorem execFreeReclaim_of_dies (hwritten : r.reserved = []) (hnew : r.reclaiming = false) (hall : r.repAll = false) (hpeers : r.repPeers = [])
    (hdies : ∀ d ∈ r.repDies, d < 8) :
    exec (.freeReclaim o.id) s = .next (s.setPage a.pageLoc { r with reclaiming := true, acks := r.repDies }) := by
  have hexec : exec (.freeReclaim o.id) s = execFreeReclaim o.id s := rfl
  have hagents : s.reclaimAgents r = r.repDies := by simp [State.reclaimAgents, hall, hpeers]
  have hnone : r.repDies.filter (fun x => decide (8 ≤ x)) = [] := by simpa using hdies
  simp [hexec, execFreeReclaim, h, PageRec.pw, hwritten, hnew, hagents, hnone, State.mapPage_of_page (State.page?_of_freesPage h)]

theorem execFreeShootdown_of_reclaimed (hreclaiming : r.reclaiming = true) (hacks : r.acks = []) (hmark : o.mark = none)
    (horigin : o.origin = none) : exec (.freeShootdown o.id) s =
      .next ((s.shootPage (s.slot o.slot).cid a.pageLoc).mapOp o.id (fun p => { p with mark := some s.nextId })) := by
  have hexec : exec (.freeShootdown o.id) s = execFreeShootdown o.id s := rfl
  simp only [hexec, execFreeShootdown, h, hreclaiming, hacks, hmark, horigin]
  rfl

section
variable {m : Nat} (hmark : o.mark = some m) (horigin : o.origin = none) (hwrites : s.writesPage o a.pageLoc m = false)
  (hreads : s.readsPage a.pageLoc = false)
include hmark horigin hwrites hreads

theorem execFreeReopen_of_free {b : Access} (hk : o.kind = .free b) (hstays : r.removing = false) : exec (.freeReopen o.id) s =
    .next (((s.pushAll.setPage a.pageLoc { state := .opened, size := r.size, claims := r.claims }).endWaiting a.pageLoc).arrive o.id id) := by
  have hexec : exec (.freeReopen o.id) s = execFreeReopen o.id s := rfl
  simp [hexec, execFreeReopen, h, hmark, horigin, hwrites, hreads, hk, hstays]

theorem execFreeReopen_of_removal (hgoes : r.removing = true) : exec (.freeReopen o.id) s =
    .next (((s.pushAll.erasePage a.pageLoc).endWaiting a.pageLoc).arrive o.id id) := by
  have hexec : exec (.freeReopen o.id) s = execFreeReopen o.id s := rfl
  simp [hexec, execFreeReopen, h, hmark, horigin, hwrites, hreads, hgoes]

end

end

section
variable {s : State} {page die : Nat} {r : PageRec} (hdie : die < 8) (hr : s.page? page = some r)
include hdie hr

theorem execReplicaReclaim_of_asked (hasked : die ∈ r.acks) : exec (.replicaReclaim page die) s = .next (s.dropReplica die page) := by
  have hexec : exec (.replicaReclaim page die) s = execReplicaReclaim page die s := rfl
  have hok : dieOk die = true := decide_eq_true hdie
  simp [hexec, execReplicaReclaim, hok, hr, hasked]

/-- A die that holds no replica of the page acknowledges. -/
theorem execReclaimAck_of_dropped (hdropped : s.replica? die page = none) :
    exec (.reclaimAck page die) s = .next (s.setPage page { r with acks := r.acks.filter (fun x => x != die) }) := by
  have hexec : exec (.reclaimAck page die) s = execReclaimAck page die s := rfl
  simp [hexec, execReclaimAck, hdie, hdropped, State.mapPage_of_page hr]

end

theorem freeingStepByStep : Claims.FreeingStepByStep :=
  ⟨fun _ _ _ _ h => ⟨execFreeReclaim_of_dies h, execFreeShootdown_of_reclaimed h, fun _ hmark horigin hwrites hreads =>
      ⟨fun _ => execFreeReopen_of_free h hmark horigin hwrites hreads, execFreeReopen_of_removal h hmark horigin hwrites hreads⟩⟩,
    fun _ _ _ _ hdie hr => ⟨execReplicaReclaim_of_asked hdie hr, execReclaimAck_of_dropped hdie hr⟩⟩

/-- Settles O37: at the tail slice the page's state decides, and each step of a freeing has its own event. -/
theorem pagesChangeTheirStates : Obligations.PagesChangeTheirStates := ⟨pagesAreSealedFreedAndOpened, freeingStepByStep⟩

end Sys2Proof.Machine

/-!
# Reads of append-seal pages, and the replicas that serve them
-/
namespace Sys2Proof.Machine

/-! ### What the tail slice says of a read (12 R271 to R273) -/

section
variable {r : PageRec} {size off z : Nat} (hsize : r.size = size) (hstate : r.state ≠ .freeing)
include hsize hstate

theorem judgeRead_beyond (htail : r.tail < off + z) : judgeRead (some r) size off z false = .fault (BitVec.ofNat 32 r.tail) := by
  simp [judgeRead, hsize, hstate, htail]

theorem judgeRead_below (det : Bool) (htail : off + z ≤ r.tail) :
    judgeRead (some r) size off z det = if r.unwritten off z then .passed else .bytes := by
  simp [judgeRead, hsize, hstate, htail.not_gt]

end

/-- A page of which every reservation has its data has no byte that is not yet written. -/
theorem PageRec.unwritten_of_written {r : PageRec} (h : r.reserved = []) (off z : Nat) : r.unwritten off z = false := by
  simp [PageRec.unwritten, h]

/-! ### `atail` and `astate` (12 R274, R275) -/

/-- PW, as a number of `astate`: a reserved byte is not yet written. -/
theorem PageRec.ite_pw (r : PageRec) (x : Nat) : (if r.pw then x else 0) = if r.reserved = [] then 0 else x := by
  cases hres : r.reserved with
  | nil => simp [PageRec.pw, hres]
  | cons y ys => simp [PageRec.pw, hres]

section
variable {s : State} {o : Op} {a : Access}

theorem execTailReadServe_of_status {word : Bool} {r : PageRec} (hop : s.op? o.id = some o) (hk : o.kind = .status a word)
    (hserve : s.mayServe o true = true) (hlocal : a.peer = none) (hdet : o.detM = false) (hr : s.page? a.pageLoc = some r)
    (hsize : r.size = a.pageSize) :
    exec (.tailReadServe o.id) s = .next (s.arrive o.id (fun p => { p with data := [if word then statusWord (some r) else tailWord (some r)] })) := by
  have hexec : exec (.tailReadServe o.id) s = execTailReadServe o.id s := rfl
  have hload : s.serveTailRead o = s := by simp only [State.serveTailRead, hk]
  simp [hexec, execTailReadServe, hop, hload, State.serveStatus, hk, hserve, hlocal, hdet, hr, hsize]

end

/-! ### Loads (12 R271 to R273, R279) -/

/-- A load of an append-seal page may be served, and its bytes pass the check of their codes (16 R375). -/
structure State.TailRead (s : State) (o : Op) (a : Access) (sg : Bool) (acq : Option Nat) : Prop where
  op : s.op? o.id = some o
  kind : o.kind = .load a sg acq
  memory : a.sp = 0
  page : a.cls = 2
  free : s.freeToAct o = true
  answered : s.awaits o.id = false
  new : o.served = false
  good : s.tailBad o a = false

section
variable {s : State} {o : Op} {a : Access} {sg : Bool} {acq : Option Nat} (h : s.TailRead o a sg acq)
include h

theorem State.TailRead.exec_tailReadServe : exec (.tailReadServe o.id) s = .next (s.serveTailRead o) := by
  have hexec : exec (.tailReadServe o.id) s = execTailReadServe o.id s := rfl
  simp only [hexec, execTailReadServe, h.op, State.serveStatus, h.kind]

theorem State.TailRead.exec_replicaFill : exec (.replicaFill o.id) s = .next (s.serveTailRead o) := by
  have hexec : exec (.replicaFill o.id) s = execReplicaFill o.id s := rfl
  simp only [hexec, execReplicaFill, h.op]

/-- A load of this module is served from a copy of its line without the tail slice. -/
theorem State.TailRead.served_of_copy {x : State × List Byte} (horigin : o.origin = none) (hcopy : s.sealedCopy o a = some x) :
    s.serveTailRead o = x.1.arrive o.id (fun p => { p with data := loadWords sg x.2 }) := by
  simp [State.serveTailRead, h.kind, h.memory, h.page, h.free, h.answered, h.new, h.good, horigin, hcopy]

section
variable (hcopy : s.sealedCopy o a = none) (hlocal : a.peer = none)
include hcopy hlocal

theorem State.TailRead.served_of_fault {aux : Word}
    (hj : judgeRead (s.page? a.pageLoc) a.pageSize (a.loc - a.pageLoc) a.z o.detM = .fault aux) :
    s.serveTailRead o = s.arriveFault o.id 0x0702 a.va aux := by
  simp [State.serveTailRead, h.kind, h.memory, h.page, h.free, h.answered, h.new, hcopy, hlocal, hj]

theorem State.TailRead.served_of_passed (hj : judgeRead (s.page? a.pageLoc) a.pageSize (a.loc - a.pageLoc) a.z o.detM = .passed) :
    s.serveTailRead o = s.mapOp o.id (fun p => { p with served := true }) := by
  simp [State.serveTailRead, h.kind, h.memory, h.page, h.free, h.answered, h.new, hcopy, hlocal, hj]

section
variable (hj : judgeRead (s.page? a.pageLoc) a.pageSize (a.loc - a.pageLoc) a.z o.detM = .bytes)
include hj

theorem State.TailRead.served_of_open (hopen : sealedQuiet (s.page? a.pageLoc) a.pageSize = false) :
    s.serveTailRead o = s.arrive o.id (fun p => { p with data := loadWords sg (s.homeRead a.loc a.z) }) := by
  simp [State.serveTailRead, h.kind, h.memory, h.page, h.free, h.answered, h.new, h.good, hcopy, hlocal, hj, hopen]

/-- A line of a sealed page comes from its home or through the replica of the die, and fills the L1. -/
theorem State.TailRead.served_of_sealed {r : PageRec} (hr : s.page? a.pageLoc = some r) (hquiet : sealedQuiet (some r) a.pageSize = true)
    (horigin : o.origin = none) :
    let q := s.readSealed (dieOf o.core) a r.tail
    s.serveTailRead o = (q.1.fillSealed o a q.2 r.tail).arrive o.id (fun p => { p with
      data := loadWords sg ((q.2.drop (a.loc % 128)).take a.z) }) := by
  rw [hr] at hj
  simp [State.serveTailRead, h.kind, h.memory, h.page, h.free, h.answered, h.new, h.good, hcopy, hlocal, hr, hj, hquiet, horigin]

end

end

end

/-! ### The least recently used replica (12 R281) -/

theorem execReplicaPageDrop_of_first {s : State} {die : Nat} {r : Replica} {rest : List Replica} (hdie : die < 8)
    (hreplicas : (s.die die).replicas = r :: rest) : exec (.replicaPageDrop die) s = .next (s.dropReplica die r.page) := by
  have hexec : exec (.replicaPageDrop die) s = execReplicaPageDrop die s := rfl
  have hok : dieOk die = true := decide_eq_true hdie
  simp [hexec, execReplicaPageDrop, hok, hreplicas]

/-- Settles O38: the page's record decides which of the outcomes of a read it meets; a copy of a sealed line answers before the record is asked. -/
theorem tailSliceServesReads : Obligations.TailSliceServesReads := by
  refine ⟨fun s o a w r hop hk hserve hlocal hdet hr hsize => ?status,
    fun s o a sg acq r hop hk hsp hcls hfree hanswered hnew hcopy hlocal hr hsize hdet hgood => ?read,
    fun s o a sg acq r hop hk hsp hcls hfree hanswered hnew horigin hcopy hgood => ?copied,
    fun s die r rest => execReplicaPageDrop_of_first⟩
  case status =>
    rw [execTailReadServe_of_status hop hk hserve hlocal hdet hr hsize]
    refine congrArg (fun x => Host.Outcome.next (s.arrive o.id (fun p => { p with data := [x] }))) ?_
    cases w with
    | true => rw [if_pos rfl, if_pos rfl, statusWord, PageRec.ite_pw]
    | false =>
      rw [if_neg Bool.false_ne_true, if_neg Bool.false_ne_true]
      rfl
  case copied =>
    have h : s.TailRead o a sg acq := ⟨hop, hk, hsp, hcls, hfree, hanswered, hnew, hgood⟩
    rw [h.exec_replicaFill, h.served_of_copy horigin hcopy]
  case read =>
    have h : s.TailRead o a sg acq := ⟨hop, hk, hsp, hcls, hfree, hanswered, hnew, hgood⟩
    have hbytes : r.state ≠ .freeing → a.loc - a.pageLoc + a.z ≤ r.tail → r.reserved = [] →
        judgeRead (s.page? a.pageLoc) a.pageSize (a.loc - a.pageLoc) a.z o.detM = .bytes := fun hstate htail hwritten => by
      rw [hr, judgeRead_below hsize hstate _ htail, PageRec.unwritten_of_written hwritten]
      rfl
    refine ⟨fun hstate htail => ?_, fun hopen htail hwritten => ?_, fun hstate htail hunwritten => ?_, fun hsealed htail hwritten horigin => ?_⟩
    · rw [h.exec_tailReadServe, h.served_of_fault hcopy hlocal (by rw [hr, hdet]; exact judgeRead_beyond hsize hstate htail)]
    · rw [h.exec_tailReadServe, h.served_of_open hcopy hlocal (hbytes (by rw [hopen]; decide) htail hwritten)
        (by rw [hr]; simp [sealedQuiet, hopen])]
    · rw [h.exec_tailReadServe, h.served_of_passed hcopy hlocal (by rw [hr, judgeRead_below hsize hstate _ htail, hunwritten]; rfl)]
    · rw [h.exec_replicaFill]
      exact congrArg Host.Outcome.next (h.served_of_sealed hcopy hlocal (hbytes (by rw [hsealed]; decide) htail hwritten) hr
        (by simp [sealedQuiet, hsealed, PageRec.pw, hwritten, hsize]) horigin)

end Sys2Proof.Machine

/-!
# Tile commands enter the sequencer (13 R291 to R298)
-/
namespace Sys2Proof.Machine

/-! ### A word that acts once for its party -/

/-- A word that acts for a strand of one thread as a whole, whose thread goes on in the strand. -/
theorem Alone.issue_once {α : Type} {s q : State} {st : Strand} {t : Thread} {m : Meaning α} {x : α} (h : Alone s st t) (hmore : st.more)
    (hcheck : m.check (s.atWord st) (s.ctx st) t = (s.atWord st, .ok x))
    (hgroup : m.group (s.atWord st) (s.ctx st) [t] = (s.atWord st, none))
    (hact : m.act (s.atWord st) (s.ctx st) [(t.tid, x)] = (q, [(t.tid, .go)])) (hq : (q.thread? t.tid).isSome = true) :
    issue m s = q.goesOn st := by
  have hend : (s.atWord st).endBegun [t.tid] = s.atWord st :=
    State.endBegun_eq_self (s := s.atWord st) h.threads h.thread h.fresh
  have hparty : m.party (s.atWord st) (s.ctx st) [t] = (q, [(t.tid, .go)], []) := by
    simp [Meaning.party, Meaning.checkAll, hcheck, stops, passed, faults, hgroup, hact, hend]
  rw [h.issue_of_party hparty, h.finish_go hmore hq]

theorem State.intOf_atWord (s : State) (st : Strand) (t : Thread) (r : Reg) : (s.atWord st).intOf t r = s.operand t .int r := by
  rw [State.intOf, State.fieldFrac_atWord]; rfl

/-- The strand of the word after depends on the clocks alone. -/
theorem State.pastWord_of_dies {s s' : State} (h : s'.dies = s.dies) (st : Strand) : s'.pastWord st = s.pastWord st := by
  simp only [State.pastWord, State.coreClock, State.clock, State.die, h]

/-! ### The configuration word (13 R298) -/

theorem cfgValid_of_fields {w : Word} (hrsvd : w.toNat / 16 = 0) (hfmt : w.toNat % 8 ≤ 4) (hsm : w.getLsbD 3 = true → w.toNat % 8 = 4) :
    cfgValid w = true := by
  have hscaled : cfgSm w = false ∨ w.toNat % 8 = 4 := by
    cases h : w.getLsbD 3 with
    | false => exact .inl h
    | true => exact .inr (hsm h)
  simp [cfgValid, hrsvd, hfmt, hscaled]

/-- The machine in which the configuration word of a thread's group is set. -/
def State.setConfig (s : State) (t : Thread) (w : Word) : State :=
  s.mapUnit t.unit (fun u => { u with config := Sparse.set 0 u.config (s.groupOf t) w })

/-- What the meaning of `tcfg` is. -/
def tcfgMeaning (a : Reg) : Meaning Unit :=
  { lane := true, shape := fun _ => { named := [a], reads := [(.int, a)] }, pre := noCheck,
    act := fun s _ ts =>
      match ts.filterMap (fun p => s.thread? p.1) with
      | [] => (s, [])
      | t :: _ =>
        if !cfgValid (s.intOf t a) then (s, ts.map (fun p => (p.1, After.fault { code := 0x0801, aux := tileAux 0 0 0 1 })))
        else (s.setConfig t (s.intOf t a), ts.map (fun p => (p.1, After.go))) }

theorem exec_tcfg (s : State) (a : Reg) : exec (.tcfg a) s = .next (issue (tcfgMeaning a) s) := rfl

theorem tcfg_sets {s : State} {st : Strand} {t : Thread} {a : Reg} (h : Alone s st t) (hmore : st.more) (hgath : st.blk.gath = true)
    (hready : OperandsReady s t [a] [(.int, a)]) (hvalid : cfgValid (s.operand t .int a) = true) :
    exec (.tcfg a) s = .next (((s.atWord st).setConfig t (s.operand t .int a)).goesOn st) := by
  have hmis : (tcfgMeaning a).misplaced (s.ctx st) = false := by
    simp [Meaning.misplaced, tcfgMeaning, State.ctx_st, hgath]
  have hcheck : (tcfgMeaning a).check (s.atWord st) (s.ctx st) t = (s.atWord st, .ok ()) :=
    Meaning.check_of_ready hmis rfl rfl hready.atWord
  have hact : (tcfgMeaning a).act (s.atWord st) (s.ctx st) [(t.tid, ())] =
      ((s.atWord st).setConfig t (s.operand t .int a), [(t.tid, .go)]) := by
    simp only [tcfgMeaning, List.filterMap_cons, List.filterMap_nil, State.atWord_thread?, h.thread, State.intOf_atWord, hvalid,
      Bool.not_true, Bool.false_eq_true, if_false, List.map_cons, List.map_nil]
  rw [exec_tcfg, h.issue_once hmore hcheck rfl hact (Option.isSome_of_eq_some h.thread)]

/-! ### The entry of a command (13 R291 to R294) -/

/-- What the meaning of a tile instruction is. -/
def tileMeaning (f : TileForm) : Meaning Unit :=
  { lane := true, hx := f.gather, shape := fun h => shapeOf (f.operands h), illegal := f.illegal,
    pre := fun s _ t => if t.full .tl then (s, .error (.leave (.room .tl))) else (s, Except.ok ()),
    group := fun s c ts => match ts with
      | [] => (s, none)
      | t :: _ => if (f.check s c.hints t).isNone && !s.holds t .tileEntry then (s, some .tileEntry) else (s, none),
    act := fun s c ts =>
      let us := ts.filterMap (fun p => s.thread? p.1)
      match us with
      | [] => (s, [])
      | t :: _ =>
        match f.check s c.hints t with
        | some e => (s, ts.map (fun p => (p.1, After.fault e)))
        | none => (f.start s c t us, ts.map (fun p => (p.1, After.go))) }

theorem tileOp_eq_issue (f : TileForm) (s : State) : tileOp f s = issue (tileMeaning f) s := rfl

/-- A command that enters for one thread stands last and waits, with the fields of the control word; beside it the claims of the unit, one
name and the thread's tl have changed. -/
theorem TileForm.start_one (f : TileForm) (s : State) (c : Ctx) (t : Thread) :
    ∃ us cmd, f.start s c t [t] =
        (({ s with units := us, cmds := s.cmds ++ [cmd] } : State).bump).mapThread t.tid (fun u => u.raise .tl) ∧
      cmd.state = .waiting ∧ cmd.next = 0 ∧ cmd.fn = f.fn ∧ cmd.id = ctl (s.intOf t f.b) 0 8 ∧ cmd.x = ctl (s.intOf t f.b) 26 2 ∧
      cmd.ab = ctl (s.intOf t f.b) 28 2 ∧ cmd.bb = ctl (s.intOf t f.b) 30 2 ∧ cmd.unit = t.unit ∧ cmd.tids = [(t.tid, t.slot)] ∧
      cmd.preds = f.preds s t ∧ cmd.addrs = f.addrs s c.hints t [t] := by
  unfold TileForm.start
  cases t.modeD with
  | false => exact ⟨s.units, _, rfl, rfl, rfl, rfl, rfl, rfl, rfl, rfl, rfl, rfl, rfl, rfl⟩
  | true => exact ⟨_, _, rfl, rfl, rfl, rfl, rfl, rfl, rfl, rfl, rfl, rfl, rfl, rfl⟩

theorem ctl_low (w : Word) : ctl w 0 8 = w.toNat % 256 := by simp [ctl]

theorem ctl_top (w : Word) : ctl w 30 2 = w.toNat / 2 ^ 30 := by
  have := w.isLt
  rw [ctl]
  omega

section
variable {s : State} {st : Strand} {t : Thread} {f : TileForm} (h : Alone s st t)
include h

theorem Alone.tileMeaning_act (hcheck : f.check (s.atWord st) st.hints t = none) :
    (tileMeaning f).act (s.atWord st) (s.ctx st) [(t.tid, ())] = (f.start (s.atWord st) (s.ctx st) t [t], [(t.tid, .go)]) := by
  simp only [tileMeaning, List.filterMap_cons, List.filterMap_nil, State.atWord_thread?, h.thread, State.ctx_hints, hcheck, List.map_cons,
    List.map_nil]

/-- A tile instruction whose checks pass lets its command enter. -/
theorem Alone.issue_tileMeaning (hmore : st.more) (hgath : st.blk.gath = true) (hhx : f.gather = true → st.hints.hx.isSome = true)
    (hlegal : f.illegal st.hints = false) (hready : OperandsReady s t (shapeOf (f.operands st.hints)).named (f.operands st.hints))
    (hroom : t.full .tl = false) (hentry : (s.atWord st).holds t .tileEntry = true) (hcheck : f.check (s.atWord st) st.hints t = none) :
    issue (tileMeaning f) s = (f.start (s.atWord st) (s.ctx st) t [t]).goesOn st := by
  have hhint : (f.gather && st.hints.hx.isNone) = false := by
    cases hg : f.gather with
    | false => rfl
    | true => simpa using hhx hg
  have hmis : (tileMeaning f).misplaced (s.ctx st) = false := by
    simp [Meaning.misplaced, tileMeaning, State.ctx_st, State.ctx_hints, hgath, hlegal, hhint]
  have hchecks : (tileMeaning f).check (s.atWord st) (s.ctx st) t = (s.atWord st, .ok ()) := by
    rw [Meaning.check_of_ready hmis rfl rfl hready.atWord]
    simp only [tileMeaning, hroom, Bool.false_eq_true, if_false]
  have hgroup : (tileMeaning f).group (s.atWord st) (s.ctx st) [t] = (s.atWord st, none) := by
    simp only [tileMeaning, hentry, Bool.not_true, Bool.and_false, Bool.false_eq_true, if_false]
  refine h.issue_once hmore hchecks hgroup (h.tileMeaning_act hcheck) ?_
  obtain ⟨us, cmd, hstart, -⟩ := f.start_one (s.atWord st) (s.ctx st) t
  rw [hstart, State.thread?_mapThread _ _ _ _ (fun t => Raise.tid t .tl), Option.isSome_map]
  exact Option.isSome_of_eq_some h.thread

end

theorem EntersSequencer.of_tileOp {i : Instr} {f : TileForm} (hi : ∀ s, exec i s = .next (tileOp f s)) : EntersSequencer i f := by
  intro s st t h hmore hgath hhx hlegal hready hroom hentry hcheck
  obtain ⟨us, cmd, hstart, hstate, hnext, hfn, hid, hx, hab, hbb, hunit, htids, hpreds, haddrs⟩ := f.start_one (s.atWord st) (s.ctx st) t
  rw [State.intOf_atWord] at hid hx hab hbb
  rw [ctl_low] at hid
  rw [ctl_top] at hbb
  have hexec : exec i s = .next ((f.start (s.atWord st) (s.ctx st) t [t]).goesOn st) := by
    rw [hi, tileOp_eq_issue, h.issue_tileMeaning hmore hgath hhx hlegal hready hroom hentry hcheck]
  have hthread : ∀ n, ((f.start (s.atWord st) (s.ctx st) t [t]).goesOn st).thread? n =
      (s.thread? n).map (fun u => if u.tid = t.tid then u.raise .tl else u) := fun n => by
    rw [hstart]; exact State.thread?_mapThread _ _ _ _ fun t => Raise.tid t .tl
  refine ⟨_, cmd, hexec, ?_, hstate, hnext, hfn, hid, hx, hab, hbb, hunit, htids, hpreds, haddrs, ?_, fun n hn => ?_, ?_, ?_⟩
  · rw [hstart]; rfl
  · rw [hthread, h.thread]; simp
  · rw [hthread]
    cases hu : s.thread? n with
    | none => rfl
    | some u => simp [State.thread?_tid hu, hn]
  · rw [hstart]; exact .of_eq rfl rfl rfl rfl
  · rw [hstart]
    simp only [State.goesOn]
    rw [State.pastWord_of_dies (s := s) rfl]
    rfl

/-- Settles O39: every tile instruction is `tileOp` of its form, which lets one command enter where the checks pass. -/
theorem tileCommandsEnterTheSequencer : Obligations.TileCommandsEnterTheSequencer := by
  intro d a b
  refine ⟨.of_tileOp fun _ => rfl, .of_tileOp fun _ => rfl, .of_tileOp fun _ => rfl, .of_tileOp fun _ => rfl, .of_tileOp fun _ => rfl,
    .of_tileOp fun _ => rfl, .of_tileOp fun _ => rfl, .of_tileOp fun _ => rfl, .of_tileOp fun _ => rfl, ?_⟩
  rintro s st t w h hmore hgath hready rfl hrsvd hfmt hsm
  exact tcfg_sets h hmore hgath hready (cfgValid_of_fields hrsvd hfmt hsm)

end Sys2Proof.Machine

/-!
# The pipes of the tile engine (13 R290, R294 to R305, R308)
-/
namespace Sys2Proof.Machine

/-! ### The start of a command (13 R294, R295, R302) -/

theorem Cmd.not_occupies {c : Cmd} (h : c.state ≠ .running) : c.occupies = false := by simp [Cmd.occupies, h]

section
variable {s : State} {core pipe : Nat} {c : Cmd} (hcore : core < 320)
  (hidle : ∀ x ∈ s.cmds, x.core = core → x.fn.pipe = pipe → x.state ≠ .running)
  (hfind : s.cmds.find? (fun x => x.core == core && x.fn.pipe == pipe && s.cmdReady x) = some c)
include hcore hidle hfind

/-- A pipe that runs nothing takes its earliest ready command. -/
theorem exec_tileCommandStart : exec (.tileCommandStart core pipe) s =
    if c.fn == .tmma && c.next == 0 && !s.formatsMatch c then
      .next (s.cmdFault c { code := 0x0801, aux := tileAux 0 c.id 0 6 } (c.giver 64))
    else .next (s.mapCmd c.uid (fun c => { c with state := .running })) := by
  have hexec : exec (.tileCommandStart core pipe) s = execTileCommandStart core pipe s := rfl
  have hfree : ¬ s.cmds.any (fun c => c.core == core && c.fn.pipe == pipe && c.occupies) = true := by
    rw [List.any_eq_true]
    rintro ⟨x, hx, hoccupies⟩
    simp only [Bool.and_eq_true, beq_iff_eq] at hoccupies
    obtain ⟨⟨hxcore, hxpipe⟩, hxrun⟩ := hoccupies
    exact absurd hxrun (by simp [Cmd.not_occupies (hidle x hx hxcore hxpipe)])
  rw [hexec, execTileCommandStart, if_neg (coreOk_of_lt hcore), if_neg hfree]
  simp only [hfind]

theorem exec_tileCommandStart_of_ready (h : c.fn ≠ .tmma ∨ c.next ≠ 0 ∨ s.formatsMatch c = true) :
    exec (.tileCommandStart core pipe) s = .next (s.mapCmd c.uid (fun c => { c with state := .running })) := by
  rw [exec_tileCommandStart hcore hidle hfind, if_neg]
  simp only [Bool.and_eq_true, beq_iff_eq, Bool.not_eq_true']
  rintro ⟨⟨hfn, hnext⟩, hformats⟩
  rcases h with h | h | h
  · exact h hfn
  · exact h hnext
  · simp [hformats] at h

theorem exec_tileCommandStart_of_otherFormat (hfn : c.fn = .tmma) (hnext : c.next = 0) (hformats : s.formatsMatch c = false) :
    exec (.tileCommandStart core pipe) s = .next (s.cmdFault c { code := 0x0801, aux := tileAux 0 c.id 0 6 } (c.giver 64)) := by
  rw [exec_tileCommandStart hcore hidle hfind, if_pos (by simp [hfn, hnext, hformats])]

end

/-! ### Retirement (13 R294, R295) -/

/-- A command runs, and no request of it at a peer is unanswered. -/
structure State.Runs (s : State) (c : Cmd) : Prop where
  found : s.cmd? c.uid = some c
  running : c.state = .running
  answered : s.awaits c.uid = false

theorem exec_tileCommandRetire (s : State) (uid : Nat) : exec (.tileCommandRetire uid) s = execTileCommandRetire uid s := rfl

section
variable {s : State} {c : Cmd} {u : UnitSt} (h : s.Runs c) (hunit : s.unit? c.unit = some u) (hstopped : u.stopped = false)
include h hunit hstopped

theorem State.Runs.retires_load (hfn : c.fn = .tlda ∨ c.fn = .tldb) (hdone : 2 * c.addrs.length ≤ c.next) :
    exec (.tileCommandRetire c.uid) s = .next (s.endLoad c) := by
  have hblocks : c.blocks ≤ c.next := hdone
  rcases hfn with hfn | hfn
  · simp [exec_tileCommandRetire, execTileCommandRetire, h.found, h.running, h.answered, hunit, hstopped, hfn, hblocks]
  · simp [exec_tileCommandRetire, execTileCommandRetire, h.found, h.running, h.answered, hunit, hstopped, hfn, hblocks]

theorem State.Runs.retires_zero (hfn : c.fn = .tzero) :
    exec (.tileCommandRetire c.uid) s = .next ((s.mapUnit c.unit (fun u => u.zeroRows c)).retireCmd c.uid) := by
  simp [exec_tileCommandRetire, execTileCommandRetire, h.found, h.running, h.answered, hunit, hstopped, hfn]

/-- A `tmma` whose K-steps are all made writes the sums that it still holds. -/
theorem State.Runs.retires_multiply (hfn : c.fn = .tmma) (hdone : c.kappa ≤ c.next) :
    exec (.tileCommandRetire c.uid) s = .next ((s.mapUnit c.unit (fun u =>
      u.takeSums c (c.elements.drop (c.next - c.kappa)))).retireCmd c.uid) := by
  simp [exec_tileCommandRetire, execTileCommandRetire, h.found, h.running, h.answered, hunit, hstopped, hfn, Nat.sub_eq_zero_of_le hdone,
    State.kSteps, State.sumRest]

theorem State.Runs.retires_lines (hfn : c.fn = .tdrain ∨ c.fn = .tstacc) (hdone : c.lines ≤ c.next) (happlied : c.unapplied = []) :
    exec (.tileCommandRetire c.uid) s = .next (s.retireCmd c.uid) := by
  rcases hfn with hfn | hfn
  · simp [exec_tileCommandRetire, execTileCommandRetire, h.found, h.running, h.answered, hunit, hstopped, hfn, hdone, happlied]
  · simp [exec_tileCommandRetire, execTileCommandRetire, h.found, h.running, h.answered, hunit, hstopped, hfn, hdone, happlied]

end

/-- What a pipe starts, and how each function retires. -/
theorem tilePipesStartAndRetire : Claims.TilePipesStartAndRetire :=
  ⟨fun _ _ _ _ hcore hidle hfind =>
      ⟨exec_tileCommandStart_of_ready hcore hidle hfind, exec_tileCommandStart_of_otherFormat hcore hidle hfind⟩,
    fun _ _ _ hfound hrunning hanswered hunit hstopped =>
      have h : State.Runs _ _ := ⟨hfound, hrunning, hanswered⟩
      ⟨h.retires_load hunit hstopped, h.retires_zero hunit hstopped, h.retires_multiply hunit hstopped, h.retires_lines hunit hstopped⟩⟩

/-! ### Blocks and K-steps (13 R290, R299, R300, R302) -/

section
variable {s : State} {c : Cmd} (h : s.Runs c)
include h

/-- A load that no earlier store of its threads holds reads the next block. -/
theorem State.Runs.exec_tileBlockArrival_of_load (hfn : c.fn = .tlda ∨ c.fn = .tldb) (hheld : s.tileHeld c = false)
    (hnext : c.next < 2 * c.addrs.length) : exec (.tileBlockArrival c.uid) s = .next (s.loadBlock c) := by
  have hexec : exec (.tileBlockArrival c.uid) s = execTileBlockArrival c.uid s := rfl
  have hblocks : ¬ c.blocks ≤ c.next := Nat.not_le.mpr hnext
  rcases hfn with hfn | hfn
  · simp [hexec, execTileBlockArrival, h.found, h.running, h.answered, hfn, hheld, hblocks]
  · simp [hexec, execTileBlockArrival, h.found, h.running, h.answered, hfn, hheld, hblocks]

/-- The array makes a K-step of a `tmma` while one is left, then writes its sums element by element. -/
theorem State.Runs.exec_tileBlockArrival_of_multiply {u : UnitSt} (hfn : c.fn = .tmma) (hunit : s.unit? c.unit = some u)
    (hstopped : u.stopped = false) :
    exec (.tileBlockArrival c.uid) s = .next (if c.kappa ≤ c.next then s.sumStep c else s.kStep c) := by
  have hexec : exec (.tileBlockArrival c.uid) s = execTileBlockArrival c.uid s := rfl
  simp [hexec, execTileBlockArrival, h.found, h.running, h.answered, hfn, hunit, hstopped, apply_ite Host.Outcome.next]

end

/-- The access of a load in ordinary memory of this module delivers the bytes of the die's L2. -/
theorem State.loadBlock_of_l2 {s s1 : State} {c : Cmd} {row : Nat} {addr : Pair} {x : Access}
    (haddr : c.addrs[c.next % c.addrs.length]? = some (row, addr))
    (hcanon : canonical (addr + BitVec.ofNat 64 (c.next / c.addrs.length * c.fmt.block) + BitVec.ofNat 64 c.half.length) = true)
    (haligned : addr.toNat % c.fmt.block = 0)
    (hend : s.copyEnd (c.asOp (c.giver row).1 (c.giver row).2)
      (addr + BitVec.ofNat 64 (c.next / c.addrs.length * c.fmt.block) + BitVec.ofNat 64 c.half.length) false = (s1, .here x))
    (hcls : x.cls ≠ 2) (hgood : s1.l2Bad (dieOf c.core) x.loc c.accessLen = false) :
    s.loadBlock c = (s1.l2Read (dieOf c.core) x.loc c.accessLen).1.takeAccess c row (c.next / c.addrs.length)
      (s1.l2Read (dieOf c.core) x.loc c.accessLen).2 := by
  simp [State.loadBlock, haddr, hcanon, haligned, hend, hcls, hgood]

theorem State.kStep_of_unit {s : State} {c : Cmd} {u : UnitSt} (hunit : s.unit? c.unit = some u) :
    s.kStep c = s.mapCmd c.uid (fun x => { x with next := c.next + 1, partials := u.mmaStep c }) := by
  rw [State.kStep, hunit]

/-! ### Lines (13 R305, R308) -/

/-- A drain or a store-out that no earlier store of its threads holds sends the next line. -/
theorem State.Runs.exec_drainLineArrival {s : State} {c : Cmd} {u : UnitSt} (h : s.Runs c) (hfn : c.fn = .tdrain ∨ c.fn = .tstacc)
    (hnext : c.next < c.lines) (hheld : s.tileHeld c = false) (hunit : s.unit? c.unit = some u) :
    exec (.drainLineArrival c.uid) s = .next (s.sendLine c u) := by
  have hexec : exec (.drainLineArrival c.uid) s = execDrainLineArrival c.uid s := rfl
  have hpipe : c.fn.pipe = 2 := by rcases hfn with hfn | hfn <;> rw [hfn] <;> rfl
  simp [hexec, execDrainLineArrival, h.found, h.running, hpipe, hnext, hheld, hunit]

section
variable {s s1 : State} {c : Cmd} {u : UnitSt} {row : Nat} {addr : Pair} {x : Access}
  (haddr : c.addrs[c.next / c.rowLines]? = some (row, addr))
  (hcanon : canonical (addr + BitVec.ofNat 64 (128 * (c.next % c.rowLines))) = true) (haligned : addr.toNat % 128 = 0)
  (hend : s.copyEnd (c.asOp (c.giver row).1 (c.giver row).2) (addr + BitVec.ofNat 64 (128 * (c.next % c.rowLines))) true = (s1, .here x))
include haddr hcanon haligned hend

/-- A line of a store-out is written at the issuing die's L2. -/
theorem State.sendLine_of_storeOut (hfn : c.fn = .tstacc) :
    let bs := wordBytes (u.lineWords c row (c.next % c.rowLines))
    s.sendLine c u = (((s1.noteWrite (foreignWriter 2) c.core x.loc bs).l2Write (dieOf c.core) x.loc bs).l1Store c.core x.loc bs).mapCmd
      c.uid (fun c => { c with next := c.next + 1 }) := by
  simp [State.sendLine, haddr, hcanon, haligned, hend, hfn]

/-- A line of a drain without a merge is added at its home. -/
theorem State.sendLine_of_drain (hfn : c.fn = .tdrain) (hmerge : c.merge = none)
    (hgood : ((s1.l1Give c.core x.loc).dropRemote (dieOf c.core) (lineOf x.loc)).homeBad x.loc 128 = false) :
    s.sendLine c u = (((s1.l1Give c.core x.loc).dropRemote (dieOf c.core) (lineOf x.loc)).addLine x.loc (c.fmt == .f64)
      (u.lineWords c row (c.next % c.rowLines))).mapCmd c.uid (fun c => { c with next := c.next + 1 }) := by
  simp [State.sendLine, haddr, hcanon, haligned, hend, hfn, hmerge, hgood]

end

/-! ### The product of a K-step (13 R303) -/

section
variable (u : UnitSt) (c : Cmd) (m : Sparse Word) (i j k : Nat)

theorem UnitSt.accOf_first {t : Nat} (h : c.next = 0) : u.accOf c t i j = u.tile t i j := if_pos h

theorem UnitSt.accOf_later {t : Nat} (h : c.next ≠ 0) : u.accOf c t i j = Sparse.get 0 c.partials (4096 * t + 64 * i + j) := if_neg h

/-- A format of one word to an accumulator. -/
theorem UnitSt.mmaAt_word (h : c.fmt ≠ .f64) : u.mmaAt c m i j k = Sparse.set 0 m (4096 * c.x + 64 * i + j) (w32
    (tileStep c.fmt (cfgSm c.cfg) (u.accOf c c.x i j).toNat (u.buf 1 c.ab) (u.buf 2 c.bb) i j k)) := if_neg h

theorem UnitSt.mmaAt_f32 (h : c.fmt = .f32) : u.mmaAt c m i j k = Sparse.set 0 m (4096 * c.x + 64 * i + j) (w32 (f32.fma 0 false
    ((u.buf 1 c.ab).num i (4 * k) 4) ((u.buf 2 c.bb).num j (4 * k) 4) (u.accOf c c.x i j).toNat)) := by
  rw [u.mmaAt_word c m i j k (by simp [h]), h]
  rfl

theorem UnitSt.mmaAt_f64 (h : c.fmt = .f64) : u.mmaAt c m i j k =
    let r := w64 (f64.fma 0 false ((u.buf 1 c.ab).num i (8 * k) 8) ((u.buf 2 c.bb).num j (8 * k) 8)
      (pairOf (u.accOf c c.x i j) (u.accOf c (c.x + 1) i j)).toNat)
    Sparse.set 0 (Sparse.set 0 m (4096 * c.x + 64 * i + j) (loWord r)) (4096 * (c.x + 1) + 64 * i + j) (hiWord r) := if_pos h

theorem UnitSt.mmaAt_bf16 (h : c.fmt = .bf16) : u.mmaAt c m i j k = Sparse.set 0 m (4096 * c.x + 64 * i + j) (w32 (f32.fma 0 false
    (f32.ofVal 0 false (bf16.val ((u.buf 1 c.ab).num i (2 * k) 2))) (f32.ofVal 0 false (bf16.val ((u.buf 2 c.bb).num j (2 * k) 2)))
    (u.accOf c c.x i j).toNat)) := by
  rw [u.mmaAt_word c m i j k (by simp [h]), h]
  rfl

theorem UnitSt.mmaAt_f16 (h : c.fmt = .f16) : u.mmaAt c m i j k = Sparse.set 0 m (4096 * c.x + 64 * i + j) (w32 (f32.fma 0 false
    (f32.ofVal 0 false (f16.val ((u.buf 1 c.ab).num i (2 * k) 2))) (f32.ofVal 0 false (f16.val ((u.buf 2 c.bb).num j (2 * k) 2)))
    (u.accOf c c.x i j).toNat)) := by
  rw [u.mmaAt_word c m i j k (by simp [h]), h]
  rfl

end

/-! ### LNS6 (13 R290, R303; 06 R159) -/

theorem leNat_lt (bs : List Byte) : leNat bs < 256 ^ bs.length := by
  induction bs with
  | nil => simp [leNat]
  | cons b r ih =>
    have := b.isLt
    rw [leNat, List.length_cons, Nat.pow_succ]
    omega

theorem TileBuf.num_lt (b : TileBuf) (r off n : Nat) : b.num r off n < 256 ^ n := by
  have := leNat_lt (Memory.readBytes b.cells (512 * r + off) n)
  rwa [Memory.length_readBytes] at this

/-- Code k of a record, as the word of 13 R290 that holds it gives it. -/
def TileBuf.lnsCode (b : TileBuf) (r k : Nat) : Nat :=
  b.num r (32 * (k / 32) + 4 + 4 * (k % 32 / 5)) 4 / 2 ^ (6 * (k % 32 % 5)) % 64

/-- The scale of the block of element k of a record, 127 without scales. -/
def TileBuf.lnsScale (b : TileBuf) (sm : Bool) (r k : Nat) : Nat := if sm then b.num r (32 * (k / 32)) 4 % 256 else 127

theorem TileBuf.lnsAt_eq (b : TileBuf) (sm : Bool) (r k : Nat) : b.lnsAt sm r k = (b.lnsCode r k, b.lnsScale sm r k) := by
  have hword : b.num r (32 * (k / 32) + 4 + 4 * (k % 32 / 5)) 4 < 2 ^ 32 := b.num_lt _ _ 4
  rw [TileBuf.lnsAt, lcode, BitVec.toNat_ofNat, Nat.mod_eq_of_lt hword]
  rfl

theorem TileBuf.lnsCode_lt (b : TileBuf) (r k : Nat) : b.lnsCode r k < 64 := Nat.mod_lt _ (by decide)

theorem lsign_eq_decide {c : Nat} (h : c < 64) : lsign c = decide (32 ≤ c) := by
  rw [lsign, beq_eq_decide]
  exact decide_eq_decide.mpr (by omega)

theorem f32_addVal_nan (rnd : Nat) (sat : Bool) (x : FVal) : f32.addVal rnd sat x .nan = 0x7FC00000 := by cases x <;> rfl

theorem lprod_eq {ca cb : Nat} (hca : ca < 64) (hcb : cb < 64) (ea eb : Nat) : lprod ca cb ea eb =
    if ca = 0x20 ∨ cb = 0x20 then some .nan
    else if ca % 32 = 0 ∨ cb % 32 = 0 then none
    else some (linVal (decide (32 ≤ ca) != decide (32 ≤ cb)) (ca % 32 + cb % 32)
      (((ca % 32 + cb % 32) / 4 : Nat) - 8 + (ea : Int) + eb - 254)) := by
  simp only [lprod, lsign_eq_decide hca, lsign_eq_decide hcb, Bool.or_eq_true, decide_eq_true_eq]
  rfl

/-- One product of two codes added to an accumulator. -/
theorem lstep_lprod {ca cb : Nat} (hca : ca < 64) (hcb : cb < 64) (acc ea eb : Nat) : lstep 0 false acc (lprod ca cb ea eb) =
    if ca = 0x20 ∨ cb = 0x20 then 0x7FC00000
    else if ca % 32 = 0 ∨ cb % 32 = 0 then acc
    else f32.addVal 0 false (f32.val acc) (linVal (decide (32 ≤ ca) != decide (32 ≤ cb)) (ca % 32 + cb % 32)
      (((ca % 32 + cb % 32) / 4 : Nat) - 8 + (ea : Int) + eb - 254)) := by
  rw [lprod_eq hca hcb]
  split
  · exact f32_addVal_nan _ _ _
  · split
    · rfl
    · rfl

theorem tileStep_lns6 (sm : Bool) (acc : Nat) (a b : TileBuf) (i j k : Nat) : tileStep .lns6 sm acc a b i j k =
    if a.lnsScale sm i k = 255 ∨ b.lnsScale sm j k = 255 then 0x7FC00000
    else lstep 0 false acc (lprod (a.lnsCode i k) (b.lnsCode j k) (a.lnsScale sm i k) (b.lnsScale sm j k)) := by
  simp only [tileStep, TileBuf.lnsAt_eq, Bool.or_eq_true, decide_eq_true_eq]
  rfl

/-- The K-step of an LNS6 element: a NaN code or scale gives the NaN, a zero code leaves the accumulator. -/
theorem UnitSt.mmaAt_lns6 (u : UnitSt) (c : Cmd) (m : Sparse Word) (i j k : Nat) (h : c.fmt = .lns6) :
    u.mmaAt c m i j k = Sparse.set 0 m (4096 * c.x + 64 * i + j) (w32 (
      let ca := (u.buf 1 c.ab).lnsCode i k
      let cb := (u.buf 2 c.bb).lnsCode j k
      let ea := (u.buf 1 c.ab).lnsScale (cfgSm c.cfg) i k
      let eb := (u.buf 2 c.bb).lnsScale (cfgSm c.cfg) j k
      let l := ca % 32 + cb % 32
      let acc := (u.accOf c c.x i j).toNat
      if ea = 255 ∨ eb = 255 ∨ ca = 0x20 ∨ cb = 0x20 then 0x7FC00000
      else if ca % 32 = 0 ∨ cb % 32 = 0 then acc
      else f32.addVal 0 false (f32.val acc) (linVal (decide (32 ≤ ca) != decide (32 ≤ cb)) l ((l / 4 : Nat) - 8 + (ea : Int) + eb - 254)))) := by
  rw [u.mmaAt_word c m i j k (by simp [h]), h, tileStep_lns6, lstep_lprod (TileBuf.lnsCode_lt _ _ _) (TileBuf.lnsCode_lt _ _ _), ← ite_or]
  simp only [or_assoc]

/-- Each step of a running command, and the product of each format. -/
theorem tileCommandsProgress : Claims.TileCommandsProgress := by
  refine ⟨fun s c hfound hrunning hanswered => ?commands, fun u c t i j => ⟨u.accOf_first c i j, u.accOf_later c i j⟩, UnitSt.mmaAt_f32,
    UnitSt.mmaAt_f64, UnitSt.mmaAt_bf16, UnitSt.mmaAt_f16, UnitSt.mmaAt_lns6⟩
  have h : s.Runs c := ⟨hfound, hrunning, hanswered⟩
  refine ⟨fun s1 row addr x hfn hheld hnext haddr hcanon haligned hend hcls hgood => ?_, fun u hfn hnext hunit hstopped => ?_,
    fun u hfn hnext hunit hstopped => ?_, fun s1 u row addr x hfn hnext hheld hunit haddr hcanon haligned hend =>
      ⟨fun hfn' => ?_, fun hfn' hmerge hgood => ?_⟩⟩
  · rw [h.exec_tileBlockArrival_of_load hfn hheld hnext, State.loadBlock_of_l2 haddr hcanon haligned hend hcls hgood]
    rfl
  · rw [h.exec_tileBlockArrival_of_multiply hfn hunit hstopped, if_neg (Nat.not_le.mpr hnext), State.kStep_of_unit hunit]
    rfl
  · rw [h.exec_tileBlockArrival_of_multiply hfn hunit hstopped, if_pos hnext]
    rfl
  · rw [h.exec_drainLineArrival hfn hnext hheld hunit, State.sendLine_of_storeOut haddr hcanon haligned hend hfn']
  · rw [h.exec_drainLineArrival hfn hnext hheld hunit, State.sendLine_of_drain haddr hcanon haligned hend hfn' hmerge hgood]

/-- Settles O40: a pipe, a retirement and a step of a running command each do one thing, which the command's function and its progress point
decide; each format has its own product. -/
theorem tilePipesRunTheirCommands : Obligations.TilePipesRunTheirCommands := ⟨tilePipesStartAndRetire, tileCommandsProgress⟩

end Sys2Proof.Machine

/-!
# Strict merges (13 R306, R307)
-/
namespace Sys2Proof.Machine

/-! ### The merge buffer (13 R307) -/

/-- A line finds no entry: the buffer of its slice is full, or an earlier line waits there for the entry that it would take. -/
def State.NoEntry (s : State) (h : HeldLine) (now : Bool) : Prop :=
  s.mergeRoom h.loc = false ∨ (now = true ∧ ∃ x ∈ s.mergeWait, sliceOf x.loc = sliceOf h.loc ∧ s.mayEnter x = true)

/-- A line came before: its chunk has been added, or a line of that chunk is held or waits. -/
def State.Came (s : State) (m : Merge) (h : HeldLine) : Prop :=
  h.k < m.q ∨ ∃ x ∈ m.held ++ s.mergeWait, x.loc = h.loc ∧ x.slot = h.slot ∧ x.launch = h.launch ∧ x.k = h.k

theorem State.came_iff {s : State} {m : Merge} {h : HeldLine} : (decide (h.k < m.q) || (m.held ++ s.mergeWait).any fun x =>
    x.loc == h.loc && x.slot == h.slot && x.launch == h.launch && x.k == h.k) = true ↔ s.Came m h := by
  simp [State.Came, and_assoc, or_and_right, exists_or]

/-- The record that a line opens where there is none. -/
def HeldLine.opens (h : HeldLine) : Merge := { loc := h.loc, slot := h.slot, launch := h.launch, n := h.n, q := 0 }

section
variable {s : State} {h : HeldLine} {now : Bool}

theorem State.entryFree_iff : (s.mergeRoom h.loc && !(now && s.mergeWait.any (fun x => sliceOf x.loc == sliceOf h.loc && s.mayEnter x))) = true ↔
    ¬ s.NoEntry h now := by
  simp [State.NoEntry, imp_iff_not_or]

theorem State.holdLine_of_room (m : Merge) (hroom : ¬ s.NoEntry h now) : s.holdLine m h now = s.setMerge { m with held := m.held ++ [h] } :=
  if_pos (State.entryFree_iff.mpr hroom)

theorem State.holdLine_of_full (m : Merge) (hfull : s.NoEntry h now) :
    s.holdLine m h now = { s.setMerge m with mergeWait := s.mergeWait ++ [h] } :=
  if_neg fun hfree => State.entryFree_iff.mp hfree hfull

end

/-! ### A line at its home (13 R306) -/

section
variable {s : State} {h : HeldLine} (hdet : h.det = false) (hgood : s.homeBad h.loc 128 = false)
include hdet hgood

section
variable (hnone : s.merge? h.loc = none) (now : Bool)
include hnone

/-- The only chunk of a merge is added, and leaves no record. -/
theorem State.strictLine_of_only (hk : h.k = 0) (hn : h.n = 1) : s.strictLine h now =
    ({ s.addLine h.loc h.wide h.vals with
      merges := (s.addLine h.loc h.wide h.vals).merges.filter (fun m => m.loc != h.loc) }, .applied) := by
  simp [State.strictLine, hgood, hdet, hnone, hk, hn, State.closeMerge]

/-- The first chunk of several is added, with those that wait for it. -/
theorem State.strictLine_of_first (hk : h.k = 0) (hn : 1 < h.n) : s.strictLine h now =
    (((s.addLine h.loc h.wide h.vals).setMerge { h.opens with q := 1 }).cascade h.loc false h.n, .applied) := by
  simp [State.strictLine, hgood, hdet, hnone, hk, hn, HeldLine.opens]

/-- A later chunk that finds no record opens it and is held. -/
theorem State.strictLine_of_early (hk : h.k ≠ 0) : s.strictLine h now = (s.holdLine h.opens h now, .held) := by
  simp [State.strictLine, hgood, hdet, hnone, hk, HeldLine.opens]

end

section
variable {m : Merge} (hm : s.merge? h.loc = some m) (now : Bool)
include hm

/-- A line of another merge waits until the record closes. -/
theorem State.strictLine_of_other (hother : m.slot ≠ h.slot ∨ m.launch ≠ h.launch) :
    s.strictLine h now = ({ s with mergeWait := s.mergeWait ++ [h] }, .held) := by
  simp [State.strictLine, hgood, hdet, hm, hother]

section
variable (hslot : m.slot = h.slot) (hlaunch : m.launch = h.launch)
include hslot hlaunch

theorem State.strictLine_of_wrongCount (hn : m.n ≠ h.n) : s.strictLine h now = (s, .fault 7) := by
  simp [State.strictLine, hgood, hdet, hm, hslot, hlaunch, hn]

theorem State.strictLine_of_came (hn : m.n = h.n) (hcame : s.Came m h) : s.strictLine h now = (s, .fault 8) := by
  simp only [State.strictLine, hgood, hdet, hm, hslot, hlaunch, hn, State.came_iff.mpr hcame]
  simp

section
variable (hn : m.n = h.n) (hnew : ¬ s.Came m h)
include hn hnew

/-- A chunk that is new is added where it is the next, and held where it comes later. -/
theorem State.strictLine_of_new : s.strictLine h now =
    if h.k = m.q then (((s.addLine h.loc h.wide h.vals).setMerge { m with q := m.q + 1 }).cascade h.loc false (h.n + 1), .applied)
    else (s.holdLine m h now, .held) := by
  have hany := Bool.eq_false_iff.mpr (mt State.came_iff.mp hnew)
  simp only [State.strictLine, hgood, hdet, hm, hslot, hlaunch, hn, hany]
  simp

end

end

end

end

/-! ### The chunks that follow (13 R306) -/

/-- A line that is held or waits is the chunk that a record expects next. -/
def Merge.expects (m : Merge) (loc : Nat) (h : HeldLine) : Bool :=
  h.loc == loc && h.slot == m.slot && h.launch == m.launch && h.n == m.n && h.k == m.q

/-- The module in which a chunk that was held or waited has been added. -/
def State.served (s : State) (loc : Nat) (m : Merge) (h : HeldLine) : State :=
  let t := (s.addLine loc h.wide h.vals).setMerge { m with q := m.q + 1, held := m.held.filter (fun x => x != h) }
  ({ t with mergeWait := t.mergeWait.filter (fun x => x != h) } : State).lineApplied h.cmd h.line

section
variable {s : State} {loc : Nat} {m : Merge} (det : Bool) (fuel : Nat) (hm : s.merge? loc = some m)
include hm

theorem State.cascade_of_last (hlast : m.n ≤ m.q) : s.cascade loc det (fuel + 1) = s.closeMerge loc m.slot m.launch det := by
  simp [State.cascade, hm, hlast]

section
variable (hmore : m.q < m.n)
include hmore

theorem State.cascade_of_absent (habsent : (m.held ++ s.mergeWait).find? (m.expects loc) = none) : s.cascade loc det (fuel + 1) = s := by
  unfold Merge.expects at habsent
  simp only [State.cascade, hm, if_neg (Nat.not_le.mpr hmore), habsent]

theorem State.cascade_of_found {h : HeldLine} (hfound : (m.held ++ s.mergeWait).find? (m.expects loc) = some h) :
    s.cascade loc det (fuel + 1) = (s.served loc m h).cascade loc det fuel := by
  unfold Merge.expects at hfound
  simp only [State.cascade, hm, if_neg (Nat.not_le.mpr hmore), hfound]
  rfl

end

end

/-! ### A line that waits at its slice (13 R307) -/

/-- The one line that waits at a slice is served once it may enter. -/
theorem exec_mergeBufferEntryGrant {s : State} {h : HeldLine} (hwait : s.mergeWait = [h]) (henter : s.mayEnter h = true) :
    exec (.mergeBufferEntryGrant (sliceOf h.loc)) s =
      .next ((({ s with mergeWait := [] } : State).strictLine h false).1.strictEnd h h.va
        (({ s with mergeWait := [] } : State).strictLine h false).2) := by
  have hexec : exec (.mergeBufferEntryGrant (sliceOf h.loc)) s = execMergeBufferEntryGrant (sliceOf h.loc) s := rfl
  have hfind : s.mergeWait.find? (fun x => sliceOf x.loc == sliceOf h.loc && s.mayEnter x) = some h := by simp [hwait, henter]
  have hrest : s.mergeWait.filter (fun x => x != h) = [] := by simp [hwait]
  rw [hexec, execMergeBufferEntryGrant]
  simp only [hfind, hrest]

/-- Settles O41: the record of a line's place, the line's count and its chunk index select one row of the table, and what stays is held where
an entry is free. -/
theorem strictMergesApplyInOrder : Obligations.StrictMergesApplyInOrder := by
  refine ⟨fun s h now hdet hgood => ?rows, fun s loc det fuel m hm => ⟨State.cascade_of_last det fuel hm, State.cascade_of_absent det fuel hm,
    fun _ hmore hfound => State.cascade_of_found det fuel hm hmore hfound⟩, fun s h => exec_mergeBufferEntryGrant⟩
  refine ⟨fun hnone => State.strictLine_of_only hdet hgood hnone now, fun hnone => State.strictLine_of_first hdet hgood hnone now,
    fun hnone hk => ⟨fun hroom => ?_, fun hfull => ?_⟩, fun m hm => ⟨State.strictLine_of_other hdet hgood hm now, fun hslot hlaunch =>
      ⟨State.strictLine_of_wrongCount hdet hgood hm now hslot hlaunch, State.strictLine_of_came hdet hgood hm now hslot hlaunch,
        fun hn hnew => ⟨fun hk => ?_, fun hk => ⟨fun hroom => ?_, fun hfull => ?_⟩⟩⟩⟩⟩
  · rw [State.strictLine_of_early hdet hgood hnone now hk, State.holdLine_of_room _ hroom]; rfl
  · rw [State.strictLine_of_early hdet hgood hnone now hk, State.holdLine_of_full _ hfull]; rfl
  · rw [State.strictLine_of_new hdet hgood hm now hslot hlaunch hn hnew, if_pos hk]
  · rw [State.strictLine_of_new hdet hgood hm now hslot hlaunch hn hnew, if_neg hk.ne', State.holdLine_of_room _ hroom]
  · rw [State.strictLine_of_new hdet hgood hm now hslot hlaunch hn hnew, if_neg hk.ne', State.holdLine_of_full _ hfull]

end Sys2Proof.Machine

/-!
# What leaves memory as it is

Nothing in these touches the listed bytes; the lemmas follow the order of the model.
-/

namespace Sys2Proof.Machine

theorem State.foldl_mem {α : Type} {f : State → α → State} (hf : ∀ s x, (f s x).mem = s.mem) (l : List α) (s : State) :
    (l.foldl f s).mem = s.mem := by
  induction l generalizing s with
  | nil => rfl
  | cons x l ih => exact (ih _).trans (hf s x)

/-! ### Threads, objects and faults -/

@[simp] theorem State.mapObj_mem (s : State) (slot : Nat) (h : Word) (f : Obj → Obj) : (s.mapObj slot h f).mem = s.mem := rfl
@[simp] theorem State.mapUp_mem (s : State) (slot : Nat) (h : Word) (f : Obj → Obj) (levels : Nat) :
    (s.mapUp slot h f levels).mem = s.mem := by
  induction levels generalizing s h with
  | zero => rfl
  | succ n ih =>
    unfold State.mapUp
    split
    · rfl
    · exact (ih _ _).trans (State.mapObj_mem _ _ _ _)
@[simp] theorem State.countCycle_mem (s : State) (still : List Nat) : (s.countCycle still).mem = s.mem := by
  unfold State.countCycle
  split
  · exact State.foldl_mem (fun s d => by split <;> rfl) _ _
  · rfl
@[simp] theorem State.send_mem (s : State) (typ slot : Nat) (payload : List Word) : (s.send typ slot payload).mem = s.mem := rfl
@[simp] theorem State.setWaiting_mem (s : State) (t : Thread) (w : Wait) : (s.setWaiting t w).mem = s.mem := rfl
@[simp] theorem State.enter_mem (s : State) (tid : Nat) (w : Wait) : (s.enter tid w).mem = s.mem := by
  unfold State.enter; (repeat' split) <;> rfl
@[simp] theorem State.enterAt_mem (s : State) (tid : Nat) (pc : Pair) (b : Block) (w : Wait) : (s.enterAt tid pc b w).mem = s.mem := by
  simp [State.enterAt]
@[simp] theorem State.freeEntries_mem (s : State) (core : Nat) : (s.freeEntries core).mem = s.mem := rfl
@[simp] theorem State.wakeAll_mem (s : State) : s.wakeAll.mem = s.mem := rfl
@[simp] theorem State.sendRecord_mem (s : State) (t : Thread) : (s.sendRecord t).mem = s.mem := rfl
@[simp] theorem State.countFault_mem (s : State) (slot : Nat) (h : Word) : (s.countFault slot h).mem = s.mem := by simp [State.countFault]
@[simp] theorem State.unstarve_mem (s : State) (t : Thread) : (s.unstarve t).mem = s.mem := rfl
@[simp] theorem State.parkFault_mem (s : State) (t : Thread) (f : FaultInfo) (late : Bool) (site : Site) (point : Pair) (b : Block) :
    (s.parkFault t f late site point b).mem = s.mem := by
  simp only [State.parkFault]; (repeat' split) <;> simp
@[simp] theorem State.takeFault_mem (s : State) (tid : Nat) (f : FaultInfo) (site : Site) : (s.takeFault tid f site).mem = s.mem := by
  simp only [State.takeFault]; (repeat' split) <;> simp
@[simp] theorem State.takeLate_mem (s : State) (tid : Nat) (f : FaultInfo) (pc : Pair) (word : Word) :
    (s.takeLate tid f pc word).mem = s.mem := by
  unfold State.takeLate; (repeat' split) <;> simp
@[simp] theorem State.takeHeld_mem (s : State) (t : Thread) (pc : Pair) (b : Block) : (s.takeHeld t pc b).mem = s.mem := by
  simp only [State.takeHeld]; (repeat' split) <;> simp
@[simp] theorem State.dropMembers_mem (s : State) (gone : Nat → Bool) : (s.dropMembers gone).mem = s.mem := rfl
@[simp] theorem State.freeNumber_mem (s : State) (slot : Nat) (h : Word) (core : Nat) : (s.freeNumber slot h core).mem = s.mem := by
  unfold State.freeNumber; split <;> rfl
@[simp] theorem State.removeUnit_mem (s : State) (uid : Nat) : (s.removeUnit uid).mem = s.mem := by unfold State.removeUnit; split <;> simp
@[simp] theorem State.discardCmds_mem (s : State) (uid : Nat) : (s.discardCmds uid).mem = s.mem := rfl

/-! ### Caches and homes -/

@[simp] theorem State.egressCheck_mem (s : State) : s.egressCheck.mem = s.mem := by
  unfold State.egressCheck
  exact State.foldl_mem (fun s p => by split <;> rfl) _ _
@[simp] theorem State.setRemote_mem (s : State) (die line : Nat) (l : RemoteLine) : (s.setRemote die line l).mem = s.mem := rfl
@[simp] theorem State.remoteFetch_mem (s : State) (die line : Nat) : (s.remoteFetch die line).mem = s.mem := by
  simp only [State.remoteFetch]; (repeat' split) <;> simp
@[simp] theorem State.invalidateRemote_mem (s : State) (die : Nat) (peers : Bool) : (s.invalidateRemote die peers).mem = s.mem := rfl
@[simp] theorem State.l2Read_mem (s : State) (die loc n : Nat) : (s.l2Read die loc n).1.mem = s.mem := by
  unfold State.l2Read; split <;> simp
@[simp] theorem State.l2ReadBy_mem (s : State) (die loc n pol : Nat) : (s.l2ReadBy die loc n pol).1.mem = s.mem := by
  unfold State.l2ReadBy; split <;> simp
@[simp] theorem State.l1Store_mem (s : State) (core loc : Nat) (bs : List Byte) : (s.l1Store core loc bs).mem = s.mem := by
  unfold State.l1Store; split <;> rfl
@[simp] theorem State.l1Fill_mem (s : State) (core loc : Nat) (bytes : List Byte) (mark : Option (Nat × Nat)) (upTo : Nat) (peer : Bool) :
    (s.l1Fill core loc bytes mark upTo peer).mem = s.mem := rfl
@[simp] theorem State.spoilRemote_mem (s : State) (die loc : Nat) (e : Half) : (s.spoilRemote die loc e).mem = s.mem := by
  unfold State.spoilRemote; split <;> rfl
@[simp] theorem State.spoilL1_mem (s : State) (core loc : Nat) (e : Half) : (s.spoilL1 core loc e).mem = s.mem := by
  unfold State.spoilL1; split <;> rfl
@[simp] theorem State.spoilL2_mem (s : State) (die loc : Nat) (e : Half) : (s.spoilL2 die loc e).mem = s.mem := by
  unfold State.spoilL2; split <;> simp
@[simp] theorem State.mapFills_mem (s : State) (pick : Op → Bool) (f : Access → Access) : (s.mapFills pick f).mem = s.mem := rfl
@[simp] theorem State.l1Flush_mem (s : State) (core : Nat) : (s.l1Flush core).mem = s.mem := rfl
@[simp] theorem State.l1Pin_mem (s : State) (core loc : Nat) : (s.l1Pin core loc).mem = s.mem := by unfold State.l1Pin; split <;> rfl
@[simp] theorem State.l1Unpin_mem (s : State) (core loc : Nat) : (s.l1Unpin core loc).mem = s.mem := by unfold State.l1Unpin; split <;> rfl
@[simp] theorem State.l1Drop_mem (s : State) (core loc : Nat) : (s.l1Drop core loc).mem = s.mem := rfl
@[simp] theorem State.cachedRead_mem (s : State) (core loc n pol : Nat) : (s.cachedRead core loc n pol).1.mem = s.mem := by
  unfold State.cachedRead; (repeat' split) <;> simp
@[simp] theorem State.offerCode_mem (s : State) (who : Nat → Bool) (before : Nat) (reach : BitVec 320 × Nat) :
    (s.offerCode who before reach).mem = s.mem := rfl
@[simp] theorem State.takeCode_mem (s : State) (core : Nat) (reach : BitVec 320 × Nat) : (s.takeCode core reach).mem = s.mem := rfl
@[simp] theorem State.codeOut_mem (s : State) (t : Thread) (n : Nat) : (s.codeOut t n).mem = s.mem := rfl
@[simp] theorem State.codeIn_mem (s : State) (slot core n : Nat) : (s.codeIn slot core n).mem = s.mem := rfl
@[simp] theorem State.lpWrite_mem (s : State) (t : Thread) (off : Nat) (bs : List Byte) : (s.lpWrite t off bs).mem = s.mem := rfl

/-! ### Translation -/

@[simp] theorem State.fillL1Tlb_mem (s : State) (core : Nat) (t : Trans) : (s.fillL1Tlb core t).mem = s.mem := rfl
@[simp] theorem State.fillL2Tlb_mem (s : State) (die : Nat) (t : Trans) : (s.fillL2Tlb die t).mem = s.mem := rfl
theorem State.tlbLookup_mem (s : State) (core slot va : Nat) : ∀ t, s.tlbLookup core slot va = some t → t.2.mem = s.mem := by
  intro t h; grind [State.tlbLookup, State.fillL1Tlb_mem, State.fillL2Tlb_mem]
@[simp] theorem State.requestWalk_mem (s : State) (die slot vpage : Nat) : (s.requestWalk die slot vpage).1.mem = s.mem := by
  unfold State.requestWalk; split <;> rfl
@[simp] theorem State.translate_mem (s : State) (t : Thread) (a : Pair) : (s.translate t a).1.mem = s.mem := by
  unfold State.translate
  dsimp only
  split
  · next hx => exact State.tlbLookup_mem _ _ _ _ _ hx
  · split
    · rfl
    · exact State.requestWalk_mem _ _ _ _
@[simp] theorem State.translateFor_mem (s : State) (who core slot : Nat) (a : Pair) : (s.translateFor who core slot a).1.mem = s.mem := by
  unfold State.translateFor
  split
  · next hx => exact State.tlbLookup_mem _ _ _ _ _ hx
  · dsimp only
    split
    · rfl
    · exact State.requestWalk_mem _ _ _ _
@[simp] theorem State.noteWord_mem (s : State) (who : CodeWrite) (core loc : Nat) (bs : List Byte) (word : Nat) :
    (s.noteWord who core loc bs word).mem = s.mem := by
  simp only [State.noteWord]; (repeat' split) <;> simp
@[simp] theorem State.noteWrite_mem (s : State) (who : CodeWrite) (core loc : Nat) (bs : List Byte) :
    (s.noteWrite who core loc bs).mem = s.mem := by
  unfold State.noteWrite
  split
  · rfl
  · exact State.foldl_mem (fun s i => State.noteWord_mem s _ _ _ _ _) _ _
@[simp] theorem State.noteCode_mem (s : State) (o : Op) (a : Access) (bs : List Byte) : (s.noteCode o a bs).mem = s.mem := by
  unfold State.noteCode; split <;> simp
@[simp] theorem State.notedFrom_mem (s before : State) (who : CodeWrite) (core loc : Nat) (bs : List Byte) :
    (s.notedFrom before who core loc bs).mem = s.mem := rfl
@[simp] theorem State.resumeAt_mem (s : State) (tid : Nat) (pc : Pair) (b : Block) : (s.resumeAt tid pc b).mem = s.mem := by
  simp [State.resumeAt]
@[simp] theorem State.unparkThread_mem (s : State) (t : Thread) (k : Nat) : (s.unparkThread t k).mem = s.mem := by simp [State.unparkThread]
@[simp] theorem State.goChecks_mem (s : State) (t : Thread) (a : Pair) : (s.goChecks t a).1.mem = s.mem := by
  grind [State.goChecks, State.translate_mem]
@[simp] theorem State.fetchWords_mem (s : State) (core slot : Nat) (a : Pair) (n : Nat) : (s.fetchWords core slot a n).1.mem = s.mem := by
  induction n generalizing s a with
  | zero => rfl
  | succ n ih =>
    unfold State.fetchWords
    split
    · rfl
    · split
      · rfl
      · next hx =>
        have hx := State.tlbLookup_mem _ _ _ _ _ hx
        grind

/-! ### Objects -/

@[simp] theorem State.addObj_mem (s : State) (slot : Nat) (o : Obj) : (s.addObj slot o).mem = s.mem := rfl
@[simp] theorem State.countMember_mem (s : State) (slot : Nat) (parent : Word) : (s.countMember slot parent).mem = s.mem := rfl
@[simp] theorem State.checkEnd_mem (s : State) (slot : Nat) (h : Word) (levels : Nat) : (s.checkEnd slot h levels).mem = s.mem := by
  induction levels generalizing s h with
  | zero => rfl
  | succ n ih =>
    unfold State.checkEnd
    (repeat' split) <;> simp [ih]
@[simp] theorem State.dropClaims_mem (s : State) (pick : Op → Bool) : (s.dropClaims pick).mem = s.mem := rfl
@[simp] theorem State.eraseClaims_mem (s : State) (slot : Nat) (h : Word) : (s.eraseClaims slot h).mem = s.mem := rfl
@[simp] theorem State.startReady_mem (s : State) (slot : Nat) : (s.startReady slot).mem = s.mem := rfl
@[simp] theorem State.completeLaunch_mem (s : State) (slot : Nat) (h : Word) : (s.completeLaunch slot h).mem = s.mem := by
  simp only [State.completeLaunch]; (repeat' split) <;> simp
@[simp] theorem State.dropLaunch_mem (s : State) (slot : Nat) (h : Word) : (s.dropLaunch slot h).mem = s.mem := by
  unfold State.dropLaunch
  split
  · rfl
  · simp only [State.mapObj_mem, State.eraseClaims_mem, State.mapSlot_mem]
    exact State.foldl_mem (fun s u => by simp) _ _
@[simp] theorem State.cancelObjs_mem (s : State) (slot : Nat) (hs : List Word) : (s.cancelObjs slot hs).mem = s.mem := by
  unfold State.cancelObjs
  simp only [State.startReady_mem]
  refine (State.foldl_mem (fun s p => State.checkEnd_mem s _ _ _) _ _).trans ?_
  refine (State.foldl_mem (fun s p => State.countMember_mem s _ _) _ _).trans ?_
  exact State.foldl_mem (fun s h => State.dropLaunch_mem s _ _) _ _
@[simp] theorem State.cancel_mem (s : State) (slot : Nat) (h : Word) : (s.cancel slot h).mem = s.mem := by
  unfold State.cancel; (repeat' split) <;> simp
@[simp] theorem State.countUnit_mem (s : State) (slot : Nat) (h : Word) : (s.countUnit slot h).mem = s.mem := by
  simp only [State.countUnit]; (repeat' split) <;> simp
@[simp] theorem State.quit_mem (s : State) (slot : Nat) : (s.quit slot).mem = s.mem := rfl
@[simp] theorem State.sendError_mem (s : State) (slot : Nat) (record : List Word) : (s.sendError slot record).mem = s.mem := by
  unfold State.sendError
  exact State.foldl_mem (fun s pa => State.send_mem s _ _ _) _ _
@[simp] theorem State.endContext_mem (s : State) (slot : Nat) (record : List Word) : (s.endContext slot record).mem = s.mem := by
  unfold State.endContext; split <;> simp
@[simp] theorem State.dropContext_mem (s : State) (slot : Nat) : (s.dropContext slot).mem = s.mem := by simp [State.dropContext]
@[simp] theorem State.remoteError_mem (s : State) (slot core tslot : Nat) (launch : Word) (addr : Pair) (cause : Word) :
    (s.remoteError slot core tslot launch addr cause).mem = s.mem := by
  simp [State.remoteError]
@[simp] theorem State.dataError_mem (s : State) (o : Op) (pa : Nat) : (s.dataError o pa).mem = s.mem := by simp [State.dataError]
@[simp] theorem State.opFault_mem (s : State) (o : Op) (f : FaultInfo) : (s.opFault o f).mem = s.mem := by
  unfold State.opFault; (repeat' split) <;> simp

/-! ### The fabric -/

@[simp] theorem State.mapLink_mem (s : State) (n : Nat) (f : Link → Link) : (s.mapLink n f).mem = s.mem := rfl
@[simp] theorem State.sendSide_mem (s : State) (n : Nat) (flit : Option Nat) : (s.sendSide n flit).mem = s.mem := rfl
@[simp] theorem State.sendFlit_mem (s : State) (n seq : Nat) : (s.sendFlit n seq).mem = s.mem := rfl
@[simp] theorem State.sendFrom_mem (s : State) (n k : Nat) : (s.sendFrom n k).mem = s.mem := by
  unfold State.sendFrom
  split
  · exact State.foldl_mem (fun s f => State.sendFlit_mem s _ _) _ _
  · rfl
@[simp] theorem State.controlBeats_mem (s : State) : s.controlBeats.mem = s.mem := by
  unfold State.controlBeats
  exact State.foldl_mem (fun s x => by (repeat' split) <;> simp) _ _
@[simp] theorem State.queueFlits_mem (s : State) (n : Nat) (ws : List (BitVec 512)) : (s.queueFlits n ws).mem = s.mem := by
  simp [State.queueFlits]
@[simp] theorem State.crossLink_mem (s : State) (n vc : Nat) (p : Packet) : (s.crossLink n vc p).mem = s.mem := by simp [State.crossLink]
theorem State.moveOn_mem (s : State) (p : Packet) (escape : Bool) : ∀ t, s.moveOn p escape = some t → t.mem = s.mem := by
  intro t h; grind [State.moveOn, State.crossLink_mem, State.stir_mem]
@[simp] theorem State.freeBuffer_mem (s : State) (source : Option (Nat × Nat)) (n : Nat) : (s.freeBuffer source n).mem = s.mem := by
  unfold State.freeBuffer; split <;> rfl
@[simp] theorem State.sendMark_mem (s : State) (link pool typ : Nat) : (s.sendMark link pool typ).mem = s.mem := by simp [State.sendMark]
@[simp] theorem State.drainLink_mem (s : State) (n : Nat) : (s.drainLink n).mem = s.mem := by unfold State.drainLink; split <;> rfl
@[simp] theorem State.echoDue_mem (s : State) : s.echoDue.mem = s.mem := by
  unfold State.echoDue
  refine State.foldl_mem (fun s x => (State.drainLink_mem _ _).trans (State.foldl_mem (fun s pool => ?_) _ _)) _ _
  split
  · rfl
  · exact (State.sendMark_mem _ _ _ _).trans (State.mapLink_mem _ _ _)
@[simp] theorem State.pumpTransit_mem (s : State) : s.pumpTransit.mem = s.mem := by
  unfold State.pumpTransit
  refine (State.echoDue_mem _).trans ((State.foldl_mem (fun s w => ?_) _ _).trans rfl)
  split
  · next hs => exact (State.freeBuffer_mem _ _ _).trans (State.moveOn_mem _ _ _ _ hs)
  · rfl
@[simp] theorem State.passOn_mem (s : State) (p : Packet) (source : Option (Nat × Nat)) : (s.passOn p source).mem = s.mem := by
  simp [State.passOn]
@[simp] theorem State.inject_mem (s : State) (p : Packet) : (s.inject p).mem = s.mem := by simp [State.inject]
@[simp] theorem State.countWaits_mem (s : State) : s.countWaits.mem = s.mem := rfl
@[simp] theorem State.sendReq_mem (s : State) (r : Req) : (s.sendReq r).mem = s.mem := by simp [State.sendReq]
@[simp] theorem State.pumpReqs_mem (s : State) : s.pumpReqs.mem = s.mem := by
  unfold State.pumpReqs
  exact State.foldl_mem (fun s r => by split <;> simp) _ _
@[simp] theorem State.request_mem (s : State) (o : Op) (dev addr typ op len : Nat) (data : List Byte) (pos : Nat) :
    (s.request o dev addr typ op len data pos).mem = s.mem := by
  simp [State.request]
@[simp] theorem State.respond_mem (s : State) (q : Packet) (typ op : Nat) (data : List Byte) : (s.respond q typ op data).mem = s.mem := by
  simp [State.respond]
@[simp] theorem State.dropCopies_mem (s : State) (die loc n : Nat) : (s.dropCopies die loc n).mem = s.mem := by
  unfold State.dropCopies
  exact State.foldl_mem (fun s l => State.setRemote_mem s _ _ _) _ _
@[simp] theorem State.peerStored_mem (s : State) (core loc : Nat) (bs : List Byte) : (s.peerStored core loc bs).mem = s.mem := by
  unfold State.peerStored
  exact (State.foldl_mem (fun s i => State.l1Store_mem s _ _ _) _ _).trans (State.dropCopies_mem _ _ _ _)
@[simp] theorem State.spoilFills_mem (s : State) (r : Req) : (s.spoilFills r).mem = s.mem := by unfold State.spoilFills; split <;> rfl

/-! ### The weaver -/

@[simp] theorem noCheck_mem (s : State) (x1 : Ctx) (x2 : Thread) : (noCheck s x1 x2).1.mem = s.mem := rfl
@[simp] theorem State.exitThread_mem (s : State) (tid : Nat) : (s.exitThread tid).mem = s.mem := rfl
@[simp] theorem State.remoteFault_mem (s : State) (tid : Nat) (f : FaultInfo) : (s.remoteFault tid f).mem = s.mem := by
  unfold State.remoteFault; split <;> simp
@[simp] theorem State.leaveOne_mem (s : State) (x : Nat × Exit) : (s.leaveOne x).mem = s.mem := by
  unfold State.leaveOne; (repeat' split) <;> simp
@[simp] theorem State.leaveAll_mem (s : State) (l : List (Nat × Exit)) : (s.leaveAll l).mem = s.mem := by
  unfold State.leaveAll
  exact State.foldl_mem State.leaveOne_mem _ _
@[simp] theorem State.fallThrough_mem (s : State) (t : Thread) (a : Pair) (b : Block) : (s.fallThrough t a b).1.mem = s.mem := by
  grind [State.fallThrough, State.goChecks_mem]
@[simp] theorem State.fallAll_mem (s : State) (c : Ctx) (ts : List Nat) : (s.fallAll c ts).1.mem = s.mem := by
  induction ts generalizing s with
  | nil => rfl
  | cons tid rest ih =>
    unfold State.fallAll
    split
    · exact ih s
    · exact (ih _).trans (State.fallThrough_mem _ _ _ _)
@[simp] theorem State.setStrand_mem (s : State) (st : Strand) : (s.setStrand st).mem = s.mem := by unfold State.setStrand; split <;> rfl
@[simp] theorem State.finishWord_mem (s : State) (c : Ctx) (afters : List (Nat × After)) (exits : List (Nat × Exit)) :
    (s.finishWord c afters exits).mem = s.mem := by
  unfold State.finishWord; split <;> simp
@[simp] theorem State.noteIssue_mem (s : State) (st : Strand) : (s.noteIssue st).mem = s.mem := rfl
@[simp] theorem State.takeThreads_mem (s : State) (ts : List Thread) : (s.takeThreads ts).mem = s.mem := rfl
@[simp] theorem State.noteFormed_mem (s : State) (core dec idx : Nat) (e : Entry) (lanes : List Nat) :
    (s.noteFormed core dec idx e lanes).mem = s.mem := rfl
@[simp] theorem State.settleEntry_mem (s : State) (core : Nat) (e : Entry) (b : Block) : (s.settleEntry core e b).mem = s.mem := rfl
@[simp] theorem State.fallFrom_mem (s : State) (core : Nat) (ts : List Thread) (e : Entry) : (s.fallFrom core ts e).mem = s.mem := by
  unfold State.fallFrom
  have h : ∀ acc : State × List (Nat × Exit), (ts.foldl (fun acc t =>
      ((acc.1.fallThrough t e.pc e.blk).1, acc.2 ++ [(t.tid, (acc.1.fallThrough t e.pc e.blk).2)])) acc).1.mem = acc.1.mem := by
    induction ts with
    | nil => exact fun _ => rfl
    | cons t ts ih => exact fun acc => (ih _).trans (State.fallThrough_mem _ _ _ _)
  dsimp only
  rw [State.leaveAll_mem]
  split
  · exact (State.settleEntry_mem _ _ _ _).trans (h _)
  · exact h _
@[simp] theorem State.blockAt_mem (s : State) (t : Thread) (e : Entry) : (s.blockAt t e).1.mem = s.mem := by
  grind [State.blockAt, State.goChecks_mem]
@[simp] theorem State.fetchStop_mem (s : State) (t : Thread) (a : Pair) (e : Entry) : (s.fetchStop t a e).1.mem = s.mem := by
  grind [State.fetchStop, State.translate_mem]
@[simp] theorem State.stopAll_mem (s : State) (ts : List Thread) (x : Exit) : (s.stopAll ts x).mem = s.mem := by simp [State.stopAll]
@[simp] theorem State.startStrand_mem (s : State) (core dec : Nat) (ts : List Thread) (e : Entry) :
    (s.startStrand core dec ts e).mem = s.mem := by
  unfold State.startStrand
  grind [State.fallFrom_mem, State.stopAll_mem, State.fetchStop_mem, State.fetchWords_mem, State.blockAt_mem, State.bump_mem]
@[simp] theorem State.formStrand_mem (s : State) (core dec : Nat) : (s.formStrand core dec).mem = s.mem := by
  simp only [State.formStrand]; (repeat' split) <;> simp
@[simp] theorem State.moveQueue_mem (s : State) (core n : Nat) (q : List Nat) : (s.moveQueue core n q).mem = s.mem := by
  fun_induction State.moveQueue with
  | case1 => rfl
  | case2 => rfl
  | case3 _ _ _ _ _ ih => exact ih
  | case4 _ _ _ _ _ _ _ ih => exact ih
  | case5 => rfl
  | case6 _ _ _ _ _ _ _ _ _ ih => exact ih.trans (State.enter_mem _ _ _)
@[simp] theorem State.moveUp_mem (s : State) (core : Nat) : (s.moveUp core).mem = s.mem := by unfold State.moveUp; split <;> simp
@[simp] theorem State.spillThread_mem (s : State) (t : Thread) : (s.spillThread t).mem = s.mem := rfl
@[simp] theorem State.spill_mem (s : State) (core : Nat) : (s.spill core).mem = s.mem := by
  unfold State.spill
  (repeat' split) <;> try rfl
  simp only [State.mapCore_mem, State.freeEntries_mem]
  exact State.foldl_mem State.spillThread_mem _ _

/-! ### Operations in flight -/

@[simp] theorem State.answer_mem (s : State) (o : Op) (p : Packet) : (s.answer o p).mem = s.mem := by
  unfold State.answer; (repeat' split) <;> simp
@[simp] theorem State.markSlot_mem (s : State) (unit k i : Nat) (x : CreelSlot) : (s.markSlot unit k i x).mem = s.mem := rfl
@[simp] theorem State.settleSlot_mem (s : State) (o : Op) : (s.settleSlot o).mem = s.mem := by
  unfold State.settleSlot; (repeat' split) <;> rfl
@[simp] theorem State.forget_mem (s : State) (op : Nat) : (s.forget op).mem = s.mem := rfl
@[simp] theorem State.dropLocks_mem (s : State) (op : Nat) : (s.dropLocks op).mem = s.mem := rfl

/-! ### Accesses -/

@[simp] theorem State.globalAccess_mem (s : State) (t : Thread) (ea : Pair) (z pol : Nat) (own : Option FaultInfo) (n : Need) :
    (s.globalAccess t ea z pol own n).1.mem = s.mem := by
  unfold State.globalAccess
  have h := State.translate_mem s t ea
  (repeat' split) <;> simp_all
@[simp] theorem State.xmAccess_mem (s : State) (c : Ctx) (t : Thread) (ctr : Ctr) (sp : BitVec 3) (a : Reg) (z : Nat) (o : BitVec 6)
    (n : Need) :
    (s.xmAccess c t ctr sp a z o n).1.mem = s.mem := by
  unfold State.xmAccess; (repeat' split) <;> simp

/-! ### Integer words -/

@[simp] theorem movsAct_mem (d : Reg) (n : Nat) (s : State) (x1 : Ctx) (t : Thread) (x2 : Unit) :
    (movsAct d n s x1 t x2).1.mem = s.mem := rfl

/-! ### Atomics -/

@[simp] theorem State.claimCheck_mem (s : State) (line slot : Nat) (launch : Word) (u g : Nat) (ordered : Bool) :
    (s.claimCheck line slot launch u g ordered).1.mem = s.mem := by
  unfold State.claimCheck; (repeat' split) <;> rfl
@[simp] theorem State.fetchL1_mem (s : State) (core loc pol : Nat) : (s.fetchL1 core loc pol).mem = s.mem := by
  simp only [State.fetchL1]; (repeat' split) <;> simp
@[simp] theorem State.atomL1_mem (s : State) (core loc pol : Nat) (f : AtomFn) (x e : Pair) :
    (s.atomL1 core loc pol f x e).1.mem = s.mem := by
  simp only [State.atomL1]; (repeat' split) <;> simp

/-! ### Append-seal pages -/

@[simp] theorem State.setPage_mem (s : State) (p : Nat) (r : PageRec) : (s.setPage p r).mem = s.mem := rfl
@[simp] theorem State.erasePage_mem (s : State) (p : Nat) : (s.erasePage p).mem = s.mem := rfl
@[simp] theorem State.pageClaim_mem (s : State) (page : Nat) (r : PageRec) (o : Op) : (s.pageClaim page r o).1.mem = s.mem := by
  unfold State.pageClaim; (repeat' split) <;> rfl
@[simp] theorem State.askTail_mem (s : State) (o : Op) (a : Access) (dev fn : Nat) (ws : List Word) :
    (s.askTail o a dev fn ws).mem = s.mem := by
  simp [State.askTail]
@[simp] theorem State.askRead_mem (s : State) (o : Op) (a : Access) (dev n pos : Nat) : (s.askRead o a dev n pos).mem = s.mem := by
  simp [State.askRead]
@[simp] theorem State.dropReplica_mem (s : State) (die page : Nat) : (s.dropReplica die page).mem = s.mem := by simp [State.dropReplica]
@[simp] theorem State.dropReplicas_mem (s : State) (die : Nat) : (s.dropReplicas die).mem = s.mem := by
  unfold State.dropReplicas
  exact State.foldl_mem (fun s r => State.dropReplica_mem s _ _) _ _
@[simp] theorem State.replicaRoom_mem (s : State) (die size n : Nat) : (s.replicaRoom die size n).1.mem = s.mem := by
  fun_induction State.replicaRoom with
  | case1 => rfl
  | case2 s n r rest hfree hreps ih => exact ih.trans (State.dropReplica_mem _ _ _)
  | case3 => rfl
@[simp] theorem State.setReplica_mem (s : State) (die : Nat) (r : Replica) : (s.setReplica die r).mem = s.mem := rfl
@[simp] theorem State.newReplica_mem (s : State) (die page size tail : Nat) : (s.newReplica die page size tail).mem = s.mem := by
  grind [State.newReplica, State.replicaRoom_mem, State.mapPage_mem, State.setReplica_mem]
theorem State.replicaRead_mem (s : State) (die : Nat) (a : Access) (z : Nat) : ∀ t, s.replicaRead die a z = some t → t.1.mem = s.mem := by
  intro t h; grind [State.replicaRead, State.setReplica_mem]
@[simp] theorem State.fillSealed_mem (s : State) (o : Op) (a : Access) (line : List Byte) (tail : Nat) :
    (s.fillSealed o a line tail).mem = s.mem := by
  unfold State.fillSealed; split <;> rfl
theorem State.sealedCopy_mem (s : State) (o : Op) (a : Access) : ∀ t, s.sealedCopy o a = some t → t.1.mem = s.mem := by
  intro t h
  unfold State.sealedCopy at h
  split at h
  · cases h; rfl
  · obtain ⟨r, hr, rfl⟩ := Option.map_eq_some_iff.mp h
    exact (State.fillSealed_mem _ _ _ _ _).trans (State.replicaRead_mem _ _ _ _ r hr)
@[simp] theorem State.beginFree_mem (s : State) (op page : Nat) (remove : Bool) : (s.beginFree op page remove).mem = s.mem := by
  simp [State.beginFree]
@[simp] theorem State.askReclaim_mem (s : State) (dev op page txn : Nat) : (s.askReclaim dev op page txn).mem = s.mem := by
  simp [State.askReclaim]
@[simp] theorem State.shootPage_mem (s : State) (cid page : Nat) : (s.shootPage cid page).mem = s.mem := rfl
@[simp] theorem State.staleReads_mem (s : State) (dev page : Nat) : (s.staleReads dev page).mem = s.mem := rfl
@[simp] theorem State.removeFor_mem (s : State) (p : Packet) : (s.removeFor p).mem = s.mem := by
  simp only [State.removeFor]; (repeat' split) <;> simp
@[simp] theorem State.asealAccess_mem (s : State) (t : Thread) (a : Reg) (write det gath : Bool) :
    (s.asealAccess t a write det gath).1.mem = s.mem := by
  grind [State.asealAccess, State.translate_mem]

/-! ### Barriers -/

@[simp] theorem State.setBarrier_mem (s : State) (uid i : Nat) (b : Barrier) : (s.setBarrier uid i b).mem = s.mem := rfl
@[simp] theorem State.awaitBarrier_mem (s : State) (t : Thread) (i inst : Nat) : (s.awaitBarrier t i inst).1.mem = s.mem := rfl
@[simp] theorem quietFirst_mem (s : State) (x1 : Ctx) (t : Thread) : (quietFirst s x1 t).1.mem = s.mem := by
  unfold quietFirst; split <;> rfl

/-! ### Fields -/

@[simp] theorem State.sendUpdates_mem (s : State) (o : Op) (cell fid : Nat) (us : List (Nat × Int × Int × Int × Int)) :
    (s.sendUpdates o cell fid us).mem = s.mem := by
  unfold State.sendUpdates
  exact State.foldl_mem (fun s u => by dsimp only; split <;> rfl) _ _
@[simp] theorem State.releaseCell_mem (s : State) (op cell : Nat) : (s.releaseCell op cell).mem = s.mem := by
  unfold State.releaseCell; split <;> rfl
@[simp] theorem State.oweUpdate_mem (s : State) (o : Op) (issuer cell fid : Nat) (dI dE dA dR : Int) :
    (s.oweUpdate o issuer cell fid dI dE dA dR).mem = s.mem := by
  unfold State.oweUpdate; split <;> simp
@[simp] theorem State.askLock_mem (s : State) (l : Lock) : (s.askLock l).1.mem = s.mem := by unfold State.askLock; split <;> rfl
@[simp] theorem State.setStep_mem (s : State) (op : Nat) (x : XferStep) : (s.setStep op x).mem = s.mem := rfl
@[simp] theorem State.xferFails_mem (s : State) (o : Op) (code fid ia ib : Nat) : (s.xferFails o code fid ia ib).mem = s.mem := rfl
@[simp] theorem State.unlockOne_mem (s : State) (op cell : Nat) : (s.unlockOne op cell).mem = s.mem := rfl
@[simp] theorem State.cellAccess_mem (s : State) (t : Thread) (f : FieldSt) (i : Nat) (write : Bool) :
    (s.cellAccess t f i write).1.mem = s.mem := by
  grind [State.cellAccess, State.translate_mem]
@[simp] theorem xferChecks_mem (d a b : Reg) (s : State) (x1 : Ctx) (t : Thread) : (xferChecks d a b s x1 t).1.mem = s.mem := by
  unfold xferChecks
  extract_lets
  (repeat' split) <;> grind [State.cellAccess_mem]
@[simp] theorem State.queueRead_mem (s : State) (op loc : Nat) : (s.queueRead op loc).mem = s.mem := by
  unfold State.queueRead; split <;> rfl
@[simp] theorem State.leaveRead_mem (s : State) (op : Nat) : (s.leaveRead op).mem = s.mem := rfl
@[simp] theorem State.checkOn_mem (s : State) (o : Op) (fid i : Nat) : (s.checkOn o fid i).mem = s.mem := rfl
@[simp] theorem State.cellPages_mem (s : State) (t : Thread) (f : FieldSt) (i n : Nat) (ps : List Trans) :
    (s.cellPages t f i n ps).1.mem = s.mem := by
  induction n generalizing s i ps with
  | zero => rfl
  | succ n ih =>
    unfold State.cellPages
    grind [State.translate_mem, State.mapThread_mem]
@[simp] theorem State.askDescriptor_mem (s : State) (c : Ctx) (t : Thread) (acc : Access) : (s.askDescriptor c t acc).1.mem = s.mem := by
  unfold State.askDescriptor; split <;> simp
@[simp] theorem State.startSets_mem (s : State) (o : Op) (fid : Nat) (f : FieldSt) : (s.startSets o fid f).mem = s.mem := rfl

/-! ### Creels -/

@[simp] theorem State.setCreel_mem (s : State) (uid k : Nat) (c : Creel) : (s.setCreel uid k c).mem = s.mem := rfl
@[simp] theorem creelReady_mem (k : BitVec 7) (s : State) (x1 : Ctx) (t : Thread) : (creelReady k s x1 t).1.mem = s.mem := by
  unfold creelReady; split <;> rfl
@[simp] theorem State.orphanCopies_mem (s : State) (uid k : Nat) : (s.orphanCopies uid k).mem = s.mem := rfl
theorem State.initCreel_mem (s : State) (u : UnitSt) (k : Nat) (cfg : Word) : ∀ t, s.initCreel u k cfg = some t → t.mem = s.mem := by
  intro t h; grind [State.initCreel, State.setCreel_mem, State.orphanCopies_mem]
@[simp] theorem takeGroup_mem (k : BitVec 7) (s : State) (x1 : Ctx) (ts : List Thread) : (takeGroup k s x1 ts).1.mem = s.mem := by
  unfold takeGroup; (repeat' split) <;> rfl
@[simp] theorem claimGroup_mem (copy : Bool) (k : BitVec 7) (s : State) (x1 : Ctx) (ts : List Thread) :
    (claimGroup copy k s x1 ts).1.mem = s.mem := by
  simp only [claimGroup]; (repeat' split) <;> simp
@[simp] theorem State.takeClaim_mem (s : State) (t : Thread) (k : Nat) (copy : Bool) : (s.takeClaim t k copy).1.mem = s.mem := by
  simp only [State.takeClaim]; (repeat' split) <;> simp
@[simp] theorem State.watch_mem (s : State) : s.watch.mem = s.mem := rfl

/-! ### Launches -/

@[simp] theorem State.createLaunch_mem (s : State) (slot : Nat) (own : Option Word) (o : Obj) :
    (s.createLaunch slot own o).1.mem = s.mem := by
  simp only [State.createLaunch]; (repeat' split) <;> simp
@[simp] theorem State.launch_mem (s : State) (slot : Nat) (own : Option Word) (bare : Bool) (o : Obj) :
    (s.launch slot own bare o).1.mem = s.mem := by
  unfold State.launch; split <;> simp
@[simp] theorem State.takeNumber_mem (s : State) (core slot : Nat) (o : Obj) : (s.takeNumber core slot o).mem = s.mem := by
  unfold State.takeNumber; split <;> rfl
@[simp] theorem State.ownLanes_mem (s : State) (core slot row0 n : Nat) : (s.ownLanes core slot row0 n).mem = s.mem := rfl
@[simp] theorem State.runCreels_mem (s : State) (uid : Nat) (l : List (Nat × Word)) : (s.runCreels uid l).mem = s.mem := by
  unfold State.runCreels
  refine State.foldl_mem (fun s e => ?_) _ _
  split
  · rfl
  · next u _ =>
    split
    · rfl
    · cases hc : s.initCreel u e.1 e.2 with
      | none => rfl
      | some t => exact State.initCreel_mem _ _ _ _ t hc
@[simp] theorem State.launchRuntime_mem (s : State) (slot : Nat) : (s.launchRuntime slot).mem = s.mem := by simp [State.launchRuntime]
@[simp] theorem State.endDrain_mem (s : State) (slot : Nat) (h : Word) : (s.endDrain slot h).mem = s.mem := rfl
@[simp] theorem State.eraseUnitClaims_mem (s : State) (u : UnitSt) : (s.eraseUnitClaims u).mem = s.mem := rfl
@[simp] theorem State.flushUnit_mem (s : State) (u : UnitSt) : (s.flushUnit u).mem = s.mem := by simp [State.flushUnit]
@[simp] theorem State.beginPre_mem (s : State) (u : UnitSt) (bound : Nat) : (s.beginPre u bound).mem = s.mem := by
  unfold State.beginPre; (repeat' split) <;> simp
@[simp] theorem State.askPre_mem (s : State) (slot : Nat) (h : Word) (bound : Nat) : (s.askPre slot h bound).mem = s.mem := rfl
@[simp] theorem State.reenter_mem (s : State) (t : Thread) : (s.reenter t).mem = s.mem := by unfold State.reenter; split <;> simp

/-! ### Loads and stores -/

@[simp] theorem loadChecks_mem (a : Reg) (sp : BitVec 3) (z : Nat) (o : BitVec 6) (word : Bool) (s : State) (c : Ctx) (t : Thread) :
    (loadChecks a sp z o word s c t).1.mem = s.mem := by
  grind [loadChecks, State.xmAccess_mem]
theorem State.peerCopy_mem (s : State) (o : Op) (a : Access) : ∀ t, s.peerCopy o a = some t → t.1.mem = s.mem := by
  intro t h; grind [State.peerCopy, State.l1Fill_mem]
@[simp] theorem State.askPeer_mem (s : State) (o : Op) (a : Access) (dev : Nat) : (s.askPeer o a dev).mem = s.mem := by
  unfold State.askPeer; split <;> simp
@[simp] theorem State.l1Late_mem (s : State) (o : Op) (a : Access) (bs : List Byte) : (s.l1Late o a bs).mem = s.mem := by
  unfold State.l1Late; split <;> simp
@[simp] theorem State.fenceCode_mem (s : State) (o : Op) (acq rel : Option Nat) : (s.fenceCode o acq rel).mem = s.mem := by
  unfold State.fenceCode; (repeat' split) <;> rfl
@[simp] theorem State.tidyWalks_mem (s : State) : s.tidyWalks.mem = s.mem := rfl
@[simp] theorem State.keepPointers_mem (s : State) (die : Nat) (ps : List Pointer) : (s.keepPointers die ps).mem = s.mem := by
  unfold State.keepPointers; split <;> rfl

/-! ### System registers -/

@[simp] theorem State.setWin_mem (s : State) (slot die x : Nat) : (s.setWin slot die x).mem = s.mem := by
  simp only [State.setWin]; (repeat' split) <;> simp
@[simp] theorem State.setRoot_mem (s : State) (slot x : Nat) : (s.setRoot slot x).mem = s.mem := by
  simp only [State.setRoot]; (repeat' split) <;> simp
@[simp] theorem State.putScope_mem (s : State) (slot id : Nat) (v : Bool) (m : BitVec 320) : (s.putScope slot id v m).mem = s.mem := rfl
@[simp] theorem State.setScope_mem (s : State) (slot id : Nat) (v : Bool) (m : BitVec 320) : (s.setScope slot id v m).mem = s.mem := by
  unfold State.setScope; split <;> rfl
@[simp] theorem State.setHamper_mem (s : State) (die base size : Nat) : (s.setHamper die base size).mem = s.mem := by
  unfold State.setHamper; (repeat' split) <;> simp
@[simp] theorem State.setCtag_mem (s : State) (slot x : Nat) : (s.setCtag slot x).mem = s.mem := by
  simp only [State.setCtag]; (repeat' split) <;> simp
@[simp] theorem State.setExport_mem (s : State) (slot x : Nat) : (s.setExport slot x).mem = s.mem := by
  simp only [State.setExport]; (repeat' split) <;> simp
@[simp] theorem State.setQuota_mem (s : State) (slot x : Nat) : (s.setQuota slot x).mem = s.mem := by
  simp only [State.setQuota]; (repeat' split) <;> simp
@[simp] theorem State.sysStore_mem (s : State) (n slot unit x : Nat) : (s.sysStore n slot unit x).mem = s.mem := by
  simp only [State.sysStore]; (repeat' split) <;> simp
@[simp] theorem State.sysWrite_mem (s : State) (n : Nat) (sel v : Word) : (s.sysWrite n sel v).mem = s.mem := by
  unfold State.sysWrite; split <;> simp

/-! ### Copies -/

@[simp] theorem State.copyEnd_mem (s : State) (o : Op) (p : Pair) (write : Bool) : (s.copyEnd o p write).1.mem = s.mem := by
  unfold State.copyEnd
  have h := State.translateFor_mem s o.id o.core o.slot p
  (repeat' split) <;> simp_all
@[simp] theorem State.putScratch_mem (s : State) (o : Op) (sp off : Nat) (b : Byte) : (s.putScratch o sp off b).mem = s.mem := by
  grind [State.putScratch, State.lpWrite_mem, State.scratchWrite_mem]
@[simp] theorem State.readsSeal_mem (s : State) (id : Nat) : (s.readsSeal id).mem = s.mem := rfl
@[simp] theorem State.copyMoved_mem (s : State) (id n : Nat) : (s.copyMoved id n).mem = s.mem := rfl
@[simp] theorem State.jumpCopy_mem (s : State) (o : Op) : (s.jumpCopy o).mem = s.mem := by unfold State.jumpCopy; (repeat' split) <;> rfl
@[simp] theorem State.startCopy_mem (s : State) (c : Ctx) (t : Thread) (x : CopyArgs) : (s.startCopy c t x).mem = s.mem := rfl
@[simp] theorem State.bulkPeers_mem (s : State) (t : Thread) (k : Nat) (ps : List Pair) : (s.bulkPeers t k ps).1.mem = s.mem := by
  induction ps generalizing s k with
  | nil => rfl
  | cons p ps ih =>
    unfold State.bulkPeers
    grind [State.translate_mem, State.mapThread_mem]
@[simp] theorem State.bulkChecks_mem (s : State) (t : Thread) (c : CopyArgs) (far : Pair) : (s.bulkChecks t c far).1.mem = s.mem := by
  unfold State.bulkChecks
  extract_lets near ends far'
  have h := State.bulkPeers_mem s t t.checked (far'.drop t.checked)
  (repeat' split) <;> simp_all

/-! ### The tile engine -/

@[simp] theorem State.mapCmd_mem (s : State) (uid : Nat) (f : Cmd → Cmd) : (s.mapCmd uid f).mem = s.mem := rfl
@[simp] theorem State.settleFor_mem (s : State) (tid : Nat) : (s.settleFor tid).mem = s.mem := rfl
@[simp] theorem State.settle_mem (s : State) : s.settle.mem = s.mem := by
  unfold State.settle
  exact State.foldl_mem State.settleFor_mem _ _
@[simp] theorem State.retireCmd_mem (s : State) (uid : Nat) : (s.retireCmd uid).mem = s.mem := by simp [State.retireCmd]
@[simp] theorem State.cmdFault_mem (s : State) (c : Cmd) (f : FaultInfo) (who : Nat × Nat) : (s.cmdFault c f who).mem = s.mem := by
  simp only [State.cmdFault]; (repeat' split) <;> simp
@[simp] theorem State.rowFault_mem (s : State) (c : Cmd) (row kb code : Nat) (va : Pair) (cause : Word) :
    (s.rowFault c row kb code va cause).mem = s.mem := by
  simp [State.rowFault]
@[simp] theorem State.cmdStop_mem (s : State) (c : Cmd) (f : FaultInfo) (who : Nat × Nat) : (s.cmdStop c f who).mem = s.mem := by
  unfold State.cmdStop; split <;> simp
@[simp] theorem State.sweepCmds_mem (s : State) : s.sweepCmds.mem = s.mem := by
  unfold State.sweepCmds
  refine State.foldl_mem (fun s c => ?_) _ _
  (repeat' split) <;> simp
@[simp] theorem State.decideCmd_mem (s : State) (t : Thread) (abandon : Bool) : (s.decideCmd t abandon).mem = s.mem := by
  unfold State.decideCmd; (repeat' split) <;> simp
@[simp] theorem State.restartCmds_mem (s : State) (t : Thread) : (s.restartCmds t).mem = s.mem := rfl
@[simp] theorem State.cmdError_mem (s : State) (c : Cmd) (pa : Nat) : (s.cmdError c pa).mem = s.mem := by
  unfold State.cmdError; split <;> simp
@[simp] theorem TileForm.start_mem (f : TileForm) (s : State) (c : Ctx) (t : Thread) (ts : List Thread) :
    (TileForm.start f s c t ts).mem = s.mem := by
  unfold TileForm.start
  refine (State.foldl_mem (fun s u => State.mapThread_mem s _ _) _ _).trans ?_
  simp only [State.bump_mem]
  split <;> rfl
@[simp] theorem State.putBlock_mem (s : State) (c : Cmd) (row kb : Nat) (bs : List Byte) : (s.putBlock c row kb bs).mem = s.mem := rfl
@[simp] theorem State.takeAccess_mem (s : State) (c : Cmd) (row kb : Nat) (bs : List Byte) : (s.takeAccess c row kb bs).mem = s.mem := by
  unfold State.takeAccess; split <;> rfl
@[simp] theorem State.loadsSeal_mem (s : State) (uid : Nat) : (s.loadsSeal uid).mem = s.mem := rfl
@[simp] theorem State.blockArrived_mem (s : State) (c : Cmd) (bs : List Byte) : (s.blockArrived c bs).mem = s.mem := by
  unfold State.blockArrived; split <;> simp
@[simp] theorem State.kStep_mem (s : State) (c : Cmd) : (s.kStep c).mem = s.mem := by unfold State.kStep; split <;> rfl
@[simp] theorem State.kSteps_mem (s : State) (uid n : Nat) : (s.kSteps uid n).mem = s.mem := by
  induction n generalizing s with
  | zero => rfl
  | succ n ih =>
    unfold State.kSteps
    split
    · rfl
    · exact (ih _).trans (State.kStep_mem _ _)
@[simp] theorem State.sumStep_mem (s : State) (c : Cmd) : (s.sumStep c).mem = s.mem := rfl
@[simp] theorem State.sumRest_mem (s : State) (uid : Nat) : (s.sumRest uid).mem = s.mem := by unfold State.sumRest; split <;> rfl
@[simp] theorem State.setMerge_mem (s : State) (m : Merge) : (s.setMerge m).mem = s.mem := rfl
@[simp] theorem State.closeMerge_mem (s : State) (loc slot : Nat) (launch : Word) (det : Bool) :
    (s.closeMerge loc slot launch det).mem = s.mem := rfl
@[simp] theorem State.holdLine_mem (s : State) (m : Merge) (h : HeldLine) (now : Bool) : (s.holdLine m h now).mem = s.mem := by
  unfold State.holdLine; split <;> rfl
@[simp] theorem State.setFormat_mem (s : State) (c : Cmd) : (s.setFormat c).mem = s.mem := rfl

/-! ### System words -/

@[simp] theorem State.rfeCommand_mem (s : State) (t : Thread) (k : Nat) : (s.rfeCommand t k).mem = s.mem := by
  unfold State.rfeCommand; split <;> simp
@[simp] theorem State.removeTrans_mem (s : State) (cids : List Nat) (all : Bool) (lo hi : Nat) :
    (s.removeTrans cids all lo hi).mem = s.mem := rfl
@[simp] theorem State.startInval_mem (s : State) (c : Ctx) (t : Thread) (cids : List Nat) (all : Bool) (lo hi : Nat) :
    (s.startInval c t cids all lo hi).1.mem = s.mem := rfl

/-! ### Images -/

@[simp] theorem State.imagePage_mem (s : State) (o : Op) (a : Pair) (off : Nat) (n : Need) : (s.imagePage o a off n).1.mem = s.mem := by
  grind [State.imagePage, State.translateFor_mem]
@[simp] theorem State.imagePages_mem (s : State) (o : Op) (a : Pair) (off n : Nat) : (s.imagePages o a off n).1.mem = s.mem := by
  induction n generalizing s off with
  | zero => rfl
  | succ n ih =>
    unfold State.imagePages
    grind [State.imagePage_mem]
@[simp] theorem State.goOn_mem (s : State) (uid : Nat) : (s.goOn uid).mem = s.mem := rfl
@[simp] theorem State.imageTake_mem (s : State) (o : Op) (bs : List Byte) : (s.imageTake o bs).mem = s.mem := rfl
@[simp] theorem State.takeImage_mem (s : State) (o : Op) (l : Obj) (v : Saved) (img : List Byte) (core : Word) :
    (s.takeImage o l v img core).mem = s.mem := by
  simp only [State.takeImage]; (repeat' split) <;> simp

/-! ### Control -/

@[simp] theorem goTo_mem (s : State) (t : Thread) (a : Pair) : (goTo s t a).1.mem = s.mem := by grind [goTo, State.goChecks_mem]
@[simp] theorem goAct_mem (s : State) (x1 : Ctx) (x2 : Thread) (x : Option (Pair × Block)) : (goAct s x1 x2 x).1.mem = s.mem := by
  unfold goAct; split <;> rfl
@[simp] theorem callTo_mem (s : State) (t : Thread) (a : Pair) : (callTo s t a).1.mem = s.mem := by grind [callTo, State.goChecks_mem]
@[simp] theorem callAct_mem (s : State) (c : Ctx) (t : Thread) (x : Option (Pair × Block)) : (callAct s c t x).1.mem = s.mem := by
  unfold callAct; split <;> rfl
@[simp] theorem retAct_mem (s : State) (x1 : Ctx) (t : Thread) (x : Option (Pair × Block)) : (retAct s x1 t x).1.mem = s.mem := by
  unfold retAct; split <;> rfl

/-! ### The host channel -/

@[simp] theorem State.reply_mem (s : State) (slot : Nat) (ws : List Word) : (s.reply slot ws).mem = s.mem := rfl
@[simp] theorem State.takeAck_mem (s : State) (ack : Nat) : (s.takeAck ack).mem = s.mem := rfl
@[simp] theorem State.resend_mem (s : State) : s.resend.mem = s.mem := rfl
theorem State.create_mem (s : State) (slot : Nat) (level parent : Word) : ∀ t, s.create slot level parent = some t → t.1.mem = s.mem := by
  intro t h
  simp only [State.create, Option.ite_none_left_eq_some, Option.map_eq_some_iff] at h
  obtain ⟨-, x, -, rfl⟩ := h
  exact State.addObj_mem s slot _
@[simp] theorem State.doCreate_mem (s : State) (h : MsgHead) (level parent : Word) : (s.doCreate h level parent).mem = s.mem := by
  unfold State.doCreate
  split
  · next r hr => exact (State.reply_mem _ _ _).trans (State.create_mem _ _ _ _ r hr)
  · exact State.reply_mem _ _ _
@[simp] theorem State.doClose_mem (s : State) (h : MsgHead) (obj : Word) : (s.doClose h obj).mem = s.mem := by
  unfold State.doClose; (repeat' split) <;> simp
@[simp] theorem State.openPage_mem (s : State) (slot : Nat) (launch : Word) (a : Pair) : (s.openPage slot launch a).mem = s.mem := by
  unfold State.openPage; (repeat' split) <;> rfl
@[simp] theorem State.openPages_mem (s : State) (slot : Nat) (launch : Word) (x : Annex) : (s.openPages slot launch x).mem = s.mem := by
  unfold State.openPages
  exact State.foldl_mem (fun s r => State.foldl_mem (fun s i => State.openPage_mem s _ _ _) _ _) _ _
@[simp] theorem State.applyScopes_mem (s : State) (slot : Nat) (x : Annex) : (s.applyScopes slot x).mem = s.mem := by
  unfold State.applyScopes
  exact State.foldl_mem (fun s e => State.setScope_mem s _ _ _ _) _ _
@[simp] theorem State.launchFrom_mem (s : State) (h : MsgHead) (ws : List Word) : (s.launchFrom h ws).1.mem = s.mem := by
  simp only [State.launchFrom]; (repeat' split) <;> simp
@[simp] theorem State.doLaunch_mem (s : State) (h : MsgHead) (payload : List Word) : (s.doLaunch h payload).mem = s.mem := by
  simp only [State.doLaunch]; (repeat' split) <;> simp
@[simp] theorem State.doCancel_mem (s : State) (h : MsgHead) (obj : Word) : (s.doCancel h obj).mem = s.mem := by simp [State.doCancel]
@[simp] theorem State.doPreempt_mem (s : State) (h : MsgHead) (obj bound : Word) : (s.doPreempt h obj bound).mem = s.mem := by
  unfold State.doPreempt; (repeat' split) <;> rfl
@[simp] theorem State.doCounts_mem (s : State) (h : MsgHead) (obj : Word) : (s.doCounts h obj).mem = s.mem := rfl
@[simp] theorem State.doRegister_mem (s : State) (h : MsgHead) (write : Bool) (n : Reg) (sel value : Word) :
    (s.doRegister h write n sel value).mem = s.mem := by
  unfold State.doRegister; (repeat' split) <;> simp
@[simp] theorem State.dropContexts_mem (s : State) : s.dropContexts.mem = s.mem := State.foldl_mem State.dropContext_mem _ s
@[simp] theorem State.saveUnits_mem (s : State) : s.saveUnits.mem = s.mem := rfl
theorem State.toSec_mem (s : State) (want : Sec) : ∀ t, s.toSec want = some t → t.mem = s.mem := by
  intro t h
  unfold State.toSec at h
  grind [State.dropContexts_mem]
theorem State.toDbg_mem (s : State) (want : Dbg) : ∀ t, s.toDbg want = some t → t.mem = s.mem := by
  unfold State.toDbg
  split <;> rintro t ⟨⟩ <;> rfl
@[simp] theorem State.doFirmware_mem (s : State) (h : MsgHead) (image : List Byte) (version : Nat) (key : List Byte) (r q : BitVec 256) :
    (s.doFirmware h image version key r q).mem = s.mem := by
  unfold State.doFirmware; (repeat' split) <;> rfl
@[simp] theorem State.doAttest_mem (s : State) (h : MsgHead) (nonce : List Byte) (slot : Nat) : (s.doAttest h nonce slot).mem = s.mem := by
  unfold State.doAttest; (repeat' split) <;> rfl
theorem State.debugWrite_mem (s : State) (q : DebugQuery) : ∀ t, s.debugWrite q = some t → t.mem = s.mem := by
  intro t h
  cases q
  case writeReg | stopUnit | resumeUnit | resumeThread =>
    obtain ⟨x, -, rfl⟩ := Option.map_eq_some_iff.mp h
    simp
  all_goals exact absurd h nofun
theorem State.debug_mem (s : State) (q : DebugQuery) : ∀ t, s.debug q = some t → t.1.mem = s.mem := by
  intro t h
  unfold State.debug at h
  grind [State.debugWrite_mem, State.stir_mem, Option.map_eq_some_iff]
@[simp] theorem State.doDebug_mem (s : State) (h : MsgHead) (q : DebugQuery) : (s.doDebug h q).mem = s.mem := by
  unfold State.doDebug
  split
  · next r hr => exact (State.send_mem _ _ _ _).trans (State.debug_mem _ _ r hr)
  · exact State.reply_mem _ _ _

/-! ### Lanes -/

@[simp] theorem writeAll_mem (s : State) (ts : List Thread) (f : Thread → Thread) : (writeAll s ts f).mem = s.mem := by
  unfold writeAll
  exact State.foldl_mem (fun s t => State.setThread_mem s _) _ _

/-! ### Peer requests -/

@[simp] theorem State.addReduce_mem (s : State) (p : Packet) (slot : Nat) (gone : Bool) : (s.addReduce p slot gone).mem = s.mem := rfl
@[simp] theorem State.applyOwed_mem (s : State) (p : Packet) : (s.applyOwed p).mem = s.mem := by unfold State.applyOwed; split <;> simp
@[simp] theorem State.sendErasures_mem (s : State) : s.sendErasures.mem = s.mem := by
  unfold State.sendErasures
  refine (State.foldl_mem (fun s e => ?_) _ _).trans rfl
  dsimp only
  split
  · rfl
  · exact State.foldl_mem (fun s a => State.request_mem s _ _ _ _ _ _ _ _) _ _
@[simp] theorem State.pruneResponses_mem (s : State) (p : Packet) : (s.pruneResponses p).mem = s.mem := rfl
@[simp] theorem State.receiveReclaim_mem (s : State) (p : Packet) : (s.receiveReclaim p).mem = s.mem := by
  unfold State.receiveReclaim
  split
  · simp only [State.respond_mem, State.staleReads_mem]
    exact State.foldl_mem (fun s d => State.dropReplica_mem s _ _) _ _
  · exact State.removeFor_mem _ _
@[simp] theorem State.reclaimLost_mem (s : State) (r : Req) (cause : Word) : (s.reclaimLost r cause).mem = s.mem := by
  unfold State.reclaimLost; (repeat' split) <;> simp
@[simp] theorem State.markSealed_mem (s : State) (o : Op) (a : Access) (r : Req) (p : Packet) : (s.markSealed o a r p).mem = s.mem := by
  unfold State.markSealed; split <;> simp

/-! ### Links -/

@[simp] theorem State.takeEcho_mem (s : State) (link pool : Nat) : (s.takeEcho link pool).mem = s.mem := by
  simp only [State.takeEcho]; (repeat' split) <;> simp
@[simp] theorem State.takeWaymark_mem (s : State) (link pool : Nat) : (s.takeWaymark link pool).mem = s.mem := by simp [State.takeWaymark]
@[simp] theorem State.sendBeat_mem (s : State) (link : Nat) : (s.sendBeat link).mem = s.mem := rfl
@[simp] theorem State.endReconf_mem (s : State) : s.endReconf.mem = s.mem := by
  unfold State.endReconf
  exact State.foldl_mem (fun s n => by split <;> rfl) _ _
@[simp] theorem State.beginReconf_mem (s : State) (connect : List Nat) (n : Nat) : (s.beginReconf connect n).mem = s.mem := by
  unfold State.beginReconf
  dsimp only
  split
  · simp
  · exact (State.foldl_mem (fun s pool => State.sendMark_mem s _ _ _) _ _).trans (State.mapLink_mem _ _ _)
@[simp] theorem State.noteDarkEnd_mem (s : State) : s.noteDarkEnd.mem = s.mem := rfl

/-! ### The turn of a strand -/

@[simp] theorem State.begin_mem (s : State) (t : Turn) : (s.begin t).mem = s.mem := by unfold State.begin; split <;> simp
@[simp] theorem State.noteTurn_mem (s : State) (who : Actor) : (s.noteTurn who).mem = s.mem := by
  unfold State.noteTurn; (repeat' split) <;> rfl
end Sys2Proof.Machine

/-!
# What keeps the canonical form of memory: the events

These write or drop bytes, through the rules of Laws/Memory.lean, or run what does.
-/

namespace Sys2Proof.Machine

theorem State.foldl_wf {α : Type} {f : State → α → State} (hf : ∀ s x, Memory.wf s.mem → Memory.wf (f s x).mem) (l : List α) {s : State}
    (hs : Memory.wf s.mem) : Memory.wf (l.foldl f s).mem := by
  induction l generalizing s with
  | nil => exact hs
  | cons x l ih => exact ih (hf s x hs)

/-- The state that a write of one unit of a copy leaves. -/
def Put.state : Put → State
  | .next s => s
  | .stop s => s

/-- What an instruction or event leaves, where it leaves a state, has memory in its canonical form. -/
def Out.MemWf (o : Out) : Prop :=
  match o with
  | .next s => Memory.wf s.mem = true
  | _ => True

@[simp] theorem Out.memWf_next (s : State) : Out.MemWf (.next s) ↔ Memory.wf s.mem = true := Iff.rfl
@[simp] theorem Out.memWf_fault (f : Fault) : Out.MemWf (.fault f) := trivial
@[simp] theorem Out.memWf_refused (r : Refusal) : Out.MemWf (.refused r) := trivial

/-! ### Caches and homes -/

theorem State.writeEarly_wf {s : State} (hs : Memory.wf s.mem) (o : Op) : Memory.wf (s.writeEarly o).mem := by
  unfold State.writeEarly; split <;> simp [State.l2Write_wf, hs]
theorem State.l1Give_wf {s : State} (hs : Memory.wf s.mem) (core loc : Nat) : Memory.wf (s.l1Give core loc).mem := by
  unfold State.l1Give
  rw [State.l1Drop_mem]
  exact State.foldl_wf (fun s o hs => State.writeEarly_wf hs o) _ hs
theorem State.dropRemotes_wf {s : State} (hs : Memory.wf s.mem) (die : Nat) : Memory.wf (s.dropRemotes die).mem := by
  simp [State.dropRemotes, State.pushDie_wf, hs]
theorem State.fenceEffect_wf {s : State} (hs : Memory.wf s.mem) (core : Nat) (acq rel : Option Nat) :
    Memory.wf (s.fenceEffect core acq rel).mem := by
  unfold State.fenceEffect; (repeat' split) <;> simp [State.releasePush_wf, State.acquireDiscard_wf, hs]

/-! ### The fabric -/

theorem State.peerReduced_wf {s : State} (hs : Memory.wf s.mem) (core loc n : Nat) : Memory.wf (s.peerReduced core loc n).mem := by
  unfold State.peerReduced
  exact State.foldl_wf (fun s l hs => State.l1Give_wf hs _ _) _ (by simpa using hs)

/-! ### The weaver -/

theorem State.payOwed_wf {s : State} (hs : Memory.wf s.mem) (t : Thread) : Memory.wf (s.payOwed t).mem := by
  unfold State.payOwed; split <;> simp [State.acquireDiscard_wf, hs]
theorem State.beforeRun_wf {s : State} (hs : Memory.wf s.mem) (st : Strand) : Memory.wf (s.beforeRun st).1.mem := by
  unfold State.beforeRun
  extract_lets s' pc wait
  split
  · exact hs
  · suffices h : ∀ (l : List Nat) (acc : State × List Nat), Memory.wf acc.1.mem → Memory.wf (l.foldl _ acc).1.mem from h _ _ hs
    intro l
    induction l with
    | nil => exact fun _ h => h
    | cons tid l ih =>
      refine fun acc h => ih _ ?_
      grind [State.takeHeld_mem, State.enterAt_mem, State.payOwed_wf]

/-! ### Operations in flight -/

theorem State.retireOp_wf {s : State} (hs : Memory.wf s.mem) (o : Op) : Memory.wf (s.retireOp o).mem := by
  unfold State.retireOp; (repeat' split) <;> simp [State.dropRemotes_wf, State.acquireDiscard_wf, hs]
theorem State.retireAll_wf {s : State} (hs : Memory.wf s.mem) (rounds : Nat) : Memory.wf (s.retireAll rounds).mem := by
  fun_induction State.retireAll with
  | case1 => exact hs
  | case2 => exact hs
  | case3 s n o ho ih => exact ih (State.retireOp_wf hs o)
theorem State.arrive_wf {s : State} (hs : Memory.wf s.mem) (id : Nat) (f : Op → Op) : Memory.wf (s.arrive id f).mem := by
  simp [State.arrive, State.retireAll_wf, hs]
theorem State.opError_wf {s : State} (hs : Memory.wf s.mem) (o : Op) (pa : Nat) (va : Pair) : Memory.wf (s.opError o pa va).mem := by
  simp only [State.opError]; (repeat' split) <;> simp [State.arrive_wf, hs]
theorem State.arriveFault_wf {s : State} (hs : Memory.wf s.mem) (id code : Nat) (addr : Pair) (aux : Word) :
    Memory.wf (s.arriveFault id code addr aux).mem := by
  simp [State.arriveFault, State.arrive_wf, hs]

/-! ### Atomics -/

theorem State.atomHome_wf {s : State} (hs : Memory.wf s.mem) (loc : Nat) (f : AtomFn) (x e : Pair) :
    Memory.wf (s.atomHome loc f x e).1.mem := by
  simp [State.atomHome, Memory.wf_writeBytes, hs]
theorem State.pushMixed_wf {s : State} (hs : Memory.wf s.mem) (die line pair : Nat) (wide : Bool) :
    Memory.wf (s.pushMixed die line pair wide).mem := by
  unfold State.pushMixed
  extract_lets l mixed here view s1
  split
  · exact hs
  · exact State.homeAdds_wf _ _ hs
theorem State.atomDelta_wf {s : State} (hs : Memory.wf s.mem) (die loc : Nat) (f : AtomFn) (x : Pair) :
    Memory.wf (s.atomDelta die loc f x).1.mem := by
  simp [State.atomDelta, State.pushMixed_wf, hs]
theorem State.atomCopy_wf {s : State} (hs : Memory.wf s.mem) (die loc : Nat) (f : AtomFn) (x e : Pair) :
    Memory.wf (s.atomCopy die loc f x e).1.mem := by
  simp only [State.atomCopy]; (repeat' split) <;> simp [State.foldDeltas_wf, State.remoteStore_wf, hs]
theorem State.applyAtomic_wf {s : State} (hs : Memory.wf s.mem) (n : Nat) (o : Op) : Memory.wf (State.applyAtomic n s o).mem := by
  grind [State.applyAtomic, State.mapOp_mem, State.notedFrom_mem, State.atomL1_mem, State.bump_mem, State.l1Give_wf, State.atomHome_wf,
    State.atomDelta_wf, State.atomCopy_wf, State.claimCheck_mem, State.dropRemote_wf, State.request_mem]
theorem State.applyBatch_wf {s : State} (hs : Memory.wf s.mem) (o : Op) (bad : Bool) : Memory.wf (s.applyBatch o bad).mem := by
  unfold State.applyBatch
  split
  · exact hs
  · split
    · refine State.foldl_wf (fun s p hs => ?_) _ hs
      split
      · exact State.opError_wf hs _ _ _
      · exact hs
    · exact State.foldl_wf (fun s p hs => State.applyAtomic_wf hs _ p) _ hs
theorem execAtomicComplete_wf {s : State} (hs : Memory.wf s.mem) (op : Nat) : Out.MemWf (execAtomicComplete op s) := by
  grind [execAtomicComplete, Out.MemWf, State.l2Write_wf, State.l1Unpin_mem, State.arrive_wf]

/-! ### Append-seal pages -/

theorem State.serveAppend_wf {s : State} (hs : Memory.wf s.mem) (o : Op) : Memory.wf (s.serveAppend o).mem := by
  grind [State.serveAppend, State.arriveFault_wf, State.pageClaim_mem, State.mapOp_mem, State.mapPage_mem, State.homeWrite_mem,
    Memory.wf_writeBytes]
theorem execAppendBatchServe_wf {s : State} (hs : Memory.wf s.mem) (batch : Nat) : Out.MemWf (execAppendBatchServe batch s) := by
  unfold execAppendBatchServe
  (repeat' split) <;> try exact hs
  · exact State.foldl_wf (fun s o hs => State.serveAppend_wf hs o) _ hs
  · exact State.foldl_wf (fun s p hs => by split <;> simpa using hs) _ hs
theorem execAppendDataWrite_wf {s : State} (hs : Memory.wf s.mem) (op : Nat) : Out.MemWf (execAppendDataWrite op s) := by
  unfold execAppendDataWrite; (repeat' split) <;> simp [State.arrive_wf, Memory.wf_writeBytes, hs]
theorem State.fillReplica_wf {s : State} (hs : Memory.wf s.mem) (die page loc : Nat) (bytes : List Byte) :
    Memory.wf (s.fillReplica die page loc bytes).mem := by
  unfold State.fillReplica; split <;> simp [Memory.wf_writeBytes, hs]
theorem State.readSealed_wf {s : State} (hs : Memory.wf s.mem) (die : Nat) (a : Access) (tail : Nat) :
    Memory.wf (s.readSealed die a tail).1.mem := by
  unfold State.readSealed
  dsimp only
  split
  · exact hs
  · split
    · next s' bs x h => rw [State.replicaRead_mem _ _ _ _ _ h]; exact hs
    · exact State.fillReplica_wf (by split <;> simpa using hs) _ _ _ _
theorem State.sendSealed_wf {s : State} (hs : Memory.wf s.mem) (o : Op) (p : Packet) (a : Access) (tail : Nat) :
    Memory.wf (s.sendSealed o p a tail).mem := by
  simp only [State.sendSealed]; (repeat' split) <;> simp [State.arrive_wf, hs]
theorem State.serveTailRead_wf {s : State} (hs : Memory.wf s.mem) (o : Op) : Memory.wf (s.serveTailRead o).mem := by
  unfold State.serveTailRead
  split
  · next a signed x hk =>
    extract_lets give copy r off tail q
    have hgive : ∀ {t : State} bs, Memory.wf t.mem → Memory.wf (give t bs).mem := by
      intro t bs ht
      simp only [give]
      split
      · exact State.opError_wf hs _ _ _
      · exact State.arrive_wf ht _ _
    have hcopy : ∀ r, copy = some r → Memory.wf r.1.mem := by
      intro r hr
      simp only [copy, Option.ite_none_left_eq_some] at hr
      rw [State.sealedCopy_mem _ _ _ _ hr.2]
      exact hs
    clear_value give copy
    split
    · exact hs
    · split
      · next r => exact hgive _ (hcopy r rfl)
      · split
        · simpa using hs
        · generalize (if o.served = true then judgeHome r off a.z else judgeRead r a.pageSize off a.z o.detM) = j
          cases j with
          | wait => exact hs
          | passed => simpa using hs
          | fault aux => exact State.arriveFault_wf hs _ _ _ _
          | bytes =>
            dsimp only
            split
            · exact hgive _ hs
            · split
              · split
                · exact State.opError_wf hs _ _ _
                · exact State.sendSealed_wf hs _ _ _ _
              · exact hgive _ (by rw [State.fillSealed_mem]; exact State.readSealed_wf hs _ _ _)
  · exact hs
theorem State.serveStatus_wf {s : State} (hs : Memory.wf s.mem) (o : Op) : Memory.wf (s.serveStatus o).mem := by
  simp only [State.serveStatus]; (repeat' split) <;> simp [State.arrive_wf, State.arriveFault_wf, hs]
theorem execTailReadServe_wf {s : State} (hs : Memory.wf s.mem) (op : Nat) : Out.MemWf (execTailReadServe op s) := by
  unfold execTailReadServe; split <;> simp [State.serveStatus_wf, State.serveTailRead_wf, hs]
theorem execReplicaFill_wf {s : State} (hs : Memory.wf s.mem) (op : Nat) : Out.MemWf (execReplicaFill op s) := by
  unfold execReplicaFill; split <;> simp [State.serveTailRead_wf, hs]
theorem execReplicaPageDrop_wf {s : State} (hs : Memory.wf s.mem) (die : Nat) : Out.MemWf (execReplicaPageDrop die s) := by
  unfold execReplicaPageDrop; (repeat' split) <;> simp [hs]
theorem execSealServe_wf {s : State} (hs : Memory.wf s.mem) (op : Nat) : Out.MemWf (execSealServe op s) := by
  unfold execSealServe; (repeat' split) <;> grind [Out.MemWf, State.askTail_mem, State.arriveFault_wf, State.pageClaim_mem,
    State.mapOp_mem, State.mapPage_mem]
theorem execSealComplete_wf {s : State} (hs : Memory.wf s.mem) (op : Nat) : Out.MemWf (execSealComplete op s) := by
  unfold execSealComplete; (repeat' split) <;> simp [State.arrive_wf, hs]
theorem execFreeServe_wf {s : State} (hs : Memory.wf s.mem) (op : Nat) : Out.MemWf (execFreeServe op s) := by
  unfold execFreeServe; (repeat' split) <;> grind [Out.MemWf, State.askTail_mem, State.arriveFault_wf, State.pageClaim_mem,
    State.beginFree_mem]
theorem execAopenServe_wf {s : State} (hs : Memory.wf s.mem) (op : Nat) : Out.MemWf (execAopenServe op s) := by
  unfold execAopenServe; (repeat' split) <;> grind [Out.MemWf, State.askTail_mem, State.arriveFault_wf, State.arrive_wf, State.setPage_mem,
    State.mapOp_mem, State.beginFree_mem]
theorem State.endWaiting_wf {s : State} (hs : Memory.wf s.mem) (page : Nat) : Memory.wf (s.endWaiting page).mem := by
  unfold State.endWaiting
  refine State.foldl_wf (fun s o hs => ?_) _ hs
  split
  · exact State.arrive_wf (by split <;> simpa using hs) _ _
  · exact hs
theorem execFreeReclaim_wf {s : State} (hs : Memory.wf s.mem) (op : Nat) : Out.MemWf (execFreeReclaim op s) := by
  unfold execFreeReclaim
  split
  · exact hs
  · split
    · exact hs
    · exact State.foldl_wf (fun s x hs => by simpa using hs) _ (by simpa using hs)
theorem execReplicaReclaim_wf {s : State} (hs : Memory.wf s.mem) (page die : Nat) : Out.MemWf (execReplicaReclaim page die s) := by
  unfold execReplicaReclaim; (repeat' split) <;> simp [hs]
theorem execReclaimAck_wf {s : State} (hs : Memory.wf s.mem) (page agent : Nat) : Out.MemWf (execReclaimAck page agent s) := by
  unfold execReclaimAck; (repeat' split) <;> simp [hs]
theorem execFreeShootdown_wf {s : State} (hs : Memory.wf s.mem) (op : Nat) : Out.MemWf (execFreeShootdown op s) := by
  unfold execFreeShootdown; (repeat' split) <;> simp [hs]
theorem execFreeReopen_wf {s : State} (hs : Memory.wf s.mem) (op : Nat) : Out.MemWf (execFreeReopen op s) := by
  grind [execFreeReopen, Out.MemWf, State.pushAll_wf, State.erasePage_mem, State.setPage_mem, State.arrive_wf, State.endWaiting_wf,
    State.respond_mem, State.mapOp_mem]

/-! ### Barriers -/

theorem State.arriveAt_wf {s : State} (hs : Memory.wf s.mem) (t : Thread) (i : Nat) (n : Word) (wait : Bool) :
    Memory.wf (s.arriveAt t i n wait).1.mem := by
  simp only [State.arriveAt]; (repeat' split) <;> simp [State.acquireDiscard_wf, hs]

/-! ### Fields -/

theorem State.setTrue_wf {s : State} (hs : Memory.wf s.mem) (loc : Nat) (v : Int) : Memory.wf (s.setTrue loc v).mem := by
  simp [State.setTrue, Memory.wf_writeBytes, hs]
theorem State.changeCell_wf {s : State} (hs : Memory.wf s.mem) (o : Op) (issuer fid : Nat) (m : Word) (pa pb : Option Nat) (loc : Nat) :
    Memory.wf (s.changeCell o issuer fid m pa pb loc).mem := by
  unfold State.changeCell; (repeat' split) <;> simp [State.setTrue_wf, hs]
theorem execCounterSetUpdate_wf {s : State} (hs : Memory.wf s.mem) (upd : Nat) : Out.MemWf (execCounterSetUpdate upd s) := by
  unfold execCounterSetUpdate; (repeat' split) <;> simp [hs]
theorem execCounterSetAcknowledgement_wf {s : State} (hs : Memory.wf s.mem) (upd : Nat) :
    Out.MemWf (execCounterSetAcknowledgement upd s) := by
  unfold execCounterSetAcknowledgement; (repeat' split) <;> simp [hs]
theorem State.coordinate_wf {s : State} (hs : Memory.wf s.mem) (o : Op) (hc : Option Int) : Memory.wf (s.coordinate o hc).mem := by
  simp only [State.coordinate]; (repeat' split) <;> simp [State.changeCell_wf, hs]
theorem State.firstHeld_wf {s : State} (hs : Memory.wf s.mem) (op : Nat) : Memory.wf (s.firstHeld op).mem := by
  unfold State.firstHeld; (repeat' split) <;> simp [State.coordinate_wf, hs]
theorem State.lockHeld_wf {s : State} (hs : Memory.wf s.mem) (l : Lock) : Memory.wf (s.lockHeld l).mem := by
  unfold State.lockHeld; (repeat' split) <;> simp [State.opError_wf, State.firstHeld_wf, State.coordinate_wf, hs]
theorem execXferCoordinatorRequest_wf {s : State} (hs : Memory.wf s.mem) (op : Nat) : Out.MemWf (execXferCoordinatorRequest op s) := by
  unfold execXferCoordinatorRequest; (repeat' split) <;> grind [Out.MemWf, State.setStep_mem, State.sendUpdates_mem, State.request_mem,
    State.askLock_mem, State.lockHeld_wf]
theorem execLockEntryGrant_wf {s : State} (hs : Memory.wf s.mem) (op : Nat) : Out.MemWf (execLockEntryGrant op s) := by
  grind [execLockEntryGrant, Out.MemWf, State.lockHeld_wf]
theorem execXferSecondLock_wf {s : State} (hs : Memory.wf s.mem) (op : Nat) : Out.MemWf (execXferSecondLock op s) := by
  unfold execXferSecondLock; (repeat' split) <;> grind [Out.MemWf, State.setStep_mem, State.request_mem, State.askLock_mem,
    State.lockHeld_wf]
theorem execXferCommit_wf {s : State} (hs : Memory.wf s.mem) (op : Nat) : Out.MemWf (execXferCommit op s) := by
  unfold execXferCommit; (repeat' split) <;> simp [State.changeCell_wf, hs]
theorem execXferUnlock_wf {s : State} (hs : Memory.wf s.mem) (op : Nat) : Out.MemWf (execXferUnlock op s) := by
  unfold execXferUnlock; (repeat' split) <;> simp [hs]
theorem execXferAcknowledge_wf {s : State} (hs : Memory.wf s.mem) (op : Nat) : Out.MemWf (execXferAcknowledge op s) := by
  unfold execXferAcknowledge; (repeat' split) <;> simp [State.changeCell_wf, hs]
theorem execXferComplete_wf {s : State} (hs : Memory.wf s.mem) (op : Nat) : Out.MemWf (execXferComplete op s) := by
  unfold execXferComplete; (repeat' split) <;> simp [State.arrive_wf, hs]
theorem State.checkFound_wf {s : State} (hs : Memory.wf s.mem) (o : Op) (x y : Word) : Memory.wf (s.checkFound o x y).mem := by
  simp [State.checkFound, State.arrive_wf, hs]
theorem State.checkVisited_wf {s : State} (hs : Memory.wf s.mem) (o : Op) (fid i : Nat) (w : Word) :
    Memory.wf (s.checkVisited o fid i w).mem := by
  unfold State.checkVisited; split <;> simp [State.checkFound_wf, hs]
theorem State.checkCell_wf {s : State} (hs : Memory.wf s.mem) (o : Op) (fid i : Nat) : Memory.wf (s.checkCell o fid i).mem := by
  grind [State.checkCell, State.checkFound_wf, State.checkOn_mem, State.translateFor_mem, State.arriveFault_wf, State.leaveRead_mem,
    State.request_mem, State.queueRead_mem, State.opError_wf, State.checkVisited_wf]
theorem State.readCell_wf {s : State} (hs : Memory.wf s.mem) (o : Op) (loc : Nat) (value : Int → List Word) :
    Memory.wf (s.readCell o loc value).mem := by
  unfold State.readCell; (repeat' split) <;> simp [State.opError_wf, State.arrive_wf, hs]
theorem State.serveCell_wf {s : State} (hs : Memory.wf s.mem) (o : Op) : Memory.wf (s.serveCell o).mem := by
  unfold State.serveCell; (repeat' split) <;> simp [State.readCell_wf, State.checkCell_wf, State.arrive_wf, hs]
theorem execCellReadServed_wf {s : State} (hs : Memory.wf s.mem) (op : Nat) : Out.MemWf (execCellReadServed op s) := by
  unfold execCellReadServed; split <;> simp [State.serveCell_wf, hs]
theorem State.readTotals_wf {s : State} (hs : Memory.wf s.mem) (o : Op) (fid key k : Nat) : Memory.wf (s.readTotals o fid key k).mem := by
  simp [State.readTotals, State.arrive_wf, hs]
theorem State.serveTotals_wf {s : State} (hs : Memory.wf s.mem) (o : Op) : Memory.wf (s.serveTotals o).mem := by
  unfold State.serveTotals; (repeat' split) <;> simp [State.readTotals_wf, hs]
theorem execFtotHoldTimeout_wf {s : State} (hs : Memory.wf s.mem) (op : Nat) : Out.MemWf (execFtotHoldTimeout op s) := by
  unfold execFtotHoldTimeout; (repeat' split) <;> simp [State.readTotals_wf, hs]
theorem State.readDescriptor_wf {s : State} (hs : Memory.wf s.mem) (o : Op) (acc : Access) : Memory.wf (s.readDescriptor o acc).mem := by
  unfold State.readDescriptor; (repeat' split) <;> simp [State.opError_wf, State.arrive_wf, hs]
theorem State.installField_wf {s : State} (hs : Memory.wf s.mem) (o : Op) (fid : Nat) (f : FieldSt) :
    Memory.wf (s.installField o fid f).mem := by
  simp only [State.installField]; (repeat' split) <;> simp [State.opError_wf, State.arriveFault_wf, State.arrive_wf, hs]
theorem execFdeclHomeComplete_wf {s : State} (hs : Memory.wf s.mem) (op : Nat) : Out.MemWf (execFdeclHomeComplete op s) := by
  unfold execFdeclHomeComplete; (repeat' split) <;> simp [State.arrive_wf, State.installField_wf, hs]

/-! ### Creels -/

theorem State.acquireNow_wf {s : State} (hs : Memory.wf s.mem) (t : Thread) : Memory.wf (s.acquireNow t).1.mem := by
  unfold State.acquireNow; split <;> simp [State.acquireDiscard_wf, hs]
theorem execCreelOverflowEnter_wf {s : State} (hs : Memory.wf s.mem) (unit k : Nat) : Out.MemWf (execCreelOverflowEnter unit k s) := by
  grind [execCreelOverflowEnter, Out.MemWf, State.setCreel_mem]
theorem execStallRecord_wf {s : State} (hs : Memory.wf s.mem) (unit : Nat) : Out.MemWf (execStallRecord unit s) := by
  unfold execStallRecord; (repeat' split) <;> simp [hs]

/-! ### Launches -/

theorem State.judgeLaunch_wf {s : State} (hs : Memory.wf s.mem) (o : Op) (ws : List Word) : Memory.wf (s.judgeLaunch o ws).mem := by
  unfold State.judgeLaunch; split <;> simp [State.arrive_wf, hs]
theorem State.serveLaunch_wf {s : State} (hs : Memory.wf s.mem) (o : Op) : Memory.wf (s.serveLaunch o).mem := by
  simp only [State.serveLaunch]; (repeat' split) <;> simp [State.arriveFault_wf, State.opError_wf, State.judgeLaunch_wf, hs]
theorem State.serveCount_wf {s : State} (hs : Memory.wf s.mem) (o : Op) : Memory.wf (s.serveCount o).mem := by
  simp only [State.serveCount]; (repeat' split) <;> simp [State.arrive_wf, hs]
theorem State.placeNew_wf {s : State} (hs : Memory.wf s.mem) (slot : Nat) (o : Obj) (u core row0 : Nat) :
    Memory.wf (s.placeNew slot o u core row0).mem := by
  unfold State.placeNew
  extract_lets
  refine State.foldl_wf (fun s t hs => by simpa using hs) _ ?_
  grind [State.codeIn_mem, State.acquireDiscard_wf, State.runCreels_mem, State.ownLanes_mem, State.mapCore_mem, State.takeNumber_mem]
theorem execPlaceUnit_wf {s : State} (hs : Memory.wf s.mem) (slot : Nat) : Out.MemWf (execPlaceUnit slot s) := by
  unfold execPlaceUnit; (repeat' split) <;> simp [State.placeNew_wf, hs]
theorem State.releaseUnit_wf {s : State} (hs : Memory.wf s.mem) (u : UnitSt) : Memory.wf (s.releaseUnit u).mem := by
  simp [State.releaseUnit, State.releasePush_wf, hs]
theorem execUnitEnd_wf {s : State} (hs : Memory.wf s.mem) (unit : Nat) : Out.MemWf (execUnitEnd unit s) := by
  unfold execUnitEnd; (repeat' split) <;> simp [State.releaseUnit_wf, hs]
theorem execPreemptUnit_wf {s : State} (hs : Memory.wf s.mem) (unit bound : Nat) : Out.MemWf (execPreemptUnit unit bound s) := by
  unfold execPreemptUnit; (repeat' split) <;> simp [hs]
theorem State.sweepPre_wf {s : State} (hs : Memory.wf s.mem) : Memory.wf s.sweepPre.mem := by
  unfold State.sweepPre
  exact State.foldl_wf (fun s o hs => by grind [State.arrive_wf]) _ hs
theorem State.leaveCore_wf {s : State} (hs : Memory.wf s.mem) (u : UnitSt) (v : Saved) : Memory.wf (s.leaveCore u v).mem := by
  simp [State.leaveCore, State.releaseUnit_wf, hs]
theorem State.placeSaved_wf {s : State} (hs : Memory.wf s.mem) (v : Saved) (o : Obj) (core row0 : Nat) :
    Memory.wf (s.placeSaved v o core row0).mem := by
  unfold State.placeSaved
  extract_lets
  refine State.foldl_wf (fun s t hs => by simpa using hs) _ ?_
  grind [State.codeIn_mem, State.acquireDiscard_wf, State.ownLanes_mem, State.mapCore_mem, State.takeNumber_mem]
theorem execRestoreUnit_wf {s : State} (hs : Memory.wf s.mem) (saved : Nat) : Out.MemWf (execRestoreUnit saved s) := by
  unfold execRestoreUnit; (repeat' split) <;> simp [State.placeSaved_wf, State.arrive_wf, hs]

/-! ### Loads and stores -/

theorem State.giveBytes_wf {s : State} (hs : Memory.wf s.mem) (o : Op) (a : Access) (signed : Bool) (bs : List Byte) :
    Memory.wf (s.giveBytes o a signed bs).mem := by
  simp [State.giveBytes, State.arrive_wf, hs]
theorem State.performLoad_wf {s : State} (hs : Memory.wf s.mem) (o : Op) : Memory.wf (s.performLoad o).mem := by
  unfold State.performLoad
  (repeat' split) <;> try exact hs
  · exact State.opError_wf hs _ _ _
  · exact State.arrive_wf hs _ _
  · exact State.giveBytes_wf hs _ _ _ _
  · exact State.serveCell_wf hs _
  · exact State.serveTailRead_wf hs _
  · exact State.giveBytes_wf hs _ _ _ _
  · exact State.giveBytes_wf (by rw [State.cachedRead_mem]; exact hs) _ _ _ _
  · next h => exact State.giveBytes_wf (by rw [State.peerCopy_mem _ _ _ _ h]; exact hs) _ _ _ _
  · simpa using hs
theorem State.performStore_wf {s : State} (hs : Memory.wf s.mem) (o : Op) : Memory.wf (s.performStore o).mem := by
  grind [State.performStore, State.offerCode_mem, State.releasePush_wf, State.arrive_wf, State.scratchWrite_mem, State.homeWrite_mem,
    Memory.wf_writeBytes, State.noteCode_mem, State.l1Late_mem, State.l2Write_wf, State.request_mem, State.dropCopies_mem]
theorem State.prefetchPeer_wf {s : State} (hs : Memory.wf s.mem) (c : Ctx) (t : Thread) (x : Trans) (ea : Pair) (dev : Nat) :
    Memory.wf (s.prefetchPeer c t x ea dev).mem := by
  unfold State.prefetchPeer; split <;> simp [State.performLoad_wf, hs]
theorem State.prefetch_wf {s : State} (hs : Memory.wf s.mem) (c : Ctx) (t : Thread) (a : Reg) (w : BitVec 3) (o : BitVec 6) :
    Memory.wf (s.prefetch c t a w o).mem := by
  unfold State.prefetch
  have h := State.tlbLookup_mem s t.core (s.slotOf t)
  dsimp only
  (repeat' split) <;> grind [State.prefetchPeer_wf, State.l2ReadBy_mem, State.l1Fill_mem]
theorem execStoreComplete_wf {s : State} (hs : Memory.wf s.mem) (op : Nat) : Out.MemWf (execStoreComplete op s) := by
  unfold execStoreComplete; split <;> simp [State.performStore_wf, hs]
theorem execFenceComplete_wf {s : State} (hs : Memory.wf s.mem) (op : Nat) : Out.MemWf (execFenceComplete op s) := by
  unfold execFenceComplete; (repeat' split) <;> simp [State.arrive_wf, State.fenceEffect_wf, hs]
theorem execPeerReleaseTimeout_wf {s : State} (hs : Memory.wf s.mem) (op : Nat) : Out.MemWf (execPeerReleaseTimeout op s) := by
  unfold execPeerReleaseTimeout; (repeat' split) <;> simp [hs]
theorem execDeltaWriteHome_wf {s : State} (hs : Memory.wf s.mem) (die line : Nat) : Out.MemWf (execDeltaWriteHome die line s) := by
  grind [execDeltaWriteHome, Out.MemWf, State.setRemote_mem, State.homeDeltas_wf]
theorem execRemoteEviction_wf {s : State} (hs : Memory.wf s.mem) (die line : Nat) : Out.MemWf (execRemoteEviction die line s) := by
  unfold execRemoteEviction; split <;> simp [State.dropRemote_wf, hs]
theorem execPageWalkStart_wf {s : State} (hs : Memory.wf s.mem) (die : Nat) : Out.MemWf (execPageWalkStart die s) := by
  unfold execPageWalkStart; (repeat' split) <;> simp [hs]
theorem execPageWalkComplete_wf {s : State} (hs : Memory.wf s.mem) (walk : Nat) : Out.MemWf (execPageWalkComplete walk s) := by
  unfold execPageWalkComplete
  (repeat' split) <;> try exact hs
  exact State.foldl_wf (fun s c hs => by simpa using hs) _ (by simpa using hs)
theorem execTlbInvalidateComplete_wf {s : State} (hs : Memory.wf s.mem) (op : Nat) : Out.MemWf (execTlbInvalidateComplete op s) := by
  unfold execTlbInvalidateComplete; (repeat' split) <;> simp [State.arrive_wf, State.pushAll_wf, hs]

/-! ### System registers -/

theorem sysEvent_wf {s : State} (hs : Memory.wf s.mem) (ns : List Nat) (op : Nat) : Out.MemWf (sysEvent ns op s) := by
  unfold sysEvent; (repeat' split) <;> simp [State.arrive_wf, hs]

/-! ### Copies -/

theorem State.copyStore_wf {s : State} (hs : Memory.wf s.mem) (o : Op) (c : CopyArgs) (loc : Nat) (bs : List Byte) :
    Memory.wf (s.copyStore o c loc bs).mem := by
  unfold State.copyStore; split <;> simp [Memory.wf_writeBytes, State.dropRemote_wf, State.l2Write_wf, hs]
theorem State.copyStoreBad_wf {s : State} (hs : Memory.wf s.mem) (o : Op) (c : CopyArgs) (loc : Nat) (b : Byte) (e : Half) :
    Memory.wf (s.copyStoreBad o c loc b e).mem := by
  simp only [State.copyStoreBad]; (repeat' split) <;> simp [State.copyStore_wf, hs]
theorem State.srcByte_wf {s : State} (hs : Memory.wf s.mem) (o : Op) (c : CopyArgs) (k : Nat) : Memory.wf (s.srcByte o c k).1.mem := by
  unfold State.srcByte
  have h := State.copyEnd_mem s o (c.srcAt k) false
  have hr := State.replicaRead_mem
  (repeat' split) <;> grind [State.stir_mem, State.readsSeal_mem, State.l2ReadBy_mem, State.mapOp_mem, State.readSealed_wf]
theorem State.copyFault_wf {s : State} (hs : Memory.wf s.mem) (o : Op) (code : Nat) (va : Pair) (cause : Word) (written : Nat) :
    Memory.wf (s.copyFault o code va cause written).mem := by
  unfold State.copyFault; split <;> simp [State.arriveFault_wf, hs]
theorem State.homeAtomic_wf {s : State} (hs : Memory.wf s.mem) (o : Op) (loc : Nat) (f : AtomFn) (x : Pair) :
    Memory.wf (s.homeAtomic o loc f x).1.mem := by
  grind [State.homeAtomic, State.claimCheck_mem, State.atomHome_wf, State.dropRemote_wf, State.l1Give_wf, State.notedFrom_mem]
theorem State.sendSignal_wf {s : State} (hs : Memory.wf s.mem) (o : Op) (c : CopyArgs) : Memory.wf (s.sendSignal o c).mem := by
  grind [State.sendSignal, State.copyEnd_mem, State.copyFault_wf, State.opError_wf, State.homeAtomic_wf, State.arriveFault_wf,
    State.arrive_wf, State.request_mem, State.mapOp_mem, State.peerReduced_wf]
theorem State.finishCopy_wf {s : State} (hs : Memory.wf s.mem) (o : Op) (c : CopyArgs) : Memory.wf (s.finishCopy o c).mem := by
  unfold State.finishCopy; split <;> simp [State.sendSignal_wf, State.arrive_wf, hs]
theorem State.gather_wf {s : State} (hs : Memory.wf s.mem) (o : Op) (c : CopyArgs) (k n : Nat) : Memory.wf (s.gather o c k n).1.mem := by
  induction n generalizing s k with
  | zero => exact hs
  | succ n ih =>
    unfold State.gather
    grind [State.srcByte_wf]
theorem State.sendBytes_wf {s : State} (hs : Memory.wf s.mem) (o : Op) (c : CopyArgs) (k dev : Nat) (a : Access) (bs : List Byte) :
    Memory.wf (s.sendBytes o c k dev a bs).mem := by
  unfold State.sendBytes; split <;> simp [State.peerReduced_wf, hs]
theorem State.putUnit_wf {s : State} (hs : Memory.wf s.mem) (o : Op) (c : CopyArgs) (k : Nat) (bs : List Byte) :
    Memory.wf (s.putUnit o c k bs).state.mem := by
  unfold State.putUnit
  have h := State.copyEnd_mem s o (c.dstAt k) true
  grind [Put.state, State.copyFault_wf, State.copyMoved_mem, State.putScratch_mem, State.sendBytes_wf, State.copyStore_wf, State.opError_wf,
    State.homeAtomic_wf, State.arriveFault_wf]
theorem State.copyBad_wf {s : State} (hs : Memory.wf s.mem) (o : Op) (c : CopyArgs) (k loc : Nat) (b : Byte) (e : Half) :
    Memory.wf (s.copyBad o c k loc b e).state.mem := by
  unfold State.copyBad
  have h := State.copyEnd_mem s o (c.dstAt k) true
  grind [Put.state, State.copyFault_wf, State.copyMoved_mem, State.copyStoreBad_wf, State.opError_wf]
theorem State.putAll_wf {s : State} (hs : Memory.wf s.mem) (o : Op) (c : CopyArgs) (k n : Nat) (bs : List Byte) :
    Memory.wf (s.putAll o c k n bs).mem := by
  induction n generalizing s k bs with
  | zero => exact hs
  | succ n ih =>
    unfold State.putAll
    have h := State.putUnit_wf hs o c k (bs.take c.unit)
    grind [Put.state]
theorem State.copyUnit_wf {s : State} (hs : Memory.wf s.mem) (o : Op) (c : CopyArgs)
    (k n : Nat) : Memory.wf (s.copyUnit o c k n).state.mem := by
  unfold State.copyUnit
  grind [Put.state, State.srcByte_wf, State.copyFault_wf, State.copyBad_wf, State.readsSeal_mem, State.askRead_mem, State.request_mem,
    State.gather_wf,
    State.sendBytes_wf, State.putUnit_wf, State.opError_wf]
theorem State.moveBytes_wf {s : State} (hs : Memory.wf s.mem) (id n : Nat) : Memory.wf (s.moveBytes id n).mem := by
  induction n generalizing s with
  | zero => exact hs
  | succ n ih =>
    unfold State.moveBytes
    grind [Put.state, State.copyUnit_wf]
theorem State.endCopy_wf {s : State} (hs : Memory.wf s.mem) (id : Nat) : Memory.wf (s.endCopy id).mem := by
  unfold State.endCopy; (repeat' split) <;> simp [State.finishCopy_wf, hs]
theorem execCopyComplete_wf {s : State} (hs : Memory.wf s.mem) (op n : Nat) : Out.MemWf (execCopyComplete op n s) := by
  unfold execCopyComplete; (repeat' split) <;> simp [State.endCopy_wf, State.moveBytes_wf, hs]
theorem State.copyArrived_wf {s : State} (hs : Memory.wf s.mem) (o : Op) (bs : List Byte) : Memory.wf (s.copyArrived o bs).mem := by
  unfold State.copyArrived; split <;> simp [State.endCopy_wf, State.putAll_wf, hs]
theorem State.copyWritten_wf {s : State} (hs : Memory.wf s.mem) (o : Op) (n : Nat) : Memory.wf (s.copyWritten o n).mem := by
  unfold State.copyWritten; split <;> simp [State.endCopy_wf, hs]

/-! ### The tile engine -/

theorem execTileCommandStart_wf {s : State} (hs : Memory.wf s.mem) (core pipe : Nat) : Out.MemWf (execTileCommandStart core pipe s) := by
  unfold execTileCommandStart; (repeat' split) <;> simp [hs]
theorem State.loadBlock_wf {s : State} (hs : Memory.wf s.mem) (c : Cmd) : Memory.wf (s.loadBlock c).mem := by
  unfold State.loadBlock
  split
  · exact hs
  · extract_lets kb n block va o
    have he : Memory.wf (s.copyEnd o va false).1.mem := by simpa using hs
    generalize s.copyEnd o va false = e at he
    split
    · simpa using hs
    · split
      · simpa using hs
      · split <;> dsimp only at he
        · exact he
        · exact he
        · simpa using he
        · next s d a =>
          have hr := State.replicaRead_mem s (dieOf c.core) a n
          (repeat' split) <;> grind [State.request_mem, State.cmdError_mem, State.takeAccess_mem, State.loadsSeal_mem, State.askRead_mem]
        · split
          · split
            · simpa using he
            · simpa using he
          · next s a _ =>
            extract_lets q off tail r
            have hr : Memory.wf r.1.mem := State.readSealed_wf he _ _ _
            generalize (if c.passed.isSome = true then judgeHome q off n else judgeRead q a.pageSize off n c.detM) = j
            cases j with
            | wait => exact he
            | passed => simpa using he
            | fault aux => simpa using he
            | bytes =>
              dsimp only
              (repeat' split) <;> simp [he, hr]
theorem execTileBlockArrival_wf {s : State} (hs : Memory.wf s.mem) (cmd : Nat) : Out.MemWf (execTileBlockArrival cmd s) := by
  unfold execTileBlockArrival; (repeat' split) <;> simp [State.loadBlock_wf, hs]
theorem State.addLine_wf {s : State} (hs : Memory.wf s.mem) (loc : Nat) (wide : Bool) (vals : List Word) :
    Memory.wf (s.addLine loc wide vals).mem := by
  unfold State.addLine
  rw [State.notedFrom_mem]
  split
  · exact State.foldl_wf (fun s i hs => State.atomHome_wf hs _ _ _ _) _ hs
  · exact State.foldl_wf (fun s i hs => State.atomHome_wf hs _ _ _ _) _ hs
theorem State.lineApplied_wf {s : State} (hs : Memory.wf s.mem) (cmd line : Nat) : Memory.wf (s.lineApplied cmd line).mem := by
  unfold State.lineApplied; split <;> simp [State.arrive_wf, hs]
theorem State.cascade_wf {s : State} (hs : Memory.wf s.mem) (loc : Nat) (det : Bool) (fuel : Nat) :
    Memory.wf (s.cascade loc det fuel).mem := by
  induction fuel generalizing s with
  | zero => exact hs
  | succ n ih =>
    unfold State.cascade
    grind [State.closeMerge_mem, State.addLine_wf, State.setMerge_mem, State.lineApplied_wf]
theorem State.strictLine_wf {s : State} (hs : Memory.wf s.mem) (h : HeldLine) (now : Bool) : Memory.wf (s.strictLine h now).1.mem := by
  unfold State.strictLine; (repeat' split) <;> simp [State.addLine_wf, State.cascade_wf, hs]
theorem State.strictEnd_wf {s : State} (hs : Memory.wf s.mem) (h : HeldLine) (va : Pair) (r : Strict) :
    Memory.wf (s.strictEnd h va r).mem := by
  unfold State.strictEnd; (repeat' split) <;> simp [State.lineApplied_wf, State.opError_wf, State.arriveFault_wf, hs]
theorem execMergeBufferEntryGrant_wf {s : State} (hs : Memory.wf s.mem) (slice : Nat) : Out.MemWf (execMergeBufferEntryGrant slice s) := by
  unfold execMergeBufferEntryGrant; split <;> simp [State.strictLine_wf, State.strictEnd_wf, hs]
theorem State.sendLine_wf {s : State} (hs : Memory.wf s.mem) (c : Cmd) (u : UnitSt) : Memory.wf (s.sendLine c u).mem := by
  unfold State.sendLine
  split
  · exact hs
  · next row addr _ =>
    extract_lets ln va o vals step sent
    have hstep : ∀ {s : State}, Memory.wf s.mem → Memory.wf (step s).mem := fun hs => by simpa [step] using hs
    have hsent : ∀ {s : State}, Memory.wf s.mem → Memory.wf (sent s).mem := fun hs => by simpa [sent] using hs
    clear_value step sent
    have he : Memory.wf (s.copyEnd o va true).1.mem := by simpa using hs
    generalize s.copyEnd o va true = e at he
    split
    · simpa using hs
    · split
      · simpa using hs
      · split <;> dsimp only at he
        · exact he
        · exact he
        · simpa using he
        · split
          · simpa using hsent he
          · rw [State.request_mem]; exact State.peerReduced_wf (hsent he) _ _ _
        · next a =>
          split
          · exact hstep (by rw [State.l1Store_mem]; exact State.l2Write_wf (by simpa using he) _ _ _)
          · have hg := State.dropRemote_wf (State.l1Give_wf he c.core a.loc) (dieOf c.core) (lineOf a.loc)
            extract_lets s1
            split
            · simpa using hg
            · exact hstep (State.addLine_wf hg _ _ _)
            · next k n _ =>
              extract_lets h
              have hl := State.strictLine_wf hg h true
              generalize s1.strictLine h true = r at hl
              split
              · exact hstep hl
              · exact hsent hl
              · split
                · simpa using hl
                · exact hl
theorem execDrainLineArrival_wf {s : State} (hs : Memory.wf s.mem) (cmd : Nat) : Out.MemWf (execDrainLineArrival cmd s) := by
  unfold execDrainLineArrival; (repeat' split) <;> simp [State.sendLine_wf, hs]
theorem State.endLoad_wf {s : State} (hs : Memory.wf s.mem) (c : Cmd) : Memory.wf (s.endLoad c).mem := by
  unfold State.endLoad; split <;> simp [State.dropRemotes_wf, hs]
theorem execTileCommandRetire_wf {s : State} (hs : Memory.wf s.mem) (cmd : Nat) : Out.MemWf (execTileCommandRetire cmd s) := by
  unfold execTileCommandRetire; (repeat' split) <;> simp [State.endLoad_wf, hs]

/-! ### System words -/

theorem State.writeBack_wf {s : State} (hs : Memory.wf s.mem) (push home : Bool) : Memory.wf (s.writeBack push home).mem := by
  unfold State.writeBack; (repeat' split) <;> simp [State.pushAll_wf, hs]
theorem execL2wbComplete_wf {s : State} (hs : Memory.wf s.mem) (op : Nat) : Out.MemWf (execL2wbComplete op s) := by
  unfold execL2wbComplete; (repeat' split) <;> simp [State.arrive_wf, State.writeBack_wf, hs]

/-! ### Images -/

theorem State.imageLine_wf {s : State} (hs : Memory.wf s.mem) (o : Op) (loc pos : Nat) (bs : List Byte) :
    Memory.wf (s.imageLine o loc pos bs).mem := by
  unfold State.imageLine; split <;> simp [State.l2Write_wf, hs]
theorem State.imageWrite_wf {s : State} (hs : Memory.wf s.mem) (o : Op) (a : Access) (pos : Nat) (bs : List Byte) :
    Memory.wf (s.imageWrite o a pos bs).mem := by
  unfold State.imageWrite
  exact State.foldl_wf (fun s i hs => State.imageLine_wf hs _ _ _ _) _ hs
theorem State.imageWriteAll_wf {s : State} (hs : Memory.wf s.mem) (o : Op) (pages : List Access) (pos : Nat) (bs : List Byte) :
    Memory.wf (s.imageWriteAll o pages pos bs).mem := by
  induction pages generalizing s pos bs with
  | nil => exact hs
  | cons a rest ih => exact ih (State.imageWrite_wf hs _ _ _ _) _ _
theorem State.saveTo_wf {s : State} (hs : Memory.wf s.mem) (u : UnitSt) (o : Op) (addr : Pair) : Memory.wf (s.saveTo u o addr).mem := by
  grind [State.saveTo, State.imageWriteAll_wf, State.imagePages_mem, State.mapOp_mem, State.goOn_mem, State.arrive_wf, State.leaveCore_wf]
theorem execSaveUnitComplete_wf {s : State} (hs : Memory.wf s.mem) (unit : Nat) : Out.MemWf (execSaveUnitComplete unit s) := by
  unfold execSaveUnitComplete; (repeat' split) <;> simp [State.saveTo_wf, State.leaveCore_wf, hs]
theorem State.imageStep_wf {s : State} (hs : Memory.wf s.mem) (o : Op) (addr : Pair) : Memory.wf (s.imageStep o addr).1.mem := by
  grind [State.imageStep, State.imagePage_mem, State.request_mem, State.opError_wf, State.imageTake_mem]
theorem State.imageRead_wf {s : State} (hs : Memory.wf s.mem) (id : Nat) (addr : Pair) (len n : Nat) :
    Memory.wf (s.imageRead id addr len n).1.mem := by
  induction n generalizing s with
  | zero => exact hs
  | succ n ih =>
    unfold State.imageRead
    grind [State.imageStep_wf]
theorem State.loadFrom_wf {s : State} (hs : Memory.wf s.mem) (id : Nat) (addr : Pair) (core : Word) :
    Memory.wf (s.loadFrom id addr core).mem := by
  have read : ∀ {s s' : State} {len n e}, Memory.wf s.mem → s.imageRead id addr len n = (s', e) → Memory.wf s'.mem := by
    intro s s' len n e hs h
    have := State.imageRead_wf hs id addr len n
    rwa [h] at this
  unfold State.loadFrom
  extract_lets stop no
  have hstop : ∀ {s : State} e, Memory.wf s.mem → Memory.wf (stop s e).mem := by
    intro s e hs
    simp only [stop]
    split
    · exact State.arriveFault_wf hs _ _ _ _
    · exact hs
  have hno : ∀ {s : State}, Memory.wf s.mem → Memory.wf (no s).mem := fun hs => State.arrive_wf hs _ _
  split
  · next s1 h1 =>
    have hs1 := read hs h1
    split
    · exact hs1
    · extract_lets head
      split
      · exact hno hs1
      · split
        · next s2 h2 =>
          extract_lets img v
          split
          · exact hno (read hs1 h2)
          · rw [State.takeImage_mem]; exact read hs1 h2
        · next s2 e _ h2 => exact hstop _ (read hs1 h2)
  · next s1 e _ h1 => exact hstop _ (read hs h1)
theorem State.loadMore_wf {s : State} (hs : Memory.wf s.mem) (o : Op) : Memory.wf (s.loadMore o).mem := by
  unfold State.loadMore; (repeat' split) <;> simp [State.loadFrom_wf, hs]

/-! ### Completion -/

theorem State.declareCell_wf {s : State} (hs : Memory.wf s.mem) (o : Op) (cell : Nat) (zero : Bool) :
    Memory.wf (s.declareCell o cell zero).mem := by
  unfold State.declareCell; (repeat' split) <;> simp [State.opError_wf, State.arrive_wf, hs]
theorem execLoadComplete_wf {s : State} (hs : Memory.wf s.mem) (op : Nat) (bad : Bool) : Out.MemWf (execLoadComplete op bad s) := by
  unfold execLoadComplete; (repeat' split) <;> simp [State.opError_wf, State.performLoad_wf, State.serveCell_wf, State.serveTotals_wf,
    State.serveStatus_wf, State.serveLaunch_wf, State.serveCount_wf, State.loadMore_wf, State.declareCell_wf, State.readDescriptor_wf, hs]

/-! ### Control -/

theorem execFormStrand_wf {s : State} (hs : Memory.wf s.mem) (core dec : Nat) : Out.MemWf (execFormStrand core dec s) := by
  unfold execFormStrand; split <;> simp [hs]
theorem execOverflowQueueMove_wf {s : State} (hs : Memory.wf s.mem) (core : Nat) : Out.MemWf (execOverflowQueueMove core s) := by
  unfold execOverflowQueueMove; split <;> simp [hs]
theorem execSpillEntry_wf {s : State} (hs : Memory.wf s.mem) (core : Nat) : Out.MemWf (execSpillEntry core s) := by
  unfold execSpillEntry; split <;> simp [hs]
theorem execBankReadRetry_wf {s : State} (hs : Memory.wf s.mem) (strand : Nat) : Out.MemWf (execBankReadRetry strand s) := by
  simp [execBankReadRetry, hs]

/-! ### The host channel -/

theorem execMessageResendTimeout_wf {s : State} (hs : Memory.wf s.mem) : Out.MemWf (execMessageResendTimeout s) := by
  simp [execMessageResendTimeout, hs]
theorem execClehildRestart_wf {s : State} (hs : Memory.wf s.mem) : Out.MemWf (execClehildRestart s) := by simp [execClehildRestart, hs]
theorem State.moduleReset_wf {s : State} (hs : Memory.wf s.mem) : Memory.wf s.moduleReset.mem := by simp [State.moduleReset, hs]
theorem execModuleReset_wf {s : State} (hs : Memory.wf s.mem) : Out.MemWf (execModuleReset s) := by
  simp [execModuleReset, State.moduleReset_wf, hs]
theorem Memory.wf_filter {m : List Host.Cell} (h : Memory.wf m) (p : Host.Cell → Bool) : Memory.wf (m.filter p) := Sparse.wfFrom_filter h p

theorem State.enterOff_wf {s : State} (hs : Memory.wf s.mem) : Memory.wf s.enterOff.mem := by
  unfold State.enterOff
  generalize hd : s.dropContexts = t
  have ht : Memory.wf t.mem := by rw [← hd, State.dropContexts_mem]; exact hs
  exact Memory.wf_filter ht _
theorem State.request21_wf {s : State} (hs : Memory.wf s.mem) (slot : Nat) (w : Word) :
    ∀ t, s.request21 slot w = some t → Memory.wf t.mem := by
  intro t h
  unfold State.request21 at h
  grind [State.moduleReset_wf, State.reply_mem, State.enterOff_wf, State.saveUnits_mem, State.toSec_mem, State.toDbg_mem,
    Option.map_eq_some_iff]
theorem State.doRequest_wf {s : State} (hs : Memory.wf s.mem) (h : MsgHead) (want : Word) : Memory.wf (s.doRequest h want).mem := by
  unfold State.doRequest
  cases hr : s.request21 h.vf want with
  | none => simpa using hs
  | some t => exact State.request21_wf hs _ _ t hr
theorem State.sweepPower_wf {s : State} (hs : Memory.wf s.mem) : Memory.wf s.sweepPower.mem := by
  unfold State.sweepPower; (repeat' split) <;> simp [State.writeBack_wf, hs]
theorem Memory.wf_restored {m : List Host.Cell} (hm : Memory.wf m) (l : List (Nat × Byte)) :
    Memory.wf (l.foldl (fun m (p : Nat × Byte) => if p.1 < 2 ^ 40 then Memory.write m p.1 p.2 else m) m) := by
  induction l generalizing m with
  | nil => exact hm
  | cons p l ih => exact ih (by dsimp only; split; exacts [Memory.wf_write hm _ _, hm])

theorem State.doCheckpoint_wf {s : State} (hs : Memory.wf s.mem) (h : MsgHead) (restore : Bool) (tier : Nat × List (Nat × Byte)) :
    Memory.wf (s.doCheckpoint h restore tier).mem := by
  unfold State.doCheckpoint
  split
  · split
    · simpa using hs
    · exact Memory.wf_restored (Memory.wf_filter hs _) _
  · split <;> simpa using hs
theorem execPowerGrant_wf {s : State} (hs : Memory.wf s.mem) (die grant : Nat) (aboveGrant : Bool) :
    Out.MemWf (execPowerGrant die grant aboveGrant s) := by
  unfold execPowerGrant; (repeat' split) <;> simp [hs]
theorem execPowerGrantTimeout_wf {s : State} (hs : Memory.wf s.mem) (die : Nat) : Out.MemWf (execPowerGrantTimeout die s) := by
  grind [execPowerGrantTimeout, Out.MemWf, State.mapDie_mem, State.stir_mem]
theorem execSoftErrorCorrected_wf {s : State} (hs : Memory.wf s.mem) (die : Nat) : Out.MemWf (execSoftErrorCorrected die s) := by
  unfold execSoftErrorCorrected; split <;> simp [hs]
theorem execUncorrectableStateError_wf {s : State} (hs : Memory.wf s.mem) (core : Nat) (site : ErrorSite) :
    Out.MemWf (execUncorrectableStateError core site s) := by
  unfold execUncorrectableStateError
  split
  · simp
  · split <;> try simpa using hs
    exact State.foldl_wf (fun s k hs => by simpa using hs) _ hs
theorem State.actOn_wf {s : State} (hs : Memory.wf s.mem) (m : HostMsg) : Memory.wf (s.actOn m).mem := by
  unfold State.actOn; split <;> simp [State.doRequest_wf, State.doCheckpoint_wf, hs]
theorem State.deliver_wf {s : State} (hs : Memory.wf s.mem) (m : HostMsg) : Memory.wf (s.deliver m).mem := by
  simp only [State.deliver]; (repeat' split) <;> simp [State.actOn_wf, hs]
theorem State.releaseWaiting_wf {s : State} (hs : Memory.wf s.mem) (n : Nat) : Memory.wf (s.releaseWaiting n).mem := by
  induction n generalizing s with
  | zero => exact hs
  | succ n ih =>
    unfold State.releaseWaiting
    grind [State.deliver_wf]
theorem State.closeGap_wf {s : State} (hs : Memory.wf s.mem) : Memory.wf s.closeGap.mem := by
  simp [State.closeGap, State.releaseWaiting_wf, hs]
theorem State.receive_wf {s : State} (hs : Memory.wf s.mem) (m : HostMsg) : Memory.wf (s.receive m).mem := by
  simp only [State.receive]; (repeat' split) <;> simp [State.closeGap_wf, State.deliver_wf, hs]
theorem State.receiveNow_wf {s : State} (hs : Memory.wf s.mem) (h : MsgHead) (typ : Nat) {perform : State → State}
    (hp : ∀ s, Memory.wf s.mem → Memory.wf (perform s).mem) : Memory.wf (s.receiveNow h typ perform).mem := by
  unfold State.receiveNow
  grind [State.reply_mem, State.takeAck_mem]

theorem execHostQuery_wf {s : State} (hs : Memory.wf s.mem) (h : MsgHead) :
    Out.MemWf (execHostQuery h s) := State.closeGap_wf (State.receiveNow_wf hs h 0x01 fun s hs => by simpa using hs)
theorem execQueryReply_wf {s : State} (hs : Memory.wf s.mem) (h : MsgHead) (delivered : Word) :
    Out.MemWf (execQueryReply h delivered s) := State.closeGap_wf (State.receiveNow_wf hs h 0x02 fun s hs => by simpa using hs)
theorem execAcknowledgement_wf {s : State} (hs : Memory.wf s.mem) (h : MsgHead) :
    Out.MemWf (execAcknowledgement h s) := State.closeGap_wf (State.receiveNow_wf hs h 0x03 fun _ hs => hs)

/-! ### Peer requests -/

theorem State.reduceAll_wf {s : State} (hs : Memory.wf s.mem) (o : Op) (loc : Nat) (f : AtomFn) (bs : List Byte) (n : Nat) :
    Memory.wf (s.reduceAll o loc f bs n).1.mem := by
  induction n generalizing s loc bs with
  | zero => exact hs
  | succ n ih =>
    unfold State.reduceAll
    grind [State.homeAtomic_wf]
theorem State.performReduce_wf {s : State} (hs : Memory.wf s.mem) (o : Op) (p : Packet) (bad : Bool) :
    Memory.wf (s.performReduce o p bad).mem := by
  grind [State.performReduce, State.opError_wf, State.reduceAll_wf, State.arriveFault_wf, State.arrive_wf, State.addLine_wf,
    State.strictLine_wf, State.mapOp_mem, State.strictEnd_wf]
theorem execAtomicBatchArrival_wf {s : State} (hs : Memory.wf s.mem) (batch : Nat) (bad : Bool) :
    Out.MemWf (execAtomicBatchArrival batch bad s) := by
  unfold execAtomicBatchArrival; (repeat' split) <;> simp [State.performReduce_wf, State.applyBatch_wf, hs]
theorem State.performXfer_wf {s : State} (hs : Memory.wf s.mem) (p : Packet) (slot : Nat) : Memory.wf (s.performXfer p slot).mem := by
  unfold State.performXfer; (repeat' split) <;> simp [State.changeCell_wf, hs]
theorem State.eraseFor_wf {s : State} (hs : Memory.wf s.mem) (p : Packet) : Memory.wf (s.eraseFor p).mem := by
  unfold State.eraseFor
  rw [State.respond_mem]
  refine State.foldl_wf (fun s o hs => State.arrive_wf hs _ _) _ ?_
  dsimp only
  split <;> simpa using hs
theorem State.perform_wf {s : State} (hs : Memory.wf s.mem) (p : Packet) (slot : Nat) : Memory.wf (s.perform p slot).mem := by
  unfold State.perform; (repeat' split) <;> simp [State.performXfer_wf, hs]
theorem State.performWord_wf {s : State} (hs : Memory.wf s.mem) (ps : List (Packet × Nat)) : Memory.wf (s.performWord ps).mem := by
  unfold State.performWord
  exact State.foldl_wf (fun s g hs => by simpa using State.perform_wf hs _ _) _ hs
theorem State.letIn_wf {s : State} (hs : Memory.wf s.mem) (p : Packet) (slot : Nat) : Memory.wf (s.letIn p slot).mem := by
  simp only [State.letIn]; (repeat' split) <;> simp [State.perform_wf, State.performWord_wf, hs]
theorem execPeerRequestReceive_wf {s : State} (hs : Memory.wf s.mem) (p : Packet) : Out.MemWf (execPeerRequestReceive p s) := by
  unfold execPeerRequestReceive
  dsimp only
  (repeat' split) <;> simp [State.eraseFor_wf, State.letIn_wf, hs]
theorem State.failRequest_wf {s : State} (hs : Memory.wf s.mem) (r : Req) (cause : Word) : Memory.wf (s.failRequest r cause).mem := by
  simp only [State.failRequest]; (repeat' split) <;> simp [State.changeCell_wf, hs]
theorem State.losePeers_wf {s : State} (hs : Memory.wf s.mem) : Memory.wf s.losePeers.mem := by
  unfold State.losePeers
  refine State.foldl_wf (fun s d hs => ?_) _ ?_
  · exact State.foldl_wf (fun s r hs => by simpa using hs) _ hs
  · refine State.foldl_wf (fun s o hs => by simpa using hs) _ ?_
    exact State.foldl_wf (fun s r hs => by split <;> simp [State.failRequest_wf, hs]) _ hs
theorem State.keepSealed_wf {s : State} (hs : Memory.wf s.mem) (die : Nat) (r : Req) (p : Packet) :
    Memory.wf (s.keepSealed die r p).mem := by
  simp only [State.keepSealed]; (repeat' split) <;> simp [State.fillReplica_wf, hs]
theorem State.loadArrived_wf {s : State} (hs : Memory.wf s.mem) (o : Op) (a : Access) (signed : Bool) (r : Req) (p : Packet) :
    Memory.wf (s.loadArrived o a signed r p).mem := by
  unfold State.loadArrived; (repeat' split) <;> simp [State.arrive_wf, State.giveBytes_wf, State.keepSealed_wf, hs]
theorem State.peerFault_wf {s : State} (hs : Memory.wf s.mem) (o : Op) (r : Req) (code : Nat) (aux : Word) (off : Nat) :
    Memory.wf (s.peerFault o r code aux off).mem := by
  unfold State.peerFault; (repeat' split) <;> simp [State.arriveFault_wf, State.copyFault_wf, hs]
theorem State.moreOf_wf {s : State} (hs : Memory.wf s.mem) (id : Nat) : Memory.wf (s.moreOf id).mem := by
  unfold State.moreOf; split <;> simp [State.loadMore_wf, hs]
theorem State.answered_wf {s : State} (hs : Memory.wf s.mem) (o : Op) (r : Req) (p : Packet) : Memory.wf (s.answered o r p).mem := by
  unfold State.answered; (repeat' split) <;> simp [State.loadArrived_wf, State.arrive_wf, State.judgeLaunch_wf, State.moreOf_wf,
    State.endCopy_wf, State.copyArrived_wf, State.keepSealed_wf, State.copyWritten_wf, State.coordinate_wf, State.checkVisited_wf, hs]
theorem State.cmdAnswered_wf {s : State} (hs : Memory.wf s.mem) (c : Cmd) (r : Req) (p : Packet) : Memory.wf (s.cmdAnswered c r p).mem := by
  unfold State.cmdAnswered; (repeat' split) <;> simp [State.keepSealed_wf, State.lineApplied_wf, hs]
theorem State.cmdPeerFault_wf {s : State} (hs : Memory.wf s.mem) (c : Cmd) (r : Req) (code : Nat) (aux : Word) :
    Memory.wf (s.cmdPeerFault c r code aux).mem := by
  unfold State.cmdPeerFault; (repeat' split) <;> simp [State.lineApplied_wf, hs]
theorem execPeerResponseReceive_wf {s : State} (hs : Memory.wf s.mem) (p : Packet) : Out.MemWf (execPeerResponseReceive p s) := by
  grind [execPeerResponseReceive, Out.MemWf, State.failRequest_wf, State.spoilFills_mem, State.pumpReqs_mem, State.forget_mem,
    State.peerFault_wf, State.answered_wf, State.cmdPeerFault_wf, State.cmdAnswered_wf]
theorem execRequestResendTimeout_wf {s : State} (hs : Memory.wf s.mem) (op : Nat) : Out.MemWf (execRequestResendTimeout op s) := by
  unfold execRequestResendTimeout; (repeat' split) <;> simp [State.failRequest_wf, hs]

/-! ### Links -/

theorem State.pumpFabric_wf {s : State} (hs : Memory.wf s.mem) : Memory.wf s.pumpFabric.mem := by
  simp [State.pumpFabric, State.losePeers_wf, hs]
theorem State.takePacket_wf {s : State} (hs : Memory.wf s.mem) (link : Nat) (p : Packet) : Memory.wf (s.takePacket link p).mem := by
  unfold State.takePacket
  dsimp only
  (repeat' split) <;> grind [State.takeWaymark_mem, State.takeEcho_mem, State.passOn_mem, State.freeBuffer_mem, State.pruneResponses_mem,
    execPeerResponseReceive_wf,
    execPeerRequestReceive_wf, Out.MemWf]
theorem State.takeFlit_wf {s : State} (hs : Memory.wf s.mem) (link : Nat) (f : Flit) : Memory.wf (s.takeFlit link f).mem := by
  simp only [State.takeFlit]; (repeat' split) <;> simp [State.takePacket_wf, hs]
theorem execFlitReceive_wf {s : State} (hs : Memory.wf s.mem) (link : Nat) (f : Flit) : Out.MemWf (execFlitReceive link f s) := by
  unfold execFlitReceive; (repeat' split) <;> simp [State.takeFlit_wf, hs]
theorem execFlitAcknowledgement_wf {s : State} (hs : Memory.wf s.mem) (link seq : Nat) :
    Out.MemWf (execFlitAcknowledgement link seq s) := by
  grind [execFlitAcknowledgement, Out.MemWf, State.pumpTransit_mem, State.drainLink_mem, State.mapLink_mem]
theorem execAllowanceReturn_wf {s : State} (hs : Memory.wf s.mem) (link pool : Nat) (cum : Half) (good : Bool) :
    Out.MemWf (execAllowanceReturn link pool cum good s) := by
  unfold execAllowanceReturn; (repeat' split) <;> simp [hs]
theorem execResyncBeatSend_wf {s : State} (hs : Memory.wf s.mem) (link : Nat) : Out.MemWf (execResyncBeatSend link s) := by
  unfold execResyncBeatSend; (repeat' split) <;> simp [hs]
theorem execResyncBeatReceive_wf {s : State} (hs : Memory.wf s.mem) (link dev plink : Nat) (cums : List Half) :
    Out.MemWf (execResyncBeatReceive link dev plink cums s) := by
  unfold execResyncBeatReceive; (repeat' split) <;> simp [hs]
theorem execEscapeTimeout_wf {s : State} (hs : Memory.wf s.mem) (txn : Nat) : Out.MemWf (execEscapeTimeout txn s) := by
  unfold execEscapeTimeout; split <;> simp [hs]
theorem execLinkRetrain_wf {s : State} (hs : Memory.wf s.mem) (link : Nat) : Out.MemWf (execLinkRetrain link s) := by
  unfold execLinkRetrain; split <;> simp [State.pumpFabric_wf, hs]
theorem execLinkLock_wf {s : State} (hs : Memory.wf s.mem) (link peer plink : Nat) : Out.MemWf (execLinkLock link peer plink s) := by
  unfold execLinkLock; (repeat' split) <;> simp [State.pumpFabric_wf, hs]
theorem execLinkTrainingTimeout_wf {s : State} (hs : Memory.wf s.mem) (link : Nat) : Out.MemWf (execLinkTrainingTimeout link s) := by
  unfold execLinkTrainingTimeout; (repeat' split) <;> simp [State.pumpFabric_wf, hs]
theorem execLinkTrainingRetry_wf {s : State} (hs : Memory.wf s.mem) : Out.MemWf (execLinkTrainingRetry s) := by
  unfold execLinkTrainingRetry
  split
  · exact hs
  · simp only [Out.memWf_next]
    exact State.foldl_wf (fun s n hs => by split <;> simpa using hs) _ hs
theorem execRoutingTableRewrite_wf {s : State} (hs : Memory.wf s.mem) (routes : List Route) :
    Out.MemWf (execRoutingTableRewrite routes s) := by
  simp [execRoutingTableRewrite, State.pumpFabric_wf, hs]
theorem execOpticalReconfiguration_wf {s : State} (hs : Memory.wf s.mem) (links connect : List Nat) :
    Out.MemWf (execOpticalReconfiguration links connect s) := by
  unfold execOpticalReconfiguration
  dsimp only
  split
  · simp
  · exact State.foldl_wf (fun s n hs => by simpa using hs) _ hs
theorem execWaymark_wf {s : State} (hs : Memory.wf s.mem) (link pool : Nat) : Out.MemWf (execWaymark link pool s) := by
  unfold execWaymark; (repeat' split) <;> simp [hs]
theorem execWaymarkEcho_wf {s : State} (hs : Memory.wf s.mem) (link pool : Nat) : Out.MemWf (execWaymarkEcho link pool s) := by
  unfold execWaymarkEcho; split <;> simp [hs]
theorem execSwitchSettled_wf {s : State} (hs : Memory.wf s.mem) : Out.MemWf (execSwitchSettled s) := by
  unfold execSwitchSettled
  exact State.foldl_wf (fun s n hs => by split <;> simpa using hs) _ (by simpa using hs)

/-! ### The turn of a strand -/

theorem State.finish_wf {s : State} (hs : Memory.wf s.mem) : Memory.wf s.finish.mem := by
  simp [State.finish, State.sweepPower_wf, State.sweepPre_wf, hs]
end Sys2Proof.Machine

/-!
# What keeps the canonical form of memory: the issue of a word

A word keeps the form when its checks, its groups and its act on each thread do.
-/

namespace Sys2Proof.Machine

/-- The parts of a word's meaning leave memory in its canonical form. -/
structure Meaning.KeepsMem {α : Type} (m : Meaning α) : Prop where
  pre : ∀ {s : State}, Memory.wf s.mem → ∀ c t, Memory.wf (m.pre s c t).1.mem
  group : ∀ {s : State}, Memory.wf s.mem → ∀ c ts, Memory.wf (m.group s c ts).1.mem
  act : ∀ {s : State}, Memory.wf s.mem → ∀ c l, Memory.wf (m.act s c l).1.mem

theorem eachThread_wf {α : Type} {f : State → Ctx → Thread → α → State × After} {s : State} (hs : Memory.wf s.mem) (c : Ctx)
    (l : List (Nat × α)) (hf : ∀ s c t x, Memory.wf s.mem → Memory.wf (f s c t x).1.mem) : Memory.wf (eachThread f s c l).1.mem := by
  induction l generalizing s with
  | nil => exact hs
  | cons p l ih =>
    unfold eachThread
    split
    · exact ih hs
    · exact ih (hf _ _ _ _ hs)

section
variable {α : Type} {m : Meaning α} (hm : m.KeepsMem)
include hm

theorem Meaning.KeepsMem.check {s : State} (hs : Memory.wf s.mem) (c : Ctx) (t : Thread) : Memory.wf (m.check s c t).1.mem := by
  unfold Meaning.check
  split
  · exact hs
  · exact hm.pre hs c t

theorem Meaning.KeepsMem.checkAll {s : State} (hs : Memory.wf s.mem) (c : Ctx) (ts : List Thread) : Memory.wf (m.checkAll s c ts).1.mem := by
  induction ts generalizing s with
  | nil => exact hs
  | cons t ts ih => exact ih (hm.check hs c t)

theorem Meaning.KeepsMem.party {s : State} (hs : Memory.wf s.mem) (c : Ctx) (ts : List Thread) : Memory.wf (m.party s c ts).1.mem := by
  have hc := hm.checkAll hs c ts
  have hg : ∀ us, Memory.wf (if (stops (m.checkAll s c ts).2).isEmpty then m.group (m.checkAll s c ts).1 c us
      else ((m.checkAll s c ts).1, none)).1.mem := by
    intro us
    split
    · exact hm.group hc c us
    · exact hc
  unfold Meaning.party
  dsimp only
  split
  · exact hc
  · split
    · exact hg _
    · exact hm.act (by simpa using hg _) _ _

theorem Meaning.KeepsMem.parties {s : State} (hs : Memory.wf s.mem) (c : Ctx) (ps : List (List Thread)) :
    Memory.wf (m.parties s c ps).1.mem := by
  induction ps generalizing s with
  | nil => exact hs
  | cons p ps ih => exact ih (hm.party hs c _)

/-- The issue of a word keeps memory canonical where the word's own checks and its action do: threads that leave, fall through or fault
write none. -/
theorem issue_wf {s : State} (hs : Memory.wf s.mem) : Memory.wf (issue m s).mem := by
  unfold issue
  split
  · exact hs
  · next st _ =>
    dsimp only
    rw [State.finishWord_mem]
    refine hm.parties ?_ _ _
    simpa using State.beforeRun_wf hs st

end

theorem issueHint_wf {s : State} (hs : Memory.wf s.mem) (k : HintKind) (alone : Hints) (repeated : Hints → Bool) (add : Hints → Hints) :
    Memory.wf (issueHint s k alone repeated add).mem := by
  unfold issueHint
  split
  · exact hs
  · next st _ =>
    have h := State.beforeRun_wf hs st
    dsimp only
    split <;> simpa using h

theorem regWord_wf {s : State} (hs : Memory.wf s.mem) (shape : Hints → Shape) (illegal : Hints → Bool) (hx : Bool)
    (f : Hints → Nat → Thread → Thread) : Memory.wf (regWord shape illegal hx f s).mem :=
  issue_wf ⟨fun hs _ _ => hs, fun hs _ _ => hs, fun hs c l => eachThread_wf hs c l fun _ _ _ _ hs => hs⟩ hs

end Sys2Proof.Machine

/-!
# Every step keeps memory in its canonical form (O54, O55)

One lemma per instruction, then the case split over the instruction type.
-/

namespace Sys2Proof.Machine

theorem issue_each_wf {α : Type} {m : Meaning α} {f : State → Ctx → Thread → α → State × After} {s : State} (hs : Memory.wf s.mem)
    (hact : m.act = eachThread f) (hgroup : m.group = fun s _ _ => (s, none))
    (hpre : ∀ {s : State} c t, Memory.wf s.mem → Memory.wf (m.pre s c t).1.mem)
    (hf : ∀ {s : State} c t x, Memory.wf s.mem → Memory.wf (f s c t x).1.mem) : Memory.wf (issue m s).mem :=
  issue_wf ⟨fun hs c t => hpre c t hs, fun hs _ _ => by rw [hgroup]; exact hs, fun hs c l => by
    rw [hact]; exact eachThread_wf hs c l fun _ c t x hs => hf c t x hs⟩ hs

theorem execMovs_wf {s : State} (hs : Memory.wf s.mem) (d : Reg) (x : BitVec 7) : Out.MemWf (execMovs d x s) :=
  issue_each_wf hs rfl rfl (fun _ _ hs => hs) (fun _ _ _ hs => hs)
theorem atomOp_wf {s : State} (hs : Memory.wf s.mem) (ret : Bool) (f : AtomFn) (d a b : Reg) : Memory.wf (atomOp ret f d a b s).mem :=
  issue_each_wf hs rfl rfl (fun _ _ hs => by dsimp only; (repeat' split) <;> simpa using hs) (fun _ _ _ hs => hs)
theorem asealOp_wf {s : State} (hs : Memory.wf s.mem) (ctr : Ctr) (sh : Shape) (a : Reg) (write det quiet push : Bool) (dst : List Reg)
    (kind : State → Thread → Access → OpKind) :
    Memory.wf (asealOp ctr sh a write det quiet push dst kind s).mem :=
  issue_each_wf hs rfl rfl (fun c t hs => by grind [State.asealAccess_mem, State.codeOut_mem, State.releasePush_wf, State.addOp_mem])
    (fun c t x hs => by grind [State.asealAccess_mem, State.codeOut_mem, State.releasePush_wf, State.addOp_mem])
theorem barOp_wf {s : State} (hs : Memory.wf s.mem) (a : Reg) (i : BitVec 6) (wait : Bool) : Memory.wf (barOp a i wait s).mem :=
  issue_each_wf hs rfl rfl (fun _ _ hs => by simpa using hs) (fun c t x hs => by grind [quietFirst_mem, State.arriveAt_wf])
theorem execBarWait_wf {s : State} (hs : Memory.wf s.mem) (i : BitVec 6) : Out.MemWf (execBarWait i s) :=
  issue_each_wf hs rfl rfl (fun _ _ hs => hs) (fun _ _ _ hs => by dsimp only; (repeat' split) <;> simpa using hs)
theorem execXfer_wf {s : State} (hs : Memory.wf s.mem) (d a b : Reg) : Out.MemWf (execXfer d a b s) :=
  issue_each_wf hs rfl rfl (fun _ _ hs => by simpa using hs) (fun _ _ _ hs => hs)
theorem execFsel_wf {s : State} (hs : Memory.wf s.mem) (a : Reg) : Out.MemWf (execFsel a s) :=
  issue_each_wf hs rfl rfl (fun _ _ hs => by dsimp only; (repeat' split) <;> simpa using hs) (fun _ _ _ hs => hs)
theorem execFld_wf {s : State} (hs : Memory.wf s.mem) (d a : Reg) : Out.MemWf (execFld d a s) :=
  issue_each_wf hs rfl rfl (fun c t hs => by grind [State.cellAccess_mem, State.addOp_mem]) (fun _ _ _ hs => hs)
theorem execFtot_wf {s : State} (hs : Memory.wf s.mem) (d : Reg) (x : BitVec 2) (k : BitVec 3) : Out.MemWf (execFtot d x k s) :=
  issue_each_wf hs rfl rfl (fun _ _ hs => by dsimp only; (repeat' split) <;> simpa using hs)
    (fun _ _ _ hs => by dsimp only; (repeat' split) <;> simpa using hs)
theorem execFchk_wf {s : State} (hs : Memory.wf s.mem) (d a : Reg) : Out.MemWf (execFchk d a s) :=
  issue_each_wf hs rfl rfl (fun _ _ hs => by dsimp only; (repeat' split) <;> simpa using hs) (fun _ _ _ hs => hs)
theorem execFinfo_wf {s : State} (hs : Memory.wf s.mem) (d a : Reg) (q : BitVec 7) : Out.MemWf (execFinfo d a q s) :=
  issue_each_wf hs rfl rfl (fun _ _ hs => by dsimp only; (repeat' split) <;> simpa using hs) (fun _ _ _ hs => hs)
theorem fdeclChecks_wf {s : State} (hs : Memory.wf s.mem) (a b : Reg) (c : Ctx) (t : Thread) :
    Memory.wf (fdeclChecks a b s c t).1.mem := by
  unfold fdeclChecks
  grind [State.cellPages_mem, State.askDescriptor_mem, State.globalAccess_mem, State.codeOut_mem, State.releasePush_wf]
theorem execFdecl_wf {s : State} (hs : Memory.wf s.mem) (a b : Reg) : Out.MemWf (execFdecl a b s) :=
  issue_each_wf hs rfl rfl (fun c t hs => fdeclChecks_wf hs a b c t)
    (fun _ _ _ hs => by dsimp only; (repeat' split) <;> simpa using hs)
theorem execCrinit_wf {s : State} (hs : Memory.wf s.mem) (a : Reg) (k : BitVec 7) : Out.MemWf (execCrinit a k s) :=
  issue_each_wf hs rfl rfl (fun _ _ hs => hs) (fun c t x hs => by grind [State.initCreel_mem])
theorem execCrtake_wf {s : State} (hs : Memory.wf s.mem) (d : Reg) (k : BitVec 7) : Out.MemWf (execCrtake d k s) := by
  refine issue_wf ⟨fun hs c t => by simpa using hs, fun hs c ts => by simpa using hs,
    fun hs c l => eachThread_wf hs c l fun s c t x hs => ?_⟩ hs
  dsimp only
  split
  · exact hs
  · split
    · exact State.acquireNow_wf (by simpa using hs) t
    · simpa using hs
theorem execCrgive_wf {s : State} (hs : Memory.wf s.mem) (a : Reg) (k : BitVec 7) : Out.MemWf (execCrgive a k s) :=
  issue_each_wf hs rfl rfl (fun c t hs => by grind [creelReady_mem, State.setCreel_mem])
    (fun _ _ _ hs => by dsimp only; (repeat' split) <;> simpa using hs)
theorem execCrtest_wf {s : State} (hs : Memory.wf s.mem) (d : Reg) (k : BitVec 7) : Out.MemWf (execCrtest d k s) :=
  issue_wf ⟨fun hs c t => by simpa using hs, fun hs c ts => by dsimp only; split <;> simpa using hs,
    fun hs c l => eachThread_wf hs c l fun _ _ _ _ hs => hs⟩ hs
theorem execCrclaim_wf {s : State} (hs : Memory.wf s.mem) (d : Reg) (k : BitVec 7) : Out.MemWf (execCrclaim d k s) :=
  issue_wf ⟨fun hs c t => by simpa using hs, fun hs c ts => by simpa using hs,
    fun hs c l => eachThread_wf hs c l fun _ _ _ _ hs => by simpa using hs⟩ hs
theorem execCrpost_wf {s : State} (hs : Memory.wf s.mem) (a : Reg) (k : BitVec 7) : Out.MemWf (execCrpost a k s) :=
  issue_each_wf hs rfl rfl (fun c t hs => by grind [creelReady_mem, State.setCreel_mem, State.codeOut_mem])
    (fun _ _ _ hs => by dsimp only; (repeat' split) <;> simpa using hs)
theorem execCrstat_wf {s : State} (hs : Memory.wf s.mem) (d : Reg) (k : BitVec 7) : Out.MemWf (execCrstat d k s) :=
  issue_each_wf hs rfl rfl (fun _ _ hs => hs) (fun _ _ _ hs => hs)
theorem execCraddr_wf {s : State} (hs : Memory.wf s.mem) (d a : Reg) (k : BitVec 7) : Out.MemWf (execCraddr d a k s) :=
  issue_each_wf hs rfl rfl (fun c t hs => by grind [creelReady_mem, State.setThread_mem]) (fun _ _ _ hs => hs)
theorem execLch_wf {s : State} (hs : Memory.wf s.mem) (d a : Reg) : Out.MemWf (execLch d a s) :=
  issue_each_wf hs rfl rfl (fun _ _ hs => by dsimp only; (repeat' split) <;> simpa using hs) (fun _ _ _ hs => hs)
theorem execLcancel_wf {s : State} (hs : Memory.wf s.mem) (a : Reg) : Out.MemWf (execLcancel a s) :=
  issue_each_wf hs rfl rfl (fun _ _ hs => hs) (fun c t x hs => by grind [State.cancel_mem])
theorem execLcnt_wf {s : State} (hs : Memory.wf s.mem) (d a : Reg) (q : BitVec 7) : Out.MemWf (execLcnt d a q s) :=
  issue_each_wf hs rfl rfl (fun _ _ hs => by dsimp only; (repeat' split) <;> simpa using hs) (fun _ _ _ hs => hs)
theorem execLwaitc_wf {s : State} (hs : Memory.wf s.mem) (a b : Reg) : Out.MemWf (execLwaitc a b s) :=
  issue_each_wf hs rfl rfl (fun _ _ hs => hs) (fun c t x hs => by grind [State.codeIn_mem, State.acquireDiscard_wf, State.mapThread_mem])
theorem execPmreq_wf {s : State} (hs : Memory.wf s.mem) (a b : Reg) : Out.MemWf (execPmreq a b s) :=
  issue_each_wf hs rfl rfl (fun _ _ hs => hs) (fun c t x hs => by grind [State.arrive_wf, State.addOp_mem, State.askPre_mem])
theorem loadOp_wf {s : State} (hs : Memory.wf s.mem) (d a : Reg) (sp : BitVec 3) (z : Nat) (o : BitVec 6) (dsts : List Reg)
    (word signed acq : Bool) :
    Memory.wf (loadOp d a sp z o dsts word signed acq s).mem :=
  issue_each_wf hs rfl rfl (fun _ _ hs => by simpa using hs)
    (fun c t x hs => by grind [loadChecks_mem, State.stir_mem, State.addOp_mem, State.performLoad_wf])
theorem storeOp_wf {s : State} (hs : Memory.wf s.mem) (a : Reg) (sp : BitVec 3) (z : Nat) (o : BitVec 6) (srcs : List Reg) (rel : Bool) :
    Memory.wf (storeOp a sp z o srcs rel s).mem :=
  issue_each_wf hs rfl rfl (fun _ _ hs => by simpa using hs)
    (fun c t x hs => by grind [State.xmAccess_mem, State.noteCode_mem, State.addOp_mem, State.lpWrite_mem, State.mapOp_mem,
      State.l1Store_mem, State.performStore_wf])
theorem execPf_wf {s : State} (hs : Memory.wf s.mem) (a : Reg) (w : BitVec 3) (o : BitVec 6) : Out.MemWf (execPf a w o s) :=
  issue_each_wf hs rfl rfl (fun _ _ hs => by dsimp only; (repeat' split) <;> simpa using hs) (fun c t x hs => by grind [State.prefetch_wf])
theorem fenceOp_wf {s : State} (hs : Memory.wf s.mem) (n : BitVec 4) (acq rel : Bool) : Memory.wf (fenceOp n acq rel s).mem :=
  issue_each_wf hs rfl rfl (fun _ _ hs => hs) (fun c t x hs => by grind [State.fenceCode_mem, State.fenceEffect_wf, State.addOp_mem])
theorem execCpy_wf {s : State} (hs : Memory.wf s.mem) (d a b : Reg) : Out.MemWf (execCpy d a b s) :=
  issue_each_wf hs rfl rfl (fun _ _ hs => hs) (fun _ _ _ hs => hs)
theorem execCpy2d_wf {s : State} (hs : Memory.wf s.mem) (d a b : Reg) : Out.MemWf (execCpy2d d a b s) :=
  issue_each_wf hs rfl rfl (fun _ _ hs => hs) (fun _ _ _ hs => hs)
theorem execCpyz_wf {s : State} (hs : Memory.wf s.mem) (d b : Reg) : Out.MemWf (execCpyz d b s) :=
  issue_each_wf hs rfl rfl (fun _ _ hs => hs) (fun _ _ _ hs => hs)
theorem execCpyc_wf {s : State} (hs : Memory.wf s.mem) (d a : Reg) (k : BitVec 7) : Out.MemWf (execCpyc d a k s) :=
  issue_wf ⟨fun hs c t => by dsimp only; (repeat' split) <;> exact hs, fun hs c ts => by simpa using hs,
    fun hs c l => eachThread_wf hs c l fun _ _ _ _ hs => by simpa using hs⟩ hs
theorem bulkOp_wf {s : State} (hs : Memory.wf s.mem) (d a b : Reg) (toPeer : Bool) (red : Hints → Option AtomFn) (illegal : Hints → Bool) :
    Memory.wf (bulkOp d a b toPeer red illegal s).mem :=
  issue_each_wf hs rfl rfl (fun _ _ hs => by simpa using hs) (fun _ _ _ hs => hs)
theorem execNsig_wf {s : State} (hs : Memory.wf s.mem) (a b : Reg) : Out.MemWf (execNsig a b s) :=
  issue_each_wf hs rfl rfl (fun c t hs => by grind [State.globalAccess_mem, State.codeOut_mem, State.releasePush_wf, State.addOp_mem])
    (fun c t x hs => by grind [State.globalAccess_mem, State.codeOut_mem, State.releasePush_wf, State.addOp_mem])
theorem execNstat_wf {s : State} (hs : Memory.wf s.mem) (d a : Reg) (q : BitVec 7) : Out.MemWf (execNstat d a q s) :=
  issue_each_wf hs rfl rfl (fun _ _ hs => hs) (fun _ _ _ hs => hs)
theorem convField_wf {s : State} (hs : Memory.wf s.mem) (cls : Cls) (d a : Reg) (out : Tag) (f : Hints → Nat → Word → Word) :
    Memory.wf (convField cls d a out f s).mem :=
  issue_each_wf hs rfl rfl (fun _ _ hs => by dsimp only; (repeat' split) <;> simpa using hs) (fun _ _ _ hs => hs)
theorem tileOp_wf {s : State} (hs : Memory.wf s.mem) (f : TileForm) : Memory.wf (tileOp f s).mem :=
  issue_wf ⟨fun hs c t => by dsimp only; split <;> exact hs, fun hs c ts => by dsimp only; (repeat' split) <;> exact hs,
    fun hs c l => by dsimp only; (repeat' split) <;> simpa using hs⟩ hs
theorem execTcfg_wf {s : State} (hs : Memory.wf s.mem) (a : Reg) : Out.MemWf (execTcfg a s) :=
  issue_wf ⟨fun hs _ _ => hs, fun hs _ _ => hs, fun hs c l => by dsimp only; (repeat' split) <;> exact hs⟩ hs
theorem execRfe_wf {s : State} (hs : Memory.wf s.mem) (k : BitVec 7) : Out.MemWf (execRfe k s) :=
  issue_each_wf hs rfl rfl (fun _ _ hs => hs) (fun c t x hs => by grind [State.rfeCommand_mem, State.setThread_mem])
theorem execFrec_wf {s : State} (hs : Memory.wf s.mem) (d : Reg) (k : BitVec 7) : Out.MemWf (execFrec d k s) :=
  issue_each_wf hs rfl rfl (fun _ _ hs => hs) (fun _ _ _ hs => hs)
theorem execUnpark_wf {s : State} (hs : Memory.wf s.mem) (d a : Reg) (k : BitVec 7) : Out.MemWf (execUnpark d a k s) :=
  issue_each_wf hs rfl rfl (fun _ _ hs => by dsimp only; (repeat' split) <;> simpa using hs)
    (fun c t x hs => by grind [State.mapThread_mem, State.unparkThread_mem, State.restartCmds_mem, State.setThread_mem])
theorem execSysget_wf {s : State} (hs : Memory.wf s.mem) (d a : Reg) (n : BitVec 7) : Out.MemWf (execSysget d a n s) :=
  issue_each_wf hs rfl rfl (fun _ _ hs => by dsimp only; (repeat' split) <;> simpa using hs) (fun _ _ _ hs => hs)
theorem execSysset_wf {s : State} (hs : Memory.wf s.mem) (d a : Reg) (n : BitVec 7) : Out.MemWf (execSysset d a n s) :=
  issue_each_wf hs rfl rfl (fun _ _ hs => by dsimp only; (repeat' split) <;> simpa using hs) (fun _ _ _ hs => hs)
theorem execTlbinv_wf {s : State} (hs : Memory.wf s.mem) (d a b : Reg) : Out.MemWf (execTlbinv d a b s) :=
  issue_each_wf hs rfl rfl (fun _ _ hs => by dsimp only; (repeat' split) <;> simpa using hs)
    (fun _ _ _ hs => by dsimp only; (repeat' split) <;> simpa using hs)
theorem execTlbinva_wf {s : State} (hs : Memory.wf s.mem) (a : Reg) : Out.MemWf (execTlbinva a s) :=
  issue_each_wf hs rfl rfl (fun _ _ hs => by dsimp only; (repeat' split) <;> simpa using hs)
    (fun c t x hs => by grind [State.startInval_mem])
theorem l2wbOp_wf {s : State} (hs : Memory.wf s.mem) (a : Reg) : Memory.wf (l2wbOp a s).mem :=
  issue_each_wf hs rfl rfl (fun _ _ hs => hs) (fun _ _ _ hs => hs)
theorem execBrk_wf {s : State} (hs : Memory.wf s.mem) (k : BitVec 7) : Out.MemWf (execBrk k s) :=
  issue_each_wf hs rfl rfl (fun _ _ hs => hs) (fun c t x hs => by grind [State.send_mem])
theorem execCtxsave_wf {s : State} (hs : Memory.wf s.mem) (d a b : Reg) : Out.MemWf (execCtxsave d a b s) :=
  issue_each_wf hs rfl rfl (fun _ _ hs => hs) (fun c t x hs => by grind [State.arrive_wf, State.addOp_mem, State.mapUnit_mem])
theorem execCtxload_wf {s : State} (hs : Memory.wf s.mem) (d a b : Reg) : Out.MemWf (execCtxload d a b s) :=
  issue_each_wf hs rfl rfl (fun _ _ hs => hs) (fun c t x hs => by grind [State.loadMore_wf, State.addOp_mem])
theorem faultWord_wf {s : State} (hs : Memory.wf s.mem) (code : Nat) : Memory.wf (faultWord code s).mem :=
  issue_each_wf hs rfl rfl (fun _ _ hs => hs) (fun _ _ _ hs => hs)
theorem execIllegalEncoding_wf {s : State} (hs : Memory.wf s.mem) : Out.MemWf (execIllegalEncoding s) := by
  unfold execIllegalEncoding
  split
  · exact hs
  · split
    · exact issueHint_wf hs _ _ _ _
    · exact faultWord_wf hs _
theorem branchIf_wf {s : State} (hs : Memory.wf s.mem) (rs : List Reg) (taken : Thread → Bool) (o : BitVec 16) :
    Memory.wf (branchIf rs taken o s).mem :=
  issue_each_wf hs rfl rfl (fun _ _ hs => by dsimp only; (repeat' split) <;> simpa using hs) (fun _ _ _ hs => by simpa using hs)
theorem execCall_wf {s : State} (hs : Memory.wf s.mem) (o : BitVec 16) : Out.MemWf (execCall o s) :=
  issue_each_wf hs rfl rfl (fun _ _ hs => by simpa using hs) (fun _ _ _ hs => by simpa using hs)
theorem execBx_wf {s : State} (hs : Memory.wf s.mem) (a : Reg) : Out.MemWf (execBx a s) :=
  issue_each_wf hs rfl rfl (fun _ _ hs => by simpa using hs) (fun _ _ _ hs => by simpa using hs)
theorem execCallx_wf {s : State} (hs : Memory.wf s.mem) (a : Reg) : Out.MemWf (execCallx a s) :=
  issue_each_wf hs rfl rfl (fun _ _ hs => by simpa using hs) (fun _ _ _ hs => by simpa using hs)
theorem execRet_wf {s : State} (hs : Memory.wf s.mem) : Out.MemWf (execRet s) :=
  issue_each_wf hs rfl rfl (fun _ _ hs => by dsimp only; (repeat' split) <;> simpa using hs) (fun _ _ _ hs => by simpa using hs)
theorem execExit_wf {s : State} (hs : Memory.wf s.mem) : Out.MemWf (execExit s) :=
  issue_each_wf hs rfl rfl (fun _ _ hs => hs) (fun _ _ _ hs => hs)
theorem execYield_wf {s : State} (hs : Memory.wf s.mem) : Out.MemWf (execYield s) :=
  issue_each_wf hs rfl rfl (fun _ _ hs => hs) (fun _ _ _ hs => hs)
theorem execNop_wf {s : State} (hs : Memory.wf s.mem) : Out.MemWf (execNop s) :=
  issue_each_wf hs rfl rfl (fun _ _ hs => hs) (fun _ _ _ hs => hs)
theorem execTrap_wf {s : State} (hs : Memory.wf s.mem) (b : Reg) : Out.MemWf (execTrap b s) :=
  issue_each_wf hs rfl rfl (fun _ _ hs => hs) (fun _ _ _ hs => hs)
theorem execWait_wf {s : State} (hs : Memory.wf s.mem) (l x c t : BitVec 4) : Out.MemWf (execWait l x c t s) :=
  issue_each_wf hs rfl rfl (fun _ _ hs => by dsimp only; (repeat' split) <;> simpa using hs) (fun _ _ _ hs => hs)
theorem laneWord_wf {s : State} (hs : Memory.wf s.mem) (named : List Reg) (reads : List (Cls × Reg))
    (f : Nat → (Thread → Nat) → List Thread → Thread → Thread) :
    Memory.wf (laneWord named reads f s).mem :=
  issue_wf ⟨fun hs _ _ => hs, fun hs _ _ => hs, fun hs c l => by simpa using hs⟩ hs

/-- Every instruction and event leaves memory in its canonical form, in the order of the instruction type. -/
theorem exec_wf {s : State} (hs : Memory.wf s.mem) (i : Instr) : Out.MemWf (exec i s) := by
  cases i
  case hk | hx | hs | hq => exact issueHint_wf hs _ _ _ _
  case illegalEncoding => exact execIllegalEncoding_wf hs
  case headWordInBody => exact faultWord_wf hs _
  case br | brZ | brNz | brNeg | brNn => exact branchIf_wf hs _ _ _
  case call => exact execCall_wf hs _
  case bx => exact execBx_wf hs _
  case callx => exact execCallx_wf hs _
  case ret => exact execRet_wf hs
  case exit => exact execExit_wf hs
  case yield => exact execYield_wf hs
  case nop => exact execNop_wf hs
  case trap => exact execTrap_wf hs _
  case wait => exact execWait_wf hs _ _ _ _
  case bar | barArrive => exact barOp_wf hs _ _ _
  case barWait => exact execBarWait_wf hs _
  case movi | movu | mov | sel | movsw | tagget | tagset | tagchk | add | sub | mul | mulhI | mulhN | divI | divN | remI | remN | minI
    | maxI | minN | maxN | abs | neg | add64 | sub64 | mulwI | mulwN | mad | addsI | subsI | and | or | xor | andn | not | shl | shr |
    sha | rotl | rotr | bfeN | bfeI | bfi | popc | clz | ctz | brev | dshl | dshr | dsha | eq | ne | ltI | leI | ltN | leN | eq64 |
    ne64 | lt64I | lt64N | lea | leaN | addi | andi | ori | xori | shiShl | shiShr | shiSha | shiRotl | cmpiEq | cmpiNe | cmpiLtI |
    cmpiLeI | cmpiLtN | cmpiLeN | muli | leai | fadd | fsub | fmul | fma | fmin | fmax | fabs | fneg | fcmpEq | fcmpLt | fcmpLe |
    fcmpUn | fclass | frnd | frcp | frsq | fsqrt | fexp2 | flog2 | fdiv | dadd | dsub | dmul | dfma | dmin | dmax | dcmpEq | dcmpLt |
    dcmpLe | ddiv | dsqrt | hadd | hmul | hfma | hmin | hmax | badd | bmul | bfma | bmin | bmax | hdot | bdot | cvtF32I32 | cvtF32N32
    | cvtI32F32 | cvtN32F32 | cvtF64F32 | cvtF32F64 | cvtH2F32 | cvtB2F32 | cvtF32H2lo | cvtF32H2hi | cvtF32B2lo | cvtF32B2hi |
    cvtF64I32 | cvtI32F64 | qnt | dqnt | lpack | lunpk | lscale | ldot | lmul =>
    exact regWord_wf hs _ _ _ _
  case movs => exact execMovs_wf hs _ _
  case bcast | shfl | shfx | shfup | shfdn | voteAny | voteAll | voteMask | gredAdd | gredMin | gredMax | gredFadd | gscanAdd |
    gscanFadd | gfirst =>
    exact laneWord_wf hs _ _ _
  case cvtF32Cq | cvtCqF32 => exact convField_wf hs _ _ _ _ _
  case ld | ldq | ldacq => exact loadOp_wf hs _ _ _ _ _ _ _ _ _
  case st | stq | strel => exact storeOp_wf hs _ _ _ _ _ _
  case pf => exact execPf_wf hs _ _ _
  case fenceAcq | fenceRel | fenceAr => exact fenceOp_wf hs _ _ _
  case atomAdd | atomSub | atomAnd | atomOr | atomXor | atomMinI | atomMaxI | atomMinN | atomMaxN | atomXchg | atomIncw | atomDecw |
    atomFadd | atomAdd64 | atomXchg64 | atomnAdd | atomnSub | atomnAnd | atomnOr | atomnXor | atomnMinI | atomnMaxI | atomnMinN |
    atomnMaxN | atomnXchg | atomnIncw | atomnDecw | atomnFadd | atomnAdd64 | atomnXchg64 | cas | cas64 =>
    exact atomOp_wf hs _ _ _ _ _
  case cpy => exact execCpy_wf hs _ _ _
  case cpy2d => exact execCpy2d_wf hs _ _ _
  case cpyc => exact execCpyc_wf hs _ _ _
  case cpyz => exact execCpyz_wf hs _ _
  case crinit => exact execCrinit_wf hs _ _
  case crtake => exact execCrtake_wf hs _ _
  case crgive => exact execCrgive_wf hs _ _
  case crclaim => exact execCrclaim_wf hs _ _
  case crpost => exact execCrpost_wf hs _ _
  case crtest => exact execCrtest_wf hs _ _
  case crstat => exact execCrstat_wf hs _ _
  case craddr => exact execCraddr_wf hs _ _ _
  case fsel => exact execFsel_wf hs _
  case xfer => exact execXfer_wf hs _ _ _
  case fld => exact execFld_wf hs _ _
  case ftot => exact execFtot_wf hs _ _ _
  case fdecl => exact execFdecl_wf hs _ _
  case fchk => exact execFchk_wf hs _ _
  case finfo => exact execFinfo_wf hs _ _ _
  case app | app64 | appq | free | aopen | atail | astate => exact asealOp_wf hs _ _ _ _ _ _ _ _ _
  case tcfg => exact execTcfg_wf hs _
  case tlda | tldaGather | tldb | tldbGather | tmma | tzero | tdrain | tstacc | tstaccGather => exact tileOp_wf hs _
  case nput | nget | nred => exact bulkOp_wf hs _ _ _ _ _ _
  case nstat => exact execNstat_wf hs _ _ _
  case nsig => exact execNsig_wf hs _ _
  case rfe => exact execRfe_wf hs _
  case frec => exact execFrec_wf hs _ _
  case unpark => exact execUnpark_wf hs _ _ _
  case sysget => exact execSysget_wf hs _ _ _
  case sysset => exact execSysset_wf hs _ _ _
  case tlbinv => exact execTlbinv_wf hs _ _ _
  case tlbinva => exact execTlbinva_wf hs _
  case l2wbRemotePush | l2wbHomeWriteback => exact l2wbOp_wf hs _
  case ctxsave => exact execCtxsave_wf hs _ _ _
  case ctxload => exact execCtxload_wf hs _ _ _
  case brk => exact execBrk_wf hs _
  case lch => exact execLch_wf hs _ _
  case lcancel => exact execLcancel_wf hs _
  case lcnt => exact execLcnt_wf hs _ _ _
  case lwaitc => exact execLwaitc_wf hs _ _
  case pmreq => exact execPmreq_wf hs _ _
  case formStrand => exact execFormStrand_wf hs _ _
  case overflowQueueMove => exact execOverflowQueueMove_wf hs _
  case spillEntry => exact execSpillEntry_wf hs _
  case bankReadRetry => exact execBankReadRetry_wf hs _
  case loadComplete => exact execLoadComplete_wf hs _ _
  case storeComplete => exact execStoreComplete_wf hs _
  case atomicBatchArrival => exact execAtomicBatchArrival_wf hs _ _
  case atomicComplete => exact execAtomicComplete_wf hs _
  case deltaWriteHome => exact execDeltaWriteHome_wf hs _ _
  case remoteEviction => exact execRemoteEviction_wf hs _ _
  case fenceComplete => exact execFenceComplete_wf hs _
  case peerReleaseTimeout => exact execPeerReleaseTimeout_wf hs _
  case pageWalkStart => exact execPageWalkStart_wf hs _
  case pageWalkComplete => exact execPageWalkComplete_wf hs _
  case tlbInvalidateComplete => exact execTlbInvalidateComplete_wf hs _
  case copyComplete => exact execCopyComplete_wf hs _ _
  case creelOverflowEnter => exact execCreelOverflowEnter_wf hs _ _
  case stallRecord => exact execStallRecord_wf hs _
  case xferCoordinatorRequest => exact execXferCoordinatorRequest_wf hs _
  case lockEntryGrant => exact execLockEntryGrant_wf hs _
  case xferSecondLock => exact execXferSecondLock_wf hs _
  case xferCommit => exact execXferCommit_wf hs _
  case xferUnlock => exact execXferUnlock_wf hs _
  case xferAcknowledge => exact execXferAcknowledge_wf hs _
  case counterSetUpdate => exact execCounterSetUpdate_wf hs _
  case xferComplete => exact execXferComplete_wf hs _
  case cellReadServed => exact execCellReadServed_wf hs _
  case ftotHoldTimeout => exact execFtotHoldTimeout_wf hs _
  case fdeclHomeComplete => exact execFdeclHomeComplete_wf hs _
  case appendBatchServe => exact execAppendBatchServe_wf hs _
  case appendDataWrite => exact execAppendDataWrite_wf hs _
  case tailReadServe => exact execTailReadServe_wf hs _
  case sealServe => exact execSealServe_wf hs _
  case sealComplete => exact execSealComplete_wf hs _
  case freeServe => exact execFreeServe_wf hs _
  case freeReclaim => exact execFreeReclaim_wf hs _
  case replicaReclaim => exact execReplicaReclaim_wf hs _ _
  case reclaimAck => exact execReclaimAck_wf hs _ _
  case freeShootdown => exact execFreeShootdown_wf hs _
  case freeReopen => exact execFreeReopen_wf hs _
  case aopenServe => exact execAopenServe_wf hs _
  case replicaFill => exact execReplicaFill_wf hs _
  case tileCommandStart => exact execTileCommandStart_wf hs _ _
  case tileBlockArrival => exact execTileBlockArrival_wf hs _
  case tileCommandRetire => exact execTileCommandRetire_wf hs _
  case drainLineArrival => exact execDrainLineArrival_wf hs _
  case mergeBufferEntryGrant => exact execMergeBufferEntryGrant_wf hs _
  case peerRequestReceive => exact execPeerRequestReceive_wf hs _
  case peerResponseReceive => exact execPeerResponseReceive_wf hs _
  case requestResendTimeout => exact execRequestResendTimeout_wf hs _
  case flitReceive => exact execFlitReceive_wf hs _ _
  case allowanceReturn => exact execAllowanceReturn_wf hs _ _ _ _
  case resyncBeatSend => exact execResyncBeatSend_wf hs _
  case resyncBeatReceive => exact execResyncBeatReceive_wf hs _ _ _ _
  case escapeTimeout => exact execEscapeTimeout_wf hs _
  case linkRetrain => exact execLinkRetrain_wf hs _
  case linkLock => exact execLinkLock_wf hs _ _ _
  case linkTrainingTimeout => exact execLinkTrainingTimeout_wf hs _
  case linkTrainingRetry => exact execLinkTrainingRetry_wf hs
  case routingTableRewrite => exact execRoutingTableRewrite_wf hs _
  case opticalReconfiguration => exact execOpticalReconfiguration_wf hs _ _
  case waymark => exact execWaymark_wf hs _ _
  case waymarkEcho => exact execWaymarkEcho_wf hs _ _
  case switchSettled => exact execSwitchSettled_wf hs
  case placeUnit => exact execPlaceUnit_wf hs _
  case unitEnd => exact execUnitEnd_wf hs _
  case preemptUnit => exact execPreemptUnit_wf hs _ _
  case saveUnitComplete => exact execSaveUnitComplete_wf hs _
  case restoreUnit => exact execRestoreUnit_wf hs _
  case hostQuery => exact execHostQuery_wf hs _
  case queryReply => exact execQueryReply_wf hs _ _
  case acknowledgement => exact execAcknowledgement_wf hs _
  case createObject | closeObject | launchMessage | cancelMessage | preemptMessage | countReadMessage | systemRegisterMessage |
    stateRequest | attestationRequest | firmwareImage | checkpoint | debugRequest =>
    exact State.receive_wf hs _
  case messageResendTimeout => exact execMessageResendTimeout_wf hs
  case clehildRestart => exact execClehildRestart_wf hs
  case moduleReset => exact execModuleReset_wf hs
  case powerGrant => exact execPowerGrant_wf hs _ _ _
  case powerGrantTimeout => exact execPowerGrantTimeout_wf hs _
  case softErrorCorrected => exact execSoftErrorCorrected_wf hs _
  case uncorrectableStateError => exact execUncorrectableStateError_wf hs _ _
  case wvFairWrite | dsWinWrite | trRootWrite | trWaysWrite | trWalkWrite | scopeCtlWrite | scopeMaskWrite | crOvbaseWrite |
    crOvctlWrite | hpBaseWrite | hpSizeWrite | fabCtagWrite | fabExpWrite | tenQuotaWrite | tenCoresWrite | registerWrite =>
    exact sysEvent_wf hs _ _
  case flitAcknowledgement => exact execFlitAcknowledgement_wf hs _ _
  case counterSetAcknowledgement => exact execCounterSetAcknowledgement_wf hs _
  case replicaPageDrop => exact execReplicaPageDrop_wf hs _
  case l2wbComplete => exact execL2wbComplete_wf hs _
  -- what is left is the instruction whose name Lean reserves
  · exact asealOp_wf hs _ _ _ _ _ _ _ _ _

theorem finishOut_wf {o : Out} (h : Out.MemWf o) : Out.MemWf (finishOut o) := by
  cases o with
  | next s => exact State.finish_wf h
  | fault f => trivial
  | refused r => trivial

theorem State.take_wf {s : State} (hs : Memory.wf s.mem) (t : Turn) : Out.MemWf (s.take t) := by
  have hb : Memory.wf (s.begin t).mem := by simpa using hs
  unfold State.take
  dsimp only
  split
  · exact State.finish_wf hb
  · split
    · exact finishOut_wf (exec_wf (by simpa using hb) _)
    · exact State.finish_wf hb

/-- The agenda's next turn, or what a core owes before it, leaves memory in its canonical form. -/
theorem step_wf {s : State} (hs : Memory.wf s.mem) : Out.MemWf (step s) := by
  unfold step
  dsimp only
  split
  · split
    · exact finishOut_wf (exec_wf (s := { s with issuing := 0 }) hs _)
    · exact State.take_wf hs _
  · exact State.take_wf hs _

/-- Settles O55: every instruction and event writes memory at homes alone, a byte at a time, or drops bytes of it; the rest of a step leaves it as
it is. -/
theorem memoryStaysCanonical : Obligations.MemoryStaysCanonical := by
  intro s s' hs hstep
  have h := step_wf hs
  rwa [hstep] at h

/-- Settles O54: memory lists no byte after reset. -/
theorem memoryIsCanonicalAtReset : Obligations.MemoryIsCanonicalAtReset := ⟨State.reset_mem_wf, fun _ => rfl⟩

end Sys2Proof.Machine

/-!
# Signals and the status of the fabric (14 R332, R333)
-/
namespace Sys2Proof.Machine

theorem OnlyCaches.bulkBefore {s s' : State} (h : OnlyCaches s s') (t : Thread) : s'.bulkBefore t = s.bulkBefore t := by
  rw [State.bulkBefore, h.ops]; rfl

theorem OnlyCaches.operand {s s' : State} (h : OnlyCaches s s') (t : Thread) (k : Cls) (r : Reg) : s'.operand t k r = s.operand t k r := by
  rw [State.operand, h.fieldFrac]; rfl

theorem nsig_acts (a b : Reg) : Acts (.nsig a b) (fun _ => pairRegs a ++ [b]) (fun _ => [(.int64, a), (.int, b)])
    (fun _ s t => t.full .st = false ∧ s.holds t .quiet = true ∧ s.bulkBefore t = none ∧
      ∃ s1 acc, s.globalAccess t (t.pair a) 8 0 none needStore = (s1, .ok acc))
    (fun c s t =>
      let r := s.globalAccess t (t.pair a) 8 0 none needStore
      match r.2 with
      | .ok acc =>
        let q := (r.1.releasePush t.core 3).codeOut t 11
        q.addOp (q.newOp c t .st (.atomic acc .add64 ((s.operand t .int b).setWidth 64) 0 (atomPlace t.modeD 3 acc) false))
      | .error _ => s) := by
  refine Acts.of_subset (named' := fun _ => pairNames a ++ [b]) (Acts.of_issue (fun _ => rfl) rfl (fun _ => rfl) ?_) fun _ _ => by simp
  rintro s st t h - - ⟨hroom, hquiet, hbulk, s', acc, hpair⟩
  have hcaches := State.globalAccess_ok hpair
  have hquiet' : (!s'.holds t .quiet) = false := by simpa [hcaches.holds_quiet] using hquiet
  have hthreads : (s'.releasePush t.core 3).threads = s.threads := (s'.releasePush_onlyHomes t.core 3).threads.trans hcaches.threads
  refine ⟨acc, s', rfl, Level.allows_user _, rfl, rfl, ?_, rfl, hcaches.threads, ?_, ?_⟩
  · simp only [hroom, hpair, hquiet', hcaches.bulkBefore, hbulk, Bool.false_eq_true, if_false]
  · simp only [hpair, ← hcaches.operand]
    rfl
  · simp only [hpair, State.isSome_thread?_addOp]
    exact Option.isSome_of_eq_some ((congrArg (List.find? _) hthreads).trans h.thread)

theorem nstat_acts_of_operand (d a : Reg) {q : BitVec 7} (hq : q ≠ 2) :
    Acts (.nstat d a q) (fun _ => [d, a]) (fun _ => [(.int, a)]) (fun _ _ _ => True)
      (fun _ s t => s.setThread (t.setReg d (s.statusOf q.toNat (s.operand t .int a)) .int)) := by
  refine Acts.of_checks (fun _ => rfl) rfl (fun _ => by simp only [if_neg hq]) (fun _ _ h => by rwa [if_neg hq] at h) (fun _ => rfl) ?_
  exact fun c s t _ => ⟨(), rfl, rfl, by simp only [if_neg hq]; rfl, State.isSome_thread?_setThread _ _⟩

theorem nstat_acts_of_module (d a : Reg) : Acts (.nstat d a 2) (fun _ => [d]) (fun _ => []) (fun _ _ _ => True)
    (fun _ s t => s.setThread (t.setReg d (s.statusOf 2 0) .int)) :=
  Acts.of_checks (fun _ => rfl) rfl (fun _ => rfl) (fun _ _ => id) (fun _ => rfl) fun _ _ _ _ =>
    ⟨(), rfl, rfl, rfl, State.isSome_thread?_setThread _ _⟩

theorem State.statusOf_link (s : State) (x : Word) :
    s.statusOf (BitVec.toNat (0 : BitVec 7)) x = if x.toNat < 47 then (s.link x.toNat).word else 0xFFFFFFFF := by
  by_cases hx : x.toNat < 47 <;> simp [State.statusOf, linkOk, Config.links, hx]

/-- Settles O33: `nstat` reads the word that its query names. -/
theorem signalsAndFabricStatus : Obligations.SignalsAndFabricStatus := by
  intro d a b
  refine ⟨nsig_acts a b, ?link, nstat_acts_of_operand d a (by decide), nstat_acts_of_module d a⟩
  case link =>
    intro s st t halone hmore hready hok
    rw [nstat_acts_of_operand d a (q := 0) (by decide) s st t halone hmore hready hok]
    simp only [State.statusOf_link]

end Sys2Proof.Machine

/-!
# System instructions (16 R358 to R360, R362, R369)
-/
namespace Sys2Proof.Machine

/-! ### The threads of the machine stay -/

theorem State.isSome_thread?_mapThread (s : State) (k : Nat) {f : Thread → Thread} (hf : ∀ t, (f t).tid = t.tid) (n : Nat) :
    ((s.mapThread k f).thread? n).isSome = (s.thread? n).isSome := by
  rw [State.thread?_mapThread _ _ _ _ hf, Option.isSome_map]

theorem State.isSome_thread?_setWaiting (s : State) (u : Thread) (w : Wait) (n : Nat) :
    ((s.setWaiting u w).thread? n).isSome = (s.thread? n).isSome :=
  State.isSome_thread?_setThread s _ n

theorem State.isSome_thread?_enter (s : State) (k : Nat) (w : Wait) (n : Nat) :
    ((s.enter k w).thread? n).isSome = (s.thread? n).isSome := by
  unfold State.enter
  split
  · rfl
  · split
    · exact State.isSome_thread?_setWaiting s _ w n
    · split
      · split
        · rfl
        · exact State.isSome_thread?_setWaiting _ _ w n
      · exact State.isSome_thread?_setThread s _ n

theorem State.isSome_thread?_resumeAt (s : State) (k : Nat) (pc : Pair) (b : Block) (n : Nat) :
    ((s.resumeAt k pc b).thread? n).isSome = (s.thread? n).isSome := by
  rw [State.resumeAt, State.enterAt, State.isSome_thread?_enter, State.isSome_thread?_mapThread]
  exact fun _ => rfl

theorem State.isSome_thread?_unparkThread (s : State) (u : Thread) (k n : Nat) :
    ((s.unparkThread u k).thread? n).isSome = (s.thread? n).isSome := by
  rw [State.unparkThread, State.isSome_thread?_resumeAt, State.isSome_thread?_setThread]

/-! ### `rfe` (16 R358, R359) -/

section
variable {s : State} {st : Strand} {t : Thread} (h : Alone s st t) (n : BitVec 7)
include h

/-- A return to the point that the thread's handler names. -/
theorem Alone.rfe_returns {u : Thread} {pc : Pair} {b : Block} (hret : t.returnPoint n.toNat = some (u, pc, b)) :
    exec (.rfe n) s = .next (((((s.atWord st).setThread u).rfeCommand t n.toNat).endStrand st).enterAt t.tid pc
      ((s.atWord st).landing t.tid pc b) .none) := by
  refine congrArg Host.Outcome.next ((h.issue_leaves (s2 := s.atWord st) (x := ()) (a := .jump pc ((s.atWord st).landing t.tid pc b)) rfl rfl rfl
    (OperandsReady.empty s t) rfl rfl rfl rfl ?_ rfl rfl).trans (State.leaveOne_place _ _ _ _ rfl))
  simp only [hret]

/-- Outside a handler `rfe` faults. -/
theorem Alone.rfe_faults (hret : t.returnPoint n.toNat = none) : exec (.rfe n) s = .next (s.faults st t { code := 0x0207 }) := by
  refine congrArg Host.Outcome.next ?_
  rw [h.issue_ok (s2 := s.atWord st) (s3 := s.atWord st) (x := ()) rfl (Level.allows_user _) rfl (OperandsReady.empty s t) rfl rfl h.threads h.thread rfl]
  simp only [hret]
  exact h.finish_fault (by decide)

end

theorem Thread.resumePoint_eq (t : Thread) (n : BitVec 7) :
    t.resumePoint n.toNat = if t.record.onCompletion = true ∨ t.record.word = 0 ∨ n = 0 then t.parkPoint else t.record.runEnd := by
  have hn : n.toNat = 0 ↔ n = 0 := BitVec.toNat_inj (y := 0)
  simp [Thread.resumePoint, hn, or_assoc]

/-! ### `unpark`, `sysget`, `sysset` and `brk` (16 R360, R362, R369) -/

/-- A word of any level whose thread has the level, whose checks leave the state as it is, and whose action keeps every thread. -/
theorem Acts.of_levelled {α : Type} {i : Instr} {named : Hints → List Reg} {reads : Hints → List (Cls × Reg)} {ok : Ctx → State → Thread → Prop}
    {f : Ctx → State → Thread → State} {m : Meaning α} {F : State → Ctx → Thread → α → State × After}
    (hi : ∀ s, exec i s = .next (issue m s)) (hact : m.act = eachThread F) (hnamed : ∀ h, (m.shape h).named = named h)
    (hreads : ∀ h, (m.shape h).reads = reads h) (hpast : ∀ h, (m.shape h).past = none) (hmis : ∀ c, m.misplaced c = false)
    (h : ∀ c s t, ok c s t → t.level.allows (m.shape c.hints).level = true ∧ ∃ x, m.pre s c t = (s, .ok x) ∧ m.group s c [t] = (s, none) ∧
      F s c t x = (f c s t, .go) ∧ ∀ n, ((f c s t).thread? n).isSome = (s.thread? n).isSome) :
    Acts i named reads ok f := by
  refine Acts.of_issue hi hact hpast ?_
  intro s st t ha _ _ hok
  obtain ⟨hlevel, x, hpre, hgroup, hF, hkeeps⟩ := h _ _ _ hok
  exact ⟨x, s.atWord st, hmis _, hlevel, hnamed _, hreads _, hpre, hgroup, rfl, hF, (hkeeps _).trans (Option.isSome_of_eq_some ha.thread)⟩

theorem State.not_foreignThread {s : State} {t : Thread} (h : t.level = .hypervisor) (u : Thread) : s.foreignThread t u = false := by
  simp [State.foreignThread, h]

theorem State.not_foreignSlot {s : State} {t : Thread} (h : t.level = .hypervisor) (n : Nat) (sel : Word) :
    s.foreignSlot t n sel = false := by
  simp [State.foreignSlot, h]

theorem State.not_sysDenied {s : State} {t : Thread} (h : t.level = .hypervisor) (n : Nat) (sel : Word) : s.sysDenied t n sel = false := by
  simp [State.sysDenied, State.not_foreignSlot h, h]

section
variable (d a : Reg) (n : BitVec 7)

theorem frec_acts : Acts (.frec d n) (fun _ => [d]) (fun _ => []) (fun _ _ _ => True)
    (fun _ s t => s.setThread (t.setReg d (t.recordWords.getD n.toNat 0) .int)) :=
  Acts.of_checks (fun _ => rfl) rfl (fun _ => rfl) (fun _ _ => id) (fun _ => rfl) fun _ _ _ _ =>
    ⟨(), rfl, rfl, rfl, State.isSome_thread?_setThread _ _⟩

/-- The check of `unpark` passes for a hypervisor, whatever the locator names. -/
theorem unpark_passes {s : State} {t : Thread} (h : t.level = .hypervisor) (w : Word) :
    (match s.located w with
      | some u => if s.foreignThread t u then (s, (Except.error (Stop.fault { code := 0x0B01 }) : Except Stop Unit)) else (s, .ok ())
      | none => (s, .ok ())) = (s, .ok ()) := by
  split
  · rw [State.not_foreignThread h]
    rfl
  · rfl

theorem unpark_acts_parked (u : Thread) : Acts (.unpark d a n) (fun _ => [d, a]) (fun _ => [(.int, a)])
    (fun _ s t => t.level = .hypervisor ∧ s.located (s.operand t .int a) = some u ∧ u.state = .parked)
    (fun _ s t => ((s.restartCmds u).unparkThread u n.toNat).mapThread t.tid (fun t => t.setReg d 1 .int)) := by
  refine Acts.of_levelled (fun _ => rfl) rfl (fun _ => rfl) (fun _ => rfl) (fun _ => rfl) (fun _ => rfl) ?_
  rintro c s t ⟨hlevel, hlocated, hparked⟩
  have hfound : (s.located (s.intOf t a)).filter (fun u => u.state == .parked) = some u := by
    rw [State.intOf_eq_operand, hlocated]
    simp [hparked]
  refine ⟨Level.allows_of_hypervisor hlevel _, (), unpark_passes hlevel _, rfl, ?_, fun m => ?_⟩
  · simp only [hfound]
  · rw [State.isSome_thread?_mapThread, State.isSome_thread?_unparkThread]
    · rfl
    · exact fun _ => rfl

theorem unpark_acts_other : Acts (.unpark d a n) (fun _ => [d, a]) (fun _ => [(.int, a)])
    (fun _ s t => t.level = .hypervisor ∧ ∀ u, s.located (s.operand t .int a) = some u → u.state ≠ .parked)
    (fun _ s t => s.setThread (t.setReg d 0 .int)) := by
  refine Acts.of_levelled (fun _ => rfl) rfl (fun _ => rfl) (fun _ => rfl) (fun _ => rfl) (fun _ => rfl) ?_
  rintro c s t ⟨hlevel, hother⟩
  have hnone : (s.located (s.intOf t a)).filter (fun u => u.state == .parked) = none := by
    rw [State.intOf_eq_operand, Option.filter_eq_none_iff]
    simpa using hother
  refine ⟨Level.allows_of_hypervisor hlevel _, (), unpark_passes hlevel _, rfl, ?_, State.isSome_thread?_setThread _ _⟩
  simp only [hnone]

theorem sysget_acts : Acts (.sysget d a n) (fun _ => [d, a]) (fun _ => [(.int, a)])
    (fun _ s t => t.level = .hypervisor ∨ (t.level = .supervisor ∧ s.foreignSlot t n.toNat (s.operand t .int a) = false))
    (fun _ s t => s.setThread (t.setReg d (s.sysRead n.toNat (s.operand t .int a)) .int)) := by
  refine Acts.of_levelled (fun _ => rfl) rfl (fun _ => rfl) (fun _ => rfl) (fun _ => rfl) (fun _ => rfl) ?_
  intro c s t hallowed
  have hlevel : t.level ≠ .user := by rcases hallowed with h | ⟨h, -⟩ <;> simp [h]
  have hown : s.foreignSlot t n.toNat (s.operand t .int a) = false := hallowed.elim (fun h => State.not_foreignSlot h _ _) And.right
  exact ⟨Level.allows_supervisor hlevel, (), if_neg (Bool.eq_false_iff.mp hown), rfl, rfl, State.isSome_thread?_setThread _ _⟩

/-- A hypervisor whose operations have completed puts the write in flight and waits for it at the word after. -/
theorem Alone.sysset_waits {s : State} {st : Strand} {t : Thread} (h : Alone s st t) (hready : OperandsReady s t [d, a] [(.int, a)])
    (hlevel : t.level = .hypervisor) (hquiet : s.holds t .quiet = true) :
    let q := (s.atWord st).addOp ((s.atWord st).newOp (s.ctx st) t .none (.sysWrite n.toNat (s.operand t .int a) (t.val d)))
    exec (.sysset d a n) s = .next ((q.endStrand st).enterAt t.tid (st.pc + 4) (q.landing t.tid (st.pc + 4) st.blk)
      (.op (s.atWord st).nextId)) := by
  have hdenied := Bool.eq_false_iff.mp (State.not_sysDenied (s := s.atWord st) hlevel n.toNat ((s.atWord st).intOf t a))
  have hquiet' : ¬ (!(s.atWord st).holds t .quiet) = true := by
    rw [show (s.atWord st).holds t .quiet = s.holds t .quiet from rfl, hquiet]
    decide
  have hoperand : s.operand t .int a = (s.atWord st).intOf t a := by
    rw [State.intOf_eq_operand, State.operand, State.operand, State.fieldFrac_atWord]
  rw [hoperand]
  refine congrArg Host.Outcome.next ?_
  rw [h.issue_ok (s2 := s.atWord st) (s3 := s.atWord st) (x := ()) rfl (Level.allows_of_hypervisor hlevel _) rfl hready
    ((if_neg hdenied).trans (if_neg hquiet')) rfl h.threads h.thread rfl]
  exact finish_splitOp s _ st t _

theorem brk_acts_nop : Acts (.brk n) (fun _ => []) (fun _ => []) (fun _ s _ => s.sec = .tenant ∨ s.dbg = .off) (fun _ s _ => s) :=
  Acts.of_checks (fun _ => rfl) rfl (fun _ => rfl) (fun _ _ => id) (fun _ => rfl) fun _ _ _ hoff =>
    ⟨(), rfl, rfl, if_pos (by simpa using hoff), fun _ => rfl⟩

theorem brk_acts_observe : Acts (.brk n) (fun _ => []) (fun _ => []) (fun _ s _ => s.sec ≠ .tenant ∧ s.dbg = .observe)
    (fun c s t => s.send 0x43 (s.slotOf t) [t.locator, loWord c.pc, hiWord c.pc, n.setWidth 32]) :=
  Acts.of_checks (fun _ => rfl) rfl (fun _ => rfl) (fun _ _ => id) (fun _ => rfl) fun _ _ _ ⟨hsec, hdbg⟩ =>
    ⟨(), rfl, rfl, (if_neg (by simp [hsec, hdbg])).trans (if_pos (by simp [hdbg])), fun _ => rfl⟩

theorem Alone.brk_halts {s : State} {st : Strand} {t : Thread} (h : Alone s st t) (hsec : s.sec ≠ .tenant) (hdbg : s.dbg = .halt) :
    exec (.brk n) s = .next (s.faults st t { code := 0x0206, aux := n.setWidth 32 }) := by
  refine congrArg Host.Outcome.next ?_
  rw [h.issue_ok (s2 := s.atWord st) (s3 := s.atWord st) (x := ()) rfl (Level.allows_user _) rfl (OperandsReady.empty s t) rfl rfl
    h.threads h.thread rfl]
  have hsec' : (s.atWord st).sec ≠ .tenant := hsec
  have hdbg' : (s.atWord st).dbg = .halt := hdbg
  rw [if_neg (by simp [hsec', hdbg']), if_neg (by simp [hdbg'])]
  exact h.finish_fault (by show (0x0206 : Nat) ≠ 0x0901; decide)

end

/-- Settles O29: each instruction acts as its own lemma says; `rfe` returns from the emulation block before the fault handler. -/
theorem systemInstructions : Obligations.SystemInstructions := by
  intro d a n
  refine ⟨?rfe, frec_acts d n, unpark_acts_parked d a n, unpark_acts_other d a n, sysget_acts d a n,
    fun s st t h hready hlevel hquiet => h.sysset_waits d a n hready hlevel hquiet, brk_acts_nop n, brk_acts_observe n,
    fun s st t h hsec hdbg => h.brk_halts n hsec hdbg⟩
  case rfe =>
    intro s st t h
    have hn : n.toNat = 0 ↔ n = 0 := BitVec.toNat_inj (y := 0)
    have hne : (n.toNat != 0) = (n != 0) := Bool.eq_iff_iff.mpr (by simp [hn])
    refine ⟨fun hemul => ?emulation, fun hemul hhandler => ?handler, fun hemul hhandler => h.rfe_faults n ?outside⟩
    case emulation =>
      rw [h.rfe_returns n (by simp only [Thread.returnPoint, hemul, if_true]; rfl)]
      simp only [State.rfeCommand, hemul, if_true, hn]
    case handler =>
      rw [h.rfe_returns n (by simp only [Thread.returnPoint, hemul, hhandler, if_true, Bool.false_eq_true, if_false]; rfl)]
      simp only [State.rfeCommand, hemul, Bool.false_eq_true, if_false, Thread.resumePoint_eq, hne]
    case outside => simp only [Thread.returnPoint, hemul, hhandler, Bool.false_eq_true, if_false]

end Sys2Proof.Machine

/-!
# The writes of system registers (16 R361 to R364; 08 R193, 09 R195, R196, 10 R233, 12 R278, 14 R316, 15 R349, R350)
-/
namespace Sys2Proof.Machine

/-! ### The write of a `sysset` arrives -/

theorem sysEvent_arrives {s : State} {o : Op} {n : Nat} {sel v : Word} {ns : List Nat} (ho : s.op? o.id = some o)
    (hkind : o.kind = .sysWrite n sel v) (hn : n ∈ ns) : sysEvent ns o.id s = .next ((s.sysWrite n sel v).arrive o.id id) := by
  simp only [sysEvent, ho, hkind, List.contains_iff_mem.mpr hn, if_true]

/-! ### Where the written word lands -/

theorem State.sysWrite_of_badSelector (s : State) {n : Nat} {sel : Word} (h : selOk n sel = false) (v : Word) : s.sysWrite n sel v = s := by
  simp [State.sysWrite, h]

theorem State.sysRead_of_badSelector (s : State) {n : Nat} {sel : Word} (h : selOk n sel = false) : s.sysRead n sel = 0 := by
  simp [State.sysRead, h]

theorem State.sysWrite_of_held {s : State} (hsec : s.sec = .tenant) {n : Nat} (hn : tenantHeld n = true) (sel v : Word) :
    s.sysWrite n sel v = s := by
  simp [State.sysWrite, hsec, hn]

/-- A write that the state of the module does not hold back stores the whole register with the word replaced. -/
theorem State.sysWrite_eq {s : State} {n : Nat} {sel : Word} (hsel : selOk n sel = true) (hfree : s.sec = .tenant → tenantHeld n = false)
    (v : Word) : s.sysWrite n sel v = s.sysStore n (selSlot sel) (selUnit sel) (s.sysMerged n sel v) := by
  refine if_neg ?_
  by_cases hsec : s.sec = .tenant
  · simp [hsel, hfree hsec]
  · simp [hsel, hsec]

theorem State.sysWrite_readOnly (s : State) {n : Nat} (hn : n ∈ [15, 16, 17]) (sel v : Word) : s.sysWrite n sel v = s := by
  have hstore : ∀ slot unit x, s.sysStore n slot unit x = s := by
    intro slot unit x
    fin_cases hn <;> rfl
  rw [State.sysWrite, hstore, ite_self]

/-- A register of one word: every bit of the new value below bit 32 is the written word's. -/
theorem State.sysMerged_oneWord {n : Nat} {sel : Word} (hsel : selOk n sel = true) (hwords : sysWords n = 1) (s : State) (v : Word) :
    s.sysMerged n sel v % 2 ^ 32 = v.toNat := by
  have hword : selWord sel = 0 := by
    simp only [selOk, hwords, Bool.and_eq_true, decide_eq_true_eq] at hsel
    omega
  have hv := v.isLt
  simp only [State.sysMerged, hword]
  omega

/-- A field of a one-word register, at a place and of a length that lie below bit 32. -/
theorem State.sysMerged_field {n : Nat} {sel : Word} (hsel : selOk n sel = true) (hwords : sysWords n = 1) (s : State) (v : Word)
    {p k : Nat} (h : p + k ≤ 32) : s.sysMerged n sel v / 2 ^ p % 2 ^ k = v.toNat / 2 ^ p % 2 ^ k := by
  rw [← State.sysMerged_oneWord hsel hwords s v]
  simp only [← Nat.shiftRight_eq_div_pow]
  apply Nat.eq_of_testBit_eq
  intro i
  simp only [Nat.testBit_mod_two_pow, Nat.testBit_shiftRight]
  by_cases hi : i < k
  · simp [hi, show p + i < 32 by omega]
  · simp [hi]

theorem State.sysMerged_low {n : Nat} {sel : Word} (hsel : selOk n sel = true) (hwords : sysWords n = 1) (s : State) (v : Word)
    {k : Nat} (h : k ≤ 32) : s.sysMerged n sel v % 2 ^ k = v.toNat % 2 ^ k := by
  simpa using State.sysMerged_field hsel hwords s v (p := 0) (by omega)

theorem testBit_eq_div_mod (x k : Nat) : (x / 2 ^ k % 2 == 1) = x.testBit k := by
  rw [Nat.testBit_eq_decide_div_mod_eq]; rfl

theorem systemRegisterWritesArrive : Claims.SystemRegisterWritesArrive := by
  intro s o n sel v ho hkind
  refine ⟨?_, ?_, ?_, ?_, ?_, ?_, ?_, ?_, ?_, ?_, ?_, ?_, ?_, ?_, ?_, fun hn => ?_⟩
  rotate_right
  · exact (sysEvent_arrives ho hkind hn).trans (by rw [State.sysWrite_readOnly s hn])
  all_goals exact fun hn => sysEvent_arrives ho hkind (List.mem_singleton.mpr hn)

/-! ### Registers of one word -/

section
variable {s : State} {sel : Word} (v : Word)

theorem State.sysWrite_fair (hsel : selOk 0 sel = true) : s.sysWrite 0 sel v =
    if 32 ≤ v.toNat % 65536 then s.mapCore (selUnit sel) (fun c => { c with fair := v.toNat % 65536 }) else s := by
  rw [State.sysWrite_eq hsel (fun _ => rfl)]
  simp only [State.sysStore, State.sysMerged_low hsel rfl s v (k := 16) (by decide)]
  rfl

theorem State.sysWrite_ways (hsel : selOk 3 sel = true) (hsec : s.sec ≠ .tenant) : s.sysWrite 3 sel v =
    if v.toNat % 65536 = 0 then s else s.mapSlot (selSlot sel) (fun c => { c with ways := v.setWidth 16 }) := by
  have hlow := State.sysMerged_low hsel rfl s v (k := 16) (by decide)
  have hways : BitVec.ofNat 16 (s.sysMerged 3 sel v) = v.setWidth 16 := BitVec.eq_of_toNat_eq (by simpa using hlow)
  rw [State.sysWrite_eq hsel (fun h => absurd h hsec)]
  simp only [State.sysStore, hlow, hways]
  rfl

theorem State.sysWrite_walk (hsel : selOk 4 sel = true) (hsec : s.sec ≠ .tenant) : s.sysWrite 4 sel v =
    if v.toNat % 128 = 0 ∨ 96 < v.toNat % 128 ∨ 96 < s.sumSlots (selSlot sel) (v.toNat % 128) (fun c => c.walk) then s
    else s.mapSlot (selSlot sel) (fun c => { c with walk := v.toNat % 128 }) := by
  rw [State.sysWrite_eq hsel (fun h => absurd h hsec)]
  simp only [State.sysStore, State.sysMerged_low hsel rfl s v (k := 7) (by decide)]
  simp [or_assoc]

theorem State.sysWrite_overflow (hsel : selOk 8 sel = true) : s.sysWrite 8 sel v =
    if v.toNat / 65536 % 32 < 6 ∨ 16 < v.toNat / 65536 % 32 then s
    else s.mapSlot (selSlot sel) (fun c => { c with ovEn := v.msb, ovStr := v.toNat / 65536 % 32, ovM := v.toNat % 4096 }) := by
  have hen : (s.sysMerged 8 sel v / 2 ^ 31 % 2 == 1) = v.msb := by
    have hbit := State.sysMerged_field hsel rfl s v (p := 31) (k := 1) (by decide)
    rw [pow_one] at hbit
    rw [hbit, testBit_eq_div_mod]
    exact (BitVec.msb_eq_getLsbD_last v).symm
  rw [State.sysWrite_eq hsel (fun _ => rfl)]
  simp only [State.sysStore, hen, State.sysMerged_field hsel rfl s v (p := 16) (k := 5) (by decide),
    State.sysMerged_low hsel rfl s v (k := 12) (by decide)]
  simp

end

theorem systemRegisterRules : Claims.SystemRegisterRules := by
  intro s sel v
  refine ⟨fun n h => ⟨s.sysWrite_of_badSelector h v, s.sysRead_of_badSelector h⟩, ?held, State.sysWrite_fair v, State.sysWrite_ways v,
    State.sysWrite_walk v, State.sysWrite_overflow v, fun n hn => s.sysWrite_readOnly hn sel v⟩
  case held =>
    intro n hn hsec
    exact State.sysWrite_of_held hsec (by fin_cases hn <;> rfl) sel v

/-! ### Registers of a context (08 R193, 09 R195, 12 R278, 14 R316, 15 R349, R350; 16 R364) -/

section
variable (s : State) (slot : Nat)

/-- `ds.win` keeps its value for a window past the end, over another context's, or of a context with a unit on the die (16 R364). -/
def State.WinRefused (die size base : Nat) : Prop :=
  512 < base + size ∨
    (∃ k < 16, k ≠ slot ∧ size ≠ 0 ∧ (Sparse.get (0, 0) (s.slot k).win die).1 ≠ 0 ∧
      base < (Sparse.get (0, 0) (s.slot k).win die).2 + (Sparse.get (0, 0) (s.slot k).win die).1 ∧
      (Sparse.get (0, 0) (s.slot k).win die).2 < base + size) ∨
    ∃ u ∈ s.units, u.slot = slot ∧ dieOf u.core = die

theorem State.setWin_refused {die x : Nat} (h : s.WinRefused slot die (x / 2 ^ 16 % 1024) (x % 512) ∨
    Sparse.get (0, 0) (s.slot slot).win die = (x / 2 ^ 16 % 1024, x % 512)) : s.setWin slot die x = s := by
  refine if_pos ?_
  simp only [State.WinRefused] at h
  simp only [Bool.or_eq_true, List.any_eq_true, List.mem_range, Bool.and_eq_true, bne_iff_ne, decide_eq_true_eq, beq_iff_eq]
  grind

theorem State.setWin_taken {die x : Nat} (h : ¬s.WinRefused slot die (x / 2 ^ 16 % 1024) (x % 512))
    (hnew : Sparse.get (0, 0) (s.slot slot).win die ≠ (x / 2 ^ 16 % 1024, x % 512)) :
    s.setWin slot die x =
      (s.mapSlot slot (fun c => { c with win := Sparse.set (0, 0) c.win die (x / 2 ^ 16 % 1024, x % 512) })).mapDie die (fun d =>
        { d with scratch := Sparse.clear d.scratch (x % 512 * 65536) (x / 2 ^ 16 % 1024 * 65536) }) := by
  refine if_neg ?_
  simp only [State.WinRefused] at h
  simp only [Bool.or_eq_true, List.any_eq_true, List.mem_range, Bool.and_eq_true, bne_iff_ne, decide_eq_true_eq, beq_iff_eq]
  grind

theorem State.setScope_eq (id : Nat) (b : Bool) (m : BitVec 320) : s.setScope slot id b m =
    if b = true ∧ m = 0 then s else s.mapSlot slot (fun c => { c with scopes := Sparse.set {} c.scopes id (scopeOf b m) }) := by
  rw [State.setScope]
  exact if_congr (by rw [Bool.and_eq_true, beq_iff_eq]) rfl rfl

/-- Another slot holds the context id (08 R193). -/
theorem State.setRoot_refused {x : Nat} (hv : x % 2 = 1) (h : ∃ k < 16, k ≠ slot ∧ (s.slot k).v = true ∧ (s.slot k).cid = x / 8 % 64) :
    s.setRoot slot x = s :=
  if_pos (by simpa [hv, List.any_eq_true, and_assoc] using h)

theorem State.setRoot_taken {x : Nat} (h : ¬(x % 2 = 1 ∧ ∃ k < 16, k ≠ slot ∧ (s.slot k).v = true ∧ (s.slot k).cid = x / 8 % 64)) :
    ∃ c : Slot, s.setRoot slot x = s.mapSlot slot (fun _ => c) ∧ c.root = x / 4096 % 2 ^ 34 * 4096 ∧
      c.cid = x / 8 % 64 ∧ c.ga = x.testBit 2 ∧ c.v = x.testBit 0 := by
  have h0 : (x % 2 == 1) = x.testBit 0 := by simpa using testBit_eq_div_mod x 0
  refine ⟨_, if_neg ?_, rfl, rfl, testBit_eq_div_mod x 2, h0⟩
  simpa [List.any_eq_true, and_assoc] using h

theorem State.setHamper_eq (die base size : Nat) : s.setHamper die base size =
    if (size ≠ 0 ∧ (base < die * 65536 ∨ (die + 1) * 65536 < base + size)) ∨ (base = (s.die die).hpBase ∧ size = (s.die die).hpSize)
    then s else (s.dropReplicas die).mapDie die (fun d => { d with hpBase := base, hpSize := size }) := by
  have hsame : (base = (s.die die).hpBase ∧ size = (s.die die).hpSize) ↔ ((s.die die).hpBase = base ∧ (s.die die).hpSize = size) := by
    rw [eq_comm, eq_comm (a := size)]
  by_cases hout : size ≠ 0 ∧ (base < die * 65536 ∨ (die + 1) * 65536 < base + size)
  · rw [if_pos (Or.inl hout)]
    exact if_pos (by simpa using hout)
  · simp only [hout, false_or, hsame]
    exact if_neg (by simpa using hout)

theorem State.setCtag_refused {x : Nat} (hv : x.testBit 31 = true)
    (h : ∃ k < 16, k ≠ slot ∧ (s.slot k).ctagV = true ∧ (s.slot k).ctag = x % 65536) : s.setCtag slot x = s := by
  have hbit : x / 2 ^ 31 % 2 = 1 := by simpa [Nat.testBit_eq_decide_div_mod_eq] using hv
  refine if_pos (Bool.and_eq_true_iff.mpr ⟨beq_iff_eq.mpr hbit, ?_⟩)
  simpa [List.any_eq_true, and_assoc] using h

theorem State.setCtag_taken {x : Nat}
    (h : ¬(x.testBit 31 = true ∧ ∃ k < 16, k ≠ slot ∧ (s.slot k).ctagV = true ∧ (s.slot k).ctag = x % 65536)) :
    s.setCtag slot x = s.mapSlot slot (fun c => { c with ctagV := x.testBit 31, ctag := x % 65536 }) := by
  rw [← testBit_eq_div_mod] at h ⊢
  refine if_neg ?_
  simpa [List.any_eq_true, and_assoc] using h

theorem State.setExport_eq (x : Nat) : s.setExport slot x =
    if 2 ^ 40 < (x / 2 ^ 21 % 2 ^ 19 + x / 2 ^ 40 % 2 ^ 20) * 2 ^ 21 then s
    else s.mapSlot slot (fun c =>
      { c with expWe := x.testBit 63, expV := x.testBit 62, expSize := x / 2 ^ 40 % 2 ^ 20, expBase := x / 2 ^ 21 % 2 ^ 19 }) := by
  have hpast : 2 ^ 19 < x / 2 ^ 21 % 2 ^ 19 + x / 2 ^ 40 % 2 ^ 20 ↔ 2 ^ 40 < (x / 2 ^ 21 % 2 ^ 19 + x / 2 ^ 40 % 2 ^ 20) * 2 ^ 21 := by
    omega
  simp only [State.setExport, testBit_eq_div_mod, hpast]

theorem State.storeCores_eq (unit x : Nat) : s.sysStore 14 slot unit x =
    if BitVec.ofNat 320 x = 0 then s else s.mapSlot slot (fun c => { c with cores := BitVec.ofNat 320 x }) := by
  have hempty : BitVec.ofNat 320 x = 0 ↔ x % 2 ^ 320 = 0 := by rw [← BitVec.toNat_inj, BitVec.toNat_ofNat]; rfl
  exact if_congr hempty.symm rfl rfl

theorem State.sysWrite_cores {s : State} {sel : Word} (v : Word) (hsel : selOk 14 sel = true) (hsec : s.sec ≠ .tenant) :
    s.sysWrite 14 sel v = if BitVec.ofNat 320 (s.sysMerged 14 sel v) = 0 then s
      else s.mapSlot (selSlot sel) (fun c => { c with cores := BitVec.ofNat 320 (s.sysMerged 14 sel v) }) := by
  rw [State.sysWrite_eq hsel (fun h => absurd h hsec), State.storeCores_eq]

/-! ### `ten.quota` (15 R349) -/

theorem lt_foldl_max_iff (f : Nat → Nat) (a : Nat) (l : List Nat) (m : Nat) :
    a < l.foldl (fun m x => Nat.max m (f x)) m ↔ a < m ∨ ∃ n ∈ l, a < f n := by
  induction l generalizing m with
  | nil => simp
  | cons x l ih => simp [ih, or_assoc]

theorem lt_maxOf_range_iff (f : Nat → Nat) (a n : Nat) : a < maxOf f (List.range n) ↔ ∃ k < n, a < f k := by
  simp [maxOf, lt_foldl_max_iff]

/-- A share is 0 or above what the module has, the shares of all slots are above it, or the context holds more (15 R349). -/
def State.QuotaRefused (cr lk tc bt : Nat) : Prop :=
  ((cr = 0 ∨ 256 < cr) ∨ (lk = 0 ∨ 48 < lk) ∨ (tc = 0 ∨ 256 < tc) ∨ bt = 0 ∨ 128 < bt) ∨
    (256 < s.sumSlots slot cr (fun c => c.qCr) ∨ 48 < s.sumSlots slot lk (fun c => c.qLk) ∨
      256 < s.sumSlots slot tc (fun c => c.qTc) ∨ 128 < s.sumSlots slot bt (fun c => c.qBt)) ∨
    ((∃ n < 320, cr < sumOf (fun u => u.ncr) (s.units.filter (fun u => u.core == n && u.slot == slot))) ∨
      lk < s.firstsHeld slot ∨ ∃ n < 320, tc < s.cmdCount n slot ∨ bt < s.entriesOf n slot)

theorem State.setQuota_eq (x : Nat) :
    (s.QuotaRefused slot (x / 2 ^ 23 % 512) (x / 2 ^ 17 % 64) (x / 2 ^ 8 % 512) (x % 256) → s.setQuota slot x = s) ∧
    (¬s.QuotaRefused slot (x / 2 ^ 23 % 512) (x / 2 ^ 17 % 64) (x / 2 ^ 8 % 512) (x % 256) → s.setQuota slot x =
      s.mapSlot slot (fun c => { c with qCr := x / 2 ^ 23 % 512, qLk := x / 2 ^ 17 % 64, qTc := x / 2 ^ 8 % 512, qBt := x % 256 })) := by
  constructor
  · intro h
    refine if_pos ?_
    simp only [Bool.or_eq_true, decide_eq_true_eq, lt_maxOf_range_iff, Config.cores, Nat.reducePow]
    simp only [State.QuotaRefused, and_or_left, exists_or, Nat.reducePow] at h
    by_contra hnone
    simp only [not_or] at hnone
    simp only [hnone, or_self] at h
  · intro h
    refine if_neg ?_
    simp only [Bool.or_eq_true, decide_eq_true_eq, lt_maxOf_range_iff, Config.cores, Nat.reducePow]
    simp only [State.QuotaRefused, and_or_left, exists_or, Nat.reducePow] at h
    simp only [not_or] at h
    simp only [h, or_self, not_false_eq_true]

end

/-! ### Which rule a register's writes go through -/

section
variable (s : State) (slot unit x : Nat)

theorem State.sysStore_window : s.sysStore 1 slot unit x = s.setWin slot unit x := rfl
theorem State.sysStore_root : s.sysStore 2 slot unit x = s.setRoot slot x := rfl
theorem State.sysStore_scopeCtl :
    s.sysStore 5 slot unit x = s.setScope slot unit (x.testBit 31) (Sparse.get {} (s.slot slot).scopes unit).mask := by
  rw [← testBit_eq_div_mod]
  rfl
theorem State.sysStore_scopeMask :
    s.sysStore 6 slot unit x = s.setScope slot unit (Sparse.get {} (s.slot slot).scopes unit).v (BitVec.ofNat 320 x) := rfl
theorem State.sysStore_hamperBase : s.sysStore 9 slot unit x = s.setHamper unit (x / 2 ^ 21 % 2 ^ 25) (s.die unit).hpSize := rfl
theorem State.sysStore_hamperSize : s.sysStore 10 slot unit x = s.setHamper unit (s.die unit).hpBase (x % 2 ^ 13) := rfl
theorem State.sysStore_ctag : s.sysStore 11 slot unit x = s.setCtag slot x := rfl
theorem State.sysStore_export : s.sysStore 12 slot unit x = s.setExport slot x := rfl
theorem State.sysStore_quota : s.sysStore 13 slot unit x = s.setQuota slot x := rfl

end

/-! ### The level of a scope (09 R195, R196) -/

theorem coresOf_ne_nil {m : BitVec 320} (hm : m ≠ 0) : coresOf m ≠ [] := by
  intro hnil
  refine hm (BitVec.eq_of_getLsbD_eq fun i hi => ?_)
  have hnone : i ∉ coresOf m := by rw [hnil]; exact List.not_mem_nil
  simpa [coresOf, hi] using hnone

section
variable {m : BitVec 320} {c d : Nat} {rest : List Nat} (b : Bool)

theorem scopeOf_of_one (h : coresOf m = [c]) : scopeOf b m = { v := b, mask := m, lvl := 0, die := dieOf c } := by
  simp [scopeOf, h]

theorem scopeOf_of_oneDie (h : coresOf m = c :: d :: rest) (hone : ∀ k ∈ d :: rest, dieOf k = dieOf c) :
    scopeOf b m = { v := b, mask := m, lvl := 1, die := dieOf c } := by
  have hall : (d :: rest).all (fun k => dieOf k == dieOf c) = true := by simpa using hone
  simp only [scopeOf, h, List.isEmpty_cons, Bool.false_eq_true, if_false, hall, if_true]

theorem scopeOf_of_dies (h : coresOf m = c :: d :: rest) (hmany : ¬∀ k ∈ d :: rest, dieOf k = dieOf c) :
    scopeOf b m = { v := b, mask := m, lvl := 2, die := 0 } := by
  have hall : (d :: rest).all (fun k => dieOf k == dieOf c) = false := by
    rw [Bool.eq_false_iff]
    simpa using hmany
  simp only [scopeOf, h, List.isEmpty_cons, Bool.false_eq_true, if_false, hall]

end

/-- LVL and DIE of a mask that is not empty. -/
theorem scopeOf_level (b : Bool) {m : BitVec 320} (hm : m ≠ 0) :
    (scopeOf b m).v = b ∧ (scopeOf b m).mask = m ∧ ((scopeOf b m).lvl = 0 ↔ ∃ k, coresOf m = [k]) ∧
      ((scopeOf b m).lvl ≤ 1 ↔ ∀ j ∈ coresOf m, ∀ k ∈ coresOf m, dieOf j = dieOf k) ∧ (scopeOf b m).lvl ≤ 2 ∧
      (∀ k ∈ coresOf m, (scopeOf b m).die = if (scopeOf b m).lvl ≤ 1 then dieOf k else 0) := by
  match hc : coresOf m with
  | [] => exact absurd hc (coresOf_ne_nil hm)
  | [c] =>
    rw [scopeOf_of_one b hc]
    simp
  | c :: d :: rest =>
    by_cases hone : ∀ k ∈ d :: rest, dieOf k = dieOf c
    · have hdie : ∀ k ∈ c :: d :: rest, dieOf k = dieOf c := by simpa using hone
      rw [scopeOf_of_oneDie b hc hone]
      refine ⟨rfl, rfl, by simp, ?_, Nat.le_succ 1, fun k hk => (hdie k hk).symm⟩
      exact iff_of_true le_rfl fun j hj k hk => (hdie j hj).trans (hdie k hk).symm
    · rw [scopeOf_of_dies b hc hone]
      refine ⟨rfl, rfl, by simp, ?_, le_rfl, fun k hk => rfl⟩
      exact iff_of_false (Nat.not_succ_le_self 1) fun h => hone fun k hk => h k (List.mem_cons_of_mem _ hk) c List.mem_cons_self

theorem contextRegisterRules : Claims.ContextRegisterRules := by
  refine ⟨fun s sel v => ⟨fun hsel => ?win, ?scope, fun hsel => ?base, fun hsec => ⟨fun hsel => ?root, ?hamper, fun hsel => ?ctag,
    fun hsel => ?window, fun hsel => ?quota, fun hsel => ?cores⟩⟩, fun b m hm => scopeOf_level b hm⟩
  case win =>
    rw [State.sysWrite_eq hsel (fun _ => rfl), State.sysStore_window]
    exact ⟨s.setWin_refused (selSlot sel), fun h hnew => s.setWin_taken (selSlot sel) h hnew⟩
  case scope =>
    rintro n b m (⟨rfl, rfl, rfl⟩ | ⟨rfl, rfl, rfl⟩) hsel
    · rw [State.sysWrite_eq hsel (fun _ => rfl), State.sysStore_scopeCtl, State.setScope_eq]
    · rw [State.sysWrite_eq hsel (fun _ => rfl), State.sysStore_scopeMask, State.setScope_eq]
  case base => exact State.sysWrite_eq hsel (fun _ => rfl) v
  case root =>
    rw [State.sysWrite_eq hsel (fun h => absurd h hsec), State.sysStore_root]
    exact ⟨fun ⟨hv, h⟩ => s.setRoot_refused (selSlot sel) hv h, s.setRoot_taken (selSlot sel)⟩
  case hamper =>
    rintro n base size (⟨rfl, rfl, rfl⟩ | ⟨rfl, rfl, rfl⟩) hsel
    · rw [State.sysWrite_eq hsel (fun h => absurd h hsec), State.sysStore_hamperBase, State.setHamper_eq]
    · rw [State.sysWrite_eq hsel (fun h => absurd h hsec), State.sysStore_hamperSize, State.setHamper_eq]
  case ctag =>
    rw [State.sysWrite_eq hsel (fun h => absurd h hsec), State.sysStore_ctag]
    exact ⟨fun ⟨hv, h⟩ => s.setCtag_refused (selSlot sel) hv h, s.setCtag_taken (selSlot sel)⟩
  case window =>
    rw [State.sysWrite_eq hsel (fun h => absurd h hsec), State.sysStore_export, State.setExport_eq]
  case quota =>
    rw [State.sysWrite_eq hsel (fun h => absurd h hsec), State.sysStore_quota]
    exact s.setQuota_eq _ _
  case cores =>
    exact State.sysWrite_cores v hsel hsec

/-- Settles O31: each register by the rule that checks its writes. -/
theorem systemRegisterWrites : Obligations.SystemRegisterWrites :=
  ⟨systemRegisterWritesArrive, systemRegisterRules, contextRegisterRules⟩

end Sys2Proof.Machine

/-!
# Instructions of launches (15 R340, R342, R343, R345, R354)
-/
namespace Sys2Proof.Machine

/-! ### What a cancelled launch takes away (15 R345) -/

/-- The strands of a name have one member at most, and it is a thread of the machine. -/
def State.HoldsMember (s : State) (sid tid : Nat) : Prop :=
  ∀ x ∈ s.strands, x.sid = sid → (∀ m ∈ x.members, m = tid) ∧ (s.thread? tid).isSome = true

section
variable {s s' : State} {sid tid : Nat}

theorem State.HoldsMember.of_eq (h : s.HoldsMember sid tid) (hthreads : s'.threads = s.threads) (hstrands : s'.strands = s.strands) :
    s'.HoldsMember sid tid := by
  intro x hx
  rw [hstrands] at hx
  rw [State.thread?, hthreads]
  exact h x hx

theorem State.HoldsMember.foldl {α : Type} {f : State → α → State}
    (hf : ∀ s x, s.HoldsMember sid tid → (f s x).HoldsMember sid tid) (l : List α) (h : s.HoldsMember sid tid) :
    (l.foldl f s).HoldsMember sid tid := by
  induction l generalizing s with
  | nil => exact h
  | cons x l ih => exact ih (hf s x h)

/-- A unit that leaves takes its threads along, and the strands that have no other member. -/
theorem State.HoldsMember.removeUnit (h : s.HoldsMember sid tid) (uid : Nat) : (s.removeUnit uid).HoldsMember sid tid := by
  rw [State.removeUnit]
  cases s.unit? uid with
  | none => exact h
  | some u =>
    have hfree : ∀ (q : State) (k : Word), (q.freeNumber u.slot k u.core).threads = q.threads ∧
        (q.freeNumber u.slot k u.core).strands = q.strands := by
      intro q k
      rw [State.freeNumber]
      split <;> exact ⟨rfl, rfl⟩
    refine State.HoldsMember.of_eq ?_ (hfree _ _).1 (hfree _ _).2
    intro y hy hsid
    obtain ⟨hy, hmembers⟩ := List.mem_filter.mp hy
    obtain ⟨x, hx, rfl⟩ := List.mem_map.mp hy
    obtain ⟨honly, hthread⟩ := h x hx hsid
    refine ⟨fun m hm => honly m (List.mem_filter.mp hm).1, ?_⟩
    obtain ⟨m, hm, hstays⟩ : ∃ m ∈ x.members, ∀ t ∈ s.threads, t.tid = m → t.unit ≠ uid := by simpa using hmembers
    obtain rfl := honly m hm
    obtain ⟨t, ht⟩ := Option.isSome_iff_exists.mp hthread
    have hmem := List.mem_of_find?_eq_some ht
    have htid := State.thread?_tid ht
    refine List.find?_isSome.mpr ⟨t, ?_, by simpa using htid⟩
    exact List.mem_filter.mpr ⟨hmem, by simpa using hstays t hmem htid⟩

theorem State.HoldsMember.dropLaunch (h : s.HoldsMember sid tid) (slot : Nat) (k : Word) : (s.dropLaunch slot k).HoldsMember sid tid := by
  rw [State.dropLaunch]
  split
  · exact h
  · exact (State.HoldsMember.foldl (fun s u h => (h.of_eq (s' := s.discardCmds u) rfl rfl).removeUnit u) _ h).of_eq rfl rfl

theorem State.checkEnd_places (s : State) (slot : Nat) (k : Word) (levels : Nat) :
    (s.checkEnd slot k levels).threads = s.threads ∧ (s.checkEnd slot k levels).strands = s.strands := by
  induction levels generalizing s k with
  | zero => exact ⟨rfl, rfl⟩
  | succ n ih =>
    rw [State.checkEnd]
    split
    · exact ⟨rfl, rfl⟩
    · split
      · exact ⟨rfl, rfl⟩
      · exact ih _ _

theorem State.HoldsMember.cancel (h : s.HoldsMember sid tid) (slot : Nat) (k : Word) : (s.cancel slot k).HoldsMember sid tid := by
  rw [State.cancel]
  split
  · exact h
  · split
    · exact h
    · refine State.HoldsMember.of_eq ?_ (s := List.foldl _ _ _) rfl rfl
      refine State.HoldsMember.foldl (fun s p h => h.of_eq (s.checkEnd_places slot p 3).1 (s.checkEnd_places slot p 3).2) _ ?_
      refine State.HoldsMember.foldl (fun s p h => h.of_eq (s' := s.countMember slot p) rfl rfl) _ ?_
      exact (State.HoldsMember.foldl (fun s k h => h.dropLaunch slot k) _ h).of_eq rfl rfl

end

/-- The strand of one thread that issues. -/
theorem Alone.holdsMember {s : State} {st : Strand} {t : Thread} (h : Alone s st t) : (s.atWord st).HoldsMember st.sid t.tid := by
  intro x hx hsid
  obtain rfl := h.named x hx hsid
  refine ⟨fun m hm => ?_, Option.isSome_of_eq_some h.thread⟩
  rw [h.only] at hm
  exact List.mem_singleton.mp hm

/-- A thread that has gone with its strand leaves nothing to go on. -/
theorem State.goesOn_of_noStrand {q : State} {st : Strand} (h : ∀ x ∈ q.strands, x.sid ≠ st.sid) : q.goesOn st = q := by
  have hmap : q.strands.map (fun x => if x.sid = st.sid then q.pastWord st else x) = q.strands :=
    (List.map_congr_left fun x hx => if_neg (h x hx)).trans (List.map_id _)
  rw [State.goesOn, hmap]

/-- The strand goes on, where its thread has not left the machine with it. -/
theorem Alone.finish_goes {s q : State} {st : Strand} {t : Thread} (h : Alone s st t) (hmore : st.more) (hq : q.HoldsMember st.sid t.tid) :
    q.finishWord (s.ctx st) [(t.tid, .go)] [] = q.goesOn st := by
  by_cases hthread : (q.thread? t.tid).isSome = true
  · exact h.finish_go hmore hthread
  · have hgone : ∀ x ∈ q.strands, x.sid ≠ st.sid := fun x hx hsid => hthread (hq x hx hsid).2
    have hlast : (s.ctx st).last = false := by rw [State.ctx_last, beq_eq_false_iff_ne]; exact hmore
    have hstrands : q.strands.filter (fun x => x.sid != st.sid) = q.strands :=
      List.filter_eq_self.mpr fun x hx => bne_iff_ne.mpr (hgone x hx)
    have hdrawn : q.drawnOut (s.ctx st) [(t.tid, .go)] = [(t.tid, .go)] := q.drawnOut_go (s.ctx st) [t.tid]
    have hexit : q.exitOf (s.ctx st) (t.tid, .go) = none := rfl
    rw [State.goesOn_of_noStrand hgone, State.finishWord, hdrawn]
    simp only [hlast, hthread, hexit, List.filter_cons, List.filter_nil, List.map_nil, List.filterMap_cons, List.filterMap_nil,
      Bool.and_false, Bool.false_eq_true, if_false, List.append_nil]
    rw [State.setStrand_of_noMembers rfl, State.endStrand, State.ctx_st, hstrands]
    rfl

/-- A word of a user whose checks leave the state as it is, and whose action may take its thread away with its strand. -/
theorem Alone.issue_goes {α : Type} {s : State} {st : Strand} {t : Thread} {m : Meaning α} {F : State → Ctx → Thread → α → State × After}
    {x : α} {q : State} (h : Alone s st t) (hmore : st.more) (hmis : m.misplaced (s.ctx st) = false) (hlev : (m.shape st.hints).level = .user)
    (hpa : (m.shape st.hints).past = none) (hr : OperandsReady s t (m.shape st.hints).named (m.shape st.hints).reads)
    (hpre : m.pre (s.atWord st) (s.ctx st) t = (s.atWord st, .ok x)) (hgrp : m.group (s.atWord st) (s.ctx st) [t] = (s.atWord st, none))
    (hact : m.act = eachThread F) (hF : F (s.atWord st) (s.ctx st) t x = (q, .go)) (hq : q.HoldsMember st.sid t.tid) :
    issue m s = q.goesOn st := by
  rw [h.issue_ok hmis (by rw [hlev]; exact Level.allows_user _) hpa hr hpre hgrp h.threads h.thread hact, hF]
  exact h.finish_goes hmore hq

/-! ### `lch`, `lcnt` and `lcancel` -/

section
variable (d a b : Reg) (q : BitVec 7)

theorem lch_launches : Launches (.lch d a) (fun _ => pairRegs d ++ pairRegs a) (fun _ => [(.int64, a)]) .ld
    (fun _ s t kind ds => ds = pairRegs d ∧ t.full .ld = false ∧
      ∃ acc, (s.globalAccess t (t.pair a) 128 0 none (needLoad false)).2 = .ok acc ∧ kind = .lch acc) := by
  refine Launches.of_checks (fun _ => rfl) rfl (fun _ => rfl) (fun _ _ _ => rfl) (fun _ => rfl) (fun _ => rfl) (fun _ _ => by simp) ?_
  rintro c s t k ds ⟨rfl, hroom, acc, hacc, rfl⟩
  have hpair : s.globalAccess t (t.pair a) 128 0 none (needLoad false) =
    ((s.globalAccess t (t.pair a) 128 0 none (needLoad false)).1, .ok acc) := Prod.ext rfl hacc
  exact ⟨fun _ => Level.allows_user _, acc, _, _, .int, (if_neg (by rw [hroom]; decide)).trans hpair, State.globalAccess_ok hpair, rfl, rfl⟩

theorem lcnt_launches : Launches (.lcnt d a q) (fun _ => (if q = 0 then pairRegs d else [d]) ++ [a]) (fun _ => [(.int, a)]) .ld
    (fun _ s t kind ds => ds = (if q = 0 then pairRegs d else [d]) ∧ t.full .ld = false ∧
      (t.modeD = true → ∀ h, s.named t (s.operand t .int a) = some h → (s.slot (s.slotOf t)).within (s.handleOf t) h = false) ∧
      kind = .lcnt (s.named t (s.operand t .int a)) q.toNat) := by
  refine Launches.of_checks (fun _ => rfl) rfl (fun _ => rfl) (fun _ _ _ => rfl) (fun _ => rfl) (fun _ => rfl) (fun _ _ => by simp) ?_
  rintro c s t k ds ⟨rfl, hroom, hapart, rfl⟩
  refine ⟨fun _ => Level.allows_user _, s.named t (s.operand t .int a), s, _, _, ?_, OnlyCaches.refl s, rfl, rfl⟩
  refine (if_neg (by rw [hroom]; decide)).trans (if_neg ?_)
  rw [Bool.and_eq_true, not_and, State.intOf_eq_operand]
  intro hdet
  cases hnamed : s.named t (s.operand t .int a) with
  | none => exact Bool.false_ne_true
  | some h => exact Bool.eq_false_iff.mp (hapart hdet h hnamed)

theorem lcancel_acts : Acts (.lcancel a) (fun _ => [a]) (fun _ => [(.int, a)]) (fun _ _ _ => True)
    (fun _ s t => match s.named t (s.operand t .int a) with
      | some h => s.cancel (s.slotOf t) h
      | none => s) := by
  intro s st t halone hmore hready _
  cases hnamed : (s.atWord st).named t ((s.atWord st).operand t .int a) with
  | none =>
    have hexec : exec (.lcancel a) s = .next ((s.atWord st).goesOn st) := by
      refine congrArg Host.Outcome.next (halone.issue_goes (x := ()) hmore rfl rfl rfl hready rfl rfl rfl ?_ halone.holdsMember)
      simp only [State.intOf_eq_operand, hnamed]
    simp only [hexec, hnamed]
  | some h =>
    have hexec : exec (.lcancel a) s = .next (((s.atWord st).cancel ((s.atWord st).slotOf t) h).goesOn st) := by
      refine congrArg Host.Outcome.next (halone.issue_goes (x := ()) hmore rfl rfl rfl hready rfl rfl rfl ?_ (halone.holdsMember.cancel _ _))
      simp only [State.intOf_eq_operand, hnamed]
    simp only [hexec, hnamed]

/-! ### `lwaitc` -/

theorem State.holds_object {s : State} {t : Thread} {h : Word} {o : Obj} (ho : s.obj? (s.slotOf t) h = some o) (n : Nat) :
    s.holds t (.object h n) = true ↔ o.ended = true ∨ n ≤ o.done := by
  simp [State.holds, ho]

theorem State.acquireAll_threads (s : State) (core : Nat) : (s.acquireDiscard core 3).threads = s.threads := by
  have hpush : ∀ q : State, (q.pushDie (dieOf core)).threads = q.threads := fun q => (q.pushDie_onlyHomes (dieOf core)).threads
  exact hpush _

section
variable {s : State} {st : Strand} {t : Thread} (h : Alone s st t) (hready : OperandsReady s t (a :: pairRegs b) [(.int, a), (.int64, b)])
include h hready

theorem Alone.lwaitc_passes (hmore : st.more) (hforeign : (s.atWord st).named t ((s.atWord st).operand t .int a) = none) :
    exec (.lwaitc a b) s = .next ((s.atWord st).goesOn st) := by
  refine congrArg Host.Outcome.next (h.issue_goes (x := ()) hmore rfl rfl rfl (hready.of_subset (by simp)) rfl rfl rfl ?_ h.holdsMember)
  simp only [State.intOf_eq_operand, hforeign]

variable {k : Word} (hnamed : (s.atWord st).named t ((s.atWord st).operand t .int a) = some k)
include hnamed

theorem Alone.lwaitc_acquires (hmore : st.more) (hcount : (s.atWord st).holds t (.object k (t.pair b).toNat) = true)
    (hloads : (s.atWord st).holds t .loads = true) :
    exec (.lwaitc a b) s = .next ((((s.atWord st).acquireDiscard t.core 3).codeIn ((s.atWord st).slotOf t) t.core 11).goesOn st) := by
  have hthreads : (((s.atWord st).acquireDiscard t.core 3).codeIn ((s.atWord st).slotOf t) t.core 11).threads = s.threads :=
    State.acquireAll_threads _ _
  refine congrArg Host.Outcome.next ?_
  rw [h.issue_ok (x := ()) (s2 := s.atWord st) (s3 := s.atWord st) rfl (Level.allows_user _) rfl (hready.of_subset (by simp)) rfl rfl
    h.threads h.thread rfl]
  simp only [State.intOf_eq_operand, hnamed, hcount, hloads, Bool.and_self, if_true]
  refine h.finish_go hmore ?_
  rw [State.thread?, hthreads]
  exact Option.isSome_of_eq_some h.thread

/-- A count that is not reached, or earlier loads in flight: the thread waits at the word after and owes an acquire. -/
theorem Alone.lwaitc_waits {w : Wait} (hw : w = .loads ∨ w = .object k (t.pair b).toNat)
    (hbusy : ((s.atWord st).holds t (.object k (t.pair b).toNat) && (s.atWord st).holds t .loads) = false)
    (hwait : (if (s.atWord st).holds t (.object k (t.pair b).toNat) then .loads else .object k (t.pair b).toNat) = w) :
    let q := (s.atWord st).mapThread t.tid (fun t => { t with owes := some 11 })
    exec (.lwaitc a b) s = .next ((q.endStrand st).enterAt t.tid (st.pc + 4) (q.landing t.tid (st.pc + 4) st.blk) w) := by
  have hreleased : ∀ q : State, q.released (t.tid, .split w) = (t.tid, .split w) := by
    rcases hw with rfl | rfl <;> exact fun _ => rfl
  have hwalk : w.walkId = none := by rcases hw with rfl | rfl <;> rfl
  refine congrArg Host.Outcome.next ?_
  rw [h.issue_ok (x := ()) (s2 := s.atWord st) (s3 := s.atWord st) rfl (Level.allows_user _) rfl (hready.of_subset (by simp)) rfl rfl
    h.threads h.thread rfl]
  simp only [State.intOf_eq_operand, hnamed, hbusy, Bool.false_eq_true, if_false, hwait]
  exact (finish_leave (.split w) _ rfl (hreleased _)).trans (State.leaveOne_place _ _ _ _ hwalk)

end

/-! ### `pmreq` -/

theorem pmreq_acts (h : Word) (o : Obj) : Acts (.pmreq a b) (fun _ => [a, b]) (fun _ => [(.int, a), (.int, b)])
    (fun _ s t => t.level ≠ .user ∧ t.full .st = false ∧ s.named t (s.operand t .int a) = some h ∧ s.obj? (s.slotOf t) h = some o ∧
      o.ended = false)
    (fun c s t => (s.addOp (s.newOp c t .st (.pmreq (s.unitsIn (s.slotOf t) h)))).askPre (s.slotOf t) h (s.operand t .int b).toNat) := by
  refine Acts.of_levelled (fun _ => rfl) rfl (fun _ => rfl) (fun _ => rfl) (fun _ => rfl) (fun _ => rfl) ?_
  rintro c s t ⟨hlevel, hroom, hnamed, ho, hlive⟩
  refine ⟨Level.allows_supervisor hlevel, (), ?_, rfl, ?_, fun n => State.isSome_thread?_addOp s _ n⟩
  · simp [roomFor, hroom]
  · simp [State.intOf_eq_operand, hnamed, ho, hlive, Option.filter]

theorem pmreq_acts_ended : Acts (.pmreq a b) (fun _ => [a, b]) (fun _ => [(.int, a), (.int, b)])
    (fun c s t => t.level ≠ .user ∧ t.full .st = false ∧
      (∀ h o, s.named t (s.operand t .int a) = some h → s.obj? (s.slotOf t) h = some o → o.ended = true) ∧
      (((s.addOp (s.newOp c t .st (.pmreq []))).arrive s.nextId id).thread? t.tid).isSome = true)
    (fun c s t => (s.addOp (s.newOp c t .st (.pmreq []))).arrive s.nextId id) := by
  refine Acts.of_issue (fun _ => rfl) rfl (fun _ => rfl) ?_
  rintro s st t halone - - ⟨hlevel, hroom, hended, hstays⟩
  refine ⟨(), s.atWord st, rfl, Level.allows_supervisor hlevel, rfl, rfl, ?_, rfl, rfl, ?_, hstays⟩
  · simp [roomFor, hroom]
  · simp only [State.intOf_eq_operand]
    cases hnamed : (s.atWord st).named t ((s.atWord st).operand t .int a) with
    | none => rfl
    | some h =>
      cases ho : (s.atWord st).obj? ((s.atWord st).slotOf t) h with
      | none =>
        simp only [Option.filter, ho]
        rfl
      | some o =>
        simp only [Option.filter, ho, hended h o hnamed ho]
        rfl

end

/-- Settles O44: a cancelled launch may take the thread that cancels it, and its strand with it. -/
theorem launchInstructions : Obligations.LaunchInstructions := by
  intro d a b q
  refine ⟨lch_launches d a, lcnt_launches d a q, lcancel_acts a, ?lwaitc, pmreq_acts a b, pmreq_acts_ended a b⟩
  case lwaitc =>
    intro s st t h hmore hready
    refine ⟨h.lwaitc_passes a b hready hmore, fun k o hnamed ho => ⟨fun hcount hloads => ?_, fun hcount hloads => ?_, fun hlive hcount => ?_⟩⟩
    · exact h.lwaitc_acquires a b hready hnamed hmore ((State.holds_object ho _).mpr hcount) hloads
    · have hreached := (State.holds_object ho (t.pair b).toNat).mpr hcount
      exact h.lwaitc_waits a b hready hnamed (.inl rfl) (by rw [hreached, hloads]; rfl) (if_pos hreached)
    · have hshort : (s.atWord st).holds t (.object k (t.pair b).toNat) = false := by
        rw [Bool.eq_false_iff, Ne, State.holds_object ho]
        simpa [hlive] using hcount
      exact h.lwaitc_waits a b hready hnamed (.inr rfl) (by rw [hshort]; rfl) (if_neg (by rw [hshort]; decide))

end Sys2Proof.Machine

/-!
# The placement and the end of units (15 R340, R344, R346, R347; 01 R24, R34)
-/
namespace Sys2Proof.Machine

/-! ### What the entry of threads leaves alone (04 R83) -/

theorem State.enter_keeps (s : State) (tid : Nat) (w : Wait) : (s.enter tid w).units = s.units ∧ (s.enter tid w).slots = s.slots := by
  unfold State.enter
  split
  · exact ⟨rfl, rfl⟩
  · split
    · exact ⟨rfl, rfl⟩
    · split
      · split <;> exact ⟨rfl, rfl⟩
      · exact ⟨rfl, rfl⟩

theorem State.enterAt_keeps (s : State) (tid : Nat) (pc : Pair) (b : Block) (w : Wait) :
    (s.enterAt tid pc b w).units = s.units ∧ (s.enterAt tid pc b w).slots = s.slots :=
  State.enter_keeps _ tid w

theorem State.foldl_enterAt_keeps (ts : List Thread) (s : State) :
    (ts.foldl (fun s t => s.enterAt t.tid t.pc t.blk .none) s).units = s.units ∧
      (ts.foldl (fun s t => s.enterAt t.tid t.pc t.blk .none) s).slots = s.slots := by
  induction ts generalizing s with
  | nil => exact ⟨rfl, rfl⟩
  | cons t ts ih => exact ⟨(ih _).1.trans (s.enterAt_keeps _ _ _ _).1, (ih _).2.trans (s.enterAt_keeps _ _ _ _).2⟩

/-! ### Threads of a name -/

/-- The machine has a thread of a name, and every thread of it is as `p` says. -/
def State.ThreadIs (s : State) (tid : Nat) (p : Thread → Prop) : Prop :=
  (∃ t ∈ s.threads, t.tid = tid) ∧ ∀ t ∈ s.threads, t.tid = tid → p t

section
variable {s : State} {tid : Nat} {p : Thread → Prop}

theorem State.ThreadIs.exists (h : s.ThreadIs tid p) : ∃ t ∈ s.threads, p t := by
  obtain ⟨⟨t, ht, htid⟩, hall⟩ := h
  exact ⟨t, ht, hall t ht htid⟩

theorem State.ThreadIs.mapThread (h : s.ThreadIs tid p) (k : Nat) {f : Thread → Thread} (htid : ∀ t, (f t).tid = t.tid)
    (hf : ∀ t, p t → p (f t)) : (s.mapThread k f).ThreadIs tid p := by
  obtain ⟨⟨t, ht, hname⟩, hall⟩ := h
  refine ⟨⟨_, List.mem_map.mpr ⟨t, ht, rfl⟩, ?_⟩, ?_⟩
  · split
    · rw [htid, hname]
    · exact hname
  · intro u hu hname
    obtain ⟨x, hx, rfl⟩ := List.mem_map.mp hu
    by_cases hk : x.tid = k
    · rw [if_pos hk] at hname ⊢
      exact hf x (hall x hx (by rw [← htid x, hname]))
    · rw [if_neg hk] at hname ⊢
      exact hall x hx hname

theorem State.ThreadIs.setThread (h : s.ThreadIs tid p) {u : Thread} (hu : u.tid = tid → p u) : (s.setThread u).ThreadIs tid p := by
  obtain ⟨⟨t, ht, hname⟩, hall⟩ := h
  refine ⟨⟨_, List.mem_map.mpr ⟨t, ht, rfl⟩, ?_⟩, ?_⟩
  · split
    · next hk => rw [← hk, hname]
    · exact hname
  · intro v hv hvname
    obtain ⟨x, hx, rfl⟩ := List.mem_map.mp hv
    by_cases hk : x.tid = u.tid
    · rw [if_pos hk] at hvname ⊢
      exact hu hvname
    · rw [if_neg hk] at hvname ⊢
      exact hall x hx hvname

theorem State.ThreadIs.of_eq {s' : State} (h : s.ThreadIs tid p) (hthreads : s'.threads = s.threads) : s'.ThreadIs tid p := by
  rw [State.ThreadIs, hthreads]
  exact h

theorem State.ThreadIs.enter (h : s.ThreadIs tid p) (hstate : ∀ t st, p t → p { t with state := st }) (k : Nat) (w : Wait) :
    (s.enter k w).ThreadIs tid p := by
  unfold State.enter
  split
  · exact h
  · next t ht =>
    have hset : ∀ (q : State) st, q.ThreadIs tid p → (q.setThread { t with state := st }).ThreadIs tid p := by
      intro q st hq
      exact hq.setThread fun hname => hstate _ _ (h.2 t (List.mem_of_find?_eq_some ht) hname)
    split
    · exact hset s _ h
    · split
      · split
        · exact h
        · exact hset _ _ (h.of_eq rfl)
      · exact (hset s _ h).of_eq rfl

theorem State.ThreadIs.enterAt (h : s.ThreadIs tid p) (hstate : ∀ t st, p t → p { t with state := st }) (k : Nat) {pc : Pair} {b : Block}
    (hpc : ∀ t, p t → p { t with pc := pc, blk := b }) (w : Wait) : (s.enterAt k pc b w).ThreadIs tid p :=
  State.ThreadIs.enter (h.mapThread k (f := fun t => { t with pc := pc, blk := b }) (fun _ => rfl) hpc) hstate k w

theorem State.ThreadIs.foldl_enterAt {entry : Pair} (hstate : ∀ t st, p t → p { t with state := st })
    (hpc : ∀ t b, p t → p { t with pc := entry, blk := b }) (ts : List Thread) (hts : ∀ t ∈ ts, t.pc = entry) (h : s.ThreadIs tid p) :
    (ts.foldl (fun s t => s.enterAt t.tid t.pc t.blk .none) s).ThreadIs tid p := by
  induction ts generalizing s with
  | nil => exact h
  | cons t ts ih =>
    refine ih (fun u hu => hts u (List.mem_cons_of_mem _ hu)) (h.enterAt hstate _ (fun u hu => ?_) _)
    rw [hts t List.mem_cons_self]
    exact hpc u _ hu

end

/-! ### The creels that the runtime initialises (02 R58) -/

/-- The last unit is `u` but for its creels. -/
def State.LastUnit (s : State) (before : List UnitSt) (u : UnitSt) : Prop :=
  ∃ cs, s.units = before ++ [{ u with creels := cs }]

theorem State.LastUnit.of_eq {s s' : State} {before : List UnitSt} {u : UnitSt} (h : s.LastUnit before u) (hunits : s'.units = s.units) :
    s'.LastUnit before u := by
  obtain ⟨cs, hcs⟩ := h
  exact ⟨cs, hunits.trans hcs⟩

theorem State.runCreels_keeps (uid : Nat) (l : List (Nat × Word)) (s : State) :
    (s.runCreels uid l).threads = s.threads ∧ (s.runCreels uid l).slots = s.slots := by
  have hone : ∀ (s : State) (u : UnitSt) k cfg, ((s.initCreel u k cfg).getD s).threads = s.threads ∧
      ((s.initCreel u k cfg).getD s).slots = s.slots := by
    intro s u k cfg
    rw [State.initCreel]
    split <;> exact ⟨rfl, rfl⟩
  unfold State.runCreels
  induction l generalizing s with
  | nil => exact ⟨rfl, rfl⟩
  | cons e l ih =>
    rw [List.foldl_cons]
    refine ⟨(ih _).1.trans ?_, (ih _).2.trans ?_⟩
    · split
      · rfl
      · split
        · rfl
        · exact (hone s _ _ _).1
    · split
      · rfl
      · split
        · rfl
        · exact (hone s _ _ _).2

theorem State.LastUnit.setCreel {s : State} {before : List UnitSt} {u : UnitSt} (h : s.LastUnit before u) (hnew : ∀ x ∈ before, x.uid ≠ u.uid)
    (k : Nat) (c : Creel) : (s.setCreel u.uid k c).LastUnit before u := by
  obtain ⟨cs, hcs⟩ := h
  refine ⟨Sparse.set {} cs k c, ?_⟩
  show s.units.map _ = _
  rw [hcs, List.map_append, List.map_cons, List.map_nil, if_pos rfl]
  congr 1
  exact (List.map_congr_left fun x hx => if_neg (hnew x hx)).trans (List.map_id _)

theorem State.LastUnit.initCreel {s : State} {before : List UnitSt} {u v : UnitSt} (h : s.LastUnit before u)
    (hnew : ∀ x ∈ before, x.uid ≠ u.uid) (hv : v.uid = u.uid) (k : Nat) (cfg : Word) : ((s.initCreel v k cfg).getD s).LastUnit before u := by
  rw [State.initCreel, hv]
  split
  · exact h
  · exact State.LastUnit.setCreel (s := s.orphanCopies u.uid k) h hnew _ _

theorem State.LastUnit.runCreels {before : List UnitSt} {u : UnitSt} (hnew : ∀ x ∈ before, x.uid ≠ u.uid) (l : List (Nat × Word)) {s : State}
    (h : s.LastUnit before u) : (s.runCreels u.uid l).LastUnit before u := by
  unfold State.runCreels
  induction l generalizing s with
  | nil => exact h
  | cons e l ih =>
    rw [List.foldl_cons]
    refine ih ?_
    split
    · exact h
    · next v hv =>
      split
      · exact h
      · exact h.initCreel hnew (State.unit?_uid hv) _ _

/-! ### The placement of a unit (15 R340, R346) -/

/-- The unit that a placement adds, but for the creels that the runtime initialises. -/
def State.placedUnit (s : State) (slot : Nat) (o : Obj) (u core row0 : Nat) : UnitSt :=
  { uid := s.nextId, slot := slot, launch := o.handle, index := u, core := core, row0 := row0, rows := o.rows,
    nthreads := o.threads, gw := o.gw, scrOff := (s.regionsFor core o).1, scrLen := o.scr, cluOff := (s.regionsFor core o).2,
    cluLen := o.clu, lpLen := o.window, ncr := o.opt 14 4, acc := o.opt 21 3, placedAt := s.coreClock core }

/-- The threads that a placement adds. -/
def State.placedThreads (s : State) (slot : Nat) (o : Obj) (u core row0 : Nat) : List Thread :=
  (List.range o.threads).map (fun i =>
    newThread o (s.placedUnit slot o u core row0) (s.nextId + 1 + i) i (s.blockFor slot (o.item 0)))

/-- A thread of a unit at ENTRY, with no register written and nothing in flight (01 R34). -/
def AtEntry (o : Obj) (u : UnitSt) (i : Nat) (t : Thread) : Prop :=
  t.unit = u.uid ∧ t.index = i ∧ t.slot = 64 * u.row0 + i ∧ t.core = u.core ∧ t.pc = o.item 0 ∧ t.regs = [] ∧ t.budget = o.budget ∧
    t.level = o.level ∧ t.ld = 0 ∧ t.st = 0 ∧ t.cp = 0 ∧ t.tl = 0 ∧ t.depth = 0

theorem newThread_atEntry (o : Obj) (u : UnitSt) (tid i : Nat) (b : Block) : AtEntry o u i (newThread o u tid i b) :=
  ⟨rfl, rfl, congrArg (· + i) (Nat.mul_comm _ _), rfl, rfl, rfl, rfl, rfl, rfl, rfl, rfl, rfl, rfl⟩

section
variable (s : State) (slot : Nat) (o : Obj) (u core row0 : Nat)

theorem State.slot_congr {s s' : State} (h : s'.slots = s.slots) (k : Nat) : s'.slot k = s.slot k := by
  rw [State.slot, h]
  rfl

/-- The acquire behind which a unit of a launch with predecessors is placed (15 R344). -/
theorem State.acquireFor_keeps (p : Bool) (q : State) (slot core : Nat) :
    (if p then q else (q.acquireDiscard core 3).codeIn slot core 11).threads = q.threads ∧
      (if p then q else (q.acquireDiscard core 3).codeIn slot core 11).slots = q.slots ∧
      (if p then q else (q.acquireDiscard core 3).codeIn slot core 11).units = q.units := by
  have hpush : ∀ q' : State, OnlyHomes q' (q'.pushDie (dieOf core)) := fun q' => q'.pushDie_onlyHomes (dieOf core)
  split
  · exact ⟨rfl, rfl, rfl⟩
  · exact ⟨(hpush _).threads, (hpush _).slots, (hpush _).units⟩

theorem State.takeNumber_keeps : (s.takeNumber core slot o).units = s.units ∧ (s.takeNumber core slot o).threads = s.threads ∧
    ((s.takeNumber core slot o).slot slot).queue = (s.slot slot).queue := by
  rw [State.takeNumber]
  split
  · refine ⟨rfl, rfl, ?_⟩
    rw [State.mapObj, State.slot_mapSlot, if_pos rfl]
    rfl
  · exact ⟨rfl, rfl, rfl⟩

/-- Before its threads enter the table, a placement has added its unit and its threads. -/
theorem State.placeNew_eq : ∃ q : State, s.placeNew slot o u core row0 =
      (s.placedThreads slot o u core row0).foldl (fun s t => s.enterAt t.tid t.pc t.blk .none) q ∧
    q.threads = s.threads ++ s.placedThreads slot o u core row0 ∧ (q.slot slot).queue = (s.slot slot).queue ∧
    ((∀ x ∈ s.units, x.uid ≠ s.nextId) → q.LastUnit s.units (s.placedUnit slot o u core row0)) := by
  obtain ⟨hunits, hthreads, hqueue⟩ := s.takeNumber_keeps slot o core
  refine ⟨_, rfl, ?_, ?_, fun hnew => ?_⟩
  · refine ((State.acquireFor_keeps _ _ slot core).1.trans (State.runCreels_keeps _ _ _).1).trans ?_
    exact congrArg (· ++ s.placedThreads slot o u core row0) hthreads
  · refine (congrArg Slot.queue (State.slot_congr ?_ slot)).trans hqueue
    exact (State.acquireFor_keeps _ _ slot core).2.1.trans (State.runCreels_keeps _ _ _).2
  · refine State.LastUnit.of_eq ?_ (State.acquireFor_keeps _ _ slot core).2.2
    refine State.LastUnit.runCreels (u := s.placedUnit slot o u core row0) hnew o.creels ⟨[], ?_⟩
    exact congrArg (· ++ [s.placedUnit slot o u core row0]) hunits

end

/-- A placement adds its unit behind the others, and its threads stand at ENTRY. -/
theorem State.placeNew_places (s : State) (slot : Nat) (o : Obj) (u core row0 : Nat) (hunits : ∀ x ∈ s.units, x.uid ≠ s.nextId)
    (hthreads : ∀ t ∈ s.threads, t.tid < s.nextId) :
    (s.placeNew slot o u core row0).LastUnit s.units (s.placedUnit slot o u core row0) ∧
      ((s.placeNew slot o u core row0).slot slot).queue = (s.slot slot).queue ∧
      ∀ i, i < o.threads → ∃ t ∈ (s.placeNew slot o u core row0).threads, AtEntry o (s.placedUnit slot o u core row0) i t := by
  obtain ⟨q, hq, hqthreads, hqqueue, hqunits⟩ := s.placeNew_eq slot o u core row0
  obtain ⟨hkeepsUnits, hkeepsSlots⟩ := State.foldl_enterAt_keeps (s.placedThreads slot o u core row0) q
  rw [hq]
  refine ⟨(hqunits hunits).of_eq hkeepsUnits, (congrArg Slot.queue (State.slot_congr hkeepsSlots slot)).trans hqqueue, fun i hi => ?_⟩
  have hmem : newThread o (s.placedUnit slot o u core row0) (s.nextId + 1 + i) i (s.blockFor slot (o.item 0)) ∈
      s.placedThreads slot o u core row0 := List.mem_map.mpr ⟨i, List.mem_range.mpr hi, rfl⟩
  have hstart : q.ThreadIs (s.nextId + 1 + i) (AtEntry o (s.placedUnit slot o u core row0) i) := by
    rw [State.ThreadIs, hqthreads]
    refine ⟨⟨_, List.mem_append_right _ hmem, rfl⟩, fun t ht htid => ?_⟩
    rcases List.mem_append.mp ht with hold | hnew
    · have := hthreads t hold
      omega
    · obtain ⟨j, -, rfl⟩ := List.mem_map.mp hnew
      obtain rfl : j = i := by
        have : s.nextId + 1 + j = s.nextId + 1 + i := htid
        omega
      exact newThread_atEntry _ _ _ _ _
  refine State.ThreadIs.exists (tid := s.nextId + 1 + i) ?_
  refine State.ThreadIs.foldl_enterAt (entry := o.item 0) ?_ ?_ _ ?_ hstart
  · exact fun t st h => h
  · exact fun t b h => ⟨h.1, h.2.1, h.2.2.1, h.2.2.2.1, rfl, h.2.2.2.2.2⟩
  · intro t ht
    obtain ⟨j, -, rfl⟩ := List.mem_map.mp ht
    rfl

/-! ### The end of a unit (15 R344) -/

section
variable {s : State} {slot : Nat} {h : Word} {o : Obj} {f : Obj → Obj}

/-- A change of an object that keeps its handle is what a later look finds. -/
theorem State.obj?_mapObj (ho : s.obj? slot h = some o) (hf : ∀ x, (f x).handle = x.handle) :
    (s.mapObj slot h f).obj? slot h = some (f o) := by
  have hname : o.handle = h := by simpa using List.find?_some ho
  have hfind : ((s.slot slot).objs.map (fun x => if x.handle = h then f x else x)).find? (fun x => x.handle == h) =
      ((s.slot slot).objs.find? (fun x => x.handle == h)).map (fun x => if x.handle = h then f x else x) := by
    rw [List.find?_map]
    congr 2
    funext x
    simp only [Function.comp]
    split <;> simp [*]
  rw [State.obj?, State.mapObj, State.slot_mapSlot, if_pos rfl]
  refine hfind.trans ?_
  rw [show (s.slot slot).objs.find? (fun x => x.handle == h) = some o from ho, Option.map_some, if_pos hname]

theorem State.obj?_congr {s' : State} (hslots : s'.slots = s.slots) (slot : Nat) (h : Word) : s'.obj? slot h = s.obj? slot h := by
  rw [State.obj?, State.slot_congr hslots]
  rfl

end

theorem State.releaseUnit_keeps (s : State) (u : UnitSt) :
    (s.releaseUnit u).units = s.units ∧ (s.releaseUnit u).threads = s.threads ∧ (s.releaseUnit u).slots = s.slots := by
  have hpush := s.releasePush_onlyHomes u.core 3
  exact ⟨hpush.units, hpush.threads, hpush.slots⟩

/-- What leaves with a unit: the unit and its threads; its launch stays as it was but for its number on the core. -/
theorem State.removeUnit_removes {s : State} {u : UnitSt} (hu : s.unit? u.uid = some u) :
    (s.removeUnit u.uid).units = s.units.filter (fun x => x.uid != u.uid) ∧
      (s.removeUnit u.uid).threads = s.threads.filter (fun t => t.unit != u.uid) ∧
      ∀ o, s.obj? u.slot u.launch = some o →
        ∃ ns, (s.removeUnit u.uid).obj? u.slot u.launch = some { o with numbers := ns } := by
  simp only [State.removeUnit, hu, State.freeNumber]
  split
  · exact ⟨rfl, rfl, fun o ho => ⟨o.numbers, ho⟩⟩
  · exact ⟨rfl, rfl, fun o ho => ⟨_, State.obj?_mapObj (f := fun o => { o with numbers := Sparse.erase o.numbers u.core }) ho fun _ => rfl⟩⟩

theorem State.obj?_endDrain {s : State} {slot : Nat} {h : Word} {o : Obj} (ho : s.obj? slot h = some o) :
    ∃ ds, (s.endDrain slot h).obj? slot h = some { o with draining := ds } :=
  ⟨_, State.obj?_mapObj (f := fun o => { o with draining := o.draining.filter (fun c =>
    s.units.any (fun u => u.slot == slot && u.launch == h && u.core == c && u.pre == some .drain)) }) ho fun _ => rfl⟩

theorem State.countUnit_of_unfinished {s : State} {slot : Nat} {h : Word} {o : Obj} (ho : s.obj? slot h = some o) (hleft : o.done + 1 < o.total) :
    s.countUnit slot h = s.mapObj slot h (fun o => { o with done := o.done + 1 }) := by
  have hcounted := State.obj?_mapObj (f := fun o => { o with done := o.done + 1 }) ho fun _ => rfl
  simp only [State.countUnit, hcounted]
  exact if_neg (Nat.not_le.mpr hleft)

/-- A unit that has done all of it leaves, and its launch counts it. -/
theorem unitEnd_ends {s : State} {u : UnitSt} {o : Obj} (hu : s.unit? u.uid = some u) (hdone : s.unitDone u = true)
    (ho : s.obj? u.slot u.launch = some o) (hleft : o.done + 1 < o.total) :
    ∃ s' o', exec (.unitEnd u.uid) s = .next s' ∧ s'.units = s.units.filter (fun x => x.uid != u.uid) ∧
      (∀ t ∈ s'.threads, t.unit ≠ u.uid) ∧ s'.obj? u.slot u.launch = some o' ∧ o'.done = o.done + 1 ∧ o'.state = o.state := by
  obtain ⟨hunits, hthreads, hslots⟩ := s.releaseUnit_keeps u
  let q : State := { s.releaseUnit u with cmds := (s.releaseUnit u).cmds.filter (fun c => c.unit != u.uid) }
  have hqu : q.unit? u.uid = some u := by
    rw [← hu]
    exact congrArg (List.find? _) hunits
  have hqo : q.obj? u.slot u.launch = some o := (State.obj?_congr hslots _ _).trans ho
  obtain ⟨hrunits, hrthreads, hrobj⟩ := State.removeUnit_removes hqu
  obtain ⟨ns, hns⟩ := hrobj o hqo
  obtain ⟨ds, hdrained⟩ := State.obj?_endDrain hns
  have hexec : exec (.unitEnd u.uid) s = .next (((q.removeUnit u.uid).endDrain u.slot u.launch).countUnit u.slot u.launch) := by
    show execUnitEnd u.uid s = _
    simp only [execUnitEnd, hu, hdone]
    rfl
  rw [hexec, State.countUnit_of_unfinished hdrained hleft]
  refine ⟨_, _, rfl, hrunits.trans (congrArg _ hunits), fun t ht => ?_, State.obj?_mapObj hdrained fun _ => rfl, rfl, rfl⟩
  have ht' : t ∈ (q.removeUnit u.uid).threads := ht
  rw [hrthreads] at ht'
  simpa using (List.mem_filter.mp ht').2

/-- Settles O45: a placement adds its unit and its threads; the end of a unit removes them and counts it. -/
theorem unitsArePlacedAndEnd : Obligations.UnitsArePlacedAndEnd := by
  refine ⟨?places, fun s u o hu hdone ho _ hleft => unitEnd_ends hu hdone ho hleft⟩
  case places =>
    intro s slot o u core row0 queue hslot hended hpwr hpending hnext hunits hthreads
    let q : State := s.mapSlot slot (fun c => { c with queue := queue })
    have hexec : exec (.placeUnit slot) s = .next (q.placeNew slot o u core row0) := by
      show execPlaceUnit slot s = _
      simp [execPlaceUnit, Nat.not_le.mpr hslot, hended, hpwr, hpending, hnext]
      rfl
    have hqueue : (q.slot slot).queue = queue := by
      rw [State.slot_mapSlot, if_pos rfl]
    obtain ⟨⟨cs, hcs⟩, hkept, hentry⟩ := q.placeNew_places slot o u core row0 hunits hthreads
    refine ⟨_, _, hexec, hcs, rfl, rfl, rfl, rfl, rfl, rfl, rfl, rfl, rfl, rfl, rfl, rfl, rfl, hkept.trans hqueue, fun i hi => ?_⟩
    obtain ⟨t, ht, hat⟩ := hentry i hi
    exact ⟨t, ht, hat⟩

end Sys2Proof.Machine

/-!
# The choice and the ways of a pre-emption (15 R351 to R354)
-/
namespace Sys2Proof.Machine

/-! ### The cheapest way within the bound (15 R351) -/

theorem cheapest_one (w : PreWay) (n : Nat) : cheapest [(w, n)] = w := rfl

theorem cheapest_two (w x : PreWay) (n m : Nat) : cheapest [(w, n), (x, m)] = if m < n then x else w := by
  unfold cheapest
  by_cases h : m < n <;> simp [h]

theorem cheapest_three (w x y : PreWay) (n m k : Nat) :
    cheapest [(w, n), (x, m), (y, k)] = if m < n then (if k < m then y else x) else if k < n then y else w := by
  unfold cheapest
  by_cases h : m < n
  · by_cases h' : k < m <;> simp [h, h']
  · by_cases h' : k < n <;> simp [h, h']

section
variable (o : Obj) (used : Nat)

/-- What a drain costs: the rest of the expected time. -/
def Obj.drainCost : Nat := if used < (o.item 16).toNat then (o.item 16).toNat - used else 2 ^ 48 - 1

/-- What a save costs: a cycle for each line of the live bytes. -/
def Obj.saveCost : Nat := (o.liveBytes + 127) / 128

theorem preCosts_of_flush (h : o.opt 27 1 = 1) : preCosts o used = [(.drain, o.drainCost used), (.save, o.saveCost), (.flush, used)] := by
  simp only [preCosts, h, if_true]
  rfl

theorem preCosts_of_noFlush (h : o.opt 27 1 ≠ 1) : preCosts o used = [(.drain, o.drainCost used), (.save, o.saveCost)] := by
  simp only [preCosts, h, if_false]
  rfl

variable {o used}

theorem chooseWay_unbounded (own : Bool) :
    chooseWay o used 0 own = cheapest ((preCosts o used).filter (fun x => !(own && x.1 == .drain))) := rfl

/-- Under a bound that one way alone keeps, that way is taken. -/
theorem chooseWay_bounded {bound n : Nat} {w : PreWay} (hn : 0 < bound)
    (h : (preCosts o used).filter (fun x => decide (x.2 ≤ bound)) = [(w, n)]) : chooseWay o used bound false = w := by
  have hall : (preCosts o used).filter (fun x => !(false && x.1 == .drain)) = preCosts o used := List.filter_eq_self.mpr fun _ _ => rfl
  simp only [chooseWay, hall, h]
  exact if_neg (by simp; omega)

theorem drainCost_pos : 0 < o.drainCost used := by
  unfold Obj.drainCost
  split
  · omega
  · decide

theorem saveCost_pos : 0 < o.saveCost := by
  unfold Obj.saveCost Obj.liveBytes
  omega

/-- The allowed ways that a bound admits. -/
theorem admitted_eq (bound : Nat) : (preCosts o used).filter (fun x => decide (x.2 ≤ bound)) =
    (if o.drainCost used ≤ bound then [(.drain, o.drainCost used)] else []) ++ (if o.saveCost ≤ bound then [(.save, o.saveCost)] else []) ++
      (if o.opt 27 1 = 1 ∧ used ≤ bound then [(.flush, used)] else []) := by
  by_cases hflush : o.opt 27 1 = 1
  · rw [preCosts_of_flush o used hflush]
    simp only [List.filter_cons, List.filter_nil, decide_eq_true_eq, hflush, true_and]
    split <;> split <;> split <;> rfl
  · rw [preCosts_of_noFlush o used hflush]
    simp only [List.filter_cons, List.filter_nil, decide_eq_true_eq, hflush, false_and, if_false, List.append_nil]
    split <;> split <;> rfl

theorem chooseWay_two : o.opt 27 1 ≠ 1 → chooseWay o used 0 false = if o.drainCost used ≤ o.saveCost then .drain else .save := by
  intro hflush
  rw [chooseWay_unbounded, preCosts_of_noFlush o used hflush]
  refine (cheapest_two _ _ _ _).trans ?_
  simp only [← Nat.not_lt, ite_not]

theorem chooseWay_three : o.opt 27 1 = 1 → chooseWay o used 0 false =
    if o.drainCost used ≤ o.saveCost ∧ o.drainCost used ≤ used then .drain else if o.saveCost ≤ used then .save else .flush := by
  intro hflush
  rw [chooseWay_unbounded, preCosts_of_flush o used hflush]
  refine (cheapest_three _ _ _ _ _ _).trans ?_
  grind

theorem chooseWay_drain {bound : Nat} (hd : o.drainCost used ≤ bound) (hs : bound < o.saveCost) (hf : o.opt 27 1 = 1 → bound < used) :
    chooseWay o used bound false = .drain := by
  refine chooseWay_bounded (n := o.drainCost used) (Nat.lt_of_lt_of_le drainCost_pos hd) ?_
  rw [admitted_eq, if_pos hd, if_neg (Nat.not_le.mpr hs), if_neg fun h => absurd h.2 (Nat.not_le.mpr (hf h.1))]
  rfl

theorem chooseWay_save {bound : Nat} (hd : bound < o.drainCost used) (hs : o.saveCost ≤ bound) (hf : o.opt 27 1 = 1 → bound < used) :
    chooseWay o used bound false = .save := by
  refine chooseWay_bounded (n := o.saveCost) (Nat.lt_of_lt_of_le saveCost_pos hs) ?_
  rw [admitted_eq, if_neg (Nat.not_le.mpr hd), if_pos hs, if_neg fun h => absurd h.2 (Nat.not_le.mpr (hf h.1))]
  rfl

theorem chooseWay_flush {bound : Nat} (hd : bound < o.drainCost used) (hs : bound < o.saveCost) (hflush : o.opt 27 1 = 1) (hu : used ≤ bound) :
    chooseWay o used bound false = .flush := by
  rcases Nat.eq_zero_or_pos bound with rfl | hbound
  · rw [chooseWay_three hflush, if_neg (by omega), if_neg (by omega)]
  · refine chooseWay_bounded (n := used) hbound ?_
    rw [admitted_eq, if_neg (Nat.not_le.mpr hd), if_neg (Nat.not_le.mpr hs), if_pos ⟨hflush, hu⟩]
    rfl

/-- A unit that waits for its own pre-emption, where a flush is not allowed, can be saved alone. -/
theorem chooseWay_own_save (bound : Nat) (hflush : o.opt 27 1 ≠ 1) : chooseWay o used bound true = .save := by
  have hleft : (preCosts o used).filter (fun x => !(true && x.1 == .drain)) = [(.save, o.saveCost)] := by
    rw [preCosts_of_noFlush o used hflush]
    rfl
  by_cases hs : o.saveCost ≤ bound
  · have hm : [((PreWay.save, o.saveCost) : PreWay × Nat)].filter (fun x => decide (x.2 ≤ bound)) = [(.save, o.saveCost)] := by simp [hs]
    simp only [chooseWay, hleft, hm]
    split <;> rfl
  · have hm : [((PreWay.save, o.saveCost) : PreWay × Nat)].filter (fun x => decide (x.2 ≤ bound)) = [] := by simp [hs]
    simp only [chooseWay, hleft, hm]
    exact if_pos (by simp)

theorem chooseWay_own_flush (hflush : o.opt 27 1 = 1) :
    chooseWay o used 0 true = if o.saveCost ≤ used then .save else .flush := by
  rw [chooseWay_unbounded, preCosts_of_flush o used hflush]
  refine (cheapest_two .save .flush o.saveCost used).trans ?_
  simp only [← Nat.not_lt, ite_not]

end

theorem cheapestWayWithinTheBound : Claims.CheapestWayWithinTheBound := by
  intro o used bound
  refine ⟨?two, ?three, chooseWay_drain, chooseWay_save, chooseWay_flush, chooseWay_own_save bound, ?ownFlush⟩
  case two =>
    rintro hflush rfl
    exact chooseWay_two hflush
  case three =>
    rintro hflush rfl
    exact chooseWay_three hflush
  case ownFlush =>
    rintro hflush rfl
    exact chooseWay_own_flush hflush

/-! ### What a pre-emption does (15 R352) -/

section
variable {s : State} {u : UnitSt} {e : Nat} (hu : s.unit? u.uid = some u) (hpre : u.pre = none)
include hu hpre

theorem preemptUnit_idle (hwants : u.wants = []) (hstarving : s.starving = false) : exec (.preemptUnit u.uid e) s = .next s := by
  show execPreemptUnit u.uid e s = _
  simp [execPreemptUnit, hu, hpre, hwants, hstarving]

theorem preemptUnit_begins {b : Nat} (hb : u.wants.head? = some b ∨ (u.wants = [] ∧ s.starving = true ∧ b = e)) :
    exec (.preemptUnit u.uid e) s = .next (s.beginPre u b) := by
  show execPreemptUnit u.uid e s = _
  rcases hb with hhead | ⟨hwants, hstarving, rfl⟩
  · obtain ⟨l, hwants⟩ := List.head?_eq_some_iff.mp hhead
    simp [execPreemptUnit, hu, hpre, hwants]
  · simp [execPreemptUnit, hu, hpre, hwants, hstarving]

end

section
variable {s : State} {u : UnitSt} {o : Obj} {b : Nat} (ho : s.obj? u.slot u.launch = some o)
include ho

theorem State.beginPre_drain (hway : chooseWay o (s.usedBy u) b (s.ownPmreq u) = .drain) : s.beginPre u b =
    (s.mapUnit u.uid (fun u => { u with pre := some .drain, wants := [] })).mapObj u.slot u.launch (fun o =>
      { o with draining := o.draining ++ [u.core] }) := by
  rw [State.beginPre]
  simp only [ho, hway]

theorem State.beginPre_save (hway : chooseWay o (s.usedBy u) b (s.ownPmreq u) = .save) :
    s.beginPre u b = s.mapUnit u.uid (fun u => { u with pre := some .save, stopped := true, wants := [] }) := by
  rw [State.beginPre]
  simp only [ho, hway]

theorem State.beginPre_flush (hway : chooseWay o (s.usedBy u) b (s.ownPmreq u) = .flush) : s.beginPre u b = s.flushUnit u := by
  rw [State.beginPre]
  simp only [ho, hway]

end

/-- A removal leaves the queues and the saved units as they were. -/
theorem State.removeUnit_keeps (s : State) (uid n : Nat) :
    ((s.removeUnit uid).slot n).queue = (s.slot n).queue ∧ (s.removeUnit uid).saved = s.saved := by
  rw [State.removeUnit]
  split
  · exact ⟨rfl, rfl⟩
  · rw [State.freeNumber]
    split
    · exact ⟨rfl, rfl⟩
    · refine ⟨?_, rfl⟩
      rw [State.mapObj, State.slot_mapSlot]
      split
      · next h => subst h; rfl
      · rfl

/-- A change of an object leaves the queues as they were. -/
theorem State.queue_mapObj (s : State) (slot : Nat) (h : Word) (f : Obj → Obj) (n : Nat) :
    ((s.mapObj slot h f).slot n).queue = (s.slot n).queue := by
  rw [State.mapObj, State.slot_mapSlot]
  split
  · next hn => subst hn; rfl
  · rfl

theorem State.flushUnit_requeues {s : State} {u : UnitSt} (hu : s.unit? u.uid = some u) :
    (s.flushUnit u).units = s.units.filter (fun x => x.uid != u.uid) ∧
      ((s.flushUnit u).slot u.slot).queue = (s.slot u.slot).queue ++ [(u.launch, u.index, u.index + 1)] ∧ (s.flushUnit u).mem = s.mem := by
  obtain ⟨hunits, -, -⟩ := State.removeUnit_removes (s := s.discardCmds u.uid) hu
  refine ⟨hunits, ?_, by simp⟩
  rw [State.flushUnit, State.slot_mapSlot, if_pos rfl]
  refine congrArg (· ++ [(u.launch, u.index, u.index + 1)]) ?_
  exact (State.queue_mapObj _ _ _ _ _).trans ((s.discardCmds u.uid).removeUnit_keeps u.uid u.slot).1

/-! ### The save and the restore of a unit (15 R352, R353) -/

/-- A cell of a range that a save has stored. -/
theorem read_cellsFrom (m : Sparse Byte) {lo n i : Nat} (hi : i < n) : Memory.read (cellsFrom m lo n) i = Memory.read m (lo + i) := by
  have hfind : Sparse.find (cellsFrom m lo n) i = Sparse.find m (lo + i) := by
    unfold cellsFrom
    induction m with
    | nil => rfl
    | cons p m ih =>
      obtain ⟨j, v⟩ := p
      by_cases hin : lo ≤ j ∧ j < lo + n
      · have hkey : j - lo = i ↔ j = lo + i := by omega
        simp [hin, Sparse.find, hkey, ih]
      · have hkey : j ≠ lo + i := by omega
        simp [hin, Sparse.find, hkey, ih]
  rw [Memory.read, Memory.read, Sparse.get, Sparse.get, hfind]

theorem State.leaveCore_leaves {s : State} {u : UnitSt} (hu : s.unit? u.uid = some u) (v : Saved) :
    (s.leaveCore u v).saved = s.saved ++ [v] ∧ (s.leaveCore u v).units = s.units.filter (fun x => x.uid != u.uid) ∧
      ∀ t ∈ (s.leaveCore u v).threads, t.unit ≠ u.uid := by
  obtain ⟨hunits, hthreads, -⟩ := s.releaseUnit_keeps u
  let q : State := { s.releaseUnit u with cmds := (s.releaseUnit u).cmds.filter (fun c => c.unit != u.uid) }
  have hqu : q.unit? u.uid = some u := by
    rw [← hu]
    exact congrArg (List.find? _) hunits
  have hsaved : q.saved = s.saved := by
    rw [show q.saved = (s.releasePush u.core 3).saved from rfl, s.releasePush_onlyHomes u.core 3]
  obtain ⟨hrunits, hrthreads, -⟩ := State.removeUnit_removes hqu
  refine ⟨congrArg (· ++ [v]) ((q.removeUnit_keeps u.uid 0).2.trans hsaved), hrunits.trans (congrArg _ hunits), fun t ht => ?_⟩
  have ht' : t ∈ (q.removeUnit u.uid).threads := ht
  rw [hrthreads] at ht'
  simpa using (List.mem_filter.mp ht').2

theorem saveUnitComplete_stores {s : State} {u : UnitSt} (hu : s.unit? u.uid = some u) (hpre : u.pre = some .save) (hop : u.saveOp = none)
    (hmay : s.mayStore u = true) : exec (.saveUnitComplete u.uid) s = .next (s.leaveCore u (s.storeUnit u)) := by
  show execSaveUnitComplete u.uid s = _
  simp [execSaveUnitComplete, hu, hpre, hop, hmay]

theorem restoreUnit_places {s : State} {v : Saved} {o : Obj} {core row0 : Nat} (hv : s.saved.find? (fun x => x.id == v.id) = some v)
    (ho : s.obj? v.unit.slot v.unit.launch = some o) (himage : v.image = none) (hload : v.loadOp = none) (hpwr : s.pwr = .run)
    (hpending : s.clehild.pending = none) (hplace : s.restorePlace v o = some (core, row0)) :
    exec (.restoreUnit v.id) s = .next (s.placeSaved v o core row0) := by
  show execRestoreUnit v.id s = _
  simp [execRestoreUnit, hv, ho, himage, hload, hpwr, hpending, hplace]

theorem unitsArePreemptedAndRestored : Claims.UnitsArePreemptedAndRestored := by
  refine ⟨fun s u e hu hpre hwants hstarving => preemptUnit_idle hu hpre hwants hstarving, ?ways, ?save,
    fun s v o core row0 hv ho himage hload hpwr hpending hplace => restoreUnit_places hv ho himage hload hpwr hpending hplace⟩
  case ways =>
    intro s u e b o hu hpre hb ho
    refine ⟨fun hway => ?_, fun hway => ?_, fun hway => ?_⟩
    · rw [preemptUnit_begins hu hpre hb, State.beginPre_drain ho hway]
    · rw [preemptUnit_begins hu hpre hb, State.beginPre_save ho hway]
    · rw [preemptUnit_begins hu hpre hb, State.beginPre_flush ho hway]
      exact ⟨_, rfl, State.flushUnit_requeues hu⟩
  case save =>
    intro s u hu hpre hop hmay
    obtain ⟨hsaved, hunits, hthreads⟩ := State.leaveCore_leaves hu (s.storeUnit u)
    exact ⟨_, s.storeUnit u, saveUnitComplete_stores hu hpre hop hmay, hsaved, rfl, rfl, rfl, rfl, rfl, rfl, rfl,
      fun i hi _ => read_cellsFrom _ hi, hunits, hthreads⟩

/-- Settles O46: the cheapest allowed way, and what each way does. -/
theorem preemptionChoosesAndActs : Obligations.PreemptionChoosesAndActs :=
  ⟨cheapestWayWithinTheBound, unitsArePreemptedAndRestored⟩

end Sys2Proof.Machine

/-!
# Images of units (16 R367, R368)
-/
namespace Sys2Proof.Machine

/-! ### `ctxsave` and `ctxload` at issue -/

/-- A word of a supervisor whose own checks find a fault raises it. -/
theorem Raises.of_levelled {α : Type} {i : Instr} {named : Hints → List Reg} {reads : Hints → List (Cls × Reg)}
    {ok : Ctx → State → Thread → Prop} {f : Ctx → State → Thread → FaultInfo} {m : Meaning α} {F : State → Ctx → Thread → α → State × After}
    (hi : ∀ s, exec i s = .next (issue m s)) (hact : m.act = eachThread F) (hgrp : ∀ s c, m.group s c [] = (s, none))
    (hmis : ∀ c, m.misplaced c = false) (hpast : ∀ h, (m.shape h).past = none) (hnamed : ∀ h, ∀ q ∈ (m.shape h).named, q ∈ named h)
    (hreads : ∀ h, (m.shape h).reads = reads h) (hcode : ∀ c s t, (f c s t).code ≠ 0x0901)
    (h : ∀ c s t, ok c s t → t.level.allows (m.shape c.hints).level = true ∧ m.pre s c t = (s, .error (.fault (f c s t)))) :
    Raises i named reads ok f := by
  intro s st t halone hready hok
  obtain ⟨hlevel, hpre⟩ := h _ _ _ hok
  have hready' : OperandsReady s t (m.shape st.hints).named (m.shape st.hints).reads := by
    rw [hreads]
    exact hready.of_subset (hnamed _)
  have hstop : commonStop (s.atWord st) (m.misplaced (s.ctx st)) (m.shape (s.ctx st).hints) t = none := by
    have huser := commonStop_none (s := s.atWord st) (sh := { m.shape st.hints with level := .user }) (t := t) rfl (hpast _) hready'.atWord
    rw [State.ctx_hints] at hlevel ⊢
    rw [hmis]
    unfold commonStop at huser ⊢
    simp only [hlevel, Bool.not_true, Bool.false_eq_true, if_false] at huser ⊢
    simpa [Level.allows_user] using huser
  rw [hi, halone.issue_fault (hcode _ _ _) _ (by rw [hact]; rfl) hgrp]
  simp only [Meaning.check, hstop, hpre]

/-- What a supervisor needs to save or load an image at an address: room in its counter, and a page of the canonical range. -/
def MaySave (t : Thread) (a : Reg) : Prop :=
  t.level ≠ .user ∧ t.full .st = false ∧ canonical (t.pair a) = true ∧ (t.pair a).toNat % 4096 = 0

theorem imageAddress_passes {t : Thread} {a : Reg} (h : MaySave t a) : imageAddress t a = .ok () := by
  obtain ⟨-, hroom, hcanon, halign⟩ := h
  simp [imageAddress, hroom, hcanon, halign]

theorem State.isSome_thread?_mapUnit (s : State) (uid : Nat) (f : UnitSt → UnitSt) (n : Nat) :
    ((s.mapUnit uid f).thread? n).isSome = (s.thread? n).isSome := rfl

section
variable (d a b : Reg)

/-- The operation of a `ctxsave` or a `ctxload`. -/
def imageOp (d : Reg) (c : Ctx) (s : State) (t : Thread) (k : OpKind) : Op := { s.newOp c t .st k with dsts := [d], tag := .int }

theorem ctxsave_acts (u : UnitSt) : Acts (.ctxsave d a b) (fun _ => [d] ++ pairRegs a ++ [b]) (fun _ => [(.int64, a), (.int, b)])
    (fun _ s t => MaySave t a ∧ s.savable t (s.operand t .int b) = some u)
    (fun c s t => (s.addOp (imageOp d c s t (.saveUnit (t.pair a) u.uid))).mapUnit u.uid (fun u => { u with
      pre := some .save, stopped := true, saveOp := some s.nextId })) := by
  refine Acts.of_subset (named' := fun _ => [d] ++ pairNames a ++ [b])
    (Acts.of_levelled (fun _ => rfl) rfl (fun _ => rfl) (fun _ => rfl) (fun _ => rfl) (fun _ => rfl) ?_) fun _ _ => by simp
  rintro c s t ⟨hgood, hsavable⟩
  refine ⟨Level.allows_supervisor hgood.1, (), congrArg (Prod.mk _) (imageAddress_passes hgood), rfl, ?_,
    fun n => State.isSome_thread?_addOp s _ n⟩
  simp only [State.intOf_eq_operand, hsavable]
  rfl

/-- Of a unit that it may not save, `ctxsave` gives 0. -/
theorem ctxsave_acts_none : Acts (.ctxsave d a b) (fun _ => [d] ++ pairRegs a ++ [b]) (fun _ => [(.int64, a), (.int, b)])
    (fun c s t => MaySave t a ∧ s.savable t (s.operand t .int b) = none ∧
      (((s.addOp (imageOp d c s t (.saveUnit (t.pair a) 0))).arrive s.nextId (fun p => { p with data := [0] })).thread? t.tid).isSome = true)
    (fun c s t => (s.addOp (imageOp d c s t (.saveUnit (t.pair a) 0))).arrive s.nextId (fun p => { p with data := [0] })) := by
  refine Acts.of_subset (named' := fun _ => [d] ++ pairNames a ++ [b]) (Acts.of_issue (fun _ => rfl) rfl (fun _ => rfl) ?_) fun _ _ => by simp
  rintro s st t halone - - ⟨hgood, hsavable, hstays⟩
  refine ⟨(), s.atWord st, rfl, Level.allows_supervisor hgood.1, rfl, rfl, congrArg (Prod.mk _) (imageAddress_passes hgood), rfl, rfl, ?_, hstays⟩
  simp only [State.intOf_eq_operand, hsavable]
  rfl

theorem State.loadMore_eq {s : State} {o : Op} {addr : Pair} {core : Word} (hkind : o.kind = .loadUnit addr core) (hserved : o.served = false)
    (harrived : o.arrived = false) (hawaits : s.awaits o.id = false) : s.loadMore o = s.loadFrom o.id addr core := by
  simp only [State.loadMore, hkind, hserved, harrived, hawaits, Bool.or_self, Bool.false_eq_true, if_false]

theorem ctxload_acts : Acts (.ctxload d a b) (fun _ => [d] ++ pairRegs a ++ [b]) (fun _ => [(.int64, a), (.int, b)])
    (fun c s t => MaySave t a ∧ s.awaits s.nextId = false ∧
      (((s.addOp (imageOp d c s t (.loadUnit (t.pair a) (s.operand t .int b)))).loadFrom s.nextId (t.pair a) (s.operand t .int b)).thread?
        t.tid).isSome = true)
    (fun c s t => (s.addOp (imageOp d c s t (.loadUnit (t.pair a) (s.operand t .int b)))).loadFrom s.nextId (t.pair a) (s.operand t .int b)) := by
  refine Acts.of_subset (named' := fun _ => [d] ++ pairNames a ++ [b]) (Acts.of_issue (fun _ => rfl) rfl (fun _ => rfl) ?_) fun _ _ => by simp
  rintro s st t halone - - ⟨hgood, hawaits, hstays⟩
  refine ⟨(), s.atWord st, rfl, Level.allows_supervisor hgood.1, rfl, rfl, congrArg (Prod.mk _) (imageAddress_passes hgood), rfl, rfl, ?_, hstays⟩
  exact congrArg (·, After.go) (State.loadMore_eq (o := imageOp d (s.ctx st) (s.atWord st) t (.loadUnit (t.pair a) ((s.atWord st).operand t .int b)))
    rfl rfl rfl hawaits)

/-- The faults of the address (16 R367, R368). -/
theorem image_raises {i : Instr} (hi : i ∈ [Instr.ctxsave d a b, .ctxload d a b]) :
    Raises i (fun _ => [d] ++ pairRegs a ++ [b]) (fun _ => [(.int64, a), (.int, b)])
        (fun _ _ t => t.level ≠ .user ∧ t.full .st = false ∧ canonical (t.pair a) = false)
        (fun _ _ t => { code := 0x0507, addr := t.pair a }) ∧
      Raises i (fun _ => [d] ++ pairRegs a ++ [b]) (fun _ => [(.int64, a), (.int, b)])
        (fun _ _ t => t.level ≠ .user ∧ t.full .st = false ∧ canonical (t.pair a) = true ∧ (t.pair a).toNat % 4096 ≠ 0)
        (fun _ _ t => { code := 0x0505, addr := t.pair a }) := by
  have hcanonFault : ∀ (s : State) (t : Thread), t.full .st = false → canonical (t.pair a) = false →
      (s, imageAddress t a) = (s, .error (.fault { code := 0x0507, addr := t.pair a })) := by
    intro s t hroom hcanon
    simp [imageAddress, hroom, hcanon]
  have halignFault : ∀ (s : State) (t : Thread), t.full .st = false → canonical (t.pair a) = true → (t.pair a).toNat % 4096 ≠ 0 →
      (s, imageAddress t a) = (s, .error (.fault { code := 0x0505, addr := t.pair a })) := by
    intro s t hroom hcanon halign
    simp [imageAddress, hroom, hcanon, halign]
  have hnamed : ∀ q ∈ [d] ++ pairNames a ++ [b], q ∈ [d] ++ pairRegs a ++ [b] := by simp
  simp only [List.mem_cons, List.not_mem_nil, or_false] at hi
  rcases hi with rfl | rfl
  all_goals
    constructor
    · refine Raises.of_levelled (fun _ => rfl) rfl (fun _ _ => rfl) (fun _ => rfl) (fun _ => rfl) (fun _ => hnamed) (fun _ => rfl)
        (fun _ _ _ => show (0x0507 : Nat) ≠ 0x0901 by decide) ?_
      exact fun c s t ⟨hlevel, hroom, hcanon⟩ => ⟨Level.allows_supervisor hlevel, hcanonFault s t hroom hcanon⟩
    · refine Raises.of_levelled (fun _ => rfl) rfl (fun _ _ => rfl) (fun _ => rfl) (fun _ => rfl) (fun _ => hnamed) (fun _ => rfl)
        (fun _ _ _ => show (0x0505 : Nat) ≠ 0x0901 by decide) ?_
      exact fun c s t ⟨hlevel, hroom, hcanon, halign⟩ => ⟨Level.allows_supervisor hlevel, halignFault s t hroom hcanon halign⟩

end

/-! ### The head of an image (16 R367) -/

theorem digestBytes_length (x : BitVec 256) : (digestBytes x).length = 32 := by
  rw [digestBytes, List.length_reverse, leBytes_length]

/-- An image is its size, its context id, its handle and its index, then a digest of what follows, and that. -/
theorem imageBytes_eq (o : Obj) (v : Saved) (cid num free : Nat) : imageBytes o v cid num free =
    (leBytes 4 (imageLen o) ++ leBytes 4 cid ++ leBytes 4 v.unit.launch.toNat ++ leBytes 4 v.unit.index) ++
      (digestBytes (sha256 (imageBody o v num free)) ++ imageBody o v num free) := by
  simp only [imageBytes, List.append_assoc]

theorem imageBytes_head (o : Obj) (v : Saved) (cid num free : Nat) : (imageBytes o v cid num free).take 16 =
      leBytes 4 (imageLen o) ++ leBytes 4 cid ++ leBytes 4 v.unit.launch.toNat ++ leBytes 4 v.unit.index ∧
    ((imageBytes o v cid num free).drop 16).take 32 = digestBytes (sha256 ((imageBytes o v cid num free).drop 48)) := by
  have hlen : (leBytes 4 (imageLen o) ++ leBytes 4 cid ++ leBytes 4 v.unit.launch.toNat ++ leBytes 4 v.unit.index).length = 16 := by
    simp [leBytes_length]
  rw [imageBytes_eq]
  generalize imageBody o v num free = body
  have hdigest : (digestBytes (sha256 body)).length = 32 := digestBytes_length _
  generalize leBytes 4 (imageLen o) ++ leBytes 4 cid ++ leBytes 4 v.unit.launch.toNat ++ leBytes 4 v.unit.index = head at hlen ⊢
  have hdrop : (head ++ (digestBytes (sha256 body) ++ body)).drop 16 = digestBytes (sha256 body) ++ body := List.drop_left' hlen
  have hrest : (head ++ (digestBytes (sha256 body) ++ body)).drop 48 = body := by
    rw [show 48 = 16 + 32 from rfl, ← List.drop_drop, hdrop]
    exact List.drop_left' hdigest
  rw [hdrop, hrest]
  exact ⟨List.take_left' hlen, List.take_left' hdigest⟩

/-! ### What `ctxload` makes of an image (16 R368) -/

/-- The header, the digest and the launch of an image agree with the context that loads it. -/
def State.ImageGood (s : State) (slot : Nat) (l : Obj) (v : Saved) (head img : List Byte) (core : Word) : Prop :=
  l.ended = false ∧ leNat (head.take 4) = imageLen l ∧ leNat ((head.drop 4).take 4) = (s.slot slot).cid ∧
    (head.drop 16).take 32 = digestBytes (sha256 (img.drop 48)) ∧ coreNamed core l v = true

section
variable {s s1 s2 : State} {id : Nat} {addr : Pair} {core : Word} {o p : Op} {l : Obj}
  (hhead : s.imageRead id addr 4096 20 = (s1, .done)) (ho : s1.op? id = some o)
  (hl : s1.obj? o.slot (headLaunch (o.imageSoFar.take 4096)) = some l)
  (hread : s1.imageRead id addr (imageLen l) (imageLen l / 256 + 20) = (s2, .done)) (hp : s2.op? id = some p)
include hhead ho hl hread hp

theorem State.loadFrom_bad (h : ¬s2.ImageGood o.slot l (s2.savedFor o.slot l (o.imageSoFar.take 4096)) (o.imageSoFar.take 4096)
    (p.imageSoFar.take (imageLen l)) core) : s.loadFrom id addr core = s2.arrive id (fun p => { p with data := [0] }) := by
  rw [State.loadFrom]
  simp only [hhead, ho, hl, hread, hp]
  refine if_pos ?_
  by_contra hnone
  simp only [Bool.or_eq_true, not_or, Bool.not_eq_true, decide_eq_false_iff_not, not_not, bne_eq_false_iff_eq, Bool.not_eq_false'] at hnone
  obtain ⟨⟨⟨⟨hended, hlen⟩, hcid⟩, hdigest⟩, hcore⟩ := hnone
  exact h ⟨hended, hlen, hcid, hdigest, hcore⟩

theorem State.loadFrom_good (h : s2.ImageGood o.slot l (s2.savedFor o.slot l (o.imageSoFar.take 4096)) (o.imageSoFar.take 4096)
    (p.imageSoFar.take (imageLen l)) core) : s.loadFrom id addr core =
      s2.takeImage o l (s2.fromHead (s2.savedFor o.slot l (o.imageSoFar.take 4096)) l (p.imageSoFar.take (imageLen l)))
        (p.imageSoFar.take (imageLen l)) core := by
  obtain ⟨hended, hlen, hcid, hdigest, hcore⟩ := h
  rw [State.loadFrom]
  simp only [hhead, ho, hl, hread, hp]
  refine if_neg ?_
  simp only [Bool.or_eq_true, not_or, Bool.not_eq_true, decide_eq_false_iff_not, not_not, bne_eq_false_iff_eq, Bool.not_eq_false']
  exact ⟨⟨⟨⟨hended, hlen⟩, hcid⟩, hdigest⟩, hcore⟩

end

theorem State.op?_id {s : State} {id : Nat} {o : Op} (h : s.op? id = some o) : o.id = id := by simpa using List.find?_some h

/-- Settles O47: the operations, the faults and the head of an image, then what its read decides. -/
theorem imagesAreSavedAndLoaded : Obligations.ImagesAreSavedAndLoaded := by
  intro d a b
  refine ⟨ctxsave_acts d a b, ctxsave_acts_none d a b, ctxload_acts d a b, fun i hi => image_raises d a b hi,
    fun o v cid num free => imageBytes_head o v cid num free, ?load⟩
  case load =>
    intro s id addr core s1 o l s2 p hhead ho head hl hread hp img v good want q w
    refine ⟨fun hbad => State.loadFrom_bad hhead ho hl hread hp hbad, fun hgood => ?_⟩
    rw [State.loadFrom_good hhead ho hl hread hp hgood, State.takeImage, State.op?_id ho]

end Sys2Proof.Machine

/-!
# The host's messages in the order of their numbers (16 R371, R373, R379)
-/
namespace Sys2Proof.Machine

section
variable {i : Instr} {h : MsgHead} {typ : Nat} {m : HostMsg} {s : State}

/-- A numbered message is received under its header and its TYPE. -/
theorem HostEvent.receives (he : HostEvent i h typ m) (s : State) : exec i s = .next (s.receive m) ∧ m.head = (h, typ) := by
  rcases he with ⟨_, _, rfl, rfl, rfl⟩ | ⟨_, rfl, rfl, rfl⟩ | ⟨_, rfl, rfl, rfl⟩ | ⟨_, rfl, rfl, rfl⟩ | ⟨_, _, rfl, rfl, rfl⟩ |
    ⟨_, rfl, rfl, rfl⟩ | ⟨_, _, _, _, rfl, rfl, rfl⟩ | ⟨_, rfl, rfl, rfl⟩ | ⟨_, _, rfl, rfl, rfl⟩ | ⟨_, _, _, _, _, rfl, rfl, rfl⟩ |
    ⟨_, _, rfl, rfl, rfl⟩ | ⟨_, rfl, rfl, rfl⟩
  all_goals exact ⟨rfl, rfl⟩

theorem seqGap_self (n : Nat) : seqGap n n = 0 := by
  simp [seqGap]

theorem State.closeGap_of_none (hwaiting : s.clehild.waiting = []) : s.closeGap = s := by
  rw [State.closeGap, hwaiting]
  rfl

theorem State.passed_serves (s : State) (h : MsgHead) (typ : Nat) : (s.passed h).serves typ = s.serves typ := rfl

theorem State.deliver_eq (hm : m.head = (h, typ)) : s.deliver m =
    if badHead h typ || !s.serves typ then (s.passed h).reply h.vf [1] else (s.passed h).actOn m := by
  rw [← s.passed_serves h typ]
  simp only [State.deliver, hm]
  rfl

/-- The next message is delivered, then what waited behind it. -/
theorem State.receive_next (hm : m.head = (h, typ)) (hepoch : h.epoch = s.clehild.epoch) (hseq : h.seq = s.clehild.nextIn) :
    s.receive m = (s.deliver m).closeGap := by
  simp only [State.receive, hm, hepoch, hseq, seqGap_self, ne_eq, not_true_eq_false, if_false, if_true]

theorem InOrder.badHead_eq (hin : InOrder s h typ) : badHead h typ = false := by
  obtain ⟨hrsvd, htyp, hvf, hhyp⟩ := hin.head
  simp only [badHead, hrsvd, htyp, Bool.or_eq_false_iff, Bool.and_eq_false_imp, bne_self_eq_false, beq_iff_eq, decide_eq_false_iff_not]
  exact ⟨⟨⟨trivial, trivial⟩, fun h20 => by rw [hhyp h20]; rfl⟩, Nat.not_le.mpr hvf⟩

theorem State.receive_performed (hm : m.head = (h, typ)) (hin : InOrder s h typ) (hwaiting : ((s.passed h).actOn m).clehild.waiting = []) :
    s.receive m = (s.passed h).actOn m := by
  rw [State.receive_next hm hin.epoch hin.seq, State.deliver_eq hm, hin.badHead_eq, hin.served]
  exact State.closeGap_of_none hwaiting

theorem State.receive_refused (hm : m.head = (h, typ)) (hepoch : h.epoch = s.clehild.epoch) (hseq : h.seq = s.clehild.nextIn)
    (hwaiting : s.clehild.waiting = []) (hbad : h.rsvd ≠ 0 ∨ h.typ ≠ typ ∨ (typ = 0x20 ∧ h.hyp = false) ∨ s.serves typ = false) :
    s.receive m = (s.passed h).reply h.vf [1] := by
  have hrefused : (badHead h typ || !s.serves typ) = true := by
    simp only [badHead, Bool.or_eq_true, Bool.and_eq_true, bne_iff_ne, beq_iff_eq, Bool.not_eq_true']
    tauto
  rw [State.receive_next hm hepoch hseq, State.deliver_eq hm, if_pos hrefused]
  exact State.closeGap_of_none hwaiting

theorem State.receive_duplicate (hm : m.head = (h, typ)) (hepoch : h.epoch = s.clehild.epoch) (hgap : 2 ^ 31 ≤ seqGap s.clehild.nextIn h.seq) :
    s.receive m = s.reply h.vf [] := by
  have hnew : seqGap s.clehild.nextIn h.seq ≠ 0 := by omega
  simp only [State.receive, hm, hepoch, ne_eq, not_true_eq_false, if_false, if_neg hnew, if_pos hgap]

theorem State.receive_past (hm : m.head = (h, typ)) (hepoch : h.epoch = s.clehild.epoch) (hpos : 0 < seqGap s.clehild.nextIn h.seq)
    (hgap : seqGap s.clehild.nextIn h.seq < 2 ^ 31) (hroom : s.clehild.waiting.length < 4096)
    (hnew : ∀ w ∈ s.clehild.waiting, w.head.1.seq ≠ h.seq) :
    s.receive m = { s with clehild := { s.clehild with waiting := s.clehild.waiting ++ [m] } } := by
  have hkept : ¬(s.clehild.waiting.any (fun w => w.head.1.seq == h.seq) || decide (4096 ≤ s.clehild.waiting.length)) = true := by
    simpa [Nat.not_le.mpr hroom] using hnew
  simp only [State.receive, hm, hepoch, ne_eq, not_true_eq_false, if_false, if_neg (Nat.pos_iff_ne_zero.mp hpos), if_neg (Nat.not_le.mpr hgap),
    if_neg hkept]

theorem State.receive_otherEpoch (hm : m.head = (h, typ)) (hepoch : h.epoch ≠ s.clehild.epoch) : s.receive m = s.reply h.vf [] := by
  simp only [State.receive, hm]
  exact if_pos hepoch

end

/-- Settles O48: by where the number of the message stands. -/
theorem hostMessagesAreDeliveredInOrder : Obligations.HostMessagesAreDeliveredInOrder := by
  intro i h typ m he s
  obtain ⟨hexec, hm⟩ := he.receives s
  rw [hexec]
  refine ⟨fun hin hwaiting => ?_, fun hepoch hseq _ hwaiting hbad => ?_, fun hepoch hgap => ?_, fun hepoch hpos hgap hroom hnew => ?_,
    fun hepoch => ?_⟩
  · rw [State.receive_performed hm hin hwaiting]
  · rw [State.receive_refused hm hepoch hseq hwaiting hbad]
  · rw [State.receive_duplicate hm hepoch hgap]
  · rw [State.receive_past hm hepoch hpos hgap hroom hnew]
  · rw [State.receive_otherEpoch hm hepoch]

end Sys2Proof.Machine

/-!
# What a message of the host does when its turn has come (16 R372, R380 to R382; 15 R341, R342, R345, R351)
-/

namespace Sys2Proof.Machine

section
variable {i : Instr} {h : MsgHead} {typ : Nat} {m : HostMsg} {s : State}

theorem InOrder.passed_waiting (hin : InOrder s h typ) : (s.passed h).clehild.waiting = [] := hin.alone

/-- A numbered message does what `actOn` does, where that leaves nothing behind a gap. -/
theorem HostEvent.delivers {ok : State → Prop} {f : State → State} (he : HostEvent i h typ m)
    (hacts : ∀ s, s.clehild.waiting = [] → ok s → s.actOn m = f s ∧ (f s).clehild.waiting = []) : Delivers i h typ ok f := by
  intro s hin hok
  obtain ⟨hexec, hm⟩ := he.receives s
  obtain ⟨hf, hwaiting⟩ := hacts (s.passed h) hin.passed_waiting hok
  rw [hexec, State.receive_performed hm hin (by rw [hf, hwaiting]), hf]

@[simp] theorem State.clehild_mapObj (s : State) (slot : Nat) (k : Word) (g : Obj → Obj) : (s.mapObj slot k g).clehild = s.clehild := rfl

@[simp] theorem State.clehild_addObj (s : State) (slot : Nat) (o : Obj) : (s.addObj slot o).clehild = s.clehild := rfl

@[simp] theorem State.waiting_reply (s : State) (slot : Nat) (ws : List Word) : (s.reply slot ws).clehild.waiting = s.clehild.waiting := rfl

@[simp] theorem State.waiting_send (s : State) (typ slot : Nat) (ws : List Word) :
    (s.send typ slot ws).clehild.waiting = s.clehild.waiting := rfl

@[simp] theorem State.clehild_saveUnits (s : State) : s.saveUnits.clehild = s.clehild := rfl

theorem State.clehild_checkEnd (s : State) (slot : Nat) (k : Word) (levels : Nat) : (s.checkEnd slot k levels).clehild = s.clehild := by
  induction levels generalizing s k with
  | zero => rfl
  | succ n ih =>
    rw [State.checkEnd]
    cases s.obj? slot k with
    | none => rfl
    | some o => exact apply_ite State.clehild _ _ _ |>.trans (by rw [ih]; exact ite_self _)

/-! ### Objects and launches -/

/-- A new object of a level from 1 to 3 whose parent, if it has one, is open. -/
theorem State.create_of_open {slot : Nat} {level parent x : Word} (hended : (s.slot slot).ended = false) (hlow : 1 ≤ level.toNat)
    (hhigh : level.toNat ≤ 3) (hx : s.newHandle slot level.toNat = some x)
    (hparent : level ≠ 3 → ∃ p, s.obj? slot parent = some p ∧ handleLevel parent = level.toNat + 1 ∧ p.ended = false ∧ p.closed = false) :
    s.create slot level parent = some (s.addObj slot { handle := x, parent := if level = 3 then 0 else parent }, x) := by
  have hthree : level.toNat = 3 ↔ level = 3 := ⟨fun hl => BitVec.eq_of_toNat_eq hl, fun hl => by rw [hl]; rfl⟩
  have hpos : level.toNat ≠ 0 := by omega
  by_cases htop : level = 3
  · subst htop
    simp only [State.create, hended, hx]
    rfl
  · obtain ⟨p, hp, hlevel, hlive, hopen⟩ := hparent htop
    simp [State.create, hended, hx, hp, hlevel, hlive, hopen, hthree, hpos, Nat.not_lt.mpr hhigh]

theorem State.doCreate_of_create {level parent x : Word} {q : State} (hc : s.create h.vf level parent = some (q, x)) :
    s.doCreate h level parent = q.reply h.vf [0, x] := by
  simp only [State.doCreate, hc]

theorem State.doClose_of_container {obj : Word} (hobj : (s.obj? h.vf obj).isSome = true) (hlevel : handleLevel obj ≠ 0) :
    s.doClose h obj = ((s.mapObj h.vf obj (fun o => { o with closed := true })).checkEnd h.vf obj 3).reply h.vf [0] := by
  obtain ⟨o, ho⟩ := Option.isSome_iff_exists.mp hobj
  simp only [State.doClose, ho, if_neg hlevel]

/-- The reply to a launch message carries the handle and the cause; only a launch that is made wakes the module. -/
theorem State.doLaunch_of_launchFrom {ws : List Word} {q : State} {x : Word} {n : Nat} (hended : (s.slot h.vf).ended = false)
    (hl : s.launchFrom h ws = (q, x, n)) (hawake : n = 0 → q.pwr ≠ .idle) :
    s.doLaunch h ws = q.reply h.vf [0, x, BitVec.ofNat 32 n] := by
  have hstays : ¬(decide (n = 0) && q.pwr == .idle) = true := by
    simpa using hawake
  simp only [State.doLaunch, hended, Bool.false_eq_true, if_false, hl, if_neg hstays]

theorem State.doPreempt_of_live {obj bound : Word} {o : Obj} (ho : s.obj? h.vf obj = some o) (hlive : o.ended = false) :
    s.doPreempt h obj bound = (s.askPre h.vf obj bound.toNat).reply h.vf [0] := by
  simp only [State.doPreempt, ho, hlive, Bool.false_eq_true, if_false]

theorem State.doCounts_of_obj {obj : Word} {o : Obj} (ho : s.obj? h.vf obj = some o) :
    s.doCounts h obj = s.reply h.vf [0, BitVec.ofNat 32 o.done, BitVec.ofNat 32 (o.done / 2 ^ 32), o.status] := by
  simp [State.doCounts, State.countWords, ho]

theorem State.doRegister_of_lt {n : Reg} {sel v : Word} (hn : n.toNat < 18) (write : Bool) :
    s.doRegister h write n sel v =
      if write then (s.sysWrite n.toNat sel v).reply h.vf [0] else s.reply h.vf [0, s.sysRead n.toNat sel] :=
  if_neg (Nat.not_le.mpr hn)

/-! ### States, quotes, images and checkpoints -/

section
variable {want : Word} {sec : Sec} {dbg : Dbg} (hsec : wantSec want = some sec) (hdbg : wantDbg want = some dbg) (hon : s.pwr ≠ .off)
  (hpwr : wantPwr want = s.pwr)
include hsec hdbg hon hpwr

/-- A request that keeps PWR and DBG is one for SEC. -/
theorem State.doRequest_sec (hchange : sec ≠ s.sec) (hsame : dbg = s.dbg) :
    s.doRequest h want = ((s.toSec sec).map (fun s => s.reply h.vf [0])).getD (s.reply h.vf [1]) := by
  simp only [State.doRequest, State.request21, hsec, hdbg, hpwr, if_neg hon, ne_eq, not_true_eq_false, if_false, hchange, hsame,
    not_false_eq_true, if_true]

/-- A request that keeps PWR and SEC is one for DBG. -/
theorem State.doRequest_dbg (hsame : sec = s.sec) (hchange : dbg ≠ s.dbg) :
    s.doRequest h want = ((s.toDbg dbg).map (fun s => s.reply h.vf [0])).getD (s.reply h.vf [1]) := by
  simp only [State.doRequest, State.request21, hsec, hdbg, hpwr, if_neg hon, ne_eq, not_true_eq_false, if_false, hchange, hsame,
    not_false_eq_true, if_true]

end

theorem State.toSec_opened (hboot : s.sec = .boot) (hm : s.clehild.measurement.isSome = true) :
    s.toSec .opened = some { s with sec := .opened } := by
  simp only [State.toSec, hboot, hm, if_true]

theorem State.toSec_tenant (hopened : s.sec = .opened) :
    s.toSec .tenant = if s.dbg != .halt && s.clehild.quoted then some { s with sec := .tenant } else none := by
  simp only [State.toSec, hopened]

theorem State.toDbg_opened (hopened : s.sec = .opened) (dbg : Dbg) : s.toDbg dbg = some { s with dbg := dbg } := by
  simp only [State.toDbg, hopened]

theorem State.toDbg_halt_of_tenant (htenant : s.sec = .tenant) : s.toDbg .halt = none := by
  simp only [State.toDbg, htenant]

theorem State.doAttest_of_opened {nonce : List Byte} {slot : Nat} (hnonce : nonce.length = 32) (hslot : slot < 16) (hopened : s.sec = .opened) :
    s.doAttest h nonce slot =
      ({ s with clehild := { s.clehild with quoted := true } } : State).send 0x22 h.vf (s.quote slot nonce) := by
  simp [State.doAttest, hnonce, Nat.not_le.mpr hslot, hopened]

theorem State.doFirmware_of_boot {image key : List Byte} {v : Nat} {r q : BitVec 256} (hboot : s.sec = .boot) :
    s.doFirmware h image v key r q =
      if sha256 key = Config.fusedKeyDigest ∧ ecdsaVerify (Config.keyPoint key).1 (Config.keyPoint key).2 (sha256 image) r q = true ∧
          Config.fusedMinVersion ≤ v then
        ({ s with sec := .opened, clehild := { s.clehild with measurement := some (sha256 image) } } : State).reply h.vf [0]
      else s.reply h.vf [2] := by
  have hnot : ¬(s.sec != .boot) = true := by simp [hboot]
  rw [State.doFirmware, if_neg hnot]
  exact if_congr (by simp [and_assoc]) rfl rfl

theorem State.doCheckpoint_save {tier : Nat × List (Nat × Byte)} (hidle : s.clehild.pending = none) :
    s.doCheckpoint h false tier =
      ({ s with clehild := { s.clehild with pending := some { pwr := none, slot := h.vf, tier := tier.1 } } } : State).saveUnits := by
  simp [State.doCheckpoint, hidle]

theorem State.doCheckpoint_restore {tier : Nat × List (Nat × Byte)} (hunits : s.units = []) :
    s.doCheckpoint h true tier = ({ s with
      mem := tier.2.foldl (fun m (p : Nat × Byte) => if p.1 < 2 ^ 40 then Memory.write m p.1 p.2 else m)
        (s.mem.filter (fun (p : Nat × Byte) => 2 ^ 40 ≤ p.1))
      codes := s.codes.filter (fun p => 2 ^ 35 ≤ p.1)
      cores := s.cores.map (fun (p : Nat × Core) => (p.1, { p.2 with l1 := [] }))
      dies := s.dies.map (fun (p : Nat × Die) => (p.1, { p.2 with remote := [] }))
      homeDirty := [] } : State).reply h.vf [0] := by
  have hnone : s.noUnits = true := by rw [State.noUnits, hunits]; rfl
  simp only [State.doCheckpoint, hnone, Bool.not_true, Bool.false_eq_true, if_false, if_true]

/-! ### Debug requests -/

theorem State.debug_read {q : DebugQuery} {ws : List Word} (hdbg : s.dbg ≠ .off) (hopened : s.sec = .opened) (hpwr : s.pwr ≠ .retention)
    (hread : s.debugRead q = some ws) : s.debug q = some (s, ws) := by
  simp only [State.debug, if_neg hdbg, if_neg hpwr, hopened, hread]

theorem State.debug_off (q : DebugQuery) (hdbg : s.dbg = .off) : s.debug q = none := if_pos hdbg

theorem State.debug_tenant {q : DebugQuery} (htenant : s.sec = .tenant) (hpwr : s.pwr ≠ .retention) (hq : q ≠ .counts) :
    s.debug q = none := by
  simp only [State.debug, if_neg hpwr, htenant, if_neg hq, ite_self]

theorem State.doDebug_of_some {q : DebugQuery} {r : State × List Word} (hd : s.debug q = some r) :
    s.doDebug h q = r.1.send 0x30 h.vf r.2 := by
  simp only [State.doDebug, hd]

theorem State.doDebug_of_none {q : DebugQuery} (hd : s.debug q = none) : s.doDebug h q = s.reply h.vf [1] := by
  simp only [State.doDebug, hd]

end

/-! ### The numbered messages as events -/

section
variable (h : MsgHead)

theorem hostEvent_create (level parent : Word) : HostEvent (.createObject h level parent) h 0x10 (.create h level parent) := by
  simp [HostEvent]

theorem hostEvent_close (obj : Word) : HostEvent (.closeObject h obj) h 0x11 (.close h obj) := by
  simp [HostEvent]

theorem hostEvent_launch (ws : List Word) : HostEvent (.launchMessage h ws) h 0x12 (.launch h ws) := by
  simp [HostEvent]

theorem hostEvent_cancel (obj : Word) : HostEvent (.cancelMessage h obj) h 0x13 (.cancel h obj) := by
  simp [HostEvent]

theorem hostEvent_preempt (obj bound : Word) : HostEvent (.preemptMessage h obj bound) h 0x14 (.preempt h obj bound) := by
  simp [HostEvent]

theorem hostEvent_counts (obj : Word) : HostEvent (.countReadMessage h obj) h 0x15 (.counts h obj) := by
  simp [HostEvent]

theorem hostEvent_register (write : Bool) (n : Reg) (sel v : Word) :
    HostEvent (.systemRegisterMessage h write n sel v) h 0x20 (.register h write n sel v) := by
  simp [HostEvent]

theorem hostEvent_request (want : Word) : HostEvent (.stateRequest h want) h 0x21 (.request h want) := by
  simp [HostEvent]

theorem hostEvent_attest (nonce : List Byte) (slot : Nat) :
    HostEvent (.attestationRequest h nonce slot) h 0x22 (.attest h nonce slot) := by
  simp [HostEvent]

theorem hostEvent_firmware (image : List Byte) (v : Nat) (key : List Byte) (r q : BitVec 256) :
    HostEvent (.firmwareImage h image v key r q) h 0x23 (.firmware h image v key r q) := by
  simp [HostEvent]

theorem hostEvent_checkpoint (restore : Bool) (tier : Nat × List (Nat × Byte)) :
    HostEvent (.checkpoint h restore tier) h 0x24 (.checkpoint h restore tier) := by
  simp [HostEvent]

theorem hostEvent_debug (q : DebugQuery) : HostEvent (.debugRequest h q) h 0x30 (.debug h q) := by
  simp [HostEvent]

end

/-! ### The state requests -/

/-- What each request of a new state does, where PWR stays (16 R378, R380). -/
theorem stateRequest_delivers (h : MsgHead) {want : Word} {sec : Sec} {dbg : Dbg} (hsec : wantSec want = some sec)
    (hdbg : wantDbg want = some dbg) :
    Delivers (.stateRequest h want) h 0x21
      (fun s => s.pwr ≠ .off ∧ wantPwr want = s.pwr ∧ s.sec = .boot ∧ sec = .opened ∧ dbg = s.dbg ∧ s.clehild.measurement.isSome = true)
      (fun s => ({ s with sec := .opened } : State).reply h.vf [0]) ∧
    Delivers (.stateRequest h want) h 0x21
      (fun s => s.pwr ≠ .off ∧ wantPwr want = s.pwr ∧ s.sec = .opened ∧ sec = .tenant ∧ dbg = s.dbg ∧ s.dbg ≠ .halt ∧ s.clehild.quoted = true)
      (fun s => ({ s with sec := .tenant } : State).reply h.vf [0]) ∧
    Delivers (.stateRequest h want) h 0x21
      (fun s => s.pwr ≠ .off ∧ wantPwr want = s.pwr ∧ s.sec = .opened ∧ sec = .tenant ∧ dbg = s.dbg ∧ (s.dbg = .halt ∨ s.clehild.quoted = false))
      (fun s => s.reply h.vf [1]) ∧
    Delivers (.stateRequest h want) h 0x21
      (fun s => s.pwr ≠ .off ∧ wantPwr want = s.pwr ∧ s.sec = .opened ∧ sec = .opened ∧ dbg ≠ s.dbg)
      (fun s => ({ s with dbg := dbg } : State).reply h.vf [0]) ∧
    Delivers (.stateRequest h want) h 0x21
      (fun s => s.pwr ≠ .off ∧ wantPwr want = s.pwr ∧ s.sec = .tenant ∧ sec = .tenant ∧ s.dbg ≠ .halt ∧ dbg = .halt)
      (fun s => s.reply h.vf [1]) := by
  refine ⟨?_, ?_, ?_, ?_, ?_⟩ <;> refine (hostEvent_request h want).delivers fun s hw hok => ⟨?_, hw⟩
  · obtain ⟨hon, hpwr, hboot, rfl, hsame, hm⟩ := hok
    refine (State.doRequest_sec hsec hdbg hon hpwr (by simp [hboot]) hsame).trans ?_
    rw [State.toSec_opened hboot hm]
    rfl
  · obtain ⟨hon, hpwr, hopened, rfl, hsame, hhalt, hquoted⟩ := hok
    refine (State.doRequest_sec hsec hdbg hon hpwr (by simp [hopened]) hsame).trans ?_
    rw [State.toSec_tenant hopened, if_pos (by simp [hhalt, hquoted])]
    rfl
  · obtain ⟨hon, hpwr, hopened, rfl, hsame, hrefused⟩ := hok
    refine (State.doRequest_sec hsec hdbg hon hpwr (by simp [hopened]) hsame).trans ?_
    rw [State.toSec_tenant hopened, if_neg (by rcases hrefused with hr | hr <;> simp [hr])]
    rfl
  · obtain ⟨hon, hpwr, hopened, rfl, hchange⟩ := hok
    refine (State.doRequest_dbg hsec hdbg hon hpwr hopened.symm hchange).trans ?_
    rw [State.toDbg_opened hopened]
    rfl
  · obtain ⟨hon, hpwr, htenant, rfl, hhalt, rfl⟩ := hok
    refine (State.doRequest_dbg hsec hdbg hon hpwr htenant.symm (Ne.symm hhalt)).trans ?_
    rw [State.toDbg_halt_of_tenant htenant]
    rfl

/-- Settles O49: message by message, each by the lemma about what performs it. -/
theorem hostMessagesHaveTheirEffects : Obligations.HostMessagesHaveTheirEffects := by
  intro h
  refine ⟨fun level parent x => ?_, fun obj => ?_, fun ws x q => ?_, fun ws x q n => ?_, fun obj => ?_, fun obj bound o => ?_,
    fun obj o => ?_, fun n sel v hn => ⟨?_, ?_⟩, fun want sec dbg hsec hdbg => stateRequest_delivers h hsec hdbg,
    fun nonce slot hnonce hslot => ?_, fun image v key r q => ?_, fun tier => ?_, fun tier => ?_, fun q ws => ?_, fun q => ?_⟩
  · refine (hostEvent_create h level parent).delivers fun s hw ⟨hended, hlow, hhigh, hx, hparent⟩ => ⟨?_, hw⟩
    exact State.doCreate_of_create (State.create_of_open hended hlow hhigh hx hparent)
  · refine (hostEvent_close h obj).delivers fun s hw ⟨hobj, hlevel⟩ => ⟨State.doClose_of_container hobj hlevel, ?_⟩
    rw [State.waiting_reply, State.clehild_checkEnd]
    exact hw
  · refine (hostEvent_launch h ws).delivers fun s _ ⟨hended, hl, hawake, hw⟩ => ⟨?_, hw⟩
    exact State.doLaunch_of_launchFrom hended hl (fun _ => hawake)
  · refine (hostEvent_launch h ws).delivers fun s _ ⟨hended, hl, hn, hw⟩ => ⟨?_, hw⟩
    exact State.doLaunch_of_launchFrom hended hl (fun h0 => absurd h0 (Nat.pos_iff_ne_zero.mp hn))
  · exact (hostEvent_cancel h obj).delivers fun s _ hw => ⟨rfl, hw⟩
  · exact (hostEvent_preempt h obj bound).delivers fun s hw ⟨ho, hlive⟩ => ⟨State.doPreempt_of_live ho hlive, hw⟩
  · exact (hostEvent_counts h obj).delivers fun s hw ho => ⟨State.doCounts_of_obj ho, hw⟩
  · exact (hostEvent_register h false n sel v).delivers fun s hw _ => ⟨State.doRegister_of_lt hn false, hw⟩
  · exact (hostEvent_register h true n sel v).delivers fun s _ hw => ⟨State.doRegister_of_lt hn true, hw⟩
  · exact (hostEvent_attest h nonce slot).delivers fun s hw hopened => ⟨State.doAttest_of_opened hnonce hslot hopened, hw⟩
  · refine (hostEvent_firmware h image v key r q).delivers fun s hw hboot => ⟨State.doFirmware_of_boot hboot, ?_⟩
    split
    · exact hw
    · exact hw
  · exact (hostEvent_checkpoint h false tier).delivers fun s hw hidle => ⟨State.doCheckpoint_save hidle, hw⟩
  · exact (hostEvent_checkpoint h true tier).delivers fun s hw hunits => ⟨State.doCheckpoint_restore hunits, hw⟩
  · refine (hostEvent_debug h q).delivers fun s hw ⟨hdbg, hopened, hpwr, hread⟩ => ⟨?_, hw⟩
    exact State.doDebug_of_some (State.debug_read hdbg hopened hpwr hread)
  · refine (hostEvent_debug h q).delivers fun s hw hrefused => ⟨State.doDebug_of_none ?_, hw⟩
    rcases hrefused with hdbg | ⟨htenant, hpwr, hq⟩
    · exact State.debug_off q hdbg
    · exact State.debug_tenant htenant hpwr hq

end Sys2Proof.Machine

/-!
# The channel, resets, power and errors (16 R373, R376, R377, R392), and events of absent agents (00 R9, 14 R315)
-/

namespace Sys2Proof.Machine

section
variable {h : MsgHead} {typ : Nat} {s : State}

/-! ### Queries and acknowledgements -/

/-- A message that is served when it arrives is performed once its number is passed. -/
theorem State.receiveNow_of_inOrder (hin : InOrder s h typ) (f : State → State) : s.receiveNow h typ f = f (s.passed h) := by
  have hserved : (s.passed h).serves typ = true := hin.served
  have hgood : ¬(badHead h typ || !(s.passed h).serves typ) = true := by simp [hin.badHead_eq, hserved]
  simp only [State.receiveNow, hin.epoch, hin.seq, beq_self_eq_true, ne_eq, not_true_eq_false, decide_false, Bool.false_and, Bool.false_eq_true,
    Bool.and_self, if_false, if_true]
  exact if_neg hgood

/-- The delivery point after a message that was the next in order is its number. -/
theorem State.delivered_passed (hin : InOrder s h typ) : (s.passed h).delivered = BitVec.ofNat 32 s.clehild.nextIn := by
  have hlow := hin.low
  have hpoint : ((s.clehild.nextIn + 1) % 2 ^ 32 + 2 ^ 32 - 1) % 2 ^ 32 = s.clehild.nextIn := by omega
  have hnext : (s.passed h).clehild.nextIn = (s.clehild.nextIn + 1) % 2 ^ 32 := rfl
  rw [State.delivered, hnext, hpoint]

theorem State.waiting_takeAck (s : State) (ack : Nat) : (s.takeAck ack).clehild.waiting = s.clehild.waiting := rfl

theorem State.waiting_resend (s : State) : s.resend.clehild.waiting = s.clehild.waiting := rfl

theorem execHostQuery_of_inOrder (hin : InOrder s h 0x01) :
    exec (.hostQuery h) s = .next ((s.passed h).send 0x02 h.vf [BitVec.ofNat 32 s.clehild.nextIn]) := by
  change execHostQuery h s = _
  rw [execHostQuery, State.receiveNow_of_inOrder hin, State.delivered_passed hin]
  exact congrArg Host.Outcome.next (State.closeGap_of_none hin.passed_waiting)

theorem execQueryReply_of_inOrder (hin : InOrder s h 0x02) (d : Word) :
    exec (.queryReply h d) s = .next ((s.passed h).takeAck d.toNat).resend := by
  change execQueryReply h d s = _
  rw [execQueryReply, State.receiveNow_of_inOrder hin]
  refine congrArg Host.Outcome.next (State.closeGap_of_none ?_)
  rw [State.waiting_resend, State.waiting_takeAck, hin.passed_waiting]

theorem execAcknowledgement_of_inOrder (hin : InOrder s h 0x03) : exec (.acknowledgement h) s = .next (s.passed h) := by
  change execAcknowledgement h s = _
  rw [execAcknowledgement, State.receiveNow_of_inOrder hin]
  exact congrArg Host.Outcome.next (State.closeGap_of_none hin.passed_waiting)

/-- A lone message of the log that is 1 ms old is sent again. -/
theorem execMessageResendTimeout_of_late {m : Msg} (hlog : s.clehild.log = [m]) (hlate : m.sentAt + 600000 ≤ s.now) :
    execMessageResendTimeout s = .next { s with
      outbox := s.outbox ++ [{ m with sentAt := s.now }], clehild := { s.clehild with log := [{ m with sentAt := s.now }] } } := by
  simp [execMessageResendTimeout, hlog, hlate]

end

/-! ### Power and corrected errors -/

section
variable {s : State} {die : Nat}

theorem State.otherGrants_eq (s : State) (die : Nat) :
    s.otherGrants die = ((List.range 8).filter (fun d => d != die)).foldl (fun n d => n + (s.die d).grant) 0 :=
  List.foldl_map

theorem execPowerGrant_beyond {grant : Nat} (above : Bool) (hdie : die < 8) (hbeyond : 22000 < grant + s.otherGrants die) :
    execPowerGrant die grant above s = .next s := by
  rw [execPowerGrant, if_neg (dieOk_of_lt hdie), if_pos hbeyond]

theorem execPowerGrant_within {grant : Nat} (above : Bool) (hdie : die < 8) (hwithin : grant + s.otherGrants die ≤ 22000) :
    execPowerGrant die grant above s = .next (s.mapDie die (fun d =>
      if ({ d with grant := grant, grantAt := s.clock die } : Die).intervalOver (s.clock die)
      then { d with grant := grant, grantAt := s.clock die, gate := gateStep above d.gate, gateAt := s.clock die }
      else { d with grant := grant, grantAt := s.clock die })) := by
  rw [execPowerGrant, if_neg (dieOk_of_lt hdie), if_neg (Nat.not_lt.mpr hwithin)]

/-- A change of a die that depends on a property of the die that the state decides. -/
theorem State.mapDie_congr {f g : Die → Die} (hfg : f (s.die die) = g (s.die die)) : s.mapDie die f = s.mapDie die g := by
  rw [State.mapDie, hfg]
  rfl

theorem execPowerGrant_early {grant : Nat} (above : Bool) (hdie : die < 8) (hwithin : grant + s.otherGrants die ≤ 22000)
    (hearly : s.clock die < (s.die die).gateAt + 2400) :
    execPowerGrant die grant above s = .next (s.mapDie die (fun d => { d with grant := grant, grantAt := s.clock die })) := by
  rw [execPowerGrant_within above hdie hwithin]
  exact congrArg Host.Outcome.next (State.mapDie_congr (if_neg (by simp [Die.intervalOver, Nat.not_le.mpr hearly])))

theorem execPowerGrant_step {grant : Nat} (above : Bool) (hdie : die < 8) (hwithin : grant + s.otherGrants die ≤ 22000)
    (hover : (s.die die).gateAt + 2400 ≤ s.clock die) :
    execPowerGrant die grant above s = .next (s.mapDie die (fun d => { d with
      grant := grant, grantAt := s.clock die, gate := gateStep above d.gate, gateAt := s.clock die })) := by
  rw [execPowerGrant_within above hdie hwithin]
  exact congrArg Host.Outcome.next (State.mapDie_congr (if_pos (by simp [Die.intervalOver, hover])))

theorem execPowerGrantTimeout_early (hdie : die < 8) (hearly : s.clock die < (s.die die).gateAt + 2400) :
    execPowerGrantTimeout die s = .next s := by
  have hstays : (!(s.die die).intervalOver (s.clock die)) = true := by simp [Die.intervalOver, hearly]
  exact (if_neg (dieOk_of_lt hdie)).trans (if_pos hstays)

theorem execPowerGrantTimeout_step (hdie : die < 8) (hover : (s.die die).gateAt + 2400 ≤ s.clock die) :
    execPowerGrantTimeout die s = .next (s.stir.mapDie die (fun d => { d with
      grant := if d.grantAt + 7200 ≤ s.clock die then 1500 else d.grant
      gate := gateStep (Config.freeChoice s.fresh) d.gate
      gateAt := s.clock die })) := by
  have hends : ¬(!(s.die die).intervalOver (s.clock die)) = true := by simp [Die.intervalOver, hover]
  exact (if_neg (dieOk_of_lt hdie)).trans (if_neg hends)

theorem min_last_eq (n : Nat) : Nat.min (2 ^ 32 - 1) (n + 1) = if n + 1 < 2 ^ 32 then n + 1 else 2 ^ 32 - 1 := by
  change min (2 ^ 32 - 1) (n + 1) = _
  split <;> omega

theorem execSoftErrorCorrected_of_lt (hdie : die < 8) : execSoftErrorCorrected die s =
    .next (s.mapDie die (fun d => { d with ce := if d.ce + 1 < 2 ^ 32 then d.ce + 1 else 2 ^ 32 - 1 })) := by
  rw [execSoftErrorCorrected, if_neg (dieOk_of_lt hdie)]
  exact congrArg Host.Outcome.next (State.mapDie_congr (by rw [min_last_eq]))

end

/-! ### What ends a context leaves the channel and the other contexts as they are -/

/-- The channel of Clehild, and which contexts have ended. -/
def State.contexts (s : State) : Clehild × (Nat → Bool) := (s.clehild, fun n => (s.slot n).ended)

section
variable {s : State}

theorem State.contexts_mapSlot {n : Nat} {f : Slot → Slot} (hf : (f (s.slot n)).ended = (s.slot n).ended) :
    (s.mapSlot n f).contexts = s.contexts := by
  refine congrArg (Prod.mk s.clehild) (funext fun k => ?_)
  rw [State.slot_mapSlot]
  split
  · next hk => rw [hf, hk]
  · rfl

theorem State.contexts_of_eq {q : State} (hc : q.clehild = s.clehild) (hs : q.slots = s.slots) : q.contexts = s.contexts := by
  simp only [State.contexts, State.slot, hc, hs]

theorem State.contexts_foldl {α : Type} {f : State → α → State} (hf : ∀ s x, (f s x).contexts = s.contexts) (l : List α) (s : State) :
    (l.foldl f s).contexts = s.contexts := by
  induction l generalizing s with
  | nil => rfl
  | cons x l ih => exact (ih _).trans (hf s x)

theorem State.contexts_mapObj (s : State) (slot : Nat) (k : Word) (g : Obj → Obj) : (s.mapObj slot k g).contexts = s.contexts :=
  State.contexts_mapSlot rfl

theorem State.contexts_checkEnd (s : State) (slot : Nat) (k : Word) (levels : Nat) : (s.checkEnd slot k levels).contexts = s.contexts := by
  induction levels generalizing s k with
  | zero => rfl
  | succ n ih =>
    rw [State.checkEnd]
    split
    · rfl
    · split
      · rfl
      · exact (ih _ _).trans ((State.contexts_mapObj _ _ _ _).trans (State.contexts_mapObj _ _ _ _))

theorem State.contexts_removeUnit (s : State) (uid : Nat) : (s.removeUnit uid).contexts = s.contexts := by
  rw [State.removeUnit]
  cases s.unit? uid with
  | none => rfl
  | some u =>
    have hfree : ∀ q : State, (q.freeNumber u.slot u.launch u.core).contexts = q.contexts := fun q => by
      rw [State.freeNumber]
      split
      · rfl
      · exact State.contexts_mapObj _ _ _ _
    exact hfree _

theorem State.contexts_dropLaunch (s : State) (slot : Nat) (k : Word) : (s.dropLaunch slot k).contexts = s.contexts := by
  rw [State.dropLaunch]
  split
  · rfl
  · have herase : ∀ q : State, (q.eraseClaims slot k).contexts = q.contexts := fun _ => rfl
    have hkept : ∀ (q : State) a b c, ({ q with saved := a, merges := b, mergeWait := c } : State).contexts = q.contexts :=
      fun _ _ _ _ => rfl
    refine (State.contexts_mapObj _ _ _ _).trans ((herase _).trans ((hkept _ _ _ _).trans ((State.contexts_mapSlot rfl).trans ?_)))
    exact State.contexts_foldl (fun s u => (s.discardCmds u).contexts_removeUnit u) _ _

theorem State.contexts_cancelObjs (s : State) (slot : Nat) (ks : List Word) : (s.cancelObjs slot ks).contexts = s.contexts := by
  rw [State.cancelObjs]
  refine (State.contexts_mapSlot rfl).trans ?_
  refine (State.contexts_foldl (fun s p => s.contexts_checkEnd slot p 3) _ _).trans ?_
  refine (State.contexts_foldl (fun s p => s.contexts_mapObj slot p _) _ _).trans ?_
  refine (State.contexts_mapSlot rfl).trans ?_
  exact State.contexts_foldl (fun s k => s.contexts_dropLaunch slot k) _ _

/-- The channel is as it was once a context has been dropped. -/
theorem State.clehild_dropContext (s : State) (slot : Nat) : (s.dropContext slot).clehild = s.clehild :=
  congrArg Prod.fst ((s.mapSlot slot (fun c => { c with ended := true })).contexts_cancelObjs slot _)

theorem State.clehild_dropContexts (s : State) : s.dropContexts.clehild = s.clehild := by
  rw [State.dropContexts]
  induction List.range 16 generalizing s with
  | nil => rfl
  | cons n l ih => exact (ih _).trans (s.clehild_dropContext n)

theorem State.slots_sendError (s : State) (slot : Nat) (record : List Word) : (s.sendError slot record).slots = s.slots := by
  have hfold : ∀ (f : State → Nat → List Word) (l : List Nat) (q : State),
      (l.foldl (fun s pa => s.send 0x42 slot (f s pa)) q).slots = q.slots := by
    intro f l
    induction l with
    | nil => exact fun _ => rfl
    | cons x l ih => exact fun q => (ih _).trans rfl
  rw [State.sendError]
  exact hfold (fun s pa => s.errorWords 1 ((record.headD 0).toNat / 2 ^ 20 % 16) 0 0 0 (BitVec.ofNat 64 pa) 0 0) _ _

/-- A context that ends has ended, and those that had ended before still have. -/
theorem State.ended_endContext (s : State) (slot n : Nat) (record : List Word) :
    ((s.endContext slot record).slot n).ended = (decide (slot = n) || (s.slot n).ended) := by
  rw [State.endContext]
  split
  · next hended =>
    by_cases hn : slot = n
    · rw [← hn, hended, Bool.or_true]
    · simp [hn]
  · refine (congrFun (congrArg Prod.snd (State.contexts_cancelObjs _ slot _)) n).trans ?_
    change (State.slot (State.mapSlot _ slot _) n).ended = _
    rw [State.slot_mapSlot]
    by_cases hn : slot = n
    · simp [hn]
    · simp [hn, State.slot_congr (s.slots_sendError slot record) n]

/-- Of a list of contexts that end one after another each has ended. -/
theorem State.ended_foldl_endContext {f : State → Nat → List Word} {slots : List Nat} {n : Nat} (s : State)
    (h : n ∈ slots ∨ (s.slot n).ended = true) : ((slots.foldl (fun s k => s.endContext k (f s k)) s).slot n).ended = true := by
  induction slots generalizing s with
  | nil => exact h.resolve_left List.not_mem_nil
  | cons k ks ih =>
    refine ih _ ?_
    rw [State.ended_endContext]
    rcases h with hmem | hended
    · rcases List.mem_cons.mp hmem with rfl | hmem
      · exact .inr (by simp)
      · exact .inl hmem
    · exact .inr (by simp [hended])

end

/-! ### Resets and uncorrectable errors -/

/-- What the module is after a reset (16 R392). -/
theorem State.moduleReset_dies (s : State) {n : Nat} (hn : n < 8) :
    (s.moduleReset.die n).hpBase = n * 65536 + 61440 ∧ (s.moduleReset.die n).hpSize = 4096 ∧ (s.moduleReset.die n).ce = 0 ∧
      s.moduleReset.cyc n = 0 := by
  have hdies : s.moduleReset.dies = State.reset.dies := rfl
  have hdie : s.moduleReset.die n = { hpBase := hpReset n } := by
    rw [State.die, hdies]
    interval_cases n <;> rfl
  rw [State.cyc, State.clock, hdie]
  exact ⟨rfl, rfl, rfl, rfl⟩

theorem execModuleReset_effect (s : State) :
    ∃ s', exec .moduleReset s = .next s' ∧ s'.threads = [] ∧ s'.units = [] ∧ s'.strands = [] ∧ s'.ops = [] ∧ s'.cmds = [] ∧ s'.slots = [] ∧
      s'.cores = [] ∧ s'.walks = [] ∧ s'.links = [] ∧ s'.sec = .boot ∧ s'.dbg = .off ∧ s'.pwr = .run ∧
      s'.dev < 513 * 32 ∧ 1 ≤ s'.groups ∧ s'.groups ≤ 513 ∧ s'.clehild.epoch = (s.clehild.epoch + 1) % 2 ^ 32 ∧ s'.clehild.nextSeq = 0 ∧
      s'.clehild.nextIn = 0 ∧ s'.clehild.log = [] ∧
      ∀ n, n < 8 → (s'.die n).hpBase = n * 65536 + 61440 ∧ (s'.die n).hpSize = 4096 ∧ (s'.die n).ce = 0 ∧ s'.cyc n = 0 := by
  have hgroups : s.moduleReset.groups = 1 + Config.freeNat (s.dropContexts.fresh + 1) % 513 := rfl
  have hepoch : s.moduleReset.clehild.epoch = (s.dropContexts.clehild.epoch + 1) % 2 ^ 32 := rfl
  refine ⟨s.moduleReset, rfl, rfl, rfl, rfl, rfl, rfl, rfl, rfl, rfl, rfl, rfl, rfl, rfl, Nat.mod_lt _ (by norm_num), ?_, ?_, ?_, rfl, rfl, rfl,
    fun n hn => s.moduleReset_dies hn⟩
  · omega
  · omega
  · rw [hepoch, State.clehild_dropContexts]

section
variable {s : State} {core : Nat}

theorem State.spoilRemote_of_find {die loc : Nat} {l : RemoteLine} (hl : Sparse.find (s.die die).remote (lineOf loc) = some l) (e : Half) :
    s.spoilRemote die loc e = s.setRemote die (lineOf loc) { l with codes := Sparse.set 0 l.codes (loc % 128 / 32) e } := by
  simp only [State.spoilRemote, hl]

theorem State.spoilL1_of_line {loc : Nat} {l : L1Line} (hl : s.l1Line? core loc = some l) (e : Half) :
    s.spoilL1 core loc e = s.mapCore core (fun c => { c with
      l1 := Sparse.put c.l1 (lineOf loc) { l with codes := Sparse.set 0 l.codes (loc % 128 / 32) e } }) := by
  simp only [State.spoilL1, hl]

/-- An error of other state of a core ends each context that has a unit there (16 R376). -/
theorem execUncorrectableStateError_core (hcore : core < 320) :
    ∃ s', exec (.uncorrectableStateError core .core) s = .next s' ∧ s'.mem = s.mem ∧
      ∀ n, n < 16 → (∃ u ∈ s.units, u.core = core ∧ u.slot = n) → (s'.slot n).ended = true := by
  refine ⟨_, if_neg (coreOk_of_lt hcore), State.foldl_mem (fun s k => State.endContext_mem s k _) _ _, fun n hn ⟨u, hu, hplace, hslot⟩ => ?_⟩
  refine State.ended_foldl_endContext s (.inl (List.mem_filter.mpr ⟨List.mem_range.mpr hn, List.any_eq_true.mpr ⟨u, hu, ?_⟩⟩))
  simp [hplace, hslot]

end

/-- What becomes of the channel, a reset, grants and errors (16 R373, R376, R377, R392). -/
theorem channelResetAndErrorEvents : Claims.ChannelResetAndErrorEvents := by
  intro s
  refine ⟨fun h hin => execHostQuery_of_inOrder hin, fun h d hin => execQueryReply_of_inOrder hin d,
    fun h hin => execAcknowledgement_of_inOrder hin, fun m hlog hlate => execMessageResendTimeout_of_late hlog hlate, rfl,
    execModuleReset_effect s, fun die grant above hdie => ?_, fun die hdie => ⟨?_, ?_⟩, fun die hdie => execSoftErrorCorrected_of_lt hdie,
    fun core i hcore => ?_, fun core hcore => ?_⟩
  · rw [← s.otherGrants_eq die]
    exact ⟨fun hbeyond => execPowerGrant_beyond above hdie hbeyond, fun hwithin hearly => execPowerGrant_early above hdie hwithin hearly,
      fun hwithin hover => execPowerGrant_step above hdie hwithin hover⟩
  · exact fun hearly => execPowerGrantTimeout_early hdie hearly
  · exact fun hover => execPowerGrantTimeout_step hdie hover
  · have hok := coreOk_of_lt hcore
    refine ⟨if_neg hok, if_neg hok, if_neg hok, if_neg hok, fun l hl => ?_, fun l hl => ?_⟩
    · rw [← State.spoilRemote_of_find hl]
      exact if_neg hok
    · rw [← State.spoilL1_of_line hl]
      exact if_neg hok
  · obtain ⟨s', hexec, hmem, hended⟩ := execUncorrectableStateError_core (s := s) hcore
    exact ⟨s', hexec, fun _ => hmem, hended⟩

/-- An event addressed to an agent that the module does not have stops the model (00 R9). -/
theorem eventsOfAbsentAgentsStop : Claims.EventsOfAbsentAgentsStop := by
  intro s n
  refine ⟨fun hn => ?_, fun hn => ?_, fun hn => ?_⟩
  · have hcore : (!coreOk n) = true := by simp [coreOk, Config.cores, Nat.not_lt.mpr hn]
    exact ⟨if_pos hcore, if_pos hcore⟩
  · have hdie : (!dieOk n) = true := by simp [dieOk, Config.dies, Nat.not_lt.mpr hn]
    exact ⟨if_pos hdie, if_pos hdie⟩
  · have hlink : (!linkOk n) = true := by simp [linkOk, Config.links, Nat.not_lt.mpr hn]
    exact ⟨if_pos hlink, if_pos hlink⟩

/-- Settles O50: the channel, resets, power and errors, then the stops. -/
theorem channelResetErrorsAndStops : Obligations.ChannelResetErrorsAndStops :=
  ⟨channelResetAndErrorEvents, eventsOfAbsentAgentsStop⟩

end Sys2Proof.Machine

/-!
# Requests of peers and their responses (14 R317, R318, R327, R328)
-/

namespace Sys2Proof.Machine

section
variable {s : State} {p : Packet}

/-! ### Requests that a peer sends -/

/-- A slot accepts a peer's store where its tag is the packet's and its window, which may be written, holds every byte. -/
theorem Slot.accepts_store_iff (c : Slot) (htyp : p.typ = 2) : c.accepts p = true ↔
    c.ctagV = true ∧ c.ctag = p.ctag ∧ c.expV = true ∧ c.expWe = true ∧ c.expBase * 2 ^ 21 ≤ p.addr ∧
      p.addr + (p.len + 1) ≤ (c.expBase + c.expSize) * 2 ^ 21 := by
  have hspan : pktSpan p = (p.addr, p.len + 1) := by simp [pktSpan, htyp]
  simp only [Slot.accepts, hspan, htyp, Bool.and_eq_true, Bool.or_eq_true, beq_iff_eq, decide_eq_true_eq]
  constructor
  · rintro ⟨⟨⟨⟨⟨hv, htag⟩, hexp⟩, hbase⟩, hend⟩, hread | hwe⟩
    · exact absurd hread (by decide)
    · exact ⟨hv, htag, hexp, hwe, hbase, hend⟩
  · rintro ⟨hv, htag, hexp, hwe, hbase, hend⟩
    exact ⟨⟨⟨⟨⟨hv, htag⟩, hexp⟩, hbase⟩, hend⟩, .inr hwe⟩

theorem State.acceptor_eq_none (hnone : ∀ n < 16, (s.slot n).accepts p = false) : s.acceptor p = none :=
  List.find?_eq_none.mpr fun n hn => by simp [hnone n (List.mem_range.mp hn)]

/-- The operation performs the request that a packet carries. -/
def Op.performs (o : Op) (p : Packet) : Bool :=
  match o.origin with
  | some r => r.src == p.src && r.txn == p.txn
  | none => false

theorem Op.performs_iff (o : Op) (p : Packet) : o.performs p = true ↔ ∃ r, o.origin = some r ∧ r.src = p.src ∧ r.txn = p.txn := by
  rw [Op.performs]
  cases o.origin <;> simp

/-- A request of a peer is past or in progress: it lies below its source's LOW, it waits for the others of its word, or an operation performs
it. -/
def State.leaves (q : State) (p : Packet) : Bool :=
  q.late p || q.gathering.any (fun g => g.1.src == p.src && g.1.txn == p.txn) || q.ops.any (fun o => o.performs p)

/-- A request of a peer is in progress (14 R327). -/
def State.progresses (q : State) (p : Packet) : Prop :=
  (∃ o ∈ q.ops, ∃ r, o.origin = some r ∧ r.src = p.src ∧ r.txn = p.txn) ∨ ∃ g ∈ q.gathering, g.1.src = p.src ∧ g.1.txn = p.txn

theorem State.leaves_iff (q : State) (p : Packet) : q.leaves p = true ↔ q.late p = true ∨ q.progresses p := by
  simp only [State.leaves, State.progresses, ← Op.performs_iff, Bool.or_eq_true, List.any_eq_true, Bool.and_eq_true, beq_iff_eq, or_assoc]
  exact or_congr_right or_comm

/-- What a request of a peer meets, once the responses that its LOW releases are gone. -/
def State.metBy (q : State) (p : Packet) : State :=
  match q.responses.find? (fun r => r.dst == p.src && r.txn == p.txn) with
  | some r => q.inject r
  | none =>
    if q.leaves p then q
    else if p.typ = 8 && p.op = 4 then q.applyOwed p
    else if p.typ = 9 && p.op = 12 then q.eraseFor p
    else
      match q.acceptor p with
      | none => q.respond p 0x12 1 []
      | some n => q.letIn p n

theorem execPeerRequestReceive_eq (hdst : p.dst = s.dev) (hlow : 1 ≤ p.typ) (hhigh : p.typ ≤ 9) :
    exec (.peerRequestReceive p) s = .next ((s.pruneResponses p).metBy p) := by
  have hmeant : ¬(decide (p.typ = 0) || decide (10 < p.typ) || (p.typ == 10 && p.op != 0 && p.op != 2)) = true := by
    simp only [Bool.or_eq_true, Bool.and_eq_true, decide_eq_true_eq, beq_iff_eq]
    omega
  have hten : p.typ ≠ 10 := by omega
  change execPeerRequestReceive p s = _
  rw [execPeerRequestReceive, if_neg (not_not_intro hdst), if_neg hmeant, State.metBy]
  dsimp only
  cases (s.pruneResponses p).responses.find? (fun r => r.dst == p.src && r.txn == p.txn) with
  | some r => rfl
  | none =>
    by_cases hleaves : (s.pruneResponses p).leaves p = true
    · exact (if_pos hleaves).trans (congrArg Host.Outcome.next (if_pos hleaves).symm)
    · refine (if_neg hleaves).trans (Eq.trans ?_ (congrArg Host.Outcome.next (if_neg hleaves).symm))
      rw [if_neg hten]
      split
      · rfl
      · split
        · rfl
        · cases (s.pruneResponses p).acceptor p <;> rfl

section
variable {q : State} (hfresh : q.responses.find? (fun r => r.dst == p.src && r.txn == p.txn) = none)
include hfresh

theorem State.metBy_left (hleft : q.late p = true ∨ q.progresses p) : q.metBy p = q := by
  simp only [State.metBy, hfresh, if_pos ((q.leaves_iff p).mpr hleft)]

variable (hdue : q.late p = false) (hnew : ¬q.progresses p) (howed : ¬(p.typ = 8 ∧ p.op = 4)) (herase : ¬(p.typ = 9 ∧ p.op = 12))
include hdue hnew howed herase

theorem State.metBy_refused (hnone : q.acceptor p = none) : q.metBy p = q.respond p 0x12 1 [] := by
  have hgoes : ¬q.leaves p = true := fun h => ((q.leaves_iff p).mp h).elim (fun hlate => by simp [hdue] at hlate) hnew
  simp only [State.metBy, hfresh, if_neg hgoes, Bool.and_eq_true, decide_eq_true_eq, if_neg howed, if_neg herase, hnone]

theorem State.metBy_accepted {n : Nat} (hn : q.acceptor p = some n) : q.metBy p = q.letIn p n := by
  have hgoes : ¬q.leaves p = true := fun h => ((q.leaves_iff p).mp h).elim (fun hlate => by simp [hdue] at hlate) hnew
  simp only [State.metBy, hfresh, if_neg hgoes, Bool.and_eq_true, decide_eq_true_eq, if_neg howed, if_neg herase, hn]

end

/-- A store of a peer comes alone: it becomes an operation of the slot that let it in. -/
theorem State.letIn_store (q : State) (htyp : p.typ = 2) (n : Nat) : q.letIn p n =
    q.addOp (q.foreignOp p n 0 0 0 false (.store (pktAccess p (p.len + 1) 0 4096) (p.data.take (p.len + 1)) none)) := by
  have hword : pktWord p = (0, 1, 0) := by simp [pktWord, htyp]
  simp only [State.letIn, hword, le_refl, if_true, State.perform, htyp]

/-- Which requests of peers are accepted and which are not (14 R317, R327). -/
theorem peerRequestsAreAcceptedOrRefused : Claims.PeerRequestsAreAcceptedOrRefused := by
  refine ⟨fun c p htyp => c.accepts_store_iff htyp, fun s p hdst hlow hhigh => ?_⟩
  rw [execPeerRequestReceive_eq hdst hlow hhigh]
  refine ⟨fun r hr => ?_, fun hfresh => ⟨fun hleft => ?_, fun hdue hnew howed herase => ⟨fun hnone => ?_, fun n hn htyp => ?_⟩⟩⟩
  · simp only [State.metBy, hr]
  · rw [State.metBy_left hfresh hleft]
  · rw [State.metBy_refused hfresh hdue hnew howed herase (State.acceptor_eq_none (s := s.pruneResponses p) hnone)]
  · rw [State.metBy_accepted hfresh hdue hnew howed herase hn, State.letIn_store _ htyp]
    exact ⟨_, _, rfl, rfl, rfl, rfl, rfl, rfl, rfl⟩

/-! ### Responses to this module's requests -/

/-- Operations that are no loads stay what they are. -/
theorem RewritesLoads.op? {s' : State} (hs : RewritesLoads s s') {id : Nat} {o : Op} (ho : s.op? id = some o) (hload : o.isLoad = false) :
    s'.op? id = some o := by
  obtain ⟨g, hops, hg⟩ := hs
  have hid : ((fun o : Op => o.id == id) ∘ g) = fun o : Op => o.id == id := funext fun o => by simp [(hg o).1]
  rw [State.op?, hops, List.find?_map, hid, show s.ops.find? (fun o => o.id == id) = some o from ho]
  exact congrArg some ((hg o).2.2.2 hload)

theorem State.spoilFills_rewritesLoads (s : State) (r : Req) : RewritesLoads s (s.spoilFills r) := by
  rw [State.spoilFills]
  split
  · exact .of_ops rfl
  · exact s.mapFills_rewritesLoads _ _

section
variable {r : Req} (hdst : p.dst = s.dev)
  (hr : s.reqs.find? (fun r => r.pkt.dst == p.src && r.pkt.txn == p.txn && r.sends != 0) = some r)
include hdst hr

theorem execPeerResponseReceive_refusal (htyp : p.typ = 0x12) :
    exec (.peerResponseReceive p) s = .next (s.failRequest r (BitVec.ofNat 32 p.op)) := by
  change execPeerResponseReceive p s = _
  rw [execPeerResponseReceive, if_neg (not_not_intro hdst)]
  simp only [hr, if_pos htyp]

/-- An acknowledgement ends its request and completes the store. -/
theorem execPeerResponseReceive_store {o : Op} {a : Access} {bs : List Byte} {rel : Option Nat} (htyp : p.typ = 0x11) (ho : s.op? r.op = some o)
    (hkind : o.kind = .store a bs rel) :
    exec (.peerResponseReceive p) s =
      .next ((({ s with reqs := s.reqs.filter (fun q => q != r) } : State).spoilFills r).arrive o.id id).pumpReqs := by
  have hended : (({ s with reqs := s.reqs.filter (fun q => q != r) } : State).spoilFills r).op? r.op = some o :=
    (State.spoilFills_rewritesLoads _ r).op? ho (by simp [Op.isLoad, hkind])
  have hplain : p.typ ≠ 0x12 := by omega
  have hgood : (p.typ == 0x10) = false := by simp [htyp]
  change execPeerResponseReceive p s = _
  rw [execPeerResponseReceive, if_neg (not_not_intro hdst)]
  simp only [hr, if_neg hplain, hended, hgood, Bool.false_and, Bool.false_eq_true, if_false, State.answered, hkind]

end

section
variable {op : Nat} {r : Req}
  (hr : s.reqs.find? (fun r => r.op == op && r.sends != 0 && s.peerView r.pkt.dst == 0 && decide (1800000 ≤ r.waited)) = some r)
include hr

theorem execRequestResendTimeout_again (hsends : r.sends < 3) : exec (.requestResendTimeout op) s = .next (s.sendReq r) := by
  change execRequestResendTimeout op s = _
  simp only [execRequestResendTimeout, hr, hsends, decide_true, Bool.true_or, if_true]

theorem execRequestResendTimeout_fails (hsends : 3 ≤ r.sends) (herasure : r.erasure = false) :
    exec (.requestResendTimeout op) s = .next (s.failRequest r 3) := by
  change execRequestResendTimeout op s = _
  simp only [execRequestResendTimeout, hr, Nat.not_lt.mpr hsends, herasure, decide_false, Bool.or_self, Bool.false_eq_true, if_false]

end

end

/-- How the requests of this module end (14 R317, R318, R327, R328). -/
theorem peerResponsesEndRequests : Claims.PeerResponsesEndRequests := by
  refine ⟨fun s p r hdst hr => ⟨fun htyp => execPeerResponseReceive_refusal hdst hr htyp, fun o a bs rel htyp ho hkind => ?_⟩,
    fun s op r hr => ⟨fun hsends => execRequestResendTimeout_again hr hsends,
      fun hsends herasure => execRequestResendTimeout_fails hr hsends herasure⟩⟩
  exact execPeerResponseReceive_store hdst hr htyp ho hkind

/-- Settles O42: the requests of peers, then the responses to this module's own. -/
theorem peerRequestsAndResponses : Obligations.PeerRequestsAndResponses :=
  ⟨peerRequestsAreAcceptedOrRefused, peerResponsesEndRequests⟩

end Sys2Proof.Machine

/-!
# Links of the fabric: flits, allowances, training and routing (14 R315, R320 to R326, R335)
-/

namespace Sys2Proof.Machine

section
variable {s : State} {n : Nat}

theorem linkOk_of_lt (hn : n < 47) : ¬(!linkOk n) = true := by
  simp [linkOk, Config.links, hn]

theorem State.link_mapLink (s : State) (n m : Nat) (f : Link → Link) :
    (s.mapLink n f).link m = if n = m then f (s.link n) else s.link m := Sparse.get_set _ _ _ _ _

@[simp] theorem State.link_mapLink_self (s : State) (n : Nat) (f : Link → Link) : (s.mapLink n f).link n = f (s.link n) :=
  Sparse.get_set_self _ _ _ _

/-- Two changes of a link that agree on the link as it is make the same state. -/
theorem State.mapLink_congr {f g : Link → Link} (hfg : f (s.link n) = g (s.link n)) : s.mapLink n f = s.mapLink n g := by
  rw [State.mapLink, hfg]
  rfl

/-- What an UP link that retrains becomes: TRAINING, which RTC counts. -/
theorem State.mapLink_retrain (hup : (s.link n).state = .up) : s.mapLink n (Link.retrain s.now) =
    s.mapLink n (fun l => { l with state := .training, rtc := Nat.min 511 (l.rtc + 1), since := s.now }) :=
  State.mapLink_congr (if_pos hup)

/-! ### Flits -/

/-- The numbers that a link already holds are the 2,048 before the next that it expects. -/
theorem Link.holds_iff (l : Link) {seq : Nat} (hseq : seq < 4096) :
    l.holds seq = true ↔ ∃ k < 2048, (seq + k + 1) % 4096 = l.rxSeq % 4096 := by
  simp only [Link.holds, decide_eq_true_eq]
  constructor
  · exact fun hlow => ⟨(l.rxSeq + 4095 - seq) % 4096, hlow, by omega⟩
  · rintro ⟨k, hk, hnext⟩
    omega

section
variable (hn : n < 47) (hup : (s.link n).state = .up) {f : Flit}
include hn

theorem execFlitReceive_notUp (hdown : (s.link n).state ≠ .up) : exec (.flitReceive n f) s = .next s :=
  (if_neg (linkOk_of_lt hn)).trans (if_pos (bne_iff_ne.mpr hdown))

include hup

theorem execFlitReceive_up : exec (.flitReceive n f) s =
    if !flitGood f then .next (s.mapLink n (Link.retrain s.now))
    else if (s.link n).holds f.seq then .next s
    else .next (s.takeFlit n f) :=
  (if_neg (linkOk_of_lt hn)).trans (if_neg (by simp [hup]))

theorem execFlitReceive_bad (hbad : flitGood f = false) : exec (.flitReceive n f) s =
    .next (s.mapLink n (fun l => { l with state := .training, rtc := Nat.min 511 (l.rtc + 1), since := s.now })) := by
  rw [execFlitReceive_up hn hup, hbad, ← State.mapLink_retrain hup]
  rfl

variable (hgood : flitGood f = true)
include hgood

theorem execFlitReceive_held (hheld : (s.link n).holds f.seq = true) : exec (.flitReceive n f) s = .next s := by
  rw [execFlitReceive_up hn hup, hgood, hheld]
  rfl

theorem execFlitReceive_new (hnew : (s.link n).holds f.seq = false) : exec (.flitReceive n f) s = .next (s.takeFlit n f) := by
  rw [execFlitReceive_up hn hup, hgood, hnew]
  rfl

end

section
variable {f : Flit}

/-- A header of no type, or with a reserved bit, retrains the link. -/
theorem State.takeFlit_badHeader (hup : (s.link n).state = .up) (hpart : (s.link n).partialPkt = none)
    (hbad : typeListed (pktOfHeader f.bits).typ = false ∨ (pktOfHeader f.bits).rsvd ≠ 0) :
    s.takeFlit n f = s.mapLink n (fun l => { l with state := .training, rtc := Nat.min 511 (l.rtc + 1), since := s.now }) := by
  have hretrains : (!typeListed (pktOfHeader f.bits).typ || decide ((pktOfHeader f.bits).rsvd ≠ 0)) = true := by
    simpa using hbad
  rw [State.takeFlit, hpart, ← State.mapLink_retrain hup]
  exact if_pos hretrains

section
variable (hpart : (s.link n).partialPkt = none) (hlisted : typeListed (pktOfHeader f.bits).typ = true) (hrsvd : (pktOfHeader f.bits).rsvd = 0)
include hpart hlisted hrsvd

/-- A good header is taken in: it begins its packet, or it is the whole packet. -/
theorem State.takeFlit_header : s.takeFlit n f =
    if pktPayload (pktOfHeader f.bits) = 0 then
      (s.mapLink n (fun l => { l with rxSeq := (f.seq + 1) % 4096 })).takePacket n { pktOfHeader f.bits with
        data := if holdsOperands (pktOfHeader f.bits).typ then (pktOfHeader f.bits).data
          else if carriesData (pktOfHeader f.bits).typ then (pktOfHeader f.bits).data.take ((pktOfHeader f.bits).len + 1) else [] }
    else
      (s.mapLink n (fun l => { l with rxSeq := (f.seq + 1) % 4096 })).mapLink n (fun l => { l with
        partialPkt := some ({ pktOfHeader f.bits with data := [] }, pktPayload (pktOfHeader f.bits)) }) := by
  have hgoes : ¬(!typeListed (pktOfHeader f.bits).typ || decide ((pktOfHeader f.bits).rsvd ≠ 0)) = true := by
    simp [hlisted, hrsvd]
  rw [State.takeFlit, hpart]
  exact if_neg hgoes

end

/-- A payload flit that is not the last one extends its packet. -/
theorem State.takeFlit_payload {p : Packet} {left : Nat} (hpart : (s.link n).partialPkt = some (p, left)) (hleft : 64 < left) :
    s.takeFlit n f = s.mapLink n (fun l => { l with
      rxSeq := (f.seq + 1) % 4096
      partialPkt := some ({ p with data := p.data ++ (flitBytes f.bits).take 64 }, left - 64) }) := by
  have hmore : ¬left ≤ 64 := Nat.not_le.mpr hleft
  have hmin : Nat.min 64 left = 64 := Nat.min_eq_left hleft.le
  simp only [State.takeFlit, hpart, if_neg hmore, hmin]

/-- The last payload flit delivers its packet. -/
theorem State.takeFlit_last {p : Packet} {left : Nat} (hpart : (s.link n).partialPkt = some (p, left)) (hleft : left ≤ 64) :
    s.takeFlit n f = (s.mapLink n (fun l => { l with rxSeq := (f.seq + 1) % 4096, partialPkt := none })).takePacket n
      { p with data := p.data ++ (flitBytes f.bits).take left } := by
  have hmin : Nat.min 64 left = left := Nat.min_eq_right hleft
  simp only [State.takeFlit, hpart, if_pos hleft, hmin]

end

/-! ### Acknowledgements, allowances and resync beats -/

section
variable (hn : n < 47)
include hn

theorem execFlitAcknowledgement_held {seq : Nat} (hheld : (s.link n).replay.any (fun p => p.1 == seq) = true) :
    exec (.flitAcknowledgement n seq) s =
      .next ((s.mapLink n (fun l => { l with replay := (l.replay.dropWhile (fun p => p.1 != seq)).drop 1 })).drainLink n).pumpTransit :=
  (if_neg (linkOk_of_lt hn)).trans (if_neg (by simp [hheld]))

theorem execFlitAcknowledgement_unknown {seq : Nat} (hgone : (s.link n).replay.any (fun p => p.1 == seq) = false) :
    exec (.flitAcknowledgement n seq) s = .next s :=
  (if_neg (linkOk_of_lt hn)).trans (if_pos (by simp [hgone]))

theorem execAllowanceReturn_good {pool : Nat} (cum : Half) (hpool : pool < 12) :
    exec (.allowanceReturn n pool cum true) s = .next (s.mapLink n (fun l => l.mapPool pool (fun p => p.give cum))).pumpTransit :=
  (if_neg (linkOk_of_lt hn)).trans (if_neg (by simp [hpool]))

theorem execAllowanceReturn_bad (pool : Nat) (cum : Half) : exec (.allowanceReturn n pool cum false) s = .next s :=
  (if_neg (linkOk_of_lt hn)).trans (if_pos rfl)

theorem execResyncBeatSend_notUp (hdown : (s.link n).state ≠ .up) : exec (.resyncBeatSend n) s = .next s :=
  (if_neg (linkOk_of_lt hn)).trans (if_pos (bne_iff_ne.mpr hdown))

theorem execResyncBeatSend_up (hup : (s.link n).state = .up) : exec (.resyncBeatSend n) s = .next (s.sendBeat n) :=
  (if_neg (linkOk_of_lt hn)).trans (if_neg (by simp [hup]))

theorem execResyncBeatReceive_notUp (dev plink : Nat) (cums : List Half) (hdown : (s.link n).state ≠ .up) :
    exec (.resyncBeatReceive n dev plink cums) s = .next s :=
  (if_neg (linkOk_of_lt hn)).trans (if_pos (bne_iff_ne.mpr hdown))

end

/-- The pools of a link once the count of pool `i` has come with a beat, the first one after a dark interval or a later one. -/
def poolsBy (first : Bool) (cums : List Half) (ps : Sparse Pool) (i : Nat) : Sparse Pool :=
  match cums[i]? with
  | none => ps
  | some c => Sparse.set {} ps i (if first then { Sparse.get {} ps i with sent := c, freed := c } else (Sparse.get {} ps i).give c)

/-- Steps that change nothing of a link but its pools change nothing of it but its pools. -/
theorem Link.foldl_pools {step : Link → Nat → Link} {g : Sparse Pool → Nat → Sparse Pool}
    (hstep : ∀ l i, step l i = { l with pools := g l.pools i }) (is : List Nat) (l : Link) :
    is.foldl step l = { l with pools := is.foldl g l.pools } := by
  induction is generalizing l with
  | nil => rfl
  | cons i is ih => rw [List.foldl_cons, ih, hstep, List.foldl_cons]

/-- What a beat that arrives makes of an UP link. -/
def State.beaten (s : State) (n dev plink : Nat) (cums : List Half) (l : Link) : Link :=
  let q := { l with peer := dev, plink := plink, resyncDue := false, pools := (List.range 12).foldl (poolsBy l.resyncDue cums) l.pools }
  if l.resyncDue ∧ s.occupied n = true then { q with state := .training, since := s.now } else q

theorem execResyncBeatReceive_up (hn : n < 47) (dev plink : Nat) (cums : List Half) (hup : (s.link n).state = .up) :
    exec (.resyncBeatReceive n dev plink cums) s = .next (s.mapLink n (s.beaten n dev plink cums)).pumpTransit := by
  refine (if_neg (linkOk_of_lt hn)).trans ((if_neg (by simp [hup])).trans ?_)
  refine congrArg (fun q : State => Host.Outcome.next q.pumpTransit) (State.mapLink_congr ?_)
  dsimp only
  rw [Link.foldl_pools (g := poolsBy (s.link n).resyncDue cums) (fun l i => ?_)]
  · rw [State.beaten]
    exact if_congr (by simp) rfl rfl
  · rw [poolsBy]
    cases cums[i]? with
    | none => rfl
    | some c => rfl

end

/-- Flits, acknowledgements, allowances and resync beats (14 R320, R324, R325, R335). -/
theorem flitsAndAllowances : Claims.FlitsAndAllowances := by
  intro s n hn
  refine ⟨fun f => ⟨fun hdown => execFlitReceive_notUp hn hdown, fun hup hbad => execFlitReceive_bad hn hup hbad,
      fun hup hgood hheld => execFlitReceive_held hn hup hgood hheld, fun hup hgood hnew => ?_⟩,
    fun seq hseq => (s.link n).holds_iff hseq, fun seq => ⟨fun hheld => execFlitAcknowledgement_held hn hheld,
      fun hgone => execFlitAcknowledgement_unknown hn hgone⟩,
    fun pool cum => ⟨fun hpool => execAllowanceReturn_good hn cum hpool, execAllowanceReturn_bad hn pool cum⟩,
    fun hdown => execResyncBeatSend_notUp hn hdown, fun hup => execResyncBeatSend_up hn hup,
    fun dev plink cums => ⟨fun hdown => execResyncBeatReceive_notUp hn dev plink cums hdown,
      fun hup => execResyncBeatReceive_up hn dev plink cums hup⟩⟩
  rw [execFlitReceive_new hn hup hgood hnew]
  refine ⟨fun hpart => ⟨fun hbad => ?_, fun hlisted hrsvd hpayload => ?_, fun hlisted hrsvd hwhole => ?_⟩,
    fun p left hpart => ⟨fun hleft => ?_, fun hleft => ?_⟩⟩
  · rw [State.takeFlit_badHeader hup hpart hbad]
  · rw [State.takeFlit_header hpart hlisted hrsvd, if_neg hpayload]
  · rw [State.takeFlit_header hpart hlisted hrsvd, if_pos hwhole]
  · rw [State.takeFlit_payload hpart hleft]
  · rw [State.takeFlit_last hpart hleft]

end Sys2Proof.Machine

/-! ### Training and routing (14 R315, R323, R325, R326) -/

namespace Sys2Proof.Machine

section
variable {s : State} {n : Nat}

/-- Steps that each change one link as it was leave every link changed at most once. `P` holds of the states in between. -/
theorem State.link_foldl {P : State → Prop} {step : State → Nat → State} {g : Nat → Link → Link} (hP : ∀ t k, P t → P (step t k))
    (hstep : ∀ t k m, P t → (step t k).link m = if k = m then g k (t.link k) else t.link m) {ks : List Nat} (hks : ks.Nodup) (hs : P s) :
    P (ks.foldl step s) ∧ ∀ m, (ks.foldl step s).link m = if m ∈ ks then g m (s.link m) else s.link m := by
  induction ks generalizing s with
  | nil => exact ⟨hs, fun m => (if_neg List.not_mem_nil).symm⟩
  | cons k ks ih =>
    obtain ⟨hfirst, hrest⟩ := List.nodup_cons.mp hks
    obtain ⟨hend, hlinks⟩ := ih hrest (hP s k hs)
    refine ⟨hend, fun m => (hlinks m).trans ?_⟩
    rw [hstep s k m hs]
    by_cases hk : k = m
    · subst hk
      simp [hfirst]
    · simp [hk, Ne.symm hk]

section
variable (hn : n < 47)
include hn

theorem execLinkRetrain_up (hup : (s.link n).state = .up) : exec (.linkRetrain n) s = .next (s.mapLink n (fun l => { l with
    state := .training, rtc := Nat.min 511 (l.rtc + 1), since := s.now })).pumpFabric := by
  rw [← State.mapLink_retrain hup]
  exact if_neg (linkOk_of_lt hn)

theorem execLinkLock_refused {peer plink : Nat} (hfar : s.farEnd n peer plink = false) : exec (.linkLock n peer plink) s = .next s :=
  (if_neg (linkOk_of_lt hn)).trans (if_pos (by simp [hfar]))

theorem execLinkLock_training {peer plink : Nat} (htraining : (s.link n).state = .training) (hfar : s.farEnd n peer plink = true) :
    exec (.linkLock n peer plink) s =
      .next (if (s.link n).resyncDue then
          ((s.mapLink n (fun l => { l with state := .up, peer := peer, plink := plink })).sendFrom n 0).sendBeat n
        else (s.mapLink n (fun l => { l with state := .up, peer := peer, plink := plink })).sendFrom n 0).echoDue.pumpFabric :=
  (if_neg (linkOk_of_lt hn)).trans (if_neg (by simp [htraining, hfar]))

theorem execLinkTrainingTimeout_early (hearly : s.now < (s.link n).since + 1200000) : exec (.linkTrainingTimeout n) s = .next s :=
  (if_neg (linkOk_of_lt hn)).trans (if_pos (by simp [hearly]))

theorem execLinkTrainingTimeout_late (htraining : (s.link n).state = .training) (hlate : (s.link n).since + 1200000 ≤ s.now) :
    exec (.linkTrainingTimeout n) s = .next (s.mapLink n Link.fail).pumpFabric :=
  (if_neg (linkOk_of_lt hn)).trans (if_neg (by simp [htraining, hlate]))

end

/-- A local link reaches one member of its bay, under one number (14 R315). -/
theorem State.farEnd_local (hn : n < 31) (peer plink : Nat) : s.farEnd n peer plink = true ↔ peer / 32 = s.dev / 32 ∧
    (n < s.dev % 32 → peer % 32 = n ∧ plink = s.dev % 32 - 1) ∧ (s.dev % 32 ≤ n → peer % 32 = n + 1 ∧ plink = s.dev % 32) := by
  rw [State.farEnd, if_pos hn, Bool.and_eq_true, decide_eq_true_eq, decide_eq_true_eq]
  by_cases hbelow : n < s.dev % 32
  · have hend : localEnd (s.dev % 32) n = (n, s.dev % 32 - 1) := by
      simp only [localEnd, if_pos hbelow, if_neg (Nat.not_lt.mpr hbelow.le)]
    rw [hend]
    omega
  · have hend : localEnd (s.dev % 32) n = (n + 1, s.dev % 32) := by
      simp only [localEnd, if_neg hbelow, if_pos (Nat.lt_succ_of_le (Nat.not_lt.mp hbelow))]
    rw [hend]
    omega

theorem execLinkTrainingRetry_early {c : Nat} (hc : s.trainedAt = some c) (hearly : s.now < c + 600000000) :
    exec .linkTrainingRetry s = .next s := by
  have hstays : s.trainedAt.any (fun c => decide (s.now < c + 600000000)) = true := by
    rw [hc, Option.any_some]
    exact decide_eq_true hearly
  change execLinkTrainingRetry s = _
  rw [execLinkTrainingRetry, if_pos hstays]

/-- What training, started on every link at once, makes of a link. -/
def State.retried (s : State) (n : Nat) (l : Link) : Link :=
  if l.state = .down ∧ (s.trainedAt = none ∨ Config.farEndAnswers n s.now = true) then { l with state := .training, since := s.now } else l

/-- Training is started on a link where its turn has come. -/
def State.retryOne (t : State) (k : Nat) : State :=
  if (t.link k).state = .down ∧ (t.trainedAt = none ∨ Config.farEndAnswers k t.now = true) then t.mapLink k (Link.train t.now) else t

theorem State.link_retryOne (t : State) (k m : Nat) : (t.retryOne k).link m = if k = m then t.retried k (t.link k) else t.link m := by
  rw [State.retryOne, State.retried]
  split
  · exact State.link_mapLink _ _ _ _
  · split
    · next hk => rw [hk]
    · rfl

/-- Training is started on every link, one after another. -/
theorem State.link_retryAll (s : State) (m : Nat) :
    ((List.range Config.links).foldl State.retryOne s).link m = if m < Config.links then s.retried m (s.link m) else s.link m := by
  have hlinks := State.link_foldl (s := s) (step := State.retryOne) (P := fun t => t.trainedAt = s.trainedAt ∧ t.now = s.now) (g := s.retried)
    (ks := List.range Config.links) ?_ ?_ List.nodup_range ⟨rfl, rfl⟩
  · simpa only [List.mem_range] using hlinks.2 m
  · intro t k ht
    rw [State.retryOne]
    split
    · exact ht
    · exact ht
  · intro t k m ⟨htrained, hnow⟩
    rw [State.link_retryOne, State.retried, State.retried, htrained, hnow]

theorem execLinkTrainingRetry_due (hdue : ∀ c, s.trainedAt = some c → c + 600000000 ≤ s.now) :
    ∃ s', exec .linkTrainingRetry s = .next s' ∧ s'.trainedAt = some s.now ∧ ∀ n, n < 47 → s'.link n = s.retried n (s.link n) := by
  have hgoes : ¬s.trainedAt.any (fun c => decide (s.now < c + 600000000)) = true := by
    rw [Option.any_eq_true]
    rintro ⟨c, hc, hearly⟩
    exact absurd (hdue c hc) (Nat.not_le.mpr (of_decide_eq_true hearly))
  have hexec : exec .linkTrainingRetry s = .next { (List.range Config.links).foldl State.retryOne s with trainedAt := some s.now } := by
    change execLinkTrainingRetry s = _
    rw [execLinkTrainingRetry, if_neg hgoes]
    rfl
  have hlinks := s.link_retryAll
  generalize (List.range Config.links).foldl State.retryOne s = t at hexec hlinks
  exact ⟨_, hexec, rfl, fun n hn => (hlinks n).trans (if_pos hn)⟩

theorem execEscapeTimeout_none {txn : Nat} (hnone : ∀ w ∈ s.transit, w.pkt.txn = txn → w.pkt.vc < 4 → s.now < w.since + 128) :
    exec (.escapeTimeout txn) s = .next s := by
  have hfind : s.transit.find? (fun w => w.pkt.txn == txn && decide (w.pkt.vc < 4) && decide (w.since + 128 ≤ s.now)) = none :=
    List.find?_eq_none.mpr fun w hw => by simpa using fun htxn hvc => hnone w hw htxn hvc
  change execEscapeTimeout txn s = _
  rw [execEscapeTimeout, hfind]

theorem State.endReconf_of_none (hnone : s.reconf = []) : s.endReconf = s := by
  rw [State.endReconf, hnone]
  rfl

/-- Without a reconfiguration a row keeps the escape link that is UP or TRAINING. -/
theorem State.writtenRow_of_none (hnone : s.reconf = []) (r : Route) : s.writtenRow r = { r with
    nonMinimal := r.nonMinimal.take 4
    escape := r.escape.filter (fun n => (s.link n).state == .up || (s.link n).state == .training) } := by
  simp [State.writtenRow, hnone]

theorem execRoutingTableRewrite_of_none (rs : List Route) (hnone : s.reconf = []) :
    exec (.routingTableRewrite rs) s = .next ({ s with routes := rs.map (fun r => { r with
      nonMinimal := r.nonMinimal.take 4
      escape := r.escape.filter (fun n => (s.link n).state == .up || (s.link n).state == .training) }) } : State).pumpFabric := by
  change execRoutingTableRewrite rs s = _
  rw [execRoutingTableRewrite, State.endReconf_of_none hnone, List.map_congr_left fun r _ => State.writtenRow_of_none hnone r]

end

/-- Training, routing and the routing table (14 R315, R323, R325, R326). -/
theorem linksTrainAndRoute : Claims.LinksTrainAndRoute := by
  intro s
  refine ⟨fun n hn hup => execLinkRetrain_up hn hup,
    fun n peer plink hn htraining => ⟨fun hfar => execLinkLock_refused hn hfar, fun hfar => execLinkLock_training hn htraining hfar⟩,
    fun n peer plink hn => State.farEnd_local hn peer plink,
    fun n hn htraining => ⟨fun hearly => execLinkTrainingTimeout_early hn hearly, fun hlate => execLinkTrainingTimeout_late hn htraining hlate⟩,
    fun c hc hearly => execLinkTrainingRetry_early hc hearly, fun hdue => execLinkTrainingRetry_due hdue,
    fun txn hnone => execEscapeTimeout_none hnone, fun txn w hw => ?_, fun rs hnone => execRoutingTableRewrite_of_none rs hnone⟩
  change execEscapeTimeout txn s = _
  rw [execEscapeTimeout, hw]

end Sys2Proof.Machine

/-! ### Reconfigurations (14 R326, R334, R335) -/

namespace Sys2Proof.Machine

/-! What a link sends in its sideband changes nothing else of it. -/

/-- A link apart from what its sideband does: whose turn it is, and whether a flit has gone out. -/
def Link.apart (l : Link) : Link := { l with turn := 0, sending := false }

/-- What a link has that its sideband leaves as it is. -/
theorem Link.eq_of_apart {l l' : Link} (h : l'.apart = l.apart) : l'.state = l.state ∧ l'.peer = l.peer ∧ l'.waymarks = l.waymarks ∧
    l'.echoed = l.echoed ∧ l'.replay = l.replay ∧ l'.drained = l.drained :=
  ⟨(congrArg Link.state h :), (congrArg Link.peer h :), (congrArg Link.waymarks h :), (congrArg Link.echoed h :), (congrArg Link.replay h :),
    (congrArg Link.drained h :)⟩

section
variable {s : State} {n : Nat}

theorem State.apart_sendSide (s : State) (n m : Nat) (flit : Option Nat) : ((s.sendSide n flit).link m).apart = (s.link m).apart := by
  refine (congrArg Link.apart (State.link_mapLink _ n m _)).trans ?_
  split
  · next hm =>
    rw [← hm]
    rfl
  · rfl

theorem State.apart_sendFlit (s : State) (n m seq : Nat) : ((s.sendFlit n seq).link m).apart = (s.link m).apart :=
  (State.apart_sendSide _ _ _ _).trans (State.apart_sendSide _ _ _ _)

theorem State.apart_sendFrom (s : State) (n k m : Nat) : ((s.sendFrom n k).link m).apart = (s.link m).apart := by
  have hfold : ∀ (l : List (Nat × Flit)) (s : State), ((l.foldl (fun s f => s.sendFlit n f.1) s).link m).apart = (s.link m).apart := by
    intro l
    induction l with
    | nil => exact fun _ => rfl
    | cons f l ih => exact fun s => (ih _).trans (s.apart_sendFlit n m f.1)
  rw [State.sendFrom]
  split
  · exact hfold _ s
  · rfl

theorem State.reconf_sendFrom (s : State) (n k : Nat) : (s.sendFrom n k).reconf = s.reconf := by
  have hfold : ∀ (l : List (Nat × Flit)) (s : State), (l.foldl (fun s f => s.sendFlit n f.1) s).reconf = s.reconf := by
    intro l
    induction l with
    | nil => exact fun _ => rfl
    | cons f l ih => exact fun s => (ih _).trans rfl
  rw [State.sendFrom]
  split
  · exact hfold _ s
  · rfl

/-! A mark goes out as one flit behind those that its link has not had acknowledged. -/

theorem State.apart_sendMark_of_ne {m : Nat} (hm : n ≠ m) (pool typ : Nat) : ((s.sendMark n pool typ).link m).apart = (s.link m).apart := by
  refine (State.apart_sendFrom _ n _ m).trans ?_
  rw [State.link_mapLink, if_neg hm]

/-- A flit that a link sends waits in its replay buffer. -/
theorem State.apart_queueFlits_one (s : State) (n : Nat) (w : BitVec 512) : ((s.queueFlits n [w]).link n).apart = ({ s.link n with
    txSeq := ((s.link n).txSeq + 1) % 4096
    replay := (s.link n).replay ++ [((s.link n).txSeq % 4096, mkFlit ((s.link n).txSeq % 4096) w)] } : Link).apart :=
  (State.apart_sendFrom _ n _ n).trans (congrArg Link.apart (State.link_mapLink_self s n _))

theorem State.link_sendMark (s : State) (n pool typ : Nat) :
    ((s.sendMark n pool typ).link n).state = (s.link n).state ∧ ((s.sendMark n pool typ).link n).peer = (s.link n).peer ∧
      ((s.sendMark n pool typ).link n).waymarks = (s.link n).waymarks ∧ ((s.sendMark n pool typ).link n).echoed = (s.link n).echoed ∧
      ((s.sendMark n pool typ).link n).drained = false := by
  obtain ⟨w, hlink⟩ : ∃ w, (s.sendMark n pool typ).link n = (s.queueFlits n [w]).link n := ⟨_, rfl⟩
  obtain ⟨hstate, hpeer, hwaymarks, hechoed, _, hdrained⟩ := Link.eq_of_apart (s.apart_queueFlits_one n w)
  rw [hlink]
  exact ⟨hstate, hpeer, hwaymarks, hechoed, hdrained.trans (by simp [Link.drained])⟩

theorem State.reconf_sendMark (s : State) (n pool typ : Nat) : (s.sendMark n pool typ).reconf = s.reconf := State.reconf_sendFrom _ _ _

/-- Marks that go out one after another: one packet of each pool to the far end. -/
theorem State.foldl_sendMark (s : State) (n typ : Nat) (pools : List Nat) :
    let t := pools.foldl (fun s pool => s.sendMark n pool typ) s
    t.reconf = s.reconf ∧ (t.link n).state = (s.link n).state ∧ (t.link n).waymarks = (s.link n).waymarks ∧
      ∃ ps, t.sentPackets = s.sentPackets ++ ps ∧ ps.map (fun p => p.op) = pools ∧ ∀ p ∈ ps, p.typ = typ ∧ p.dst = (s.link n).peer := by
  induction pools generalizing s with
  | nil => exact ⟨rfl, rfl, rfl, [], (List.append_nil _).symm, rfl, fun p hp => absurd hp List.not_mem_nil⟩
  | cons pool pools ih =>
    obtain ⟨hstate, hpeer, hwaymarks, _, _⟩ := s.link_sendMark n pool typ
    obtain ⟨hreconf', hstate', hwaymarks', ps, hsent, hops, hps⟩ := ih (s.sendMark n pool typ)
    refine ⟨hreconf'.trans (s.reconf_sendMark n pool typ), hstate'.trans hstate, hwaymarks'.trans hwaymarks, _ :: ps,
      hsent.trans (List.append_assoc _ [_] ps), ?_, ?_⟩
    · exact congrArg (pool :: ·) hops
    · intro p hp
      rcases List.mem_cons.mp hp with rfl | hp
      · exact ⟨rfl, rfl⟩
      · exact ⟨(hps p hp).1, (hps p hp).2.trans hpeer⟩

/-! ### A reconfiguration begins -/

theorem execOpticalReconfiguration_one (connect : List Nat) (hlow : 31 ≤ n) (hn : n < 47) :
    exec (.opticalReconfiguration [n] connect) s = .next (({ s with reconf := insertNat s.reconf n } : State).beginReconf connect n) := by
  have hok : linkOk n = true := decide_eq_true hn
  have hglobal : [n].filter (fun n => decide (31 ≤ n) && decide (n < Config.links)) = [n] :=
    List.filter_eq_self.mpr fun m hm => by
      rw [List.mem_singleton.mp hm]
      exact Bool.and_eq_true_iff.mpr ⟨decide_eq_true hlow, hok⟩
  have hfind : [n].find? (fun n => !linkOk n) = none := by simp [hok]
  change execOpticalReconfiguration [n] connect s = _
  simp only [execOpticalReconfiguration, hfind, hglobal]
  rfl

/-- A link that is DOWN or DARK has nothing to drain. -/
theorem State.beginReconf_idle (connect : List Nat) (hidle : (s.link n).state = .down ∨ (s.link n).state = .dark) :
    s.beginReconf connect n = s.mapLink n (fun l => Link.darken { l with reconf := true, settled := false, connect := connect.contains n }) := by
  have hlive : ((s.link n).state == .up || (s.link n).state == .training) = false := by
    rcases hidle with h | h <;> rw [h] <;> rfl
  simp only [State.beginReconf, hlive, Bool.not_false, if_true, Bool.false_eq_true, if_false]

theorem State.beginReconf_live (connect : List Nat) (hlive : (s.link n).state = .up ∨ (s.link n).state = .training) :
    s.beginReconf connect n = (List.range 12).foldl (fun s pool => s.sendMark n pool 0x20)
      (s.mapLink n (fun l => { l with reconf := true, settled := false, connect := connect.contains n, waymarks := List.range 12 })) := by
  have hlive : ((s.link n).state == .up || (s.link n).state == .training) = true := by
    rcases hlive with h | h <;> rw [h] <;> rfl
  simp only [State.beginReconf, hlive, Bool.not_true, Bool.false_eq_true, if_false, if_true]

/-- A link that is UP or TRAINING sends a waymark on each pool. -/
theorem execOpticalReconfiguration_live (connect : List Nat) (hlow : 31 ≤ n) (hn : n < 47)
    (hlive : (s.link n).state = .up ∨ (s.link n).state = .training) :
    ∃ s' ps, exec (.opticalReconfiguration [n] connect) s = .next s' ∧
      s'.reconf = insertNat s.reconf n ∧ (s'.link n).state = (s.link n).state ∧ (s'.link n).waymarks = List.range 12 ∧
      s'.sentPackets = s.sentPackets ++ ps ∧ ps.map (fun p => p.op) = List.range 12 ∧ ∀ p ∈ ps, p.typ = 0x20 ∧ p.dst = (s.link n).peer := by
  have hbegin := State.beginReconf_live (s := { s with reconf := insertNat s.reconf n }) (n := n) connect hlive
  obtain ⟨hreconf, hstate, hwaymarks, ps, hsent, hops, hps⟩ := State.foldl_sendMark (({ s with reconf := insertNat s.reconf n } : State).mapLink n
    (fun l => { l with reconf := true, settled := false, connect := connect.contains n, waymarks := List.range 12 })) n 0x20 (List.range 12)
  rw [State.link_mapLink_self] at hstate hwaymarks hps
  rw [execOpticalReconfiguration_one connect hlow hn, hbegin]
  exact ⟨_, ps, rfl, hreconf, hstate, hwaymarks, hsent, hops, hps⟩

/-! ### Waymarks -/

/-- A write to a map stands in it once, among what the map held. -/
theorem Sparse.put_split {α : Type} (m : Sparse α) (k : Nat) (v : α) :
    ∃ l r, Sparse.put m k v = l ++ (k, v) :: r ∧ (∀ x ∈ l, x ∈ m) ∧ ∀ x ∈ r, x ∈ m := by
  induction m with
  | nil => exact ⟨[], [], rfl, by simp, by simp⟩
  | cons p m ih =>
    obtain ⟨j, w⟩ := p
    rw [Sparse.put]
    split
    · exact ⟨[], (j, w) :: m, rfl, by simp, fun x hx => hx⟩
    · split
      · exact ⟨[], m, rfl, by simp, fun x hx => List.mem_cons_of_mem _ hx⟩
      · obtain ⟨l, r, hput, hl, hr⟩ := ih
        refine ⟨(j, w) :: l, r, congrArg ((j, w) :: ·) hput, fun x hx => ?_, fun x hx => List.mem_cons_of_mem _ (hr x hx)⟩
        rcases List.mem_cons.mp hx with rfl | hx
        · exact List.mem_cons_self
        · exact List.mem_cons_of_mem _ (hl x hx)

theorem Sparse.mem_of_find {α : Type} {m : Sparse α} {k : Nat} {v : α} (h : Sparse.find m k = some v) : (k, v) ∈ m := by
  induction m with
  | nil => exact absurd h nofun
  | cons p m ih =>
    obtain ⟨j, w⟩ := p
    rw [Sparse.find] at h
    split at h
    · next hj =>
      rw [← hj, ← Option.some.inj h]
      exact List.mem_cons_self
    · exact List.mem_cons_of_mem _ (ih h)

/-- Where no listed link has a waymark to echo, no link has. -/
theorem State.echoes_of_forall (hechoes : ∀ x ∈ s.links, x.2.echoes = []) (n : Nat) : (s.link n).echoes = [] := by
  rw [State.link, Sparse.get]
  cases hn : Sparse.find s.links n with
  | none => rfl
  | some v => exact hechoes (n, v) (Sparse.mem_of_find hn)

theorem State.drainLink_of_not (h : (s.link n).drained = false) : s.drainLink n = s := by
  rw [State.drainLink, h]
  rfl

/-- A link notes that the waymark of a pool is echoed. -/
def Link.echo (pool : Nat) (l : Link) : Link := { l with echoes := l.echoes.filter (fun q => q != pool), echoed := insertNat l.echoed pool }

/-- The waymarks that a link has taken are echoed where no packet waits in their buffers, and the link is DARK where it is drained. -/
def State.echoLink (s : State) (x : Nat × Link) : State :=
  (x.2.echoes.foldl (fun s pool =>
    if x.2.state != .up || s.transit.any (fun w => w.source == some (x.1, pool)) then s
    else (s.mapLink x.1 (Link.echo pool)).sendMark x.1 pool 0x21) s).drainLink x.1

theorem State.echoDue_eq (s : State) : s.echoDue = s.links.foldl State.echoLink s := rfl

/-- Nothing is echoed where no waymark has come and no link is drained. -/
theorem State.foldl_echoLink_quiet (hdrained : ∀ k, (s.link k).drained = false) {xs : List (Nat × Link)} (hxs : ∀ x ∈ xs, x.2.echoes = []) :
    xs.foldl State.echoLink s = s := by
  induction xs with
  | nil => rfl
  | cons x xs ih =>
    have hx : s.echoLink x = s := by
      rw [State.echoLink, hxs x List.mem_cons_self]
      exact State.drainLink_of_not (hdrained x.1)
    rw [List.foldl_cons, hx]
    exact ih fun y hy => hxs y (List.mem_cons_of_mem _ hy)

section
variable (hup : (s.link n).state = .up) (hechoes : ∀ x ∈ s.links, x.2.echoes = []) (hdrained : ∀ k, (s.link k).drained = false)
include hup hechoes

/-- A waymark that has come to an UP link stands alone among the links. -/
theorem State.links_marked (pool : Nat) : ∃ l r v,
    (s.mapLink n (fun l => { l with echoes := l.echoes ++ [pool] })).links = l ++ (n, v) :: r ∧ v.state = .up ∧ v.echoes = [pool] ∧
      (∀ x ∈ l, x.2.echoes = []) ∧ ∀ x ∈ r, x.2.echoes = [] := by
  have hnone : (s.link n).echoes = [] := State.echoes_of_forall hechoes n
  have hlisted : ({ s.link n with echoes := (s.link n).echoes ++ [pool] } : Link) ≠ {} := fun h => by
    have hdown := congrArg Link.state h
    exact absurd (hup.symm.trans hdown) (by decide)
  obtain ⟨l, r, hput, hl, hr⟩ := Sparse.put_split s.links n { s.link n with echoes := (s.link n).echoes ++ [pool] }
  exact ⟨l, r, _, (if_neg hlisted).trans hput, hup, by rw [hnone]; rfl, fun x hx => hechoes x (hl x hx), fun x hx => hechoes x (hr x hx)⟩

include hdrained

/-- A waymark that comes to an UP link is echoed once, where no packet waits in the buffers of its pool. -/
theorem State.takeWaymark_eq (pool : Nat) :
    let t := s.mapLink n (fun l => { l with echoes := l.echoes ++ [pool] })
    s.takeWaymark n pool = if s.transit.any (fun w => w.source == some (n, pool)) then t
      else (t.mapLink n (Link.echo pool)).sendMark n pool 0x21 := by
  intro t
  obtain ⟨l, r, v, hlinks, hvup, hvechoes, hl, hr⟩ := State.links_marked hup hechoes pool
  have ht : ∀ k, (t.link k).drained = false := fun k => by
    rw [State.link_mapLink]
    split
    · exact hdrained n
    · exact hdrained k
  have hone : t.echoLink (n, v) = State.drainLink (if v.state != .up || s.transit.any (fun w => w.source == some (n, pool)) then t
      else (t.mapLink n (Link.echo pool)).sendMark n pool 0x21) n := by
    rw [State.echoLink, hvechoes]
    rfl
  have hstays : (v.state != .up) = false := by rw [hvup]; rfl
  change t.echoDue = _
  rw [State.echoDue_eq, hlinks, List.foldl_append, State.foldl_echoLink_quiet ht hl, List.foldl_cons, hone, hstays, Bool.false_or]
  split
  · rw [State.drainLink_of_not (ht n)]
    exact State.foldl_echoLink_quiet ht hr
  · have hsent : ∀ k, (((t.mapLink n (Link.echo pool)).sendMark n pool 0x21).link k).drained = false := by
      intro k
      by_cases hk : n = k
      · rw [← hk]
        exact (State.link_sendMark _ n pool 0x21).2.2.2.2
      · obtain ⟨_, _, _, _, _, hsame⟩ := Link.eq_of_apart (State.apart_sendMark_of_ne (s := t.mapLink n (Link.echo pool)) hk pool 0x21)
        rw [hsame, State.link_mapLink, if_neg hk]
        exact ht k
    rw [State.drainLink_of_not (hsent n)]
    exact State.foldl_echoLink_quiet hsent hr

end

section
variable (hn : n < 47)
include hn

theorem execWaymark_notUp (pool : Nat) (hdown : (s.link n).state ≠ .up) : exec (.waymark n pool) s = .next s :=
  (if_neg (linkOk_of_lt hn)).trans (if_pos (bne_iff_ne.mpr hdown))

theorem execWaymark_up (pool : Nat) (hup : (s.link n).state = .up) : exec (.waymark n pool) s = .next (s.takeWaymark n pool) :=
  (if_neg (linkOk_of_lt hn)).trans (if_neg (by simp [hup]))

variable (hup : (s.link n).state = .up) (hechoes : ∀ x ∈ s.links, x.2.echoes = []) (hdrained : ∀ k, (s.link k).drained = false) {pool : Nat}
include hup hechoes hdrained

theorem execWaymark_waits (hwaits : s.transit.any (fun w => w.source == some (n, pool)) = true) :
    exec (.waymark n pool) s = .next (s.mapLink n (fun l => { l with echoes := l.echoes ++ [pool] })) := by
  rw [execWaymark_up hn pool hup, State.takeWaymark_eq hup hechoes hdrained pool, if_pos hwaits]

theorem execWaymark_echoes (hempty : s.transit.any (fun w => w.source == some (n, pool)) = false) :
    ∃ s' p, exec (.waymark n pool) s = .next s' ∧ (s'.link n).echoed = insertNat (s.link n).echoed pool ∧
      s'.sentPackets = s.sentPackets ++ [p] ∧ p.typ = 0x21 ∧ p.op = pool ∧ p.dst = (s.link n).peer := by
  have hgoes : ¬s.transit.any (fun w => w.source == some (n, pool)) = true := by simp [hempty]
  obtain ⟨_, _, _, hechoed, _⟩ := State.link_sendMark
    ((s.mapLink n (fun l => { l with echoes := l.echoes ++ [pool] })).mapLink n (Link.echo pool)) n pool 0x21
  rw [execWaymark_up hn pool hup, State.takeWaymark_eq hup hechoes hdrained pool, if_neg hgoes]
  refine ⟨_, _, rfl, ?_, rfl, rfl, rfl, ?_⟩
  · rw [hechoed, State.link_mapLink_self, State.link_mapLink_self]
    rfl
  · simp only [State.link_mapLink_self, Link.echo]

end

/-! ### Waymarks that come back, and links that are drained -/

section
variable {pool : Nat} (hn : n < 47) (hup : (s.link n).state = .up) (hreconf : (s.link n).reconf = true)
  (hwaymarks : (s.link n).waymarks = [pool])
include hn hup hreconf hwaymarks

theorem execWaymarkEcho_last : exec (.waymarkEcho n pool) s = .next ((s.mapLink n (fun l => { l with waymarks := [] })).drainLink n) := by
  have hgoes : ¬(!(s.link n).reconf || (s.link n).state != .up) = true := by simp [hreconf, hup]
  have hnone : [pool].filter (fun x => x != pool) = [] := by simp
  change execWaymarkEcho n pool s = _
  rw [execWaymarkEcho, if_neg (linkOk_of_lt hn)]
  refine congrArg Host.Outcome.next ((if_neg hgoes).trans ?_)
  refine congrArg (fun q : State => q.drainLink n) (State.mapLink_congr ?_)
  rw [hwaymarks, hnone]

/-- With its last waymark a link that has echoed those of the far end, and whose flits are acknowledged, is DARK. -/
theorem execWaymarkEcho_drained (hsettled : (s.link n).settled = false) (hechoed : ∀ k < 12, k ∈ (s.link n).echoed)
    (hreplay : (s.link n).replay = []) :
    ∃ s', exec (.waymarkEcho n pool) s = .next s' ∧ (s'.link n).state = .dark ∧ (s'.link n).replay = [] ∧
      ∀ x ∈ (s'.link n).pools, x.2.freed = x.2.sent := by
  have hdrained : ((s.mapLink n (fun l => { l with waymarks := [] })).link n).drained = true := by
    rw [State.link_mapLink_self]
    simpa [Link.drained, hreconf, hsettled, hup, hreplay] using hechoed
  rw [execWaymarkEcho_last hn hup hreconf hwaymarks, State.drainLink, if_pos hdrained]
  refine ⟨_, rfl, ?_⟩
  rw [State.link_mapLink_self]
  refine ⟨rfl, rfl, fun x hx => ?_⟩
  obtain ⟨y, _, rfl⟩ := List.mem_map.mp hx
  rfl

theorem execWaymarkEcho_waits (hwaits : (∃ k < 12, k ∉ (s.link n).echoed) ∨ (s.link n).replay ≠ []) :
    exec (.waymarkEcho n pool) s = .next (s.mapLink n (fun l => { l with waymarks := [] })) := by
  have hdrained : ((s.mapLink n (fun l => { l with waymarks := [] })).link n).drained = false := by
    rw [State.link_mapLink_self]
    rcases hwaits with ⟨k, hk, hmissing⟩ | hreplay
    · have hall : (List.range 12).all (fun q => (s.link n).echoed.contains q) = false :=
        List.all_eq_false.mpr ⟨k, List.mem_range.mpr hk, by simpa using hmissing⟩
      simp only [Link.drained, hall, Bool.and_false, Bool.false_and]
    · simp [Link.drained, hreplay]
  rw [execWaymarkEcho_last hn hup hreconf hwaymarks, State.drainLink_of_not hdrained]

end

/-! ### The switches have settled -/

/-- A link that waits for the switches settles with them. -/
def State.settleOne (t : State) (k : Nat) : State := if (t.link k).waitsSwitch then t.mapLink k (Link.settle t.now) else t

/-- What the settling of the switches makes of a link. -/
def Link.afterSettling (now : Nat) (l : Link) : Link := if l.waitsSwitch then l.settle now else l

theorem State.link_settleOne (t : State) (k m : Nat) : (t.settleOne k).link m = if k = m then (t.link k).afterSettling t.now else t.link m := by
  rw [State.settleOne, Link.afterSettling]
  split
  · exact State.link_mapLink _ _ _ _
  · split
    · next hk => rw [hk]
    · rfl

/-- The links settle one after another; the ends of the dark intervals stay as they are. -/
theorem State.settleAll (s : State) (ks : Nat) : ((List.range ks).foldl State.settleOne s).darkEnds = s.darkEnds ∧
    ∀ m, ((List.range ks).foldl State.settleOne s).link m = if m < ks then (s.link m).afterSettling s.now else s.link m := by
  have hlinks := State.link_foldl (s := s) (step := State.settleOne) (P := fun t => t.darkEnds = s.darkEnds ∧ t.now = s.now)
    (g := fun _ => Link.afterSettling s.now) (ks := List.range ks) ?_ ?_ List.nodup_range ⟨rfl, rfl⟩
  · exact ⟨hlinks.1.1, by simpa only [List.mem_range] using hlinks.2⟩
  · intro t k ht
    rw [State.settleOne]
    split
    · exact ht
    · exact ht
  · intro t k m ⟨_, hnow⟩
    rw [State.link_settleOne, hnow]

/-- The dark interval of a peer ends where a route to it crosses a link that waits for the switches. -/
theorem foldl_darkEnds {crosses : Route → Bool} {dev now : Nat} {rs : List Route} {m : Sparse Nat}
    (h : Sparse.get 0 m dev = now ∨ ∃ r ∈ rs, crosses r = true ∧ r.dev = dev) :
    Sparse.get 0 (rs.foldl (fun m r => if crosses r then Sparse.set 0 m r.dev now else m) m) dev = now := by
  induction rs generalizing m with
  | nil => exact h.resolve_right fun ⟨r, hr, _⟩ => absurd hr List.not_mem_nil
  | cons x rs ih =>
    refine ih ?_
    have hkept : Sparse.get 0 m dev = now → Sparse.get 0 (if crosses x then Sparse.set 0 m x.dev now else m) dev = now := fun hm => by
      split
      · rw [Sparse.get_set]
        split
        · rfl
        · exact hm
      · exact hm
    rcases h with hm | ⟨r, hr, hcross, hdev⟩
    · exact .inl (hkept hm)
    · rcases List.mem_cons.mp hr with rfl | hr
      · refine .inl ?_
        refine (congrArg (fun m => Sparse.get 0 m dev) (if_pos hcross)).trans ?_
        rw [Sparse.get_set, if_pos hdev]
      · exact .inr ⟨r, hr, hcross, hdev⟩

theorem State.noteDarkEnd_darkEnds {r : Route} (hr : r ∈ s.routes) (hcross : ∃ k ∈ routeLinks r, (s.link k).waitsSwitch = true) :
    Sparse.get 0 s.noteDarkEnd.darkEnds r.dev = s.now + 1 :=
  foldl_darkEnds (crosses := fun r => (routeLinks r).any (fun n => (s.link n).waitsSwitch)) (.inr ⟨r, hr, List.any_eq_true.mpr hcross, rfl⟩)

theorem Link.waitsSwitch_iff (l : Link) : l.waitsSwitch = true ↔ l.reconf = true ∧ (l.state = .dark ∨ l.state = .down) := by
  simp [Link.waitsSwitch]

theorem execSwitchSettled_effect (s : State) : ∃ s', exec .switchSettled s = .next s' ∧
    (∀ r ∈ s.routes, (∃ k ∈ routeLinks r, k < 47 ∧ (s.link k).waitsSwitch = true) → Sparse.get 0 s'.darkEnds r.dev = s.now + 1) ∧
    ∀ n, n < 47 → s'.link n = (s.link n).afterSettling s.now := by
  have hexec : exec .switchSettled s = .next ((List.range Config.links).foldl State.settleOne s.noteDarkEnd) := rfl
  obtain ⟨hdark, hlinks⟩ := s.noteDarkEnd.settleAll Config.links
  generalize (List.range Config.links).foldl State.settleOne s.noteDarkEnd = t at hexec hdark hlinks
  refine ⟨t, hexec, fun r hr ⟨k, hk, _, hwaits⟩ => ?_, fun n hn => (hlinks n).trans (if_pos hn)⟩
  rw [hdark]
  exact State.noteDarkEnd_darkEnds hr ⟨k, hk, hwaits⟩

/-- The rewrite of the tables ends the part of a link that trains no longer. -/
theorem State.endReconf_one (hone : s.reconf = [n]) (hsettled : (s.link n).settled = true) (hstate : (s.link n).state ≠ .training) :
    s.endReconf = ({ s with reconf := [] } : State).mapLink n (fun l => { l with reconf := false, settled := false }) := by
  have hends : ((s.link n).settled && (s.link n).state != .training) = true := by simp [hsettled, hstate]
  have hnone : s.reconf.filter (fun m => m != n) = [] := by simp [hone]
  rw [State.endReconf, hone]
  refine (if_pos hends).trans ?_
  rw [hnone]

end

/-- Reconfigurations from their beginning to the rewrite of the tables (14 R326, R334, R335). -/
theorem reconfigurationDrainsLinks : Claims.ReconfigurationDrainsLinks := by
  intro s
  refine ⟨fun n connect hlow hn hidle => ?_, fun n connect hlow hn hlive => execOpticalReconfiguration_live connect hlow hn hlive,
    fun n pool hn hup hechoes hdrained => ⟨fun hempty => execWaymark_echoes hn hup hechoes hdrained hempty,
      fun hwaits => execWaymark_waits hn hup hechoes hdrained hwaits⟩,
    fun n pool hn hdown => execWaymark_notUp hn pool hdown,
    fun n pool hn hup hreconf hsettled hwaymarks =>
      ⟨fun hechoed hreplay => execWaymarkEcho_drained hn hup hreconf hwaymarks hsettled hechoed hreplay,
      fun hwaits => execWaymarkEcho_waits hn hup hreconf hwaymarks hwaits⟩, ?_, fun n rs hone hsettled hstate => ?_⟩
  · rw [execOpticalReconfiguration_one connect hlow hn, State.beginReconf_idle (s := { s with reconf := insertNat s.reconf n }) connect hidle]
    rfl
  · obtain ⟨s', hexec, hdark, hlinks⟩ := execSwitchSettled_effect s
    refine ⟨s', hexec, hdark, fun n hn => (hlinks n hn).trans ?_⟩
    exact if_congr (s.link n).waitsSwitch_iff rfl rfl
  · change execRoutingTableRewrite rs s = _
    rw [execRoutingTableRewrite, State.endReconf_one hone hsettled hstate]

/-- Settles O43: flits and allowances, then training and routing, then reconfigurations. -/
theorem linksCarryFlitsAndTrain : Obligations.LinksCarryFlitsAndTrain :=
  ⟨flitsAndAllowances, linksTrainAndRoute, reconfigurationDrainsLinks⟩

end Sys2Proof.Machine
